-- ==== Sys2Proof/Word.lean ====
section
/-! DEFINITION. The word types of the K9 (R2) and the sparse tables every array of the machine is held in. -/
namespace Sys2Proof

/-- n8: a byte. -/
abbrev Byte := BitVec 8
/-- n16. -/
abbrev W16 := BitVec 16
/-- n32: a code word, a lane mask, a word index of code. -/
abbrev W32 := BitVec 32
/-- n64: a scalar register, one lane of a vector register, a pointer. -/
abbrev W64 := BitVec 64
/-- A run of bytes, lowest address first (R2: little-endian). -/
abbrev Bytes := List Byte
/-- One run of bytes for each contributing rank (R203). -/
abbrev Parts := List Bytes

/-- Whose access an error is about: a ply, its strand and its fragment, 0xFF where no one fragment is known (R361). -/
structure Maker where
  ply : Nat
  strand : Nat
  frag : Nat
  deriving DecidableEq, Repr, Inhabited

/-- What a host request is addressed to, and the host port it came on: B where port is set (R13, R327). -/
structure PortNum where
  port : Bool
  num : Nat
  deriving DecidableEq, Repr, Inhabited

/-- An access to a doorbell page: whether it came on the IDE stream, and the value of a write; a read has none (R267, R337). -/
structure DoorbellOp where
  ide : Bool
  write : Option W64
  deriving DecidableEq, Repr, Inhabited

/-- An offset in the aperture; an access held for a wake names the device and the GiB it was aimed at when it came (R332). -/
structure AperturePlace where
  off : Nat
  region : Option (Nat × Nat)
  deriving DecidableEq, Repr, Inhabited

/-- An offset in an export window, and the L2 policy that the access states (R64, R335). -/
structure WindowPlace where
  off : Nat
  policy : Nat
  deriving DecidableEq, Repr, Inhabited

/-- A sparse array: (index, value) pairs, indices strictly rising. What an unlisted index holds is said where the
table is read. -/
abbrev Tab (α : Type) := List (Nat × α)
/-- Bytes by address; an unlisted address reads as zero. -/
abbrev Mem := Tab Byte

end Sys2Proof
end

