-- ==== Sys2Proof/Config.lean ====
section
/-! DEFINITION. What the part fixes, and the free values: constants without a body, of which nothing can be proved. -/
namespace Sys2Proof

/-! ## Numbers of the part (R6, R7, R9, R14) -/

/-- Active cores of a die. -/
def Config.coresPerDie : Nat := 36
/-- Cores of a bay. -/
def Config.coresPerBay : Nat := 4
/-- Bays of a die. -/
def Config.baysPerDie : Nat := 9
/-- Compute dies. -/
def Config.dies : Nat := 8
/-- Scratch bytes of a core. -/
def Config.scratchBytes : Nat := 655360
/-- Entries of a store log, and of its extension. -/
def Config.logEntries : Nat := 1024
def Config.extEntries : Nat := 8192
/-- Granules of an undo journal. -/
def Config.journalGranules : Nat := 512
/-- Sectors of an L1, sectors of a home slice. -/
def Config.l1Sectors : Nat := 2048
def Config.sliceSectors : Nat := 32768
/-- Published sectors that a bay keeps (R244); reaching it costs time only. [DESIGN CHOICE: log 76] -/
def Config.bayRecords : Nat := 4096
/-- TLB entries of a core and of a die (R258). -/
def Config.utlbEntries : Nat := 64
def Config.dieTlbEntries : Nat := 16384

/-! ## Free values: each is applied to a plain counter of State or to what it depends on -/

/-- Which of the n things that may happen next happens, at draw number d. [DESIGN CHOICE: log 14, 25, 56] -/
opaque Config.choice : Nat → Nat → Nat
/-- nJ that a core has used in a period, at a draw number, for its plies' issue opportunities (R340). [DESIGN CHOICE: log 12] -/
opaque Config.coreEnergy : Nat → Nat → Nat
/-- nJ that home slices, HBM, weight store and links have used in a period, at a draw number (R340). [DESIGN CHOICE: log 12] -/
opaque Config.sharedEnergy : Nat → Nat
/-- Special functions: function number, operand bits, and the result bits that the unit gives within its bound (R169). [DESIGN CHOICE: log 24] -/
opaque Config.sfu : Nat → W64 → W64
/-- The ray-triangle test: a fixed function of the ray (8 f32) and the triangle (9 f32): hit, t, u, v, front (R225). [DESIGN CHOICE: log 35] -/
opaque Config.rayTriangle : List W32 → List W32 → Bool × W32 × W32 × W32 × Bool
/-- Which way round an edge belongs to the triangle that a ray through it hits (R225). [DESIGN CHOICE: log 35] -/
opaque Config.edgeOwner : List W32 → Int × Int × Int → Int × Int × Int → Bool
/-- The ray-box test: whether a ray (8 f32) enters a box (6 f32) (R225). [DESIGN CHOICE: log 35] -/
opaque Config.rayBox : List W32 → List W32 → Bool
/-- The order in which the merged steps of a floating-point RED group are taken (R105). [DESIGN CHOICE: log 25] -/
opaque Config.redOrder : Nat → Nat
/-- Measurement registers 0-7, identity signature of a report, certificate chain (R338, R339). [DESIGN CHOICE: log 12] -/
opaque Config.measurement : Nat → Bytes
opaque Config.signature : Bytes → Bytes
opaque Config.certificates : Bytes
/-- The images verify at reset (R338). [DESIGN CHOICE: log 2] -/
opaque Config.imagesVerify : Bool
/-- The links that the ports train with what is plugged in, as (first port, lanes), and the route entry of index i of I/O die d as
number 1024 d + i (R333, R334, R342). [DESIGN CHOICE: log 10] -/
opaque Config.links : List (Nat × Nat)
opaque Config.route : Nat → Option Nat
/-- How far the %clock that a core reads runs ahead of the package's count; taken modulo 5, since reads of two cores differ by at most 4 (R55).
[DESIGN CHOICE: log 18] -/
opaque Config.clockSkew : Nat → Nat
/-- A core's fused supply, as mV above 320 taken modulo 101 (R18, R351). [DESIGN CHOICE: log 12] -/
opaque Config.fusedTrim : Nat → Nat
def Config.fusedSupply (c : Nat) : Nat := 320 + Config.fusedTrim c % 101
/-- The way of its slice that holds a sector, the row of an HBM or weight-store sector, and the rows that a die's HBM stacks can repair (R400, R401). -/
opaque Config.l2Way : Nat → Nat
/-- The row of an HBM sector, by stack, bank, row group and place in the row group (R297). -/
opaque Config.hbmRow : Nat → Nat → Nat → Nat → Nat
opaque Config.wsRow : Nat → Nat
opaque Config.hbmSpareRows : Nat → Nat
/-- Clocks that a management command takes, within its bound (R331). [DEDUCED: log 61] -/
opaque Config.commandTime : Nat → Nat
/-- The byte of a saved context at an offset of a device's reserved region, after its n-th save; none where no context lies (R49, R302).
[DESIGN CHOICE: log 73] -/
opaque Config.contextByte : Nat → Nat → Nat → Option Byte
/-- What an intersection unit or an engine without a stated value leaves: a byte that no rule gives. -/
opaque Config.freeByte : Nat → Byte
/-- A word that no rule gives, at draw number d. -/
opaque Config.freeWord : Nat → W64

end Sys2Proof
end

