-- ==== Sys2Proof/Syntax.lean ====
section
/-! DEFINITION. Every row of the table of operations and events, one constructor each. An instruction carries the operand
fields of its word (R114, R116), named as the table letters them; the chain bit is no part of an instruction. An event carries
what names its occurrence: the ply, strand and fragment, the queue, the job or the bytes that come from outside. -/
namespace Sys2Proof

/-- The steps of the part: 106 events without an encoding, then 271 instructions with one. -/
inductive Instr where
  /-- MMA_COMPLETE (R212): An MMA finishes writing its tile and ORs its flags into %fpst. -/
  | mmaComplete (id : Nat)
  /-- INTERSECTION_RESULT (R222): The bay's intersection unit returns a query's results to the lanes. -/
  | intersectionResult (id : Nat)
  /-- EMIT_STALL_RESUME (R315): A stalled EMIT claims slots once the buffer has room. -/
  | emitStallResume (p : Nat) (s : Nat) (f : Nat)
  /-- EMIT_STALL_TIMEOUT (R315): A stalled EMIT times out and gives its lanes status 2. -/
  | emitStallTimeout (p : Nat) (s : Nat) (f : Nat)
  /-- VACQ_WAIT_END (R51): A waiting VACQ.W gets its blocks or its 4,096 clocks expire. -/
  | vacqWaitEnd (p : Nat) (s : Nat) (f : Nat)
  /-- HOME_ATOMIC (R11): A home router performs an atomic or merged RED request. -/
  | homeAtomic (id : Nat)
  /-- BWAIT_WAKE (R205): A parked BWAIT wakes on phase completion or a broken flag. -/
  | bwaitWake (p : Nat) (s : Nat) (f : Nat)
  /-- CTRY_REREAD (R206): A parked CTRY re-reads its counter. -/
  | ctryReread (p : Nat) (s : Nat) (f : Nat)
  /-- CTRY_TIMEOUT (R206): A parked CTRY's 2,048 clocks expire and it writes 0. -/
  | ctryTimeout (p : Nat) (s : Nat) (f : Nat)
  /-- COMMIT (R44): When all strands arrive, the ply commits its interval and snapshots state. -/
  | commit (p : Nat)
  /-- PLY_EXIT (R148): The last strand's exit commits, waits, drains, releases and frees the ply. -/
  | plyExit (p : Nat)
  /-- LOG_DRAIN (R238): An ordinary log entry drains to its home slice. -/
  | logDrain (core : Nat) (serial : Nat)
  /-- RESERVATION_EXPIRY (R138): A reservation is lost 16,384 clocks after its SLR.D. -/
  | reservationExpiry (p : Nat) (s : Nat) (f : Nat)
  /-- TRANSFER_START (R198): The copy unit or engine reads records and checks a transfer before moving bytes. -/
  | transferStart (id : Nat)
  /-- LANDING_REPORT (R197): A landed report unit adds its bytes to the barrier object. -/
  | landingReport (id : Nat) (unit : Nat)
  /-- TRANSFER_COMPLETE (R195): A transfer finishes its writes, releases and posts its completion. -/
  | transferComplete (id : Nat)
  /-- TRANSFER_PAUSE (R382): A transfer meets a translation fault and pauses at the chunk. -/
  | transferPause (id : Nat)
  /-- RATOM_REPLY (R201): A remote atomic's reply is written to its slot and its counter is added. -/
  | ratomReply (id : Nat) (old : W64) (status : Nat)
  /-- COLLECTIVE_COMPLETE (R203): The collective engine combines and writes results and adds counters. -/
  | collectiveComplete (id : Nat) (contrib : Parts)
  /-- COLLECTIVE_LOSS (R399): A collective loses a member or times out and fails. -/
  | collectiveLoss (id : Nat)
  /-- TIMING_REPLAY (R348): A late transition repeats a cycle at half clock. -/
  | timingReplay (core : Nat) (again : Bool)
  /-- ROLLBACK (R354): Returns a protected ply to its last commit and replays it. -/
  | rollback (p : Maker) (cls : Nat) (cause : Nat) (lanes : W32) (addr : W64)
  /-- CONTAINMENT (R358): Kills the ply and frees its resources. -/
  | containment (p : Maker) (cls : Nat) (cause : Nat) (lanes : W32) (addr : W64)
  /-- CORRECTED_COUNT_REPORT (R351): At the end of a 2^26-clock period, counts are recorded and trim adjusted. -/
  | correctedCountReport
  /-- VACATE (R48): The arbiter asks a skein's cores to vacate and save contexts. -/
  | vacate (k : Nat)
  /-- VACATE_TIMEOUT (R48): A protected ply's 65,536-clock run-on expires and it rolls back. -/
  | vacateTimeout (k : Nat)
  /-- PLACEMENT (R279): On a bay or energy change, the arbiter places or restores pending skeins. -/
  | placement
  /-- REEL_COMPLETE (R278): Every skein of a reel's part has exited or been killed. -/
  | reelComplete (r : Nat)
  /-- COMPLETION_TAIL (R274): Writes status, releases, updates the signal and sends MSI-X. -/
  | completionTail (job : Nat)
  /-- DOORBELL (R267): A host doorbell write advances a queue's write index. -/
  | doorbell (fn : PortNum) (q : Nat) (value : DoorbellOp)
  /-- SIGNAL_ADD (R285): SIGNAL packet adds to a signal. -/
  | signalAdd (q : Nat)
  /-- SIGNAL_SET (R285): SIGNAL packet sets a signal. -/
  | signalSet (q : Nat)
  /-- WAIT (R287): WAIT packet tests a signal and parks the queue if unmet. -/
  | wait (q : Nat)
  /-- WAIT_TIMEOUT (R287): A parked WAIT's timeout expires and it writes status 1. -/
  | waitTimeout (q : Nat)
  /-- PARKED_RETEST_TICK (R288): Every 65,536 clocks each command core re-tests its parked queues. -/
  | parkedRetestTick (cc : Nat)
  /-- INVAL_TRANSLATION (R262): INVAL packet invalidates translations of a range. -/
  | invalTranslation (job : Nat)
  /-- INVAL_CODE (R289): INVAL packet drops entry buffers, descriptor cache and fetched code. -/
  | invalCode (job : Nat)
  /-- INVAL_STAGED (R289): INVAL packet removes overlapping staged-range entries. -/
  | invalStaged (job : Nat)
  /-- REPLAY_RESUME (R378): REPLAY packet resumes a parked fragment or paused transfer. -/
  | replayResume (q : Nat)
  /-- REPLAY_KILL (R378): REPLAY packet kills the parked ply. -/
  | replayKill (q : Nat)
  /-- DISPATCH (R276): Checks a descriptor, stages the working set and passes skeins to the arbiter. -/
  | dispatch (q : Nat)
  /-- DISPATCH_ROLE (R275): DISPATCH with role fields replaced for this launch. -/
  | dispatchRole (q : Nat)
  /-- DRAW (R306): Launches a render pass reel on a class-3 queue. -/
  | draw (q : Nat)
  /-- MESH_SKEIN_LAUNCH (R317): A linked mesh DRAW launches a skein as records commit. -/
  | meshSkeinLaunch (r : Nat)
  /-- COND (R290): Waits for earlier packets, tests a counter and skips packets. -/
  | cond (q : Nat)
  /-- STAGE (R291): Copies a range into the weight-store share inside the gate. -/
  | stage (q : Nat)
  /-- STAGING_GATE (R283): Once no skein runs and no window is open, the gate writes the weight store. -/
  | stagingGate (id : Nat)
  /-- STAGING_VACATE_TIMEOUT (R283): After 100 µs the gate asks running skeins to vacate. -/
  | stagingVacateTimeout (id : Nat)
  /-- COPY (R291): COPY packet copies bytes with system-scope ordering. -/
  | copy (q : Nat)
  /-- COPY_FILL (R291): COPY packet fills bytes with a pattern. -/
  | copyFill (q : Nat)
  /-- CKPT_SAVE (R407): Saves shards into the alternate checkpoint slot when due. -/
  | ckptSave (q : Nat)
  /-- CKPT_RESTORE (R409): Restores shards from a valid checkpoint slot. -/
  | ckptRestore (q : Nat)
  /-- CKPT_ARM_CAPTURE (R410): Arms capture of the next rollbacks of the queue's plies. -/
  | ckptArmCapture (q : Nat)
  /-- INTERVAL_CAPTURE (R410): A captured ply's rollback writes its context and shards to a slot. -/
  | intervalCapture (p : Nat)
  /-- CKPT_RERUN (R411): Re-runs a captured interval and writes its log entries. -/
  | ckptRerun (q : Nat)
  /-- VDEV_COLLAPSE (R303): Collapses the virtual device to a wake class. -/
  | vdevCollapse (q : Nat)
  /-- VDEV_SET_ENERGY_SHARE (R291): Writes the energy account's refill and cap. -/
  | vdevSetEnergyShare (q : Nat)
  /-- PACKET_NOP (R291): NOP packet, completing after earlier packets under BARRIER. -/
  | packetNop (q : Nat)
  /-- WAKE (R305): A wake write wakes a collapsed device or abandons a collapse. -/
  | wake (v : Nat)
  /-- REFRESH_WINDOW_OPEN (R295): A die's weight-store refresh window opens. -/
  | refreshWindowOpen (d : Nat)
  /-- REFRESH_WINDOW_CLOSE (R295): A refresh window closes after 2,820 clocks. -/
  | refreshWindowClose (d : Nat)
  /-- ENERGY_PERIOD (R281): Every 1,024 clocks metered energy is charged and balance refilled. -/
  | energyPeriod
  /-- CREATE (R301): Management command creating a virtual device from a record. -/
  | create (v : Nat)
  /-- DESTROY (R331): Management command destroying a virtual device. -/
  | destroy (v : Nat)
  /-- SET_ACCOUNT (R331): Management command writing the energy account. -/
  | setAccount (v : Nat)
  /-- WRITE_PROCESS_GROUP_ENTRY (R331): Management command writing a process-group entry. -/
  | writeProcessGroupEntry (v : Nat)
  /-- SET_TRANSLATION_ROOT (R331): Management command setting the translation root. -/
  | setTranslationRoot (v : Nat)
  /-- ATTEST (R339): Writes a signed attestation report and certificate chain. -/
  | attest
  /-- COMMAND_DONE (R331): A management command finishes and RESULT is set, clearing BUSY. -/
  | commandDone
  /-- PLIMIT (R330): Write of the package power limit, clamped to 1,000–4,800 W. -/
  | plimit (value : W64)
  /-- QUEUE_STATE_WRITE (R266): A write of Idle to a queue's STATE checks the entry and sets WIDX to RIDX. -/
  | queueStateWrite (q : Nat) (value : W64)
  /-- INJECTION_ARM (R403): Write of INJB with ARM arms a one-shot error injection. -/
  | injectionArm (value : W64)
  /-- REGISTER_WRITE (R4): A write to a register field without behaviour of its own. -/
  | registerWrite (off : Nat) (value : W64)
  /-- APERTURE_ACCESS (R332): A host access through the reserved-region aperture of PF0. -/
  | apertureAccess (wr : Bool) (off : AperturePlace) (len : Nat) (data : Bytes)
  /-- VF_BAR2_ACCESS (R327): A host access to a VF's device virtual space. -/
  | vfBar2Access (vf : PortNum) (ide : Bool) (wr : Bool) (off : Nat) (len : Nat) (data : Bytes)
  /-- HOST_WRITE (R249): An inbound host write is performed at the home. -/
  | hostWrite (v : Nat) (pa : Nat) (data : Bytes)
  /-- HOST_READ (R249): An inbound host read reads the home. -/
  | hostRead (v : PortNum) (pa : Nat) (len : Nat)
  /-- ATS_INVALIDATE_REQUEST (R262): An ATS invalidation removes host translations and is completed. -/
  | atsInvalidateRequest (tag : Nat) (pasid : Nat) (va : W64) (size : Nat)
  /-- PRG_RESPONSE_SUCCESS (R380): The device re-translates and resumes the faulting group. -/
  | prgResponseSuccess (group : Nat)
  /-- PRG_RESPONSE_INVALID (R380): The faulting lanes or chunk go to the fault queue. -/
  | prgResponseInvalid (group : Nat)
  /-- PRG_RESPONSE_FAILURE (R380): Every outstanding request of the function goes to the fault queue. -/
  | prgResponseFailure (fn : Nat)
  /-- FLR (R329): A function level reset stops the virtual devices it serves. -/
  | flr (fn : Nat)
  /-- PACKAGE_RESET (R342): PERST# or power-on resets, verifies, trains and clears the package. -/
  | packageReset
  /-- PEER_REQUEST (R335): A tag-5 request from a peer is checked and performed at this package. -/
  | peerRequest (src : Nat) (dst : Nat) (v : Nat) (req : Nat) (kind : Nat) (off : WindowPlace) (len : Nat) (op : Nat) (data : Bytes)
  /-- PEER_LOAD_TIMEOUT (R335): A peer load waits 65,536 clocks and returns unreachable. -/
  | peerLoadTimeout (id : Nat)
  /-- LINK_REPLAY (R395): A flit fails its CRC or acknowledgement and is sent again. -/
  | linkReplay (port : Nat)
  /-- LINK_RETRAIN (R396): A link retrains and narrows to the half without a failed lane. -/
  | linkRetrain (port : Nat) (lane : Nat)
  /-- SPARE_LANE_RETRAIN (R397): One second after narrowing a link retrains with a spare lane. -/
  | spareLaneRetrain (port : Nat)
  /-- LINK_DOWN (R398): A link goes down and its routes are removed. -/
  | linkDown (port : Nat)
  /-- DOWN_LINK_RETRAIN (R398): Every 10 ms a down link retrains and routes return on success. -/
  | downLinkRetrain (port : Nat) (ok : Bool)
  /-- QUEUE_TABLE_ERROR (R392): A double-bit queue-table error stops that queue. -/
  | queueTableError (q : Nat)
  /-- COMMAND_CORE_SUBSTITUTION (R393): A failed command core is replaced by the spare. -/
  | commandCoreSubstitution (cc : Nat)
  /-- CORE_SUBSTITUTION (R400): A retired core or lane is replaced by a spare once its bay is vacated. -/
  | coreSubstitution (core : Nat)
  /-- POWER_THROTTLE (R341): Power above PLIMIT over 1 ms withholds issue opportunities. -/
  | powerThrottle (on : Bool)
  /-- THERMAL_EVENT (R404): A die temperature event throttles or stops the package. -/
  | thermalEvent (d : Nat) (kind : Nat)
  /-- DEVICE_STOP (R405): Stops a virtual device's queues and kills its skeins. -/
  | deviceStop (v : Nat) (cls : Nat) (cause : Nat)
  /-- PACKAGE_STOP (R405): Stops issue on every core and every virtual device. -/
  | packageStop (cause : Nat)
  /-- ILLEGAL_ENCODING (R112): A fragment issues a chain holding a reserved or illegally encoded word and takes the illegal-encoding trap. -/
  | illegalEncoding (p : Nat) (s : Nat) (f : Nat)
  /-- CODE_FETCH_FAULT (R343): A fragment's next code word fails its address checks or translation, and the fragment takes the fetch trap or parks. -/
  | codeFetchFault (p : Nat) (s : Nat) (f : Nat)
  /-- SOFT_ERROR (R350): A soft error flips bits of a register, tile, scratch or memory sector, leaving bad parity or ECC to be found later. -/
  | softError (kind : Nat) (d : Nat) (unit : Nat) (loc : W64) (double : Bool)
  /-- PEER_RESPONSE (R335): A reply to a tag-5 load or store arrives from the peer: data, acknowledgement, or refusal, which contains the owning ply. -/
  | peerResponse (id : Nat) (status : Nat) (data : Bytes)
  /-- HOST_COMPLETION (R264): A completion from the host arrives on port A for a tag-4 read, an ATS Translation Request or a flushing read. -/
  | hostCompletion (id : Nat) (status : Nat) (data : Bytes)
  /-- TILE_OPERATION_COMPLETE (R210): A TLD, TST or TZERO finishes on the tile store, freeing the scoreboard and counting for MWAIT. -/
  | tileOperationComplete (id : Nat)
  /-- STAGING_GATE_OPEN (R283): The staging gate finishes writing the weight store, drops tag-3 L1 sectors and opens, releasing held skeins and queues. -/
  | stagingGateOpen (id : Nat)
  /-- VDEV_COLLAPSE_COMPLETE (R304): A collapsing device finishes cleaning its L2 lines and gating its units, and becomes collapsed. -/
  | vdevCollapseComplete (v : Nat)
  /-- CONFIGURATION_REQUEST (R380): System software writes PCIe configuration space, for example clearing and setting PRI Enable or enabling VFs. -/
  | configurationRequest (fn : Nat) (item : Nat) (value : W64)
  /-- NOP (R147): Does nothing. -/
  | nop
  /-- EXIT (R148): Ends the lanes of the executing fragment; the strand, and then the ply, exit when nothing is left. -/
  | exit
  /-- YIELD (R40): Lowers the fragment's issue priority for the next 32 issue opportunities. -/
  | yield
  /-- TRAP (R149): Enters the trap level with a software code and an address value. -/
  | trap (a : BitVec 8) (i : BitVec 10)
  /-- TRET (R150): Leaves the trap level and resumes at TRETIDX and the saved repeat position. -/
  | tret
  /-- SRD (R152): Reads a system register into a scalar. -/
  | srd (a : BitVec 8) (n : BitVec 10)
  /-- SWR (R152): Writes TRETIDX at the trap level. -/
  | swr (a : BitVec 8) (n : BitVec 10)
  /-- SEGLD (R153): Narrows a segment register from a scalar pair at the trap level. -/
  | segld (a : BitVec 8) (g : BitVec 3)
  /-- SEGRD (R153): Reads a segment register into a scalar pair. -/
  | segrd (a : BitVec 8) (g : BitVec 3)
  /-- ABORT (R154): Kills the ply and writes a contained error record with its code and value. -/
  | abort (a : BitVec 8) (i : BitVec 10)
  /-- SADD (R130): Scalar 64-bit add. -/
  | sadd (d : BitVec 8) (a : BitVec 8) (b : BitVec 6)
  /-- SSUB (R130): Scalar 64-bit subtract. -/
  | ssub (d : BitVec 8) (a : BitVec 8) (b : BitVec 6)
  /-- SAND (R130): Scalar bitwise AND. -/
  | sand (d : BitVec 8) (a : BitVec 8) (b : BitVec 6)
  /-- SOR (R130): Scalar bitwise OR. -/
  | sor (d : BitVec 8) (a : BitVec 8) (b : BitVec 6)
  /-- SXOR (R130): Scalar bitwise XOR. -/
  | sxor (d : BitVec 8) (a : BitVec 8) (b : BitVec 6)
  /-- SSHL (R130): Scalar shift left by b[5:0]. -/
  | sshl (d : BitVec 8) (a : BitVec 8) (b : BitVec 6)
  /-- SSHR (R130): Scalar logical shift right. -/
  | sshr (d : BitVec 8) (a : BitVec 8) (b : BitVec 6)
  /-- SSRA (R130): Scalar arithmetic shift right. -/
  | ssra (d : BitVec 8) (a : BitVec 8) (b : BitVec 6)
  /-- SMUL (R130): Low 64 bits of the scalar product. -/
  | smul (d : BitVec 8) (a : BitVec 8) (b : BitVec 6)
  /-- SMULH (R130): High 64 bits of the signed scalar product. -/
  | smulh (d : BitVec 8) (a : BitVec 8) (b : BitVec 6)
  /-- SMULHN (R130): High 64 bits of the unsigned scalar product. -/
  | smulhn (d : BitVec 8) (a : BitVec 8) (b : BitVec 6)
  /-- SMIN (R130): Signed scalar minimum. -/
  | smin (d : BitVec 8) (a : BitVec 8) (b : BitVec 6)
  /-- SMAX (R130): Signed scalar maximum. -/
  | smax (d : BitVec 8) (a : BitVec 8) (b : BitVec 6)
  /-- SMINN (R130): Unsigned scalar minimum. -/
  | sminn (d : BitVec 8) (a : BitVec 8) (b : BitVec 6)
  /-- SMAXN (R130): Unsigned scalar maximum. -/
  | smaxn (d : BitVec 8) (a : BitVec 8) (b : BitVec 6)
  /-- SSEL (R130): Selects a or b by the old destination value. -/
  | ssel (d : BitVec 8) (a : BitVec 8) (b : BitVec 6)
  /-- SDIV (R130): Signed scalar quotient under R85. -/
  | sdiv (d : BitVec 8) (a : BitVec 8) (b : BitVec 6)
  /-- SDIVN (R130): Unsigned scalar quotient under R85. -/
  | sdivn (d : BitVec 8) (a : BitVec 8) (b : BitVec 6)
  /-- SREM (R130): Signed scalar remainder under R85. -/
  | srem (d : BitVec 8) (a : BitVec 8) (b : BitVec 6)
  /-- SREMN (R130): Unsigned scalar remainder under R85. -/
  | sremn (d : BitVec 8) (a : BitVec 8) (b : BitVec 6)
  /-- SPOPC (R130): Counts the 1 bits of a scalar. -/
  | spopc (d : BitVec 8) (a : BitVec 8)
  /-- SCLZ (R130): Counts leading zeros of a scalar. -/
  | sclz (d : BitVec 8) (a : BitVec 8)
  /-- SCTZ (R130): Counts trailing zeros of a scalar. -/
  | sctz (d : BitVec 8) (a : BitVec 8)
  /-- SBREV (R130): Reverses the bits of a scalar. -/
  | sbrev (d : BitVec 8) (a : BitVec 8)
  /-- SCMP (R131): Writes 1 when the scalar condition holds, else 0. -/
  | scmp (d : BitVec 8) (a : BitVec 8) (b : BitVec 6) (k : BitVec 3)
  /-- SADDI (R132): Adds a sign-extended 9-bit immediate. -/
  | saddi (d : BitVec 8) (a : BitVec 8) (i : BitVec 9)
  /-- SANDI (R132): ANDs a sign-extended immediate. -/
  | sandi (d : BitVec 8) (a : BitVec 8) (i : BitVec 9)
  /-- SORI (R132): ORs a sign-extended immediate. -/
  | sori (d : BitVec 8) (a : BitVec 8) (i : BitVec 9)
  /-- SXORI (R132): XORs a sign-extended immediate. -/
  | sxori (d : BitVec 8) (a : BitVec 8) (i : BitVec 9)
  /-- SSHLI (R132): Shifts left by an immediate amount. -/
  | sshli (d : BitVec 8) (a : BitVec 8) (n : BitVec 6)
  /-- SSHRI (R132): Logical shift right by an immediate amount. -/
  | sshri (d : BitVec 8) (a : BitVec 8) (n : BitVec 6)
  /-- SSRAI (R132): Arithmetic shift right by an immediate amount. -/
  | ssrai (d : BitVec 8) (a : BitVec 8) (n : BitVec 6)
  /-- SRORI (R132): Rotates right by an immediate amount. -/
  | srori (d : BitVec 8) (a : BitVec 8) (n : BitVec 6)
  /-- SCMPI (R132): Compares a scalar with a 6-bit immediate under a condition. -/
  | scmpi (d : BitVec 8) (a : BitVec 8) (k : BitVec 3) (i : BitVec 6)
  /-- SLI (R132): Loads a sign-extended 17-bit immediate. -/
  | sli (d : BitVec 8) (i : BitVec 17)
  /-- SHIN (R132): Shifts the destination left 17 bits and ORs in an immediate. -/
  | shin (d : BitVec 8) (i : BitVec 17)
  /-- SLD_D (R134): Scalar 8-byte load. -/
  | sldD (d : BitVec 8) (a : BitVec 8) (o : BitVec 9)
  /-- SLD_W (R134): Scalar 4-byte zero-extending load. -/
  | sldW (d : BitVec 8) (a : BitVec 8) (o : BitVec 9)
  /-- SST_D (R134): Scalar 8-byte store. -/
  | sstD (d : BitVec 8) (a : BitVec 8) (o : BitVec 9)
  /-- SST_W (R134): Scalar 4-byte store. -/
  | sstW (d : BitVec 8) (a : BitVec 8) (o : BitVec 9)
  /-- SFADD (R133): Scalar f64 add. -/
  | sfadd (d : BitVec 8) (a : BitVec 8) (b : BitVec 6)
  /-- SFSUB (R133): Scalar f64 subtract. -/
  | sfsub (d : BitVec 8) (a : BitVec 8) (b : BitVec 6)
  /-- SFMUL (R133): Scalar f64 multiply. -/
  | sfmul (d : BitVec 8) (a : BitVec 8) (b : BitVec 6)
  /-- SFDIV (R133): Scalar f64 divide, correctly rounded. -/
  | sfdiv (d : BitVec 8) (a : BitVec 8) (b : BitVec 6)
  /-- SFMIN (R133): Scalar f64 minimum under R84. -/
  | sfmin (d : BitVec 8) (a : BitVec 8) (b : BitVec 6)
  /-- SFMAX (R133): Scalar f64 maximum under R84. -/
  | sfmax (d : BitVec 8) (a : BitVec 8) (b : BitVec 6)
  /-- SCVTF (R133): Converts i64 to f64 by the named mode. -/
  | scvtf (d : BitVec 8) (a : BitVec 8) (r : BitVec 3)
  /-- SCVTI (R133): Converts f64 to i64 by the named mode. -/
  | scvti (d : BitVec 8) (a : BitVec 8) (r : BitVec 3)
  /-- SLR_D (R136): Ends protection, flushes the sector, loads and sets a reservation. -/
  | slrD (d : BitVec 8) (a : BitVec 8) (o : BitVec 9)
  /-- SSC_D (R137): Stores conditionally on a valid reservation and reports success. -/
  | sscD (d : BitVec 8) (a : BitVec 8) (b : BitVec 6)
  /-- B_CND (R140): Branches the whole fragment on a scalar condition. -/
  | bCnd (h : BitVec 2) (k : BitVec 3) (a : BitVec 8) (o : BitVec 12)
  /-- J (R141): Jumps by a word offset. -/
  | j (h : BitVec 2) (o : BitVec 23)
  /-- CALL (R141): Writes the return index to s191 and jumps. -/
  | call (h : BitVec 2) (o : BitVec 23)
  /-- JR (R141): Jumps to the word index in a scalar. -/
  | jr (a : BitVec 8)
  /-- LOOP (R142): Decrements a scalar and branches while it is non-zero. -/
  | loop (h : BitVec 2) (a : BitVec 8) (o : BitVec 12)
  /-- BRV_SPLIT (R32): Splits the fragment by a predicate, consuming the pending join. -/
  | brvSplit (h : BitVec 2) (q : BitVec 3) (o : BitVec 17)
  /-- BRV_ALL (R143): Branches when every lane of the mask has the predicate set. -/
  | brvAll (h : BitVec 2) (q : BitVec 3) (o : BitVec 17)
  /-- BRV_NONE (R143): Branches when no lane of the mask has the predicate set. -/
  | brvNone (h : BitVec 2) (q : BitVec 3) (o : BitVec 17)
  /-- BRV_QSPLIT (R36): Splits the fragment by quads, creating helper lanes. -/
  | brvQsplit (h : BitVec 2) (q : BitVec 3) (o : BitVec 17)
  /-- BRV_UNI (R143): Branches the whole fragment by the predicate of its lowest lane. -/
  | brvUni (h : BitVec 2) (q : BitVec 3) (o : BitVec 17)
  /-- JSET (R144): Sets the fragment's pending join address. -/
  | jset (o : BitVec 23)
  /-- REP (R146): Repeats the next word up to 64 times with stepped register fields. -/
  | rep (n : BitVec 6) (s : BitVec 3) (t : BitVec 2)
  /-- MMA (R214): Accepts a bit-plane matrix multiply-add into a tile. -/
  | mma (t : BitVec 4) (a : BitVec 8) (b : BitVec 8) (m : BitVec 3)
  /-- TLD (R219): Moves raw rows from scratch into a tile. -/
  | tld (t : BitVec 4) (a : BitVec 8) (b : BitVec 8)
  /-- TST (R219): Moves raw rows from a tile into scratch. -/
  | tst (t : BitVec 4) (a : BitVec 8) (b : BitVec 8)
  /-- TZERO (R220): Writes zero to every byte of a tile. -/
  | tzero (t : BitVec 4)
  /-- MBATCH (R221): Opens a new matrix batch and returns its identifier. -/
  | mbatch (a : BitVec 8)
  /-- MWAIT (R221): Waits until the tile operations of batches up to an identifier complete. -/
  | mwait (a : BitVec 8)
  /-- RAYQ (R225): Traces each lane's ray for the closest hit. -/
  | rayq (d : BitVec 6) (a : BitVec 6) (b : BitVec 8) (p : BitVec 3)
  /-- RAYQ_ANY (R225): Traces each lane's ray and stops at the first hit. -/
  | rayqAny (d : BitVec 6) (a : BitVec 6) (b : BitVec 8) (p : BitVec 3)
  /-- VISQ (R226): Tests screen boxes against the visibility buffer and counts visible ones. -/
  | visq (d : BitVec 6) (a : BitVec 6) (b : BitVec 8) (p : BitVec 3)
  /-- EMIT (R227): Appends mesh-work records to an amplification buffer. -/
  | emit (d : BitVec 6) (a : BitVec 6) (b : BitVec 8) (p : BitVec 3)
  /-- VACQ_W (R51): Requests vector blocks, waiting up to 4,096 clocks. -/
  | vacqW (d : BitVec 8) (b : BitVec 8)
  /-- VACQ_P (R51): Requests vector blocks without waiting. -/
  | vacqP (d : BitVec 8) (b : BitVec 8)
  /-- VREL (R229): Releases the strand's highest vector blocks. -/
  | vrel (b : BitVec 8)
  /-- XBIND (R259): Binds a translation register to a base and limit and caches a translation. -/
  | xbind (x : BitVec 8) (b : BitVec 8)
  /-- XUNB (R259): Unbinds a translation register. -/
  | xunb (x : BitVec 8)
  /-- LAUNCH (R231): Releases and appends a dispatch packet to a LAUNCH-fed queue. -/
  | launch (a : BitVec 8) (b : BitVec 8) (s : BitVec 3)
  /-- SIGADD (R232): Releases and adds to a completion signal at its home router. -/
  | sigadd (a : BitVec 8) (b : BitVec 8) (s : BitVec 3)
  /-- SIGSET (R232): Releases and sets a completion signal at its home router. -/
  | sigset (a : BitVec 8) (b : BitVec 8) (s : BitVec 3)
  /-- VADD_F64 (R157): f64 lane add. -/
  | vaddF64 (d : BitVec 6) (a : BitVec 6) (b : BitVec 6) (p : BitVec 3)
  /-- VSUB_F64 (R157): f64 lane subtract. -/
  | vsubF64 (d : BitVec 6) (a : BitVec 6) (b : BitVec 6) (p : BitVec 3)
  /-- VMUL_F64 (R157): f64 lane multiply. -/
  | vmulF64 (d : BitVec 6) (a : BitVec 6) (b : BitVec 6) (p : BitVec 3)
  /-- VFMA_F64 (R157): f64 fused multiply-add into the destination. -/
  | vfmaF64 (d : BitVec 6) (a : BitVec 6) (b : BitVec 6) (p : BitVec 3)
  /-- VFMS_F64 (R157): f64 fused multiply-subtract. -/
  | vfmsF64 (d : BitVec 6) (a : BitVec 6) (b : BitVec 6) (p : BitVec 3)
  /-- VFNMA_F64 (R157): f64 negated fused multiply-add. -/
  | vfnmaF64 (d : BitVec 6) (a : BitVec 6) (b : BitVec 6) (p : BitVec 3)
  /-- VMIN_F64 (R84): f64 lane minimum. -/
  | vminF64 (d : BitVec 6) (a : BitVec 6) (b : BitVec 6) (p : BitVec 3)
  /-- VMAX_F64 (R84): f64 lane maximum. -/
  | vmaxF64 (d : BitVec 6) (a : BitVec 6) (b : BitVec 6) (p : BitVec 3)
  /-- VDIV_F64 (R157): f64 correctly rounded divide. -/
  | vdivF64 (d : BitVec 6) (a : BitVec 6) (b : BitVec 6) (p : BitVec 3)
  /-- VSQRT_F64 (R157): f64 correctly rounded square root. -/
  | vsqrtF64 (d : BitVec 6) (a : BitVec 6) (p : BitVec 3)
  /-- VABS_F64 (R157): Clears the f64 sign bit. -/
  | vabsF64 (d : BitVec 6) (a : BitVec 6) (p : BitVec 3)
  /-- VNEG_F64 (R157): Inverts the f64 sign bit. -/
  | vnegF64 (d : BitVec 6) (a : BitVec 6) (p : BitVec 3)
  /-- VSUBN_F64 (R157): Subtracts f64 values exactly and rounds once to f32. -/
  | vsubnF64 (d : BitVec 6) (a : BitVec 6) (b : BitVec 6) (p : BitVec 3)
  /-- VCLASS_F64 (R158): Writes the f64 class mask. -/
  | vclassF64 (d : BitVec 6) (a : BitVec 6) (p : BitVec 3)
  /-- VCPSGN_F64 (R157): Copies b's sign to a's f64 magnitude. -/
  | vcpsgnF64 (d : BitVec 6) (a : BitVec 6) (b : BitVec 6) (p : BitVec 3)
  /-- VRINT_F64 (R157): Rounds f64 to an integral value by a named mode. -/
  | vrintF64 (d : BitVec 6) (a : BitVec 6) (r : BitVec 3) (p : BitVec 3)
  /-- VADD_F32X2 (R157): Packed f32 add. -/
  | vaddF32x2 (d : BitVec 6) (a : BitVec 6) (b : BitVec 6) (p : BitVec 3)
  /-- VSUB_F32X2 (R157): Packed f32 subtract. -/
  | vsubF32x2 (d : BitVec 6) (a : BitVec 6) (b : BitVec 6) (p : BitVec 3)
  /-- VMUL_F32X2 (R157): Packed f32 multiply. -/
  | vmulF32x2 (d : BitVec 6) (a : BitVec 6) (b : BitVec 6) (p : BitVec 3)
  /-- VFMA_F32X2 (R157): Packed f32 fused multiply-add. -/
  | vfmaF32x2 (d : BitVec 6) (a : BitVec 6) (b : BitVec 6) (p : BitVec 3)
  /-- VFMS_F32X2 (R157): Packed f32 fused multiply-subtract. -/
  | vfmsF32x2 (d : BitVec 6) (a : BitVec 6) (b : BitVec 6) (p : BitVec 3)
  /-- VFNMA_F32X2 (R157): Packed f32 negated fused multiply-add. -/
  | vfnmaF32x2 (d : BitVec 6) (a : BitVec 6) (b : BitVec 6) (p : BitVec 3)
  /-- VMIN_F32X2 (R84): Packed f32 minimum. -/
  | vminF32x2 (d : BitVec 6) (a : BitVec 6) (b : BitVec 6) (p : BitVec 3)
  /-- VMAX_F32X2 (R84): Packed f32 maximum. -/
  | vmaxF32x2 (d : BitVec 6) (a : BitVec 6) (b : BitVec 6) (p : BitVec 3)
  /-- VDIV_F32X2 (R157): Packed f32 divide. -/
  | vdivF32x2 (d : BitVec 6) (a : BitVec 6) (b : BitVec 6) (p : BitVec 3)
  /-- VSQRT_F32X2 (R157): Packed f32 square root. -/
  | vsqrtF32x2 (d : BitVec 6) (a : BitVec 6) (p : BitVec 3)
  /-- VABS_F32X2 (R157): Clears both f32 sign bits. -/
  | vabsF32x2 (d : BitVec 6) (a : BitVec 6) (p : BitVec 3)
  /-- VNEG_F32X2 (R157): Inverts both f32 sign bits. -/
  | vnegF32x2 (d : BitVec 6) (a : BitVec 6) (p : BitVec 3)
  /-- VCLASS_F32X2 (R158): Writes packed f32 class masks. -/
  | vclassF32x2 (d : BitVec 6) (a : BitVec 6) (p : BitVec 3)
  /-- VCPSGN_F32X2 (R157): Packed f32 copy-sign. -/
  | vcpsgnF32x2 (d : BitVec 6) (a : BitVec 6) (b : BitVec 6) (p : BitVec 3)
  /-- VRINT_F32X2 (R157): Rounds packed f32 to integral values by a named mode. -/
  | vrintF32x2 (d : BitVec 6) (a : BitVec 6) (r : BitVec 3) (p : BitVec 3)
  /-- VF16_ADD (R159): Four-element f16 or bf16 add. -/
  | vf16Add (d : BitVec 6) (a : BitVec 6) (b : BitVec 6) (p : BitVec 3) (t : BitVec 1)
  /-- VF16_SUB (R159): Four-element f16 or bf16 subtract. -/
  | vf16Sub (d : BitVec 6) (a : BitVec 6) (b : BitVec 6) (p : BitVec 3) (t : BitVec 1)
  /-- VF16_MUL (R159): Four-element f16 or bf16 multiply. -/
  | vf16Mul (d : BitVec 6) (a : BitVec 6) (b : BitVec 6) (p : BitVec 3) (t : BitVec 1)
  /-- VF16_FMA (R159): Four-element f16 or bf16 fused multiply-add. -/
  | vf16Fma (d : BitVec 6) (a : BitVec 6) (b : BitVec 6) (p : BitVec 3) (t : BitVec 1)
  /-- VF16_MIN (R159): Four-element f16 or bf16 minimum. -/
  | vf16Min (d : BitVec 6) (a : BitVec 6) (b : BitVec 6) (p : BitVec 3) (t : BitVec 1)
  /-- VF16_MAX (R159): Four-element f16 or bf16 maximum. -/
  | vf16Max (d : BitVec 6) (a : BitVec 6) (b : BitVec 6) (p : BitVec 3) (t : BitVec 1)
  /-- VF16_ABS (R159): Four-element f16 or bf16 absolute value. -/
  | vf16Abs (d : BitVec 6) (a : BitVec 6) (p : BitVec 3) (t : BitVec 1)
  /-- VF16_NEG (R159): Four-element f16 or bf16 negation. -/
  | vf16Neg (d : BitVec 6) (a : BitVec 6) (p : BitVec 3) (t : BitVec 1)
  /-- VADD_I32X2 (R160): Packed i32 add. -/
  | vaddI32x2 (d : BitVec 6) (a : BitVec 6) (b : BitVec 6) (p : BitVec 3)
  /-- VSUB_I32X2 (R160): Packed i32 subtract. -/
  | vsubI32x2 (d : BitVec 6) (a : BitVec 6) (b : BitVec 6) (p : BitVec 3)
  /-- VMUL_I32X2 (R160): Packed i32 low multiply. -/
  | vmulI32x2 (d : BitVec 6) (a : BitVec 6) (b : BitVec 6) (p : BitVec 3)
  /-- VMULH_I32X2 (R160): Packed i32 signed high multiply. -/
  | vmulhI32x2 (d : BitVec 6) (a : BitVec 6) (b : BitVec 6) (p : BitVec 3)
  /-- VMULHN_I32X2 (R160): Packed i32 unsigned high multiply. -/
  | vmulhnI32x2 (d : BitVec 6) (a : BitVec 6) (b : BitVec 6) (p : BitVec 3)
  /-- VMIN_I32X2 (R160): Packed signed i32 minimum. -/
  | vminI32x2 (d : BitVec 6) (a : BitVec 6) (b : BitVec 6) (p : BitVec 3)
  /-- VMAX_I32X2 (R160): Packed signed i32 maximum. -/
  | vmaxI32x2 (d : BitVec 6) (a : BitVec 6) (b : BitVec 6) (p : BitVec 3)
  /-- VMINN_I32X2 (R160): Packed unsigned 32-bit minimum. -/
  | vminnI32x2 (d : BitVec 6) (a : BitVec 6) (b : BitVec 6) (p : BitVec 3)
  /-- VMAXN_I32X2 (R160): Packed unsigned 32-bit maximum. -/
  | vmaxnI32x2 (d : BitVec 6) (a : BitVec 6) (b : BitVec 6) (p : BitVec 3)
  /-- VABS_I32X2 (R160): Packed i32 absolute value. -/
  | vabsI32x2 (d : BitVec 6) (a : BitVec 6) (p : BitVec 3)
  /-- VNEG_I32X2 (R160): Packed i32 negation. -/
  | vnegI32x2 (d : BitVec 6) (a : BitVec 6) (p : BitVec 3)
  /-- VADDSAT_I32X2 (R160): Packed signed saturating add. -/
  | vaddsatI32x2 (d : BitVec 6) (a : BitVec 6) (b : BitVec 6) (p : BitVec 3)
  /-- VSUBSAT_I32X2 (R160): Packed signed saturating subtract. -/
  | vsubsatI32x2 (d : BitVec 6) (a : BitVec 6) (b : BitVec 6) (p : BitVec 3)
  /-- VADDSATN_I32X2 (R160): Packed unsigned saturating add. -/
  | vaddsatnI32x2 (d : BitVec 6) (a : BitVec 6) (b : BitVec 6) (p : BitVec 3)
  /-- VSUBSATN_I32X2 (R160): Packed unsigned saturating subtract. -/
  | vsubsatnI32x2 (d : BitVec 6) (a : BitVec 6) (b : BitVec 6) (p : BitVec 3)
  /-- VADD_I64 (R160): 64-bit integer add. -/
  | vaddI64 (d : BitVec 6) (a : BitVec 6) (b : BitVec 6) (p : BitVec 3)
  /-- VSUB_I64 (R160): 64-bit integer subtract. -/
  | vsubI64 (d : BitVec 6) (a : BitVec 6) (b : BitVec 6) (p : BitVec 3)
  /-- VMUL_I64 (R160): 64-bit low multiply. -/
  | vmulI64 (d : BitVec 6) (a : BitVec 6) (b : BitVec 6) (p : BitVec 3)
  /-- VMULH_I64 (R160): 64-bit signed high multiply. -/
  | vmulhI64 (d : BitVec 6) (a : BitVec 6) (b : BitVec 6) (p : BitVec 3)
  /-- VMULHN_I64 (R160): 64-bit unsigned high multiply. -/
  | vmulhnI64 (d : BitVec 6) (a : BitVec 6) (b : BitVec 6) (p : BitVec 3)
  /-- VMIN_I64 (R160): Signed 64-bit minimum. -/
  | vminI64 (d : BitVec 6) (a : BitVec 6) (b : BitVec 6) (p : BitVec 3)
  /-- VMAX_I64 (R160): Signed 64-bit maximum. -/
  | vmaxI64 (d : BitVec 6) (a : BitVec 6) (b : BitVec 6) (p : BitVec 3)
  /-- VMINN_I64 (R160): Unsigned 64-bit minimum. -/
  | vminnI64 (d : BitVec 6) (a : BitVec 6) (b : BitVec 6) (p : BitVec 3)
  /-- VMAXN_I64 (R160): Unsigned 64-bit maximum. -/
  | vmaxnI64 (d : BitVec 6) (a : BitVec 6) (b : BitVec 6) (p : BitVec 3)
  /-- VDIV_I64 (R160): Signed 64-bit divide under R85. -/
  | vdivI64 (d : BitVec 6) (a : BitVec 6) (b : BitVec 6) (p : BitVec 3)
  /-- VDIVN_I64 (R160): Unsigned 64-bit divide under R85. -/
  | vdivnI64 (d : BitVec 6) (a : BitVec 6) (b : BitVec 6) (p : BitVec 3)
  /-- VREM_I64 (R160): Signed 64-bit remainder. -/
  | vremI64 (d : BitVec 6) (a : BitVec 6) (b : BitVec 6) (p : BitVec 3)
  /-- VREMN_I64 (R160): Unsigned 64-bit remainder. -/
  | vremnI64 (d : BitVec 6) (a : BitVec 6) (b : BitVec 6) (p : BitVec 3)
  /-- VABS_I64 (R160): 64-bit absolute value. -/
  | vabsI64 (d : BitVec 6) (a : BitVec 6) (p : BitVec 3)
  /-- VNEG_I64 (R160): 64-bit negation. -/
  | vnegI64 (d : BitVec 6) (a : BitVec 6) (p : BitVec 3)
  /-- VAND (R161): Lane bitwise AND. -/
  | vand (d : BitVec 6) (a : BitVec 6) (b : BitVec 6) (p : BitVec 3)
  /-- VOR (R161): Lane bitwise OR. -/
  | vor (d : BitVec 6) (a : BitVec 6) (b : BitVec 6) (p : BitVec 3)
  /-- VXOR (R161): Lane bitwise XOR. -/
  | vxor (d : BitVec 6) (a : BitVec 6) (b : BitVec 6) (p : BitVec 3)
  /-- VANDN (R161): Lane a AND NOT b. -/
  | vandn (d : BitVec 6) (a : BitVec 6) (b : BitVec 6) (p : BitVec 3)
  /-- VNOT (R161): Lane bitwise NOT. -/
  | vnot (d : BitVec 6) (a : BitVec 6) (p : BitVec 3)
  /-- VSHL (R161): Lane shift left. -/
  | vshl (d : BitVec 6) (a : BitVec 6) (b : BitVec 6) (p : BitVec 3)
  /-- VSHR (R161): Lane logical shift right. -/
  | vshr (d : BitVec 6) (a : BitVec 6) (b : BitVec 6) (p : BitVec 3)
  /-- VSRA (R161): Lane arithmetic shift right. -/
  | vsra (d : BitVec 6) (a : BitVec 6) (b : BitVec 6) (p : BitVec 3)
  /-- VROTL (R161): Lane rotate left. -/
  | vrotl (d : BitVec 6) (a : BitVec 6) (b : BitVec 6) (p : BitVec 3)
  /-- VSHL_32X2 (R161): Per-element 32-bit shift left. -/
  | vshl32x2 (d : BitVec 6) (a : BitVec 6) (b : BitVec 6) (p : BitVec 3)
  /-- VSHR_32X2 (R161): Per-element 32-bit logical shift right. -/
  | vshr32x2 (d : BitVec 6) (a : BitVec 6) (b : BitVec 6) (p : BitVec 3)
  /-- VSRA_32X2 (R161): Per-element 32-bit arithmetic shift right. -/
  | vsra32x2 (d : BitVec 6) (a : BitVec 6) (b : BitVec 6) (p : BitVec 3)
  /-- VPOPC (R161): Counts 1 bits per lane. -/
  | vpopc (d : BitVec 6) (a : BitVec 6) (p : BitVec 3)
  /-- VCLZ (R161): Counts leading zeros per lane. -/
  | vclz (d : BitVec 6) (a : BitVec 6) (p : BitVec 3)
  /-- VBREV (R161): Reverses bits per lane. -/
  | vbrev (d : BitVec 6) (a : BitVec 6) (p : BitVec 3)
  /-- VBFX (R161): Extracts a bit field per lane. -/
  | vbfx (d : BitVec 6) (a : BitVec 6) (b : BitVec 6) (p : BitVec 3)
  /-- VMOV (R162): Copies a vector register. -/
  | vmov (d : BitVec 6) (a : BitVec 6) (p : BitVec 3)
  /-- VSEL (R162): Selects per lane by a predicate. -/
  | vsel (d : BitVec 6) (a : BitVec 6) (b : BitVec 6) (q : BitVec 3)
  /-- VPK32 (R162): Packs two low 32-bit halves. -/
  | vpk32 (d : BitVec 6) (a : BitVec 6) (b : BitVec 6) (p : BitVec 3)
  /-- VHI32 (R162): Zero-extends the high half. -/
  | vhi32 (d : BitVec 6) (a : BitVec 6) (p : BitVec 3)
  /-- VLO32 (R162): Zero-extends the low half. -/
  | vlo32 (d : BitVec 6) (a : BitVec 6) (p : BitVec 3)
  /-- VID (R162): Writes each lane's number. -/
  | vid (d : BitVec 6) (p : BitVec 3)
  /-- VQID (R162): Writes each lane's quad position and quad number. -/
  | vqid (d : BitVec 6) (p : BitVec 3)
  /-- VCMP (R164): Compares elements and writes predicates. -/
  | vcmp (d : BitVec 3) (a : BitVec 6) (b : BitVec 6) (p : BitVec 3) (k : BitVec 4) (y : BitVec 3)
  /-- VCVT (R166): Converts lane elements by a conversion code. -/
  | vcvt (d : BitVec 6) (a : BitVec 6) (x : BitVec 6) (p : BitVec 3) (s : BitVec 1) (r : BitVec 3)
  /-- VDOT4_I8 (R168): Accumulates 8-bit dot products into i32 elements. -/
  | vdot4I8 (d : BitVec 6) (a : BitVec 6) (b : BitVec 6) (p : BitVec 3) (s : BitVec 1) (u : BitVec 1) (v : BitVec 1)
  /-- VDOT8_I4 (R168): Accumulates 4-bit dot products into i32 elements. -/
  | vdot8I4 (d : BitVec 6) (a : BitVec 6) (b : BitVec 6) (p : BitVec 3) (s : BitVec 1) (u : BitVec 1) (v : BitVec 1)
  /-- VRCP_F32X2 (R169): Packed f32 reciprocal. -/
  | vrcpF32x2 (d : BitVec 6) (a : BitVec 6) (p : BitVec 3)
  /-- VRSQ_F32X2 (R169): Packed f32 reciprocal square root. -/
  | vrsqF32x2 (d : BitVec 6) (a : BitVec 6) (p : BitVec 3)
  /-- VEXP2_F32X2 (R169): Packed f32 base-2 exponential. -/
  | vexp2F32x2 (d : BitVec 6) (a : BitVec 6) (p : BitVec 3)
  /-- VLOG2_F32X2 (R169): Packed f32 base-2 logarithm. -/
  | vlog2F32x2 (d : BitVec 6) (a : BitVec 6) (p : BitVec 3)
  /-- VSIN_F32X2 (R169): Packed f32 sine. -/
  | vsinF32x2 (d : BitVec 6) (a : BitVec 6) (p : BitVec 3)
  /-- VCOS_F32X2 (R169): Packed f32 cosine. -/
  | vcosF32x2 (d : BitVec 6) (a : BitVec 6) (p : BitVec 3)
  /-- VTANH_F32X2 (R169): Packed f32 hyperbolic tangent. -/
  | vtanhF32x2 (d : BitVec 6) (a : BitVec 6) (p : BitVec 3)
  /-- VRCP_F64A (R169): Approximate f64 reciprocal. -/
  | vrcpF64a (d : BitVec 6) (a : BitVec 6) (p : BitVec 3)
  /-- VRSQ_F64A (R169): Approximate f64 reciprocal square root. -/
  | vrsqF64a (d : BitVec 6) (a : BitVec 6) (p : BitVec 3)
  /-- VSHFL_IDX (R171): Reads va from the lane indexed by b. -/
  | vshflIdx (d : BitVec 6) (a : BitVec 6) (b : BitVec 6) (p : BitVec 3)
  /-- VSHFL_UP (R171): Reads va from a lower lane. -/
  | vshflUp (d : BitVec 6) (a : BitVec 6) (b : BitVec 6) (p : BitVec 3)
  /-- VSHFL_DN (R171): Reads va from a higher lane. -/
  | vshflDn (d : BitVec 6) (a : BitVec 6) (b : BitVec 6) (p : BitVec 3)
  /-- VSHFL_XOR (R171): Reads va from lane l XOR b. -/
  | vshflXor (d : BitVec 6) (a : BitVec 6) (b : BitVec 6) (p : BitVec 3)
  /-- VQSWAP_H (R171): Swaps horizontally within a quad. -/
  | vqswapH (d : BitVec 6) (a : BitVec 6) (p : BitVec 3)
  /-- VQSWAP_V (R171): Swaps vertically within a quad. -/
  | vqswapV (d : BitVec 6) (a : BitVec 6) (p : BitVec 3)
  /-- VQSWAP_D (R171): Swaps diagonally within a quad. -/
  | vqswapD (d : BitVec 6) (a : BitVec 6) (p : BitVec 3)
  /-- VQBC (R171): Broadcasts one lane within each quad. -/
  | vqbc (d : BitVec 6) (a : BitVec 6) (b : BitVec 6) (p : BitVec 3)
  /-- VQDX_F32X2 (R172): Packed f32 horizontal quad derivative. -/
  | vqdxF32x2 (d : BitVec 6) (a : BitVec 6) (p : BitVec 3)
  /-- VQDY_F32X2 (R172): Packed f32 vertical quad derivative. -/
  | vqdyF32x2 (d : BitVec 6) (a : BitVec 6) (p : BitVec 3)
  /-- VQDX_F64 (R172): f64 horizontal quad derivative. -/
  | vqdxF64 (d : BitVec 6) (a : BitVec 6) (p : BitVec 3)
  /-- VQDY_F64 (R172): f64 vertical quad derivative. -/
  | vqdyF64 (d : BitVec 6) (a : BitVec 6) (p : BitVec 3)
  /-- VSCAN_ADD_I64 (R173): Inclusive integer prefix sum over enabled lanes. -/
  | vscanAddI64 (d : BitVec 6) (a : BitVec 6) (p : BitVec 3)
  /-- VSCAN_ADD_F64 (R173): Inclusive f64 prefix sum in ascending lane order. -/
  | vscanAddF64 (d : BitVec 6) (a : BitVec 6) (p : BitVec 3)
  /-- VRED_ADD_I64 (R174): Reduces lanes by integer sum into a scalar. -/
  | vredAddI64 (d : BitVec 8) (a : BitVec 6) (p : BitVec 3)
  /-- VRED_ADD_F64 (R174): Reduces lanes by f64 sum in ascending order. -/
  | vredAddF64 (d : BitVec 8) (a : BitVec 6) (p : BitVec 3)
  /-- VRED_MIN_I64 (R174): Signed minimum reduction. -/
  | vredMinI64 (d : BitVec 8) (a : BitVec 6) (p : BitVec 3)
  /-- VRED_MAX_I64 (R174): Signed maximum reduction. -/
  | vredMaxI64 (d : BitVec 8) (a : BitVec 6) (p : BitVec 3)
  /-- VRED_MINN_N64 (R174): Unsigned minimum reduction. -/
  | vredMinnN64 (d : BitVec 8) (a : BitVec 6) (p : BitVec 3)
  /-- VRED_MAXN_N64 (R174): Unsigned maximum reduction. -/
  | vredMaxnN64 (d : BitVec 8) (a : BitVec 6) (p : BitVec 3)
  /-- VRED_MIN_F64 (R174): f64 minimum reduction. -/
  | vredMinF64 (d : BitVec 8) (a : BitVec 6) (p : BitVec 3)
  /-- VRED_MAX_F64 (R174): f64 maximum reduction. -/
  | vredMaxF64 (d : BitVec 8) (a : BitVec 6) (p : BitVec 3)
  /-- VRED_AND (R174): Bitwise AND reduction. -/
  | vredAnd (d : BitVec 8) (a : BitVec 6) (p : BitVec 3)
  /-- VRED_OR (R174): Bitwise OR reduction. -/
  | vredOr (d : BitVec 8) (a : BitVec 6) (p : BitVec 3)
  /-- VRED_XOR (R174): Bitwise XOR reduction. -/
  | vredXor (d : BitVec 8) (a : BitVec 6) (p : BitVec 3)
  /-- VBALLOT (R175): Writes the predicate ANDed with the lane mask. -/
  | vballot (d : BitVec 8) (q : BitVec 3)
  /-- VANY (R175): Writes 1 when any masked lane has the predicate. -/
  | vany (d : BitVec 8) (q : BitVec 3)
  /-- VALL (R175): Writes 1 when every masked lane has the predicate. -/
  | vall (d : BitVec 8) (q : BitVec 3)
  /-- VFIRST (R175): Writes the lowest masked lane with the predicate, or 32. -/
  | vfirst (d : BitVec 8) (q : BitVec 3)
  /-- VADDS_F64 (R176): Adds a scalar f64 to each lane. -/
  | vaddsF64 (d : BitVec 6) (a : BitVec 6) (b : BitVec 8) (p : BitVec 3)
  /-- VMULS_F64 (R176): Multiplies each lane by a scalar f64. -/
  | vmulsF64 (d : BitVec 6) (a : BitVec 6) (b : BitVec 8) (p : BitVec 3)
  /-- VFMAS_F64 (R176): Fused multiply by a scalar and add the destination. -/
  | vfmasF64 (d : BitVec 6) (a : BitVec 6) (b : BitVec 8) (p : BitVec 3)
  /-- VBCST (R176): Broadcasts a scalar to the enabled lanes. -/
  | vbcst (d : BitVec 6) (b : BitVec 8) (p : BitVec 3)
  /-- VGET (R177): Copies one lane's value to a scalar. -/
  | vget (v : BitVec 6) (s : BitVec 8) (l : BitVec 5)
  /-- VPUT (R177): Writes a scalar into one lane of the fragment. -/
  | vput (v : BitVec 6) (s : BitVec 8) (l : BitVec 5)
  /-- VMOVI (R163): Writes a sign-extended immediate to enabled lanes. -/
  | vmovi (d : BitVec 6) (i : BitVec 19)
  /-- PAND (R178): Predicate AND. -/
  | pand (d : BitVec 3) (a : BitVec 3) (b : BitVec 3)
  /-- POR (R178): Predicate OR. -/
  | por (d : BitVec 3) (a : BitVec 3) (b : BitVec 3)
  /-- PXOR (R178): Predicate XOR. -/
  | pxor (d : BitVec 3) (a : BitVec 3) (b : BitVec 3)
  /-- PANDN (R178): Predicate AND NOT. -/
  | pandn (d : BitVec 3) (a : BitVec 3) (b : BitVec 3)
  /-- PNOT (R178): Predicate NOT. -/
  | pnot (d : BitVec 3) (a : BitVec 3)
  /-- PMOV (R178): Predicate copy. -/
  | pmov (d : BitVec 3) (a : BitVec 3)
  /-- PFROMS (R178): Writes a predicate from a scalar's low bits. -/
  | pfroms (d : BitVec 3) (s : BitVec 8)
  /-- LD (R184): Per-lane load of the size code. -/
  | ld (d : BitVec 6) (a : BitVec 8) (o : BitVec 6) (z : BitVec 3) (p : BitVec 2)
  /-- ST (R184): Per-lane store of the size code into the log or scratch. -/
  | st (d : BitVec 6) (a : BitVec 8) (o : BitVec 6) (z : BitVec 3) (p : BitVec 2)
  /-- LD_ACQ (R185): Loads and then acquires at a scope. -/
  | ldAcq (d : BitVec 6) (a : BitVec 8) (o : BitVec 6) (s : BitVec 3) (z : BitVec 2)
  /-- ST_REL (R185): Releases at a scope and appends its stores behind the release. -/
  | stRel (d : BitVec 6) (a : BitVec 8) (o : BitVec 6) (s : BitVec 3) (z : BitVec 2)
  /-- LDB (R186): Loads through a buffer record with bounds handling. -/
  | ldb (d : BitVec 6) (q : BitVec 5) (o : BitVec 6) (z : BitVec 3) (m : BitVec 2) (p : BitVec 3)
  /-- STB (R186): Stores through a buffer record with bounds handling. -/
  | stb (d : BitVec 6) (q : BitVec 5) (o : BitVec 6) (z : BitVec 3) (m : BitVec 2) (p : BitVec 3)
  /-- ATOM (R187): Per-lane atomic at the home router or scratch bank, returning old values. -/
  | atom (d : BitVec 6) (a : BitVec 8) (o : BitVec 6) (k : BitVec 5)
  /-- RED (R187): Per-lane reduction without a return value. -/
  | red (d : BitVec 6) (a : BitVec 8) (o : BitVec 6) (k : BitVec 5)
  /-- FENCE_ACQ (R243): Acquires at a scope, with a near-path replay at skein scope. -/
  | fenceAcq (s : BitVec 3) (a : BitVec 8)
  /-- FENCE_REL (R241): Releases at a scope, ending protection. -/
  | fenceRel (s : BitVec 3) (a : BitVec 8)
  /-- FENCE_AR (R190): Releases then acquires at a scope. -/
  | fenceAr (s : BitVec 3) (a : BitVec 8)
  /-- CMO_CLEAN (R191): Drains log entries of a range at the named level. -/
  | cmoClean (l : BitVec 8) (a : BitVec 8) (b : BitVec 6)
  /-- CMO_INV (R191): Drops unpinned sectors of a range at the named level. -/
  | cmoInv (l : BitVec 8) (a : BitVec 8) (b : BitVec 6)
  /-- CMO_CLINV (R191): Cleans then invalidates a range. -/
  | cmoClinv (l : BitVec 8) (a : BitVec 8) (b : BitVec 6)
  /-- CMO_PREF (R191): Prefetches a range into caches or TLBs. -/
  | cmoPref (l : BitVec 8) (a : BitVec 8) (b : BitVec 6)
  /-- RGN_OFF (R193): Ends protection with cause bit 15. -/
  | rgnOff
  /-- RGN_MARK (R193): Sets the interval mark carried by error records. -/
  | rgnMark (a : BitVec 8) (i : BitVec 10)
  /-- TCOPY_LD (R198): Issues a tensor window copy into scratch. -/
  | tcopyLd (a : BitVec 8) (b : BitVec 8) (s : BitVec 3) (l : BitVec 2)
  /-- TCOPY_ST (R198): Issues a tensor window copy from scratch. -/
  | tcopySt (a : BitVec 8) (b : BitVec 8) (s : BitVec 3) (l : BitVec 2)
  /-- TCOPY_PL (R199): Issues a tensor copy converted into a plane set. -/
  | tcopyPl (a : BitVec 8) (b : BitVec 8) (s : BitVec 3) (l : BitVec 2)
  /-- BCOPY (R200): Issues a bulk byte copy. -/
  | bcopy (a : BitVec 8) (b : BitVec 8) (s : BitVec 3) (l : BitVec 2)
  /-- BFILL (R200): Issues a pattern fill. -/
  | bfill (a : BitVec 8) (b : BitVec 8) (s : BitVec 3) (l : BitVec 1)
  /-- RATOM (R201): Sends one atomic to a host or peer address. -/
  | ratom (a : BitVec 8) (b : BitVec 8)
  /-- COLL (R202): Hands a collective descriptor to the collective engine. -/
  | coll (a : BitVec 8) (s : BitVec 3) (l : BitVec 2)
  /-- SCOPY (R200): Issues a copy between scratch allocations of the skein. -/
  | scopy (a : BitVec 8) (b : BitVec 8)
  /-- BINIT (R204): Initialises a barrier object's expected arrivals. -/
  | binit (a : BitVec 8) (b : BitVec 8)
  /-- BARR (R204): Adds one arrival and returns the phase. -/
  | barr (a : BitVec 8) (b : BitVec 8) (s : BitVec 3) (l : BitVec 1)
  /-- BEXP (R204): Adds to a barrier object's expected bytes. -/
  | bexp (a : BitVec 8) (b : BitVec 8)
  /-- BWAIT (R205): Parks until the barrier phase differs from the given one. -/
  | bwait (a : BitVec 8) (b : BitVec 8) (s : BitVec 3) (l : BitVec 1)
  /-- BTRY (R205): Tests a barrier phase once. -/
  | btry (a : BitVec 8) (b : BitVec 8) (s : BitVec 3) (l : BitVec 1)
  /-- CTRY (R206): Tries a counter against a threshold with a bounded wait. -/
  | ctry (a : BitVec 8) (b : BitVec 8) (s : BitVec 3) (l : BitVec 1)
  /-- BAR_PLY (R208): Arrives at the ply barrier. -/
  | barPly (s : BitVec 3) (l : BitVec 2)
  /-- BAR_SKN (R208): Arrives at the skein barrier. -/
  | barSkn (s : BitVec 3) (l : BitVec 2)
  deriving DecidableEq, Repr

end Sys2Proof
end

