-- ==== Sys2Proof/WellFormed.lean ====
section
/-! DEFINITION. Which instructions have a legal encoding: the checks that the widths of the fields do not make (R117). -/
namespace Sys2Proof

/-- A scope code is not 110 or 111 (R118). -/
def scopeOk (s : BitVec 3) : Bool := s.toNat < 6

/-- A member that allows flags but carries fl2 = 00 has sc3 = 000 (R194). -/
def flagScopeOk (s : BitVec 3) {n : Nat} (l : BitVec n) : Bool :=
  scopeOk s && (l != 0 || s == 0)

/-- The conversions of R167 marked exact: fn4 is 0000. -/
def cvtExact (x : BitVec 6) : Bool :=
  [0, 2, 4, 16, 17, 22, 23, 26, 27, 29, 31, 33, 34, 35, 41, 42, 44].contains x.toNat

/-- The integer-to-integer narrowing conversions of R167: fn4 [2:0] is 000. -/
def cvtIntNarrow (x : BitVec 6) : Bool :=
  [36, 37, 39, 40, 43].contains x.toNat

/-- The types of VCMP that are integers (R164). -/
def cmpInteger (y : BitVec 3) : Bool :=
  [0, 1, 4, 5].contains y.toNat

/-- A conversion code and its fn4 (R166, R167). -/
def cvtOk (x : BitVec 6) (s : BitVec 1) (r : BitVec 3) : Bool :=
  x.toNat < 45 && (!cvtExact x || (s == 0 && r == 0)) && (!cvtIntNarrow x || r == 0)

/-- Legal encodings (R117). Every other constructor is legal at every value of its fields; an event has no encoding at all. -/
def Instr.wellFormed (i : Instr) : Bool :=
  match i with
  | .nop => true
  | .exit => true
  | .yield => true
  | .trap _ _ => true
  | .tret => true
  | .srd _ _ => true
  | .swr _ _ => true
  | .segld _ _ => true
  | .segrd _ _ => true
  | .abort _ _ => true
  | .sadd _ _ _ => true
  | .ssub _ _ _ => true
  | .sand _ _ _ => true
  | .sor _ _ _ => true
  | .sxor _ _ _ => true
  | .sshl _ _ _ => true
  | .sshr _ _ _ => true
  | .ssra _ _ _ => true
  | .smul _ _ _ => true
  | .smulh _ _ _ => true
  | .smulhn _ _ _ => true
  | .smin _ _ _ => true
  | .smax _ _ _ => true
  | .sminn _ _ _ => true
  | .smaxn _ _ _ => true
  | .ssel _ _ _ => true
  | .sdiv _ _ _ => true
  | .sdivn _ _ _ => true
  | .srem _ _ _ => true
  | .sremn _ _ _ => true
  | .spopc _ _ => true
  | .sclz _ _ => true
  | .sctz _ _ => true
  | .sbrev _ _ => true
  | .scmp _ _ _ k => k != 7
  | .saddi _ _ _ => true
  | .sandi _ _ _ => true
  | .sori _ _ _ => true
  | .sxori _ _ _ => true
  | .sshli _ _ _ => true
  | .sshri _ _ _ => true
  | .ssrai _ _ _ => true
  | .srori _ _ _ => true
  | .scmpi _ _ k _ => k != 7
  | .sli _ _ => true
  | .shin _ _ => true
  | .sldD _ _ _ => true
  | .sldW _ _ _ => true
  | .sstD _ _ _ => true
  | .sstW _ _ _ => true
  | .sfadd _ _ _ => true
  | .sfsub _ _ _ => true
  | .sfmul _ _ _ => true
  | .sfdiv _ _ _ => true
  | .sfmin _ _ _ => true
  | .sfmax _ _ _ => true
  | .scvtf _ _ _ => true
  | .scvti _ _ _ => true
  | .slrD _ _ _ => true
  | .sscD _ _ _ => true
  | .bCnd _ k a _ => k != 7 && (k != 6 || a == 0)
  | .j _ _ => true
  | .call _ _ => true
  | .jr _ => true
  | .loop _ _ _ => true
  | .brvSplit _ _ _ => true
  | .brvAll _ _ _ => true
  | .brvNone _ _ _ => true
  | .brvQsplit _ _ _ => true
  | .brvUni _ _ _ => true
  | .jset _ => true
  | .rep _ _ _ => true
  | .mma _ _ _ _ => true
  | .mmaComplete _ => false
  | .tld _ _ _ => true
  | .tst _ _ _ => true
  | .tzero _ => true
  | .mbatch _ => true
  | .mwait _ => true
  | .rayq _ _ _ _ => true
  | .rayqAny _ _ _ _ => true
  | .visq _ _ _ _ => true
  | .emit _ _ _ _ => true
  | .intersectionResult _ => false
  | .emitStallResume _ _ _ => false
  | .emitStallTimeout _ _ _ => false
  | .vacqW _ _ => true
  | .vacqWaitEnd _ _ _ => false
  | .vacqP _ _ => true
  | .vrel _ => true
  | .xbind _ _ => true
  | .xunb _ => true
  | .launch _ _ s => scopeOk s
  | .sigadd _ _ s => scopeOk s
  | .sigset _ _ s => scopeOk s
  | .vaddF64 _ _ _ _ => true
  | .vsubF64 _ _ _ _ => true
  | .vmulF64 _ _ _ _ => true
  | .vfmaF64 _ _ _ _ => true
  | .vfmsF64 _ _ _ _ => true
  | .vfnmaF64 _ _ _ _ => true
  | .vminF64 _ _ _ _ => true
  | .vmaxF64 _ _ _ _ => true
  | .vdivF64 _ _ _ _ => true
  | .vsqrtF64 _ _ _ => true
  | .vabsF64 _ _ _ => true
  | .vnegF64 _ _ _ => true
  | .vsubnF64 _ _ _ _ => true
  | .vclassF64 _ _ _ => true
  | .vcpsgnF64 _ _ _ _ => true
  | .vrintF64 _ _ _ _ => true
  | .vaddF32x2 _ _ _ _ => true
  | .vsubF32x2 _ _ _ _ => true
  | .vmulF32x2 _ _ _ _ => true
  | .vfmaF32x2 _ _ _ _ => true
  | .vfmsF32x2 _ _ _ _ => true
  | .vfnmaF32x2 _ _ _ _ => true
  | .vminF32x2 _ _ _ _ => true
  | .vmaxF32x2 _ _ _ _ => true
  | .vdivF32x2 _ _ _ _ => true
  | .vsqrtF32x2 _ _ _ => true
  | .vabsF32x2 _ _ _ => true
  | .vnegF32x2 _ _ _ => true
  | .vclassF32x2 _ _ _ => true
  | .vcpsgnF32x2 _ _ _ _ => true
  | .vrintF32x2 _ _ _ _ => true
  | .vf16Add _ _ _ _ _ => true
  | .vf16Sub _ _ _ _ _ => true
  | .vf16Mul _ _ _ _ _ => true
  | .vf16Fma _ _ _ _ _ => true
  | .vf16Min _ _ _ _ _ => true
  | .vf16Max _ _ _ _ _ => true
  | .vf16Abs _ _ _ _ => true
  | .vf16Neg _ _ _ _ => true
  | .vaddI32x2 _ _ _ _ => true
  | .vsubI32x2 _ _ _ _ => true
  | .vmulI32x2 _ _ _ _ => true
  | .vmulhI32x2 _ _ _ _ => true
  | .vmulhnI32x2 _ _ _ _ => true
  | .vminI32x2 _ _ _ _ => true
  | .vmaxI32x2 _ _ _ _ => true
  | .vminnI32x2 _ _ _ _ => true
  | .vmaxnI32x2 _ _ _ _ => true
  | .vabsI32x2 _ _ _ => true
  | .vnegI32x2 _ _ _ => true
  | .vaddsatI32x2 _ _ _ _ => true
  | .vsubsatI32x2 _ _ _ _ => true
  | .vaddsatnI32x2 _ _ _ _ => true
  | .vsubsatnI32x2 _ _ _ _ => true
  | .vaddI64 _ _ _ _ => true
  | .vsubI64 _ _ _ _ => true
  | .vmulI64 _ _ _ _ => true
  | .vmulhI64 _ _ _ _ => true
  | .vmulhnI64 _ _ _ _ => true
  | .vminI64 _ _ _ _ => true
  | .vmaxI64 _ _ _ _ => true
  | .vminnI64 _ _ _ _ => true
  | .vmaxnI64 _ _ _ _ => true
  | .vdivI64 _ _ _ _ => true
  | .vdivnI64 _ _ _ _ => true
  | .vremI64 _ _ _ _ => true
  | .vremnI64 _ _ _ _ => true
  | .vabsI64 _ _ _ => true
  | .vnegI64 _ _ _ => true
  | .vand _ _ _ _ => true
  | .vor _ _ _ _ => true
  | .vxor _ _ _ _ => true
  | .vandn _ _ _ _ => true
  | .vnot _ _ _ => true
  | .vshl _ _ _ _ => true
  | .vshr _ _ _ _ => true
  | .vsra _ _ _ _ => true
  | .vrotl _ _ _ _ => true
  | .vshl32x2 _ _ _ _ => true
  | .vshr32x2 _ _ _ _ => true
  | .vsra32x2 _ _ _ _ => true
  | .vpopc _ _ _ => true
  | .vclz _ _ _ => true
  | .vbrev _ _ _ => true
  | .vbfx _ _ _ _ => true
  | .vmov _ _ _ => true
  | .vsel _ _ _ _ => true
  | .vpk32 _ _ _ _ => true
  | .vhi32 _ _ _ => true
  | .vlo32 _ _ _ => true
  | .vid _ _ => true
  | .vqid _ _ => true
  | .vcmp _ _ _ _ k y => !cmpInteger y || k.toNat < 6
  | .vcvt _ _ x _ s r => cvtOk x s r
  | .vdot4I8 _ _ _ _ _ _ _ => true
  | .vdot8I4 _ _ _ _ _ _ _ => true
  | .vrcpF32x2 _ _ _ => true
  | .vrsqF32x2 _ _ _ => true
  | .vexp2F32x2 _ _ _ => true
  | .vlog2F32x2 _ _ _ => true
  | .vsinF32x2 _ _ _ => true
  | .vcosF32x2 _ _ _ => true
  | .vtanhF32x2 _ _ _ => true
  | .vrcpF64a _ _ _ => true
  | .vrsqF64a _ _ _ => true
  | .vshflIdx _ _ _ _ => true
  | .vshflUp _ _ _ _ => true
  | .vshflDn _ _ _ _ => true
  | .vshflXor _ _ _ _ => true
  | .vqswapH _ _ _ => true
  | .vqswapV _ _ _ => true
  | .vqswapD _ _ _ => true
  | .vqbc _ _ _ _ => true
  | .vqdxF32x2 _ _ _ => true
  | .vqdyF32x2 _ _ _ => true
  | .vqdxF64 _ _ _ => true
  | .vqdyF64 _ _ _ => true
  | .vscanAddI64 _ _ _ => true
  | .vscanAddF64 _ _ _ => true
  | .vredAddI64 _ _ _ => true
  | .vredAddF64 _ _ _ => true
  | .vredMinI64 _ _ _ => true
  | .vredMaxI64 _ _ _ => true
  | .vredMinnN64 _ _ _ => true
  | .vredMaxnN64 _ _ _ => true
  | .vredMinF64 _ _ _ => true
  | .vredMaxF64 _ _ _ => true
  | .vredAnd _ _ _ => true
  | .vredOr _ _ _ => true
  | .vredXor _ _ _ => true
  | .vballot _ _ => true
  | .vany _ _ => true
  | .vall _ _ => true
  | .vfirst _ _ => true
  | .vaddsF64 _ _ _ _ => true
  | .vmulsF64 _ _ _ _ => true
  | .vfmasF64 _ _ _ _ => true
  | .vbcst _ _ _ => true
  | .vget _ _ _ => true
  | .vput _ _ _ => true
  | .vmovi _ _ => true
  | .pand _ _ _ => true
  | .por _ _ _ => true
  | .pxor _ _ _ => true
  | .pandn _ _ _ => true
  | .pnot _ _ => true
  | .pmov _ _ => true
  | .pfroms _ _ => true
  | .ld _ _ _ _ _ => true
  | .st _ _ _ z _ => z.toNat < 6
  | .ldAcq _ _ _ s _ => scopeOk s
  | .stRel _ _ _ s _ => scopeOk s
  | .ldb _ _ _ _ m _ => m != 3
  | .stb _ _ _ z m _ => m != 3 && z.toNat < 6
  | .atom _ _ _ k => k.toNat < 27
  | .red _ _ _ k => k.toNat < 27 && !(16 <= k.toNat && k.toNat < 20)
  | .homeAtomic _ => false
  | .fenceAcq s _ => scopeOk s
  | .fenceRel s _ => scopeOk s
  | .fenceAr s _ => scopeOk s
  | .cmoClean l _ _ => l.toNat < 3
  | .cmoInv l _ _ => l.toNat < 3
  | .cmoClinv l _ _ => l.toNat < 3
  | .cmoPref l _ _ => l.toNat < 3
  | .rgnOff => true
  | .rgnMark _ _ => true
  | .tcopyLd _ _ s l => flagScopeOk s l
  | .tcopySt _ _ s l => flagScopeOk s l
  | .tcopyPl _ _ s l => flagScopeOk s l
  | .bcopy _ _ s l => flagScopeOk s l
  | .bfill _ _ s l => flagScopeOk s l
  | .ratom _ _ => true
  | .coll _ s l => flagScopeOk s l
  | .scopy _ _ => true
  | .binit _ _ => true
  | .barr _ _ s l => flagScopeOk s l
  | .bexp _ _ => true
  | .bwait _ _ s l => flagScopeOk s l
  | .bwaitWake _ _ _ => false
  | .btry _ _ s l => flagScopeOk s l
  | .ctry _ _ s l => flagScopeOk s l
  | .ctryReread _ _ _ => false
  | .ctryTimeout _ _ _ => false
  | .barPly s l => flagScopeOk s l
  | .barSkn s l => flagScopeOk s l
  | .commit _ => false
  | .plyExit _ => false
  | .logDrain _ _ => false
  | .reservationExpiry _ _ _ => false
  | .transferStart _ => false
  | .landingReport _ _ => false
  | .transferComplete _ => false
  | .transferPause _ => false
  | .ratomReply _ _ _ => false
  | .collectiveComplete _ _ => false
  | .collectiveLoss _ => false
  | .timingReplay _ _ => false
  | .rollback _ _ _ _ _ => false
  | .containment _ _ _ _ _ => false
  | .correctedCountReport => false
  | .vacate _ => false
  | .vacateTimeout _ => false
  | .placement => false
  | .reelComplete _ => false
  | .completionTail _ => false
  | .doorbell _ _ _ => false
  | .signalAdd _ => false
  | .signalSet _ => false
  | .wait _ => false
  | .waitTimeout _ => false
  | .parkedRetestTick _ => false
  | .invalTranslation _ => false
  | .invalCode _ => false
  | .invalStaged _ => false
  | .replayResume _ => false
  | .replayKill _ => false
  | .dispatch _ => false
  | .dispatchRole _ => false
  | .draw _ => false
  | .meshSkeinLaunch _ => false
  | .cond _ => false
  | .stage _ => false
  | .stagingGate _ => false
  | .stagingVacateTimeout _ => false
  | .copy _ => false
  | .copyFill _ => false
  | .ckptSave _ => false
  | .ckptRestore _ => false
  | .ckptArmCapture _ => false
  | .intervalCapture _ => false
  | .ckptRerun _ => false
  | .vdevCollapse _ => false
  | .vdevSetEnergyShare _ => false
  | .packetNop _ => false
  | .wake _ => false
  | .refreshWindowOpen _ => false
  | .refreshWindowClose _ => false
  | .energyPeriod => false
  | .create _ => false
  | .destroy _ => false
  | .setAccount _ => false
  | .writeProcessGroupEntry _ => false
  | .setTranslationRoot _ => false
  | .attest => false
  | .commandDone => false
  | .plimit _ => false
  | .queueStateWrite _ _ => false
  | .injectionArm _ => false
  | .registerWrite _ _ => false
  | .apertureAccess _ _ _ _ => false
  | .vfBar2Access _ _ _ _ _ _ => false
  | .hostWrite _ _ _ => false
  | .hostRead _ _ _ => false
  | .atsInvalidateRequest _ _ _ _ => false
  | .prgResponseSuccess _ => false
  | .prgResponseInvalid _ => false
  | .prgResponseFailure _ => false
  | .flr _ => false
  | .packageReset => false
  | .peerRequest _ _ _ _ _ _ _ _ _ => false
  | .peerLoadTimeout _ => false
  | .linkReplay _ => false
  | .linkRetrain _ _ => false
  | .spareLaneRetrain _ => false
  | .linkDown _ => false
  | .downLinkRetrain _ _ => false
  | .queueTableError _ => false
  | .commandCoreSubstitution _ => false
  | .coreSubstitution _ => false
  | .powerThrottle _ => false
  | .thermalEvent _ _ => false
  | .deviceStop _ _ _ => false
  | .packageStop _ => false
  | .illegalEncoding _ _ _ => false
  | .codeFetchFault _ _ _ => false
  | .softError _ _ _ _ _ => false
  | .peerResponse _ _ _ => false
  | .hostCompletion _ _ _ => false
  | .tileOperationComplete _ => false
  | .stagingGateOpen _ => false
  | .vdevCollapseComplete _ => false
  | .configurationRequest _ _ _ => false

/-- The instruction has a legal encoding. -/
def Instr.WellFormed (i : Instr) : Prop := i.wellFormed = true

end Sys2Proof
end

