-- ==== Sys2Proof/Decode.lean ====
section
/-! DEFINITION. The decoder (noncomputable in part only because compiled code has 245 tags for constructors with fields; the kernel evaluates
all of it): from a 32-bit word to its chain bit and instruction, or the name of what makes it illegal (R114 to
R118), and after it the encoder, written from the same layouts. Bit-field helpers and the word packers stand here. -/
namespace Sys2Proof

/-- Why a word is illegally encoded (R117). -/
inductive DecodeError where
  /-- Major opcode 0x3E or 0x3F. -/
  | reservedMajor
  /-- A function value that R116 does not list. -/
  | reservedFunction
  /-- A field without meaning is not zero (R115). -/
  | nonzeroField
  /-- A size code, scope, condition, conversion or mode that is reserved (R117). -/
  | reservedCode
  deriving DecidableEq, Repr

/-- Bits [lo+n-1:lo] of a word. -/
def fld (w : W32) (lo n : Nat) : BitVec n := w.extractLsb' lo n

/-- A word of format Y (R114). -/
def packY (c : BitVec 1) (maj : BitVec 6) (fn7 : BitVec 7) (sa8 : BitVec 8) (imm10 : BitVec 10) : W32 :=
  c ++ maj ++ fn7 ++ sa8 ++ imm10

/-- A word of format SR (R114). -/
def packSR (c : BitVec 1) (maj : BitVec 6) (sd8 : BitVec 8) (sa8 : BitVec 8) (sb6 : BitVec 6) (fn3 : BitVec 3) : W32 :=
  c ++ maj ++ sd8 ++ sa8 ++ sb6 ++ fn3

/-- A word of format SI (R114). -/
def packSI (c : BitVec 1) (maj : BitVec 6) (sd8 : BitVec 8) (sa8 : BitVec 8) (imm9 : BitVec 9) : W32 :=
  c ++ maj ++ sd8 ++ sa8 ++ imm9

/-- A word of format SL (R114). -/
def packSL (c : BitVec 1) (maj : BitVec 6) (sd8 : BitVec 8) (imm17 : BitVec 17) : W32 :=
  c ++ maj ++ sd8 ++ imm17

/-- A word of format SM (R114). -/
def packSM (c : BitVec 1) (maj : BitVec 6) (sd8 : BitVec 8) (sa8 : BitVec 8) (off9 : BitVec 9) : W32 :=
  c ++ maj ++ sd8 ++ sa8 ++ off9

/-- A word of format BR (R114). -/
def packBR (c : BitVec 1) (maj : BitVec 6) (h2 : BitVec 2) (cnd3 : BitVec 3) (sa8 : BitVec 8) (off12 : BitVec 12) : W32 :=
  c ++ maj ++ h2 ++ cnd3 ++ sa8 ++ off12

/-- A word of format JL (R114). -/
def packJL (c : BitVec 1) (maj : BitVec 6) (h2 : BitVec 2) (off23 : BitVec 23) : W32 :=
  c ++ maj ++ h2 ++ off23

/-- A word of format BV (R114). -/
def packBV (c : BitVec 1) (maj : BitVec 6) (h2 : BitVec 2) (pq3 : BitVec 3) (md3 : BitVec 3) (off17 : BitVec 17) : W32 :=
  c ++ maj ++ h2 ++ pq3 ++ md3 ++ off17

/-- A word of format RP (R114). -/
def packRP (c : BitVec 1) (maj : BitVec 6) (cnt6 : BitVec 6) (se3 : BitVec 3) (step2 : BitVec 2) (z : BitVec 14) : W32 :=
  c ++ maj ++ cnt6 ++ se3 ++ step2 ++ z

/-- A word of format MX (R114). -/
def packMX (c : BitVec 1) (maj : BitVec 6) (td4 : BitVec 4) (sa8 : BitVec 8) (sb8 : BitVec 8) (md5 : BitVec 5) : W32 :=
  c ++ maj ++ td4 ++ sa8 ++ sb8 ++ md5

/-- A word of format AS (R114). -/
def packAS (c : BitVec 1) (maj : BitVec 6) (fn4 : BitVec 4) (sa8 : BitVec 8) (sb8 : BitVec 8) (sc3 : BitVec 3) (fl2 : BitVec 2) : W32 :=
  c ++ maj ++ fn4 ++ sa8 ++ sb8 ++ sc3 ++ fl2

/-- A word of format VR (R114). -/
def packVR (c : BitVec 1) (maj : BitVec 6) (vd6 : BitVec 6) (va6 : BitVec 6) (vb6 : BitVec 6) (pg3 : BitVec 3) (fn4 : BitVec 4) : W32 :=
  c ++ maj ++ vd6 ++ va6 ++ vb6 ++ pg3 ++ fn4

/-- A word of format VS (R114). -/
def packVS (c : BitVec 1) (maj : BitVec 6) (vd6 : BitVec 6) (va6 : BitVec 6) (sb8 : BitVec 8) (pg3 : BitVec 3) (fn2 : BitVec 2) : W32 :=
  c ++ maj ++ vd6 ++ va6 ++ sb8 ++ pg3 ++ fn2

/-- A word of format VP (R114). -/
def packVP (c : BitVec 1) (maj : BitVec 6) (pd3 : BitVec 3) (va6 : BitVec 6) (vb6 : BitVec 6) (pg3 : BitVec 3) (cond4 : BitVec 4) (ty3 : BitVec 3) : W32 :=
  c ++ maj ++ pd3 ++ va6 ++ vb6 ++ pg3 ++ cond4 ++ ty3

/-- A word of format VL (R114). -/
def packVL (c : BitVec 1) (maj : BitVec 6) (v6 : BitVec 6) (s8 : BitVec 8) (lane5 : BitVec 5) (dir : BitVec 1) (z : BitVec 5) : W32 :=
  c ++ maj ++ v6 ++ s8 ++ lane5 ++ dir ++ z

/-- A word of format VI (R114). -/
def packVI (c : BitVec 1) (maj : BitVec 6) (vd6 : BitVec 6) (simm19 : BitVec 19) : W32 :=
  c ++ maj ++ vd6 ++ simm19

/-- A word of format VX (R114). -/
def packVX (c : BitVec 1) (maj : BitVec 6) (sd8 : BitVec 8) (va6 : BitVec 6) (pg3 : BitVec 3) (fn8 : BitVec 8) : W32 :=
  c ++ maj ++ sd8 ++ va6 ++ pg3 ++ fn8

/-- A word of format PL (R114). -/
def packPL (c : BitVec 1) (maj : BitVec 6) (pd3 : BitVec 3) (pa3 : BitVec 3) (pb3 : BitVec 3) (fn3 : BitVec 3) (sa8 : BitVec 8) (z : BitVec 5) : W32 :=
  c ++ maj ++ pd3 ++ pa3 ++ pb3 ++ fn3 ++ sa8 ++ z

/-- A word of format M (R114). -/
def packM (c : BitVec 1) (maj : BitVec 6) (vd6 : BitVec 6) (sa8 : BitVec 8) (vo6 : BitVec 6) (sz3 : BitVec 3) (pg2 : BitVec 2) : W32 :=
  c ++ maj ++ vd6 ++ sa8 ++ vo6 ++ sz3 ++ pg2

/-- A word of format MO (R114). -/
def packMO (c : BitVec 1) (maj : BitVec 6) (vd6 : BitVec 6) (sa8 : BitVec 8) (vo6 : BitVec 6) (sc3 : BitVec 3) (sz2 : BitVec 2) : W32 :=
  c ++ maj ++ vd6 ++ sa8 ++ vo6 ++ sc3 ++ sz2

/-- A word of format MB (R114). -/
def packMB (c : BitVec 1) (maj : BitVec 6) (vd6 : BitVec 6) (rq5 : BitVec 5) (vo6 : BitVec 6) (sz3 : BitVec 3) (bm2 : BitVec 2) (pg3 : BitVec 3) : W32 :=
  c ++ maj ++ vd6 ++ rq5 ++ vo6 ++ sz3 ++ bm2 ++ pg3

/-- A word of format MA (R114). -/
def packMA (c : BitVec 1) (maj : BitVec 6) (vd6 : BitVec 6) (sa8 : BitVec 8) (vo6 : BitVec 6) (op5 : BitVec 5) : W32 :=
  c ++ maj ++ vd6 ++ sa8 ++ vo6 ++ op5

/-- A word of format F (R114). -/
def packF (c : BitVec 1) (maj : BitVec 6) (kind2 : BitVec 2) (sc3 : BitVec 3) (sa8 : BitVec 8) (z : BitVec 12) : W32 :=
  c ++ maj ++ kind2 ++ sc3 ++ sa8 ++ z

/-- The members of SYS (0x00, format Y). -/
def decMaj00 (w : W32) : Except DecodeError Instr :=
  if fld w 18 7 == 0#7 then
    if fld w 10 8 == 0#8 && fld w 0 10 == 0#10 then .ok (.nop) else .error .nonzeroField
  else if fld w 18 7 == 1#7 then
    if fld w 10 8 == 0#8 && fld w 0 10 == 0#10 then .ok (.exit) else .error .nonzeroField
  else if fld w 18 7 == 2#7 then
    if fld w 10 8 == 0#8 && fld w 0 10 == 0#10 then .ok (.yield) else .error .nonzeroField
  else if fld w 18 7 == 3#7 then
    .ok (.trap (fld w 10 8) (fld w 0 10))
  else if fld w 18 7 == 4#7 then
    if fld w 10 8 == 0#8 && fld w 0 10 == 0#10 then .ok (.tret) else .error .nonzeroField
  else if fld w 18 7 == 5#7 then
    .ok (.srd (fld w 10 8) (fld w 0 10))
  else if fld w 18 7 == 6#7 then
    .ok (.swr (fld w 10 8) (fld w 0 10))
  else if fld w 18 7 == 7#7 then
    if fld w 3 7 == 0#7 then .ok (.segld (fld w 10 8) (fld w 0 3)) else .error .nonzeroField
  else if fld w 18 7 == 8#7 then
    if fld w 3 7 == 0#7 then .ok (.segrd (fld w 10 8) (fld w 0 3)) else .error .nonzeroField
  else if fld w 18 7 == 9#7 then
    .ok (.abort (fld w 10 8) (fld w 0 10))
  else .error .reservedFunction

/-- The members of SALU.A (0x01, format SR). -/
def decMaj01 (w : W32) : Except DecodeError Instr :=
  if fld w 0 3 == 0#3 then
    .ok (.sadd (fld w 17 8) (fld w 9 8) (fld w 3 6))
  else if fld w 0 3 == 1#3 then
    .ok (.ssub (fld w 17 8) (fld w 9 8) (fld w 3 6))
  else if fld w 0 3 == 2#3 then
    .ok (.sand (fld w 17 8) (fld w 9 8) (fld w 3 6))
  else if fld w 0 3 == 3#3 then
    .ok (.sor (fld w 17 8) (fld w 9 8) (fld w 3 6))
  else if fld w 0 3 == 4#3 then
    .ok (.sxor (fld w 17 8) (fld w 9 8) (fld w 3 6))
  else if fld w 0 3 == 5#3 then
    .ok (.sshl (fld w 17 8) (fld w 9 8) (fld w 3 6))
  else if fld w 0 3 == 6#3 then
    .ok (.sshr (fld w 17 8) (fld w 9 8) (fld w 3 6))
  else if fld w 0 3 == 7#3 then
    .ok (.ssra (fld w 17 8) (fld w 9 8) (fld w 3 6))
  else .error .reservedFunction

/-- The members of SALU.B (0x02, format SR). -/
def decMaj02 (w : W32) : Except DecodeError Instr :=
  if fld w 0 3 == 0#3 then
    .ok (.smul (fld w 17 8) (fld w 9 8) (fld w 3 6))
  else if fld w 0 3 == 1#3 then
    .ok (.smulh (fld w 17 8) (fld w 9 8) (fld w 3 6))
  else if fld w 0 3 == 2#3 then
    .ok (.smulhn (fld w 17 8) (fld w 9 8) (fld w 3 6))
  else if fld w 0 3 == 3#3 then
    .ok (.smin (fld w 17 8) (fld w 9 8) (fld w 3 6))
  else if fld w 0 3 == 4#3 then
    .ok (.smax (fld w 17 8) (fld w 9 8) (fld w 3 6))
  else if fld w 0 3 == 5#3 then
    .ok (.sminn (fld w 17 8) (fld w 9 8) (fld w 3 6))
  else if fld w 0 3 == 6#3 then
    .ok (.smaxn (fld w 17 8) (fld w 9 8) (fld w 3 6))
  else if fld w 0 3 == 7#3 then
    .ok (.ssel (fld w 17 8) (fld w 9 8) (fld w 3 6))
  else .error .reservedFunction

/-- The members of SALU.C (0x03, format SR). -/
def decMaj03 (w : W32) : Except DecodeError Instr :=
  if fld w 0 3 == 0#3 then
    .ok (.sdiv (fld w 17 8) (fld w 9 8) (fld w 3 6))
  else if fld w 0 3 == 1#3 then
    .ok (.sdivn (fld w 17 8) (fld w 9 8) (fld w 3 6))
  else if fld w 0 3 == 2#3 then
    .ok (.srem (fld w 17 8) (fld w 9 8) (fld w 3 6))
  else if fld w 0 3 == 3#3 then
    .ok (.sremn (fld w 17 8) (fld w 9 8) (fld w 3 6))
  else if fld w 0 3 == 4#3 then
    if fld w 3 6 == 0#6 then .ok (.spopc (fld w 17 8) (fld w 9 8)) else .error .nonzeroField
  else if fld w 0 3 == 5#3 then
    if fld w 3 6 == 0#6 then .ok (.sclz (fld w 17 8) (fld w 9 8)) else .error .nonzeroField
  else if fld w 0 3 == 6#3 then
    if fld w 3 6 == 0#6 then .ok (.sctz (fld w 17 8) (fld w 9 8)) else .error .nonzeroField
  else if fld w 0 3 == 7#3 then
    if fld w 3 6 == 0#6 then .ok (.sbrev (fld w 17 8) (fld w 9 8)) else .error .nonzeroField
  else .error .reservedFunction

/-- The members of SCMP (0x04, format SR). -/
def decMaj04 (w : W32) : Except DecodeError Instr :=
  .ok (.scmp (fld w 17 8) (fld w 9 8) (fld w 3 6) (fld w 0 3))

/-- The members of SADDI (0x05, format SI). -/
def decMaj05 (w : W32) : Except DecodeError Instr :=
  .ok (.saddi (fld w 17 8) (fld w 9 8) (fld w 0 9))

/-- The members of SANDI (0x06, format SI). -/
def decMaj06 (w : W32) : Except DecodeError Instr :=
  .ok (.sandi (fld w 17 8) (fld w 9 8) (fld w 0 9))

/-- The members of SORI (0x07, format SI). -/
def decMaj07 (w : W32) : Except DecodeError Instr :=
  .ok (.sori (fld w 17 8) (fld w 9 8) (fld w 0 9))

/-- The members of SXORI (0x08, format SI). -/
def decMaj08 (w : W32) : Except DecodeError Instr :=
  .ok (.sxori (fld w 17 8) (fld w 9 8) (fld w 0 9))

/-- The members of SSHI (0x09, format SI). -/
def decMaj09 (w : W32) : Except DecodeError Instr :=
  if fld w 6 3 == 0#3 then
    .ok (.sshli (fld w 17 8) (fld w 9 8) (fld w 0 6))
  else if fld w 6 3 == 2#3 then
    .ok (.sshri (fld w 17 8) (fld w 9 8) (fld w 0 6))
  else if fld w 6 3 == 4#3 then
    .ok (.ssrai (fld w 17 8) (fld w 9 8) (fld w 0 6))
  else if fld w 6 3 == 6#3 then
    .ok (.srori (fld w 17 8) (fld w 9 8) (fld w 0 6))
  else .error .reservedFunction

/-- The members of SCMPI (0x0A, format SI). -/
def decMaj0A (w : W32) : Except DecodeError Instr :=
  .ok (.scmpi (fld w 17 8) (fld w 9 8) (fld w 6 3) (fld w 0 6))

/-- The members of SLI (0x0B, format SL). -/
def decMaj0B (w : W32) : Except DecodeError Instr :=
  .ok (.sli (fld w 17 8) (fld w 0 17))

/-- The members of SHIN (0x0C, format SL). -/
def decMaj0C (w : W32) : Except DecodeError Instr :=
  .ok (.shin (fld w 17 8) (fld w 0 17))

/-- The members of SLD.D (0x0D, format SM). -/
def decMaj0D (w : W32) : Except DecodeError Instr :=
  .ok (.sldD (fld w 17 8) (fld w 9 8) (fld w 0 9))

/-- The members of SLD.W (0x0E, format SM). -/
def decMaj0E (w : W32) : Except DecodeError Instr :=
  .ok (.sldW (fld w 17 8) (fld w 9 8) (fld w 0 9))

/-- The members of SST.D (0x0F, format SM). -/
def decMaj0F (w : W32) : Except DecodeError Instr :=
  .ok (.sstD (fld w 17 8) (fld w 9 8) (fld w 0 9))

/-- The members of SST.W (0x10, format SM). -/
def decMaj10 (w : W32) : Except DecodeError Instr :=
  .ok (.sstW (fld w 17 8) (fld w 9 8) (fld w 0 9))

/-- The members of SFP (0x11, format SR). -/
def decMaj11 (w : W32) : Except DecodeError Instr :=
  if fld w 0 3 == 0#3 then
    .ok (.sfadd (fld w 17 8) (fld w 9 8) (fld w 3 6))
  else if fld w 0 3 == 1#3 then
    .ok (.sfsub (fld w 17 8) (fld w 9 8) (fld w 3 6))
  else if fld w 0 3 == 2#3 then
    .ok (.sfmul (fld w 17 8) (fld w 9 8) (fld w 3 6))
  else if fld w 0 3 == 3#3 then
    .ok (.sfdiv (fld w 17 8) (fld w 9 8) (fld w 3 6))
  else if fld w 0 3 == 4#3 then
    .ok (.sfmin (fld w 17 8) (fld w 9 8) (fld w 3 6))
  else if fld w 0 3 == 5#3 then
    .ok (.sfmax (fld w 17 8) (fld w 9 8) (fld w 3 6))
  else if fld w 0 3 == 6#3 then
    if fld w 6 3 == 0#3 then .ok (.scvtf (fld w 17 8) (fld w 9 8) (fld w 3 3)) else .error .nonzeroField
  else if fld w 0 3 == 7#3 then
    if fld w 6 3 == 0#3 then .ok (.scvti (fld w 17 8) (fld w 9 8) (fld w 3 3)) else .error .nonzeroField
  else .error .reservedFunction

/-- The members of SLR.D (0x12, format SM). -/
def decMaj12 (w : W32) : Except DecodeError Instr :=
  .ok (.slrD (fld w 17 8) (fld w 9 8) (fld w 0 9))

/-- The members of SSC.D (0x13, format SR). -/
def decMaj13 (w : W32) : Except DecodeError Instr :=
  if fld w 0 3 == 0#3 then .ok (.sscD (fld w 17 8) (fld w 9 8) (fld w 3 6)) else .error .nonzeroField

/-- The members of B.cnd (0x14, format BR). -/
def decMaj14 (w : W32) : Except DecodeError Instr :=
  .ok (.bCnd (fld w 23 2) (fld w 20 3) (fld w 12 8) (fld w 0 12))

/-- The members of J (0x15, format JL). -/
def decMaj15 (w : W32) : Except DecodeError Instr :=
  .ok (.j (fld w 23 2) (fld w 0 23))

/-- The members of CALL (0x16, format JL). -/
def decMaj16 (w : W32) : Except DecodeError Instr :=
  .ok (.call (fld w 23 2) (fld w 0 23))

/-- The members of JR (0x17, format SR). -/
def decMaj17 (w : W32) : Except DecodeError Instr :=
  if fld w 17 8 == 0#8 && fld w 3 6 == 0#6 && fld w 0 3 == 0#3 then .ok (.jr (fld w 9 8)) else .error .nonzeroField

/-- The members of LOOP (0x18, format BR). -/
def decMaj18 (w : W32) : Except DecodeError Instr :=
  if fld w 20 3 == 0#3 then .ok (.loop (fld w 23 2) (fld w 12 8) (fld w 0 12)) else .error .nonzeroField

/-- The members of BRV (0x19, format BV). -/
def decMaj19 (w : W32) : Except DecodeError Instr :=
  if fld w 17 3 == 0#3 then
    .ok (.brvSplit (fld w 23 2) (fld w 20 3) (fld w 0 17))
  else if fld w 17 3 == 1#3 then
    .ok (.brvAll (fld w 23 2) (fld w 20 3) (fld w 0 17))
  else if fld w 17 3 == 2#3 then
    .ok (.brvNone (fld w 23 2) (fld w 20 3) (fld w 0 17))
  else if fld w 17 3 == 3#3 then
    .ok (.brvQsplit (fld w 23 2) (fld w 20 3) (fld w 0 17))
  else if fld w 17 3 == 4#3 then
    .ok (.brvUni (fld w 23 2) (fld w 20 3) (fld w 0 17))
  else .error .reservedFunction

/-- The members of JSET (0x1A, format JL). -/
def decMaj1A (w : W32) : Except DecodeError Instr :=
  if fld w 23 2 == 0#2 then .ok (.jset (fld w 0 23)) else .error .nonzeroField

/-- The members of REP (0x1B, format RP). -/
def decMaj1B (w : W32) : Except DecodeError Instr :=
  if fld w 0 14 == 0#14 then .ok (.rep (fld w 19 6) (fld w 16 3) (fld w 14 2)) else .error .nonzeroField

/-- The members of MMA (0x1C, format MX). -/
def decMaj1C (w : W32) : Except DecodeError Instr :=
  if fld w 3 2 == 0#2 then .ok (.mma (fld w 21 4) (fld w 13 8) (fld w 5 8) (fld w 0 3)) else .error .nonzeroField

/-- The members of TILE (0x1D, format MX). -/
def decMaj1D (w : W32) : Except DecodeError Instr :=
  if fld w 0 3 == 0#3 then
    if fld w 3 2 == 0#2 then .ok (.tld (fld w 21 4) (fld w 13 8) (fld w 5 8)) else .error .nonzeroField
  else if fld w 0 3 == 1#3 then
    if fld w 3 2 == 0#2 then .ok (.tst (fld w 21 4) (fld w 13 8) (fld w 5 8)) else .error .nonzeroField
  else if fld w 0 3 == 2#3 then
    if fld w 13 8 == 0#8 && fld w 5 8 == 0#8 && fld w 3 2 == 0#2 then .ok (.tzero (fld w 21 4)) else .error .nonzeroField
  else if fld w 0 3 == 3#3 then
    if fld w 21 4 == 0#4 && fld w 5 8 == 0#8 && fld w 3 2 == 0#2 then .ok (.mbatch (fld w 13 8)) else .error .nonzeroField
  else if fld w 0 3 == 4#3 then
    if fld w 21 4 == 0#4 && fld w 5 8 == 0#8 && fld w 3 2 == 0#2 then .ok (.mwait (fld w 13 8)) else .error .nonzeroField
  else .error .reservedFunction

/-- The members of IU (0x1E, format VS). -/
def decMaj1E (w : W32) : Except DecodeError Instr :=
  if fld w 0 2 == 0#2 then
    .ok (.rayq (fld w 19 6) (fld w 13 6) (fld w 5 8) (fld w 2 3))
  else if fld w 0 2 == 1#2 then
    .ok (.rayqAny (fld w 19 6) (fld w 13 6) (fld w 5 8) (fld w 2 3))
  else if fld w 0 2 == 2#2 then
    .ok (.visq (fld w 19 6) (fld w 13 6) (fld w 5 8) (fld w 2 3))
  else if fld w 0 2 == 3#2 then
    .ok (.emit (fld w 19 6) (fld w 13 6) (fld w 5 8) (fld w 2 3))
  else .error .reservedFunction

/-- The members of MGMT (0x1F, format AS). -/
def decMaj1F (w : W32) : Except DecodeError Instr :=
  if fld w 21 4 == 0#4 then
    if fld w 2 3 == 0#3 && fld w 0 2 == 0#2 then .ok (.vacqW (fld w 13 8) (fld w 5 8)) else .error .nonzeroField
  else if fld w 21 4 == 1#4 then
    if fld w 2 3 == 0#3 && fld w 0 2 == 0#2 then .ok (.vacqP (fld w 13 8) (fld w 5 8)) else .error .nonzeroField
  else if fld w 21 4 == 2#4 then
    if fld w 13 8 == 0#8 && fld w 2 3 == 0#3 && fld w 0 2 == 0#2 then .ok (.vrel (fld w 5 8)) else .error .nonzeroField
  else if fld w 21 4 == 3#4 then
    if fld w 2 3 == 0#3 && fld w 0 2 == 0#2 then .ok (.xbind (fld w 13 8) (fld w 5 8)) else .error .nonzeroField
  else if fld w 21 4 == 4#4 then
    if fld w 5 8 == 0#8 && fld w 2 3 == 0#3 && fld w 0 2 == 0#2 then .ok (.xunb (fld w 13 8)) else .error .nonzeroField
  else if fld w 21 4 == 5#4 then
    if fld w 0 2 == 1#2 then .ok (.launch (fld w 13 8) (fld w 5 8) (fld w 2 3)) else .error .nonzeroField
  else if fld w 21 4 == 6#4 then
    if fld w 0 2 == 1#2 then .ok (.sigadd (fld w 13 8) (fld w 5 8) (fld w 2 3)) else .error .nonzeroField
  else if fld w 21 4 == 7#4 then
    if fld w 0 2 == 1#2 then .ok (.sigset (fld w 13 8) (fld w 5 8) (fld w 2 3)) else .error .nonzeroField
  else .error .reservedFunction

/-- The members of VF64 (0x20, format VR). -/
def decMaj20 (w : W32) : Except DecodeError Instr :=
  if fld w 0 4 == 0#4 then
    .ok (.vaddF64 (fld w 19 6) (fld w 13 6) (fld w 7 6) (fld w 4 3))
  else if fld w 0 4 == 1#4 then
    .ok (.vsubF64 (fld w 19 6) (fld w 13 6) (fld w 7 6) (fld w 4 3))
  else if fld w 0 4 == 2#4 then
    .ok (.vmulF64 (fld w 19 6) (fld w 13 6) (fld w 7 6) (fld w 4 3))
  else if fld w 0 4 == 3#4 then
    .ok (.vfmaF64 (fld w 19 6) (fld w 13 6) (fld w 7 6) (fld w 4 3))
  else if fld w 0 4 == 4#4 then
    .ok (.vfmsF64 (fld w 19 6) (fld w 13 6) (fld w 7 6) (fld w 4 3))
  else if fld w 0 4 == 5#4 then
    .ok (.vfnmaF64 (fld w 19 6) (fld w 13 6) (fld w 7 6) (fld w 4 3))
  else if fld w 0 4 == 6#4 then
    .ok (.vminF64 (fld w 19 6) (fld w 13 6) (fld w 7 6) (fld w 4 3))
  else if fld w 0 4 == 7#4 then
    .ok (.vmaxF64 (fld w 19 6) (fld w 13 6) (fld w 7 6) (fld w 4 3))
  else if fld w 0 4 == 8#4 then
    .ok (.vdivF64 (fld w 19 6) (fld w 13 6) (fld w 7 6) (fld w 4 3))
  else if fld w 0 4 == 9#4 then
    if fld w 7 6 == 0#6 then .ok (.vsqrtF64 (fld w 19 6) (fld w 13 6) (fld w 4 3)) else .error .nonzeroField
  else if fld w 0 4 == 10#4 then
    if fld w 7 6 == 0#6 then .ok (.vabsF64 (fld w 19 6) (fld w 13 6) (fld w 4 3)) else .error .nonzeroField
  else if fld w 0 4 == 11#4 then
    if fld w 7 6 == 0#6 then .ok (.vnegF64 (fld w 19 6) (fld w 13 6) (fld w 4 3)) else .error .nonzeroField
  else if fld w 0 4 == 12#4 then
    .ok (.vsubnF64 (fld w 19 6) (fld w 13 6) (fld w 7 6) (fld w 4 3))
  else if fld w 0 4 == 13#4 then
    if fld w 7 6 == 0#6 then .ok (.vclassF64 (fld w 19 6) (fld w 13 6) (fld w 4 3)) else .error .nonzeroField
  else if fld w 0 4 == 14#4 then
    .ok (.vcpsgnF64 (fld w 19 6) (fld w 13 6) (fld w 7 6) (fld w 4 3))
  else if fld w 0 4 == 15#4 then
    if fld w 10 3 == 0#3 then .ok (.vrintF64 (fld w 19 6) (fld w 13 6) (fld w 7 3) (fld w 4 3)) else .error .nonzeroField
  else .error .reservedFunction

/-- The members of VF32 (0x21, format VR). -/
def decMaj21 (w : W32) : Except DecodeError Instr :=
  if fld w 0 4 == 0#4 then
    .ok (.vaddF32x2 (fld w 19 6) (fld w 13 6) (fld w 7 6) (fld w 4 3))
  else if fld w 0 4 == 1#4 then
    .ok (.vsubF32x2 (fld w 19 6) (fld w 13 6) (fld w 7 6) (fld w 4 3))
  else if fld w 0 4 == 2#4 then
    .ok (.vmulF32x2 (fld w 19 6) (fld w 13 6) (fld w 7 6) (fld w 4 3))
  else if fld w 0 4 == 3#4 then
    .ok (.vfmaF32x2 (fld w 19 6) (fld w 13 6) (fld w 7 6) (fld w 4 3))
  else if fld w 0 4 == 4#4 then
    .ok (.vfmsF32x2 (fld w 19 6) (fld w 13 6) (fld w 7 6) (fld w 4 3))
  else if fld w 0 4 == 5#4 then
    .ok (.vfnmaF32x2 (fld w 19 6) (fld w 13 6) (fld w 7 6) (fld w 4 3))
  else if fld w 0 4 == 6#4 then
    .ok (.vminF32x2 (fld w 19 6) (fld w 13 6) (fld w 7 6) (fld w 4 3))
  else if fld w 0 4 == 7#4 then
    .ok (.vmaxF32x2 (fld w 19 6) (fld w 13 6) (fld w 7 6) (fld w 4 3))
  else if fld w 0 4 == 8#4 then
    .ok (.vdivF32x2 (fld w 19 6) (fld w 13 6) (fld w 7 6) (fld w 4 3))
  else if fld w 0 4 == 9#4 then
    if fld w 7 6 == 0#6 then .ok (.vsqrtF32x2 (fld w 19 6) (fld w 13 6) (fld w 4 3)) else .error .nonzeroField
  else if fld w 0 4 == 10#4 then
    if fld w 7 6 == 0#6 then .ok (.vabsF32x2 (fld w 19 6) (fld w 13 6) (fld w 4 3)) else .error .nonzeroField
  else if fld w 0 4 == 11#4 then
    if fld w 7 6 == 0#6 then .ok (.vnegF32x2 (fld w 19 6) (fld w 13 6) (fld w 4 3)) else .error .nonzeroField
  else if fld w 0 4 == 13#4 then
    if fld w 7 6 == 0#6 then .ok (.vclassF32x2 (fld w 19 6) (fld w 13 6) (fld w 4 3)) else .error .nonzeroField
  else if fld w 0 4 == 14#4 then
    .ok (.vcpsgnF32x2 (fld w 19 6) (fld w 13 6) (fld w 7 6) (fld w 4 3))
  else if fld w 0 4 == 15#4 then
    if fld w 10 3 == 0#3 then .ok (.vrintF32x2 (fld w 19 6) (fld w 13 6) (fld w 7 3) (fld w 4 3)) else .error .nonzeroField
  else .error .reservedFunction

/-- The members of VF16 (0x22, format VR). -/
def decMaj22 (w : W32) : Except DecodeError Instr :=
  if fld w 0 3 == 0#3 then
    .ok (.vf16Add (fld w 19 6) (fld w 13 6) (fld w 7 6) (fld w 4 3) (fld w 3 1))
  else if fld w 0 3 == 1#3 then
    .ok (.vf16Sub (fld w 19 6) (fld w 13 6) (fld w 7 6) (fld w 4 3) (fld w 3 1))
  else if fld w 0 3 == 2#3 then
    .ok (.vf16Mul (fld w 19 6) (fld w 13 6) (fld w 7 6) (fld w 4 3) (fld w 3 1))
  else if fld w 0 3 == 3#3 then
    .ok (.vf16Fma (fld w 19 6) (fld w 13 6) (fld w 7 6) (fld w 4 3) (fld w 3 1))
  else if fld w 0 3 == 4#3 then
    .ok (.vf16Min (fld w 19 6) (fld w 13 6) (fld w 7 6) (fld w 4 3) (fld w 3 1))
  else if fld w 0 3 == 5#3 then
    .ok (.vf16Max (fld w 19 6) (fld w 13 6) (fld w 7 6) (fld w 4 3) (fld w 3 1))
  else if fld w 0 3 == 6#3 then
    if fld w 7 6 == 0#6 then .ok (.vf16Abs (fld w 19 6) (fld w 13 6) (fld w 4 3) (fld w 3 1)) else .error .nonzeroField
  else if fld w 0 3 == 7#3 then
    if fld w 7 6 == 0#6 then .ok (.vf16Neg (fld w 19 6) (fld w 13 6) (fld w 4 3) (fld w 3 1)) else .error .nonzeroField
  else .error .reservedFunction

/-- The members of VI32 (0x23, format VR). -/
noncomputable def decMaj23 (w : W32) : Except DecodeError Instr :=
  if fld w 0 4 == 0#4 then
    .ok (.vaddI32x2 (fld w 19 6) (fld w 13 6) (fld w 7 6) (fld w 4 3))
  else if fld w 0 4 == 1#4 then
    .ok (.vsubI32x2 (fld w 19 6) (fld w 13 6) (fld w 7 6) (fld w 4 3))
  else if fld w 0 4 == 2#4 then
    .ok (.vmulI32x2 (fld w 19 6) (fld w 13 6) (fld w 7 6) (fld w 4 3))
  else if fld w 0 4 == 3#4 then
    .ok (.vmulhI32x2 (fld w 19 6) (fld w 13 6) (fld w 7 6) (fld w 4 3))
  else if fld w 0 4 == 4#4 then
    .ok (.vmulhnI32x2 (fld w 19 6) (fld w 13 6) (fld w 7 6) (fld w 4 3))
  else if fld w 0 4 == 5#4 then
    .ok (.vminI32x2 (fld w 19 6) (fld w 13 6) (fld w 7 6) (fld w 4 3))
  else if fld w 0 4 == 6#4 then
    .ok (.vmaxI32x2 (fld w 19 6) (fld w 13 6) (fld w 7 6) (fld w 4 3))
  else if fld w 0 4 == 7#4 then
    .ok (.vminnI32x2 (fld w 19 6) (fld w 13 6) (fld w 7 6) (fld w 4 3))
  else if fld w 0 4 == 8#4 then
    .ok (.vmaxnI32x2 (fld w 19 6) (fld w 13 6) (fld w 7 6) (fld w 4 3))
  else if fld w 0 4 == 9#4 then
    if fld w 7 6 == 0#6 then .ok (.vabsI32x2 (fld w 19 6) (fld w 13 6) (fld w 4 3)) else .error .nonzeroField
  else if fld w 0 4 == 10#4 then
    if fld w 7 6 == 0#6 then .ok (.vnegI32x2 (fld w 19 6) (fld w 13 6) (fld w 4 3)) else .error .nonzeroField
  else if fld w 0 4 == 11#4 then
    .ok (.vaddsatI32x2 (fld w 19 6) (fld w 13 6) (fld w 7 6) (fld w 4 3))
  else if fld w 0 4 == 12#4 then
    .ok (.vsubsatI32x2 (fld w 19 6) (fld w 13 6) (fld w 7 6) (fld w 4 3))
  else if fld w 0 4 == 13#4 then
    .ok (.vaddsatnI32x2 (fld w 19 6) (fld w 13 6) (fld w 7 6) (fld w 4 3))
  else if fld w 0 4 == 14#4 then
    .ok (.vsubsatnI32x2 (fld w 19 6) (fld w 13 6) (fld w 7 6) (fld w 4 3))
  else .error .reservedFunction

/-- The members of VI64 (0x24, format VR). -/
noncomputable def decMaj24 (w : W32) : Except DecodeError Instr :=
  if fld w 0 4 == 0#4 then
    .ok (.vaddI64 (fld w 19 6) (fld w 13 6) (fld w 7 6) (fld w 4 3))
  else if fld w 0 4 == 1#4 then
    .ok (.vsubI64 (fld w 19 6) (fld w 13 6) (fld w 7 6) (fld w 4 3))
  else if fld w 0 4 == 2#4 then
    .ok (.vmulI64 (fld w 19 6) (fld w 13 6) (fld w 7 6) (fld w 4 3))
  else if fld w 0 4 == 3#4 then
    .ok (.vmulhI64 (fld w 19 6) (fld w 13 6) (fld w 7 6) (fld w 4 3))
  else if fld w 0 4 == 4#4 then
    .ok (.vmulhnI64 (fld w 19 6) (fld w 13 6) (fld w 7 6) (fld w 4 3))
  else if fld w 0 4 == 5#4 then
    .ok (.vminI64 (fld w 19 6) (fld w 13 6) (fld w 7 6) (fld w 4 3))
  else if fld w 0 4 == 6#4 then
    .ok (.vmaxI64 (fld w 19 6) (fld w 13 6) (fld w 7 6) (fld w 4 3))
  else if fld w 0 4 == 7#4 then
    .ok (.vminnI64 (fld w 19 6) (fld w 13 6) (fld w 7 6) (fld w 4 3))
  else if fld w 0 4 == 8#4 then
    .ok (.vmaxnI64 (fld w 19 6) (fld w 13 6) (fld w 7 6) (fld w 4 3))
  else if fld w 0 4 == 9#4 then
    .ok (.vdivI64 (fld w 19 6) (fld w 13 6) (fld w 7 6) (fld w 4 3))
  else if fld w 0 4 == 10#4 then
    .ok (.vdivnI64 (fld w 19 6) (fld w 13 6) (fld w 7 6) (fld w 4 3))
  else if fld w 0 4 == 11#4 then
    .ok (.vremI64 (fld w 19 6) (fld w 13 6) (fld w 7 6) (fld w 4 3))
  else if fld w 0 4 == 12#4 then
    .ok (.vremnI64 (fld w 19 6) (fld w 13 6) (fld w 7 6) (fld w 4 3))
  else if fld w 0 4 == 13#4 then
    if fld w 7 6 == 0#6 then .ok (.vabsI64 (fld w 19 6) (fld w 13 6) (fld w 4 3)) else .error .nonzeroField
  else if fld w 0 4 == 14#4 then
    if fld w 7 6 == 0#6 then .ok (.vnegI64 (fld w 19 6) (fld w 13 6) (fld w 4 3)) else .error .nonzeroField
  else .error .reservedFunction

/-- The members of VLOG (0x25, format VR). -/
noncomputable def decMaj25 (w : W32) : Except DecodeError Instr :=
  if fld w 0 4 == 0#4 then
    .ok (.vand (fld w 19 6) (fld w 13 6) (fld w 7 6) (fld w 4 3))
  else if fld w 0 4 == 1#4 then
    .ok (.vor (fld w 19 6) (fld w 13 6) (fld w 7 6) (fld w 4 3))
  else if fld w 0 4 == 2#4 then
    .ok (.vxor (fld w 19 6) (fld w 13 6) (fld w 7 6) (fld w 4 3))
  else if fld w 0 4 == 3#4 then
    .ok (.vandn (fld w 19 6) (fld w 13 6) (fld w 7 6) (fld w 4 3))
  else if fld w 0 4 == 4#4 then
    if fld w 7 6 == 0#6 then .ok (.vnot (fld w 19 6) (fld w 13 6) (fld w 4 3)) else .error .nonzeroField
  else if fld w 0 4 == 5#4 then
    .ok (.vshl (fld w 19 6) (fld w 13 6) (fld w 7 6) (fld w 4 3))
  else if fld w 0 4 == 6#4 then
    .ok (.vshr (fld w 19 6) (fld w 13 6) (fld w 7 6) (fld w 4 3))
  else if fld w 0 4 == 7#4 then
    .ok (.vsra (fld w 19 6) (fld w 13 6) (fld w 7 6) (fld w 4 3))
  else if fld w 0 4 == 8#4 then
    .ok (.vrotl (fld w 19 6) (fld w 13 6) (fld w 7 6) (fld w 4 3))
  else if fld w 0 4 == 9#4 then
    .ok (.vshl32x2 (fld w 19 6) (fld w 13 6) (fld w 7 6) (fld w 4 3))
  else if fld w 0 4 == 10#4 then
    .ok (.vshr32x2 (fld w 19 6) (fld w 13 6) (fld w 7 6) (fld w 4 3))
  else if fld w 0 4 == 11#4 then
    .ok (.vsra32x2 (fld w 19 6) (fld w 13 6) (fld w 7 6) (fld w 4 3))
  else if fld w 0 4 == 12#4 then
    if fld w 7 6 == 0#6 then .ok (.vpopc (fld w 19 6) (fld w 13 6) (fld w 4 3)) else .error .nonzeroField
  else if fld w 0 4 == 13#4 then
    if fld w 7 6 == 0#6 then .ok (.vclz (fld w 19 6) (fld w 13 6) (fld w 4 3)) else .error .nonzeroField
  else if fld w 0 4 == 14#4 then
    if fld w 7 6 == 0#6 then .ok (.vbrev (fld w 19 6) (fld w 13 6) (fld w 4 3)) else .error .nonzeroField
  else if fld w 0 4 == 15#4 then
    .ok (.vbfx (fld w 19 6) (fld w 13 6) (fld w 7 6) (fld w 4 3))
  else .error .reservedFunction

/-- The members of VMOV (0x26, format VR). -/
noncomputable def decMaj26 (w : W32) : Except DecodeError Instr :=
  if fld w 0 4 == 0#4 then
    if fld w 7 6 == 0#6 then .ok (.vmov (fld w 19 6) (fld w 13 6) (fld w 4 3)) else .error .nonzeroField
  else if fld w 0 4 == 1#4 then
    .ok (.vsel (fld w 19 6) (fld w 13 6) (fld w 7 6) (fld w 4 3))
  else if fld w 0 4 == 2#4 then
    .ok (.vpk32 (fld w 19 6) (fld w 13 6) (fld w 7 6) (fld w 4 3))
  else if fld w 0 4 == 3#4 then
    if fld w 7 6 == 0#6 then .ok (.vhi32 (fld w 19 6) (fld w 13 6) (fld w 4 3)) else .error .nonzeroField
  else if fld w 0 4 == 4#4 then
    if fld w 7 6 == 0#6 then .ok (.vlo32 (fld w 19 6) (fld w 13 6) (fld w 4 3)) else .error .nonzeroField
  else if fld w 0 4 == 5#4 then
    if fld w 13 6 == 0#6 && fld w 7 6 == 0#6 then .ok (.vid (fld w 19 6) (fld w 4 3)) else .error .nonzeroField
  else if fld w 0 4 == 6#4 then
    if fld w 13 6 == 0#6 && fld w 7 6 == 0#6 then .ok (.vqid (fld w 19 6) (fld w 4 3)) else .error .nonzeroField
  else .error .reservedFunction

/-- The members of VCMP (0x27, format VP). -/
noncomputable def decMaj27 (w : W32) : Except DecodeError Instr :=
  .ok (.vcmp (fld w 22 3) (fld w 16 6) (fld w 10 6) (fld w 7 3) (fld w 3 4) (fld w 0 3))

/-- The members of VCVT (0x28, format VR). -/
noncomputable def decMaj28 (w : W32) : Except DecodeError Instr :=
  .ok (.vcvt (fld w 19 6) (fld w 13 6) (fld w 7 6) (fld w 4 3) (fld w 3 1) (fld w 0 3))

/-- The members of VDOT (0x29, format VR). -/
noncomputable def decMaj29 (w : W32) : Except DecodeError Instr :=
  if fld w 3 1 == 0#1 then
    .ok (.vdot4I8 (fld w 19 6) (fld w 13 6) (fld w 7 6) (fld w 4 3) (fld w 2 1) (fld w 1 1) (fld w 0 1))
  else if fld w 3 1 == 1#1 then
    .ok (.vdot8I4 (fld w 19 6) (fld w 13 6) (fld w 7 6) (fld w 4 3) (fld w 2 1) (fld w 1 1) (fld w 0 1))
  else .error .reservedFunction

/-- The members of VSFU (0x2A, format VR). -/
noncomputable def decMaj2A (w : W32) : Except DecodeError Instr :=
  if fld w 0 4 == 0#4 then
    if fld w 7 6 == 0#6 then .ok (.vrcpF32x2 (fld w 19 6) (fld w 13 6) (fld w 4 3)) else .error .nonzeroField
  else if fld w 0 4 == 1#4 then
    if fld w 7 6 == 0#6 then .ok (.vrsqF32x2 (fld w 19 6) (fld w 13 6) (fld w 4 3)) else .error .nonzeroField
  else if fld w 0 4 == 2#4 then
    if fld w 7 6 == 0#6 then .ok (.vexp2F32x2 (fld w 19 6) (fld w 13 6) (fld w 4 3)) else .error .nonzeroField
  else if fld w 0 4 == 3#4 then
    if fld w 7 6 == 0#6 then .ok (.vlog2F32x2 (fld w 19 6) (fld w 13 6) (fld w 4 3)) else .error .nonzeroField
  else if fld w 0 4 == 4#4 then
    if fld w 7 6 == 0#6 then .ok (.vsinF32x2 (fld w 19 6) (fld w 13 6) (fld w 4 3)) else .error .nonzeroField
  else if fld w 0 4 == 5#4 then
    if fld w 7 6 == 0#6 then .ok (.vcosF32x2 (fld w 19 6) (fld w 13 6) (fld w 4 3)) else .error .nonzeroField
  else if fld w 0 4 == 6#4 then
    if fld w 7 6 == 0#6 then .ok (.vtanhF32x2 (fld w 19 6) (fld w 13 6) (fld w 4 3)) else .error .nonzeroField
  else if fld w 0 4 == 7#4 then
    if fld w 7 6 == 0#6 then .ok (.vrcpF64a (fld w 19 6) (fld w 13 6) (fld w 4 3)) else .error .nonzeroField
  else if fld w 0 4 == 8#4 then
    if fld w 7 6 == 0#6 then .ok (.vrsqF64a (fld w 19 6) (fld w 13 6) (fld w 4 3)) else .error .nonzeroField
  else .error .reservedFunction

/-- The members of VXL (0x2B, format VR). -/
noncomputable def decMaj2B (w : W32) : Except DecodeError Instr :=
  if fld w 0 4 == 0#4 then
    .ok (.vshflIdx (fld w 19 6) (fld w 13 6) (fld w 7 6) (fld w 4 3))
  else if fld w 0 4 == 1#4 then
    .ok (.vshflUp (fld w 19 6) (fld w 13 6) (fld w 7 6) (fld w 4 3))
  else if fld w 0 4 == 2#4 then
    .ok (.vshflDn (fld w 19 6) (fld w 13 6) (fld w 7 6) (fld w 4 3))
  else if fld w 0 4 == 3#4 then
    .ok (.vshflXor (fld w 19 6) (fld w 13 6) (fld w 7 6) (fld w 4 3))
  else if fld w 0 4 == 4#4 then
    if fld w 7 6 == 0#6 then .ok (.vqswapH (fld w 19 6) (fld w 13 6) (fld w 4 3)) else .error .nonzeroField
  else if fld w 0 4 == 5#4 then
    if fld w 7 6 == 0#6 then .ok (.vqswapV (fld w 19 6) (fld w 13 6) (fld w 4 3)) else .error .nonzeroField
  else if fld w 0 4 == 6#4 then
    if fld w 7 6 == 0#6 then .ok (.vqswapD (fld w 19 6) (fld w 13 6) (fld w 4 3)) else .error .nonzeroField
  else if fld w 0 4 == 7#4 then
    .ok (.vqbc (fld w 19 6) (fld w 13 6) (fld w 7 6) (fld w 4 3))
  else if fld w 0 4 == 8#4 then
    if fld w 7 6 == 0#6 then .ok (.vqdxF32x2 (fld w 19 6) (fld w 13 6) (fld w 4 3)) else .error .nonzeroField
  else if fld w 0 4 == 9#4 then
    if fld w 7 6 == 0#6 then .ok (.vqdyF32x2 (fld w 19 6) (fld w 13 6) (fld w 4 3)) else .error .nonzeroField
  else if fld w 0 4 == 10#4 then
    if fld w 7 6 == 0#6 then .ok (.vqdxF64 (fld w 19 6) (fld w 13 6) (fld w 4 3)) else .error .nonzeroField
  else if fld w 0 4 == 11#4 then
    if fld w 7 6 == 0#6 then .ok (.vqdyF64 (fld w 19 6) (fld w 13 6) (fld w 4 3)) else .error .nonzeroField
  else if fld w 0 4 == 12#4 then
    if fld w 7 6 == 0#6 then .ok (.vscanAddI64 (fld w 19 6) (fld w 13 6) (fld w 4 3)) else .error .nonzeroField
  else if fld w 0 4 == 13#4 then
    if fld w 7 6 == 0#6 then .ok (.vscanAddF64 (fld w 19 6) (fld w 13 6) (fld w 4 3)) else .error .nonzeroField
  else .error .reservedFunction

/-- The members of VRED (0x2C, format VX). -/
noncomputable def decMaj2C (w : W32) : Except DecodeError Instr :=
  if fld w 0 8 == 0#8 then
    .ok (.vredAddI64 (fld w 17 8) (fld w 11 6) (fld w 8 3))
  else if fld w 0 8 == 1#8 then
    .ok (.vredAddF64 (fld w 17 8) (fld w 11 6) (fld w 8 3))
  else if fld w 0 8 == 2#8 then
    .ok (.vredMinI64 (fld w 17 8) (fld w 11 6) (fld w 8 3))
  else if fld w 0 8 == 3#8 then
    .ok (.vredMaxI64 (fld w 17 8) (fld w 11 6) (fld w 8 3))
  else if fld w 0 8 == 4#8 then
    .ok (.vredMinnN64 (fld w 17 8) (fld w 11 6) (fld w 8 3))
  else if fld w 0 8 == 5#8 then
    .ok (.vredMaxnN64 (fld w 17 8) (fld w 11 6) (fld w 8 3))
  else if fld w 0 8 == 6#8 then
    .ok (.vredMinF64 (fld w 17 8) (fld w 11 6) (fld w 8 3))
  else if fld w 0 8 == 7#8 then
    .ok (.vredMaxF64 (fld w 17 8) (fld w 11 6) (fld w 8 3))
  else if fld w 0 8 == 8#8 then
    .ok (.vredAnd (fld w 17 8) (fld w 11 6) (fld w 8 3))
  else if fld w 0 8 == 9#8 then
    .ok (.vredOr (fld w 17 8) (fld w 11 6) (fld w 8 3))
  else if fld w 0 8 == 10#8 then
    .ok (.vredXor (fld w 17 8) (fld w 11 6) (fld w 8 3))
  else if fld w 0 8 == 16#8 then
    if fld w 11 6 == 0#6 then .ok (.vballot (fld w 17 8) (fld w 8 3)) else .error .nonzeroField
  else if fld w 0 8 == 17#8 then
    if fld w 11 6 == 0#6 then .ok (.vany (fld w 17 8) (fld w 8 3)) else .error .nonzeroField
  else if fld w 0 8 == 18#8 then
    if fld w 11 6 == 0#6 then .ok (.vall (fld w 17 8) (fld w 8 3)) else .error .nonzeroField
  else if fld w 0 8 == 19#8 then
    if fld w 11 6 == 0#6 then .ok (.vfirst (fld w 17 8) (fld w 8 3)) else .error .nonzeroField
  else .error .reservedFunction

/-- The members of VSOP (0x2D, format VS). -/
noncomputable def decMaj2D (w : W32) : Except DecodeError Instr :=
  if fld w 0 2 == 0#2 then
    .ok (.vaddsF64 (fld w 19 6) (fld w 13 6) (fld w 5 8) (fld w 2 3))
  else if fld w 0 2 == 1#2 then
    .ok (.vmulsF64 (fld w 19 6) (fld w 13 6) (fld w 5 8) (fld w 2 3))
  else if fld w 0 2 == 2#2 then
    .ok (.vfmasF64 (fld w 19 6) (fld w 13 6) (fld w 5 8) (fld w 2 3))
  else if fld w 0 2 == 3#2 then
    if fld w 13 6 == 0#6 then .ok (.vbcst (fld w 19 6) (fld w 5 8) (fld w 2 3)) else .error .nonzeroField
  else .error .reservedFunction

/-- The members of VLANE (0x2E, format VL). -/
noncomputable def decMaj2E (w : W32) : Except DecodeError Instr :=
  if fld w 5 1 == 0#1 then
    if fld w 0 5 == 0#5 then .ok (.vget (fld w 19 6) (fld w 11 8) (fld w 6 5)) else .error .nonzeroField
  else if fld w 5 1 == 1#1 then
    if fld w 0 5 == 0#5 then .ok (.vput (fld w 19 6) (fld w 11 8) (fld w 6 5)) else .error .nonzeroField
  else .error .reservedFunction

/-- The members of VMOVI (0x2F, format VI). -/
noncomputable def decMaj2F (w : W32) : Except DecodeError Instr :=
  .ok (.vmovi (fld w 19 6) (fld w 0 19))

/-- The members of PLOG (0x30, format PL). -/
noncomputable def decMaj30 (w : W32) : Except DecodeError Instr :=
  if fld w 13 3 == 0#3 then
    if fld w 5 8 == 0#8 && fld w 0 5 == 0#5 then .ok (.pand (fld w 22 3) (fld w 19 3) (fld w 16 3)) else .error .nonzeroField
  else if fld w 13 3 == 1#3 then
    if fld w 5 8 == 0#8 && fld w 0 5 == 0#5 then .ok (.por (fld w 22 3) (fld w 19 3) (fld w 16 3)) else .error .nonzeroField
  else if fld w 13 3 == 2#3 then
    if fld w 5 8 == 0#8 && fld w 0 5 == 0#5 then .ok (.pxor (fld w 22 3) (fld w 19 3) (fld w 16 3)) else .error .nonzeroField
  else if fld w 13 3 == 3#3 then
    if fld w 5 8 == 0#8 && fld w 0 5 == 0#5 then .ok (.pandn (fld w 22 3) (fld w 19 3) (fld w 16 3)) else .error .nonzeroField
  else if fld w 13 3 == 4#3 then
    if fld w 16 3 == 0#3 && fld w 5 8 == 0#8 && fld w 0 5 == 0#5 then .ok (.pnot (fld w 22 3) (fld w 19 3)) else .error .nonzeroField
  else if fld w 13 3 == 5#3 then
    if fld w 16 3 == 0#3 && fld w 5 8 == 0#8 && fld w 0 5 == 0#5 then .ok (.pmov (fld w 22 3) (fld w 19 3)) else .error .nonzeroField
  else if fld w 13 3 == 6#3 then
    if fld w 19 3 == 0#3 && fld w 16 3 == 0#3 && fld w 0 5 == 0#5 then .ok (.pfroms (fld w 22 3) (fld w 5 8)) else .error .nonzeroField
  else .error .reservedFunction

/-- The members of LD (0x31, format M). -/
noncomputable def decMaj31 (w : W32) : Except DecodeError Instr :=
  .ok (.ld (fld w 19 6) (fld w 11 8) (fld w 5 6) (fld w 2 3) (fld w 0 2))

/-- The members of ST (0x32, format M). -/
noncomputable def decMaj32 (w : W32) : Except DecodeError Instr :=
  .ok (.st (fld w 19 6) (fld w 11 8) (fld w 5 6) (fld w 2 3) (fld w 0 2))

/-- The members of LD.ACQ (0x33, format MO). -/
noncomputable def decMaj33 (w : W32) : Except DecodeError Instr :=
  .ok (.ldAcq (fld w 19 6) (fld w 11 8) (fld w 5 6) (fld w 2 3) (fld w 0 2))

/-- The members of ST.REL (0x34, format MO). -/
noncomputable def decMaj34 (w : W32) : Except DecodeError Instr :=
  .ok (.stRel (fld w 19 6) (fld w 11 8) (fld w 5 6) (fld w 2 3) (fld w 0 2))

/-- The members of LDB (0x35, format MB). -/
noncomputable def decMaj35 (w : W32) : Except DecodeError Instr :=
  .ok (.ldb (fld w 19 6) (fld w 14 5) (fld w 8 6) (fld w 5 3) (fld w 3 2) (fld w 0 3))

/-- The members of STB (0x36, format MB). -/
noncomputable def decMaj36 (w : W32) : Except DecodeError Instr :=
  .ok (.stb (fld w 19 6) (fld w 14 5) (fld w 8 6) (fld w 5 3) (fld w 3 2) (fld w 0 3))

/-- The members of ATOM (0x37, format MA). -/
noncomputable def decMaj37 (w : W32) : Except DecodeError Instr :=
  .ok (.atom (fld w 19 6) (fld w 11 8) (fld w 5 6) (fld w 0 5))

/-- The members of RED (0x38, format MA). -/
noncomputable def decMaj38 (w : W32) : Except DecodeError Instr :=
  .ok (.red (fld w 19 6) (fld w 11 8) (fld w 5 6) (fld w 0 5))

/-- The members of FENCE (0x39, format F). -/
noncomputable def decMaj39 (w : W32) : Except DecodeError Instr :=
  if fld w 23 2 == 0#2 then
    if fld w 0 12 == 0#12 then .ok (.fenceAcq (fld w 20 3) (fld w 12 8)) else .error .nonzeroField
  else if fld w 23 2 == 1#2 then
    if fld w 0 12 == 0#12 then .ok (.fenceRel (fld w 20 3) (fld w 12 8)) else .error .nonzeroField
  else if fld w 23 2 == 2#2 then
    if fld w 0 12 == 0#12 then .ok (.fenceAr (fld w 20 3) (fld w 12 8)) else .error .nonzeroField
  else .error .reservedFunction

/-- The members of CMO (0x3A, format SR). -/
noncomputable def decMaj3A (w : W32) : Except DecodeError Instr :=
  if fld w 0 3 == 0#3 then
    .ok (.cmoClean (fld w 17 8) (fld w 9 8) (fld w 3 6))
  else if fld w 0 3 == 1#3 then
    .ok (.cmoInv (fld w 17 8) (fld w 9 8) (fld w 3 6))
  else if fld w 0 3 == 2#3 then
    .ok (.cmoClinv (fld w 17 8) (fld w 9 8) (fld w 3 6))
  else if fld w 0 3 == 3#3 then
    .ok (.cmoPref (fld w 17 8) (fld w 9 8) (fld w 3 6))
  else .error .reservedFunction

/-- The members of RGN (0x3B, format Y). -/
noncomputable def decMaj3B (w : W32) : Except DecodeError Instr :=
  if fld w 18 7 == 0#7 then
    if fld w 10 8 == 0#8 && fld w 0 10 == 0#10 then .ok (.rgnOff) else .error .nonzeroField
  else if fld w 18 7 == 1#7 then
    .ok (.rgnMark (fld w 10 8) (fld w 0 10))
  else .error .reservedFunction

/-- The members of ASYNCA (0x3C, format AS). -/
noncomputable def decMaj3C (w : W32) : Except DecodeError Instr :=
  if fld w 21 4 == 0#4 then
    .ok (.tcopyLd (fld w 13 8) (fld w 5 8) (fld w 2 3) (fld w 0 2))
  else if fld w 21 4 == 1#4 then
    .ok (.tcopySt (fld w 13 8) (fld w 5 8) (fld w 2 3) (fld w 0 2))
  else if fld w 21 4 == 2#4 then
    .ok (.tcopyPl (fld w 13 8) (fld w 5 8) (fld w 2 3) (fld w 0 2))
  else if fld w 21 4 == 3#4 then
    .ok (.bcopy (fld w 13 8) (fld w 5 8) (fld w 2 3) (fld w 0 2))
  else if fld w 21 4 == 4#4 then
    if fld w 1 1 == 0#1 then .ok (.bfill (fld w 13 8) (fld w 5 8) (fld w 2 3) (fld w 0 1)) else .error .nonzeroField
  else if fld w 21 4 == 5#4 then
    if fld w 2 3 == 0#3 && fld w 0 2 == 0#2 then .ok (.ratom (fld w 13 8) (fld w 5 8)) else .error .nonzeroField
  else if fld w 21 4 == 6#4 then
    if fld w 5 8 == 0#8 then .ok (.coll (fld w 13 8) (fld w 2 3) (fld w 0 2)) else .error .nonzeroField
  else if fld w 21 4 == 7#4 then
    if fld w 2 3 == 0#3 && fld w 0 2 == 0#2 then .ok (.scopy (fld w 13 8) (fld w 5 8)) else .error .nonzeroField
  else .error .reservedFunction

/-- The members of ASYNCB (0x3D, format AS). -/
noncomputable def decMaj3D (w : W32) : Except DecodeError Instr :=
  if fld w 21 4 == 0#4 then
    if fld w 2 3 == 0#3 && fld w 0 2 == 0#2 then .ok (.binit (fld w 13 8) (fld w 5 8)) else .error .nonzeroField
  else if fld w 21 4 == 1#4 then
    if fld w 1 1 == 0#1 then .ok (.barr (fld w 13 8) (fld w 5 8) (fld w 2 3) (fld w 0 1)) else .error .nonzeroField
  else if fld w 21 4 == 2#4 then
    if fld w 2 3 == 0#3 && fld w 0 2 == 0#2 then .ok (.bexp (fld w 13 8) (fld w 5 8)) else .error .nonzeroField
  else if fld w 21 4 == 3#4 then
    if fld w 0 1 == 0#1 then .ok (.bwait (fld w 13 8) (fld w 5 8) (fld w 2 3) (fld w 1 1)) else .error .nonzeroField
  else if fld w 21 4 == 4#4 then
    if fld w 0 1 == 0#1 then .ok (.btry (fld w 13 8) (fld w 5 8) (fld w 2 3) (fld w 1 1)) else .error .nonzeroField
  else if fld w 21 4 == 5#4 then
    if fld w 0 1 == 0#1 then .ok (.ctry (fld w 13 8) (fld w 5 8) (fld w 2 3) (fld w 1 1)) else .error .nonzeroField
  else if fld w 21 4 == 6#4 then
    if fld w 13 8 == 0#8 && fld w 5 8 == 0#8 then .ok (.barPly (fld w 2 3) (fld w 0 2)) else .error .nonzeroField
  else if fld w 21 4 == 7#4 then
    if fld w 13 8 == 0#8 && fld w 5 8 == 0#8 then .ok (.barSkn (fld w 2 3) (fld w 0 2)) else .error .nonzeroField
  else .error .reservedFunction

/-- The member that the major opcode and the function fields select, its own zero fields checked (R115, R116). -/
noncomputable def decodeRaw (w : W32) : Except DecodeError Instr :=
  match (fld w 25 6).toNat with
  | 0 => decMaj00 w
  | 1 => decMaj01 w
  | 2 => decMaj02 w
  | 3 => decMaj03 w
  | 4 => decMaj04 w
  | 5 => decMaj05 w
  | 6 => decMaj06 w
  | 7 => decMaj07 w
  | 8 => decMaj08 w
  | 9 => decMaj09 w
  | 10 => decMaj0A w
  | 11 => decMaj0B w
  | 12 => decMaj0C w
  | 13 => decMaj0D w
  | 14 => decMaj0E w
  | 15 => decMaj0F w
  | 16 => decMaj10 w
  | 17 => decMaj11 w
  | 18 => decMaj12 w
  | 19 => decMaj13 w
  | 20 => decMaj14 w
  | 21 => decMaj15 w
  | 22 => decMaj16 w
  | 23 => decMaj17 w
  | 24 => decMaj18 w
  | 25 => decMaj19 w
  | 26 => decMaj1A w
  | 27 => decMaj1B w
  | 28 => decMaj1C w
  | 29 => decMaj1D w
  | 30 => decMaj1E w
  | 31 => decMaj1F w
  | 32 => decMaj20 w
  | 33 => decMaj21 w
  | 34 => decMaj22 w
  | 35 => decMaj23 w
  | 36 => decMaj24 w
  | 37 => decMaj25 w
  | 38 => decMaj26 w
  | 39 => decMaj27 w
  | 40 => decMaj28 w
  | 41 => decMaj29 w
  | 42 => decMaj2A w
  | 43 => decMaj2B w
  | 44 => decMaj2C w
  | 45 => decMaj2D w
  | 46 => decMaj2E w
  | 47 => decMaj2F w
  | 48 => decMaj30 w
  | 49 => decMaj31 w
  | 50 => decMaj32 w
  | 51 => decMaj33 w
  | 52 => decMaj34 w
  | 53 => decMaj35 w
  | 54 => decMaj36 w
  | 55 => decMaj37 w
  | 56 => decMaj38 w
  | 57 => decMaj39 w
  | 58 => decMaj3A w
  | 59 => decMaj3B w
  | 60 => decMaj3C w
  | 61 => decMaj3D w
  | _ => .error .reservedMajor

/-- A word: its chain bit (R108) and its instruction, refused by name where R117 makes it illegal. -/
noncomputable def decodeWord (w : W32) : Except DecodeError (Bool × Instr) :=
  match decodeRaw w with
  | .error e => .error e
  | .ok i => if i.wellFormed then .ok (fld w 31 1 == 1#1, i) else .error .reservedCode

/-- Four bytes of code as a word (R2). -/
def wordOfBytes (b : Bytes) : W32 :=
  match b with
  | [b0, b1, b2, b3] => b3 ++ b2 ++ b1 ++ b0
  | _ => 0

/-- The bytes of a code word, lowest address first (R2). -/
def bytesOfWord (w : W32) : Bytes :=
  [w.extractLsb' 0 8, w.extractLsb' 8 8, w.extractLsb' 16 8, w.extractLsb' 24 8]

/-- The instruction at the head of a run of code bytes and the rest, or the reason there is none. -/
noncomputable def decodeBytes (b : Bytes) : Except DecodeError ((Bool × Instr) × Bytes) :=
  match decodeWord (wordOfBytes (b.take 4)) with
  | .error e => .error e
  | .ok r => .ok (r, b.drop 4)

/-- The decoder read at the host's numbering of an opcode-table row (every row has 32 bits). [DESIGN CHOICE: log 13] -/
noncomputable def decodeTableWord (_nbits w : Nat) : Option Instr :=
  match decodeBytes (bytesOfWord (BitVec.ofNat 32 w)) with
  | .ok ((_, i), _) => some i
  | .error _ => none

/-- The chain bit of a word (R108). -/
def chainBit (w : W32) : Bool := fld w 31 1 == 1#1

/-- The word of an instruction with chain bit c, from the layouts of R114 and the values of R116. An event has no encoding; its
value here is the reserved word 0x7C00_0000. -/
def encodeBits (c : BitVec 1) (i : Instr) : W32 :=
  match i with
  | .nop => packY c 0#6 0#7 0#8 0#10
  | .exit => packY c 0#6 1#7 0#8 0#10
  | .yield => packY c 0#6 2#7 0#8 0#10
  | .trap a i => packY c 0#6 3#7 a i
  | .tret => packY c 0#6 4#7 0#8 0#10
  | .srd a n => packY c 0#6 5#7 a n
  | .swr a n => packY c 0#6 6#7 a n
  | .segld a g => packY c 0#6 7#7 a (0#7 ++ g)
  | .segrd a g => packY c 0#6 8#7 a (0#7 ++ g)
  | .abort a i => packY c 0#6 9#7 a i
  | .sadd d a b => packSR c 1#6 d a b 0#3
  | .ssub d a b => packSR c 1#6 d a b 1#3
  | .sand d a b => packSR c 1#6 d a b 2#3
  | .sor d a b => packSR c 1#6 d a b 3#3
  | .sxor d a b => packSR c 1#6 d a b 4#3
  | .sshl d a b => packSR c 1#6 d a b 5#3
  | .sshr d a b => packSR c 1#6 d a b 6#3
  | .ssra d a b => packSR c 1#6 d a b 7#3
  | .smul d a b => packSR c 2#6 d a b 0#3
  | .smulh d a b => packSR c 2#6 d a b 1#3
  | .smulhn d a b => packSR c 2#6 d a b 2#3
  | .smin d a b => packSR c 2#6 d a b 3#3
  | .smax d a b => packSR c 2#6 d a b 4#3
  | .sminn d a b => packSR c 2#6 d a b 5#3
  | .smaxn d a b => packSR c 2#6 d a b 6#3
  | .ssel d a b => packSR c 2#6 d a b 7#3
  | .sdiv d a b => packSR c 3#6 d a b 0#3
  | .sdivn d a b => packSR c 3#6 d a b 1#3
  | .srem d a b => packSR c 3#6 d a b 2#3
  | .sremn d a b => packSR c 3#6 d a b 3#3
  | .spopc d a => packSR c 3#6 d a 0#6 4#3
  | .sclz d a => packSR c 3#6 d a 0#6 5#3
  | .sctz d a => packSR c 3#6 d a 0#6 6#3
  | .sbrev d a => packSR c 3#6 d a 0#6 7#3
  | .scmp d a b k => packSR c 4#6 d a b k
  | .saddi d a i => packSI c 5#6 d a i
  | .sandi d a i => packSI c 6#6 d a i
  | .sori d a i => packSI c 7#6 d a i
  | .sxori d a i => packSI c 8#6 d a i
  | .sshli d a n => packSI c 9#6 d a (0#3 ++ n)
  | .sshri d a n => packSI c 9#6 d a (2#3 ++ n)
  | .ssrai d a n => packSI c 9#6 d a (4#3 ++ n)
  | .srori d a n => packSI c 9#6 d a (6#3 ++ n)
  | .scmpi d a k i => packSI c 10#6 d a (k ++ i)
  | .sli d i => packSL c 11#6 d i
  | .shin d i => packSL c 12#6 d i
  | .sldD d a o => packSM c 13#6 d a o
  | .sldW d a o => packSM c 14#6 d a o
  | .sstD d a o => packSM c 15#6 d a o
  | .sstW d a o => packSM c 16#6 d a o
  | .sfadd d a b => packSR c 17#6 d a b 0#3
  | .sfsub d a b => packSR c 17#6 d a b 1#3
  | .sfmul d a b => packSR c 17#6 d a b 2#3
  | .sfdiv d a b => packSR c 17#6 d a b 3#3
  | .sfmin d a b => packSR c 17#6 d a b 4#3
  | .sfmax d a b => packSR c 17#6 d a b 5#3
  | .scvtf d a r => packSR c 17#6 d a (0#3 ++ r) 6#3
  | .scvti d a r => packSR c 17#6 d a (0#3 ++ r) 7#3
  | .slrD d a o => packSM c 18#6 d a o
  | .sscD d a b => packSR c 19#6 d a b 0#3
  | .bCnd h k a o => packBR c 20#6 h k a o
  | .j h o => packJL c 21#6 h o
  | .call h o => packJL c 22#6 h o
  | .jr a => packSR c 23#6 0#8 a 0#6 0#3
  | .loop h a o => packBR c 24#6 h 0#3 a o
  | .brvSplit h q o => packBV c 25#6 h q 0#3 o
  | .brvAll h q o => packBV c 25#6 h q 1#3 o
  | .brvNone h q o => packBV c 25#6 h q 2#3 o
  | .brvQsplit h q o => packBV c 25#6 h q 3#3 o
  | .brvUni h q o => packBV c 25#6 h q 4#3 o
  | .jset o => packJL c 26#6 0#2 o
  | .rep n s t => packRP c 27#6 n s t 0#14
  | .mma t a b m => packMX c 28#6 t a b (0#2 ++ m)
  | .tld t a b => packMX c 29#6 t a b 0#5
  | .tst t a b => packMX c 29#6 t a b 1#5
  | .tzero t => packMX c 29#6 t 0#8 0#8 2#5
  | .mbatch a => packMX c 29#6 0#4 a 0#8 3#5
  | .mwait a => packMX c 29#6 0#4 a 0#8 4#5
  | .rayq d a b p => packVS c 30#6 d a b p 0#2
  | .rayqAny d a b p => packVS c 30#6 d a b p 1#2
  | .visq d a b p => packVS c 30#6 d a b p 2#2
  | .emit d a b p => packVS c 30#6 d a b p 3#2
  | .vacqW d b => packAS c 31#6 0#4 d b 0#3 0#2
  | .vacqP d b => packAS c 31#6 1#4 d b 0#3 0#2
  | .vrel b => packAS c 31#6 2#4 0#8 b 0#3 0#2
  | .xbind x b => packAS c 31#6 3#4 x b 0#3 0#2
  | .xunb x => packAS c 31#6 4#4 x 0#8 0#3 0#2
  | .launch a b s => packAS c 31#6 5#4 a b s 1#2
  | .sigadd a b s => packAS c 31#6 6#4 a b s 1#2
  | .sigset a b s => packAS c 31#6 7#4 a b s 1#2
  | .vaddF64 d a b p => packVR c 32#6 d a b p 0#4
  | .vsubF64 d a b p => packVR c 32#6 d a b p 1#4
  | .vmulF64 d a b p => packVR c 32#6 d a b p 2#4
  | .vfmaF64 d a b p => packVR c 32#6 d a b p 3#4
  | .vfmsF64 d a b p => packVR c 32#6 d a b p 4#4
  | .vfnmaF64 d a b p => packVR c 32#6 d a b p 5#4
  | .vminF64 d a b p => packVR c 32#6 d a b p 6#4
  | .vmaxF64 d a b p => packVR c 32#6 d a b p 7#4
  | .vdivF64 d a b p => packVR c 32#6 d a b p 8#4
  | .vsqrtF64 d a p => packVR c 32#6 d a 0#6 p 9#4
  | .vabsF64 d a p => packVR c 32#6 d a 0#6 p 10#4
  | .vnegF64 d a p => packVR c 32#6 d a 0#6 p 11#4
  | .vsubnF64 d a b p => packVR c 32#6 d a b p 12#4
  | .vclassF64 d a p => packVR c 32#6 d a 0#6 p 13#4
  | .vcpsgnF64 d a b p => packVR c 32#6 d a b p 14#4
  | .vrintF64 d a r p => packVR c 32#6 d a (0#3 ++ r) p 15#4
  | .vaddF32x2 d a b p => packVR c 33#6 d a b p 0#4
  | .vsubF32x2 d a b p => packVR c 33#6 d a b p 1#4
  | .vmulF32x2 d a b p => packVR c 33#6 d a b p 2#4
  | .vfmaF32x2 d a b p => packVR c 33#6 d a b p 3#4
  | .vfmsF32x2 d a b p => packVR c 33#6 d a b p 4#4
  | .vfnmaF32x2 d a b p => packVR c 33#6 d a b p 5#4
  | .vminF32x2 d a b p => packVR c 33#6 d a b p 6#4
  | .vmaxF32x2 d a b p => packVR c 33#6 d a b p 7#4
  | .vdivF32x2 d a b p => packVR c 33#6 d a b p 8#4
  | .vsqrtF32x2 d a p => packVR c 33#6 d a 0#6 p 9#4
  | .vabsF32x2 d a p => packVR c 33#6 d a 0#6 p 10#4
  | .vnegF32x2 d a p => packVR c 33#6 d a 0#6 p 11#4
  | .vclassF32x2 d a p => packVR c 33#6 d a 0#6 p 13#4
  | .vcpsgnF32x2 d a b p => packVR c 33#6 d a b p 14#4
  | .vrintF32x2 d a r p => packVR c 33#6 d a (0#3 ++ r) p 15#4
  | .vf16Add d a b p t => packVR c 34#6 d a b p (t ++ 0#3)
  | .vf16Sub d a b p t => packVR c 34#6 d a b p (t ++ 1#3)
  | .vf16Mul d a b p t => packVR c 34#6 d a b p (t ++ 2#3)
  | .vf16Fma d a b p t => packVR c 34#6 d a b p (t ++ 3#3)
  | .vf16Min d a b p t => packVR c 34#6 d a b p (t ++ 4#3)
  | .vf16Max d a b p t => packVR c 34#6 d a b p (t ++ 5#3)
  | .vf16Abs d a p t => packVR c 34#6 d a 0#6 p (t ++ 6#3)
  | .vf16Neg d a p t => packVR c 34#6 d a 0#6 p (t ++ 7#3)
  | .vaddI32x2 d a b p => packVR c 35#6 d a b p 0#4
  | .vsubI32x2 d a b p => packVR c 35#6 d a b p 1#4
  | .vmulI32x2 d a b p => packVR c 35#6 d a b p 2#4
  | .vmulhI32x2 d a b p => packVR c 35#6 d a b p 3#4
  | .vmulhnI32x2 d a b p => packVR c 35#6 d a b p 4#4
  | .vminI32x2 d a b p => packVR c 35#6 d a b p 5#4
  | .vmaxI32x2 d a b p => packVR c 35#6 d a b p 6#4
  | .vminnI32x2 d a b p => packVR c 35#6 d a b p 7#4
  | .vmaxnI32x2 d a b p => packVR c 35#6 d a b p 8#4
  | .vabsI32x2 d a p => packVR c 35#6 d a 0#6 p 9#4
  | .vnegI32x2 d a p => packVR c 35#6 d a 0#6 p 10#4
  | .vaddsatI32x2 d a b p => packVR c 35#6 d a b p 11#4
  | .vsubsatI32x2 d a b p => packVR c 35#6 d a b p 12#4
  | .vaddsatnI32x2 d a b p => packVR c 35#6 d a b p 13#4
  | .vsubsatnI32x2 d a b p => packVR c 35#6 d a b p 14#4
  | .vaddI64 d a b p => packVR c 36#6 d a b p 0#4
  | .vsubI64 d a b p => packVR c 36#6 d a b p 1#4
  | .vmulI64 d a b p => packVR c 36#6 d a b p 2#4
  | .vmulhI64 d a b p => packVR c 36#6 d a b p 3#4
  | .vmulhnI64 d a b p => packVR c 36#6 d a b p 4#4
  | .vminI64 d a b p => packVR c 36#6 d a b p 5#4
  | .vmaxI64 d a b p => packVR c 36#6 d a b p 6#4
  | .vminnI64 d a b p => packVR c 36#6 d a b p 7#4
  | .vmaxnI64 d a b p => packVR c 36#6 d a b p 8#4
  | .vdivI64 d a b p => packVR c 36#6 d a b p 9#4
  | .vdivnI64 d a b p => packVR c 36#6 d a b p 10#4
  | .vremI64 d a b p => packVR c 36#6 d a b p 11#4
  | .vremnI64 d a b p => packVR c 36#6 d a b p 12#4
  | .vabsI64 d a p => packVR c 36#6 d a 0#6 p 13#4
  | .vnegI64 d a p => packVR c 36#6 d a 0#6 p 14#4
  | .vand d a b p => packVR c 37#6 d a b p 0#4
  | .vor d a b p => packVR c 37#6 d a b p 1#4
  | .vxor d a b p => packVR c 37#6 d a b p 2#4
  | .vandn d a b p => packVR c 37#6 d a b p 3#4
  | .vnot d a p => packVR c 37#6 d a 0#6 p 4#4
  | .vshl d a b p => packVR c 37#6 d a b p 5#4
  | .vshr d a b p => packVR c 37#6 d a b p 6#4
  | .vsra d a b p => packVR c 37#6 d a b p 7#4
  | .vrotl d a b p => packVR c 37#6 d a b p 8#4
  | .vshl32x2 d a b p => packVR c 37#6 d a b p 9#4
  | .vshr32x2 d a b p => packVR c 37#6 d a b p 10#4
  | .vsra32x2 d a b p => packVR c 37#6 d a b p 11#4
  | .vpopc d a p => packVR c 37#6 d a 0#6 p 12#4
  | .vclz d a p => packVR c 37#6 d a 0#6 p 13#4
  | .vbrev d a p => packVR c 37#6 d a 0#6 p 14#4
  | .vbfx d a b p => packVR c 37#6 d a b p 15#4
  | .vmov d a p => packVR c 38#6 d a 0#6 p 0#4
  | .vsel d a b q => packVR c 38#6 d a b q 1#4
  | .vpk32 d a b p => packVR c 38#6 d a b p 2#4
  | .vhi32 d a p => packVR c 38#6 d a 0#6 p 3#4
  | .vlo32 d a p => packVR c 38#6 d a 0#6 p 4#4
  | .vid d p => packVR c 38#6 d 0#6 0#6 p 5#4
  | .vqid d p => packVR c 38#6 d 0#6 0#6 p 6#4
  | .vcmp d a b p k y => packVP c 39#6 d a b p k y
  | .vcvt d a x p s r => packVR c 40#6 d a x p (s ++ r)
  | .vdot4I8 d a b p s u v => packVR c 41#6 d a b p (0#1 ++ s ++ u ++ v)
  | .vdot8I4 d a b p s u v => packVR c 41#6 d a b p (1#1 ++ s ++ u ++ v)
  | .vrcpF32x2 d a p => packVR c 42#6 d a 0#6 p 0#4
  | .vrsqF32x2 d a p => packVR c 42#6 d a 0#6 p 1#4
  | .vexp2F32x2 d a p => packVR c 42#6 d a 0#6 p 2#4
  | .vlog2F32x2 d a p => packVR c 42#6 d a 0#6 p 3#4
  | .vsinF32x2 d a p => packVR c 42#6 d a 0#6 p 4#4
  | .vcosF32x2 d a p => packVR c 42#6 d a 0#6 p 5#4
  | .vtanhF32x2 d a p => packVR c 42#6 d a 0#6 p 6#4
  | .vrcpF64a d a p => packVR c 42#6 d a 0#6 p 7#4
  | .vrsqF64a d a p => packVR c 42#6 d a 0#6 p 8#4
  | .vshflIdx d a b p => packVR c 43#6 d a b p 0#4
  | .vshflUp d a b p => packVR c 43#6 d a b p 1#4
  | .vshflDn d a b p => packVR c 43#6 d a b p 2#4
  | .vshflXor d a b p => packVR c 43#6 d a b p 3#4
  | .vqswapH d a p => packVR c 43#6 d a 0#6 p 4#4
  | .vqswapV d a p => packVR c 43#6 d a 0#6 p 5#4
  | .vqswapD d a p => packVR c 43#6 d a 0#6 p 6#4
  | .vqbc d a b p => packVR c 43#6 d a b p 7#4
  | .vqdxF32x2 d a p => packVR c 43#6 d a 0#6 p 8#4
  | .vqdyF32x2 d a p => packVR c 43#6 d a 0#6 p 9#4
  | .vqdxF64 d a p => packVR c 43#6 d a 0#6 p 10#4
  | .vqdyF64 d a p => packVR c 43#6 d a 0#6 p 11#4
  | .vscanAddI64 d a p => packVR c 43#6 d a 0#6 p 12#4
  | .vscanAddF64 d a p => packVR c 43#6 d a 0#6 p 13#4
  | .vredAddI64 d a p => packVX c 44#6 d a p 0#8
  | .vredAddF64 d a p => packVX c 44#6 d a p 1#8
  | .vredMinI64 d a p => packVX c 44#6 d a p 2#8
  | .vredMaxI64 d a p => packVX c 44#6 d a p 3#8
  | .vredMinnN64 d a p => packVX c 44#6 d a p 4#8
  | .vredMaxnN64 d a p => packVX c 44#6 d a p 5#8
  | .vredMinF64 d a p => packVX c 44#6 d a p 6#8
  | .vredMaxF64 d a p => packVX c 44#6 d a p 7#8
  | .vredAnd d a p => packVX c 44#6 d a p 8#8
  | .vredOr d a p => packVX c 44#6 d a p 9#8
  | .vredXor d a p => packVX c 44#6 d a p 10#8
  | .vballot d q => packVX c 44#6 d 0#6 q 16#8
  | .vany d q => packVX c 44#6 d 0#6 q 17#8
  | .vall d q => packVX c 44#6 d 0#6 q 18#8
  | .vfirst d q => packVX c 44#6 d 0#6 q 19#8
  | .vaddsF64 d a b p => packVS c 45#6 d a b p 0#2
  | .vmulsF64 d a b p => packVS c 45#6 d a b p 1#2
  | .vfmasF64 d a b p => packVS c 45#6 d a b p 2#2
  | .vbcst d b p => packVS c 45#6 d 0#6 b p 3#2
  | .vget v s l => packVL c 46#6 v s l 0#1 0#5
  | .vput v s l => packVL c 46#6 v s l 1#1 0#5
  | .vmovi d i => packVI c 47#6 d i
  | .pand d a b => packPL c 48#6 d a b 0#3 0#8 0#5
  | .por d a b => packPL c 48#6 d a b 1#3 0#8 0#5
  | .pxor d a b => packPL c 48#6 d a b 2#3 0#8 0#5
  | .pandn d a b => packPL c 48#6 d a b 3#3 0#8 0#5
  | .pnot d a => packPL c 48#6 d a 0#3 4#3 0#8 0#5
  | .pmov d a => packPL c 48#6 d a 0#3 5#3 0#8 0#5
  | .pfroms d s => packPL c 48#6 d 0#3 0#3 6#3 s 0#5
  | .ld d a o z p => packM c 49#6 d a o z p
  | .st d a o z p => packM c 50#6 d a o z p
  | .ldAcq d a o s z => packMO c 51#6 d a o s z
  | .stRel d a o s z => packMO c 52#6 d a o s z
  | .ldb d q o z m p => packMB c 53#6 d q o z m p
  | .stb d q o z m p => packMB c 54#6 d q o z m p
  | .atom d a o k => packMA c 55#6 d a o k
  | .red d a o k => packMA c 56#6 d a o k
  | .fenceAcq s a => packF c 57#6 0#2 s a 0#12
  | .fenceRel s a => packF c 57#6 1#2 s a 0#12
  | .fenceAr s a => packF c 57#6 2#2 s a 0#12
  | .cmoClean l a b => packSR c 58#6 l a b 0#3
  | .cmoInv l a b => packSR c 58#6 l a b 1#3
  | .cmoClinv l a b => packSR c 58#6 l a b 2#3
  | .cmoPref l a b => packSR c 58#6 l a b 3#3
  | .rgnOff => packY c 59#6 0#7 0#8 0#10
  | .rgnMark a i => packY c 59#6 1#7 a i
  | .tcopyLd a b s l => packAS c 60#6 0#4 a b s l
  | .tcopySt a b s l => packAS c 60#6 1#4 a b s l
  | .tcopyPl a b s l => packAS c 60#6 2#4 a b s l
  | .bcopy a b s l => packAS c 60#6 3#4 a b s l
  | .bfill a b s l => packAS c 60#6 4#4 a b s (0#1 ++ l)
  | .ratom a b => packAS c 60#6 5#4 a b 0#3 0#2
  | .coll a s l => packAS c 60#6 6#4 a 0#8 s l
  | .scopy a b => packAS c 60#6 7#4 a b 0#3 0#2
  | .binit a b => packAS c 61#6 0#4 a b 0#3 0#2
  | .barr a b s l => packAS c 61#6 1#4 a b s (0#1 ++ l)
  | .bexp a b => packAS c 61#6 2#4 a b 0#3 0#2
  | .bwait a b s l => packAS c 61#6 3#4 a b s (l ++ 0#1)
  | .btry a b s l => packAS c 61#6 4#4 a b s (l ++ 0#1)
  | .ctry a b s l => packAS c 61#6 5#4 a b s (l ++ 0#1)
  | .barPly s l => packAS c 61#6 6#4 0#8 0#8 s l
  | .barSkn s l => packAS c 61#6 7#4 0#8 0#8 s l
  | .mmaComplete _ => 0x7C000000#32
  | .intersectionResult _ => 0x7C000000#32
  | .emitStallResume _ _ _ => 0x7C000000#32
  | .emitStallTimeout _ _ _ => 0x7C000000#32
  | .vacqWaitEnd _ _ _ => 0x7C000000#32
  | .homeAtomic _ => 0x7C000000#32
  | .bwaitWake _ _ _ => 0x7C000000#32
  | .ctryReread _ _ _ => 0x7C000000#32
  | .ctryTimeout _ _ _ => 0x7C000000#32
  | .commit _ => 0x7C000000#32
  | .plyExit _ => 0x7C000000#32
  | .logDrain _ _ => 0x7C000000#32
  | .reservationExpiry _ _ _ => 0x7C000000#32
  | .transferStart _ => 0x7C000000#32
  | .landingReport _ _ => 0x7C000000#32
  | .transferComplete _ => 0x7C000000#32
  | .transferPause _ => 0x7C000000#32
  | .ratomReply _ _ _ => 0x7C000000#32
  | .collectiveComplete _ _ => 0x7C000000#32
  | .collectiveLoss _ => 0x7C000000#32
  | .timingReplay _ _ => 0x7C000000#32
  | .rollback _ _ _ _ _ => 0x7C000000#32
  | .containment _ _ _ _ _ => 0x7C000000#32
  | .correctedCountReport => 0x7C000000#32
  | .vacate _ => 0x7C000000#32
  | .vacateTimeout _ => 0x7C000000#32
  | .placement => 0x7C000000#32
  | .reelComplete _ => 0x7C000000#32
  | .completionTail _ => 0x7C000000#32
  | .doorbell _ _ _ => 0x7C000000#32
  | .signalAdd _ => 0x7C000000#32
  | .signalSet _ => 0x7C000000#32
  | .wait _ => 0x7C000000#32
  | .waitTimeout _ => 0x7C000000#32
  | .parkedRetestTick _ => 0x7C000000#32
  | .invalTranslation _ => 0x7C000000#32
  | .invalCode _ => 0x7C000000#32
  | .invalStaged _ => 0x7C000000#32
  | .replayResume _ => 0x7C000000#32
  | .replayKill _ => 0x7C000000#32
  | .dispatch _ => 0x7C000000#32
  | .dispatchRole _ => 0x7C000000#32
  | .draw _ => 0x7C000000#32
  | .meshSkeinLaunch _ => 0x7C000000#32
  | .cond _ => 0x7C000000#32
  | .stage _ => 0x7C000000#32
  | .stagingGate _ => 0x7C000000#32
  | .stagingVacateTimeout _ => 0x7C000000#32
  | .copy _ => 0x7C000000#32
  | .copyFill _ => 0x7C000000#32
  | .ckptSave _ => 0x7C000000#32
  | .ckptRestore _ => 0x7C000000#32
  | .ckptArmCapture _ => 0x7C000000#32
  | .intervalCapture _ => 0x7C000000#32
  | .ckptRerun _ => 0x7C000000#32
  | .vdevCollapse _ => 0x7C000000#32
  | .vdevSetEnergyShare _ => 0x7C000000#32
  | .packetNop _ => 0x7C000000#32
  | .wake _ => 0x7C000000#32
  | .refreshWindowOpen _ => 0x7C000000#32
  | .refreshWindowClose _ => 0x7C000000#32
  | .energyPeriod => 0x7C000000#32
  | .create _ => 0x7C000000#32
  | .destroy _ => 0x7C000000#32
  | .setAccount _ => 0x7C000000#32
  | .writeProcessGroupEntry _ => 0x7C000000#32
  | .setTranslationRoot _ => 0x7C000000#32
  | .attest => 0x7C000000#32
  | .commandDone => 0x7C000000#32
  | .plimit _ => 0x7C000000#32
  | .queueStateWrite _ _ => 0x7C000000#32
  | .injectionArm _ => 0x7C000000#32
  | .registerWrite _ _ => 0x7C000000#32
  | .apertureAccess _ _ _ _ => 0x7C000000#32
  | .vfBar2Access _ _ _ _ _ _ => 0x7C000000#32
  | .hostWrite _ _ _ => 0x7C000000#32
  | .hostRead _ _ _ => 0x7C000000#32
  | .atsInvalidateRequest _ _ _ _ => 0x7C000000#32
  | .prgResponseSuccess _ => 0x7C000000#32
  | .prgResponseInvalid _ => 0x7C000000#32
  | .prgResponseFailure _ => 0x7C000000#32
  | .flr _ => 0x7C000000#32
  | .packageReset => 0x7C000000#32
  | .peerRequest _ _ _ _ _ _ _ _ _ => 0x7C000000#32
  | .peerLoadTimeout _ => 0x7C000000#32
  | .linkReplay _ => 0x7C000000#32
  | .linkRetrain _ _ => 0x7C000000#32
  | .spareLaneRetrain _ => 0x7C000000#32
  | .linkDown _ => 0x7C000000#32
  | .downLinkRetrain _ _ => 0x7C000000#32
  | .queueTableError _ => 0x7C000000#32
  | .commandCoreSubstitution _ => 0x7C000000#32
  | .coreSubstitution _ => 0x7C000000#32
  | .powerThrottle _ => 0x7C000000#32
  | .thermalEvent _ _ => 0x7C000000#32
  | .deviceStop _ _ _ => 0x7C000000#32
  | .packageStop _ => 0x7C000000#32
  | .illegalEncoding _ _ _ => 0x7C000000#32
  | .codeFetchFault _ _ _ => 0x7C000000#32
  | .softError _ _ _ _ _ => 0x7C000000#32
  | .peerResponse _ _ _ => 0x7C000000#32
  | .hostCompletion _ _ _ => 0x7C000000#32
  | .tileOperationComplete _ => 0x7C000000#32
  | .stagingGateOpen _ => 0x7C000000#32
  | .vdevCollapseComplete _ => 0x7C000000#32
  | .configurationRequest _ _ _ => 0x7C000000#32

/-- The word of an instruction, chained to the next or not. -/
def encode (chained : Bool) (i : Instr) : W32 :=
  encodeBits (if chained then 1#1 else 0#1) i

end Sys2Proof
end

