-- ==== Sys2Proof/Machine/Bits.lean ====
section
/-! DEFINITION. Bit fields, byte order, lane masks and counting, as the rules write them. -/
namespace Sys2Proof.Machine

/-- Bit i of a word. -/
def bit {n : Nat} (w : BitVec n) (i : Nat) : Bool := w.getLsbD i

/-- Bits [lo+n-1:lo] as a number. -/
def bits {m : Nat} (w : BitVec m) (lo n : Nat) : Nat := (w.toNat >>> lo) % 2 ^ n

/-- A Bool as a number. -/
def b2n (b : Bool) : Nat := if b then 1 else 0

/-- A Bool as a scalar result: 1 or 0. -/
def b2w (b : Bool) : W64 := if b then 1 else 0

/-- Sign extension to 64 bits. -/
def sext64 {n : Nat} (w : BitVec n) : W64 := w.signExtend 64

/-- Zero extension to 64 bits. -/
def zext64 {n : Nat} (w : BitVec n) : W64 := w.setWidth 64

/-- A number as an n64, modulo 2^64. -/
def w64 (n : Nat) : W64 := BitVec.ofNat 64 n

/-- A number as an n32, modulo 2^32. -/
def w32 (n : Nat) : W32 := BitVec.ofNat 32 n

/-- An integer modulo 2^64. -/
def w64i (n : Int) : W64 := BitVec.ofInt 64 n

/-- The n bytes of a number, lowest first (R2). -/
def bytesLE (v : Nat) : Nat → Bytes
  | 0 => []
  | n + 1 => BitVec.ofNat 8 v :: bytesLE (v / 256) n

/-- The number that bytes hold, lowest first (R2). -/
def natLE : Bytes → Nat
  | [] => 0
  | b :: bs => b.toNat + 256 * natLE bs

/-- n numbers from lo. -/
def upFrom (lo : Nat) : Nat → List Nat
  | 0 => []
  | n + 1 => lo :: upFrom (lo + 1) n

/-- The 32 lanes, ascending. -/
def lanes : List Nat := upFrom 0 32

/-- Lane l is set in a mask. -/
def inMask (m : W32) (l : Nat) : Bool := m.getLsbD l

/-- The lanes of a mask, ascending. -/
def lanesOf (m : W32) : List Nat := lanes.filter (inMask m)

/-- The mask that holds lane l alone. -/
def laneBit (l : Nat) : W32 := 1#32 <<< l

/-- The mask of a list of lanes. -/
def maskOf (ls : List Nat) : W32 := ls.foldl (fun m l => m ||| laneBit l) 0

/-- The lowest lane of a mask, 32 for an empty one. -/
def lowestLane (m : W32) : Nat :=
  match lanesOf m with
  | [] => 32
  | l :: _ => l

/-- Every lane of each quad that holds a lane of the mask (R20). -/
def quadsOf (m : W32) : W32 :=
  maskOf (lanes.filter (fun l => (upFrom (4 * (l / 4)) 4).any (inMask m)))

/-- Number of 1 bits. -/
def popCount {n : Nat} (w : BitVec n) : Nat := (upFrom 0 n).foldl (fun c i => c + b2n (w.getLsbD i)) 0

/-- Leading zeros of an n-bit word. -/
def clz {n : Nat} (w : BitVec n) : Nat := if w.toNat = 0 then n else n - 1 - Nat.log2 w.toNat

/-- Trailing zeros from bit i on, at most fuel. -/
def ctzFrom {n : Nat} (w : BitVec n) (i : Nat) : Nat → Nat
  | 0 => 0
  | fuel + 1 => if w.getLsbD i then 0 else 1 + ctzFrom w (i + 1) fuel

/-- Trailing zeros of an n-bit word. -/
def ctz {n : Nat} (w : BitVec n) : Nat := ctzFrom w 0 n

/-- Bit k moved to bit n - 1 - k. -/
def bitReverse {n : Nat} (w : BitVec n) : BitVec n := w.reverse

/-- Element k of width n of a packed register (R57). -/
def elem (n : Nat) (w : W64) (k : Nat) : BitVec n := w.extractLsb' (n * k) n

/-- Elements packed into a register, element 0 lowest (R57). -/
def packElems {n : Nat} : List (BitVec n) → Nat
  | [] => 0
  | e :: es => e.toNat + 2 ^ n * packElems es

/-- Remove one occurrence from a list of numbers. -/
def without (l : List Nat) (k : Nat) : List Nat := l.filter (· != k)

/-- The greatest number of a list, 0 for an empty one. -/
def maxNat (l : List Nat) : Nat := l.foldl Nat.max 0

/-- Replace the element at position i. -/
def setAt {α : Type} (l : List α) (i : Nat) (a : α) : List α := l.set i a

/-- The signed value of a field of width n. -/
def sfield {n : Nat} (w : BitVec n) : Int := w.toInt

/-- A word index moved by a signed offset. -/
def wordAdd (w : W32) (d : Int) : Int := (w.toNat : Int) + d

/-- Round up to a multiple. -/
def roundUp (a m : Nat) : Nat := (a + m - 1) / m * m

end Sys2Proof.Machine
end

