-- ==== Sys2Proof/Machine/Float.lean ====
section
/-! DEFINITION. Floating-point arithmetic (R79 to R91): values are formed exactly on integers times powers of two and rounded
once; flags are the six bits of %fpst (R56). -/
namespace Sys2Proof.Machine

/-- Flags: nv 1, dz 2, of 4, uf 8, nx 16, sat 32 (R56). -/
abbrev Flags := BitVec 6
def fNV : Flags := 1
def fDZ : Flags := 2
def fOF : Flags := 4
def fUF : Flags := 8
def fNX : Flags := 16
def fSAT : Flags := 32

/-- A floating-point format (R79): exponent bits, fraction bits, bias, whether E all ones is not all finite, has infinities,
significand of the largest finite value. -/
structure Fmt where
  ew   : Nat
  fw   : Nat
  bias : Nat
  inf  : Bool
  nan  : Bool
  maxM : Nat
  deriving DecidableEq, Repr

def fmtF64 : Fmt := ⟨11, 52, 1023, true, true, 2 ^ 53 - 1⟩
def fmtF32 : Fmt := ⟨8, 23, 127, true, true, 2 ^ 24 - 1⟩
def fmtF16 : Fmt := ⟨5, 10, 15, true, true, 2 ^ 11 - 1⟩
def fmtBF16 : Fmt := ⟨8, 7, 127, true, true, 2 ^ 8 - 1⟩
def fmtE5M2 : Fmt := ⟨5, 2, 15, true, true, 7⟩
def fmtE4M3 : Fmt := ⟨4, 3, 7, false, true, 14⟩
def fmtE2M1 : Fmt := ⟨2, 1, 1, false, false, 3⟩

/-- The width of a format in bits. -/
def Fmt.width (f : Fmt) : Nat := 1 + f.ew + f.fw
/-- Significand bits, the hidden one included. -/
def Fmt.prec (f : Fmt) : Nat := f.fw + 1
/-- The exponent of the smallest normal number. -/
def Fmt.emin (f : Fmt) : Int := 1 - (f.bias : Int)
/-- The exponent of the largest finite number. -/
def Fmt.emax (f : Fmt) : Int := (2 ^ f.ew - 1 : Nat) - (if f.inf then 1 else 0) - (f.bias : Int)

/-- A value: a NaN (signalling or quiet), an infinity, or sign, m and e for (-1)^sign m 2^e, signed zero included. -/
inductive Num where
  | nan (signalling : Bool)
  | inf (neg : Bool)
  | fin (neg : Bool) (m : Nat) (e : Int)
  deriving DecidableEq, Repr

/-- The value of a pattern (R79, R80). -/
def Fmt.unpack (f : Fmt) (b : Nat) : Num :=
  let neg := b / 2 ^ (f.ew + f.fw) % 2 == 1
  let ex := b / 2 ^ f.fw % 2 ^ f.ew
  let fr := b % 2 ^ f.fw
  if f.inf && ex == 2 ^ f.ew - 1 then
    if fr = 0 then .inf neg else .nan (decide (fr < 2 ^ (f.fw - 1)))
  else if f.nan && !f.inf && ex == 2 ^ f.ew - 1 && fr == 2 ^ f.fw - 1 then .nan false
  else if ex = 0 then .fin neg fr (f.emin - f.fw)
  else .fin neg (2 ^ f.fw + fr) ((ex : Int) - f.bias - f.fw)

/-- The sign bit of a format in place. -/
def Fmt.signBit (f : Fmt) (neg : Bool) : Nat := if neg then 2 ^ (f.ew + f.fw) else 0

/-- The canonical NaN (R80); e2m1 has none and a NaN becomes +0 (R87). -/
def Fmt.cnan (f : Fmt) : Nat :=
  if f.inf then (2 ^ f.ew - 1) * 2 ^ f.fw + 2 ^ (f.fw - 1)
  else if f.nan then 2 ^ (f.ew + f.fw) - 1
  else 0

/-- An infinity's pattern. -/
def Fmt.infBits (f : Fmt) (neg : Bool) : Nat := f.signBit neg + (2 ^ f.ew - 1) * 2 ^ f.fw

/-- The largest finite pattern. -/
def Fmt.maxBits (f : Fmt) (neg : Bool) : Nat :=
  f.signBit neg + (2 ^ f.ew - 1 - b2n f.inf) * 2 ^ f.fw + (f.maxM - 2 ^ f.fw)

/-- Rounding codes (R81): 0 RNE, 1 RTZ, 2 RUP, 3 RDN, 4 RNA. Whether q + r / 2^sh rounds up in magnitude. -/
def roundsUp (mode : Nat) (neg : Bool) (q r sh : Nat) : Bool :=
  let half := 2 ^ (sh - 1)
  match mode with
  | 0 => decide (r > half) || (r == half && q % 2 == 1)
  | 2 => !neg && r != 0
  | 3 => neg && r != 0
  | 4 => decide (r ≥ half)
  | _ => false

/-- m / 2^sh rounded to an integer, and whether that was inexact. -/
def roundShift (mode : Nat) (neg : Bool) (m sh : Nat) : Nat × Bool :=
  if sh = 0 then (m, false)
  else
    let q := m / 2 ^ sh
    let r := m % 2 ^ sh
    (if roundsUp mode neg q r sh then q + 1 else q, r != 0)

/-- m 2^e rounded to a multiple of 2^lsb: the multiplier and whether that was inexact. -/
def roundAt (mode : Nat) (neg : Bool) (m : Nat) (e lsb : Int) : Nat × Bool :=
  if lsb ≤ e then (m * 2 ^ (e - lsb).toNat, false) else roundShift mode neg m (lsb - e).toNat

/-- The sign of m 2^e - n 2^g. -/
def cmpScaled (m : Nat) (e : Int) (n : Nat) (g : Int) : Ordering :=
  if e ≤ g then compare m (n * 2 ^ (g - e).toNat) else compare (m * 2 ^ (e - g).toNat) n

/-- What an overflow delivers (R86, R87). -/
def overflowBits (f : Fmt) (mode : Nat) (sat neg : Bool) : Nat × Flags :=
  if sat then (f.maxBits neg, fSAT ||| fNX)
  else if f.inf then
    (if mode == 1 || (mode == 2 && neg) || (mode == 3 && !neg) then f.maxBits neg else f.infBits neg, fOF ||| fNX)
  else if f.nan then (f.cnan, fOF ||| fNX)
  else (f.maxBits neg, fOF ||| fSAT ||| fNX)

/-- Round (-1)^neg m 2^e once to a format (R82, R83, R86, R87): the pattern and the flags. -/
def roundFin (f : Fmt) (mode : Nat) (sat neg : Bool) (m : Nat) (e : Int) : Nat × Flags :=
  if m = 0 then (f.signBit neg, 0)
  else
    let lead : Int := (Nat.log2 m : Int) + e
    let freeLsb := lead - f.fw
    let u := roundAt mode neg m e freeLsb
    if cmpScaled u.1 freeLsb f.maxM (f.emax - f.fw) == .gt then overflowBits f mode sat neg
    else
      let lsb := if f.emin - f.fw ≤ freeLsb then freeLsb else f.emin - f.fw
      let q := roundAt mode neg m e lsb
      let tiny := cmpScaled u.1 freeLsb 1 f.emin == .lt
      let fl := (if q.2 then fNX else 0) ||| (if q.2 && tiny then fUF else 0)
      let q' := if q.1 = 2 ^ f.prec then 2 ^ f.fw else q.1
      let lsb' := if q.1 = 2 ^ f.prec then lsb + 1 else lsb
      if q' < 2 ^ f.fw then (f.signBit neg + q', fl)
      else (f.signBit neg + (lsb' + f.fw + f.bias).toNat * 2 ^ f.fw + (q' - 2 ^ f.fw), fl)

/-- Deliver a value in a format, with the flags already raised. A NaN is canonical (R80). -/
def deliver (f : Fmt) (mode : Nat) (fl : Flags) (x : Num) : Nat × Flags :=
  match x with
  | .nan _ => (f.cnan, fl)
  | .inf neg => (f.infBits neg, fl)
  | .fin neg m e =>
    let r := roundFin f mode false neg m e
    (r.1, fl ||| r.2)

/-- nv for a signalling NaN operand. -/
def snan (x : Num) : Flags :=
  match x with
  | .nan true => fNV
  | _ => 0

def Num.isNan : Num → Bool
  | .nan _ => true
  | _ => false

/-- Negation; a NaN stays. -/
def Num.neg : Num → Num
  | .nan q => .nan q
  | .inf n => .inf (!n)
  | .fin n m e => .fin (!n) m e

/-- The signed multiplier of a finite value at exponent g, where g is at most its own. -/
def scaled (neg : Bool) (m : Nat) (e g : Int) : Int :=
  let v : Int := (m * 2 ^ (e - g).toNat : Nat)
  if neg then -v else v

/-- The exact sum (R82); an exact zero of unlike signs is +0, -0 under RDN. -/
def addNum (mode : Nat) (x y : Num) : Num × Flags :=
  match x, y with
  | .nan a, .nan b => (.nan false, snan (.nan a) ||| snan (.nan b))
  | .nan a, _ => (.nan false, snan (.nan a))
  | _, .nan b => (.nan false, snan (.nan b))
  | .inf a, .inf b => if a = b then (.inf a, 0) else (.nan false, fNV)
  | .inf a, _ => (.inf a, 0)
  | _, .inf b => (.inf b, 0)
  | .fin a m e, .fin b n g =>
    let k := if e ≤ g then e else g
    let v := scaled a m e k + scaled b n g k
    if v = 0 then (.fin (if a = b then a else mode == 3) 0 0, 0)
    else (.fin (decide (v < 0)) v.natAbs k, 0)

/-- The exact product. -/
def mulNum (x y : Num) : Num × Flags :=
  match x, y with
  | .nan a, .nan b => (.nan false, snan (.nan a) ||| snan (.nan b))
  | .nan a, _ => (.nan false, snan (.nan a))
  | _, .nan b => (.nan false, snan (.nan b))
  | .inf a, .inf b => (.inf (a != b), 0)
  | .inf a, .fin b n _ => if n = 0 then (.nan false, fNV) else (.inf (a != b), 0)
  | .fin a m _, .inf b => if m = 0 then (.nan false, fNV) else (.inf (a != b), 0)
  | .fin a m e, .fin b n g => (.fin (a != b) (m * n) (e + g), 0)

/-- x y + z, exact. -/
def fmaNum (mode : Nat) (x y z : Num) : Num × Flags :=
  let p := mulNum x y
  let r := addNum mode p.1 z
  (r.1, p.2 ||| r.2 ||| snan x ||| snan y)

/-- The quotient to more than 64 significant bits, the last bit sticky. -/
def divNum (x y : Num) : Num × Flags :=
  match x, y with
  | .nan a, .nan b => (.nan false, snan (.nan a) ||| snan (.nan b))
  | .nan a, _ => (.nan false, snan (.nan a))
  | _, .nan b => (.nan false, snan (.nan b))
  | .inf _, .inf _ => (.nan false, fNV)
  | .inf a, .fin b _ _ => (.inf (a != b), 0)
  | .fin a _ _, .inf b => (.fin (a != b) 0 0, 0)
  | .fin a m e, .fin b n g =>
    if n = 0 then (if m = 0 then (.nan false, fNV) else (.inf (a != b), fDZ))
    else if m = 0 then (.fin (a != b) 0 0, 0)
    else
      let k := 66 + Nat.log2 n
      let q := m * 2 ^ k / n
      let r := m * 2 ^ k % n
      (.fin (a != b) (2 * q + b2n (r != 0)) (e - g - k - 1), 0)

/-- The integer square root of n, bit by bit from bit i down. -/
def isqrtFrom (n r : Nat) : Nat → Nat
  | 0 => r
  | i + 1 => if (r + 2 ^ i) * (r + 2 ^ i) ≤ n then isqrtFrom n (r + 2 ^ i) i else isqrtFrom n r i

def isqrt (n : Nat) : Nat := isqrtFrom n 0 (Nat.log2 n / 2 + 1)

/-- The square root to more than 64 significant bits, the last bit sticky. -/
def sqrtNum (x : Num) : Num × Flags :=
  match x with
  | .nan a => (.nan false, snan (.nan a))
  | .inf neg => if neg then (.nan false, fNV) else (.inf false, 0)
  | .fin neg m e =>
    if m = 0 then (.fin neg 0 0, 0)
    else if neg then (.nan false, fNV)
    else
      let k : Nat := 140 + (e % 2).toNat
      let n := m * 2 ^ k
      let q := isqrt n
      (.fin false (2 * q + b2n (q * q != n)) ((e - k) / 2 - 1), 0)

/-- x before y in the order that puts -0 below +0 (R84); neither is a NaN. -/
def ltNum (x y : Num) : Bool :=
  match x, y with
  | .inf a, .inf b => a && !b
  | .inf a, _ => a
  | _, .inf b => !b
  | .fin a m e, .fin b n g =>
    let k := if e ≤ g then e else g
    let u := scaled a m e k
    let v := scaled b n g k
    if u = v then a && !b && m == 0 else decide (u < v)
  | _, _ => false

/-- Numeric equality; -0 equals +0. -/
def eqNum (x y : Num) : Bool :=
  match x, y with
  | .inf a, .inf b => a == b
  | .fin a m e, .fin b n g =>
    let k := if e ≤ g then e else g
    decide (scaled a m e k = scaled b n g k)
  | _, _ => false

/-- Numeric order, -0 equal to +0 (R165). -/
def lessNum (x y : Num) : Bool := ltNum x y && !eqNum x y

/-! ## Operations on patterns, RNE unless a mode is given -/

def fAdd (f : Fmt) (x y : Nat) : Nat × Flags :=
  let r := addNum 0 (f.unpack x) (f.unpack y)
  deliver f 0 r.2 r.1
def fSub (f : Fmt) (x y : Nat) : Nat × Flags :=
  let r := addNum 0 (f.unpack x) (f.unpack y).neg
  deliver f 0 r.2 r.1
def fMul (f : Fmt) (x y : Nat) : Nat × Flags :=
  let r := mulNum (f.unpack x) (f.unpack y)
  deliver f 0 r.2 r.1
def fDiv (f : Fmt) (x y : Nat) : Nat × Flags :=
  let r := divNum (f.unpack x) (f.unpack y)
  deliver f 0 r.2 r.1
def fSqrt (f : Fmt) (x : Nat) : Nat × Flags :=
  let r := sqrtNum (f.unpack x)
  deliver f 0 r.2 r.1
/-- x y + z, rounded once. -/
def fFma (f : Fmt) (x y z : Nat) : Nat × Flags :=
  let r := fmaNum 0 (f.unpack x) (f.unpack y) (f.unpack z)
  deliver f 0 r.2 r.1
/-- x y - z. -/
def fFms (f : Fmt) (x y z : Nat) : Nat × Flags :=
  let r := fmaNum 0 (f.unpack x) (f.unpack y) (f.unpack z).neg
  deliver f 0 r.2 r.1
/-- z - x y. -/
def fFnma (f : Fmt) (x y z : Nat) : Nat × Flags :=
  let r := fmaNum 0 (f.unpack x).neg (f.unpack y) (f.unpack z)
  deliver f 0 r.2 r.1
/-- Minimum or maximum (R84). -/
def fMinMax (f : Fmt) (max : Bool) (x y : Nat) : Nat × Flags :=
  let a := f.unpack x
  let b := f.unpack y
  let fl := snan a ||| snan b
  if a.isNan && b.isNan then (f.cnan, fl)
  else if a.isNan then (y, fl)
  else if b.isNan then (x, fl)
  else if max then (if ltNum a b then y else x, fl)
  else (if ltNum b a then y else x, fl)
/-- Sign cleared; no flag. -/
def fAbs (f : Fmt) (x : Nat) : Nat := x % 2 ^ (f.ew + f.fw)
/-- Sign flipped; no flag. -/
def fNeg (f : Fmt) (x : Nat) : Nat := Nat.xor x (2 ^ (f.ew + f.fw))
/-- The magnitude of x with the sign of y. -/
def fCopySign (f : Fmt) (x y : Nat) : Nat :=
  x % 2 ^ (f.ew + f.fw) + y / 2 ^ (f.ew + f.fw) % 2 * 2 ^ (f.ew + f.fw)
/-- Rounding to an integral value by a mode: nx when the value changes. -/
def fRint (f : Fmt) (mode x : Nat) : Nat × Flags :=
  match f.unpack x with
  | .nan a => (f.cnan, snan (.nan a))
  | .inf _ => (x, 0)
  | .fin neg m e =>
    let q := roundAt mode neg m e 0
    if q.2 then
      let r := roundFin f 0 false neg q.1 0
      (r.1, fNX)
    else (x, 0)

/-! ## Conversions (R86 to R90) -/

/-- From one floating-point format to another (R86, R87). -/
def cvtFF (src dst : Fmt) (mode : Nat) (sat : Bool) (x : Nat) : Nat × Flags :=
  match src.unpack x with
  | .nan s => (dst.cnan, if dst.nan then (if s then fNV else 0) else fNV)
  | .inf neg =>
    if sat then (dst.maxBits neg, fSAT ||| fNX)
    else if dst.inf then (dst.infBits neg, 0)
    else if dst.nan then (dst.cnan, fNV)
    else (dst.maxBits neg, fSAT ||| fNX)
  | .fin neg m e => roundFin dst mode sat neg m e

/-- The range of an integer type of n bits. -/
def intMin (signed : Bool) (n : Nat) : Int := if signed then -(2 ^ (n - 1) : Nat) else 0
def intMax (signed : Bool) (n : Nat) : Int := if signed then (2 ^ (n - 1) : Nat) - 1 else (2 ^ n : Nat) - 1

/-- An integer's n-bit pattern. -/
def intBits (n : Nat) (v : Int) : Nat := (BitVec.ofInt n v).toNat

/-- The value of an n-bit pattern. -/
def intVal (signed : Bool) (n : Nat) (x : Nat) : Int :=
  if signed then (BitVec.ofNat n x).toInt else ((x % 2 ^ n : Nat) : Int)

/-- From floating point to an integer type (R88). -/
def cvtFI (src : Fmt) (signed : Bool) (n mode : Nat) (sat : Bool) (x : Nat) : Nat × Flags :=
  match src.unpack x with
  | .nan _ => (0, fNV)
  | .inf neg =>
    (intBits n (if neg then intMin signed n else intMax signed n), if sat then fSAT ||| fNX else fNV)
  | .fin neg m e =>
    let q := roundAt mode neg m e 0
    let v : Int := if neg then -(q.1 : Int) else q.1
    if v < intMin signed n then (intBits n (intMin signed n), if sat then fSAT ||| fNX else fNV)
    else if intMax signed n < v then (intBits n (intMax signed n), if sat then fSAT ||| fNX else fNV)
    else (intBits n v, if q.2 then fNX else 0)

/-- From an integer value to floating point (R89). -/
def cvtIF (dst : Fmt) (mode : Nat) (sat : Bool) (v : Int) : Nat × Flags :=
  roundFin dst mode sat (decide (v < 0)) v.natAbs 0

/-- Between integer types (R89). -/
def cvtII (dstSigned : Bool) (n : Nat) (sat : Bool) (v : Int) : Nat × Flags :=
  if sat then
    if v < intMin dstSigned n then (intBits n (intMin dstSigned n), fSAT)
    else if intMax dstSigned n < v then (intBits n (intMax dstSigned n), fSAT)
    else (intBits n v, 0)
  else (intBits n v, 0)

/-- To e8m0 (R90). -/
def cvtToE8M0 (src : Fmt) (mode : Nat) (sat : Bool) (x : Nat) : Nat × Flags :=
  match src.unpack x with
  | .nan _ => (0xFF, fNV)
  | .inf neg => if neg then (0xFF, fNV) else if sat then (0xFE, fSAT ||| fNX) else (0xFF, fNV)
  | .fin neg m e =>
    if m = 0 then (0, fUF ||| fNX)
    else if neg then (0xFF, fNV)
    else
      let l := Nat.log2 m
      let fl : Int := (l : Int) + e
      let exact := m == 2 ^ l
      let cmp := compare (2 * m) (3 * 2 ^ l)
      let up : Bool := match mode with
        | 2 => !exact
        | 1 => false
        | 3 => false
        | 4 => cmp != .lt
        | _ => cmp == .gt || (cmp == .eq && (fl + 127) % 2 == 1)
      let k := if up then fl + 1 else fl
      if k > 127 then (if sat then (0xFE, fSAT ||| fNX) else (0xFF, fOF ||| fNX))
      else if k < -127 then (0, fUF ||| fNX)
      else ((k + 127).toNat, if exact then 0 else fNX)

/-- From e8m0 to a floating-point format, exactly (R79, R167). -/
def cvtFromE8M0 (dst : Fmt) (x : Nat) : Nat × Flags :=
  if x = 0xFF then (dst.cnan, 0) else roundFin dst 0 false false 1 ((x : Int) - 127)

end Sys2Proof.Machine
end

