-- ==== Sys2Proof/Machine/Sfu.lean ====
section
/-! DEFINITION. The special-function unit (R169, R170). Exact results are delivered exactly; every other result is the free value
of Config where that value lies within the bound of R169, and the correctly rounded value where it does not. The bound is judged
on fixed-point values of 192 fraction bits, whose own error is far below every bound. -/
namespace Sys2Proof.Machine

/-- Fraction bits of the fixed-point values. -/
def sfuP : Nat := 192
/-- One, in fixed point. -/
def sfuOne : Nat := 2 ^ 192
/-- ln 2 and 1 / ln 2 with 192 fraction bits, and pi with 384. -/
def sfuLn2 : Nat := 4350955369971217654477563090224794165364344896676135745069
def sfuInvLn2 : Nat := 9055943544797870567083544809312461607371518589544137143473
def sfuPi : Nat :=
  123785053203292407819553701039137184435442376711719744927844101526111311422332618694237111830548352286187237239491692

/-- term + term t / k + term t^2 / (k (k + 1)) + ... : n terms of an exponential series in fixed point. -/
def expSeries (t term k : Nat) : Nat → Nat
  | 0 => 0
  | n + 1 => term + expSeries t (term * t / (sfuOne * k)) (k + 1) n

/-- 2^f for 0 <= f < 1. -/
def exp2Frac (f : Nat) : Nat := expSeries (f * sfuLn2 / sfuOne) sfuOne 1 48

/-- sum of (-1)^i term: the sine or cosine series, each term t2 / (k (k + 1)) of the last. -/
def trigSeries (t2 term k : Nat) (neg : Bool) : Nat → Int
  | 0 => 0
  | n + 1 =>
    (if neg then -(term : Int) else term) + trigSeries t2 (term * t2 / (sfuOne * k * (k + 1))) (k + 2) (!neg) n

/-- n binary digits of log2 of a fixed-point value in [1, 2), by repeated squaring. -/
def log2Digits (v acc : Nat) : Nat → Nat
  | 0 => acc
  | n + 1 =>
    let q := v * v / sfuOne
    if 2 * sfuOne ≤ q then log2Digits (q / 2) (2 * acc + 1) n else log2Digits q (2 * acc) n

/-- m 2^e in fixed point, toward -infinity. -/
def toFix (m : Nat) (e : Int) : Nat :=
  if 0 ≤ e + sfuP then m * 2 ^ (e + sfuP).toNat else m / 2 ^ (-(e + sfuP)).toNat

/-- The exact value of a function at a finite argument, as sign, significand and exponent; the last bit stands for what is cut off. -/
def sfuValue (fn : Nat) (neg : Bool) (m : Nat) (e : Int) : Num :=
  match fn with
  | 0 | 7 => (divNum (.fin false 1 0) (.fin neg m e)).1
  | 1 | 8 =>
    let r := divNum (.fin false 1 0) (.fin false m e)
    (sqrtNum r.1).1
  | 2 =>
    -- x = n + f with 0 <= f < 1; beyond 2^12 the result over- or underflows whatever f is
    if m * 2 ^ (e + 200).toNat ≥ 2 ^ 212 then .fin false 1 (if neg then -4096 else 4096)
    else
      let x : Int := if neg then -(toFix m e : Int) - (if toFix m e * 2 ^ (-(e + sfuP)).toNat = m ∨ 0 ≤ e + sfuP then 0 else 1) else toFix m e
      let n := x / (sfuOne : Int)
      let f := (x % (sfuOne : Int)).toNat
      if f = 0 then .fin false (2 * sfuOne + b2n (decide (e + sfuP < 0))) (n - sfuP - 1)
      else .fin false (2 * exp2Frac f + 1) (n - sfuP - 1)
  | 3 =>
    let l := Nat.log2 m
    let v := m * 2 ^ sfuP / 2 ^ l
    let d := log2Digits v 0 96
    let whole := ((l : Int) + e) * 2 ^ 96 + d
    if m = 2 ^ l then .fin (decide (whole < 0)) whole.natAbs (-96)
    else .fin (decide (whole < 0)) (2 * (if whole < 0 then whole.natAbs - 1 else whole.natAbs) + 1) (-97)
  | 4 | 5 =>
    -- reduce modulo 2 pi, exactly up to the 384 digits of pi
    let x := m * 2 ^ (e + 384).toNat
    let y := (x % (2 * sfuPi)) / 2 ^ (384 - sfuP)
    let pi := sfuPi / 2 ^ (384 - sfuP)
    let big := decide (pi ≤ y)
    let z := if pi ≤ y then y - pi else y
    let t2 := z * z / sfuOne
    let v := if fn = 4 then trigSeries t2 z 2 false 40 else trigSeries t2 sfuOne 1 false 40
    let v := if big then -v else v
    let v := if fn = 4 && neg then -v else v
    .fin (decide (v < 0)) (2 * v.natAbs + 1) (-(sfuP : Int) - 1)
  | _ =>
    -- tanh: (q - 1) / (q + 1) with q = 2^(2 x / ln 2)
    if m * 2 ^ (e + 200).toNat ≥ 2 ^ 206 then .fin neg (2 ^ 64 - 1) (-64)
    else
      let y := 2 * toFix m e * sfuInvLn2 / sfuOne
      let q := exp2Frac (y % sfuOne) * 2 ^ (y / sfuOne)
      let t := (q - sfuOne) * sfuOne / (q + sfuOne)
      .fin neg (2 * t + 1) (-(sfuP : Int) - 1)

/-- Is the value exact, so that R169 delivers it exactly when it is representable? -/
def sfuExact (fn : Nat) (m : Nat) (e : Int) : Bool :=
  let odd := m == 2 ^ Nat.log2 m
  match fn with
  | 0 | 7 => odd
  | 1 | 8 => odd && ((Nat.log2 m : Int) + e) % 2 == 0
  | 2 => decide (0 ≤ e) || m % 2 ^ (-e).toNat == 0
  | 3 => odd
  | _ => false

/-- |a - b| <= bound, all in units of 2^g. -/
def within (a b : Int) (bound : Nat) : Bool := decide ((a - b).natAbs ≤ bound)

/-- Is a finite candidate within the bound of R169 of the value v? The comparison is made at 2^-1400. -/
def sfuWithin (fn : Nat) (f : Fmt) (argSmall : Bool) (cand : Num) (v : Num) : Bool :=
  match cand, v with
  | .fin a n g, .fin b m e =>
    let lo : Int := if g ≤ e then (if g ≤ -60 then g else -60) else (if e ≤ -60 then e else -60)
    let x := scaled a n g lo
    let y := scaled b m e lo
    let lead : Int := (Nat.log2 m : Int) + e
    let ulpE : Int := if f.emin ≤ lead then lead - f.fw else f.emin - f.fw
    let ulp := if lo ≤ ulpE then 2 ^ (ulpE - lo).toNat else 1
    let abs (k : Int) : Nat := if lo ≤ k then 2 ^ (k - lo).toNat else 1
    let bound := match fn with
      | 0 => ulp
      | 1 => 2 * ulp
      | 2 => 2 * ulp
      | 3 => if argSmall then abs (-22) else 2 * ulp
      | 4 => abs (-21)
      | 5 => abs (-21)
      | 6 => abs (-21)
      | _ => y.natAbs / 2 ^ 28
    within x y bound
  | _, _ => false

/-- A finite non-special argument: the delivered pattern and flags. A result that overflows is delivered as an infinity. [DESIGN CHOICE: log 24, 93] -/
def sfuFinite (fn : Nat) (f : Fmt) (x : Nat) (neg : Bool) (m : Nat) (e : Int) : Nat × Flags :=
  let v := sfuValue fn neg m e
  let c := deliver f 0 0 v
  if sfuExact fn m e && c.2 == 0 then c
  else if (c.2 &&& fOF) != 0 then c
  else
    let w := (Config.sfu fn (w64 x)).toNat % 2 ^ f.width
    -- 0.5 <= x <= 2 (R169, VLOG2)
    let small := cmpScaled m e 1 (-1) != .lt && cmpScaled m e 1 1 != .gt
    (if sfuWithin fn f small (f.unpack w) v then w else c.1, c.2 ||| fNX)

/-- One element of VSFU (R169, R170). [DESIGN CHOICE: log 24] -/
def sfuElem (fn : Nat) (f : Fmt) (x : Nat) : Nat × Flags :=
  let one := f.bias * 2 ^ f.fw
  match f.unpack x with
  | .nan s => (f.cnan, if s then fNV else 0)
  | .inf neg =>
    match fn with
    | 0 | 7 => (f.signBit neg, 0)
    | 1 | 8 => if neg then (f.cnan, fNV) else (0, 0)
    | 2 => if neg then (0, 0) else (f.infBits false, 0)
    | 3 => if neg then (f.cnan, fNV) else (f.infBits false, 0)
    | 6 => (f.signBit neg + one, 0)
    | _ => (f.cnan, fNV)
  | .fin neg m e =>
    if m = 0 then
      match fn with
      | 0 | 7 => (f.infBits neg, fDZ)
      | 1 | 8 => (f.infBits neg, fDZ)
      | 2 => (one, 0)
      | 3 => (f.infBits true, fDZ)
      | 5 => (one, 0)
      | _ => (f.signBit neg, 0)
    else if neg && (fn == 1 || fn == 8 || fn == 3) then (f.cnan, fNV)
    else sfuFinite fn f x neg m e

end Sys2Proof.Machine
end

