-- ==== Sys2Proof/Machine/Lane.lean ====
section
/-! DEFINITION. What one lane of a vector instruction computes (R157 to R173), as functions of the lane's 64-bit values: the result and
the flags. -/
namespace Sys2Proof.Machine

/-- A lane's result and flags. -/
abbrev LaneRes := W64 × Flags

/-- Apply an element function to each of the 64 / n elements of width n; flags combine by OR. -/
def perElem (n count : Nat) (f : Nat → Nat × Flags) : LaneRes :=
  let r := (upFrom 0 count).map f
  (w64 (packElems (r.map (fun e => BitVec.ofNat n e.1))), r.foldl (fun a e => a ||| e.2) 0)

/-- A function of one element value, over a packed register. -/
def el1 (n : Nat) (f : Nat → Nat × Flags) (a : W64) : LaneRes :=
  perElem n (64 / n) (fun k => f (elem n a k).toNat)

/-- A function of two element values, over packed registers. -/
def el2 (n : Nat) (f : Nat → Nat → Nat × Flags) (a b : W64) : LaneRes :=
  perElem n (64 / n) (fun k => f (elem n a k).toNat (elem n b k).toNat)

/-- A function of three element values, over packed registers. -/
def el3 (n : Nat) (f : Nat → Nat → Nat → Nat × Flags) (a b d : W64) : LaneRes :=
  perElem n (64 / n) (fun k => f (elem n a k).toNat (elem n b k).toNat (elem n d k).toNat)

/-- A result that raises no flag. -/
def pure64 (w : W64) : LaneRes := (w, 0)

/-! ## Floating point (R157 to R159) -/

/-- Sign operations give the canonical NaN for a NaN first operand and raise nothing (R157). -/
def signOp (f : Fmt) (x : Nat) (r : Nat) : Nat × Flags :=
  (if (f.unpack x).isNan then f.cnan else r, 0)

/-- Class bits (R158). -/
def fClass (f : Fmt) (x : Nat) : Nat :=
  match f.unpack x with
  | .nan true => 1
  | .nan false => 2
  | .inf neg => if neg then 4 else 512
  | .fin neg m _ =>
    if m = 0 then (if neg then 32 else 64)
    else if m < 2 ^ f.fw then (if neg then 16 else 128)
    else (if neg then 8 else 256)

/-- f64 difference formed exactly and rounded once to f32 (R157, VSUBN). -/
def fSubNarrow (x y : Nat) : Nat × Flags :=
  let r := addNum 0 (fmtF64.unpack x) (fmtF64.unpack y).neg
  deliver fmtF32 0 r.2 r.1

/-! ## Integers (R85, R160) -/

/-- Truncating division; by zero all ones (R85). -/
def iDiv (signed : Bool) (n : Nat) (x y : Nat) : Nat :=
  if y % 2 ^ n = 0 then 2 ^ n - 1
  else intBits n (Int.tdiv (intVal signed n x) (intVal signed n y))

/-- The remainder takes the dividend's sign; by zero it is the dividend (R85). -/
def iRem (signed : Bool) (n : Nat) (x y : Nat) : Nat :=
  if y % 2 ^ n = 0 then x % 2 ^ n
  else intBits n (Int.tmod (intVal signed n x) (intVal signed n y))

/-- Bits [2n-1:n] of the exact product. -/
def iMulHigh (signed : Bool) (n : Nat) (x y : Nat) : Nat :=
  intBits n ((intVal signed n x * intVal signed n y) / (2 ^ n : Nat))

/-- Minimum or maximum in the signed or unsigned order. -/
def iMinMax (signed max : Bool) (n : Nat) (x y : Nat) : Nat :=
  let a := intVal signed n x
  let b := intVal signed n y
  if max then (if a < b then y else x) else (if b < a then y else x)

/-- Clamp to the range of the type, with sat. -/
def iClamp (signed : Bool) (n : Nat) (v : Int) : Nat × Flags := cvtII signed n true v

def iAbs (n x : Nat) : Nat := if intVal true n x < 0 then intBits n (-(intVal true n x)) else x

/-- A result modulo 2^n without flags. -/
def iWrap (n : Nat) (v : Int) : Nat × Flags := (intBits n v, 0)

/-! ## Bit operations (R161) -/

/-- VBFX: the low min(n, 64) bits of a >> p. -/
def bitField (a b : W64) : W64 :=
  let p := bits b 0 6
  let n := bits b 8 7
  w64 ((a.toNat >>> p) % 2 ^ (Nat.min n 64))

/-- A shift of each 32-bit element by the element's low five bits. -/
def shift32 (f : BitVec 32 → Nat → BitVec 32) (a b : W64) : W64 :=
  w64 (packElems ((upFrom 0 2).map (fun k => f (elem 32 a k) (bits (elem 32 b k) 0 5))))

/-! ## Compares (R164, R165) -/

/-- The elements of a compare type, and their width. -/
def cmpCount (ty : Nat) : Nat :=
  match ty with
  | 0 => 1
  | 1 => 1
  | 2 => 1
  | 3 => 2
  | 4 => 2
  | 5 => 2
  | _ => 4

/-- The floating-point format of a compare type. -/
def cmpFmt (ty : Nat) : Fmt :=
  match ty with
  | 2 => fmtF64
  | 3 => fmtF32
  | 6 => fmtBF16
  | _ => fmtF16

/-- One floating-point comparison and nv (R165). -/
def fCompare (f : Fmt) (cond : Nat) (x y : Nat) : Bool × Flags :=
  let a := f.unpack x
  let b := f.unpack y
  let un := a.isNan || b.isNan
  let lt := lessNum a b
  let gt := lessNum b a
  let eq := eqNum a b
  let quiet := snan a ||| snan b
  let sig := if un then fNV else 0
  match cond with
  | 0 => (!un && eq, quiet)
  | 1 => (un || !eq, quiet)
  | 2 => (!un && lt, sig)
  | 3 => (!un && (lt || eq), sig)
  | 4 => (!un && gt, sig)
  | 5 => (!un && (gt || eq), sig)
  | 6 => (!un, quiet)
  | 7 => (un, quiet)
  | 8 => (un || eq, quiet)
  | 9 => (un || lt, quiet)
  | 10 => (un || lt || eq, quiet)
  | 11 => (un || gt, quiet)
  | 12 => (un || gt || eq, quiet)
  | 13 => (!un && !eq, quiet)
  | 14 => (!un && lt, quiet)
  | _ => (!un && (lt || eq), quiet)

/-- An integer comparison by the first six conditions. -/
def iCompare (signed : Bool) (n cond : Nat) (x y : Nat) : Bool :=
  let a := intVal signed n x
  let b := intVal signed n y
  match cond with
  | 0 => decide (a = b)
  | 1 => decide (a ≠ b)
  | 2 => decide (a < b)
  | 3 => decide (a ≤ b)
  | 4 => decide (b < a)
  | _ => decide (b ≤ a)

/-- Element k of a compare. -/
def cmpElem (ty cond k : Nat) (a b : W64) : Bool × Flags :=
  let n := 64 / cmpCount ty
  let x := (elem n a k).toNat
  let y := (elem n b k).toNat
  if ty == 0 || ty == 4 then (iCompare true n cond x y, 0)
  else if ty == 1 || ty == 5 then (iCompare false n cond x y, 0)
  else fCompare (cmpFmt ty) cond x y

/-! ## Conversions (R166, R167) -/

/-- The shape of a conversion: source width, destination width. -/
def cvtWidths (code : Nat) : Nat × Nat :=
  match code with
  | 0 => (32, 64) | 1 => (64, 32) | 2 => (16, 32) | 3 => (32, 16) | 4 => (16, 32) | 5 => (32, 16) | 6 => (16, 16) | 7 => (16, 16)
  | 8 => (64, 64) | 9 => (64, 64) | 10 => (64, 64) | 11 => (64, 64) | 12 => (32, 32) | 13 => (32, 32) | 14 => (32, 32) | 15 => (32, 32)
  | 16 => (32, 64) | 17 => (32, 64) | 18 => (64, 32) | 19 => (64, 32) | 20 => (32, 8) | 21 => (32, 8) | 22 => (8, 32) | 23 => (8, 32)
  | 24 => (16, 8) | 25 => (16, 8) | 26 => (8, 16) | 27 => (8, 16) | 28 => (32, 4) | 29 => (4, 32) | 30 => (16, 4) | 31 => (4, 16)
  | 32 => (32, 8) | 33 => (8, 32) | 34 => (32, 64) | 35 => (32, 64) | 36 => (64, 32) | 37 => (64, 32) | 38 => (32, 8) | 39 => (32, 8)
  | 40 => (32, 8) | 41 => (8, 32) | 42 => (8, 32) | 43 => (32, 4) | _ => (4, 32)

/-- The conversion of one element value, by code (R167). A signalling e5m2 NaN raises no flag when it is widened. [DESIGN CHOICE: log 94] -/
def cvtElem (code mode : Nat) (sat : Bool) (x : Nat) : Nat × Flags :=
  match code with
  | 0 => cvtFF fmtF32 fmtF64 mode sat x
  | 1 => cvtFF fmtF64 fmtF32 mode sat x
  | 2 => cvtFF fmtF16 fmtF32 mode sat x
  | 3 => cvtFF fmtF32 fmtF16 mode sat x
  | 4 => cvtFF fmtBF16 fmtF32 mode sat x
  | 5 => cvtFF fmtF32 fmtBF16 mode sat x
  | 6 => cvtFF fmtBF16 fmtF16 mode sat x
  | 7 => cvtFF fmtF16 fmtBF16 mode sat x
  | 8 => cvtIF fmtF64 mode sat (intVal true 64 x)
  | 9 => cvtIF fmtF64 mode sat (intVal false 64 x)
  | 10 => cvtFI fmtF64 true 64 mode sat x
  | 11 => cvtFI fmtF64 false 64 mode sat x
  | 12 => cvtIF fmtF32 mode sat (intVal true 32 x)
  | 13 => cvtIF fmtF32 mode sat (intVal false 32 x)
  | 14 => cvtFI fmtF32 true 32 mode sat x
  | 15 => cvtFI fmtF32 false 32 mode sat x
  | 16 => cvtIF fmtF64 mode sat (intVal true 32 x)
  | 17 => cvtIF fmtF64 mode sat (intVal false 32 x)
  | 18 => cvtFI fmtF64 true 32 mode sat x
  | 19 => cvtFI fmtF64 false 32 mode sat x
  | 20 => cvtFF fmtF32 fmtE4M3 mode sat x
  | 21 => cvtFF fmtF32 fmtE5M2 mode sat x
  | 22 => (cvtFF fmtE4M3 fmtF32 0 false x)
  | 23 => ((cvtFF fmtE5M2 fmtF32 0 false x).1, 0)
  | 24 => cvtFF fmtF16 fmtE4M3 mode sat x
  | 25 => cvtFF fmtF16 fmtE5M2 mode sat x
  | 26 => cvtFF fmtE4M3 fmtF16 0 false x
  | 27 => ((cvtFF fmtE5M2 fmtF16 0 false x).1, 0)
  | 28 => cvtFF fmtF32 fmtE2M1 mode sat x
  | 29 => cvtFF fmtE2M1 fmtF32 0 false x
  | 30 => cvtFF fmtF16 fmtE2M1 mode sat x
  | 31 => cvtFF fmtE2M1 fmtF16 0 false x
  | 32 => cvtToE8M0 fmtF32 mode sat x
  | 33 => cvtFromE8M0 fmtF32 x
  | 34 => iWrap 64 (intVal true 32 x)
  | 35 => iWrap 64 (intVal false 32 x)
  | 36 => cvtII true 32 sat (intVal true 64 x)
  | 37 => cvtII false 32 sat (intVal false 64 x)
  | 38 => cvtFI fmtF32 true 8 mode sat x
  | 39 => cvtII true 8 sat (intVal true 32 x)
  | 40 => cvtII false 8 sat (intVal false 32 x)
  | 41 => iWrap 32 (intVal true 8 x)
  | 42 => iWrap 32 (intVal false 8 x)
  | 43 => cvtII true 4 sat (intVal true 32 x)
  | _ => iWrap 32 (intVal true 4 x)

/-- A conversion of a lane, by its shape (R166); a narrowing one shifts the old destination up. -/
def cvtLane (code mode : Nat) (sat : Bool) (a d : W64) : LaneRes :=
  let sw := (cvtWidths code).1
  let dw := (cvtWidths code).2
  let n := if sw ≤ dw then 64 / dw else 64 / sw
  let r := perElem dw n (fun k => cvtElem code mode sat (elem sw a k).toNat)
  if dw < sw then ((d <<< (n * dw)) ||| r.1, r.2) else r

/-! ## Dot products (R168) -/

/-- The value of a field of a packed register, signed or not. -/
def subVal (signed : Bool) (n : Nat) (a : W64) (k : Nat) : Int := intVal signed n (elem n a k).toNat

/-- VDOT over elements of w bits; each i32 accumulator takes 32 / w products. -/
def dotLane (w : Nat) (sat bs as : Bool) (a b d : W64) : LaneRes :=
  let m := 32 / w
  perElem 32 2 (fun k =>
    let sum := (upFrom 0 m).foldl (fun (t : Int) j => t + subVal as w a (m * k + j) * subVal bs w b (m * k + j)) 0
    let v := intVal true 32 (elem 32 d k).toNat + sum
    if sat then iClamp true 32 v else iWrap 32 v)

end Sys2Proof.Machine
end

