-- ==== Sys2Proof/Machine/Amo.lean ====
section
/-! DEFINITION. The operations of ATOM, RED and RATOM (R103, R188), on values of the operation's width. -/
namespace Sys2Proof.Machine

/-- Bytes an atomic operation acts on (R116, R187). -/
def amoBytes (op : Nat) : Nat :=
  if op < 20 then (if op % 2 = 0 then 4 else 8)
  else
    match op with
    | 20 => 4
    | 22 => 4
    | 25 => 4
    | 26 => 4
    | _ => 8

/-- The new value from the old value m, the lane data v and, for CAS, the value to store (R188). -/
def amoNew (op m v new : Nat) : Nat :=
  let n := 8 * amoBytes op
  let m := m % 2 ^ n
  let v := v % 2 ^ n
  match op with
  | 0 | 1 => (m + v) % 2 ^ n
  | 2 | 3 => iMinMax true false n m v
  | 4 | 5 => iMinMax true true n m v
  | 6 | 7 => iMinMax false false n m v
  | 8 | 9 => iMinMax false true n m v
  | 10 | 11 => Nat.land m v
  | 12 | 13 => Nat.lor m v
  | 14 | 15 => Nat.xor m v
  | 16 | 17 => v
  | 18 | 19 => if m = v then new % 2 ^ n else m
  | 20 => (fAdd fmtF32 m v).1
  | 21 => (fAdd fmtF64 m v).1
  | 22 => (fAdd fmtBF16 (m % 65536) (v % 65536)).1 + 65536 * (fAdd fmtBF16 (m / 65536) (v / 65536)).1
  | 23 => (fMinMax fmtF64 false m v).1
  | 24 => (fMinMax fmtF64 true m v).1
  | 25 => if v ≤ m then 0 else m + 1
  | 26 => if m = 0 ∨ v < m then v else m - 1
  | _ => m

/-- The floating-point additions, whose requests combine before they reach the home (R105). -/
def amoFadd (op : Nat) : Bool := op == 20 || op == 21 || op == 22

end Sys2Proof.Machine
end

