-- ==== Sys2Proof/Machine/State.lean ====
section
/-! DEFINITION. The state of the package as plain data: everything the spec names, and the state after a package reset. A
record's default values are its reset values (or, for what is made later, its values when it is made). -/
namespace Sys2Proof.Machine

/-- Why the machine stops. No meaning of this model stops with a fault: traps, parks, containment and stops of a device are
next states. -/
inductive Fault where
  /-- Raised by step when the schedule of outside events holds an instruction of a program; safe: no hardware does this. [DESIGN CHOICE: log 5] -/
  | programWordAsEvent
  deriving DecidableEq, Repr

/-- Why the model has no meaning for a step. -/
inductive Refusal where
  /-- Raised by an arm of exec that has no meaning; safe. -/
  | notModelled (mnemonic : String)
  deriving DecidableEq, Repr

/-! ## Translation -/

/-- A page table entry as a TLB level or a translation register holds it (R255, R258): the device virtual or host page, its
size code and the words' fields. -/
structure Page where
  vdev  : Nat := 0
  host  : Bool := false
  pasid : Nat := 0
  vbase : Nat := 0
  k     : Nat := 0
  frame : Nat := 0
  r : Bool := false
  w : Bool := false
  a : Bool := false
  x : Bool := false
  world : Bool := false
  deriving DecidableEq, Repr

/-- A translation register x0-x15 (R60, R259): base, limit, the window in bytes and the cached translation. -/
structure XReg where
  base  : W64 := 0
  limit : W64 := 0
  window : Nat := 0
  page  : Page := {}
  /-- Its resolution waits for ATS: the ply does not issue before it is over (R261). -/
  pending : Bool := false
  deriving DecidableEq, Repr

/-- A segment register g0-g7 (R61): base word and control word. -/
structure Seg where
  base : W64 := 0
  ctl  : W64 := 0
  deriving DecidableEq, Repr

/-! ## Fragments and strands -/

/-- What a physical byte lies in: device memory by physical address, the weight store by package-wide offset, a ply's scratch
by offset, host memory by host physical address, or a peer's window by rank and offset. -/
inductive Place where
  | hbm (pa : Nat)
  | ws (off : Nat)
  | scratch (ply off : Nat)
  | host (pa : Nat)
  | peer (rank off : Nat)
  deriving DecidableEq, Repr

/-- A load-reservation on a 128-byte sector (R136, R138). -/
structure Resv where
  sector : Place
  addr   : W64
  clock  : Nat
  deriving DecidableEq, Repr

/-- Bad parity of a register of a bank (R350): whether an unrecoverable mark came with it (R357), and whether an injection put it there. -/
structure Mark where
  unrec    : Bool
  injected : Bool
  deriving DecidableEq, Repr

/-- A path deferred to the serial fallback (R29, R32). -/
structure Deferred where
  pc   : W32
  mask : W32
  helper : W32
  join : Option W32
  bank : Tab W64
  marks : Tab Mark := []
  age  : Nat
  deriving DecidableEq, Repr

/-- Lanes of a fragment held at an address while a deferred path runs (R35). -/
structure HeldLanes where
  addr : W32
  mask : W32
  helper : W32
  bank : Tab W64
  marks : Tab Mark := []
  /-- Held at a barrier instruction, not at a join. -/
  bar : Bool
  deriving DecidableEq, Repr

/-- Why a fragment is not ready, beyond waiting at a join (R39). -/
inductive Wait where
  | none
  /-- Re-tried in the next clock: a full log, a busy range or tile, a RED in flight, an unanswered read. [DESIGN CHOICE: log 17] -/
  | held
  /-- Parked in BWAIT on the object at this pointer for this phase; acquire scope, if asked for (R205). -/
  | bwait (obj : W64) (phase : W32) (acq : Option Nat)
  /-- Parked in CTRY until the counter reaches the threshold; result register and deadline (R206). -/
  | ctry (ptr thr : W64) (dst : BitVec 8) (acq : Option Nat) (deadline : Nat)
  /-- In CTRY, whose counter has been met, before an acquire that has to wait (R206, R244). -/
  | ctryMet (dst : BitVec 8) (acq : Option Nat)
  /-- At BAR.PLY or BAR.SKN: skein, acquire scope and release scope (R208). -/
  | bar (skein : Bool) (acq rel : Option Nat)
  /-- Parked on a translation fault under this token; zero while the entry waits for room in the queue (R374, R376). -/
  | fault (token : W64)
  /-- Parked on this page request group (R380). -/
  | pri (group : Nat)
  /-- VACQ.W waiting for blocks (R51). -/
  | vacq (blocks : Nat) (dst : BitVec 8) (deadline : Nat)
  /-- EMIT (destination, sources, buffer, lanes) waiting for space in a STALL buffer; no deadline when the timeout is 0 (R315). -/
  | emit (d a : Nat) (ptr : W64) (m : W32) (deadline : Option Nat)
  /-- EMIT waiting for the committed count at this tagged address to reach i0; it then adds n (R316). -/
  | emitCommit (ea : W64) (i0 n : Nat)
  /-- A query of the intersection unit under way (R222). -/
  | query (id : Nat)
  /-- Past a barrier of the ply or the skein: the scope of its release while that is not performed, then of its acquire (R208). -/
  | passing (skein : Bool) (rel acq : Option Nat)
  deriving DecidableEq, Repr

/-- Data or a refusal that came back for an access of a fragment, a transfer or a command core, kept until the access is made
again (R264, R335). -/
inductive Reply where
  /-- ATS denied or did not find the host page for the access kind. -/
  | atsDenied (pasid page kind : Nat)
  /-- ATS found a page for an access of the command complex. -/
  | atsPage (p : Page)
  /-- A 128-byte sector of host memory, by the number of the request that read it. -/
  | hostSector (id pa : Nat) (data : Bytes)
  /-- The host did not answer a read of this sector. -/
  | hostLost (pa : Nat)
  /-- Bytes of a peer's window. -/
  | peerData (rank off : Nat) (data : Bytes) (poison : Bool)
  /-- No route or no answer (R388). -/
  | peerUnreachable (rank off : Nat)
  /-- The target refused (R335). -/
  | peerRefused (rank off : Nat)
  /-- A write of the command complex to a peer was refused, or could not be delivered. -/
  | storeLost
  deriving DecidableEq, Repr

/-- A release at reel or system scope under way (R241, R242): the core's log entries numbered below tail were in the log when it began, and it
is performed once these requests are answered and this many host writes have been flushed. -/
structure Fence where
  tail : Nat
  reqs : List Nat
  host : Nat
  deriving DecidableEq, Repr

/-- A split-table entry (R29) with the fragment's reservation, repeat position, unfinished lanes and wait. -/
structure Frag where
  pc    : W32 := 0
  mask  : W32 := 0
  helper : W32 := 0
  join  : Option W32 := none
  parent : Option Nat := none
  pendJoin : Option W32 := none
  stack : List Deferred := []
  bank  : Tab W64 := []
  /-- Registers of the bank with bad parity. -/
  marks : Tab Mark := []
  /-- Order of creation (R39): 1,024 for each clock, and the creations of the strand within it. [DEDUCED: log 15] -/
  age   : Nat := 0
  held  : List HeldLanes := []
  repPos : Nat := 0
  resv  : Option Resv := none
  wait  : Wait := .none
  /-- Lanes of the instruction at pc still to perform after a park (R373); none when it starts afresh. -/
  unfinished : Option W32 := none
  /-- What came back for the access under way. -/
  replies : List Reply := []
  /-- The release of the instruction under way, once it has published. -/
  fence : Option Fence := none
  /-- Order of its last issue (R39). -/
  issued : Nat := 0
  /-- Issue opportunities of the partition before a YIELD stops counting (R40). -/
  yield  : Nat := 0
  /-- Set by a transfer of control: the target is to be checked under R113. -/
  jumped : Bool := false
  /-- Words behind pc that have been performed, and where each goes on: before loads that they follow, which are not yet bound (R235, R252), or beside a
  word of their chain that has issued and goes on (R111). [DESIGN CHOICE: log 28, 87] -/
  ahead  : List (W32 × W32) := []
  /-- The instruction at pc has issued and goes on: a release, a maintenance of the caches, or a later word of a chain (R111). [DESIGN CHOICE: log 87] -/
  begun  : Bool := false
  /-- The target lay below word 0, which faults on fetch (R141). -/
  under  : Bool := false
  /-- The vector registers that the instruction at pc named when it last issued: while it is unfinished they are in use (R229). -/
  names  : List Nat := []
  deriving DecidableEq, Repr

/-- The trap level of a strand (R149): the fragment at it, the index to return to, the saved repeat position and lanes still to perform there
(R146, R373), and whether SWR has written the index. -/
structure TrapLevel where
  on      : Bool := false
  frag    : Nat := 0
  retIdx  : W32 := 0
  retRep  : Nat := 0
  retLanes : Option W32 := none
  written : Bool := false
  deriving DecidableEq, Repr

/-- A strand: shared scalars s16-s191, vector registers (register 32r + lane), predicates p1-p7, translation and segment registers,
flags, split table, trap bank, trap record and allotment. -/
structure Strand where
  s      : Tab W64 := []
  v      : Tab W64 := []
  p      : Tab W32 := []
  x      : Tab XReg := []
  g      : Tab Seg := []
  fpst   : BitVec 6 := 0
  frags  : Tab Frag := []
  trapBank : Tab W64 := []
  trap   : TrapLevel := {}
  trapinfo : W64 := 0
  trapaddr : W64 := 0
  trappc   : W64 := 0
  blocks   : Nat := 0
  role1    : Bool := false
  ages     : Nat := 0
  exited   : Bool := false
  deriving DecidableEq, Repr

/-- A register or entry with bad parity (R350) or an unrecoverable mark (R357), and whether an injection put it there. [DEDUCED: log 22] -/
structure Bad where
  strand : Nat
  /-- 0 vector (reg, 2 lane + half), 1 scalar s16 to s191, 2 trap bank, 3 predicate, 4 translation register, 5 split-table entry, 6 tile word. -/
  kind   : Nat
  reg    : Nat
  sub    : Nat
  unrec  : Bool
  injected : Bool
  deriving DecidableEq, Repr

/-- A journalled scratch granule (R43): its old bytes, its old poison and whether the copy itself has gone bad. -/
structure Granule where
  data   : Mem
  poison : Bool
  unrec  : Bool
  bad    : Bool := false
  /-- A single-bit error lies in it, not yet detected; an error in it is an injection (R403). -/
  single : Bool := false
  injected : Bool := false
  deriving DecidableEq, Repr

/-- The snapshot of a commit (R44). -/
structure Snap where
  strands : Tab Strand := []
  tiles   : Mem := []
  bad     : List Bad := []
  objs    : List Nat := []
  deriving DecidableEq, Repr

/-- A tile operation accepted by the engine (R209, R210): the operand values read at issue and the batch it joined. -/
structure TileOp where
  id    : Nat
  strand : Nat
  /-- 0 MMA, 1 TLD, 2 TST, 3 TZERO. -/
  kind  : Nat
  tile  : Nat
  a     : W64
  b     : W64
  md    : Nat
  batch : Nat
  /-- The operand bytes of scratch as the engine read them (R211). [DESIGN CHOICE: log 31] -/
  src   : Mem
  pc    : W32
  frag  : Nat
  /-- Issued at the trap level: its errors are the handler's (R346). -/
  handler : Bool := false
  deriving DecidableEq, Repr

/-- A query accepted by a bay's intersection unit (R222). -/
structure Query where
  id     : Nat
  ply    : Nat
  strand : Nat
  frag   : Nat
  /-- 0 RAYQ, 1 RAYQ.ANY, 2 VISQ, 3 EMIT. -/
  fn     : Nat
  vd     : Nat
  va     : Nat
  ptr    : W64
  lanes  : W32
  w      : W32
  /-- The visibility-buffer descriptor as it was read (R312). -/
  desc   : Bytes := []
  deriving DecidableEq, Repr

/-- Whose RED a merged request also carries (R11, R366). -/
structure RedOwner where
  ply    : Nat
  strand : Nat
  reel   : Nat
  va     : W64
  deriving DecidableEq, Repr

/-- A RED step on its way to the home router (R11, R105). -/
structure RedOp where
  id   : Nat
  ply  : Nat
  strand : Nat
  frag : Nat
  reel : Nat
  op   : Nat
  pa   : Nat
  val  : W64
  va   : W64
  /-- The owners of requests that routers have merged into it. -/
  others : List RedOwner := []
  deriving DecidableEq, Repr

/-- A capture to write (R410): record number and bytes of the replayed record, the context's handle, the shards as they stood at
the rollback, and the plies of the checkpoint's queue. -/
structure Captured where
  number : Nat
  record : Bytes
  ctx    : Nat
  shards : List (Nat × Bytes)
  desc   : Bytes
  index  : Nat
  /-- Its slot has been written, and waits for its peer. -/
  sent   : Bool := false
  deriving DecidableEq, Repr

/-- A ply (R20). scratch, poison and tiles are its own allocation, by offset. -/
structure Ply where
  vdev   : Nat := 0
  queue  : Nat := 0
  reel   : Nat := 0
  skein  : Nat := 0
  num    : Nat := 0
  /-- Package-wide core, 36 die + %core. -/
  core   : Nat := 0
  /-- On its core (false while vacated). [DESIGN CHOICE: log 73] -/
  resident : Bool := true
  strands : Tab Strand := []
  scratch : Mem := []
  scrSize : Nat := 0
  scrBase : Nat := 0
  /-- Poisoned scratch sectors; true marks the unrecoverable ones (R357). -/
  scrPoison : Tab Bool := []
  tiles  : Mem := []
  tileBase : Nat := 0
  ntile  : Nat := 0
  en     : Bool := false
  prot   : Bool := false
  cause  : Byte := 0
  seq    : W32 := 0
  repidx : Nat := 0
  journal : Tab Granule := []
  snap   : Snap := {}
  bad    : List Bad := []
  markCode : BitVec 10 := 0
  markVal  : W64 := 0
  batch  : W64 := 0
  slot   : Nat := 0
  energy : W64 := 0
  /-- Issue opportunities used in the running energy period (R340). -/
  used   : Nat := 0
  /-- Blocks that VREL gave up in the interval, by partition (R43). -/
  relBlocks : Tab Nat := []
  tileOps : List TileOp := []
  /-- Offsets of the barrier objects in its allocation: where BINIT has been performed (R73, R385). -/
  objs   : List Nat := []
  /-- Cores whose bay must have no other member: the core of a re-run reads captured values (R411). -/
  asCore : Option Nat := none
  /-- The least that %clock reads: what it could last read on a core that the ply has left (R55). -/
  clockLow : Nat := 0
  /-- The core that it has left in a rollback, while that performs the ply's entries; then what has to be answered for them (R412). -/
  moving : Option (Nat × Option Fence) := none
  /-- A sector of its saved context is uncorrectable (R360). -/
  ctxBad : Bool := false
  exiting : Bool := false
  /-- Issue is withheld: it stops for a vacate request (R48) or waits for its capture (R410). -/
  halt : Bool := false
  capture : Option Captured := none
  deriving DecidableEq, Repr

/-! ## Reels and skeins -/

/-- A kernel descriptor (R21). -/
structure Kdesc where
  protect : Bool := false
  quad  : Bool := false
  code  : W64 := 0
  entry0 : W32 := 0
  entry1 : W32 := 0
  trapvec : W32 := 0
  scratch : Nat := 0
  nstr0 : Nat := 0
  nstr1 : Nat := 0
  vblk0 : Nat := 0
  vblk1 : Nat := 0
  plies : Nat := 0
  tiles : Nat := 0
  eclass : Nat := 0
  wscount : Nat := 0
  wslist : W64 := 0
  deriving DecidableEq, Repr

/-- A linked mesh DRAW (R317): its buffer descriptor, skeins launched, and the job its completion belongs to. -/
structure MeshLink where
  buf  : W64
  next : Nat
  /-- No further skein is launched. -/
  ended : Bool := false
  /-- An access to the buffer has failed: its packet error has been raised. -/
  failed : Bool := false
  deriving DecidableEq, Repr

/-- A re-run of a captured interval (R411): where the captured slot and the result slot lie. -/
structure Rerun where
  slots : W64
  size  : Nat
  index : Nat
  /-- The package-wide core it runs on. -/
  core  : Nat
  /-- Its entries have been written, and wait for their peer. -/
  sent  : Bool := false
  deriving DecidableEq, Repr

/-- One launch's part on this package. -/
structure Reel where
  job   : Nat := 0
  vdev  : Nat := 0
  queue : Nat := 0
  cookie : W32 := 0
  desc  : Kdesc := {}
  args  : W64 := 0
  nskein : Nat := 0
  rank  : Nat := 0
  nrank : Nat := 1
  map   : W64 := 0
  pgt   : Option Nat := none
  cls   : Nat := 0
  left  : Nat := 0
  contained : Bool := false
  mesh  : Option MeshLink := none
  rerun : Option Rerun := none
  /-- Launch order. -/
  order : Nat := 0
  /-- Launched while its queue had captures to take (R410). -/
  capture : Bool := false
  deriving DecidableEq, Repr

/-- Where a skein is: on the arbiter's list, running on a bay, or saved (R48 to R50). -/
inductive Spot where
  | pending
  | bay (b : Nat)
  | saved
  deriving DecidableEq, Repr

/-- A skein (R20). The plies are numbers of the ply table, by ply number. -/
structure Skein where
  reel  : Nat := 0
  num   : Nat := 0
  plies : List Nat := []
  spot  : Spot := .pending
  /-- The clock at which its vacating times out, while one is asked for (R48). -/
  vacate : Option Nat := none
  /-- One of its plies has been contained (R359). -/
  broken : Bool := false
  /-- Vacated skeins return to the front of their class (R279). -/
  front : Bool := false
  /-- The skein asked to vacate for this one. -/
  wants : Option Nat := none
  deriving DecidableEq, Repr

/-! ## Transfers of the engines -/

/-- What a transfer does (R194). -/
inductive XKind where
  | tcopyLd | tcopySt | tcopyPl | bcopy | bfill | scopy | ratom | coll
  deriving DecidableEq, Repr

/-- A move of 16 bytes or fewer, by bits: from a bit of the byte at a tagged source address (or the bits of fill, hurt when they come from a
poisoned sector), to a bit of the byte at a tagged destination address. -/
structure Move where
  src  : Option W64
  sbit : Nat := 0
  fill : Nat := 0
  hurt : Bool := false
  dst  : W64
  dbit : Nat := 0
  bits : Nat
  deriving DecidableEq, Repr

/-- One report unit (R197): its moves (or the group of a plane set to convert, R199), its number and the bytes it reports. -/
structure ReportUnit where
  num   : Nat
  moves : List Move
  group : Option Nat := none
  bytes : Nat
  /-- No poisoned sector has been read for it yet. -/
  clean : Bool := true
  deriving DecidableEq, Repr

/-- A transfer (R195): operands read at issue, scratch ranges it holds, what is left to move, and what it has posted. -/
structure Xfer where
  id    : Nat := 0
  kind  : XKind := .bcopy
  vdev  : Nat := 0
  ply   : Nat := 0
  strand : Nat := 0
  frag  : Nat := 0
  core  : Nat := 0
  w     : W32 := 0
  a     : W64 := 0
  grp   : List W64 := []
  acq   : Option Nat := none
  rel   : Option Nat := none
  /-- Scratch ranges (ply, offset, bytes) read and written, held in the range scoreboard (R196). -/
  rd    : List (Nat × Nat × Nat) := []
  wr    : List (Nat × Nat × Nat) := []
  started : Bool := false
  units : List ReportUnit := []
  /-- Units moved and not yet reported: their bytes by unit number. -/
  landed : Tab Nat := []
  total : Nat := 0
  /-- Every byte is written; only reports are left. -/
  done  : Bool := false
  /-- RATOM: 1 once the slot is written, 2 once that is released (R201). COLL: 1 once its result is formed. -/
  step  : Nat := 0
  /-- The interval was not protected when it issued: its blocks may be copied in the array (R299). -/
  arr   : Bool := false
  postFailed : Bool := false
  /-- Paused under this token (R382) or on this page request group. -/
  paused : Option W64 := none
  pausedPri : Option Nat := none
  poisonSeen : Bool := false
  replies : List Reply := []
  /-- The release under way, once it has published. -/
  fence : Option Fence := none
  /-- Issued at the trap level: its errors are the handler's (R346). -/
  handler : Bool := false
  /-- Segment registers as they stood at issue, and the layout record once it is read. -/
  segs  : Tab Seg := []
  lay   : Bytes := []
  deriving DecidableEq, Repr

/-! ## Cores and bays -/

/-- The fields of an error record that vary (R361). -/
structure ErrRec where
  severity : Nat := 0
  cls     : Nat := 0
  cause   : Nat := 0
  flags   : Nat := 0
  vdev    : Nat := 0
  die     : Nat := 0xFF
  core    : Nat := 0xFF
  who     : Nat := 0
  queue   : Nat := 0xFFFF
  detail  : Nat := 0
  cookie  : W32 := 0
  address : W64 := 0
  pc      : Nat := 0xFFFFFFFF
  lanes   : W32 := 0
  skein   : Nat := 0
  seq     : W32 := 0
  markval : W64 := 0
  markcode : Nat := 0
  repidx  : Nat := 0
  frag    : Nat := 0xFF
  /-- %clock at detection, when the record is written. -/
  clock   : Nat := 0
  deriving DecidableEq, Repr

/-- What memory a log entry's sector lies in (R253). -/
inductive LogSpace where
  | dev
  | host (pasid : Nat)
  | peer (rank : Nat)
  deriving DecidableEq, Repr

/-- A store-log entry (R236 to R240): cells hold value and mask of each byte written in the sector, the mask nibble by nibble. -/
structure LogEntry where
  serial : Nat
  ply    : Nat
  vdev   : Nat
  space  : LogSpace
  /-- Physical sector number (peer entries: offset / 128). -/
  sector : Nat
  /-- Tagged virtual address of the sector, and those of later stores that joined the entry through another page (R253, R262). -/
  vaddr  : W64
  others : List W64 := []
  policy : Nat
  cells  : Tab (Byte × Byte)
  held   : Bool
  pub    : Option Nat
  created : Nat
  touched : Nat
  ext    : Bool
  poison : Bool
  /-- A double-bit error lies in the entry, not yet detected (R371). -/
  bad    : Bool
  /-- The strand and fragment whose store made the entry. -/
  strand : Nat := 0
  frag   : Nat := 0xFF
  /-- The fields of a record about it, once its ply has left the machine (R335, R371). -/
  owner  : Option ErrRec := none
  /-- A single-bit error lies in it, not yet detected; an error in it is an injection (R403). -/
  single : Bool := false
  injected : Bool := false
  deriving DecidableEq, Repr

/-- A sector of a core's L1 (R233): its bytes, the log entries (core, serial) that pin it (R244), poison and where the poison came
from (true: an unrecoverable source, R368). -/
structure L1Sector where
  data  : Mem := []
  /-- Only these bytes are there: replayed bytes of a sector of host memory or of a peer, which the package cannot read at once. [DESIGN CHOICE: log 76] -/
  part  : Option (Tab (Byte × Byte)) := none
  pins  : List (Nat × Nat) := []
  poison : Bool := false
  deriving DecidableEq, Repr

/-- Counts of corrected events of a core (R351), by class and cause. -/
structure Counts where
  timing : Nat := 0
  tile   : Nat := 0
  snap   : Nat := 0
  /-- Scratch, L1, log and journal (class 6). -/
  array  : Nat := 0
  /-- Refills of clean copies (class 6, cause 0x04). -/
  refill : Nat := 0
  quiet  : Nat := 0
  deriving DecidableEq, Repr

/-- A compute core. [DESIGN CHOICE: log 7] -/
structure Core where
  log    : List LogEntry := []
  /-- Drained-sector marks and the drop-all mark (R238). -/
  marks  : List Nat := []
  dropAll : Bool := false
  /-- Releases at reel or system scope under way on the core (R242). -/
  fences : List Fence := []
  /-- L1 sectors: 4 x sector number, plus 0 device, 1 weight store, 2 host, 3 peer (of a peer, the bytes of replayed entries only). -/
  l1     : Tab L1Sector := []
  utlb   : List Page := []
  /-- Highest publication of each core of the bay replayed so far (R243). -/
  seen   : Tab Nat := []
  /-- Its latest publication (R243). -/
  pubTop : Nat := 0
  /-- Answers of the host to requests numbered below this do not fill the L1, which has dropped sectors since (R243). -/
  dropped : Nat := 0
  counts : Counts := {}
  /-- Supply in mV (R18, R351). -/
  supply : Nat := 350
  /-- FP64 residue, matrix residue and timing injections armed (R402 kinds 10 to 12); the last is 2 for a repeated one. [DEDUCED: log 23] -/
  resFp  : Bool := false
  resMx  : Bool := false
  timing : Nat := 0
  /-- A repeated cycle is under way: no issue opportunity before this clock (R348). -/
  stall  : Nat := 0
  /-- The detector fired again: the next instruction that the core issues fails (R348, R349). -/
  late   : Option Nat := none
  /-- Code words fetched and kept: (vdev, byte address) as 2^57 vdev + address (R107, R289). [DEDUCED: log 26] -/
  code   : Tab W32 := []
  /-- Entry addresses whose first packet is kept, of the last 4 descriptors run (R284). -/
  entryBuf : List W64 := []
  /-- Class 1 and 2 records of the core (R400): clock, class, partition, lanes. -/
  errs   : List (Nat × Nat × Nat × W32) := []
  /-- Spare lanes in use, by partition (R8). -/
  lanesUsed : Tab Nat := []
  /-- A substitution waits for the bay to be vacated. -/
  retiring : Bool := false
  /-- Retired with no spare: its bay takes no part in placement (R8, R400). -/
  retired : Bool := false
  deriving DecidableEq, Repr

/-- One publication of a bay (R240): its number, its core, the (serial, L1 key) pairs it carries and whether it drops all. Drained publications
of one core from number first on become one that drops all (R244). -/
structure Publication where
  first : Nat
  seq   : Nat
  core  : Nat
  items : List (Option Nat × Nat)
  dropAll : Bool
  deriving DecidableEq, Repr

/-- A bay: publication counter, records of publications, queries of its intersection unit in arrival order. [DESIGN CHOICE: log 7] -/
structure Bay where
  pubs    : Nat := 0
  records : List Publication := []
  queries : List Query := []
  deriving DecidableEq, Repr

/-! ## Dies and memory -/

/-- A sector of a home slice (R10): present, dirty against HBM, eviction order of R64 (0 ordinary, 1 first, 2 last). -/
structure L2Sector where
  dirty : Bool := false
  prio  : Nat := 0
  deriving DecidableEq, Repr

/-- A compute die: its TLB (R258) and whether a refresh window is open (R295). [DESIGN CHOICE: log 7] -/
structure Die where
  tlb    : List Page := []
  window : Bool := false
  /-- Single-bit errors corrected in the home slices, HBM and weight store of the die (R365). -/
  fixed  : Nat := 0
  /-- Clean copies refilled (R365, R370). -/
  refilled : Nat := 0
  /-- Spare cores in use (R8). -/
  sparesUsed : Nat := 0
  /-- Double-bit errors not yet retired: KIND of R401 (3 L2 way, 4 HBM row, 5 weight-store row), place, clock (R400). -/
  doubles : List (Nat × Nat × Nat) := []
  /-- Slices whose spare way is in use, and the ways a slice has lost (R400). -/
  wayUsed : List Nat := []
  waysLost : Tab Nat := []
  deriving DecidableEq, Repr

/-- A bit error in an array under SECDED (R365), not yet detected. -/
structure Flip where
  /-- Numbered as KIND of R402: 3 tile store, 4 scratch, 5 L2, 6 HBM, 7 weight store, 8 an empty place of the log, 9 one of the journal, 13 a lane
  that has failed, 14, 15. -/
  kind : Nat
  die  : Nat
  unit : Nat
  loc  : W64
  double : Bool
  injected : Bool
  deriving DecidableEq, Repr

/-! ## Queues and virtual devices -/

/-- States of a queue (R269), by code. -/
inductive QState where
  | off | idle | ready | held | parked | stopped
  deriving DecidableEq, Repr

/-- A read index to mirror (R268): the packet that started and its cookie, and its release under way, or performed. -/
structure Mirror where
  index  : Nat
  cookie : W32
  /-- RDPTR and the owning device as the index advanced. -/
  ptr    : W64
  vdev   : Nat
  fence  : Option Fence := none
  free   : Bool := false
  deriving DecidableEq, Repr

/-- A checkpoint's save under way (R407): the step and the epoch that it saves, its slot, how many of its parts are done, and the shard bytes
that it has copied. -/
structure SaveRun where
  step  : Nat
  epoch : Nat
  slot  : Nat
  done  : Nat
  all   : Bytes
  deriving DecidableEq, Repr

/-- A hardware queue: its table entry (R266), its lane's shadow (R392) and what holds its head packet. [DESIGN CHOICE: log 7] -/
structure Queue where
  ring  : W64 := 0
  vdev  : Nat := 0
  log   : Nat := 0
  cls   : Nat := 0
  dev   : Bool := false
  prot  : Bool := false
  pois  : Bool := false
  intr  : Bool := false
  vec   : Nat := 0
  rdptr : W64 := 0
  widx  : Nat := 0
  ridx  : Nat := 0
  err   : Nat := 0
  state : QState := .off
  shadowW : Nat := 0
  shadowR : Nat := 0
  shadowS : QState := .off
  /-- Packets still to skip under a COND (R290). -/
  skip   : Nat := 0
  /-- The physical address of the signal a parked WAIT waits on, and its deadline (R286, R287). -/
  parked : Option W64 := none
  deadline : Option Nat := none
  /-- Captures still to take, and their checkpoint descriptor (R410). -/
  captures : Nat := 0
  capTaken : Nat := 0
  capDesc  : W64 := 0
  /-- Packets, by index, that a LAUNCH appended to the queue while it was Idle (R284). -/
  warm   : List Nat := []
  replies : List Reply := []
  /-- The WAIT packet of a parked queue or the head that a gate stages for, and the mirrors of RIDX still to write, oldest first (R268). -/
  waitPkt : Bytes := []
  mirrors : List Mirror := []
  /-- The release of a SIGNAL at the head, under way. -/
  fence  : Option Fence := none
  /-- A gate has staged the working set of the head, which launches next (R276, R283). -/
  gated  : Bool := false
  /-- The table entry was lost to an uncorrectable error; RIDX comes from the shadow at the next Idle (R392). -/
  spoilt : Bool := false
  /-- The save of the CKPT at the head, under way. -/
  save   : Option SaveRun := none
  deriving DecidableEq, Repr

/-- What a translation invalidation waits for (R262): requests of its device and space made, and log entries of its range appended, before it. -/
structure Before where
  reqs    : List Nat
  entries : List Nat
  deriving DecidableEq, Repr

/-- A started packet that has not completed (R271): what its completion tail needs (R274). -/
structure Job where
  id    : Nat
  vdev  : Nat
  queue : Nat
  index : Nat
  cookie : W32
  intr  : Bool
  signal : W64
  addend : W64
  statusPtr : W64
  status : Nat
  packet : Bytes
  /-- Actions of INVAL still to do: translation, code, staged. -/
  todo  : List Nat := []
  /-- What the translation invalidation of an INVAL waits for (R262). -/
  before : Option Before := none
  /-- Its work is done; only the tail is left, whose release may be under way. -/
  done  : Bool := false
  fence : Option Fence := none
  deriving DecidableEq, Repr

/-- A staged range (R282): source, bytes, offset in the share. The list runs from least to most recently used. -/
structure Staged where
  src  : W64
  bytes : Nat
  wsoff : Nat
  deriving DecidableEq, Repr

/-- A staging of one queue's head packet inside the gates of the dies it writes (R283). -/
structure Gate where
  id    : Nat
  queue : Nat
  vdev  : Nat
  dies  : List Nat
  ranges : List Staged
  /-- Bytes written so far, over all ranges. -/
  moved : Nat := 0
  /-- The clock at which it was asked for, and whether it has asked the running skeins to vacate. -/
  asked : Nat
  vacated : Bool := false
  failed : Bool := false
  /-- It stages for a STAGE packet, not for the working set of a launch. -/
  stage : Bool
  deriving DecidableEq, Repr

/-- A process-group entry (R292). -/
structure PgEntry where
  nrank : Nat := 0
  rank  : Nat := 0
  map   : W64 := 0
  deriving DecidableEq, Repr

/-- An energy account (R281). -/
structure Account where
  balance : Int := 0
  refill  : Nat := 0
  cap     : Nat := 0
  th1 : Int := 0
  th2 : Int := 0
  th3 : Int := 0
  deriving DecidableEq, Repr

/-- Collapse of a virtual device (R303 to R305). -/
inductive Collapse where
  | awake
  | collapsing (c : Nat)
  | collapsed (c : Nat)
  /-- Woken; nothing is parsed before the wake is over. -/
  | waking (c : Nat)
  deriving DecidableEq, Repr

/-- Who parked on a fault: a fragment, or a transfer. -/
inductive Who where
  | frag (ply strand frag : Nat)
  | xfer (id : Nat)
  | queue (q : Nat)
  /-- A strand whose translation registers are being resolved again (R261). -/
  | bind (ply strand : Nat)
  deriving DecidableEq, Repr

/-- A fault entry (R377) as the device keeps it while its token is live or it waits for room. -/
structure FaultEntry where
  token : W64
  who   : Who
  vdev  : Nat
  bytes : Bytes
  /-- Pages whose TLB entries a resume drops: (host, pasid, address). -/
  pages : List (Bool × Nat × Nat)
  written : Bool
  deriving DecidableEq, Repr

/-- A page request group outstanding on port A (R380). -/
structure PriGroup where
  id   : Nat
  who  : Who
  vdev : Nat
  fn   : Nat
  pages : List Nat
  lanes : W32
  kind  : Nat
  addr  : W64
  sent  : Bool
  deriving DecidableEq, Repr

/-- A virtual device (R300). -/
structure VDev where
  exist  : Bool := false
  record : Bytes := []
  bays0 : W64 := 0
  bays1 : W64 := 0
  qmask0 : W64 := 0
  qmask1 : W64 := 0
  hbmbase : Nat := 0
  hbmsize : Nat := 0
  rsvsize : Nat := 0
  wsbase : Nat := 0
  wssize : Nat := 0
  secure : Bool := false
  wclass : Nat := 0
  lslots : Nat := 0
  llane  : Nat := 0
  pasid  : Nat := 0
  troot  : W64 := 0
  lbase  : W64 := 0
  xbase  : W64 := 0
  xbytes : W64 := 0
  acct   : Account := {}
  energy : W64 := 0
  staged : List Staged := []
  pgt    : Tab PgEntry := []
  collapse : Collapse := .awake
  stopped : Bool := false
  /-- Fault tokens, fault entries and records numbered so far (R363, R377). -/
  tokens  : Nat := 0
  faultNo : Nat := 0
  recNo   : Nat := 0
  /-- Entries and records written: the WRITE fields (R375, R389). -/
  faultW  : Nat := 0
  recW    : Nat := 0
  faults  : List FaultEntry := []
  /-- The full queue has been recorded and has not drained below half since (R376). -/
  fullSaid : Bool := false
  /-- Host accesses held until the device is awake (R305). -/
  heldIn : List Instr := []
  /-- Contexts saved into its reserved region so far (R302). -/
  saves  : Nat := 0
  deriving DecidableEq, Repr

/-! ## Fabric, host and platform -/

/-- A link of 1 to 8 ports of a bundle group (R333, R396). -/
structure Link where
  port  : Nat
  /-- Lanes that the link trains with, and the lanes in use. -/
  width : Nat
  lanes : List Nat
  /-- Narrowings that no spare has made good, latest first: the lanes before, the failed lane, the clock (R396, R397). -/
  steps : List (List Nat × Nat × Nat) := []
  up    : Bool := true
  /-- It is down since this clock; dead: because its only lane failed (R398). -/
  since : Nat := 0
  dead  : Bool := false
  /-- Spare lanes of the bundle group that stand in. -/
  spares : Nat := 0
  /-- Clocks of the replays of the last 2^20 clocks, and how often one flit has been replayed in a row (R395). -/
  replays : List Nat := []
  inRow  : Nat := 0
  /-- Route entries (I/O die, index) taken away when it went down (R398). -/
  lost   : List Nat := []
  deriving DecidableEq, Repr

/-- What an outstanding request of the package asks (R201, R264, R335). -/
inductive Ask where
  | ats (pasid page kind : Nat)
  | hostRead (pa : Nat)
  /-- A zero-length read behind the first n host writes. -/
  | flush (n : Nat)
  | peerLoad (rank off len : Nat)
  /-- A store entry on its way, with the fields of a record about it as they stood when it was sent (R398). -/
  | peerStore (rank : Nat) (ply : Nat) (owner : ErrRec)
  | ratom (xfer : Nat)
  deriving DecidableEq, Repr

/-- An outstanding request, who waits for it, the link it went out on and when. -/
structure Req where
  id   : Nat
  who  : Who
  vdev : Nat
  ask  : Ask
  link : Option Nat
  clock : Nat
  deriving DecidableEq, Repr

/-- What a request of a virtual device carries beside its address (R327, R337): the device, the function whose requester ID it bears, and its
world. -/
structure Tag where
  vdev  : Nat
  fn    : Nat
  world : Bool
  deriving DecidableEq, Repr

/-- What the package sends out: to a host port, the fabric or an interrupt vector. The list is the machine's output, oldest first. Requests, ATS
messages and interrupts leave on host port A; answers leave on the port (false A, true B) on which their request came (R327). -/
inductive Out where
  | msix (fn vec : Nat)
  /-- A write to host memory; poisoned data is marked as such (R366). -/
  | hostWrite (tag : Tag) (pasid pa : Nat) (cells : Tab (Byte × Byte)) (poison : Bool)
  | hostReadReq (id : Nat) (tag : Tag) (pa : Nat)
  | atsReq (id : Nat) (tag : Tag) (pasid page kind : Nat)
  | flushReq (id : Nat) (tag : Tag)
  | atsDone (tag : Nat)
  | priReq (group : Nat) (tag : Tag) (pasid page kind : Nat)
  | hostAtomic (id : Nat) (tag : Tag) (pasid : Nat) (addr : W64) (op : Nat) (v new : W64)
  /-- Completion of an inbound read: data, or Completer Abort, or Unsupported Request. -/
  | readReply (port : Bool) (data : Bytes)
  | completerAbort (port : Bool)
  | unsupported (port : Bool)
  /-- A request to a peer, with the policy of its pointer (R64). -/
  | peerReq (id link dst : Nat) (tag : Tag) (vdev kind off len op policy : Nat) (data : Bytes)
  | peerReply (src req status : Nat) (data : Bytes)
  /-- A chunk of this rank's part of a collective for another rank's engine: the descriptor, and the source from byte off on, with its poisoned
  16-byte pieces (R336, R366). -/
  | collPart (link dst : Nat) (tag : Tag) (vdev : Nat) (desc : Bytes) (off : Nat) (data : Bytes) (bad : List Bool)
  deriving DecidableEq, Repr

/-- A management command under way (R331). -/
structure Command where
  op   : Nat
  vdev : Nat
  result : Nat := 0
  due  : Nat
  /-- It has been carried out; its result is to be shown. -/
  done : Bool := false
  deriving DecidableEq, Repr

/-- The management register window of PF0 (R330, R391), its package ring and its remap table. [DESIGN CHOICE: log 7] -/
structure Pf0 where
  faddr  : W16 := 0xFFFF
  result : Nat := 0
  lost   : Bool := false
  busy   : Option Command := none
  plimit : Nat := 4800
  rwbase : Nat := 0
  rwvdev : Nat := 0
  buf    : Mem := []
  report : Mem := []
  precw  : W32 := 0
  ring   : Mem := []
  inja   : W64 := 0
  recno  : W32 := 0
  unit   : Nat := 0
  die    : Nat := 0
  kind   : Nat := 0
  fired  : Bool := false
  /-- RECNO still takes the number of the record of the injection that fired: its class and cause, or 0 for any cause that is no count. -/
  owed   : Option (Nat × Nat) := none
  double : Bool := false
  arm    : Bool := false
  remap  : Tab W64 := []
  deriving DecidableEq, Repr

/-- PCIe configuration of a function that system software writes: VF enable, PRI enable, requests failed until it is set again. [PRESUMED: log 11] -/
structure Fn where
  enabled : Bool := false
  pri     : Bool := true
  priDead : Bool := false
  deriving DecidableEq, Repr

/-- A collective handed to an engine (R202, R336). -/
structure Coll where
  id   : Nat
  eng  : Nat
  xfer : Nat
  vdev : Nat
  desc : Bytes
  first : Nat
  /-- The ranks' parts, once they have come. -/
  parts : Parts := []
  deriving DecidableEq, Repr

/-- A command core: failed, replaced by the spare, its descriptor cache (R284) and the passes left of its round (R270). [DESIGN CHOICE: log 7] -/
structure CmdCore where
  failed : Bool := false
  cache  : List (Nat × W64 × Kdesc) := []
  round  : List Nat := []
  /-- The lane whose packet is being started, and that packet's index: no other lane's turn comes before it has started or left Ready. -/
  lane   : Option (Nat × Nat) := none
  deriving DecidableEq, Repr

/-- An ATS invalidation and what it waits for before its completion is sent (R262, R264). -/
structure Inval where
  tag    : Nat
  before : Before
  deriving DecidableEq, Repr

/-- The package outside the cores: fabric, engines, host side and platform. [DESIGN CHOICE: log 7] -/
structure Platform where
  links  : List Link := []
  /-- Route tables: 1024 x I/O die + index, the first port of the link (R334). -/
  routes : Tab (Option Nat) := []
  reqs   : List Req := []
  groups : List PriGroup := []
  invals : List Inval := []
  /-- Host writes sent, and how many of them flushing reads have followed (R241). -/
  hostOut  : Nat := 0
  hostDone : Nat := 0
  fns    : Tab Fn := []
  colls  : List Coll := []
  out    : List Out := []
  cores  : Tab CmdCore := []
  /-- Counts of link replays and of single-bit errors of the command complex in the running period (R351, R392, R395). -/
  flits  : Nat := 0
  fixed  : Nat := 0
  /-- Sectors of home slices, weight store and links moved for each virtual device in the running energy period (R340). -/
  traffic : Tab Nat := []
  spareUsed : Bool := false
  /-- Issue opportunities are withheld: by the power limit, and on hot dies (R341, R404). -/
  throttled : Bool := false
  hot    : List Nat := []
  /-- Clocks in a row that the throttle has withheld: while it is not 0 the running clock is one of them. [DESIGN CHOICE: log 77] -/
  waited : Nat := 0
  stopped : Bool := false
  /-- Held in reset: an image did not verify (R338). [DESIGN CHOICE: log 2] -/
  held   : Bool := false
  deriving DecidableEq, Repr

/-- A context written with a capture (R49, R410): the ply at its last commit, its reel, %skein and %nply. [DESIGN CHOICE: log 59] -/
structure Context where
  ply   : Ply := {}
  reel  : Reel := {}
  skein : Nat := 0
  nply  : Nat := 1
  deriving DecidableEq, Repr

/-- The instruction being issued: its fragment, its word index, and whether a trap, a park or a wait has ended the chain. -/
structure Issue where
  ply    : Nat := 0
  strand : Nat := 0
  frag   : Nat := 0
  w      : W32 := 0
  halted : Bool := false
  /-- A REP has issued: the repeated word follows at w + 1 with this step and these fields (R120). -/
  rep    : Option (Nat × BitVec 3 × BitVec 2) := none
  deriving DecidableEq, Repr

/-- A trap to take (R343, R344): cause, detail, failing lanes, %trapaddr and imm10 of TRAP. -/
structure TrapReq where
  cause  : Nat
  detail : Nat := 0
  lanes  : W32 := 0
  addr   : W64 := 0
  tcode  : Nat := 0
  deriving DecidableEq, Repr

/-- An error consumed by a ply (R352): class, cause, lanes, address, its word, whether an unrecoverable mark came with it, and whether
its outcome is containment whatever the protection. -/
structure Consumed where
  cls   : Nat
  cause : Nat
  lanes : W32 := 0
  addr  : W64 := 0
  pc    : Nat := 0xFFFFFFFF
  strand : Nat := 0
  frag  : Nat := 0
  unrec : Bool := false
  kill  : Bool := false
  /-- No fragment consumes it: it was found in an entry or a request that had left the fragment. -/
  away  : Bool := false
  detail : Nat := 0
  deriving DecidableEq, Repr

/-- The machine. -/
structure State where
  /-- Clocks since package reset. [DESIGN CHOICE: log 18] -/
  clock  : Nat
  /-- Events from outside, in the order in which they come. [DESIGN CHOICE: log 5] -/
  inputs : List Instr
  /-- Events of the machine's own that are due at an instant the spec leaves open. [DESIGN CHOICE: log 5] -/
  engine : List Instr
  /-- Draws made from the free values of Config so far. [DESIGN CHOICE: log 6] -/
  draws  : Nat
  /-- Numbers given out so far to plies, skeins, reels, jobs, requests and log entries. [DESIGN CHOICE: log 6] -/
  fresh  : Nat
  iss    : Issue
  /-- The first partition (4 x core + partition) that may still have its issue opportunity in this clock. [DESIGN CHOICE: log 6] -/
  turn   : Nat
  plies  : Tab Ply
  skeins : Tab Skein
  reels  : Tab Reel
  jobs   : List Job
  xfers  : List Xfer
  gates  : List Gate
  cores  : Tab Core
  bays   : Tab Bay
  dies   : Tab Die
  /-- Device memory as the homes hold it, and the HBM behind them, by physical address. -/
  home   : Mem
  hbm    : Mem
  l2     : Tab L2Sector
  /-- Poisoned sectors at the homes and in HBM. -/
  homePoison : Tab Bool
  hbmPoison  : Tab Bool
  ws     : Mem
  wsPoison : Tab Bool
  flips  : List Flip
  /-- RED requests on their way to the homes. -/
  reds   : List RedOp
  /-- Contexts written with captures, by handle: the private layout of R49 is the handle. -/
  captures : Tab Context
  vdevs  : Tab VDev
  queues : Tab Queue
  pf0    : Pf0
  plat   : Platform
  deriving DecidableEq, Repr

/-- A run of ports that can be a link (R333): 1, 2, 4 or 8 ports of 2 lanes each, from a port below 144 that is a multiple of the width, so
that they lie in one bundle group. -/
def linkShape (l : Nat × Nat) : Bool :=
  (l.2 == 2 || l.2 == 4 || l.2 == 8 || l.2 == 16) && decide (l.1 < 144) && l.1 % (l.2 / 2) == 0

/-- Two links share no port. -/
def linksApart (a b : Nat × Nat) : Bool := decide (a.1 + a.2 / 2 ≤ b.1) || decide (b.1 + b.2 / 2 ≤ a.1)

/-- The links of a list that can be: each of the shape of R333 and apart from those before it. -/
def linksOf (l : List (Nat × Nat)) : List (Nat × Nat) :=
  l.foldl (fun m x => if linkShape x && m.all (fun y => linksApart y x) then m ++ [x] else m) []

/-- Links as a package reset leaves them: what the ports train with is given from outside (R333, R342); spare lanes stand in where the remap
table says so (R397, R401). [DESIGN CHOICE: log 10] -/
def trainedLinks (remap : Tab W64) : List Link :=
  (linksOf Config.links).map (fun l =>
    { port := l.1, width := l.2, lanes := List.range l.2,
      spares := (remap.filter (fun e => e.2.toNat / 2 ^ 60 == 6 && decide (l.1 ≤ e.2.toNat / 2 ^ 33 % 2 ^ 23) &&
        decide (e.2.toNat / 2 ^ 33 % 2 ^ 23 < l.1 + l.2 / 2))).length })

/-- Route entries, 1024 x I/O die + index: each names the first port of a link of its own die, or nothing (R334). [DESIGN CHOICE: log 10] -/
def trainedRoutes : Tab (Option Nat) :=
  (List.range 2048).filterMap (fun i => (Config.route i).bind (fun p =>
    if (linksOf Config.links).any (fun l => l.1 == p) && p / 72 == i / 1024 then some (i, some p) else none))

/-- The machine after a package reset whose images verified (R338, R342): every queue Off, no virtual device, FADDR 0xFFFF, HBM and the weight store cleared.
[DEDUCED: log 1; DESIGN CHOICE: log 2, 9] -/
def State.reset : State where
  clock := 0
  inputs := []
  engine := []
  draws := 0
  fresh := 1
  iss := {}
  turn := 0
  plies := []
  skeins := []
  reels := []
  jobs := []
  xfers := []
  gates := []
  cores := []
  bays := []
  dies := []
  home := []
  hbm := []
  l2 := []
  homePoison := []
  hbmPoison := []
  ws := []
  wsPoison := []
  flips := []
  reds := []
  captures := []
  vdevs := []
  queues := []
  pf0 := {}
  plat := { links := trainedLinks [], routes := trainedRoutes }

end Sys2Proof.Machine
end

