-- ==== Sys2Proof/Machine/Tab.lean ====
section
/-! DEFINITION. Sparse tables: the one way arrays of registers, bytes and records are read and written. A table that is read
with a value for unlisted indices is kept canonical: indices strictly rising, no entry equal to that value. -/
namespace Sys2Proof.Machine

/-- The entry at index k. -/
def Tab.find {α : Type} (k : Nat) : Tab α → Option α
  | [] => none
  | (j, v) :: t => if j = k then some v else Tab.find k t

/-- What index k holds, an unlisted one holding d. [DESIGN CHOICE: log 3] -/
def Tab.get {α : Type} (d : α) (t : Tab α) (k : Nat) : α :=
  match Tab.find k t with
  | some v => v
  | none => d

/-- List v at index k, in rising order, in place of what is there. -/
def Tab.put {α : Type} (k : Nat) (v : α) : Tab α → Tab α
  | [] => [(k, v)]
  | (j, u) :: t => if j = k then (k, v) :: t else if k < j then (k, v) :: (j, u) :: t else (j, u) :: Tab.put k v t

/-- Unlist index k. -/
def Tab.del {α : Type} (k : Nat) (t : Tab α) : Tab α :=
  t.filter (fun e => e.1 != k)

/-- Write v at index k, where an unlisted index holds d. [DESIGN CHOICE: log 3] -/
def Tab.set {α : Type} [DecidableEq α] (d : α) (t : Tab α) (k : Nat) (v : α) : Tab α :=
  if v = d then Tab.del k t else Tab.put k v t

/-- Is index k listed? -/
def Tab.has {α : Type} (t : Tab α) (k : Nat) : Bool := (Tab.find k t).isSome

/-- Indices strictly rise from below lo on. -/
def Tab.rising {α : Type} (lo : Nat) : Tab α → Bool
  | [] => true
  | (j, _) :: t => decide (lo ≤ j) && Tab.rising (j + 1) t

/-- The canonical form of a table whose unlisted indices hold d. -/
def Tab.wf {α : Type} [DecidableEq α] (d : α) (t : Tab α) : Bool :=
  Tab.rising 0 t && t.all (fun e => decide (e.2 ≠ d))

/-- The canonical form of a memory: addresses strictly rising, no entry equal to zero. [DEDUCED: log 1; DESIGN CHOICE: log 3] -/
def Memory.wf (m : Mem) : Bool := Tab.wf (0 : Byte) m

/-- The byte at an address. [DEDUCED: log 1] -/
def Mem.byte (m : Mem) (a : Nat) : Byte := Tab.get 0 m a

/-- n bytes from an address. -/
def Mem.read (m : Mem) (a : Nat) : Nat → Bytes
  | 0 => []
  | n + 1 => Mem.byte m a :: Mem.read m (a + 1) n

/-- Write one byte. -/
def Mem.put (m : Mem) (a : Nat) (b : Byte) : Mem := Tab.set 0 m a b

/-- Write bytes from an address on. [DESIGN CHOICE: log 3] -/
def Mem.write (m : Mem) (a : Nat) : Bytes → Mem
  | [] => m
  | b :: bs => Mem.write (Mem.put m a b) (a + 1) bs

/-- Remove every index from lo to hi - 1. -/
def Tab.delRange {α : Type} (t : Tab α) (lo hi : Nat) : Tab α :=
  t.filter (fun e => decide (e.1 < lo) || decide (hi ≤ e.1))

end Sys2Proof.Machine
end

