-- ==== Sys2Proof/Machine/Base.lean ====
section
/-! DEFINITION. Accessors: one home for every part of the state, and the one way to read and change it. -/
namespace Sys2Proof.Machine

/-- What a meaning answers. -/
abbrev Res := Host.Outcome State Fault Refusal

/-! ## Tables of the state -/

def State.ply (s : State) (i : Nat) : Ply := Tab.get {} s.plies i
def State.putPly (s : State) (i : Nat) (p : Ply) : State := { s with plies := Tab.put i p s.plies }
def State.modPly (s : State) (i : Nat) (f : Ply → Ply) : State := s.putPly i (f (s.ply i))
def State.livePly (s : State) (i : Nat) : Bool := Tab.has s.plies i
def State.core (s : State) (c : Nat) : Core := Tab.get {} s.cores c
def State.modCore (s : State) (c : Nat) (f : Core → Core) : State := { s with cores := Tab.set {} s.cores c (f (s.core c)) }
def State.bay (s : State) (b : Nat) : Bay := Tab.get {} s.bays b
def State.modBay (s : State) (b : Nat) (f : Bay → Bay) : State := { s with bays := Tab.set {} s.bays b (f (s.bay b)) }
def State.die (s : State) (d : Nat) : Die := Tab.get {} s.dies d
def State.modDie (s : State) (d : Nat) (f : Die → Die) : State := { s with dies := Tab.set {} s.dies d (f (s.die d)) }
def State.vdev (s : State) (v : Nat) : VDev := Tab.get {} s.vdevs v
def State.modVdev (s : State) (v : Nat) (f : VDev → VDev) : State := { s with vdevs := Tab.set {} s.vdevs v (f (s.vdev v)) }
def State.queue (s : State) (q : Nat) : Queue := Tab.get {} s.queues q
def State.modQueue (s : State) (q : Nat) (f : Queue → Queue) : State := { s with queues := Tab.set {} s.queues q (f (s.queue q)) }
def State.skein (s : State) (k : Nat) : Skein := Tab.get {} s.skeins k
def State.modSkein (s : State) (k : Nat) (f : Skein → Skein) : State := { s with skeins := Tab.put k (f (s.skein k)) s.skeins }
def State.reel (s : State) (r : Nat) : Reel := Tab.get {} s.reels r
def State.modReel (s : State) (r : Nat) (f : Reel → Reel) : State := { s with reels := Tab.put r (f (s.reel r)) s.reels }
def State.cmdCore (s : State) (c : Nat) : CmdCore := Tab.get {} s.plat.cores c
def State.modPlat (s : State) (f : Platform → Platform) : State := { s with plat := f s.plat }
def State.modCmdCore (s : State) (c : Nat) (f : CmdCore → CmdCore) : State :=
  s.modPlat (fun p => { p with cores := Tab.set {} p.cores c (f (Tab.get {} p.cores c)) })
def State.modPf0 (s : State) (f : Pf0 → Pf0) : State := { s with pf0 := f s.pf0 }
def State.xfer (s : State) (i : Nat) : Option Xfer := s.xfers.find? (fun x => x.id == i)
def State.modXfer (s : State) (i : Nat) (f : Xfer → Xfer) : State :=
  { s with xfers := s.xfers.map (fun x => if x.id == i then f x else x) }
def State.dropXfer (s : State) (i : Nat) : State := { s with xfers := s.xfers.filter (fun x => x.id != i) }
def State.job (s : State) (i : Nat) : Option Job := s.jobs.find? (fun j => j.id == i)
def State.modJob (s : State) (i : Nat) (f : Job → Job) : State :=
  { s with jobs := s.jobs.map (fun j => if j.id == i then f j else j) }

/-- A number not given out before. -/
def State.bump (s : State) : State := { s with fresh := s.fresh + 1 }

/-- An event due at an instant the spec leaves open. -/
def State.later (s : State) (e : Instr) : State := if s.engine.contains e then s else { s with engine := s.engine ++ [e] }

/-- An event due before any other. -/
def State.urgent (s : State) (e : Instr) : State := { s with engine := e :: s.engine.erase e }

/-- Send something out of the package. -/
def State.send (s : State) (o : Out) : State := s.modPlat (fun p => { p with out := p.out ++ [o] })

/-! ## Plies, strands and fragments -/

def Ply.strand (p : Ply) (k : Nat) : Strand := Tab.get {} p.strands k
def Ply.modStrand (p : Ply) (k : Nat) (f : Strand → Strand) : Ply := { p with strands := Tab.put k (f (p.strand k)) p.strands }
def Strand.fragAt (t : Strand) (f : Nat) : Frag := Tab.get {} t.frags f
def Strand.modFrag (t : Strand) (i : Nat) (f : Frag → Frag) : Strand := { t with frags := Tab.put i (f (t.fragAt i)) t.frags }

def State.fragOf (s : State) (p k f : Nat) : Frag := ((s.ply p).strand k).fragAt f
/-- The fragment is live: its ply, strand and split-table entry exist. -/
def State.liveFrag (s : State) (p k f : Nat) : Bool := s.livePly p && Tab.has ((s.ply p).strand k).frags f
def State.modStrand (s : State) (p k : Nat) (f : Strand → Strand) : State := s.modPly p (fun q => q.modStrand k f)
def State.modFrag (s : State) (p k i : Nat) (f : Frag → Frag) : State := s.modStrand p k (fun t => t.modFrag i f)

/-- Every fragment of the machine through a function of its ply, strand and fragment numbers. -/
def State.mapFrags (s : State) (f : Nat → Nat → Nat → Frag → Frag) : State :=
  { s with plies := s.plies.map (fun p => (p.1, { p.2 with strands := p.2.strands.map (fun t =>
      (t.1, { t.2 with frags := t.2.frags.map (fun g => (g.1, f p.1 t.1 g.1 g.2)) })) })) }

/-! ## The issuing fragment -/

def State.curPly (s : State) : Ply := s.ply s.iss.ply
def State.cur (s : State) : Strand := s.curPly.strand s.iss.strand
def State.curFrag (s : State) : Frag := s.cur.fragAt s.iss.frag
def State.modCurPly (s : State) (f : Ply → Ply) : State := s.modPly s.iss.ply f
def State.modCur (s : State) (f : Strand → Strand) : State := s.modStrand s.iss.ply s.iss.strand f
def State.modCurFrag (s : State) (f : Frag → Frag) : State := s.modFrag s.iss.ply s.iss.strand s.iss.frag f
/-- The core on which the issuing ply runs. -/
def State.curCore (s : State) : Nat := s.curPly.core

/-- Fragments that the strand creates from now on come after those of earlier clocks, in whichever strand (R39). -/
def State.stamp (s : State) (p k : Nat) : State := s.modStrand p k (fun t => { t with ages := Nat.max t.ages (1024 * s.clock) })

/-- The fragment is in the middle of something that has issued: its ply is not saved before it is over (R48, R111). -/
def Frag.underWay (f : Frag) : Bool := (f.begun || f.ahead != []) && (f.wait == .none || f.wait == .held)

/-- A strand at the trap level (R345). -/
def Strand.trapped (t : Strand) : Bool := t.trap.on

/-! ## Places of the package (R7, R265, R297) -/

def coreDie (c : Nat) : Nat := c / 36
def coreNum (c : Nat) : Nat := c % 36
/-- Package-wide bay of a core. -/
def coreBay (c : Nat) : Nat := coreDie c * 9 + coreNum c / 4
/-- Core-in-bay. -/
def coreInBay (c : Nat) : Nat := coreNum c % 4
/-- The core of a bay with this core-in-bay. -/
def bayCore (b i : Nat) : Nat := b / 9 * 36 + b % 9 * 4 + i
/-- The four cores of a bay. -/
def bayCores (b : Nat) : List Nat := [bayCore b 0, bayCore b 1, bayCore b 2, bayCore b 3]
/-- %clock of a core: its reads differ from another core's by at most 4 (R55). -/
def coreClock (s : State) (c : Nat) : Nat := s.clock + Config.clockSkew c % 5
/-- %clock as a ply reads it: what it could read on a core that it has left bounds it from below (R55). -/
def State.plyClock (s : State) (p : Nat) : Nat := Nat.max (coreClock s (s.ply p).core) (s.ply p).clockLow
/-- The I/O die that serves a core (R334). -/
def coreIo (c : Nat) : Nat := coreDie c / 4

/-- PA of a byte of package HBM counted in GiB-index order (R297). -/
def linPa (l : Nat) : Nat := (l / 2 ^ 30 / 96) * 2 ^ 37 + (l / 2 ^ 30 % 96) * 2 ^ 30 + l % 2 ^ 30
/-- The same count of a PA. -/
def paLin (pa : Nat) : Nat := (pa / 2 ^ 37 * 96 + pa % 2 ^ 37 / 2 ^ 30) * 2 ^ 30 + pa % 2 ^ 30
/-- There is memory at the PA (R297). -/
def paExists (pa : Nat) : Bool := decide (pa < 2 ^ 40) && decide (pa % 2 ^ 37 < 96 * 2 ^ 30)
/-- The home slice of a PA: 32 x die + slice. -/
def paSlice (pa : Nat) : Nat :=
  let l := pa % 2 ^ 37 / 1024
  pa / 2 ^ 37 * 32 + Nat.xor (l % 32) (l / 32 % 32)

/-- The HBM stack, bank and row group of a PA (R297). -/
def paStack (pa : Nat) : Nat := 2 * (pa / 2 ^ 37) + paSlice pa % 32 / 16
def paBank (pa : Nat) : Nat := pa / 2 ^ 20 % 16
def paRowGroup (pa : Nat) : Nat := pa % 2 ^ 37 / 2 ^ 24
/-- The row of a sector of HBM: which one of its row group is the stack's own. -/
def hbmRow (sec : Nat) : Nat := Config.hbmRow (paStack (sec * 128)) (paBank (sec * 128)) (paRowGroup (sec * 128)) (sec % 8192)

/-- The PA of a byte of a device's reserved region (R302). -/
def VDev.rsvPa (v : VDev) (o : Nat) : Nat := linPa ((v.hbmbase + v.hbmsize) * 2 ^ 30 - v.rsvsize * 2 ^ 26 + o)
/-- Bytes of the reserved region. -/
def VDev.rsvBytes (v : VDev) : Nat := v.rsvsize * 2 ^ 26
/-- A PA lies wholly in the partition below the reserved region, n bytes long. -/
def VDev.ownsPa (v : VDev) (pa n : Nat) : Bool :=
  paExists pa && decide (v.hbmbase * 2 ^ 30 ≤ paLin pa) &&
    decide (paLin pa + n ≤ (v.hbmbase + v.hbmsize) * 2 ^ 30 - v.rsvsize * 2 ^ 26)
/-- The bays of a device, ascending in die-then-bay order. -/
def VDev.bays (v : VDev) : List Nat :=
  (upFrom 0 72).filter (fun b => if b < 64 then bit v.bays0 b else bit v.bays1 (b - 64))
/-- The device owns a queue. -/
def VDev.ownsQueue (v : VDev) (q : Nat) : Bool := if q < 64 then bit v.qmask0 q else bit v.qmask1 (q - 64)
/-- The queues of a device. -/
def VDev.queueList (v : VDev) : List Nat := (upFrom 0 128).filter v.ownsQueue
/-- Dies on which the device has weight-store units (R293). -/
def VDev.wsDies (v : VDev) : List Nat :=
  (upFrom 0 8).filter (fun d => v.wssize != 0 && decide (v.wsbase < 32 * (d + 1)) && decide (32 * d < v.wsbase + v.wssize))
/-- The device has a bay on a die. -/
def VDev.onDie (v : VDev) (d : Nat) : Bool := v.bays.any (fun b => b / 9 == d)

/-- Plies resident on a core. -/
def State.pliesOn (s : State) (c : Nat) : List (Nat × Ply) := s.plies.filter (fun p => p.2.resident && p.2.core == c)
/-- Plies of a skein on this package, by ply number. -/
def State.mate (s : State) (k i : Nat) : Option Nat := (s.skein k).plies[i]?

/-- The launch values of the segment registers of a device (R301), as (base, control). -/
def VDev.launchSeg (v : VDev) (g : Nat) : Seg :=
  let world : W64 := if v.secure then 1#64 <<< 60 else 0
  let perm (a : Bool) : W64 := (if a then 1#64 <<< 59 else 0) ||| (1#64 <<< 58) ||| (1#64 <<< 57)
  let all : W64 := w64 (2 ^ 57 - 1)
  match g with
  | 0 => ⟨0, world ||| perm true ||| all⟩
  | 1 => ⟨0, world ||| perm true⟩
  | 2 => ⟨0, world ||| perm true⟩
  | 3 => ⟨w64 (v.wsbase * 2 ^ 26), world ||| perm true ||| w64 (v.wssize * 2 ^ 26)⟩
  | 4 => ⟨w64 v.pasid, world ||| perm false ||| all⟩
  | 5 => ⟨v.xbase, world ||| perm false ||| w64 (v.xbytes.toNat % 2 ^ 57)⟩
  | 6 => ⟨v.lbase, world ||| perm false ||| w64 v.llane⟩
  | _ => ⟨0, 0⟩

/-- A queue's PROT and POIS count only in class 3 (R266). -/
def Queue.accepts (q : Queue) : Bool := q.cls == 3 && q.pois

end Sys2Proof.Machine
end

