-- ==== Sys2Proof/Machine/Home.lean ====
section
/-! DEFINITION. The home slices and the memories behind them (R10, R233, R365, R366): reads and writes of device memory as the homes
perform them, the weight store, the loss of reservations, and error records (R361, R389, R390). -/
namespace Sys2Proof.Machine

/-! ## Reservations (R138) -/

/-- A write performed on a sector loses every reservation on it. -/
def loseReservations (s : State) (p : Place) : State :=
  s.mapFrags (fun _ _ _ f =>
    match f.resv with
    | some r => if r.sector = p then { f with resv := none } else f
    | none => f)

/-! ## Records of the package (R361, R390, R401) -/

/-- PF0's number among the functions: 17 (0 is PF1, 1 to 16 the VFs). [PRESUMED: log 11] -/
def pf0Fn : Nat := 17

/-- A record with %clock at its detection: of the core that it names, else the package's count (R361). -/
def dated (s : State) (r : ErrRec) : ErrRec :=
  if r.clock ≠ 0 then r else { r with clock := if r.core = 0xFF then s.clock else coreClock s (36 * r.die + r.core) }

/-- The 64 bytes of an error record (R361). -/
def recBytes (r : ErrRec) (number : Nat) : Bytes :=
  bytesLE r.severity 1 ++ bytesLE r.cls 1 ++ bytesLE r.cause 1 ++ bytesLE r.flags 1 ++ bytesLE r.vdev 1 ++ bytesLE r.die 1 ++
  bytesLE r.core 1 ++ bytesLE r.who 1 ++ bytesLE r.queue 2 ++ bytesLE r.detail 2 ++ bytesLE r.cookie.toNat 4 ++
  bytesLE r.clock 8 ++ bytesLE r.address.toNat 8 ++ bytesLE r.pc 4 ++ bytesLE r.lanes.toNat 4 ++ bytesLE r.skein 4 ++
  bytesLE r.seq.toNat 4 ++ bytesLE r.markval.toNat 8 ++ bytesLE r.markcode 2 ++ bytesLE (Nat.min r.repidx 255) 1 ++
  bytesLE r.frag 1 ++ bytesLE number 4

/-- The injection that is armed has been detected: ARM clears, FIRED sets, and RECNO waits for the record of its class and cause; cause 0 stands
for any cause of class 6 that reports no count (R403). [DEDUCED: log 23] -/
def fireInjection (s : State) (cls cause : Nat) : State :=
  s.modPf0 (fun p => { p with arm := false, fired := true, owed := some (cls, cause) })

/-- What an injection turned is overwritten before it is detected: it is disarmed, with FIRED clear (R403). -/
def disarm (s : State) : State := s.modPf0 (fun p => { p with arm := false, fired := false })

/-- A record is the one that RECNO waits for. -/
def owedRecord (o : Nat × Nat) (r : ErrRec) : Bool := r.cls == o.1 && (r.cause == o.2 || (o.2 == 0 && r.cause != 1 && r.cause != 4))

/-- RECNO takes the number of the record of an injection that has fired (R403). -/
def noteInjection (s : State) (r : ErrRec) (number : Nat) : State :=
  match s.pf0.owed with
  | some o => if owedRecord o r then s.modPf0 (fun p => { p with recno := w32 number, owed := none }) else s
  | none => s

/-- What of a record about a secure device PF0 can read (R337): severity and cause, with the address fields zero. PF0 reads the package ring; the
device's own queue lies in its reserved region, which PF0 is refused. [DEDUCED: log 66] -/
def hideSecure (s : State) (r : ErrRec) (about : Option Nat) : ErrRec :=
  if about.any (fun v => (s.vdev v).secure) then
    { severity := r.severity, cls := r.cls, cause := r.cause, flags := r.flags ||| 4, vdev := r.vdev, die := 0, core := 0, queue := 0,
      pc := 0, frag := 0, clock := 0 }
  else r

/-- Write a record to the package ring (R390); about is the virtual device that it concerns. [DEDUCED: log 44] -/
def writePackageRecord (s : State) (r : ErrRec) (about : Option Nat := none) : State :=
  let n := s.pf0.precw
  let s := noteInjection s r n.toNat
  let b := recBytes { hideSecure s (dated s r) about with vdev := 0, queue := 0xFFFF } n.toNat
  let s := s.modPf0 (fun p => { p with ring := Mem.write p.ring (64 * (n.toNat % 32)) b, precw := p.precw + 1 })
  s.send (.msix pf0Fn 0)

/-- Note a substitution in the remap table, pending until the next reset or not; false when it is full. [DESIGN CHOICE: log 9] -/
def addRemapAt (s : State) (kind die place spare : Nat) (pend : Bool) : State × Bool :=
  let e := s.pf0.remap.length
  if 256 ≤ e then (s, false)
  else (s.modPf0 (fun p => { p with remap := Tab.put e (w64 (kind * 2 ^ 60 + die * 2 ^ 56 + place % 2 ^ 24 * 2 ^ 32 + spare * 2 ^ 8 + 2 * b2n pend)) p.remap }), true)
def addRemap (s : State) (kind die place spare : Nat) : State × Bool := addRemapAt s kind die place spare false

/-- The SPARE of an entry for a retirement that no spare covers. [DESIGN CHOICE: log 9] -/
def noSpare : Nat := 0xFFFFFF

/-- The physical core that answers to a core's number on a die: the spares that have stood in for it, in turn (R8, R401). -/
def physCore (t : Tab W64) (d n : Nat) : Nat :=
  t.foldl (fun m e => if bits e.2 56 8 == 16 + d && bits e.2 32 24 == m && bits e.2 8 24 != noSpare then bits e.2 8 24 else m) n

/-! ## L2 sectors (R10, R64) -/

/-- Sectors of a home slice that are present. -/
def slicePresent (s : State) (sl : Nat) : List Nat := (s.l2.filter (fun e => paSlice (e.1 * 128) == sl)).map (·.1)

/-- Write a sector's bytes and poison from the home to HBM. [DEDUCED: log 4] -/
def writeBack (s : State) (sec : Nat) : State :=
  match Tab.find sec s.l2 with
  | some l =>
    if l.dirty then
      { s with hbm := Mem.write s.hbm (sec * 128) (Mem.read s.home (sec * 128) 128)
               hbmPoison := Tab.set false s.hbmPoison sec (Tab.get false s.homePoison sec)
               l2 := Tab.put sec { l with dirty := false } s.l2 }
    else s
  | none => s

/-- Drop a clean sector: the home then answers from HBM. [DEDUCED: log 4] -/
def l2Drop (s : State) (sec : Nat) : State :=
  match Tab.find sec s.l2 with
  | some _ =>
    { s with home := Mem.write s.home (sec * 128) (Mem.read s.hbm (sec * 128) 128)
             homePoison := Tab.set false s.homePoison sec (Tab.get false s.hbmPoison sec)
             l2 := Tab.del sec s.l2 }
  | none => s

/-- The sector that a full slice gives up: one marked first, else an ordinary one, else any (R64); which of them is free. -/
def l2Victim (s : State) (sl : Nat) : Option Nat :=
  let present := slicePresent s sl
  let of (p : Nat) := present.filter (fun e => (Tab.get {} s.l2 e).prio == p)
  let pick (l : List Nat) : Option Nat := l[Config.choice l.length s.draws % l.length]?
  if (of 1) != [] then pick (of 1) else if (of 0) != [] then pick (of 0) else pick present

/-- Sectors that a slice holds: 1,024 in each of the ways it still has (R14, R400); the log extensions take none of them.
[DEDUCED: log 64; DESIGN CHOICE: log 78] -/
def sliceRoom (s : State) (sl : Nat) : Nat := Config.sliceSectors - 1024 * Tab.get 0 (s.die (sl / 32)).waysLost (sl % 32)

/-- The eviction order a policy gives (R64). -/
def policyPrio (pol : Nat) : Nat :=
  match pol with
  | 2 => 1
  | 4 => 2
  | _ => 0

/-! ## Bit errors under SECDED (R365) -/

/-- The flip that waits at a place and is detected there, and the state without it; what gives the class and cause of its record (R403). -/
def takeFlip (s : State) (hit : Flip → Bool) (what : Flip → Nat × Nat) : Option (Flip × State) :=
  match s.flips.find? hit with
  | some f =>
    let s := { s with flips := s.flips.filter (fun g => !(hit g)) }
    some (f, if f.injected then fireInjection s (what f).1 (what f).2 else s)
  | none => none

/-- The flips of a place are overwritten before they are detected. -/
def dropFlips (s : State) (hit : Flip → Bool) : State :=
  let s := if s.flips.any (fun f => f.injected && hit f) then disarm s else s
  { s with flips := s.flips.filter (fun f => !(hit f)) }

/-- The record of an error of an array that poisons: corrected and counted, or found by what consumes the poison. -/
def arrayRecord (f : Flip) : Nat × Nat := (6, if f.double then 0 else 1)

/-- Count a corrected event of a die's arrays. -/
def countFixed (s : State) (d : Nat) : State := s.modDie d (fun x => { x with fixed := x.fixed + 1 })

/-! ## Retired ways and rows (R400) -/

/-- Note a double-bit error: true when as many as retire the place have come within the time that counts. -/
def noteDouble (s : State) (d kind place n : Nat) : State × Bool :=
  let old := (s.die d).doubles.filter (fun x => kind != 3 || decide (s.clock < x.2.2 + 2 ^ 32))
  let l := old ++ [(kind, place, s.clock)]
  let hit (x : Nat × Nat × Nat) : Bool := x.1 == kind && x.2.1 == place
  if n ≤ (l.filter hit).length then (s.modDie d (fun x => { x with doubles := l.filter (fun y => !(hit y)) }), true)
  else (s.modDie d (fun x => { x with doubles := l }), false)

/-- Detect the error of an L2 sector as it is read: a clean copy is dropped, to be filled again from HBM, a dirty one poisoned (R365). The state,
and whether it was a double-bit error. -/
def detectL2 (s : State) (sec : Nat) : State × Bool :=
  match Tab.find sec s.l2 with
  | none => (s, false)
  | some l =>
    match takeFlip s (fun f => f.kind == 5 && f.loc.toNat / 128 == sec) (fun f => if f.double && !l.dirty then (6, 4) else arrayRecord f) with
    | none => (s, false)
    | some (f, t) =>
      let d := sec * 128 / 2 ^ 37
      if !f.double then (countFixed t d, false)
      else
        (if l.dirty then { t with homePoison := Tab.put sec true t.homePoison }
         else (l2Drop t sec).modDie d (fun x => { x with refilled := x.refilled + 1 }), true)

/-- A sector leaves its slice: written back first when it is dirty, the error that its reading meets detected. -/
def l2Leave (s : State) (sec : Nat) : State := l2Drop (writeBack (detectL2 s sec).1 sec) sec

/-- A way of a slice is retired: its clean lines are dropped, its dirty lines written to HBM, and the slice's spare takes its place or the slice
goes on with fewer. [DEDUCED: log 64] -/
def retireWay (s : State) (sl way : Nat) : State :=
  let d := sl / 32
  let s := ((slicePresent s sl).filter (fun e => Config.l2Way e % 32 == way)).foldl l2Leave s
  let r := if (s.die d).wayUsed.contains (sl % 32) then (s, false) else addRemap s 3 d (sl % 32 * 32 + way) 32
  if r.2 then
    writePackageRecord (r.1.modDie d (fun x => { x with wayUsed := x.wayUsed ++ [sl % 32] })) { severity := 0, cls := 11, cause := 1, die := d }
  else (addRemap s 3 d (sl % 32 * 32 + way) noSpare).1.modDie d (fun x => { x with waysLost := Tab.put (sl % 32) (Nat.min 31 (Tab.get 0 x.waysLost (sl % 32) + 1)) x.waysLost })

/-- A double-bit error in a way: the fourth within 2^32 clocks retires it. -/
def doubleInWay (s : State) (sec : Nat) : State :=
  let sl := paSlice (sec * 128)
  let way := Config.l2Way sec % 32
  let r := noteDouble s (sl / 32) 3 (sl % 32 * 32 + way) 4
  if r.2 then retireWay r.1 sl way else r.1

/-- A double-bit error in a row of HBM (kind 4) or of the weight store (5): the second retires the row at the next package reset, while the die
has a spare row. [DEDUCED: log 64] -/
def doubleInRow (s : State) (d kind row : Nat) : State :=
  let taken (x : Nat × W64) : Bool := bits x.2 60 4 == kind && bits x.2 56 4 == d
  let used := s.pf0.remap.filter taken
  if used.any (fun x => bits x.2 1 1 == 1 && bits x.2 32 24 == row % 2 ^ 24) then s
  else
    let r := noteDouble s d kind row 2
    if r.2 && decide (used.length < if kind = 4 then Config.hbmSpareRows d else 64) then
      match addRemapAt r.1 kind d row used.length true with
      | (t, true) => writePackageRecord t { severity := 0, cls := 11, cause := 1, die := d }
      | (t, false) => t
    else r.1

/-- Write a dirty sector to HBM: it is read, and an error that lies in it detected (R191, R365). -/
def l2Clean (s : State) (sec : Nat) : State :=
  let r := detectL2 s sec
  writeBack (if r.2 then doubleInWay r.1 sec else r.1) sec

/-- Make a sector present at its home, evicting another when the slice is full. [DEDUCED: log 4] -/
def l2Fill (s : State) (sec prio : Nat) : State :=
  match Tab.find sec s.l2 with
  | some l => { s with l2 := Tab.put sec { l with prio := prio } s.l2 }
  | none =>
    let sl := paSlice (sec * 128)
    let s :=
      if (slicePresent s sl).length < sliceRoom s sl then s
      else
        match l2Victim s sl with
        | some v => { l2Drop (l2Clean s v) v with draws := s.draws + 1 }
        | none => s
    let s := dropFlips s (fun f => f.kind == 5 && f.loc.toNat / 128 == sec)
    { s with l2 := Tab.put sec { dirty := false, prio := prio } s.l2 }

/-- Detect the errors of an HBM or L2 sector as it is read at its home. -/
def detectHome (s : State) (sec : Nat) : State :=
  let r := detectL2 s sec
  let s := if r.2 then doubleInWay r.1 sec else r.1
  if Tab.has s.l2 sec then s
  else
    let d := sec * 128 / 2 ^ 37
    match takeFlip s (fun f => f.kind == 6 && f.loc.toNat / 128 == sec) arrayRecord with
    | some (f, t) =>
      if !f.double then countFixed t d
      else doubleInRow { t with hbmPoison := Tab.put sec true t.hbmPoison, homePoison := Tab.put sec true t.homePoison } d 4 (hbmRow sec)
    | none => s

/-- Detect the errors of a weight-store sector as it is read. -/
def detectWs (s : State) (sec : Nat) : State :=
  match takeFlip s (fun f => f.kind == 7 && f.loc.toNat / 128 == sec) arrayRecord with
  | some (f, t) =>
    if f.double then doubleInRow { t with wsPoison := Tab.put sec true t.wsPoison } (sec * 128 / 2 ^ 31) 5 (Config.wsRow sec)
    else countFixed t (sec * 128 / 2 ^ 31)
  | none => s

/-! ## Device memory -/

/-- Bytes of device memory as the homes hold them. -/
def homeRead (s : State) (pa n : Nat) : Bytes := Mem.read s.home pa n

/-- The sector at the home is poisoned. -/
def homePoisoned (s : State) (sec : Nat) : Bool := Tab.get false s.homePoison sec

/-- Count a sector moved for a virtual device (R340). -/
def countFor (s : State) (v : Nat) : State :=
  s.modPlat (fun p => { p with traffic := Tab.put v (Tab.get 0 p.traffic v + 1) p.traffic })

/-- Count n of them. -/
def countMany (s : State) (v n : Nat) : State :=
  s.modPlat (fun p => { p with traffic := Tab.put v (Tab.get 0 p.traffic v + n) p.traffic })

/-- Count a sector moved at its home for the device whose partition holds it. -/
def countHome (s : State) (pa : Nat) : State :=
  match s.vdevs.find? (fun v => v.2.exist && decide (v.2.hbmbase * 2 ^ 30 ≤ paLin pa) && decide (paLin pa < (v.2.hbmbase + v.2.hbmsize) * 2 ^ 30)) with
  | some v => countFor s v.1
  | none => s

/-- A read at the home fills L2 unless the policy is 011 (R64), and detects the errors of the sector. [DEDUCED: log 4] -/
def homeTouch (s : State) (pa pol : Nat) : State :=
  let s := detectHome (countHome s pa) (pa / 128)
  if pol == 3 then s else l2Fill s (pa / 128) (policyPrio pol)

/-- Bytes [a, a + n) cover the whole sector. -/
def coversSector (a n sec : Nat) : Bool := decide (a ≤ sec * 128) && decide (sec * 128 + 128 ≤ a + n)

/-- What a write at a sector leaves to its bookkeeping: present and dirty (or written through for policy 011), poison cleared when
all of it is written (R366), reservations lost (R138), an undetected flip under the written bytes gone. [DEDUCED: log 62] -/
def homeWrote (s : State) (sec pol : Nat) (whole : Bool) : State :=
  let s := countHome s (sec * 128)
  let s := if whole then
      dropFlips { s with homePoison := Tab.del sec s.homePoison } (fun f => (f.kind == 5 || f.kind == 6) && f.loc.toNat / 128 == sec)
    else s
  let s :=
    if pol == 3 then
      { s with hbm := Mem.write s.hbm (sec * 128) (Mem.read s.home (sec * 128) 128)
               hbmPoison := Tab.set false s.hbmPoison sec (homePoisoned s sec) }
    else
      let t := l2Fill s sec (policyPrio pol)
      { t with l2 := Tab.put sec { dirty := true, prio := policyPrio pol } t.l2 }
  loseReservations s (.hbm (sec * 128))

/-- A write of part of a sector reads what it leaves of it, with the errors that lie there (R365). -/
def readUnder (s : State) (sec : Nat) (whole : Bool) : State := if whole then s else detectHome s sec

/-- Write bytes of one sector at its home. -/
def homeWriteIn (s : State) (pa pol : Nat) (b : Bytes) : State :=
  let whole := coversSector pa b.length (pa / 128)
  let s := readUnder s (pa / 128) whole
  homeWrote { s with home := Mem.write s.home pa b } (pa / 128) pol whole

/-- Write bytes at the homes, sector by sector. -/
def homeWriteAll (s : State) (pa pol : Nat) (b : Bytes) : Nat → State
  | 0 => s
  | fuel + 1 =>
    if b = [] then s
    else
      let n := 128 - pa % 128
      homeWriteAll (homeWriteIn s pa pol (b.take n)) (pa + n) pol (b.drop n) fuel

/-- Write bytes at the homes under policy 000. -/
def homeWrite (s : State) (pa : Nat) (b : Bytes) : State := homeWriteAll s pa 0 b (b.length / 128 + 2)

/-- A byte merged under a mask of bits. -/
def mergeByte (old v m : Byte) : Byte := (old &&& ~~~m) ||| (v &&& m)

/-- Merge cells (value, mask) of a sector into memory at its address. -/
def mergeCells (m : Mem) (base : Nat) (c : Tab (Byte × Byte)) : Mem :=
  c.foldl (fun m e => Mem.put m (base + e.1) (mergeByte (Mem.byte m (base + e.1)) e.2.1 e.2.2)) m

/-- The cells cover all 128 bytes. -/
def cellsWhole (c : Tab (Byte × Byte)) : Bool := c.length == 128 && c.all (fun e => e.2.2 == 0xFF)

/-- Perform a log entry's cells at the home of a sector; poison comes with them (R366). -/
def homeDrain (s : State) (sec pol : Nat) (c : Tab (Byte × Byte)) (poison : Bool) : State :=
  let s := readUnder s sec (cellsWhole c)
  let s := homeWrote { s with home := mergeCells s.home (sec * 128) c } sec pol (cellsWhole c)
  if poison then
    let s := { s with homePoison := Tab.put sec true s.homePoison }
    if pol == 3 then { s with hbmPoison := Tab.put sec true s.hbmPoison } else s
  else s

/-! ## Records -/

/-- The WRITE, READ and entry addresses of a ring at offset base of the reserved region (R375, R389). -/
def ringRead (s : State) (v base : Nat) : Nat := natLE (homeRead s ((s.vdev v).rsvPa (base + 8)) 8)

/-- The function that serves a virtual device (R327): its VF when enabled, else PF1 (function 0). [PRESUMED: log 11] -/
def servingFn (s : State) (v : Nat) : Nat := if (Tab.get {} s.plat.fns (v + 1)).enabled then v + 1 else 0

/-- What a request that a virtual device originates carries (R327, R337). -/
def State.tag (s : State) (v : Nat) : Tag := { vdev := v, fn := servingFn s v, world := (s.vdev v).secure }

/-- Send an MSI-X message of the function that serves the device. [DEDUCED: log 74] -/
def msixVdev (s : State) (v vec : Nat) : State := s.send (.msix (servingFn s v) vec)

/-- Write a record to the error queue of its virtual device (R389). A full queue loses the record and consumes its number. -/
def writeRecord (s : State) (r : ErrRec) : State :=
  let v := s.vdev r.vdev
  if !v.exist then s
  else
    let number := v.recNo
    let s := s.modVdev r.vdev (fun v => { v with recNo := v.recNo + 1 })
    let s := noteInjection s r number
    if ringRead s r.vdev 0x80000 + 4096 ≤ v.recW then s
    else
      let s := homeWrite s (v.rsvPa (0x81000 + 64 * (v.recW % 4096))) (recBytes (dated s r) number)
      let s := homeWrite s (v.rsvPa 0x80000) (bytesLE (v.recW + 1) 8)
      msixVdev (s.modVdev r.vdev (fun v => { v with recW := v.recW + 1 })) r.vdev 0

/-- The fields of a record about a ply (R361). -/
def plyRecord (s : State) (p : Nat) (strand frag : Nat) : ErrRec :=
  let y := s.ply p
  { vdev := y.vdev, die := coreDie y.core, core := coreNum y.core, who := 128 + 32 * y.num + strand, queue := y.queue,
    cookie := (s.reel y.reel).cookie, skein := (s.skein y.skein).num, seq := y.seq, markval := y.markVal, markcode := y.markCode.toNat,
    repidx := y.repidx, frag := frag, clock := s.plyClock p }

end Sys2Proof.Machine
end

