-- ==== Sys2Proof/Machine/Translate.lean ====
section
/-! DEFINITION. Address translation (R253 to R264): the hashed table's walk, the TLB levels, the checks of a translated access, and
invalidation of the cached translations. -/
namespace Sys2Proof.Machine

/-- Bytes of a page of size code k. -/
def pageBytes (k : Nat) : Nat := 4096 * 2 ^ k

/-- Access kinds (R257): 0 load, 1 store, 2 atomic or RED, 3 fetch, which is a load that also needs x (R253). -/
def pagePermits (p : Page) (kind : Nat) : Bool :=
  match kind with
  | 0 => p.r
  | 1 => p.w
  | 2 => p.a
  | _ => p.r && p.x

/-- The fields of a translation root (R254). -/
def rootSizes (t : W64) : Nat := bits t 48 16
def rootLogn (t : W64) : Nat := bits t 40 5
def rootBase (t : W64) : Nat := bits t 17 23 * 2 ^ 17

/-- A root keeps R254 for this device: LOGN in range, BASE aligned, the bucket array inside the reserved region; its reserved bits are ignored (R3). -/
def rootOk (v : VDev) (t : W64) : Bool :=
  let n := rootLogn t
  let b := rootBase t
  decide (10 ≤ n) && decide (n ≤ 26) && b % 2 ^ (n + 7) == 0 && paExists b &&
    decide ((v.hbmbase + v.hbmsize) * 2 ^ 30 - v.rsvsize * 2 ^ 26 ≤ paLin b) &&
    decide (paLin b + 128 * 2 ^ n ≤ (v.hbmbase + v.hbmsize) * 2 ^ 30)

/-- What a walk finds. -/
inductive Walk where
  | absent
  | format
  | page (p : Page)
  deriving DecidableEq, Repr

/-- The page of a valid PTE, or a format error (R255, R256, R302). -/
def ptePage (v : VDev) (vn : Nat) (w0 w1 : W64) : Walk :=
  let k := bits w0 8 4
  let vb := bits w0 12 45 * 4096
  let fr := bits w1 12 28 * 4096
  if bits w0 57 7 != 0 || bits w0 1 7 != 0 || bits w1 40 18 != 0 || bits w1 0 12 != 0 || vb % pageBytes k != 0 ||
      fr % pageBytes k != 0 || !(v.ownsPa fr (pageBytes k)) then .format
  else .page { vdev := vn, host := false, pasid := 0, vbase := vb, k := k, frame := fr, r := bit w1 59, w := bit w1 60, a := bit w1 61,
               x := bit w1 62, world := bit w1 63 }

/-- Look through n slots of a bucket for a valid PTE of size k whose page holds vpn. -/
def walkSlots (s : State) (v : VDev) (vn bucket k vpn slot : Nat) : Nat → Walk
  | 0 => .absent
  | n + 1 =>
    let w0 := w64 (natLE (homeRead s (bucket + 16 * slot) 8))
    let w1 := w64 (natLE (homeRead s (bucket + 16 * slot + 8) 8))
    if bit w0 0 && bits w0 8 4 == k && bits w0 (12 + k) (45 - k) == vpn then ptePage v vn w0 w1
    else walkSlots s v vn bucket k vpn (slot + 1) n

/-- Four buckets from the hashed one on (R256). -/
def walkBuckets (s : State) (v : VDev) (vn k vpn h j : Nat) : Nat → Walk
  | 0 => .absent
  | n + 1 =>
    match walkSlots s v vn (rootBase v.troot + 128 * ((h + j) % 2 ^ rootLogn v.troot)) k vpn 0 8 with
    | .absent => walkBuckets s v vn k vpn h (j + 1) n
    | w => w

/-- The hash of R256. -/
def walkHash (logn k vpn : Nat) : Nat :=
  (Nat.xor vpn (k * 2 ^ 56) * 0x9E3779B97F4A7C15 % 2 ^ 64) / 2 ^ (64 - logn)

/-- Sizes from k - 1 down to 0. -/
def walkSizes (s : State) (v : VDev) (vn va : Nat) : Nat → Walk
  | 0 => .absent
  | k + 1 =>
    if (rootSizes v.troot).testBit k then
      let vpn := va % 2 ^ 57 / 2 ^ (12 + k)
      match walkBuckets s v vn k vpn (walkHash (rootLogn v.troot) k vpn) 0 4 with
      | .absent => walkSizes s v vn va k
      | w => w
    else walkSizes s v vn va k

/-- A walk of a device's table for a virtual address (R256). -/
def walk (s : State) (vn va : Nat) : Walk := walkSizes s (s.vdev vn) vn va 16

/-- The walker reads n buckets from the hashed one on at their homes like data, up to the first that holds a match (R256, R64). -/
def touchBuckets (s : State) (v : VDev) (vn k vpn h j : Nat) : Nat → State × Bool
  | 0 => (s, false)
  | n + 1 =>
    let b := rootBase v.troot + 128 * ((h + j) % 2 ^ rootLogn v.troot)
    let t := homeTouch s b 0
    if walkSlots t v vn b k vpn 0 8 = .absent then touchBuckets t v vn k vpn h (j + 1) n else (t, true)

/-- Sizes from k - 1 down to 0. -/
def touchSizes (s : State) (v : VDev) (vn va : Nat) : Nat → State
  | 0 => s
  | k + 1 =>
    if (rootSizes v.troot).testBit k then
      let vpn := va % 2 ^ 57 / 2 ^ (12 + k)
      let r := touchBuckets s v vn k vpn (walkHash (rootLogn v.troot) k vpn) 0 4
      if r.2 then r.1 else touchSizes r.1 v vn va k
    else touchSizes s v vn va k

/-- What the reads of a walk leave at the homes. -/
def walkTouch (s : State) (vn va : Nat) : State := touchSizes s (s.vdev vn) vn va 16

/-- A cached page translates this address of this space. -/
def Page.covers (p : Page) (vn : Nat) (host : Bool) (pasid va : Nat) : Bool :=
  p.vdev == vn && p.host == host && p.pasid == pasid && decide (p.vbase ≤ va) && decide (va < p.vbase + pageBytes p.k)

/-- The physical address through a page (R257). -/
def Page.phys (p : Page) (va : Nat) : Nat := p.frame + va % pageBytes p.k

/-- Add a page to a TLB level of n entries, the oldest going first. [DESIGN CHOICE: log 27] -/
def tlbAdd (l : List Page) (p : Page) (n : Nat) : List Page :=
  let m := l.filter (· ≠ p) ++ [p]
  m.drop (m.length - n)

/-- Fill both TLB levels of a core (R258). -/
def tlbFill (s : State) (c : Nat) (p : Page) : State :=
  let s := s.modCore c (fun x => { x with utlb := tlbAdd x.utlb p Config.utlbEntries })
  s.modDie (coreDie c) (fun d => { d with tlb := tlbAdd d.tlb p Config.dieTlbEntries })

/-- What translating an address gives: a page, a class-7 cause (R257), or an ATS request to make first. -/
inductive Tr where
  | ok (p : Page)
  | fail (cause : Nat)
  | ats
  deriving DecidableEq, Repr

/-- The checks of R257 on a page. -/
def checkPage (p : Page) (kind : Nat) (world : Bool) : Tr :=
  if p.world && !world then .fail 3 else if pagePermits p kind then .ok p else .fail 4

/-- Look up the TLB levels, then walk (R258). Host pages come through ATS. -/
def lookup (s : State) (c vn : Nat) (host : Bool) (pasid va : Nat) : Walk × State :=
  match (s.core c).utlb.find? (fun p => p.covers vn host pasid va) with
  | some p => (.page p, s)
  | none =>
    match (s.die (coreDie c)).tlb.find? (fun p => p.covers vn host pasid va) with
    | some p => (.page p, s.modCore c (fun x => { x with utlb := tlbAdd x.utlb p Config.utlbEntries }))
    | none =>
      if host then (.absent, s)
      else
        let t := walkTouch s vn va
        match walk t vn va with
        | .page p => (.page p, tlbFill t c p)
        | w => (w, t)

/-- Translate a tag-0 or tag-6 address for an access of a kind (R257). -/
def translateDev (s : State) (c vn va kind : Nat) (world : Bool) : Tr × State :=
  match lookup s c vn false 0 va with
  | (.absent, t) => (.fail 1, t)
  | (.format, t) => (.fail 2, t)
  | (.page p, t) => (checkPage p kind world, t)

/-- Translate a tag-4 address (R264). -/
def translateHost (s : State) (c vn pasid va kind : Nat) : Tr × State :=
  match lookup s c vn true pasid va with
  | (.page p, t) => (if pagePermits p kind then .ok p else .fail 4, t)
  | (_, t) => (.ats, t)

/-- The cached translation of a translation register (R259): the page when found, of a good format and of the segment's world; the
window is the part of the limit inside the page. Says whether a host page is still to be asked for (R264). -/
def resolveX (s : State) (c vn : Nat) (g0 g4 : Seg) (base limit : W64) : XReg × Bool × State :=
  let va := bits base 0 57
  let host := bits base 60 4 == 4
  let seg := if host then g4 else g0
  let r := if host then lookup s c vn true (bits seg.base 0 20) va else lookup s c vn false 0 va
  match r with
  | (.page p, t) =>
    if p.world && !(bit seg.ctl 60) then ({ base := base, limit := limit }, false, t)
    else ({ base := base, limit := limit, window := Nat.min limit.toNat (p.vbase + pageBytes p.k - va), page := p }, false, t)
  | (_, t) => ({ base := base, limit := limit }, host, t)

/-- A translation by the command complex, or for an inbound access: the walk alone (R327, R335, R418). Its reads are those of walkTouch. -/
def translateWalk (s : State) (vn va kind : Nat) : Tr :=
  match walk s vn va with
  | .absent => .fail 1
  | .format => .fail 2
  | .page p => checkPage p kind (s.vdev vn).secure

/-- A page overlaps [lo, hi). -/
def Page.overlaps (p : Page) (lo hi : Nat) : Bool := decide (p.vbase < hi) && decide (lo < p.vbase + pageBytes p.k)

/-- The page is one of a device's space. -/
def Page.inSpace (p : Page) (vn : Nat) (host : Bool) (pasid : Nat) : Bool := p.vdev == vn && p.host == host && p.pasid == pasid

/-- Remove the TLB entries of a space that overlap a range (R262 step 1). -/
def dropTlb (s : State) (vn : Nat) (host : Bool) (pasid lo hi : Nat) : State :=
  let keep (p : Page) : Bool := !(p.inSpace vn host pasid && p.overlaps lo hi)
  { s with cores := s.cores.map (fun c => (c.1, { c.2 with utlb := c.2.utlb.filter keep }))
           dies := s.dies.map (fun d => (d.1, { d.2 with tlb := d.2.tlb.filter keep })) }

/-- Empty the windows of translation registers whose frame overlaps a range (R262 step 2). -/
def dropWindows (s : State) (vn : Nat) (host : Bool) (pasid lo hi : Nat) : State :=
  { s with plies := s.plies.map (fun p => (p.1, { p.2 with strands := p.2.strands.map (fun t => (t.1, { t.2 with x := t.2.x.map (fun x =>
      (x.1, if x.2.page.inSpace vn host pasid && x.2.page.overlaps lo hi then { x.2 with window := 0 } else x.2)) })) })) }

/-- The fabric address and virtual device of a rank (R292), read through the device's table; none when it cannot be read. -/
def rankTarget (s : State) (reel rank : Nat) : Option (Nat × Nat) :=
  let r := s.reel reel
  match r.pgt with
  | none => if rank = 0 then some (s.pf0.faddr.toNat, r.vdev) else none
  | some _ =>
    let a := bits r.map 0 57 + 8 * rank
    match translateWalk s r.vdev a 0 with
    | .ok p =>
      let e := natLE (homeRead s (p.phys a) 8)
      some (e % 65536, e / 65536 % 16)
    | _ => none

/-- What the reads of rankTarget leave at the homes (R256, R292). -/
def touchRank (s : State) (reel rank : Nat) : State :=
  let r := s.reel reel
  match r.pgt with
  | none => s
  | some _ =>
    let a := bits r.map 0 57 + 8 * rank
    let s := walkTouch s r.vdev a
    match translateWalk s r.vdev a 0 with
    | .ok p => homeTouch s (p.phys a) 0
    | _ => s

/-- The link on which a request leaves I/O die io for a fabric address: one of its own die's (R334). -/
def routeOf (s : State) (io faddr : Nat) : Option Nat :=
  if s.pf0.faddr == 0xFFFF then none
  else
    match Tab.get none s.plat.routes (1024 * io + faddr % 1024) with
    | some port => if port / 72 == io && s.plat.links.any (fun l => l.port == port && l.up) then some port else none
    | none => none

end Sys2Proof.Machine
end

