-- ==== Sys2Proof/Machine/StoreLog.lean ====
section
/-! DEFINITION. The store log of a core (R236 to R244): appending, coalescing, drains, loss of protection (R45), publications, releases
and acquires. -/
namespace Sys2Proof.Machine

/-! ## Cells -/

/-- Whole bytes at an offset of a sector. -/
def cellsOf (off : Nat) (b : Bytes) : Tab (Byte × Byte) := (b.zip (upFrom off b.length)).map (fun e => (e.2, (e.1, 0xFF#8)))

/-- Merge one cell over what is there. -/
def addCell (t : Tab (Byte × Byte)) (o : Nat) (c : Byte × Byte) : Tab (Byte × Byte) :=
  let old := Tab.get (0, 0) t o
  Tab.put o (mergeByte old.1 c.1 c.2, old.2 ||| c.2) t

/-- Merge the cells of a later store over those of an earlier one. -/
def addCells (t u : Tab (Byte × Byte)) : Tab (Byte × Byte) := u.foldl (fun t e => addCell t e.1 e.2) t

/-! ## Loss of protection (R45) -/

/-- Entries of a ply become ordinary. -/
def unhold (s : State) (p : Nat) : State :=
  s.modCore (s.ply p).core (fun c => { c with log := c.log.map (fun e => if e.ply == p then { e with held := false } else e) })

/-- The undo journal of a ply gives up its granules; an injected error in one is gone (R43, R403). -/
def freeJournal (s : State) (p : Nat) : State :=
  let s := if (s.ply p).journal.any (fun g => g.2.injected) then disarm s else s
  s.modPly p (fun y => { y with journal := [] })

/-- The held entries of a ply leave its core's log, unread; an injected error in one is gone (R354, R358, R403). -/
def dropHeld (s : State) (p : Nat) : State :=
  let c := (s.ply p).core
  let s := if (s.core c).log.any (fun e => e.ply == p && e.held && e.injected) then disarm s else s
  s.modCore c (fun x => { x with log := x.log.filter (fun e => !(e.ply == p && e.held)) })

/-- An event of R45: set the cause bit; when the interval was protected, free its journal and make its held entries ordinary. -/
def endProtection (s : State) (p n : Nat) : State :=
  if !s.livePly p then s
  else
    let y := s.ply p
    let s := s.modPly p (fun y => { y with cause := y.cause ||| (1#8 <<< (n - 8)) })
    let s := if (s.reel y.reel).rerun.isSome then s.urgent (.ckptRerun y.queue) else s
    if y.prot then unhold ((freeJournal s p).modPly p (fun y => { y with prot := false })) p else s

/-! ## Requests to peers -/

/-- Register an outstanding request of a who. -/
def ask (s : State) (who : Who) (vdev : Nat) (a : Ask) (link : Option Nat) : State :=
  (s.modPlat (fun p => { p with reqs := p.reqs ++ [{ id := s.fresh, who := who, vdev := vdev, ask := a, link := link, clock := s.clock }] })).bump

/-- Send a write to host memory, with its poison (R366). -/
def sendHost (s : State) (v pasid pa : Nat) (cells : Tab (Byte × Byte)) (poison : Bool) : State :=
  (s.send (.hostWrite (s.tag v) pasid pa cells poison)).modPlat (fun p => { p with hostOut := p.hostOut + 1 })

/-- A wake write of a collapsed device starts its wake; one that comes during a collapse abandons it (R267, R305). -/
def wakeDevice (s : State) (v : Nat) : State :=
  match (s.vdev v).collapse with
  | .collapsed c => (s.modVdev v (fun d => { d with collapse := .waking c })).later (.wake v)
  | .collapsing c => (s.modVdev v (fun d => { d with collapse := .waking c })).later (.wake v)
  | _ => s

/-- An inbound access to a device that is not awake is held, and wakes it (R305). -/
def holdInbound (s : State) (v : Nat) (e : Instr) : Option State :=
  if (s.vdev v).exist && (s.vdev v).collapse != .awake then
    some (wakeDevice (s.modVdev v (fun d => { d with heldIn := d.heldIn ++ [e] })) v)
  else none

/-- A consumed error as the event that treats it: what follows a drain takes place before anything else. -/
def containLater (s : State) (p k cls cause : Nat) (lanes : W32) (addr : W64) : State :=
  if s.livePly p then s.urgent (.containment ⟨p, k, 0xFF⟩ cls cause lanes addr) else s

/-- A ply's containment stands next in the engine: what it is doing ends there. -/
def doomed (s : State) (p : Nat) : Bool :=
  s.engine.any (fun e => match e with
    | .containment m _ _ _ _ => m.ply == p
    | _ => false)

/-- The record of a log entry's error, about its owning ply. -/
def ownerRecord (s : State) (p k f : Nat) (addr : W64) : ErrRec := { plyRecord s p k f with address := addr }

/-- A ply that is killed writes the records of the errors found in its own entries as they drained (R358, R371). [DEDUCED: log 48] -/
def settleDoomed (s : State) (p : Nat) : State :=
  s.engine.foldl (fun s e => match e with
    | .containment m cls cause lanes addr =>
      if m.ply == p then writeRecord { s with engine := s.engine.erase e } { ownerRecord s p m.strand m.frag addr with severity := 2, cls := cls, cause := cause, lanes := lanes } else s
    | _ => s) s

/-- The owning ply of a store entry is contained if it is live; else the entry's record alone is written (R335, R371, R398). [DEDUCED: log 48] -/
def failedStore (s : State) (p cls cause : Nat) (owner : ErrRec) : State :=
  if s.livePly p then s.urgent (.containment ⟨p, owner.who % 32, owner.frag⟩ cls cause 0 owner.address)
  else writeRecord s { owner with severity := 2, cls := cls, cause := cause }

/-- A store entry that could not be delivered (R398). -/
def lostStore (s : State) (p : Nat) (owner : ErrRec) : State := failedStore s p 10 5 owner

/-- Refuse a store entry at its target (R335). -/
def refusedStore (s : State) (p : Nat) (owner : ErrRec) : State := failedStore s p 6 9 owner

/-- The record of a log entry about its ply, which may have left the machine. -/
def LogEntry.record (s : State) (e : LogEntry) : ErrRec := e.owner.getD (ownerRecord s e.ply e.strand e.frag e.vaddr)

/-- An ordinary entry is found to hold an uncorrectable error: its ply is contained if it is live, else the record alone is written (R371). -/
def entryError (s : State) (e : LogEntry) : State :=
  failedStore s e.ply 6 5 { LogEntry.record s e with frag := 0xFF }

/-- What is found as an entry of a core is read: a single-bit error is corrected and counted, an injected error has been detected (R365, R403). -/
def seeEntry (s : State) (c : Nat) (e : LogEntry) : State :=
  if !(e.single || e.injected) then s
  else
    let s := if e.injected then fireInjection s 6 (if e.bad then 5 else 1) else s
    s.modCore c (fun x => { x with
      counts := if e.single then { x.counts with array := x.counts.array + 1 } else x.counts
      log := x.log.map (fun g => if g.serial == e.serial then { g with single := false, injected := false } else g) })

/-- The cells of a store entry as its request carries them from an offset of the request on: offset, value and mask of each byte. -/
def cellBytes (base : Nat) (c : Tab (Byte × Byte)) : Bytes := c.flatMap (fun x => [BitVec.ofNat 8 (base + x.1), x.2.1, x.2.2])

/-- The entry that goes to a peer in one request with e: the other sector of its 256-byte block, of the same ply and policy, which is next in log
order on the way there (R415). -/
def blockMate (log : List LogEntry) (e : LogEntry) : Option LogEntry :=
  match (log.filter (fun g => g.space == e.space && decide (e.serial < g.serial))).head? with
  | some g => if g.sector == Nat.xor e.sector 1 && g.ply == e.ply && g.vdev == e.vdev && g.policy == e.policy && g.pub == e.pub && !g.held then some g else none
  | none => none

/-- What one request to a peer carries of an entry and its mate: the offset in the window, the bytes of the request, the poisoned sectors (bit 0
the first, bit 1 the second), and the cells (R415). -/
def peerBlock (e : LogEntry) (mate : Option LogEntry) : Nat × Nat × Nat × Bytes :=
  match mate with
  | none => (e.sector * 128, 128, b2n e.poison, cellBytes 0 e.cells)
  | some g =>
    let at' (x : LogEntry) : Nat := 128 * (x.sector % 2)
    let bit' (x : LogEntry) : Nat := b2n x.poison * 2 ^ (x.sector % 2)
    (e.sector / 2 * 256, 256, bit' e + bit' g, cellBytes (at' e) e.cells ++ cellBytes (at' g) g.cells)

/-- Send a store entry to a peer, alone or with its mate (R66, R335, R415), with its policy (R64); one to this package's own window is performed
here, or held while the device there sleeps (R305). -/
def sendPeerStore (s : State) (c : Nat) (e : LogEntry) (mate : Option LogEntry) (rank : Nat) : State :=
  let r := (s.ply e.ply).reel
  let own := LogEntry.record s e
  let (off, len, hurt, data) := peerBlock e mate
  let s := touchRank (countFor s e.vdev) r rank
  match rankTarget s r rank with
  | none => lostStore s e.ply own
  | some (f, v) =>
    if f == s.pf0.faddr.toNat && s.pf0.faddr != 0xFFFF then
      match holdInbound s v (.peerRequest f f v s.fresh 1 ⟨off, e.policy⟩ len hurt data) with
      | some t => ask t (.frag e.ply 0 0) e.vdev (.peerStore rank e.ply own) none
      | none =>
        let t := s.vdev v
        let va := t.xbase.toNat % 2 ^ 57 + off
        if t.exist && !t.stopped && decide (off + len ≤ t.xbytes.toNat) then
          let s := walkTouch s v va
          match translateWalk s v va 1 with
          | .ok p => (e :: mate.toList).foldl (fun s g => homeDrain s ((p.phys va + (g.sector * 128 - off)) / 128) g.policy g.cells g.poison) s
          | _ => refusedStore s e.ply own
        else refusedStore s e.ply own
    else
      match routeOf s (coreIo c) f with
      | none => lostStore s e.ply own
      | some l =>
        let s := s.send (.peerReq s.fresh l f (s.tag e.vdev) v 1 off len hurt e.policy data)
        ask s (.frag e.ply 0 0) e.vdev (.peerStore rank e.ply own) (some l)

/-! ## REDs under way (R11, R105, R246) -/

/-- L1 key of a sector: 4 x sector, plus 0 device, 1 weight store, 2 host, 3 peer. -/
def l1Key (space sector : Nat) : Nat := 4 * sector + space

/-- The sector of a peer's window in an L1 key: offsets have 46 bits. -/
def peerSector (rank sector : Nat) : Nat := 2 ^ 39 * rank + sector

/-- The L1 key of a log entry's sector. -/
def LogEntry.key (e : LogEntry) : Nat :=
  match e.space with
  | .dev => l1Key 0 e.sector
  | .host _ => l1Key 2 e.sector
  | .peer r => l1Key 3 (peerSector r e.sector)

/-- The bytes of a sector of device memory as its home holds them. -/
def sectorNow (s : State) (sec : Nat) : Mem := ((homeRead s (sec * 128) 128).zip (upFrom 0 128)).foldl (fun m b => Mem.put m b.2 b.1) []

/-- The log entries that pin a sector, in the order in which they were replayed. -/
def pinEntries (s : State) (pins : List (Nat × Nat)) : List LogEntry :=
  pins.filterMap (fun x => (s.core x.1).log.find? (fun g => g.serial == x.2))

/-- The poison of a sector when cells are written over it: full cover clears what was there (R366). -/
def poisonUnder (old : Bool) (e : LogEntry) : Bool := (old && !(cellsWhole e.cells)) || e.poison || e.bad

/-- The bytes and the poison that replayed entries leave over what the home of a sector of device memory holds (R243, R366). -/
def overHome (s : State) (sec : Nat) (es : List LogEntry) : Mem × Bool :=
  es.foldl (fun m e => (mergeCells m.1 0 e.cells, poisonUnder m.2 e)) (sectorNow s sec, homePoisoned s sec)

/-- A pinned L1 sector filled again after an error: the replayed entries that pin it over what its home holds, or, of host memory or a peer, their
bytes alone (R243, R365). -/
def refilled (s : State) (key : Nat) (l : L1Sector) : L1Sector :=
  let es := pinEntries s l.pins
  if key % 4 = 0 then
    let m := overHome s (key / 4) es
    { l with data := m.1, poison := m.2 }
  else { l with data := [], part := some (es.foldl (fun t e => addCells t e.cells) []), poison := es.any (fun e => e.poison || e.bad) }

/-- Drop a sector of a core's L1; a pinned one stays as it is (R191, R243, R244). Answers of the host that are still to come, or are kept, bring it
back no more. -/
def dropL1 (s : State) (c key : Nat) : State :=
  let s := if key % 4 = 2 then s.modCore c (fun x => { x with dropped := s.fresh }) else s
  match Tab.find key (s.core c).l1 with
  | some l => if l.pins = [] then s.modCore c (fun x => { x with l1 := Tab.del key x.l1 }) else s
  | none => s

/-- Drop every sector of a core's L1 that is not pinned (R243, R277). -/
def dropL1All (s : State) (c : Nat) : State :=
  s.modCore c (fun x => { x with dropped := s.fresh, l1 := x.l1.filter (fun l => l.2.pins ≠ []) })

/-- Bytes that an operation of the core's own has written at their home: the L1 keeps no older copy of them; a pinned sector takes them beneath its
replayed bytes (R244, R246). [DEDUCED: log 79] -/
def updateL1 (s : State) (c pa n : Nat) : State :=
  let key := l1Key 0 (pa / 128)
  match Tab.find key (s.core c).l1 with
  | none => s
  | some l =>
    if l.pins = [] then dropL1 s c key
    else
      let new := cellsOf (pa % 128) (homeRead s pa n)
      s.modCore c (fun x => { x with l1 := Tab.put key { l with
        data := (pinEntries s l.pins).foldl (fun m e => mergeCells m 0 e.cells) (mergeCells l.data 0 new) } x.l1 })

/-- Whose the steps of a request are. -/
def RedOp.owners (r : RedOp) : List RedOwner := { ply := r.ply, strand := r.strand, reel := r.reel, va := r.va } :: r.others

/-- A request carries a step of a strand. -/
def RedOp.ofStrand (r : RedOp) (p k : Nat) : Bool := r.owners.any (fun o => o.ply == p && o.strand == k)

/-- A request carries a step of a ply. -/
def RedOp.ofPly (r : RedOp) (p : Nat) : Bool := r.owners.any (fun o => o.ply == p)

/-- A RED dropped at a poisoned sector: its ply is contained, or its reel completes with status 3 (R366). [DEDUCED: log 48] -/
def droppedRed (s : State) (o : RedOwner) : State :=
  let y := s.reel o.reel
  let base : ErrRec := { vdev := y.vdev, queue := y.queue, cookie := y.cookie }
  if s.livePly o.ply then containLater s o.ply o.strand 6 10 0 o.va
  else (writeRecord s { base with severity := 2, cls := 6, cause := 10, address := o.va }).modReel o.reel (fun x => { x with contained := true })

/-- Perform one RED at its home (R11, R105); on a poisoned sector it is dropped (R366). The issuing core's L1 keeps no older copy (R246). -/
def performRed (s : State) (r : RedOp) : State :=
  let s := { s with reds := s.reds.filter (fun q => q.id != r.id) }
  let s := homeTouch s r.pa 0
  if homePoisoned s (r.pa / 128) then r.owners.foldl droppedRed s
  else
    let n := amoBytes r.op
    let s := homeWriteIn s r.pa 0 (bytesLE (amoNew r.op (natLE (homeRead s r.pa n)) r.val.toNat 0) n)
    r.owners.foldl (fun s o => if s.livePly o.ply then updateL1 s (s.ply o.ply).core r.pa n else s) s

/-- Perform every RED that a test picks, in the order of issue. -/
def performReds (s : State) (pick : RedOp → Bool) : State := (s.reds.filter pick).foldl performRed s

/-! ## Drains (R238) -/

/-- An L1 without a pin; bytes that only the entry gave go with it. -/
def unpinL1 (s : State) (pin : Nat × Nat) (t : Tab L1Sector) : Tab L1Sector :=
  if t.any (fun l => l.2.pins.contains pin) then
    t.filterMap (fun l =>
      let m : L1Sector := { l.2 with pins := l.2.pins.filter (· ≠ pin) }
      if l.2.part.isSome && m.pins = [] then none else some (l.1, if l.2.part.isSome then refilled s l.1 m else m))
  else t

/-- An entry of a core's log has gone: the sectors it pinned are pinned by it no more (R244). -/
def unpin (s : State) (c serial : Nat) : State :=
  { s with cores := s.cores.map (fun x => (x.1, { x.2 with l1 := unpinL1 s (c, serial) x.2.l1 })) }

/-- A drained-sector mark, by L1 key; a core holds up to 256, a further one turns them all into a drop-all mark (R238). -/
def addMark (x : Core) (key : Nat) : Core :=
  if x.dropAll || x.marks.contains key then x
  else if x.marks.length < 256 then { x with marks := x.marks ++ [key] }
  else { x with marks := [], dropAll := true }

/-- The core of whoever waits for an answer. -/
def whoCore (s : State) (w : Who) : Option Nat :=
  match w with
  | .frag p _ _ => if s.livePly p then some (s.ply p).core else none
  | .xfer i => (s.xfer i).map (·.core)
  | .queue _ => none
  | .bind p _ => if s.livePly p then some (s.ply p).core else none

/-- What a read from outside the package asks lies in an entry's sector. -/
def LogEntry.asked (e : LogEntry) (a : Ask) : Bool :=
  match e.space, a with
  | .host _, .hostRead pa => pa / 128 == e.sector
  | .peer r, .peerLoad k o _ => k == r && o / 128 == e.sector
  | _, _ => false

/-- An answer that is kept lies in an entry's sector. -/
def LogEntry.answered (e : LogEntry) (r : Reply) : Bool :=
  match e.space, r with
  | .host _, .hostSector _ pa _ => pa / 128 == e.sector
  | .peer r, .peerData k o _ _ => k == r && o / 128 == e.sector
  | _, _ => false

/-- An entry for the host or a peer leaves its core: reads of its sector that were made before it are made again, since they would miss it (R182). -/
def forgetReads (s : State) (c : Nat) (e : LogEntry) : State :=
  if e.space = .dev then s
  else
    let here (w : Who) : Bool := whoCore s w == some c
    let keep (l : List Reply) : List Reply := l.filter (fun r => !(e.answered r))
    let s := s.modPlat (fun p => { p with reqs := p.reqs.filter (fun r => !(here r.who && e.asked r.ask)) })
    let s := s.mapFrags (fun p _ _ f => if (s.ply p).core == c then { f with replies := keep f.replies } else f)
    { s with xfers := s.xfers.map (fun x => if x.core == c then { x with replies := keep x.replies } else x) }

/-- Perform one entry where it belongs and remove it from the log; one for a peer takes its mate with it (R415). REDs of its ply on the sector go
first: they may be earlier accesses of the same fragment to common bytes (R182, R235). [DEDUCED: log 79] -/
def drainRaw (s : State) (c : Nat) (e : LogEntry) : State :=
  let mate := match e.space with
    | .peer _ => blockMate (s.core c).log e
    | _ => none
  let es := e :: mate.toList
  let hurt (g : LogEntry) : LogEntry := { g with poison := g.bad || g.poison }
  let s := es.foldl (fun s g => if g.bad then entryError (seeEntry s c g) g else seeEntry s c g) s
  let s := s.modCore c (fun x => { x with log := x.log.filter (fun g => es.all (fun h => g.serial != h.serial)) })
  let s :=
    match e.space with
    | .dev => homeDrain (performReds s (fun r => r.ofPly e.ply && r.pa / 128 == e.sector)) e.sector e.policy e.cells (e.bad || e.poison)
    | .host pasid => sendHost s e.vdev pasid (e.sector * 128) e.cells (e.bad || e.poison)
    | .peer rank => sendPeerStore s c (hurt e) (mate.map hurt) rank
  es.foldl (fun s g =>
    let s := dropL1 (unpin (forgetReads s c g) c g.serial) c g.key
    if g.pub = none then s.modCore c (fun x => addMark x g.key) else s) s

/-- A release under way is performed: its requests are answered and the host writes before it flushed (R241). -/
def Fence.met (s : State) (f : Fence) : Bool :=
  f.reqs.all (fun i => !(s.plat.reqs.any (fun r => r.id == i))) && decide (f.host ≤ s.plat.hostDone)

/-- An entry of a core was appended behind a release at reel or system scope that is not yet performed: it does not drain (R242). -/
def fenced (s : State) (c serial : Nat) : Bool := (s.core c).fences.any (fun f => decide (f.tail ≤ serial) && !(f.met s))

/-- Some core of a bay has a release at reel or system scope under way. -/
def bayFenced (s : State) (b : Nat) : Bool := (bayCores b).any (fun c => (s.core c).fences.any (fun f => !(f.met s)))

/-- Where an entry is performed, as requests keep their order there (R12): a home slice, the host port, the way to a peer. -/
def LogEntry.home (e : LogEntry) : Nat :=
  match e.space with
  | .dev => paSlice (e.sector * 128)
  | .host _ => 256
  | .peer r => 257 + r

/-- Publication order of a bay: by number, then in log order. -/
def pubBefore (g e : LogEntry) : Bool :=
  match g.pub, e.pub with
  | some m, some n => decide (m < n) || (m == n && decide (g.serial < e.serial))
  | _, _ => false

/-- Insert into a list kept in publication order. -/
def insertPub (x : Nat × LogEntry) : List (Nat × LogEntry) → List (Nat × LogEntry)
  | [] => [x]
  | y :: l => if pubBefore y.2 x.2 then y :: insertPub x l else x :: y :: l

/-- Published entries of a bay with a number up to hi, in publication order. -/
def publishedUpTo (s : State) (b hi : Nat) : List (Nat × LogEntry) :=
  let all := (bayCores b).flatMap (fun c => ((s.core c).log.filter (fun e => e.pub.isSome && decide (e.pub.getD 0 ≤ hi))).map (fun e => (c, e)))
  all.foldl (fun l x => insertPub x l) []

/-- Two entries of one core reach their homes in log order: those of one sector, and those bound for the host or one peer (R12, R234, R238). -/
def keepsOrder (g e : LogEntry) : Bool := (g.space == e.space && g.sector == e.sector) || (e.space != .dev && g.home == e.home)

/-- What must be performed before an entry of a core: its earlier ordinary entries for the sector, or bound for the host or one peer (R12, R234,
R238); the bay's entries published before it that are bound for the same home slice (R12, R240); the entries that pin the sector in the core's
L1 (R244). -/
def drainAfter (s : State) (c : Nat) (e : LogEntry) : List (Nat × LogEntry) :=
  let mine := ((s.core c).log.filter (fun g => !g.held && decide (g.serial < e.serial) && keepsOrder g e)).map (fun g => (c, g))
  let pubs := if e.pub = none || e.space != .dev then [] else
    ((publishedUpTo s (coreBay c) (e.pub.getD 0)).filter (fun x => x.2.space == .dev && x.2.home == e.home && pubBefore x.2 e))
  let pins := (Tab.get {} (s.core c).l1 e.key).pins.filterMap (fun x => ((s.core x.1).log.find? (fun g => g.serial == x.2)).map (fun g => (x.1, g)))
  pubs ++ pins ++ mine

/-- Drain an entry behind everything that must be performed before it; a held one does not drain, nor one behind a release under way. -/
def drainBehind (s : State) (c serial : Nat) : Nat → State
  | 0 => s
  | fuel + 1 =>
    match (s.core c).log.find? (fun e => e.serial == serial) with
    | none => s
    | some e =>
      if e.held || fenced s c serial then s
      else
        let first := drainAfter s c e
        let t := first.foldl (fun t x => drainBehind t x.1 x.2.serial fuel) s
        if first.any (fun x => (t.core x.1).log.any (fun g => g.serial == x.2.serial)) then t
        else
          match (t.core c).log.find? (fun g => g.serial == serial) with
          | some g => drainRaw t c g
          | none => t

/-- Drain the entry of a core with this number (R238). [DESIGN CHOICE: log 14] -/
def drainEntry (s : State) (c serial : Nat) : State := drainBehind s c serial 64

/-- Perform every published entry of a bay up to a number. -/
def drainPublished (s : State) (b hi : Nat) : State := (publishedUpTo s b hi).foldl (fun s x => drainEntry s x.1 x.2.serial) s

/-- Drain the ordinary entries of a core that a test picks, in log order. -/
def drainWhere (s : State) (c : Nat) (pick : LogEntry → Bool) : State :=
  ((s.core c).log.filter (fun e => !e.held && pick e)).foldl (fun s e => drainEntry s c e.serial) s

/-- What pins a sector drains, so that it can leave the L1: published entries may drain at any time (R240). -/
def drainPins (s : State) (c key : Nat) : State := (Tab.get {} (s.core c).l1 key).pins.foldl (fun s x => drainEntry s x.1 x.2) s

/-- What pins sectors of a core's L1 drains, and then all of them leave it. -/
def emptyL1 (s : State) (c : Nat) : State :=
  dropL1All (((s.core c).l1.filter (fun l => l.2.pins ≠ [])).foldl (fun s l => drainPins s c l.1) s) c

/-- The sector flush of R136: what pins the sector and then every entry of the core for it that no other ply's protected interval holds drains,
in log order; the sector leaves the L1. The issuing ply's own interval has just lost protection. -/
def flushSector (s : State) (c key : Nat) : State :=
  let s := drainPins s c key
  dropL1 (drainWhere s c (fun e => e.key == key)) c key

/-- A flush has performed all it must: nothing for the sector waits behind a release under way. -/
def flushed (s : State) (c key : Nat) : Bool :=
  !((s.core c).log.any (fun e => !e.held && e.key == key)) && (Tab.get {} (s.core c).l1 key).pins == []

/-! ## Appending (R236, R237, R239) -/

/-- Entries in the log proper. -/
def logCount (x : Core) : Nat := (x.log.filter (fun e => !e.ext)).length

/-- Free one entry of a full log (R239): the oldest held entry moves to the extension at once, where an error in it is detected (R371); when that
is full its owner loses protection, and an ordinary entry drains. Says whether the store has to wait for the drain. -/
def freeEntry (s : State) (c : Nat) : State × Bool :=
  let x := s.core c
  match x.log.find? (fun e => e.held && !e.ext) with
  | some e =>
    if (x.log.filter (fun g => g.ext)).length < Config.extEntries then
      let t := seeEntry s c e
      ((if e.bad then t.urgent (.rollback ⟨e.ply, e.strand, 0xFF⟩ 6 5 0 e.vaddr) else t).modCore c (fun x => { x with log := x.log.map (fun g => if g.serial == e.serial then { g with ext := true } else g) }), false)
    else
      let s := endProtection s e.ply 13
      (drainEntry s c e.serial, true)
  | none =>
    match x.log.find? (fun e => !e.ext && !(fenced s c e.serial)) with
    | some e => (drainEntry s c e.serial, true)
    | none => (s, true)

/-- Make room for n new entries of a core's log: the state, and whether a store must wait (R239). -/
def makeRoom (s : State) (c n : Nat) : Nat → State × Bool
  | 0 => (s, false)
  | fuel + 1 =>
    if logCount (s.core c) + n ≤ Config.logEntries then (s, false)
    else
      let r := freeEntry s c
      if r.2 then r else makeRoom r.1 c n fuel

/-- A store may join this entry (R237). -/
def LogEntry.joins (e : LogEntry) (p vdev : Nat) (space : LogSpace) (sec : Nat) (held : Bool) (now : Nat) : Bool :=
  e.pub.isNone && e.ply == p && e.vdev == vdev && e.space == space && e.sector == sec && e.held == held && decide (now ≤ e.created + 16384)

/-- The youngest entry of a core for a sector. -/
def youngest (s : State) (c : Nat) (space : LogSpace) (sec : Nat) : Option LogEntry :=
  (s.core c).log.reverse.find? (fun e => e.space == space && e.sector == sec)

/-- A store of a ply to a sector joins an entry that is there. -/
def joinsEntry (s : State) (p : Nat) (space : LogSpace) (sec : Nat) : Bool :=
  match youngest s (s.ply p).core space sec with
  | some e => e.joins p (s.ply p).vdev space sec (s.ply p).prot s.clock
  | none => false

/-- New entries that stores of a ply to these sectors need. -/
def newEntries (s : State) (p : Nat) (l : List (LogSpace × Nat)) : Nat := (l.dedup.filter (fun x => !(joinsEntry s p x.1 x.2))).length

/-- Append a new entry for a ply, held while the ply's interval is protected. The caller has made room. -/
def appendEntry (s : State) (p : Nat) (space : LogSpace) (sec : Nat) (vaddr : W64) (pol : Nat) (cells : Tab (Byte × Byte))
    (poison : Bool) : State :=
  let c := (s.ply p).core
  let s := dropFlips s (fun f => f.kind == 8 && 36 * f.die + f.unit == c && f.loc.toNat == logCount (s.core c))
  let e : LogEntry := {
    serial := s.fresh
    ply := p
    vdev := (s.ply p).vdev
    space := space
    sector := sec
    vaddr := vaddr
    policy := pol
    cells := cells
    held := (s.ply p).prot
    pub := none
    created := s.clock
    touched := s.clock
    ext := false
    poison := poison
    bad := false
    strand := s.iss.strand
    frag := if s.iss.ply == p then s.iss.frag else 0xFF }
  (s.modCore c (fun x => { x with log := x.log ++ [e] })).bump

/-- Store cells of one sector for a ply: coalesce into the youngest entry for the sector, or append (R236, R237). An entry keeps the policy of its
first store. [DESIGN CHOICE: log 91] -/
def logStore (s : State) (p : Nat) (space : LogSpace) (sec : Nat) (vaddr : W64) (pol : Nat) (cells : Tab (Byte × Byte))
    (poison : Bool) : State :=
  let c := (s.ply p).core
  match youngest s c space sec with
  | some e =>
    if joinsEntry s p space sec then
      s.modCore c (fun x => { x with log := x.log.map (fun g =>
        if g.serial == e.serial then
          { g with cells := addCells g.cells cells, touched := s.clock, poison := g.poison || poison
                   others := if g.vaddr == vaddr || g.others.contains vaddr then g.others else g.others ++ [vaddr] }
        else g) })
    else appendEntry s p space sec vaddr pol cells poison
  | none => appendEntry s p space sec vaddr pol cells poison

/-! ## Publication, release, acquire (R240 to R244) -/

/-- Merge the entries of a publication that name one sector and belong to one ply into the youngest of them, whose policy stands (R237).
[DESIGN CHOICE: log 91] -/
def compact (log : List LogEntry) (pick : LogEntry → Bool) : List LogEntry :=
  log.foldl (fun out e =>
    if pick e then
      match out.find? (fun g => pick g && g.ply == e.ply && g.space == e.space && g.sector == e.sector) with
      | some g => out.filter (fun h => h.serial != g.serial) ++
          [{ e with cells := addCells g.cells e.cells, poison := g.poison || e.poison, bad := g.bad || e.bad,
                     single := g.single || e.single, injected := g.injected || e.injected,
                     others := (g.vaddr :: g.others ++ e.others).filter (· ≠ e.vaddr) }]
      | none => out ++ [e]
    else out ++ [e]) []

/-- Give a core's ordinary entries that are not published the number n: the state and their items. They then drain promptly. An entry found with
an uncorrectable error goes on poisoned, and its ply is contained (R371). -/
def numberEntries (s : State) (c n : Nat) : State × List (Option Nat × Nat) :=
  let pick (e : LogEntry) : Bool := !e.held && e.pub.isNone
  let mine := (compact (s.core c).log pick).filter pick
  let s := mine.foldl (fun s e => if e.bad then entryError (seeEntry s c e) e else seeEntry s c e) s
  let s := s.modCore c (fun x => { x with log := (compact x.log pick).map (fun e =>
    if pick e then { e with pub := some n, poison := e.poison || e.bad, bad := false, single := false, injected := false } else e) })
  (mine.foldl (fun s e => s.later (.logDrain c e.serial)) s, mine.map (fun e => (some e.serial, e.key)))

/-- A publication has drained: none of its entries is still in its core's log. -/
def Publication.drained (s : State) (r : Publication) : Bool :=
  r.items.all (fun i => match i.1 with
    | some n => !((s.core r.core).log.any (fun e => e.serial == n))
    | none => true)

/-- When a bay's records are full, the oldest drained publications of each core become one that drops all (R244). -/
def boundRecords (s : State) (b : Nat) : State :=
  let rs := (s.bay b).records
  if rs.foldl (fun n r => n + r.items.length) 0 ≤ Config.bayRecords then s
  else
    let fold (c : Nat) : List Publication :=
      let own := rs.filter (fun r => r.core == c)
      let old := own.takeWhile (Publication.drained s)
      match old.head?, old.getLast? with
      | some f, some l => { first := f.first, seq := l.seq, core := c, items := [], dropAll := true } :: own.drop old.length
      | _, _ => own
    s.modBay b (fun y => { y with records := ((bayCores b).flatMap fold).mergeSort (fun x y => decide (x.seq ≤ y.seq)) })

/-- Ordinary entries of a core that are not published although a later one is whose place in log order they share (a commit has made them ordinary
since): log order and publication order agree once they have drained. -/
def overtaken (s : State) (c : Nat) : List LogEntry :=
  let log := (s.core c).log
  log.filter (fun u => !u.held && u.pub.isNone && log.any (fun e => e.pub.isSome && decide (u.serial < e.serial) && keepsOrder u e))

/-- Publish a core's ordinary entries and marks under the bay's next number (R240). Entries overtaken by a publication drain first, and their marks
are published. [DESIGN CHOICE: log 14] -/
def publish (s : State) (c : Nat) : State :=
  let s := (overtaken s c).foldl (fun s u => drainEntry s c u.serial) s
  let b := coreBay c
  let n := (s.bay b).pubs + 1
  let r := numberEntries s c n
  let x := r.1.core c
  let s := r.1.modCore c (fun x => { x with marks := [], dropAll := false, pubTop := n })
  boundRecords (s.modBay b (fun y => { y with pubs := n, records := y.records ++
    [{ first := n, seq := n, core := c, items := r.2 ++ x.marks.map (fun m => (none, m)), dropAll := x.dropAll }] })) b

/-- What a core has appended behind its own latest publication joins that publication (R185). -/
def joinPublication (s : State) (c : Nat) : State :=
  let b := coreBay c
  let n := (s.bay b).pubs
  let r := numberEntries s c n
  r.1.modBay b (fun y => { y with records := y.records.map (fun q => if q.seq == n then { q with items := q.items ++ r.2 } else q) })

/-- Scopes by code (R118). -/
def scCore : Nat := 0
def scSkein : Nat := 1
def scDie : Nat := 2
def scPackage : Nat := 3
def scReel : Nat := 4
def scSystem : Nat := 5

/-- A request carries a step of a ply that runs in a bay. -/
def RedOp.ofBay (s : State) (r : RedOp) (b : Nat) : Bool := r.owners.any (fun o => s.livePly o.ply && coreBay (s.ply o.ply).core == b)

/-- A release at scope sc by a ply of a core (R241) up to what the package itself performs: its entries made ordinary by the caller,
published, and drained for die scope and wider. The REDs under way of its bay are performed: those of its own history (R190), and those that
barriers, the log and near-path replays have put before it (R245). A RED of another bay comes before it only by a release that has performed it. -/
def releaseLocal (s : State) (c sc : Nat) : State :=
  let s := performReds s (fun r => r.ofBay s (coreBay c))
  if sc = 0 then s
  else
    let s := publish s c
    if sc = 1 then s else drainPublished s (coreBay c) (s.bay (coreBay c)).pubs

/-- What a release at reel or system scope waits for, beginning now (R241): every store entry sent to a peer and not yet answered, and at system
scope a flushing read behind every host write sent. [DEDUCED: log 80] -/
def newFence (s : State) (sc : Nat) : Fence :=
  { tail := s.fresh
    reqs := (s.plat.reqs.filter (fun r => match r.ask with
      | .peerStore _ _ _ => true
      | _ => false)).map (·.id)
    host := if sc = scSystem then s.plat.hostOut else 0 }

/-- Have a flushing read on port A follow the first n host writes, unless one does (R241). -/
def askFlush (s : State) (who : Who) (v n : Nat) : State :=
  if n ≤ s.plat.hostDone || s.plat.reqs.any (fun r => match r.ask with
      | .flush m => decide (n ≤ m)
      | _ => false) then s
  else ask (s.send (.flushReq s.fresh (s.tag v))) who v (.flush s.plat.hostOut) none

/-- A release under way holds back what its core's log takes later (R242). -/
def addFence (s : State) (c : Nat) (f : Fence) : State :=
  s.modCore c (fun x => { x with fences := x.fences.filter (fun g => !(g.met s)) ++ [f] })

/-! ## L1 room and near-path replay (R243, R244) -/

/-- Make room in an L1: a full one gives up an unpinned sector, whichever. -/
def evictL1 (s : State) (c : Nat) : State :=
  let l := (s.core c).l1
  if l.length < Config.l1Sectors then s
  else
    let free := l.filter (fun x => x.2.pins = [])
    match free[Config.choice free.length s.draws % free.length]? with
    | some x => { s.modCore c (fun k => { k with l1 := Tab.del x.1 k.l1 }) with draws := s.draws + 1 }
    | none => s

/-- Copy one published entry's cells into an L1 sector and pin it; an L1 that cannot pin it has the entry drain instead (R243, R244). -/
def pinEntry (s : State) (reader c : Nat) (e : LogEntry) : State :=
  match Tab.find e.key (s.core reader).l1 with
  | some l =>
    let l : L1Sector := { l with pins := l.pins ++ [(c, e.serial)], poison := poisonUnder l.poison e }
    s.modCore reader (fun x => { x with l1 := Tab.put e.key (match l.part with
      | some t => { l with part := some (addCells t e.cells) }
      | none => { l with data := mergeCells l.data 0 e.cells }) x.l1 })
  | none =>
    let s := evictL1 s reader
    if Config.l1Sectors ≤ (s.core reader).l1.length then drainEntry s c e.serial
    else
      let l : L1Sector := match e.space with
        | .dev => let m := overHome s e.sector [e]; { data := m.1, poison := m.2 }
        | _ => { part := some (addCells [] e.cells), poison := e.poison || e.bad }
      s.modCore reader (fun x => { x with l1 := Tab.put e.key { l with pins := [(c, e.serial)] } x.l1 })

/-- The reader's own entries that were published before a replayed one and share its place in order drain before it is copied: the entries left
for its sector are performed after it (R240, R244). [DESIGN CHOICE: log 14] -/
def drainOlder (s : State) (reader : Nat) (e : LogEntry) : State :=
  ((s.core reader).log.filter (fun g => pubBefore g e && keepsOrder g e)).foldl (fun s g => drainEntry s reader g.serial) s

/-- A sector leaves a core's L1, once what pins it has drained (R243, R244). -/
def leaveL1 (s : State) (c key : Nat) : State := dropL1 (drainPins s c key) c key

/-- Replay one item of a core's publication for a reader core (R243). -/
def replayItem (s : State) (reader c : Nat) (i : Option Nat × Nat) : State :=
  match i.1 with
  | some n =>
    match (s.core c).log.find? (fun e => e.serial == n) with
    | some e =>
      if c == reader then s
      else
        let t := drainOlder s reader e
        match (t.core c).log.find? (fun g => g.serial == n) with
        | some g => pinEntry (seeEntry t c g) reader c g
        | none => leaveL1 t reader i.2
    | none => leaveL1 s reader i.2
  | none => leaveL1 s reader i.2

/-- Replay one publication for a reader core (R243). -/
def replayOne (s : State) (reader : Nat) (r : Publication) : State :=
  let s := r.items.foldl (fun s i => replayItem s reader r.core i) s
  let s := if r.dropAll then emptyL1 s reader else s
  s.modCore reader (fun x => { x with seen := Tab.put (coreInBay r.core) r.seq x.seen })

/-- Forget the publications that every core of the bay has replayed past and whose entries have drained (R244). -/
def pruneRecords (s : State) (b : Nat) : State :=
  s.modBay b (fun y => { y with records := y.records.filter (fun r =>
    (bayCores b).any (fun c => decide (Tab.get 0 (s.core c).seen (coreInBay r.core) < r.seq)) || !(r.drained s)) })

/-- The cores of the bay that a log-set mask names; 0 names all four (R190). -/
def logSet (mask : Nat) : Nat := if mask % 16 = 0 then 15 else mask % 16

/-- The publications that a near-path replay applies: up to the highest that a named core has made (R243). -/
def toReplay (s : State) (reader mask : Nat) : List Publication :=
  let rs := (s.bay (coreBay reader)).records
  let hi := maxNat (((bayCores (coreBay reader)).filter (fun c => (logSet mask).testBit (coreInBay c))).map (fun c => (s.core c).pubTop))
  rs.filter (fun r => decide (r.first ≤ hi) && decide (Tab.get 0 (s.core reader).seen (coreInBay r.core) < r.seq))

/-- A near-path replay for the cores of the bay that a log-set mask names (R190, R243). -/
def nearReplay (s : State) (reader : Nat) (mask : Nat) : State :=
  pruneRecords ((toReplay s reader mask).foldl (fun s r => replayOne s reader r) s) (coreBay reader)

/-- Pinned sectors of a core's L1. -/
def pinned (s : State) (c : Nat) : Tab L1Sector := (s.core c).l1.filter (fun l => l.2.pins ≠ [])

/-- An acquire can take effect at once: none of the bay's entries waits behind a release under way, or it does not need them to drain. At die scope and
wider that holds when nothing is pinned; at skein scope when its replay finds an L1 sector for each entry, the reader's own published ones can drain,
and no pinned sector has to leave the L1 (R244). [DEDUCED: log 79] -/
def canReplay (s : State) (c sc mask : Nat) : Bool :=
  sc == 0 || !(bayFenced s (coreBay c)) ||
    (if sc = 1 then
      let rs := toReplay s c mask
      let items := rs.flatMap (·.items)
      decide ((pinned s c).length + items.length ≤ Config.l1Sectors) && !((s.core c).log.any (fun g => g.pub.isSome && fenced s c g.serial)) &&
        rs.all (fun r => !r.dropAll) && items.all (fun i => !(Tab.has (pinned s c) i.2))
    else pinned s c == [])

/-- An acquire at scope sc on a core (R243). At die scope and wider what pins a sector drains first, so that no sector stays behind with bytes older than
what the acquire must show (R244, R245). [DEDUCED: log 79] -/
def acquire (s : State) (c sc mask : Nat) : State :=
  if sc = 0 then s else if sc = 1 then nearReplay s c mask else emptyL1 s c

end Sys2Proof.Machine
end

