-- ==== Sys2Proof/Machine/Protect.lean ====
section
/-! DEFINITION. Scratch with its journal (R43), barrier objects' waiters, commit and snapshot (R44), saved contexts (R48, R49), containment
(R358, R359, R385), rollback (R354) and the fate of a consumed error (R352). -/
namespace Sys2Proof.Machine

/-! ## Scratch (R26, R43, R365, R366) -/

/-- The ply and offset that a tag-1 or tag-2 pointer of a ply reaches; none when the ply named is not there. -/
def scratchOf (s : State) (p : Nat) (ptr : W64) : Option (Nat × Nat) :=
  match bits ptr 60 4 with
  | 1 => if s.livePly p then some (p, bits ptr 0 20) else none
  | 2 => (s.mate (s.ply p).skein (bits ptr 20 2)).bind (fun q => if s.livePly q then some (q, bits ptr 0 20) else none)
  | _ => none

/-- Count a corrected event of a core's arrays (R351, R365). -/
def countCore (s : State) (c : Nat) (f : Counts → Counts) : State := s.modCore c (fun x => { x with counts := f x.counts })

/-- A flip of a core's scratchpad that lies in a sector of a ply's allocation. -/
def flipInScratch (y : Ply) (sec : Nat) (f : Flip) : Bool :=
  f.kind == 4 && f.die == coreDie y.core && f.unit == coreNum y.core && decide (y.scrBase ≤ f.loc.toNat) &&
    (f.loc.toNat - y.scrBase) / 128 == sec

/-- Detect the errors of a scratch sector as it is read. -/
def detectScratch (s : State) (p sec : Nat) : State :=
  let y := s.ply p
  match takeFlip s (flipInScratch y sec) arrayRecord with
  | some (f, t) =>
    if f.double then t.modPly p (fun y => { y with scrPoison := Tab.put sec false y.scrPoison })
    else countCore t y.core (fun n => { n with array := n.array + 1 })
  | none => s

/-- Bytes of a ply's scratch. -/
def scrRead (s : State) (p off n : Nat) : Bytes := Mem.read (s.ply p).scratch off n

/-- Granules that the core's protected plies hold in the undo journal. -/
def journalUsed (s : State) (c : Nat) : Nat := (s.pliesOn c).foldl (fun n p => n + p.2.journal.length) 0

/-- The first write of a protected interval to a granule saves it; with no free granule protection ends (R43, R45). -/
def journalGranule (s : State) (p g : Nat) : State :=
  let y := s.ply p
  if !y.prot || Tab.has y.journal g then s
  else if journalUsed s y.core < Config.journalGranules then
    (dropFlips s (fun f => f.kind == 9 && 36 * f.die + f.unit == y.core && f.loc.toNat == journalUsed s y.core)).modPly p (fun y =>
      let old : Granule := { data := (Mem.read y.scratch (128 * g) 128).zip (upFrom 0 128) |>.foldl (fun m b => Mem.put m b.2 b.1) []
                             poison := Tab.has y.scrPoison g
                             unrec := Tab.get false y.scrPoison g }
      { y with journal := Tab.put g old y.journal })
  else endProtection s p 14

/-- A fragment parked in BWAIT that may go on (R205): phase moved on, or the object is broken or gone. -/
def bwaitReady (s : State) (p : Nat) (obj : W64) (phase : W32) : Bool :=
  match scratchOf s p obj with
  | some (q, o) => natLE (scrRead s q o 4) != phase.toNat || (natLE (scrRead s q (o + 24) 4)).testBit 0
  | none => true

/-- Every fragment of the machine, as ply, strand, fragment and record. -/
def allFrags (s : State) : List (Nat × Nat × Nat × Frag) :=
  s.plies.flatMap (fun p => p.2.strands.flatMap (fun t => t.2.frags.map (fun f => (p.1, t.1, f.1, f.2))))

/-- Wake the fragments parked in BWAIT on an object in bytes [off, off + n) of a ply's scratch (R205). -/
def wakeWaiters (s : State) (p off n : Nat) : State :=
  (allFrags s).foldl (fun t f =>
    match f.2.2.2.wait with
    | .bwait obj phase _ =>
      match scratchOf t f.1 obj with
      | some (q, o) =>
        if q == p && decide (o < off + n) && decide (off < o + 32) && bwaitReady t f.1 obj phase then t.later (.bwaitWake f.1 f.2.1 f.2.2.1) else t
      | none => t
    | _ => t) s

/-- Write bytes of one scratch sector at the bank. [DEDUCED: log 62] -/
def scrWriteIn (s : State) (p off : Nat) (b : Bytes) : State :=
  let g := off / 128
  let whole := coversSector off b.length g
  let s := if whole && !((s.ply p).prot) then dropFlips s (flipInScratch (s.ply p) g) else detectScratch s p g
  let s := journalGranule s p g
  let s := s.modPly p (fun y => { y with scratch := Mem.write y.scratch off b
                                         scrPoison := if whole then Tab.del g y.scrPoison else y.scrPoison })
  wakeWaiters (loseReservations s (.scratch p (128 * g))) p off b.length

/-- Write bytes of a ply's scratch, sector by sector. -/
def scrWriteAll (s : State) (p off : Nat) (b : Bytes) : Nat → State
  | 0 => s
  | fuel + 1 =>
    if b = [] then s
    else
      let n := 128 - off % 128
      scrWriteAll (scrWriteIn s p off (b.take n)) p (off + n) (b.drop n) fuel

def scrWrite (s : State) (p off : Nat) (b : Bytes) : State := scrWriteAll s p off b (b.length / 128 + 2)

/-- Poison scratch sectors that bytes [off, off + n) touch. -/
def scrPoisonBytes (s : State) (p off n : Nat) : State :=
  (upFrom (off / 128) ((off % 128 + n + 127) / 128)).foldl (fun s g => s.modPly p (fun y => { y with scrPoison := Tab.put g false y.scrPoison })) s

/-- Poison in [off, off + n) of a ply's scratch: none, or whether it carries the unrecoverable mark for a consumer (R368). -/
def scrPoisoned (s : State) (p off n : Nat) : Option Bool :=
  let y := s.ply p
  let secs := (upFrom (off / 128) ((off % 128 + n + 127) / 128)).filter (fun g => Tab.has y.scrPoison g)
  if secs = [] then none
  else some (secs.any (fun g =>
    Tab.get false y.scrPoison g ||
    (match Tab.find g y.journal with
     | some j => j.poison
     | none => true)))

/-! ## Records about a ply (R361, R400) -/

/-- Note a class 1 or 2 record of a core; four within 2^32 clocks retire the core or the lane (R400). -/
def noteError (s : State) (c cls part : Nat) (lanes : W32) : State :=
  if cls != 1 && cls != 2 then s
  else
    let s := s.modCore c (fun x =>
      { x with errs := (x.errs.filter (fun e => decide (s.clock < e.1 + 2 ^ 32))) ++ [(s.clock, cls, part, lanes)] })
    let x := s.core c
    let lane := lanesOf lanes |>.any (fun l => decide (4 ≤ (x.errs.filter (fun e => e.2.1 == 2 && e.2.2.1 == part && inMask e.2.2.2 l)).length))
    if (decide (4 ≤ x.errs.length) || lane) && !x.retiring && !x.retired then
      (s.modCore c (fun x => { x with retiring := true })).later (.coreSubstitution c)
    else s

/-- The record of an error that a ply consumed. [DEDUCED: log 44] -/
def consumedRecord (s : State) (p : Nat) (e : Consumed) (severity : Nat) (nested : Bool) : ErrRec :=
  let r := plyRecord s p e.strand e.frag
  let atTrap := !e.away && ((s.ply p).strand e.strand).trapped
  { r with severity := severity, cls := e.cls, cause := e.cause, detail := e.detail, lanes := e.lanes, address := e.addr, pc := e.pc,
           flags := b2n nested + 2 * b2n atTrap + 8 * b2n e.unrec }

/-- The record of a trap as a strand's registers hold it (R346). -/
def trapRecord (s : State) (p k f : Nat) (nested : Bool) : ErrRec :=
  let t := (s.ply p).strand k
  let r := plyRecord s p k f
  { r with severity := 2, cls := 0, cause := bits t.trapinfo 0 8, detail := bits t.trapinfo 8 8, lanes := w32 (bits t.trapinfo 32 32),
           address := t.trapaddr, pc := bits t.trappc 0 32, flags := b2n nested + 2 }

/-! ## Translation registers (R259, R261) -/

/-- Resolve translation register i of a strand; one that waits for ATS is pending, and one request for its page goes out. -/
def rebindOne (s : State) (p k i : Nat) (x : XReg) : State :=
  let y := s.ply p
  let g (n : Nat) : Seg := Tab.get {} (y.strand k).g n
  let r := resolveX s y.core y.vdev (g 0) (g 4) x.base x.limit
  let s := r.2.2.modStrand p k (fun u => { u with x := Tab.put i { r.1 with pending := r.2.1 } u.x })
  let a : Ask := .ats (bits (g 4).base 0 20) (bits x.base 0 57 / 4096) 0
  if !r.2.1 || s.plat.reqs.any (fun q => q.who == .bind p k && q.ask == a) then s
  else ask (s.send (.atsReq s.fresh (s.tag y.vdev) (bits (g 4).base 0 20) (bits x.base 0 57 / 4096) 0)) (.bind p k) y.vdev a none

/-- The translation registers of a ply that a test picks are resolved again (R261). [DEDUCED: log 42] -/
def rebind (s : State) (p : Nat) (pick : XReg → Bool) : State :=
  (s.ply p).strands.foldl (fun s t => t.2.x.foldl (fun s x => if pick x.2 then rebindOne s p t.1 x.1 x.2 else s) s) s

def rebindAll (s : State) (p : Nat) : State := rebind s p (fun _ => true)

/-! ## Resources of a ply (R24, R26) -/

/-- Vector blocks of a ply in a partition, those that VREL gave up in the interval with them (R43). -/
def Ply.partBlocks (y : Ply) (q : Nat) : Nat :=
  y.strands.foldl (fun n t => if t.1 % 4 == q then n + t.2.blocks else n) 0 + Tab.get 0 y.relBlocks q

/-- Strands of a ply in a partition. -/
def Ply.partStrands (y : Ply) (q : Nat) : Nat := (y.strands.filter (fun t => t.1 % 4 == q)).length

/-- The plies resident on a core but for one. -/
def othersOn (s : State) (c p : Nat) : List Ply := ((s.pliesOn c).filter (fun q => q.1 != p)).map (·.2)

/-- A core accepts a ply (R24); p is the ply's own number, which does not count against it. -/
def coreAccepts (s : State) (c p : Nat) (y : Ply) : Bool :=
  let o := othersOn s c p
  !((s.core c).retired) &&
  [0, 1, 2, 3].all (fun q =>
    decide (o.foldl (fun n z => n + z.partStrands q) (y.partStrands q) ≤ 8) &&
    decide (o.foldl (fun n z => n + z.partBlocks q) (y.partBlocks q) ≤ 64)) &&
  decide (o.foldl (fun n z => n + z.scrSize) y.scrSize ≤ Config.scratchBytes) &&
  decide (o.foldl (fun n z => n + z.ntile) y.ntile ≤ 16) && decide (o.length < 8)

/-- The lowest base at which n units fit beside the spans in use. -/
def firstFit (used : List (Nat × Nat)) (n : Nat) : Nat :=
  let free (b : Nat) : Bool := used.all (fun u => decide (b + n ≤ u.1) || decide (u.1 + u.2 ≤ b))
  ((0 :: used.map (fun u => u.1 + u.2)).filter free).foldl (fun m b => if b < m then b else m) (maxNat (used.map (fun u => u.1 + u.2)))

/-- Seat a ply on a core: its scratch and tiles take the lowest free places. The opportunities that it has used on another core are not that core's
to charge (R340). -/
def seat (s : State) (p c : Nat) : State :=
  let o := othersOn s c p
  s.modPly p (fun y => { y with core := c
                                clockLow := if y.core = c then y.clockLow else s.plyClock p
                                used := if y.core = c then y.used else 0
                                resident := true
                                scrBase := firstFit (o.map (fun z => (z.scrBase, z.scrSize))) y.scrSize
                                tileBase := firstFit (o.map (fun z => (z.tileBase, z.ntile))) y.ntile })

/-! ## Withdrawing what a ply waits for (R354, R358) -/

/-- The ply that a fault entry or a request belongs to. -/
def whoPly (s : State) (w : Who) : Option Nat :=
  match w with
  | .frag p _ _ => some p
  | .xfer i => (s.xfer i).map (·.ply)
  | .queue _ => none
  | .bind p _ => some p

/-- A request whose answer only its asker uses: an answer that comes when the asker has gone changes nothing. -/
def Ask.forAsker (a : Ask) : Bool :=
  match a with
  | .ats _ _ _ => true
  | .hostRead _ => true
  | .peerLoad _ _ _ => true
  | _ => false

/-- Withdraw a ply's fault entries and page request groups, whose tokens become stale, and the reads under way for it (R354). -/
def withdraw (s : State) (p : Nat) : State :=
  let mine (w : Who) : Bool := whoPly s w == some p
  let s := s.modVdev (s.ply p).vdev (fun v => { v with faults := v.faults.filter (fun e => !(mine e.who)) })
  s.modPlat (fun q => { q with groups := q.groups.filter (fun g => !(mine g.who)), reqs := q.reqs.filter (fun r => !(mine r.who && r.ask.forAsker)) })

/-- Cancel a ply's transfers, collectives, tile operations and queries. -/
def cancelWork (s : State) (p : Nat) : State :=
  let dead := (s.xfers.filter (fun x => x.ply == p)).map (·.id)
  let s := { s with xfers := s.xfers.filter (fun x => x.ply != p)
                    bays := s.bays.map (fun (b : Nat × Bay) => (b.1, { b.2 with queries := b.2.queries.filter (fun q => q.ply != p) })) }
  let s := s.modPlat (fun q => { q with colls := q.colls.filter (fun c => !(dead.contains c.xfer)) })
  s.modPly p (fun y => { y with tileOps := [] })

/-! ## Leaving a core (R48, R358) -/

/-- A skein asked to vacate is saved once none of its plies is on a core; it returns to the front of its class (R279). -/
def settleVacate (s : State) (k : Nat) : State :=
  if (s.skein k).plies.any (fun q => s.livePly q && (s.ply q).resident) then s
  else (s.modSkein k (fun x => { x with spot := .saved, vacate := none, front := true })).later .placement

/-- Entries that a ply leaves in a log keep what a record about them says of it (R371). -/
def signEntries (s : State) (p : Nat) : State :=
  { s with cores := s.cores.map (fun c => if c.2.log.any (fun e => e.ply == p) then
      (c.1, { c.2 with log := c.2.log.map (fun e => if e.ply == p then { e with owner := some (LogEntry.record s e) } else e) }) else c) }

/-- Take a ply out of the machine: its registers, scratch, tiles and slot are free; the last of its skein ends the skein, and the last
skein the reel's part (R278). -/
def removePly (s : State) (p : Nat) : State :=
  let y := s.ply p
  let s := signEntries s p
  let s := { s with plies := Tab.del p s.plies }
  let s :=
    if (s.skein y.skein).plies.any s.livePly then (if (s.skein y.skein).vacate.isSome then settleVacate s y.skein else s)
    else
      let s := { s with skeins := Tab.del y.skein s.skeins }
      let s := if (s.reel y.reel).mesh.isSome then s.later (.meshSkeinLaunch y.reel) else s
      let s := s.modReel y.reel (fun r => { r with left := r.left - 1 })
      if (s.reel y.reel).left = 0 then s.later (.reelComplete y.reel) else s
  s.later .placement

/-- A saved context (R48, R49): the entries drain with a release at package scope, then the core is free. The context's bytes lie in the device's
reserved region, in a layout of its own (R302). [DESIGN CHOICE: log 73] -/
def saveContext (s : State) (p : Nat) : State :=
  let y := s.ply p
  let s := releaseLocal s y.core scPackage
  let drop (f : Nat × Frag) : Nat × Frag := (f.1, { f.2 with resv := none })
  let s := s.modVdev y.vdev (fun d => { d with saves := d.saves + 1 })
  let s := s.modPly p (fun y => { y with resident := false
                                         halt := false
                                         used := 0
                                         strands := y.strands.map (fun t => (t.1, { t.2 with frags := t.2.frags.map drop })) })
  settleVacate s y.skein

/-- A ply's log entries can all be performed now: no release at reel or system scope holds its bay's drains back (R242), and it is not moving. -/
def canSave (s : State) (p : Nat) : Bool := !(bayFenced s (coreBay (s.ply p).core)) && (s.ply p).moving.isNone

/-- A ply whose skein has been asked to vacate saves its context; it stops, and saves later, while its entries cannot all be performed (R48). -/
def saveIfAsked (s : State) (p : Nat) : State :=
  if s.livePly p && (s.skein (s.ply p).skein).vacate.isSome && (s.ply p).resident then
    (if canSave s p then saveContext s p else (s.modPly p (fun y => { y with halt := true })).later (.vacate (s.ply p).skein))
  else s

/-! ## Commit (R44) -/

/-- Marks of a bank as a copy keeps them: unrecoverable (R357). -/
def copyMarks (t : Tab Mark) : Tab Mark := t.map (fun m => (m.1, { m.2 with unrec := true }))

/-- A fragment as a snapshot holds it: with no reservation, which a rollback and a restore lose (R138), and its marks unrecoverable (R357). -/
def snapFrag (f : Frag) : Frag :=
  { f with resv := none, marks := copyMarks f.marks, stack := f.stack.map (fun d => { d with marks := copyMarks d.marks }),
           held := f.held.map (fun h => { h with marks := copyMarks h.marks }) }

/-- The snapshot of a ply as it stands. A strand is copied whole: its segment registers and its trap record with the registers that R44 names.
[DEDUCED: log 21; DESIGN CHOICE: log 81] -/
def snapshotOf (y : Ply) : Snap :=
  { strands := y.strands.map (fun t => (t.1, { t.2 with frags := t.2.frags.map (fun f => (f.1, snapFrag f.2)) })), tiles := y.tiles,
    bad := y.bad.map (fun b => { b with unrec := true }), objs := y.objs }

/-- The steps of a commit, its fragments already past their barrier. -/
def commitPly (s : State) (p : Nat) : State :=
  let s := freeJournal (unhold s p) p
  s.modPly p (fun y => { y with relBlocks := []
                                markCode := 0
                                markVal := 0
                                seq := y.seq + 1
                                cause := 0
                                prot := y.en
                                repidx := 0
                                snap := snapshotOf y })

/-! ## Containment (R358, R359, R385) -/

/-- Set the broken flag of every barrier object of a surviving ply, in the journalled copy too. -/
def breakObjects (s : State) (p : Nat) : State :=
  (s.ply p).objs.foldl (fun s o =>
    let f := Mem.byte (s.ply p).scratch (o + 24) ||| 1
    let s := s.modPly p (fun y => { y with scratch := Mem.put y.scratch (o + 24) f
                                           journal := y.journal.map (fun g =>
                                             if g.1 == o / 128 then
                                               (g.1, { g.2 with data := Mem.put g.2.data ((o + 24) % 128) (Mem.byte g.2.data ((o + 24) % 128) ||| 1) })
                                             else g) })
    wakeWaiters (loseReservations s (.scratch p (o / 128 * 128))) p o 32) s

/-- Fragments at BAR.SKN of a broken skein issue it again, which then takes the broken-barrier trap. -/
def wakeSkeinBarrier (s : State) (k : Nat) : State :=
  s.mapFrags (fun p _ _ f =>
    match f.wait with
    | .bar true _ _ => if (s.ply p).skein == k then { f with wait := .none } else f
    | _ => f)

/-- Kill a ply. -/
def killPly (s : State) (p : Nat) : State :=
  if !s.livePly p then s
  else
    let y := s.ply p
    let s := cancelWork (withdraw (dropHeld s p) p) p
    let s := (freeJournal s p).modPly p (fun y => { y with prot := false, halt := true })
    let s := if y.resident then releaseLocal s y.core scPackage else s
    let s := s.modReel y.reel (fun r => { r with contained := true })
    let s := s.modSkein y.skein (fun x => { x with broken := true })
    let s := removePly (settleDoomed s p) p
    let s := if Tab.has s.skeins y.skein then (s.skein y.skein).plies.foldl (fun s q => if s.livePly q then breakObjects s q else s) s else s
    wakeSkeinBarrier s y.skein

/-- Contain a ply with its record. -/
def contain (s : State) (p : Nat) (r : ErrRec) : State := killPly (writeRecord s r) p

/-! ## Rollback (R47, R353, R354) -/

/-- The core of a replay: a sibling for a datapath or register error, else the same. -/
def replayCore (s : State) (p cls : Nat) (cause : Nat) : Nat :=
  let y := s.ply p
  if cls == 1 || (cls == 2 && cause != 3) then
    match (bayCores (coreBay y.core)).find? (fun c => c != y.core && coreAccepts s c p y) with
    | some c => c
    | none => y.core
  else y.core

/-- Write one journalled granule back (R354, R368, R371). -/
def undoGranule (s : State) (p g : Nat) (j : Granule) : State :=
  let s := loseReservations s (.scratch p (128 * g))
  let s := if j.single then countCore s (s.ply p).core (fun n => { n with array := n.array + 1 }) else s
  let s := if j.injected then fireInjection s 6 (if j.bad then 6 else 1) else s
  let s := s.modPly p (fun y => { y with scratch := Mem.write y.scratch (128 * g) (Mem.read j.data 0 128)
                                         scrPoison := if j.bad || j.poison then Tab.put g true y.scrPoison else Tab.del g y.scrPoison })
  if j.bad then
    writeRecord s { plyRecord s p 0 0xFF with severity := 0, cls := 6, cause := 6, address := w64 (2 ^ 60 + 128 * g) }
  else s

/-- Write an interval's journal back; its granules are free then. -/
def undoJournal (s : State) (p : Nat) : State :=
  ((s.ply p).journal.foldl (fun s g => undoGranule s p g.1 g.2) s).modPly p (fun y => { y with journal := [] })

/-- A ply that has left a core in a rollback issues once that core has performed its ordinary entries, at peers and the host too, and its new core's
L1 holds nothing older (R353, R412). -/
def goOnMoving (s : State) (p : Nat) : State :=
  match (s.ply p).moving with
  | none => s
  | some (_, some f) => if f.met s then s.modPly p (fun y => { y with moving := none }) else s
  | some (c, none) =>
    let s := drainWhere s c (fun e => e.ply == p)
    if (s.core c).log.any (fun e => e.ply == p) then s
    else
      let s := emptyL1 s (s.ply p).core
      if pinned s (s.ply p).core != [] then s
      else
        let f := newFence s scSystem
        let s := askFlush s (.frag p 0 0) (s.ply p).vdev f.host
        s.modPly p (fun y => { y with moving := if f.met s then none else some (c, some f) })

/-- A ply goes from a core of its bay to another, with its state (R353). -/
def moveTo (s : State) (p c : Nat) : State :=
  let y := s.ply p
  if c = y.core then s else goOnMoving (seat (s.modPly p (fun y => { y with moving := y.moving.orElse (fun _ => some (y.core, none)) })) p c) p

/-- Return a protected ply to its last commit. -/
def rollbackPly (s : State) (p cls cause : Nat) : State :=
  let s := cancelWork (withdraw s p) p
  let s := dropHeld (undoJournal s p) p
  let s := s.modPly p (fun y => { y with strands := y.snap.strands
                                         tiles := y.snap.tiles
                                         bad := y.snap.bad
                                         objs := y.snap.objs
                                         relBlocks := []
                                         cause := 0
                                         prot := true
                                         markCode := 0
                                         markVal := 0
                                         exiting := false
                                         repidx := y.repidx + 1 })
  let s := { s with engine := s.engine.erase (.plyExit p) }
  let c := replayCore s p cls cause
  saveIfAsked (rebindAll (dropL1All (moveTo s p c) c) p) p

/-! ## Consumed errors (R346, R352) -/

/-- Read n bytes of one sector of a device at its home, as the checkpoint engine does: none when it is not mapped or poisoned (R408, R410). -/
def readNow (s : State) (v va n : Nat) : State × Option Bytes :=
  let a := va % 2 ^ 57
  let s := walkTouch s v a
  match translateWalk s v a 0 with
  | .ok p =>
    let t := homeTouch s (p.phys a) 0
    (t, if homePoisoned t (p.phys a / 128) then none else some (homeRead t (p.phys a) n))
  | _ => (s, none)

/-- Read n whole sectors. -/
def sectorsNow (s : State) (v va : Nat) (n : Nat) : State × Option Bytes :=
  (upFrom 0 n).foldl (fun r j =>
    match r.2 with
    | none => r
    | some b => let x := readNow r.1 v (va + 128 * j) 128; (x.1, x.2.map (b ++ ·))) (s, some [])

/-- The shards of a checkpoint descriptor as they stand at the homes (R410): offset in the slot and bytes of each; one that cannot be read is not
there. -/
def shardsNow (s : State) (v : Nat) (desc : Bytes) : State × List (Nat × Bytes) :=
  let n := natLE ((desc.drop 2).take 2)
  let list := natLE ((desc.drop 0x20).take 8)
  (upFrom 0 n).foldl (fun r i =>
    match readNow r.1 v (list + 32 * i) 32 with
    | (t, some e) =>
      let x := sectorsNow t v (natLE (e.take 8)) (natLE ((e.drop 8).take 8) / 128)
      (x.1, match x.2 with
        | some b => r.2 ++ [(natLE ((e.drop 16).take 8), b)]
        | none => r.2)
    | (t, none) => (t, r.2)) (s, [])

/-- Take a capture of the rollback about to happen, when the ply's queue still has captures to take (R410). -/
def captureIfArmed (s : State) (p : Nat) (r : ErrRec) : State :=
  let y := s.ply p
  let q := s.queue y.queue
  if (s.reel y.reel).capture && decide (q.capTaken < q.captures) then
    let n := (s.vdev y.vdev).recNo
    let d := sectorsNow s y.vdev (bits q.capDesc 0 57) 1
    let desc := d.2.getD []
    let sh := shardsNow d.1 y.vdev desc
    let s := sh.1
    let k : Captured := {
      number := n
      record := recBytes (dated s r) n
      ctx := s.fresh
      shards := sh.2
      desc := desc
      index := q.capTaken }
    let back : Ply := {
      y with
        strands := y.snap.strands
        tiles := y.snap.tiles
        bad := y.snap.bad
        objs := y.snap.objs
        scratch := y.journal.foldl (fun m g => Mem.write m (128 * g.1) (Mem.read g.2.data 0 128)) y.scratch
        scrPoison := y.journal.foldl (fun t g => if g.2.bad || g.2.poison then Tab.put g.1 true t else Tab.del g.1 t) y.scrPoison
        journal := [] }
    let x := s.skein y.skein
    let s := { s with captures := Tab.put s.fresh { ply := back, reel := s.reel y.reel, skein := x.num, nply := x.plies.length } s.captures }
    let s := s.modQueue y.queue (fun q => { q with capTaken := q.capTaken + 1 })
    (s.bump.modPly p (fun y => { y with capture := some k, halt := true })).later (.intervalCapture p)
  else s

/-- A ply that is to contain for an error at the trap level writes two records (R346). -/
def containNested (s : State) (p k f : Nat) (r : ErrRec) : State :=
  let s := writeRecord s (trapRecord s p k f true)
  contain s p { r with flags := r.flags ||| 1 }

/-- The fate of an error that a ply has consumed (R352); one found away from its fragments is consumed by no handler (R346). -/
def consumeError (s : State) (p : Nat) (e : Consumed) : State :=
  if !s.livePly p then s
  else
    let y := s.ply p
    let s := noteError s y.core e.cls (e.strand % 4) e.lanes
    if y.prot && !e.unrec && !e.kill && decide (y.repidx < 7) then
      let r := consumedRecord s p e 1 false
      let s := captureIfArmed s p r
      rollbackPly (writeRecord s r) p e.cls e.cause
    else if !e.away && (y.strand e.strand).trapped && !y.prot then containNested s p e.strand e.frag (consumedRecord s p e 2 false)
    else contain s p (consumedRecord s p e 2 false)

end Sys2Proof.Machine
end

