-- ==== Sys2Proof/Machine/Ops.lean ====
section
/-! DEFINITION. The named operations on the registers of the issuing fragment (R52 to R61), how an instruction ends (R111, R146), taking
a trap (R149, R346) and returning from one (R150). -/
namespace Sys2Proof.Machine

/-- What keeps an instruction from its effect: a trap, or a state in which the fragment stays at the instruction. -/
inductive Stop where
  | trap (t : TrapReq)
  | stay (s : State)
  deriving DecidableEq, Repr

/-- An effect: the state after it, or a stop. -/
abbrev Eff := Except Stop State

/-! ## Causes (R343) -/

def illegalOperand (detail : Nat) : Stop := .trap { cause := 3, detail := detail }
def illegalTarget : Stop := .trap { cause := 4 }
def privilege : Stop := .trap { cause := 5 }
def allotment (detail : Nat) : Stop := .trap { cause := 6, detail := detail }

/-- Go on when a condition holds, else stop. -/
def need (c : Bool) (e : Stop) : Except Stop Unit := if c then .ok () else .error e

/-! ## Scalar registers (R52, R53) -/

/-- s0 to s191 as the fragment sees them: the trap bank stands in for s0-s15 at the trap level. -/
def sreg (s : State) (n : Nat) : W64 :=
  let t := s.cur
  if n < 16 then (if t.trapped then Tab.get 0 t.trapBank n else Tab.get 0 s.curFrag.bank n) else Tab.get 0 t.s n

/-- An overwrite replaces a bad value with its mark (R350, R357); an injection that it replaces is disarmed, with FIRED clear (R403).
[DEDUCED: log 62] -/
def clearBad (s : State) (p : Nat) (hit : Bad → Bool) : State :=
  let y := s.ply p
  if y.bad = [] then s
  else
    let gone := y.bad.filter hit
    let s := s.modPly p (fun y => { y with bad := y.bad.filter (fun b => !(hit b)) })
    if gone.any (fun b => b.injected) then disarm s else s

/-- How a mark names the fragment that holds an entry of the split table: by the entry and the fragment's age. [DEDUCED: log 22] -/
def fragKey (t : Strand) (f : Nat) : Nat := f + 4 * (t.fragAt f).age

/-- A mark of strand k on scalar register n of the trap bank or the shared registers; those of a fragment's bank stand in the fragment.
[DEDUCED: log 22] -/
def scalarMark (t : Strand) (k n : Nat) (b : Bad) : Bool :=
  b.strand == k && b.reg == n && b.kind == (if n < 16 then 2 else 1) && (t.trapped || decide (16 ≤ n))

/-- An overwrite of a register of the fragment's bank replaces a bad value with its mark (R350). -/
def clearBank (s : State) (n : Nat) : State :=
  match Tab.find n s.curFrag.marks with
  | none => s
  | some m =>
    let s := s.modCurFrag (fun f => { f with marks := Tab.del n f.marks })
    if m.injected then disarm s else s

/-- Write s0 to s191. -/
def setSreg (s : State) (n : Nat) (v : W64) : State :=
  let s := clearBad s s.iss.ply (scalarMark s.cur s.iss.strand n)
  if n < 16 then
    if s.cur.trapped then s.modCur (fun t => { t with trapBank := Tab.set 0 t.trapBank n v })
    else (clearBank s n).modCurFrag (fun f => { f with bank := Tab.set 0 f.bank n v })
  else s.modCur (fun t => { t with s := Tab.set 0 t.s n v })

/-- Plies of the issuing ply's skein. -/
def curNply (s : State) : Nat := (s.skein s.curPly.skein).plies.length

/-- The core that %core, %bay and %die name: a re-run reads the captured one (R411). -/
def shownCore (s : State) : Nat := s.curPly.asCore.getD s.curPly.core

/-- A die is refreshed in windows: a unit of a device that is not collapsed lies on it (R295). -/
def windowsOn (s : State) (d : Nat) : Bool :=
  s.vdevs.any (fun v => v.2.exist && v.2.wsDies.contains d &&
    (match v.2.collapse with
     | .collapsed _ => false
     | .waking _ => false
     | _ => true))

/-- %wsref (R296): clocks to the next window of the die. -/
def wsref (s : State) (d : Nat) : W64 :=
  if !(windowsOn s d) then BitVec.allOnes 64
  else if (s.die d).window then 0
  else w64 ((282000 * d + 2256000 - s.clock % 2256000) % 2256000)

/-- %rgnst (R46). -/
def rgnst (y : Ply) : W64 :=
  w64 (y.seq.toNat * 2 ^ 32 + y.cause.toNat * 256 + 2 * b2n y.en + b2n y.prot)

/-- The special sources 192 to 217 (R54). -/
def special (s : State) (n : Nat) : W64 :=
  let y := s.curPly
  let r := s.reel y.reel
  match n with
  | 193 => w64 s.iss.strand
  | 194 => w64 y.num
  | 195 => w64 (s.skein y.skein).num
  | 196 => w64 r.rank
  | 197 => w64 y.strands.length
  | 198 => w64 (curNply s)
  | 199 => w64 r.nskein
  | 200 => w64 r.nrank
  | 201 => w64 (coreNum (shownCore s))
  | 202 => w64 (coreNum (shownCore s) / 4)
  | 203 => w64 (coreDie (shownCore s))
  | 204 => w64 s.iss.frag
  | 205 => zext64 s.curFrag.mask
  | 206 => w64 (s.plyClock s.iss.ply)
  | 207 => y.batch
  | 208 => zext64 s.cur.fpst
  | 209 => rgnst y
  | 210 => w64 y.repidx
  | 211 => r.args
  | 212 => w64 y.scrSize
  | 213 => wsref s (coreDie y.core)
  | 214 => y.energy
  | 215 => s.cur.trapinfo
  | 216 => s.cur.trapaddr
  | 217 => s.cur.trappc
  | _ => 0

/-- A scalar source field (R52). -/
def readS (s : State) (f : BitVec 8) : Except Stop W64 :=
  let n := f.toNat
  if n < 192 then .ok (sreg s n) else if n < 218 then .ok (special s n) else .error (illegalOperand 0)

/-- A scalar destination field (R52): %zero discards, %fpst clears the flags that are 1 (R56). -/
def writeS (s : State) (f : BitVec 8) (v : W64) : Eff :=
  let n := f.toNat
  if n < 192 then .ok (setSreg s n v)
  else if n = 192 then .ok s
  else if n = 208 then .ok (s.modCur (fun t => { t with fpst := t.fpst &&& ~~~(v.setWidth 6) }))
  else .error (illegalOperand 0)

/-- The sb6 field of format SR names s0 to s63. -/
def readSb6 (s : State) (f : BitVec 6) : W64 := sreg s f.toNat

/-- A pair or group of n registers from s[a] on lies within s0 to s191. -/
def groupOk (a : BitVec 8) (n : Nat) : Except Stop Unit := need (decide (a.toNat + n ≤ 192)) (illegalOperand 0)

/-! ## Vector and predicate registers (R57, R58) -/

/-- The strand's allotment holds a vector register. -/
def vecIn (s : State) (r : Nat) : Bool := decide (r < 8 * s.cur.blocks)

/-- Every named register lies in the allotment, else the trap of R23. -/
def needVecs (s : State) (rs : List Nat) : Except Stop Unit := need (rs.all (vecIn s)) (allotment 0)

/-- Lane l of a vector register. -/
def vreg (s : State) (r l : Nat) : W64 := Tab.get 0 s.cur.v (32 * r + l)

/-- Write the lanes of a mask of a vector register. -/
def setVecLanes (s : State) (r : Nat) (m : W32) (f : Nat → W64) : State :=
  let s := clearBad s s.iss.ply (fun b => b.kind == 0 && b.strand == s.iss.strand && b.reg == r && inMask m (b.sub / 2))
  s.modCur (fun t => { t with v := (lanesOf m).foldl (fun v l => Tab.set 0 v (32 * r + l) (f l)) t.v })

/-- A predicate register; p0 is all ones. -/
def preg (s : State) (q : Nat) : W32 := if q = 0 then BitVec.allOnes 32 else Tab.get 0 s.cur.p q

/-- Write the bits of a mask of a predicate register; p0 discards. -/
def setPredLanes (s : State) (q : Nat) (m v : W32) : State :=
  if q = 0 then s
  else (if m = BitVec.allOnes 32 then clearBad s s.iss.ply (fun b => b.kind == 3 && b.strand == s.iss.strand && b.reg == q) else s).modCur (fun t => { t with p := Tab.set 0 t.p q ((Tab.get 0 t.p q &&& ~~~m) ||| (v &&& m)) })

/-- Active lanes under a guard. -/
def activeLanes (s : State) (g : Nat) : W32 := s.curFrag.mask &&& preg s g

/-- Active and helper lanes under a guard (R37). -/
def enabledLanes (s : State) (g : Nat) : W32 := (s.curFrag.mask ||| s.curFrag.helper) &&& preg s g

/-- Raise flags in %fpst (R56). -/
def raise (s : State) (fl : Flags) : State := s.modCur (fun t => { t with fpst := t.fpst ||| fl })

/-! ## Joins, fusions and the serial fallback (R33 to R35) -/

/-- A fragment waits at its program counter. -/
def waiting (t : Strand) (i : Nat) (f : Frag) : Bool :=
  (f.join == some f.pc && (match f.parent with
    | some p => Tab.has t.frags p
    | none => false)) ||
  t.frags.any (fun g => g.2.parent == some i && g.2.join == some f.pc)

/-- Which of two masks holds the lower lane. -/
def lowerMask (a b : W32) : Bool := decide (lowestLane a ≤ lowestLane b)

/-- Keep in every helper mask only lanes whose quad holds an active lane (R38). -/
def pruneHelpers (t : Strand) : Strand :=
  { t with frags := t.frags.map (fun f => (f.1, { f.2 with helper := f.2.helper &&& quadsOf f.2.mask &&& ~~~f.2.mask })) }

/-- The strand's oldest deferred path: its holder and its age. -/
def oldestPath (t : Strand) : Option (Nat × Deferred) :=
  (t.frags.flatMap (fun f => f.2.stack.map (fun d => (f.1, d)))).foldl (fun m d =>
    match m with
    | none => some d
    | some o => if d.2.age < o.2.age then some d else m) none

/-- An entry has become empty: the oldest deferred path becomes a fragment in it (R35). left are paths whose fragment is gone: they take
heir as parent, and keep their joins where it stands in for the fragment (keep); those that do not fill the entry go on the stack of the one
that does. [DESIGN CHOICE: log 82] -/
def fillEntry (t : Strand) (e : Nat) (left : List Deferred) (heir : Option Nat) (keep : Bool) : Strand :=
  let own : Option (Option Nat × Deferred) := left.foldl (fun m d =>
    match m with
    | none => some (none, d)
    | some o => if d.age < o.2.age then some (none, d) else m) none
  let other := (oldestPath t).map (fun o => (some o.1, o.2))
  let pick := match own, other with
    | some a, some b => if a.2.age < b.2.age then some a else some b
    | some a, none => some a
    | none, b => b
  match pick with
  | none => t
  | some (holder, d) =>
    let f : Frag := {
      pc := d.pc
      mask := d.mask
      helper := d.helper
      join := if holder.isSome || keep then d.join else none
      parent := match holder with
        | some h => some h
        | none => heir
      stack := left.filter (fun x => x.age != d.age)
      bank := d.bank
      marks := d.marks
      age := t.ages }
    let t := match holder with
      | some h => t.modFrag h (fun g => { g with stack := g.stack.filter (fun x => x.age != d.age) })
      | none => t
    { t with frags := Tab.put e f t.frags, ages := t.ages + 1 }

/-- Fuse fragment b into the survivor a at an address (R33). Deferred paths of both go on with the survivor, those past 8 with the fragment that takes the
empty entry, and held lanes with the survivor. [DEDUCED: log 22; DESIGN CHOICE: log 82] -/
def fuse (t : Strand) (a b : Nat) (addr : W32) : Strand :=
  let x := t.fragAt a
  let y := t.fragAt b
  let f := { x with pc := addr, mask := x.mask ||| y.mask, helper := x.helper ||| y.helper,
                    bank := if lowerMask x.mask y.mask then x.bank else y.bank,
                    marks := if lowerMask x.mask y.mask then x.marks else y.marks,
                    stack := (x.stack ++ y.stack).take 8, held := x.held ++ y.held, resv := none, wait := .none, unfinished := none, replies := [],
                    fence := none, ahead := [], begun := false }
  let kids (g : Nat × Frag) : Nat × Frag := if g.2.parent == some b then (g.1, { g.2 with parent := some a }) else g
  let t := { t with frags := (Tab.put a f (Tab.del b t.frags)).map kids }
  fillEntry t b ((x.stack ++ y.stack).drop 8) (some a) true

/-- F holds its lanes at its program counter and takes the path on top of its stack (R35 steps 1 and 2). -/
def takePath (t : Strand) (i : Nat) (bar : Bool) : Strand :=
  t.modFrag i (fun f =>
    match f.stack with
    | [] => f
    | d :: rest =>
      let h : HeldLanes := { addr := f.pc, mask := f.mask, helper := f.helper, bank := f.bank, marks := f.marks, bar := bar }
      { f with held := h :: f.held, stack := rest, pc := d.pc, mask := d.mask, helper := d.helper, bank := d.bank, marks := d.marks, wait := .none })

/-- The held lanes on top join F's lanes (R35 step 3). -/
def rejoin (t : Strand) (i : Nat) : Strand :=
  t.modFrag i (fun f =>
    match f.held with
    | [] => f
    | h :: rest =>
      { f with held := rest, mask := f.mask ||| h.mask, helper := f.helper ||| h.helper,
               bank := if lowerMask f.mask h.mask then f.bank else h.bank
               marks := if lowerMask f.mask h.mask then f.marks else h.marks })

/-- A fragment stands at a barrier. -/
def Frag.atBar (f : Frag) : Bool :=
  match f.wait with
  | .bar _ _ _ => true
  | _ => false

/-- The first of the rules of R33 to R35 that applies, applied. -/
def settleOne (t : Strand) : Option Strand :=
  let fs := t.frags
  match fs.find? (fun f => match f.2.held with
      | h :: _ => h.addr == f.2.pc && (h.bar == f.2.atBar)
      | [] => false) with
  | some f => some (rejoin t f.1)
  | none =>
  match fs.find? (fun f => match f.2.stack with
      | d :: _ => d.join == some f.2.pc && f.2.wait == .none
      | [] => false) with
  | some f => some (takePath t f.1 false)
  | none =>
  match fs.find? (fun f => match f.2.parent, f.2.join with
      | some p, some j => Tab.has fs p && waiting t p (t.fragAt p) && (t.fragAt p).pc != j
      | _, _ => false) with
  | some f => some (t.modFrag f.1 (fun x => { x with join := none, parent := (t.fragAt (f.2.parent.getD 0)).parent }))
  | none =>
  let atJoin (f : Frag) : Bool := f.join == some f.pc && f.parent.isSome
  match fs.findSome? (fun f => if atJoin f.2 then
      (fs.find? (fun g => g.1 != f.1 && atJoin g.2 && g.2.parent == f.2.parent && g.2.join == f.2.join && decide (f.2.age ≤ g.2.age))).map (fun g => (f, g))
    else none) with
  | some (f, g) => some (fuse t f.1 g.1 f.2.pc)
  | none =>
  match fs.findSome? (fun f =>
      let kids := fs.filter (fun g => g.2.parent == some f.1 && g.2.join == some f.2.pc)
      if kids != [] && kids.all (fun g => g.2.pc == f.2.pc) then kids.head?.map (fun g => (f, g)) else none) with
  | some (f, g) => some (fuse t f.1 g.1 f.2.pc)
  | none =>
  if fs != [] && fs.all (fun f => f.2.atBar) && fs.all (fun f => fs.all (fun g => f.2.pc == g.2.pc)) then
    (oldestPath t).map (fun o => takePath t o.1 true)
  else none

/-- Apply the rules until none applies. -/
def settleAll (t : Strand) : Nat → Strand
  | 0 => t
  | n + 1 =>
    match settleOne t with
    | some u => settleAll u n
    | none => t

/-- What becomes of a strand's fragments after a step; at the trap level nothing moves. -/
def Strand.settle (t : Strand) : Strand := if t.trapped then t else pruneHelpers (settleAll t 64)

/-- Settle the issuing strand. -/
def settle (s : State) : State := if s.livePly s.iss.ply then s.modCur Strand.settle else s

/-- The fragment stands where it stood before the strand settled: same entry, same index. -/
def stillAt (s : State) (w : W32) : Bool := Tab.has s.cur.frags s.iss.frag && s.curFrag.pc == w

/-! ## How an instruction ends -/

/-- A fragment that has nothing of an instruction under way. -/
def freshFrag (f : Frag) : Frag :=
  { f with unfinished := none, replies := [], fence := none, begun := false, repPos := 0, under := false }

/-- The fragment goes on at an index, its lanes all done. -/
def goTo (s : State) (w : W32) : State := settle (s.modCurFrag (fun f => { (freshFrag f) with pc := w }))

/-- The instruction has completed: the next repeat of a REP, or the next word (R146). -/
def advance (s : State) : State :=
  match s.iss.rep with
  | some (n, _, _) =>
    if s.curFrag.repPos < n then s.modCurFrag (fun f => { f with unfinished := none, replies := [], fence := none, repPos := f.repPos + 1 })
    else goTo s (s.iss.w + 2)
  | none => goTo s (s.iss.w + 1)

/-- The fragment stays at the instruction and the chain ends. -/
def halt (s : State) : State := { s with iss := { s.iss with halted := true } }

/-- The fragment is not ready until the machine has gone on; the instruction then issues again. -/
def hold (s : State) : Stop := .stay (s.modCurFrag (fun f => { f with wait := .held }))

/-- %trapinfo of a trap (R344). -/
def trapWord (t : TrapReq) : W64 := w64 (t.lanes.toNat * 2 ^ 32 + t.tcode * 2 ^ 22 + t.detail * 256 + t.cause)

/-- Taking a trap (R149). At the trap level it is a nested fault and contains the ply (R346). [DEDUCED: log 19] -/
def takeTrap (s : State) (t : TrapReq) : State :=
  let p := s.iss.ply
  let k := s.iss.strand
  let i := s.iss.frag
  if (s.reel s.curPly.reel).rerun.isSome && t.cause == 11 && t.detail == 3 && bits t.addr 60 4 == 2 && bits t.addr 20 2 != s.curPly.num then
    halt ((s.modCurPly (fun y => { y with prot := false, halt := true })).urgent (.ckptRerun s.curPly.queue))
  else if s.cur.trapped then
    let r := plyRecord s p k i
    halt (containNested s p k i { r with severity := 2, cls := 0, cause := t.cause, detail := t.detail, lanes := t.lanes,
                                         address := t.addr, pc := s.iss.w.toNat, flags := 2 })
  else
    let f := s.curFrag
    let s := s.modCur (fun u =>
      { u with trappc := zext64 s.iss.w, trapaddr := t.addr, trapinfo := trapWord t,
               trap := { on := true, frag := i, retIdx := if t.cause = 1 then s.iss.w + 1 else s.iss.w, retRep := f.repPos, retLanes := f.unfinished, written := false } })
    let v := (s.reel s.curPly.reel).desc.trapvec
    halt (s.modCurFrag (fun f => { (freshFrag f) with pc := v, ahead := [], resv := none, wait := .none, jumped := false }))

/-- Returning from a trap (R150): TRETIDX is checked as a target before it issues. -/
def trapReturn (s : State) : State :=
  let t := s.cur.trap
  let s := s.modCur (fun u => { u with trap := { u.trap with on := false, written := false } })
  settle (s.modCurFrag (fun f => { (freshFrag f) with resv := none, jumped := true, pc := t.retIdx, repPos := if t.written then 0 else t.retRep
                                                      unfinished := if t.written then none else t.retLanes }))

/-- The step of an effect: done, trapped, or stayed. -/
def run (s : State) (r : Eff) : Res :=
  .next (match r with
    | .ok t => advance t
    | .error (.trap q) => takeTrap s q
    | .error (.stay t) => halt t)

/-- The step of an effect that sets the program counter itself. -/
def runTo (s : State) (r : Eff) : Res :=
  .next (match r with
    | .ok t => t
    | .error (.trap q) => takeTrap s q
    | .error (.stay t) => halt t)

/-- A transfer of control: the target is checked before it issues (R113). -/
def jump (s : State) (w : W32) : State := goTo (s.modCurFrag (fun f => { f with jumped := true })) w

/-- The index w + d, which wraps at 2^32, and whether it lies below word 0. [DESIGN CHOICE: log 97] -/
def target (w : W32) (d : Int) : W32 := BitVec.ofInt 32 ((w.toNat : Int) + d)
def targetUnder (w : W32) (d : Int) : Bool := decide ((w.toNat : Int) + d < 0)

/-- A transfer of control by an offset; a target below word 0 faults on fetch (R141). -/
def jumpBy (s : State) (d : Int) : State :=
  let t := jump s (target s.iss.w d)
  if targetUnder s.iss.w d then t.modCurFrag (fun f => { f with under := true }) else t

/-- A branch, taken or not. -/
def branch (s : State) (taken : Bool) (d : Int) : State := if taken then jumpBy s d else goTo s (s.iss.w + 1)

end Sys2Proof.Machine
end

