-- ==== Sys2Proof/Machine/Fault.lean ====
section
/-! DEFINITION. Translation faults (R373 to R380): parking a fragment or pausing a transfer, the fault queue, page request groups, and
resuming. -/
namespace Sys2Proof.Machine

/-! ## The fault queue (R375 to R377) -/

/-- The bytes of a fault entry (R377). -/
def faultBytes (s : State) (token : W64) (addr : W64) (cause kind : Nat) (host : Bool) (vdev pasid : Nat) (lanes : W32) (pc : W32)
    (p k f : Nat) (pages number : Nat) : Bytes :=
  let r := plyRecord s p k f
  bytesLE token.toNat 8 ++ bytesLE addr.toNat 8 ++ bytesLE cause 1 ++ bytesLE kind 1 ++ bytesLE (b2n host) 1 ++ bytesLE vdev 1 ++
  bytesLE (if host then pasid else 0) 4 ++ bytesLE lanes.toNat 4 ++ bytesLE pc.toNat 4 ++ bytesLE r.die 1 ++ bytesLE r.core 1 ++
  bytesLE r.who 1 ++ bytesLE r.frag 1 ++ bytesLE r.queue 2 ++ bytesLE pages 2 ++ bytesLE r.cookie.toNat 4 ++ bytesLE r.skein 4 ++
  bytesLE r.clock 8 ++ bytesLE number 4 ++ bytesLE 0 4

/-- Write the first waiting entry of a device's fault queue when there is room (R376). -/
def writeFault (s : State) (v : Nat) : Option State :=
  let d := s.vdev v
  match d.faults.find? (fun e => !e.written) with
  | none => none
  | some e =>
    if ringRead s v 0 + 4096 ≤ d.faultW then none
    else
      let s := homeWrite s (d.rsvPa (0x1000 + 64 * (d.faultW % 4096))) e.bytes
      let s := homeWrite s (d.rsvPa 0) (bytesLE (d.faultW + 1) 8)
      let s := s.modVdev v (fun d => { d with faultW := d.faultW + 1
                                              faults := d.faults.map (fun x => if x.token == e.token then { x with written := true } else x) })
      some (msixVdev s v 1)

/-- Write waiting entries while there is room. -/
def writeFaults (s : State) (v : Nat) : Nat → State
  | 0 => s
  | n + 1 =>
    match writeFault s v with
    | some t => writeFaults t v n
    | none => s

/-- Write what waits, and say once that the queue is full (R376). -/
def flushFaults (s : State) (v : Nat) : State :=
  let s := writeFaults s v (s.vdev v).faults.length
  let d := s.vdev v
  let used := d.faultW - ringRead s v 0
  if used < 2048 then s.modVdev v (fun d => { d with fullSaid := false })
  else
    match d.faults.find? (fun e => !e.written) with
    | some e =>
      if 4096 ≤ used ∧ !d.fullSaid then
        writeRecord (s.modVdev v (fun d => { d with fullSaid := true })) { severity := 0, cls := 7, cause := 6, vdev := v, address := w64 (natLE ((e.bytes.drop 8).take 8)) }
      else s
    | none => s

/-- What a fault entry says besides who it is about. -/
structure FaultInfo where
  cause : Nat
  kind  : Nat
  host  : Bool
  pasid : Nat
  addr  : W64
  lanes : W32
  pages : List Nat
  deriving DecidableEq, Repr

/-- Put an entry into a device's fault queue: the state and its token. p, k and f name the fragment that issued. -/
def enterFault (s : State) (who : Who) (p k f : Nat) (pc : W32) (i : FaultInfo) : State × W64 :=
  let v := (s.ply p).vdev
  let d := s.vdev v
  let token := w64 (d.tokens + 1)
  let b := faultBytes s token i.addr i.cause i.kind i.host v i.pasid i.lanes pc p k f i.pages.length d.faultNo
  let e : FaultEntry := { token := token, who := who, vdev := v, bytes := b, pages := i.pages.map (fun a => (i.host, i.pasid, a)), written := false }
  let s := s.modVdev v (fun d => { d with tokens := d.tokens + 1, faultNo := d.faultNo + 1, faults := d.faults ++ [e] })
  (flushFaults s v, token)

/-! ## Page requests (R380) -/

/-- Page requests outstanding for a function. -/
def priCount (s : State) (fn : Nat) : Nat := s.plat.groups.foldl (fun n g => if g.sent && g.fn == fn then n + g.pages.length else n) 0

/-- Send a group's requests when its function has room for them. -/
def sendGroup (s : State) (g : PriGroup) (pasid : Nat) : State :=
  if g.sent || decide (512 < priCount s g.fn + g.pages.length) then s
  else
    let s := s.modPlat (fun p => { p with groups := p.groups.map (fun h => if h.id == g.id then { h with sent := true } else h) })
    g.pages.foldl (fun s a => s.send (.priReq g.id (s.tag g.vdev) pasid a g.kind)) s

/-- Send the groups that wait for room, oldest first. -/
def sendGroups (s : State) : State := s.plat.groups.foldl (fun s g => sendGroup s g (s.vdev g.vdev).pasid) s

/-- The function's page requests are off: PRI is disabled, or a Response Failure has stopped them. -/
def priOff (s : State) (fn : Nat) : Bool :=
  let f := Tab.get {} s.plat.fns fn
  f.priDead || !f.pri

/-! ## Parking (R373, R374) -/

/-- Set what a fragment waits for; a park loses the reservation (R138). -/
def parkOn (s : State) (p k f : Nat) (w : Wait) (un : Option W32) : State :=
  s.modFrag p k f (fun x => { x with wait := w, unfinished := un, resv := none, replies := [] })

/-- Park the issuing fragment on a translation fault: at the trap level it is a nested fault (R346); a tag-4 fault goes to PRI. un is
the unfinished mask, none for an instruction that parks as a whole. -/
def parkFault (s : State) (i : FaultInfo) (un : Option W32) : State :=
  let p := s.iss.ply
  let k := s.iss.strand
  let f := s.iss.frag
  if s.cur.trapped then
    let r := plyRecord s p k f
    containNested s p k f { r with severity := 2, cls := 7, cause := i.cause, lanes := i.lanes, address := i.addr, pc := s.iss.w.toNat, flags := 2 }
  else
    let v := s.curPly.vdev
    let fn := servingFn s v
    if i.host && !(priOff s fn) then
      let g : PriGroup := { id := s.fresh, who := .frag p k f, vdev := v, fn := fn, pages := i.pages, lanes := i.lanes, kind := i.kind, addr := i.addr, sent := false }
      let s := (s.modPlat (fun q => { q with groups := q.groups ++ [g] })).bump
      parkOn (sendGroup s g i.pasid) p k f (.pri g.id) un
    else
      let i := if i.host then { i with cause := 5 } else i
      let r := enterFault s (.frag p k f) p k f s.iss.w i
      parkOn r.1 p k f (.fault r.2) un

/-- Resume a parked fragment: it issues its instruction again for the unfinished lanes (R374). -/
def unpark (s : State) (p k f : Nat) : State := s.modFrag p k f (fun x => { x with wait := .none })

/-- A transfer without the refusals of ATS that it has met: when it goes on it asks again (R380, R382). -/
def askAfresh (y : Xfer) : Xfer :=
  { y with replies := y.replies.filter (fun r => match r with
      | .atsDenied _ _ _ => false
      | _ => true) }

/-- Pause a transfer on a fault of its next chunk (R382); p, k and f name the fragment that issued it. -/
def pauseTransfer (s : State) (x : Xfer) (i : FaultInfo) : State :=
  let s := s.modXfer x.id askAfresh
  let fn := servingFn s x.vdev
  let pc : W32 := x.w
  if i.host && !(priOff s fn) then
    let g : PriGroup := { id := s.fresh, who := .xfer x.id, vdev := x.vdev, fn := fn, pages := i.pages, lanes := 0, kind := i.kind, addr := i.addr, sent := false }
    let s := (s.modPlat (fun q => { q with groups := q.groups ++ [g] })).bump
    (sendGroup s g i.pasid).modXfer x.id (fun y => { y with pausedPri := some g.id })
  else
    let i := if i.host then { i with cause := 5 } else i
    let r := enterFault s (.xfer x.id) x.ply x.strand x.frag pc i
    r.1.modXfer x.id (fun y => { y with paused := some r.2 })

/-- A group that PRI cannot serve goes to the fault queue with cause 0x05 (R380). -/
def groupToQueue (s : State) (g : PriGroup) : State :=
  let s := s.modPlat (fun p => { p with groups := p.groups.filter (fun h => h.id != g.id) })
  let i : FaultInfo := { cause := 5, kind := g.kind, host := true, pasid := (s.vdev g.vdev).pasid, addr := g.addr, lanes := g.lanes, pages := g.pages }
  match g.who with
  | .frag p k f =>
    let r := enterFault s g.who p k f (s.fragOf p k f).pc i
    r.1.modFrag p k f (fun x => { x with wait := .fault r.2 })
  | .xfer id =>
    match s.xfer id with
    | some x =>
      let r := enterFault s g.who x.ply x.strand x.frag x.w i
      r.1.modXfer id (fun y => { y with paused := some r.2, pausedPri := none })
    | none => s
  | .queue _ => s
  | .bind _ _ => s

end Sys2Proof.Machine
end

