-- ==== Sys2Proof/Machine/Access.lean ====
section
/-! DEFINITION. The paths of memory accesses (R65 to R67, R180 to R183, R235, R236): checks, translation, reads merged with the store
log, writes, and consumed poison (R367 to R369). -/
namespace Sys2Proof.Machine

/-! ## Checks (R63, R65) -/

/-- An access: the permissions it needs in the order r 0, w 1, a 2; whether it writes; bytes and alignment; the tags allowed. -/
structure Acc where
  perms : List Nat
  write : Bool
  bytes : Nat
  align : Nat
  tags  : List Nat
  deriving DecidableEq, Repr

/-- The kind of a translated access (R257). -/
def Acc.kind (a : Acc) : Nat := if a.perms.contains 2 then 2 else if a.write then 1 else 0

/-- A load and a store of n bytes. -/
def loadAcc (n : Nat) : Acc := ⟨[0], false, n, n, [0, 1, 2, 3, 4, 5, 6]⟩
def storeAcc (n : Nat) : Acc := ⟨[1], true, n, n, [0, 1, 2, 3, 4, 5, 6]⟩

def ptrTag (p : W64) : Nat := bits p 60 4
def ptrPol (p : W64) : Nat := bits p 57 3
def ptrAddr (p : W64) : Nat := bits p 0 57

/-- Width of the address field of a space (R63). -/
def tagBits (tag : Nat) : Nat :=
  match tag with
  | 1 => 20
  | 2 => 22
  | 3 => 34
  | 5 => 56
  | _ => 57

/-- Segment register bits of a permission: r 57, w 58, a 59. -/
def permBit (k : Nat) : Nat := 57 + k

/-- The limit of a segment register admits n bytes at an offset (R61, R62). -/
def limitOk (g : Seg) (off n : Nat) : Bool := bits g.ctl 0 57 == 2 ^ 57 - 1 || decide (off + n ≤ bits g.ctl 0 57)

/-- Who makes an access: ply, strand, segment registers, and what came back for it. -/
structure Ctx where
  who    : Who
  ply    : Nat
  strand : Nat
  frag   : Nat
  core   : Nat
  vdev   : Nat
  segs   : Tab Seg
  replies : List Reply
  /-- Its release under way. -/
  fence  : Option Fence := none
  deriving DecidableEq, Repr

/-- The issuing fragment as the maker of an access. -/
def ctxOf (s : State) : Ctx :=
  { who := .frag s.iss.ply s.iss.strand s.iss.frag, ply := s.iss.ply, strand := s.iss.strand, frag := s.iss.frag, core := s.curCore,
    vdev := s.curPly.vdev, segs := s.cur.g, replies := s.curFrag.replies, fence := s.curFrag.fence }

def Ctx.seg (c : Ctx) (n : Nat) : Seg := Tab.get {} c.segs n

/-- The segment checks of R65 step 4 at an address field. -/
def checkSegment (s : State) (c : Ctx) (tag a : Nat) (acc : Acc) : Except (Nat × Nat) Unit :=
  let g := c.seg tag
  match acc.perms.find? (fun k => !(bit g.ctl (permBit k))) with
  | some k => .error (0x0B, k)
  | none =>
    if tag = 1 ∨ tag = 2 then
      match scratchOf s c.ply (w64 (tag * 2 ^ 60 + a)) with
      | some (q, o) => if o + acc.bytes ≤ (s.ply q).scrSize then .ok () else .error (0x0B, 3)
      | none => .error (0x0B, 3)
    else if limitOk g (if tag = 5 then a % 2 ^ 46 else a) acc.bytes then .ok ()
    else .error (0x0B, 3)

/-- The effective address of a base and an offset, or the first check of R65 that it fails, as cause and detail. -/
def checkAddr (s : State) (c : Ctx) (base : W64) (off : Int) (acc : Acc) : Except (Nat × Nat) W64 :=
  let tag := ptrTag base
  let a : Int := (ptrAddr base : Int) + off
  let y := s.ply c.ply
  if a < 0 ∨ ((2 ^ tagBits tag : Nat) : Int) ≤ a then .error (0x0A, 2)
  else if 7 ≤ tag then .error (0x0A, 0)
  else if (if tag = 1 ∨ tag = 2 ∨ tag = 3 then ptrPol base ≠ 0 else 5 ≤ ptrPol base) then .error (0x0A, 1)
  else
    let n := a.toNat
    if tag = 5 ∧ (s.reel y.reel).nrank ≤ n / 2 ^ 46 then .error (0x0A, 4)
    else if tag = 2 ∧ (s.skein y.skein).plies.length ≤ n / 2 ^ 20 then .error (0x0A, 4)
    else if !(acc.tags.contains tag) then .error (0x0A, 3)
    else if acc.write && tag == 3 then .error (0x0E, 0)
    else if n % acc.align ≠ 0 then .error (0x0C, 0)
    else
      match checkSegment s c tag n acc with
      | .error e => .error e
      | .ok () => .ok (w64 (tag * 2 ^ 60 + ptrPol base * 2 ^ 57 + n))

/-- The low 64 bits of the unchecked sum of R65, which %trapaddr holds (R344). -/
def uncheckedSum (base : W64) (off : Int) : W64 := base + w64i off

/-! ## Translation of an access (R253) -/

/-- Where an access goes: a place (with the virtual address its log entry records), a translation fault, or a wait for ATS. -/
inductive Tgt where
  | here (p : Place) (va : W64)
  | fault (cause : Nat) (host : Bool) (page : Nat)
  | wait
  deriving DecidableEq, Repr

/-- Ask once: a request that this maker has outstanding is not sent again. -/
def askOnce (s : State) (c : Ctx) (a : Ask) (o : Nat → Out) (link : Option Nat) : State :=
  if s.plat.reqs.any (fun r => r.who == c.who && r.ask == a) then s
  else ask (s.send (o s.fresh)) c.who c.vdev a link

/-- The device virtual address of a local access (R67). -/
def localVa (s : State) (c : Ctx) (lane a : Nat) : Nat :=
  let g := c.seg 6
  (ptrAddr g.base + (1024 * (s.ply c.ply).slot + 32 * c.strand + lane) * bits g.ctl 0 57 + a) % 2 ^ 57

/-- A page of a translation register translates an access within its window (R260). -/
def viaX (x : Option XReg) (off : Int) : Option Page :=
  match x with
  | some r => if 0 ≤ off ∧ off < r.window then some r.page else none
  | none => none

/-- Translate the effective address of an access; off is its byte offset from the base for a bound register. -/
def translateAcc (s : State) (c : Ctx) (x : Option XReg) (off : Int) (ea : W64) (kind lane : Nat) : Tgt × State :=
  let a := ptrAddr ea
  let world (n : Nat) : Bool := bit (c.seg n).ctl 60
  match ptrTag ea with
  | 0 =>
    match viaX x off with
    | some p => if pagePermits p kind then (.here (.hbm (p.phys a)) ea, s) else (.fault 4 false (a / 4096), s)
    | none =>
      match translateDev s c.core c.vdev a kind (world 0) with
      | (.ok p, t) => (.here (.hbm (p.phys a)) ea, t)
      | (.fail n, t) => (.fault n false (a / 4096), t)
      | (.ats, t) => (.wait, t)
  | 3 => (.here (.ws (ptrAddr (c.seg 3).base + a)) ea, s)
  | 4 =>
    let pasid := bits (c.seg 4).base 0 20
    match viaX x off with
    | some p => if pagePermits p kind then (.here (.host (p.phys a)) ea, s) else (.fault 4 true (a / 4096), s)
    | none =>
      match translateHost s c.core c.vdev pasid a kind with
      | (.ok p, t) => (.here (.host (p.phys a)) ea, t)
      | (.fail n, t) => (.fault n true (a / 4096), t)
      | (.ats, t) =>
        if c.replies.contains (.atsDenied pasid (a / 4096) kind) then (.fault 1 true (a / 4096), t)
        else (.wait, askOnce t c (.ats pasid (a / 4096) kind) (fun id => .atsReq id (s.tag c.vdev) pasid (a / 4096) kind) none)
  | 5 => (.here (.peer (a / 2 ^ 46) (a % 2 ^ 46)) ea, s)
  | 6 =>
    let va := localVa s c lane a
    match translateDev s c.core c.vdev va kind (world 6) with
    | (.ok p, t) => (.here (.hbm (p.phys va)) (w64 (ptrPol ea * 2 ^ 57 + va)), t)
    | (.fail n, t) => (.fault n false (va / 4096), t)
    | (.ats, t) => (.wait, t)
  | _ =>
    match scratchOf s c.ply ea with
    | some (q, o) => (.here (.scratch q o) ea, s)
    | none => (.fault 1 false 0, s)

/-! ## Reads (R182, R183, R233, R236) -/

/-- What a read gives: bytes with the poison that comes with them (some true: unrecoverable, R368) and whether an error lay in a held
entry of the reader; a wait; or that a peer is unreachable or refuses. -/
inductive Rd where
  | got (b : Bytes) (poison : Option Bool) (heldBad : Bool)
  | wait
  | lost
  | refused
  deriving DecidableEq, Repr

/-- Log entries of a core for a sector that a ply may read, youngest first (R236). -/
def visibleEntries (s : State) (c p : Nat) (space : LogSpace) (sec : Nat) : List LogEntry :=
  ((s.core c).log.filter (fun e => e.space == space && e.sector == sec && (e.ply == p || !e.held))).reverse

/-- One byte from the log: value, bits covered, and the entries that gave them. -/
def byteFromLog (es : List LogEntry) (o : Nat) : Byte × Byte × List LogEntry :=
  es.foldl (fun a e =>
    match Tab.find o e.cells with
    | some c =>
      let m := c.2 &&& ~~~a.2.1
      if m = 0 then a else (a.1 ||| (c.1 &&& m), a.2.1 ||| m, e :: a.2.2)
    | none => a) (0, 0, [])

/-- n bytes of a sector over a base: the bytes, the entries read, and whether the base was read. -/
def overLog (es : List LogEntry) (o n : Nat) (base : Nat → Byte) : Bytes × List LogEntry × Bool :=
  let r := (upFrom o n).map (fun k => (k, byteFromLog es k))
  (r.map (fun x => x.2.1 ||| (base x.1 &&& ~~~x.2.2.1)), r.flatMap (fun x => x.2.2.2), r.any (fun x => x.2.2.1 != 0xFF))

/-- An ordinary entry read with an uncorrectable error becomes poisoned, and its ply is contained (R371). -/
def detectEntry (s : State) (c : Nat) (e : LogEntry) : State :=
  let s := seeEntry s c e
  if e.bad && !e.held then
    entryError (s.modCore c (fun x => { x with log := x.log.map (fun g => if g.serial == e.serial then { g with poison := true, bad := false } else g) })) e
  else s

/-- Poison that a reader ply takes from log entries (R368). -/
def entryPoison (p : Nat) (es : List LogEntry) : Option Bool :=
  let l := es.filter (fun e => e.poison || (e.bad && !e.held))
  if l = [] then none else some (l.any (fun e => !(e.held && e.ply == p)))

/-- Combine two poisons. -/
def joinPoison (a b : Option Bool) : Option Bool :=
  match a, b with
  | some x, some y => some (x || y)
  | some x, none => some x
  | none, y => y

/-- Fill a sector into an L1 when the policy allocates there (R64); a sector that is there, pinned, is not filled (R244). [DESIGN CHOICE: log 27] -/
def fillL1 (s : State) (c key pol : Nat) (d : Bytes) (poison : Bool) : State :=
  if pol = 1 ∨ pol = 3 ∨ Tab.has (s.core c).l1 key then s
  else
    let s := evictL1 s c
    if (s.core c).l1.length < Config.l1Sectors then
      s.modCore c (fun k => { k with l1 := Tab.put key { data := (d.zip (upFrom 0 128)).foldl (fun m b => Mem.put m b.2 b.1) [], pins := [], poison := poison } k.l1 })
    else s

/-- Perform the REDs that a fragment has under way on a sector (R246): those of its strand, since a split and a fusion hand them on (R235).
[DEDUCED: log 79] -/
def ownReds (s : State) (c : Ctx) (sec : Nat) : State :=
  if s.reds = [] then s
  else performReds s (fun r => r.ofStrand c.ply c.strand && r.pa / 128 == sec)

/-- The bytes that replayed entries give a pinned sector, over the given ones (R243). -/
def overPins (s : State) (l : L1Sector) (m : Mem) : Mem := (pinEntries s l.pins).foldl (fun m e => mergeCells m 0 e.cells) m

/-- What a core's L1 holds of a sector: all of it, or the bytes of replayed entries, or nothing. -/
def inL1 (s : State) (c key : Nat) : Option L1Sector := Tab.find key (s.core c).l1

/-- Replayed bytes of a sector that the L1 holds in part, as the oldest of the entries to read (R243). -/
def partEntry (s : State) (c : Ctx) (space : LogSpace) (sec key : Nat) : List LogEntry :=
  match inL1 s c.core key with
  | some l =>
    (match l.part with
     | some t => [{ serial := 0, ply := c.ply, vdev := c.vdev, space := space, sector := sec, vaddr := 0, policy := 0, cells := t, held := false, pub := none,
                    created := 0, touched := 0, ext := false, poison := l.poison, bad := false }]
     | none => [])
  | none => []

/-- A sector read at its home for a core, which fills the L1 (R64, R183). -/
def missHbm (s : State) (c pa pol : Nat) : State :=
  let s := homeTouch s pa pol
  fillL1 s c (l1Key 0 (pa / 128)) pol (homeRead s (pa / 128 * 128) 128) (homePoisoned s (pa / 128))

/-- Read device memory through the core (R183): the log, then the L1 or the home. A load of policy 011 reads the home, and neither uses nor leaves
an older copy in the L1 (R64, R251); what pins the sector drains first, and where a release under way keeps it from that the replayed bytes are taken
from the pinned sector (R244). -/
def readHbm (s : State) (c : Ctx) (pa n pol : Nat) : Rd × State :=
  let sec := pa / 128
  let key := l1Key 0 sec
  let s := ownReds s c sec
  let es := visibleEntries s c.core c.ply .dev sec
  let part := overLog es (pa % 128) n (fun _ => 0)
  let s := part.2.1.foldl (fun s e => detectEntry s c.core e) s
  let bad := part.2.1.any (fun e => e.bad && e.held)
  if !part.2.2 then (.got part.1 (entryPoison c.ply part.2.1) bad, s)
  else
    let s := if pol = 3 then homeTouch (leaveL1 s c.core key) pa 3 else s
    match inL1 s c.core key with
    | some l =>
      let m := if pol = 3 then overPins s l (sectorNow s sec) else l.data
      (.got (overLog es (pa % 128) n (fun o => Mem.byte m o)).1
        (joinPoison (entryPoison c.ply part.2.1) (if l.poison then some true else none)) bad, s)
    | none =>
      let s := if pol = 3 then s else missHbm s c.core pa pol
      (.got (overLog es (pa % 128) n (fun o => Mem.byte s.home (sec * 128 + o))).1
        (joinPoison (entryPoison c.ply part.2.1) (if homePoisoned s sec then some true else none)) bad, s)

/-- Bytes that no rule gives. [DESIGN CHOICE: log 39] -/
def freeBytes (d n : Nat) : Bytes := (upFrom 0 n).map (fun i => Config.freeByte (16 * d + i))

/-- Read the weight store through the core: L1, or the store (R183, R233). -/
def readWs (s : State) (c : Ctx) (o n : Nat) : Rd × State :=
  let sec := o / 128
  match inL1 s c.core (l1Key 1 sec) with
  | some l => (.got (Mem.read l.data (o % 128) n) (if l.poison then some true else none) false, s)
  | none =>
    let s := countFor (detectWs s sec) c.vdev
    let hurt := Tab.get false s.wsPoison sec
    (.got (Mem.read s.ws o n) (if hurt then some true else none) false, fillL1 s c.core (l1Key 1 sec) 0 (Mem.read s.ws (sec * 128) 128) hurt)

/-- A whole sector of host memory for a maker of accesses: the L1's, or the answer to its read request on port A, which fills the L1 unless that has
dropped sectors since the request was made (R183, R243, R264). -/
def hostSectorOf (s : State) (c : Ctx) (pa pol : Nat) : Rd × State :=
  let sec := pa / 128
  match (inL1 s c.core (l1Key 2 sec)).filter (fun l => l.part.isNone) with
  | some l => (.got (Mem.read l.data 0 128) (if l.poison then some true else none) false, s)
  | none =>
    match c.replies.findSome? (fun r => match r with
        | .hostSector id q d => if q == sec * 128 then some (id, d) else none
        | _ => none) with
    | some (id, d) => (.got d none false, if (s.core c.core).dropped ≤ id then fillL1 s c.core (l1Key 2 sec) pol d false else s)
    | none =>
      if c.replies.contains (.hostLost (sec * 128)) then (.got (freeBytes s.draws 128) none false, { s with draws := s.draws + 1 })
      else (.wait, askOnce s c (.hostRead (sec * 128)) (fun id => .hostReadReq id (s.tag c.vdev) (sec * 128)) none)

/-- Bytes of a peer's exported window for a maker of accesses (R66, R335), with the policy of the pointer (R64); this package's own is reached by the
same rules, and a device that sleeps there holds the load and wakes (R305). -/
def peerBytes (s : State) (c : Ctx) (rank off n pol : Nat) : Rd × State :=
  match c.replies.findSome? (fun r => match r with
      | .peerData k o d bad => if k == rank && o == off then some (d, bad) else none
      | _ => none) with
  | some (d, hurt) => (.got d (if hurt then some true else none) false, s)
  | none =>
    if c.replies.contains (.peerRefused rank off) then (.refused, s)
    else if c.replies.contains (.peerUnreachable rank off) then (.lost, s)
    else if s.plat.reqs.any (fun r => r.who == c.who && r.ask == .peerLoad rank off n) then (.wait, s)
    else
      let s := touchRank s (s.ply c.ply).reel rank
      match rankTarget s (s.ply c.ply).reel rank with
      | none => (.lost, s)
      | some (f, v) =>
        if s.pf0.faddr == 0xFFFF then (.lost, s)
        else if f == s.pf0.faddr.toNat then
          match holdInbound s v (.peerRequest f f v s.fresh 0 ⟨off, pol⟩ n 0 []) with
          | some t => (.wait, ask t c.who c.vdev (.peerLoad rank off n) none)
          | none =>
            let t := s.vdev v
            let va := t.xbase.toNat % 2 ^ 57 + off
            if t.exist && !t.stopped && decide (off + n ≤ t.xbytes.toNat) then
              let s := walkTouch s v va
              match translateWalk s v va 0 with
              | .ok p =>
                let s := homeTouch s (p.phys va) pol
                (.got (homeRead s (p.phys va) n) (if homePoisoned s (p.phys va / 128) then some true else none) false, s)
              | _ => (.refused, s)
            else (.refused, s)
        else
          match routeOf s (coreIo c.core) f with
          | none => (.lost, s)
          | some l => (.wait, askOnce (countFor s c.vdev) c (.peerLoad rank off n) (fun id => .peerReq id l f (s.tag c.vdev) v 0 off n 0 pol []) (some l))

/-- Read n bytes at o of a sector that lies outside the package's own memory: the log and replayed bytes first, the rest of what base gives, whose
byte 0 is the sector's byte start. -/
def readOutside (s : State) (c : Ctx) (space : LogSpace) (sec key o n start : Nat) (base : State → Rd × State) : Rd × State :=
  let es := visibleEntries s c.core c.ply space sec ++ partEntry s c space sec key
  let part := overLog es o n (fun _ => 0)
  let s := part.2.1.foldl (fun s e => detectEntry s c.core e) s
  let bad := part.2.1.any (fun e => e.bad && e.held)
  let po := entryPoison c.ply part.2.1
  if !part.2.2 then (.got part.1 po bad, s)
  else
    match base s with
    | (.got d hurt _, t) => (.got (overLog es o n (fun i => d.getD (i - start) 0)).1 (joinPoison po hurt) bad, t)
    | r => r

/-- Read host memory through the core (R183). -/
def readHost (s : State) (c : Ctx) (pa n pol : Nat) : Rd × State :=
  readOutside s c (.host (bits (c.seg 4).base 0 20)) (pa / 128) (l1Key 2 (pa / 128)) (pa % 128) n 0 (fun s => hostSectorOf s c pa pol)

/-- Read a peer's window through the core (R66, R183). -/
def readPeer (s : State) (c : Ctx) (rank off n pol : Nat) : Rd × State :=
  readOutside s c (.peer rank) (off / 128) (l1Key 3 (peerSector rank (off / 128))) (off % 128) n (off % 128) (fun s => peerBytes s c rank off n pol)

/-- Read n bytes at a place for a maker of accesses. -/
def readPlace (s : State) (c : Ctx) (p : Place) (n pol : Nat) : Rd × State :=
  match p with
  | .hbm pa => readHbm s c pa n pol
  | .ws o => readWs s c o n
  | .scratch q o =>
    let s := detectScratch s q (o / 128)
    (.got (scrRead s q o n) ((scrPoisoned s q o n).map (fun u => u || q != c.ply)) false, s)
  | .host pa => readHost s c pa n pol
  | .peer r o => readPeer s c r o n pol

/-! ## Writes (R183, R236) -/

/-- The log space and sector that a store at a place needs an entry for. -/
def placeEntry (c : Ctx) (p : Place) : Option (LogSpace × Nat) :=
  match p with
  | .hbm pa => some (.dev, pa / 128)
  | .host pa => some (.host (bits (c.seg 4).base 0 20), pa / 128)
  | .peer r o => some (.peer r, o / 128)
  | _ => none

/-- Write a run of cells (offset in the sector, value and mask) at a place: the store log, or the scratch bank in place; poison comes with
them when they were copied from a poisoned sector (R366). -/
def writePlaceP (s : State) (c : Ctx) (p : Place) (va : W64) (pol : Nat) (cells : Tab (Byte × Byte)) (poison : Bool) : State :=
  let base (a : Nat) : W64 := w64 (va.toNat - a % 128)
  match p with
  | .hbm pa => logStore s c.ply .dev (pa / 128) (base pa) pol cells poison
  | .host pa => logStore s c.ply (.host (bits (c.seg 4).base 0 20)) (pa / 128) (base pa) pol cells poison
  | .peer r o => logStore s c.ply (.peer r) (o / 128) (base o) pol cells poison
  | .scratch q o =>
    let a := o / 128 * 128
    let first := a + (cells.head?.map (·.1)).getD 0
    let s := scrWrite s q first (cells.map (fun e => mergeByte (Mem.byte (s.ply q).scratch (a + e.1)) e.2.1 e.2.2))
    if poison then scrPoisonBytes s q first cells.length else s
  | .ws _ => s

/-- A write of clean data. -/
def writePlace (s : State) (c : Ctx) (p : Place) (va : W64) (pol : Nat) (cells : Tab (Byte × Byte)) : State :=
  writePlaceP s c p va pol cells false

/-- A scratch range is held for reading by a transfer of the ply under way (R196). -/
def rangeRead (s : State) (p q off n : Nat) : Bool :=
  s.xfers.any (fun x => x.ply == p && x.rd.any (fun r => r.1 == q && decide (r.2.1 < off + n) && decide (off < r.2.1 + r.2.2)))

/-- A place that a later write of the ply must wait for. -/
def writeHeld (s : State) (p n : Nat) (pl : Place) : Bool :=
  match pl with
  | .scratch q o => rangeRead s p q o n
  | _ => false

/-- Protection ends with bit 12 before a store to host or peer space (R45). -/
def endForTag (s : State) (p tag : Nat) : State := if tag = 4 ∨ tag = 5 then endProtection s p 12 else s

/-- Room for the new entries of a maker's stores to these places: the state with it, or a state in which the stores still wait (R239). -/
def roomFor (s : State) (c : Ctx) (ps : List Place) : Except State State :=
  let n := newEntries s c.ply (ps.filterMap (placeEntry c))
  if n = 0 then .ok s
  else
    let r := makeRoom s c.core n Config.logEntries
    if r.2 then .error r.1 else .ok r.1

/-- There is room in the log for a store of the issuing fragment, else it is not ready (R239). -/
def storeReady (s : State) (ps : List Place) : Except Stop State :=
  match roomFor s (ctxOf s) ps with
  | .ok t => .ok t
  | .error t => .error (hold t)

/-! ## Lanes (R181, R344, R373) -/

/-- A lane of an access: its byte offset from the base, and a check it has failed before those of R65 (R69). -/
structure LaneOff where
  lane : Nat
  off  : Int
  pre  : Option (Nat × Nat)
  deriving DecidableEq, Repr

/-- A lane that has passed its checks. -/
structure LaneAt where
  lane : Nat
  off  : Int
  ea   : W64
  deriving DecidableEq, Repr

/-- A lane that has been translated. -/
structure LaneTo where
  lane : Nat
  ea   : W64
  place : Place
  va   : W64
  deriving DecidableEq, Repr

/-- A lane that a translation has failed. -/
structure LaneFault where
  lane : Nat
  ea   : W64
  cause : Nat
  host : Bool
  page : Nat
  deriving DecidableEq, Repr

/-- The first check that a lane fails, as cause and detail, or its effective address. -/
def checkLane (s : State) (c : Ctx) (base : W64) (acc : Acc) (l : LaneOff) : Except (Nat × Nat) W64 :=
  match l.pre with
  | some e => .error e
  | none => checkAddr s c base l.off acc

/-- Stage 1 (R373): an active lane that fails traps the instruction; a helper lane that fails drops out. -/
def checkLanes (s : State) (c : Ctx) (base : W64) (acc : Acc) (ls : List LaneOff) : Except Stop (List LaneAt) :=
  let fails := ls.filterMap (fun l =>
    match checkLane s c base acc l with
    | .error e => if inMask s.curFrag.mask l.lane then some (l, e) else none
    | .ok _ => none)
  match fails with
  | f :: _ =>
    .error (.trap { cause := f.2.1, detail := f.2.2, lanes := maskOf (fails.map (fun x => x.1.lane)), addr := uncheckedSum base f.1.off })
  | [] =>
    .ok (ls.filterMap (fun l =>
      match checkLane s c base acc l with
      | .ok ea => some { lane := l.lane, off := l.off, ea := ea }
      | .error _ => none))

/-- What stage 2 gives: lanes translated, lanes failed, whether some lane waits for ATS. -/
structure Stage2 where
  tos   : List LaneTo
  fails : List LaneFault
  waits : Bool
  deriving DecidableEq, Repr

/-- Stage 2 (R373): every lane is translated. -/
def translateLanes (s : State) (c : Ctx) (x : Option XReg) (kind : Nat) (ls : List LaneAt) : Stage2 × State :=
  ls.foldl (fun r l =>
    match translateAcc r.2 c x l.off l.ea kind l.lane with
    | (.here p va, t) => ({ r.1 with tos := r.1.tos ++ [{ lane := l.lane, ea := l.ea, place := p, va := va }] }, t)
    | (.fault n h g, t) => ({ r.1 with fails := r.1.fails ++ [{ lane := l.lane, ea := l.ea, cause := n, host := h, page := g }] }, t)
    | (.wait, t) => ({ r.1 with waits := true }, t)) ({ tos := [], fails := [], waits := false }, s)

/-- A number of a list once. -/
def distinct (l : List Nat) : List Nat := l.foldl (fun m a => if m.contains a then m else m ++ [a]) []

/-- The translation kind as a fault entry writes it (R377). -/
def faultInfo (c : Ctx) (kind : Nat) (fs : List LaneFault) (whole : Bool) : FaultInfo :=
  let pasid := bits (c.seg 4).base 0 20
  match fs with
  | [] => { cause := 0, kind := kind, host := false, pasid := pasid, addr := 0, lanes := 0, pages := [] }
  | f :: _ =>
    { cause := f.cause, kind := kind, host := f.host, pasid := pasid, addr := f.ea,
      lanes := if whole then 0 else maskOf (fs.map (·.lane)), pages := distinct (fs.map (fun g => g.page)) }

/-- Park the fragment for lanes that failed, its other lanes performed. -/
def parkLanes (s : State) (c : Ctx) (kind : Nat) (fs : List LaneFault) : Eff :=
  match fs with
  | [] => .ok s
  | _ => .error (.stay (parkFault s (faultInfo c kind fs false) (some (maskOf (fs.map (·.lane))))))

/-- Failing lanes of a query: it parks as a whole, with a mask of 0, and keeps the lanes that it has not performed (R222, R373). -/
def parkQuery (s : State) (kind : Nat) (fs : List LaneFault) : Eff :=
  match fs with
  | [] => .ok s
  | _ => .error (.stay (parkFault s { faultInfo (ctxOf s) kind fs false with lanes := 0 } (some (maskOf (fs.map (·.lane))))))

/-- The lanes still to perform: all, or those of the unfinished mask (R374). -/
def toPerform (s : State) (m : W32) : W32 :=
  match s.curFrag.unfinished with
  | some u => m &&& u
  | none => m

/-! ## Consumed poison (R367 to R369) -/

/-- The staged-range entry that holds a consumed weight-store sector goes (R368). -/
def dropStaged (s : State) (v : Nat) (p : Place) : State :=
  match p with
  | .ws o =>
    s.modVdev v (fun d => { d with staged := d.staged.filter (fun e =>
      !(decide (d.wsbase * 2 ^ 26 + e.wsoff < o / 128 * 128 + 128) && decide (o / 128 * 128 < d.wsbase * 2 ^ 26 + e.wsoff + e.bytes))) })
  | _ => s

/-- The queue of the issuing ply accepts poison (R266, R369). -/
def curAccepts (s : State) : Bool := (s.queue s.curPly.queue).accepts

/-- The issuing fragment consumes an error, unless what it read has already brought its ply's containment on (R371). [DEDUCED: log 48] -/
def consumeHere (s : State) (e : Consumed) : Stop :=
  .stay (if doomed s s.iss.ply then s else consumeError s s.iss.ply { e with pc := s.iss.w.toNat, strand := s.iss.strand, frag := s.iss.frag })

/-- One record of poison accepted by an instruction (R369). -/
def acceptRecord (s : State) (lanes : W32) (addr : W64) : State :=
  let r := plyRecord s s.iss.ply s.iss.strand s.iss.frag
  writeRecord s { r with severity := 0, cls := 6, cause := 3, lanes := lanes, address := addr, pc := s.iss.w.toNat }

/-- The error that lanes of a load consume: lane, address and what the read gave. -/
def loadErrors (l : List (LaneTo × Rd)) (accepts : Bool) : List (LaneTo × Consumed) :=
  l.filterMap (fun x =>
    match x.2 with
    | .got _ po true => some (x.1, { cls := 6, cause := 5, unrec := !accepts && po.getD false })
    | .got _ (some u) false => if accepts then none else some (x.1, { cls := 6, cause := 2, unrec := u })
    | .lost => some (x.1, { cls := 6, cause := 8 })
    | .refused => some (x.1, { cls := 6, cause := 9, unrec := true, kill := true })
    | _ => none)

/-- One error for all the lanes: the lowest lane's cause, the hardest fate. -/
def joinErrors (l : List (LaneTo × Consumed)) : Option Consumed :=
  match l with
  | [] => none
  | x :: _ =>
    some { x.2 with lanes := maskOf (l.map (fun e => e.1.lane)), addr := x.1.ea, unrec := l.any (fun e => e.2.unrec), kill := l.any (fun e => e.2.kill) }

/-- Read every lane. [DESIGN CHOICE: log 28] -/
def readLanes (s : State) (c : Ctx) (n pol : Nat) (ls : List LaneTo) : List (LaneTo × Rd) × State :=
  ls.foldl (fun r l => let q := readPlace r.2 c l.place n pol; (r.1 ++ [(l, q.1)], q.2)) ([], s)

/-- Some read waits. -/
def anyWait (l : List (LaneTo × Rd)) : Bool := l.any (fun x => x.2 == .wait)

/-- The bytes that lanes take: zeros for a lane whose poison is accepted. -/
def laneBytes (l : List (LaneTo × Rd)) (n : Nat) : List (Nat × Bytes) :=
  l.map (fun x =>
    match x.2 with
    | .got b none _ => (x.1.lane, b)
    | _ => (x.1.lane, bytesLE 0 n))

/-- Lanes whose poison is accepted. -/
def acceptedLanes (l : List (LaneTo × Rd)) : List LaneTo :=
  l.filterMap (fun x => match x.2 with
    | .got _ (some _) _ => some x.1
    | _ => none)

/-- Loads of lanes: what each lane read, and the lanes whose translation failed. The write of a register is the caller's. -/
def loadLanes (s : State) (base : W64) (x : Option XReg) (acc : Acc) (ls : List LaneOff) :
    Except Stop (List (Nat × Bytes) × List LaneFault × State) := do
  let c := ctxOf s
  let ats ← checkLanes s c base acc ls
  let (g, s) := translateLanes s c x acc.kind ats
  if g.waits then .error (hold s)
  else
    let (rs, s) := readLanes s c acc.bytes (ptrPol base) g.tos
    if anyWait rs then .error (hold s)
    else
      match joinErrors (loadErrors rs (curAccepts s)) with
      | some e => .error (consumeHere (rs.foldl (fun s r => if (loadErrors [r] false) != [] then dropStaged s c.vdev r.1.place else s) s) e)
      | none =>
        let took := acceptedLanes rs
        let s := match took with
          | [] => s
          | a :: _ => acceptRecord s (maskOf (took.map (·.lane))) a.ea
        .ok (laneBytes rs acc.bytes, g.fails.filter (fun f => inMask s.curFrag.mask f.lane), s)

/-- Where the lanes of a store go (R182, R236, R373): checked, translated, free of transfers that read there, with room in the log; the store issues, and only then ends
protection where it does (R239, R326). -/
def storeTargets (s : State) (base : W64) (x : Option XReg) (acc : Acc) (ls : List LaneOff) : Except Stop (Stage2 × State) := do
  let c := ctxOf s
  let ats ← checkLanes s c base acc ls
  let (g, s) := translateLanes s c x acc.kind ats
  if g.waits then .error (hold s)
  else if g.tos.any (fun t => writeHeld s c.ply acc.bytes t.place) then .error (hold s)
  else
    let s ← storeReady s (g.tos.map (·.place))
    .ok (g, if ats = [] then s else endForTag s c.ply (ptrTag base))

/-- Write the cells of lanes at their targets. -/
def storeAll (s : State) (base : W64) (g : Stage2) (cells : Nat → Nat → Tab (Byte × Byte)) : State :=
  g.tos.foldl (fun s t => writePlace s (ctxOf s) t.place t.va (ptrPol base) (cells t.lane (ptrAddr t.va % 128))) s

/-- Stores of lanes: cells of each lane at its address, in ascending lane order (R182, R236). -/
def storeLanes (s : State) (base : W64) (x : Option XReg) (acc : Acc) (ls : List LaneOff) (cells : Nat → Nat → Tab (Byte × Byte)) :
    Except Stop (List LaneFault × State) := do
  let (g, s) ← storeTargets s base x acc ls
  .ok (g.fails, storeAll s base g cells)

/-! ## Accesses without lanes (R134, R373) -/

/-- Check one address; a failure traps with no lanes. -/
def checkOne (s : State) (base : W64) (off : Int) (acc : Acc) : Except Stop W64 :=
  match checkAddr s (ctxOf s) base off acc with
  | .ok ea => .ok ea
  | .error e => .error (.trap { cause := e.1, detail := e.2, addr := uncheckedSum base off })

/-- Translate one address; a failure parks the fragment as a whole. -/
def translateOne (s : State) (x : Option XReg) (off : Int) (ea : W64) (kind fkind : Nat) : Except Stop (Place × W64 × State) :=
  let c := ctxOf s
  match translateAcc s c x off ea kind 0 with
  | (.here p va, t) => .ok (p, va, t)
  | (.fault n h g, t) =>
    .error (.stay (parkFault t (faultInfo c fkind [{ lane := 0, ea := ea, cause := n, host := h, page := g }] true) none))
  | (.wait, t) => .error (hold t)

/-- Read one place for the issuing fragment, with the fate of what it consumes. [DESIGN CHOICE: log 28] -/
def readOne (s : State) (ea : W64) (p : Place) (n pol : Nat) (accept : Bool) : Except Stop (Bytes × State) :=
  let c := ctxOf s
  let r := readPlace s c p n pol
  let one : List (LaneTo × Rd) := [({ lane := 0, ea := ea, place := p, va := ea }, r.1)]
  match r.1 with
  | .wait => .error (hold r.2)
  | _ =>
    match joinErrors (loadErrors one (accept && curAccepts s)) with
    | some e => .error (consumeHere (dropStaged r.2 c.vdev p) { e with lanes := 0 })
    | none =>
      match r.1 with
      | .got b none _ => .ok (b, r.2)
      | _ => .ok (bytesLE 0 n, acceptRecord r.2 0 ea)

/-! ## Releases and acquires of the issuing fragment (R241, R243) -/

/-- Keep a maker's release under way, or forget it. -/
def setFence (s : State) (c : Ctx) (f : Option Fence) : State :=
  match c.who with
  | .frag p k i => s.modFrag p k i (fun x => { x with fence := f })
  | .xfer id => s.modXfer id (fun x => { x with fence := f })
  | _ => s

/-- Release for a maker at a scope: the state and whether it is performed (R241). It publishes once; reel scope then waits for peers'
acknowledgements, system scope for a flushing read of host port A too. At die scope and wider it begins when no earlier release of the bay at
reel or system scope is under way, whose order it must keep (R242); one at skein scope begins when what its publication drains can drain.
[DEDUCED: log 80] -/
def releaseFor (s : State) (c : Ctx) (sc : Nat) : State × Bool :=
  match c.fence with
  | some f => (s, f.met s)
  | none =>
    if sc ≠ 0 ∧ bayFenced s (coreBay c.core) ∧ (scDie ≤ sc ∨ overtaken s c.core ≠ []) then (s, false)
    else
      let s := releaseLocal s c.core sc
      let f := newFence s sc
      if sc < scReel ∨ f.met s then (s, true)
      else (setFence (addFence (askFlush s c.who c.vdev f.host) c.core f) c (some f), false)

/-- The issuing fragment's release: held until it is performed. -/
def releaseHere (s : State) (sc : Nat) : Except Stop State :=
  let r := releaseFor s (ctxOf s) sc
  if r.2 then .ok r.1 else .error (hold r.1)

/-- An acquire of the issuing fragment can take effect now, else it waits (R244). -/
def needAcquire (s : State) (sc mask : Nat) : Except Stop Unit := need (canReplay s s.curCore sc mask) (hold s)

/-- The issuing fragment's acquire. -/
def acquireHere (s : State) (sc mask : Nat) : State := acquire s s.curCore sc mask

end Sys2Proof.Machine
end

