-- ==== Sys2Proof/Machine/Operands.lean ====
section
/-! DEFINITION. Operand forms: base fields (R52, R60), lane offsets (R65, R181), buffer records (R68, R69), size codes (R184), pairs and
groups, and scope flags. -/
namespace Sys2Proof.Machine

/-- A base field: a scalar, a special source, or a bound translation register with its virtual base (R60). -/
def readBase (s : State) (f : BitVec 8) : Except Stop (W64 × Option XReg) :=
  let n := f.toNat
  if 224 ≤ n ∧ n < 240 then
    match Tab.find (n - 224) s.cur.x with
    | some x => .ok (x.base, some x)
    | none => .error (illegalOperand 0)
  else (readS s f).map (fun v => (v, none))

/-- The offsets of the lanes of a mask: signed bytes from register vo (R181). -/
def byteOffsets (s : State) (m : W32) (vo : Nat) : List LaneOff :=
  (lanesOf m).map (fun l => { lane := l, off := (vreg s vo l).toInt, pre := none })

/-- The byte offsets of a nibble store, whose lane offset counts nibbles (R184). -/
def nibbleOffsets (s : State) (m : W32) (vo : Nat) : List LaneOff :=
  (lanesOf m).map (fun l => { lane := l, off := (vreg s vo l).toInt / 2, pre := none })

/-- Bytes of a size code of R184; a nibble lies in one byte. -/
def sizeBytes (sz : Nat) : Nat :=
  match sz with
  | 0 => 1
  | 1 => 2
  | 2 => 4
  | 3 => 8
  | 4 => 16
  | 5 => 1
  | 6 => 2
  | _ => 4

/-- The registers that a size code reads or writes: a pair for .Q. -/
def sizeRegs (sz vd : Nat) : List Nat := if sz = 4 then [vd, vd + 1] else [vd]

/-- What a load of a size code writes to vd (R184). -/
def loadValue (sz : Nat) (b : Bytes) : W64 :=
  let v := natLE b
  match sz with
  | 0 => sext64 (BitVec.ofNat 8 v)
  | 1 => sext64 (BitVec.ofNat 16 v)
  | 2 => sext64 (BitVec.ofNat 32 v)
  | _ => w64 v

/-- The cells that a store of a size code writes for a lane at an offset of a sector (R184); the nibble offset n chooses the half. -/
def storeCellsOf (s : State) (sz vd : Nat) (nib : Nat → Int) (lane o : Nat) : Tab (Byte × Byte) :=
  let v := (vreg s vd lane).toNat
  if sz = 4 then cellsOf o (bytesLE v 8 ++ bytesLE (vreg s (vd + 1) lane).toNat 8)
  else if sz = 5 then
    if nib lane % 2 = 0 then [(o, (BitVec.ofNat 8 (v % 16), 0x0F#8))] else [(o, (BitVec.ofNat 8 (v % 16 * 16), 0xF0#8))]
  else cellsOf o (bytesLE v (sizeBytes sz))

/-! ## Buffer records (R68, R69) -/

/-- A buffer record, checked. -/
structure BufRec where
  base : W64
  mode : Nat
  extent : Nat
  stride0 : Nat
  stride1 : Nat
  dim0 : Nat
  dim1 : Nat
  deriving DecidableEq, Repr

/-- The format codes of R77 that a buffer record may name. -/
def formatOk (n : Nat) : Bool := [1, 2, 3, 4, 9, 10, 11, 12, 16, 17, 18, 19, 20, 21, 23].contains n

/-- The buffer record s[4q]-s[4q+3]; mode 11, reserved bits or an undefined format trap (R68). bm chooses the bounds mode (R186). -/
def readBuf (s : State) (q bm : Nat) : Except Stop BufRec :=
  let w1 := sreg s (4 * q + 1)
  let w2 := sreg s (4 * q + 2)
  let w3 := sreg s (4 * q + 3)
  let mode := bits w1 46 2
  if mode = 3 ∨ bits w1 48 16 ≠ 0 ∨ !(formatOk (bits w1 40 6)) then .error (illegalOperand 2)
  else
    .ok { base := sreg s (4 * q), mode := if bm = 0 then mode else bm - 1, extent := bits w1 0 40,
          stride0 := bits w2 0 32, stride1 := bits w2 32 32, dim0 := bits w3 0 32, dim1 := bits w3 32 32 }

/-- Where a lane's element lies: an offset from the base; none for a lane that is dropped; or a bounds fault (R69). -/
inductive BufAt where
  | off (n : Nat)
  | drop
  | bounds (n : Nat)
  deriving DecidableEq, Repr

/-- The element of a lane offset, of size bytes (R69). -/
def bufLane (b : BufRec) (v : W64) (size : Nat) : BufAt :=
  let i0 := bits v 0 32
  let i1 := bits v 32 32
  let out := decide (b.dim0 ≤ i0) || decide (b.dim1 ≤ i1)
  let clamp := out && b.mode == 2 && decide (0 < b.dim0) && decide (0 < b.dim1)
  let i0 := if clamp then Nat.min i0 (b.dim0 - 1) else i0
  let i1 := if clamp then Nat.min i1 (b.dim1 - 1) else i1
  let o := i0 * b.stride0 + i1 * b.stride1
  if (out && !clamp) || decide (b.extent < o + size) then
    (if b.mode = 0 then .bounds o else .drop)
  else .off o

/-- The lanes of a buffer access that touch memory or fault. [DEDUCED: log 29] -/
def bufOffsets (s : State) (b : BufRec) (m : W32) (vo size : Nat) : List LaneOff :=
  (lanesOf m).filterMap (fun l =>
    match bufLane b (vreg s vo l) size with
    | .off n => some { lane := l, off := n, pre := none }
    | .bounds n => some { lane := l, off := n, pre := some (0x0D, 0) }
    | .drop => none)

/-- The lanes of a buffer load that read zero without an access. -/
def bufZeros (s : State) (b : BufRec) (m : W32) (vo size : Nat) : W32 :=
  maskOf ((lanesOf m).filter (fun l => bufLane b (vreg s vo l) size == .drop))

/-! ## Scope flags of ASYNCA and ASYNCB (R194) -/

/-- The acquire that fl2[1] requests at scope sc3. -/
def acqFlag (sc : BitVec 3) (fl : BitVec 2) : Option Nat := if bit fl 1 then some sc.toNat else none
/-- The release that fl2[0] requests at scope sc3. -/
def relFlag (sc : BitVec 3) (fl : BitVec 2) : Option Nat := if bit fl 0 then some sc.toNat else none

end Sys2Proof.Machine
end

