-- ==== Sys2Proof/Machine/Flags.lean ====
section
/-! DEFINITION. Flags of %fpst (R56, R83, R129) and the shapes in which instructions write results and raise flags: lane by lane for a
vector, once for a scalar; the residue check of the FP64 datapath (R347, R349). -/
namespace Sys2Proof.Machine

/-- The flags that the active lanes of an instruction raise; helper lanes raise none (R56). -/
def lanesFlags (m : W32) (f : Nat → LaneRes) : Flags := (lanesOf m).foldl (fun a l => a ||| (f l).2) 0

/-- A vector result: every enabled lane of vd is written, the flags of the active ones are raised (R30, R37, R56). -/
def vecResult (s : State) (g d : Nat) (f : Nat → LaneRes) : State :=
  raise (setVecLanes s d (enabledLanes s g) (fun l => (f l).1)) (lanesFlags (activeLanes s g) f)

/-- Some of the lanes of a mask, at least one where there is one, whichever. -/
def someLanes (s : State) (lanes : W32) : W32 × State :=
  let m := (Config.freeWord s.draws).setWidth 32 &&& lanes
  (if m = 0 then lanes else m, { s with draws := s.draws + 1 })

/-- The residue check of an FP64 instruction (R349): an armed injection (R402 kind 10) makes it fail, and nothing is written. Which of a vector
instruction's enabled lanes fail is free; lanes is 0 for a scalar one. [DEDUCED: log 23] -/
def residueFp (s : State) (lanes : W32) : Except Stop Unit :=
  if (s.core s.curCore).resFp then
    let t := fireInjection (s.modCore s.curCore (fun x => { x with resFp := false })) 1 1
    let (m, t) := someLanes t lanes
    .error (consumeHere t { cls := 1, cause := 1, lanes := m })
  else .ok ()

/-- A vector instruction on registers rs with destination d. -/
def vecOp (s : State) (g d : Nat) (rs : List Nat) (f : Nat → LaneRes) : Eff := do
  needVecs s (d :: rs)
  .ok (vecResult s g d f)

/-- A vector instruction whose arithmetic is FP64. -/
def vecOp64 (s : State) (g d : Nat) (rs : List Nat) (f : Nat → LaneRes) : Eff := do
  needVecs s (d :: rs)
  (if enabledLanes s g = 0 then .ok () else residueFp s (enabledLanes s g))
  .ok (vecResult s g d f)

/-- A scalar result with flags: the write takes effect first, then the flags are set (R129). -/
def scalarResult (s : State) (d : BitVec 8) (r : LaneRes) : Eff := do
  let t ← writeS s d r.1
  .ok (raise t r.2)

end Sys2Proof.Machine
end

