-- ==== Sys2Proof/Machine/Fetch.lean ====
section
/-! DEFINITION. Fetching code (R106, R107, R253): the word at an index, the words of a chain (R108), and which indices begin a chain
(R113). -/
namespace Sys2Proof.Machine

/-- What a fetch of a word gives: the word, or a fetch trap at its byte address, or a park on its translation (R343, R364). -/
inductive Fetched where
  | word (w : W32)
  | trap (addr : W64)
  | park (i : FaultInfo)
  deriving DecidableEq, Repr

/-- The key of a code word that a core keeps. -/
def codeKey (vdev a : Nat) : Nat := 2 ^ 57 * vdev + a

/-- A word kept by the core and changed at the home since may be seen either way (R107). -/
def fetchAt (s : State) (c vdev a pa : Nat) : W32 × State :=
  let now (t : State) : W32 := wordOfBytes (homeRead t pa 4)
  match Tab.find (codeKey vdev a) (s.core c).code with
  | some v =>
    if v = now s then (v, s)
    else
      let t := { s with draws := s.draws + 1 }
      if Config.choice 2 s.draws % 2 = 0 then (v, t)
      else (now s, t.modCore c (fun x => { x with code := Tab.put (codeKey vdev a) (now s) x.code }))
  | none =>
    let t := homeTouch s pa 0
    (now t, t.modCore c (fun x => { x with code := Tab.put (codeKey vdev a) (now t) x.code }))

/-- Fetch word w of the issuing ply's code segment; under says that the index lies below word 0 (R141). -/
def fetchWord (s : State) (w : W32) (under : Bool) : Fetched × State :=
  let c := ctxOf s
  let base := (s.reel s.curPly.reel).desc.code
  let off : Int := 4 * ((w.toNat : Int) - (if under then 2 ^ 32 else 0))
  let addr := uncheckedSum base off
  match checkAddr s c base off ⟨[0], false, 4, 4, [0]⟩ with
  | .error _ => (.trap addr, s)
  | .ok ea =>
    if under then (.trap addr, s)
    else
      match translateDev s c.core c.vdev (ptrAddr ea) 3 (bit (c.seg 0).ctl 60) with
      | (.ok p, t) => let r := fetchAt t c.core c.vdev (ptrAddr ea) (p.phys (ptrAddr ea)); (.word r.1, r.2)
      | (.fail n, t) => (.park { cause := n, kind := 3, host := false, pasid := 0, addr := ea, lanes := 0, pages := [ptrAddr ea / 4096] }, t)
      | (.ats, t) => (.trap addr, t)

/-- The chain at an index: its words, up to the third word of the packet (R108). -/
def fetchChain (s : State) (w : W32) (under : Bool) : Nat → Except (Fetched × State) (List W32 × State)
  | 0 => .ok ([], s)
  | n + 1 =>
    match fetchWord s w under with
    | (.word v, t) =>
      if chainBit v && w.toNat % 3 != 2 then
        match fetchChain t (w + 1) under n with
        | .ok (l, u) => .ok (v :: l, u)
        | .error e => .error e
      else .ok ([v], t)
    | r => .error r

/-- The major opcode of a word (R114). -/
def majorOf (w : W32) : Nat := (fld w 25 6).toNat

/-- An index qualifies as a target (R113), or the fetch of the word before it that stands in the way. -/
def beginsChain (s : State) (w : W32) : Except (Fetched × State) (Bool × State) :=
  if w.toNat % 3 = 0 then .ok (true, s)
  else
    match fetchWord s (w - 1) false with
    | (.word v, t) => .ok (!(chainBit v) && majorOf v != 0x1B, t)
    | r => .error r

/-- Whether the issuing fragment stands at a word where it may: after a transfer of control, at one that begins a chain (R113). A target whose
preceding word cannot be fetched meets that fetch's fault. [DESIGN CHOICE: log 86] -/
def targetStands (s : State) : Except (Fetched × State) (Bool × State) :=
  if !s.curFrag.jumped || s.curFrag.under then .ok (true, s) else beginsChain s s.iss.w

/-- The fetch that fails as the issuing fragment reads its chain: of the word before a target, of a word of the chain, or of the word that a REP
at its end repeats (R113, R119, R343). -/
def failedFetch (s : State) : Option (Fetched × State) :=
  match targetStands s with
  | .error r => some r
  | .ok (_, t) =>
    match fetchChain t s.iss.w s.curFrag.under 3 with
    | .error r => some r
    | .ok (ws, u) =>
      let next := s.iss.w + BitVec.ofNat 32 ws.length
      if (ws.getLast?.map majorOf).getD 0 = 0x1B ∧ next.toNat % 3 ≠ 0 then
        match fetchWord u next false with
        | (.word _, _) => none
        | r => some r
      else none

/-- What a failed fetch does to the issuing fragment. -/
def fetchStop (r : Fetched × State) : Stop :=
  match r.1 with
  | .word _ => .stay r.2
  | .trap a => .trap { cause := 0x0F, addr := a }
  | .park i => .stay (parkFault r.2 i none)

/-- A target that must qualify when its instruction issues (R113, R144). Where the word before it cannot be fetched, the instruction meets that fetch's
fault. [DESIGN CHOICE: log 86] -/
def needTarget (s : State) (d : Int) : Except Stop State :=
  if targetUnder s.iss.w d then .error illegalTarget
  else
    match beginsChain s (target s.iss.w d) with
    | .ok (true, t) => .ok t
    | .ok (false, _) => .error illegalTarget
    | .error r => .error (fetchStop r)

end Sys2Proof.Machine
end

