-- ==== Sys2Proof/Machine/Arrive.lean ====
section
/-! DEFINITION. Arrival at ply and skein barriers (R44, R208), the ready commit, and the exit of strands and plies (R38, R148). -/
namespace Sys2Proof.Machine

/-- A strand has arrived: it has exited, or all its fragments stand at a barrier at one address and no deferred path remains. -/
def Strand.arrived (t : Strand) : Bool :=
  t.exited ||
  (t.frags != [] && t.frags.all (fun f => f.2.atBar && f.2.stack.isEmpty && t.frags.all (fun g => f.2.pc == g.2.pc)))

/-- Every live strand of a ply has arrived and at least one is live. -/
def Ply.arrived (y : Ply) : Bool := y.resident && !y.exiting && y.strands.all (fun t => t.2.arrived) && y.strands.any (fun t => !t.2.exited)

/-- A fragment of the ply stands at BAR.SKN. -/
def Ply.atSkein (y : Ply) : Bool :=
  y.strands.any (fun t => t.2.frags.any (fun f => match f.2.wait with
    | .bar b _ _ => b
    | _ => false))

/-- The plies that a barrier of a ply holds together: itself, or for BAR.SKN the live plies of its skein that have not exited. -/
def barrierPlies (s : State) (p : Nat) : List Nat :=
  if (s.ply p).atSkein then (s.skein (s.ply p).skein).plies.filter (fun q => s.livePly q && !(s.ply q).exiting) else [p]

/-- The barrier of a ply may commit: every ply it holds has arrived, for BAR.SKN at BAR.SKN. -/
def barrierMet (s : State) (p : Nat) : Bool :=
  s.livePly p && (s.ply p).arrived &&
    (barrierPlies s p).all (fun q => (s.ply q).arrived && (!((s.ply p).atSkein) || (s.ply q).atSkein))

/-- Have the ply commit when its barrier is met. -/
def checkBarrier (s : State) (p : Nat) : State := if barrierMet s p then s.later (.commit p) else s

/-- Check the barriers of every ply of a skein. -/
def checkBarriers (s : State) (k : Nat) : State := (s.skein k).plies.foldl (fun s q => if s.livePly q then checkBarrier s q else s) s

/-- The lanes of an exiting fragment leave it (R38): with quad mode they become helper lanes where their quad is still active, else
they leave every helper mask. -/
def leaveLanes (t : Strand) (i : Nat) (quad : Bool) : Strand :=
  let m := (t.fragAt i).mask
  if quad then
    { t with frags := t.frags.map (fun f => if f.1 == i then f else (f.1, { f.2 with helper := f.2.helper ||| (m &&& quadsOf f.2.mask &&& ~~~f.2.mask) })) }
  else
    { t with frags := t.frags.map (fun f =>
        (f.1, { f.2 with helper := f.2.helper &&& ~~~m
                         stack := f.2.stack.map (fun d => { d with helper := d.helper &&& ~~~m })
                         held := f.2.held.map (fun h => { h with helper := h.helper &&& ~~~m }) })) }

/-- The entry of an exiting fragment: lanes it held at an address go on there; else its children are released (R34), the entry becomes
empty and takes the oldest deferred path (R35). [DESIGN CHOICE: log 82] -/
def vacateEntry (t : Strand) (i : Nat) : Strand :=
  let f := t.fragAt i
  match f.held with
  | h :: rest =>
    t.modFrag i (fun f => { (freshFrag f) with held := rest, pc := h.addr, mask := h.mask, helper := h.helper, bank := h.bank, marks := h.marks,
                                               wait := .none, resv := none, jumped := false })
  | [] =>
    let kids (g : Nat × Frag) : Nat × Frag :=
      if g.2.parent == some i then (g.1, { g.2 with parent := f.parent, join := none }) else g
    fillEntry { t with frags := (Tab.del i t.frags).map kids } i f.stack f.parent false

/-- The lanes of a strand's fragment end (R148 steps 1 to 3); an EXIT at the trap level ends the trap level. -/
def exitFragment (t : Strand) (i : Nat) (quad : Bool) : Strand :=
  let t := { t with trap := { t.trap with on := false } }
  let t := (vacateEntry (leaveLanes t i quad) i).settle
  { t with exited := t.frags.isEmpty }

/-- The live fragments of a strand all stand at barrier instructions, not all at one word (R44): the one that came there last. -/
def strayBarrier (t : Strand) : Option (Nat × Frag) :=
  if t.trapped || t.frags == [] || !(t.frags.all (fun f => f.2.atBar)) || t.frags.all (fun f => t.frags.all (fun g => f.2.pc == g.2.pc)) then none
  else
    t.frags.foldl (fun m f =>
      match m with
      | none => some f
      | some g => if g.2.issued ≤ f.2.issued then some f else some g) none

/-- Fragments that an exit leaves waiting at different barrier instructions take the barrier-mismatch trap: the last to arrive does, at its
barrier (R44). [DESIGN CHOICE: log 83] -/
def trapStray (s : State) (p k : Nat) : State :=
  match strayBarrier ((s.ply p).strand k) with
  | some (i, f) =>
    let t := s.modFrag p k i (fun x => { x with wait := .none })
    { takeTrap { t with iss := { t.iss with ply := p, strand := k, frag := i, w := f.pc } } { cause := 8 } with iss := s.iss }
  | none => s

/-- After an exit: the ply exits with its last strand (R148 step 4), and a barrier that waited for the strand may be met. -/
def afterExit (s : State) (p : Nat) : State :=
  let s := trapStray s p s.iss.strand
  let y := s.ply p
  if y.strands.all (fun t => t.2.exited) then
    (checkBarriers (s.modPly p (fun y => { y with exiting := true })) y.skein).later (.plyExit p)
  else checkBarriers s y.skein

end Sys2Proof.Machine
end

