-- ==== Sys2Proof/Machine/ScalarMem.lean ====
section
/-! DEFINITION. Scalar memory: loads and stores (R134, R135), load-reserved and store-conditional (R136 to R138). -/
namespace Sys2Proof.Machine

/-- Tags of a scalar access: local space has no scalar form. -/
def scalarTags : List Nat := [0, 1, 2, 3, 4, 5]

/-- A scalar load of n bytes (R134). -/
def scalarLoad (s : State) (d a : BitVec 8) (o : BitVec 9) (n : Nat) : Eff := do
  need (decide (d.toNat ≤ 192 ∨ d.toNat = 208)) (illegalOperand 0)
  let (base, x) ← readBase s a
  let off := o.toInt * n
  let ea ← checkOne s base off ⟨[0], false, n, n, scalarTags⟩
  let (p, _, t) ← translateOne s x off ea 0 0
  let (b, t) ← readOne t ea p n (ptrPol ea) true
  writeS t d (w64 (natLE b))

/-- A scalar store of n bytes (R134, R135). -/
def scalarStore (s : State) (d a : BitVec 8) (o : BitVec 9) (n : Nat) : Eff := do
  let v ← readS s d
  let (base, x) ← readBase s a
  let off := o.toInt * n
  let ea ← checkOne s base off ⟨[1], true, n, n, scalarTags⟩
  let (p, va, t) ← translateOne s x off ea 1 1
  if writeHeld t t.iss.ply n p then .error (hold t)
  else
    let t ← storeReady t [p]
    let t := endForTag t t.iss.ply (ptrTag ea)
    .ok (writePlace t (ctxOf t) p va (ptrPol ea) (cellsOf (ptrAddr ea % 128) (bytesLE v.toNat n)))

/-- SLD.D (R134). -/
def execSldD (d a : BitVec 8) (o : BitVec 9) (s : State) : Res := run s (scalarLoad s d a o 8)

/-- SLD.W: zero-extending (R134). -/
def execSldW (d a : BitVec 8) (o : BitVec 9) (s : State) : Res := run s (scalarLoad s d a o 4)

/-- SST.D (R134). -/
def execSstD (d a : BitVec 8) (o : BitVec 9) (s : State) : Res := run s (scalarStore s d a o 8)

/-- SST.W (R134). -/
def execSstW (d a : BitVec 8) (o : BitVec 9) (s : State) : Res := run s (scalarStore s d a o 4)

/-- The sector of a place, as reservations name it. -/
def sectorOf (p : Place) : Place :=
  match p with
  | .hbm pa => .hbm (pa / 128 * 128)
  | .ws o => .ws (o / 128 * 128)
  | .scratch q o => .scratch q (o / 128 * 128)
  | .host pa => .host (pa / 128 * 128)
  | .peer r o => .peer r (o / 128 * 128)

/-- Flush the sector of an operation (R136 step 4) on device memory; the fragment waits while a release under way holds one of its entries back
(R242). -/
def flushFor (s : State) (p : Place) : Except Stop State :=
  match p with
  | .hbm pa =>
    let t := flushSector s s.curCore (l1Key 0 (pa / 128))
    if flushed t t.curCore (l1Key 0 (pa / 128)) then .ok t else .error (hold t)
  | _ => .ok s

/-- Read at the home router or the bank (R136 step 5): bytes, and poison as its consumer sees it. -/
def directRead (s : State) (p : Place) (n : Nat) : Bytes × Option Bool × State :=
  match p with
  | .hbm pa =>
    let s := homeTouch s pa 0
    (homeRead s pa n, if homePoisoned s (pa / 128) then some true else none, s)
  | .scratch q o =>
    let s := detectScratch s q (o / 128)
    (scrRead s q o n, (scrPoisoned s q o n).map (fun u => u || q != s.iss.ply), s)
  | _ => (bytesLE 0 n, none, s)

/-- Write at the home router or the bank; the issuing core's L1 keeps no older copy (R246). -/
def directWrite (s : State) (p : Place) (b : Bytes) : State :=
  match p with
  | .hbm pa => dropL1 (homeWriteIn s pa 0 b) s.curCore (l1Key 0 (pa / 128))
  | .scratch q o => scrWrite s q o b
  | _ => s

/-- The issuing fragment's REDs on a place's sector are performed before an access of it there (R182, R246). -/
def redsFirst (s : State) (p : Place) : State :=
  match p with
  | .hbm pa => ownReds s (ctxOf s) (pa / 128)
  | _ => s

/-- SLR.D: protection ends, the sector is flushed, the load is performed at its home or bank, and the reservation is set (R136), its address with the
pointer's policy (R151). [DEDUCED: log 19; DESIGN CHOICE: log 98] -/
def execSlrD (d a : BitVec 8) (o : BitVec 9) (s : State) : Res :=
  run s (do
    need (decide (d.toNat ≤ 192 ∨ d.toNat = 208)) (illegalOperand 0)
    let (base, x) ← readBase s a
    let off := o.toInt * 8
    let ea ← checkOne s base off ⟨[0, 2], false, 8, 8, [0, 1, 2]⟩
    let s := endProtection s s.iss.ply 10
    let s := s.modCurFrag (fun f => { f with resv := none })
    let (p, _, t) ← translateOne s x off ea 0 0
    let t ← flushFor t p
    match directRead (redsFirst t p) p 8 with
    | (_, some u, t) => .error (consumeHere t { cls := 6, cause := 2, addr := ea, unrec := u })
    | (b, none, t) =>
      let t := t.modCurFrag (fun f => { f with resv := some { sector := sectorOf p, addr := w64 (ea.toNat / 128 * 128), clock := t.clock } })
      writeS t d (w64 (natLE b)))

/-- SSC.D: stores when the reservation is valid and names the sector, and says whether it did (R137). [DEDUCED: log 19] -/
def execSscD (d a : BitVec 8) (b : BitVec 6) (s : State) : Res :=
  run s (do
    need (decide (d.toNat ≤ 192 ∨ d.toNat = 208)) (illegalOperand 0)
    let base ← readS s a
    let v := readSb6 s b
    let ea ← checkOne s base 0 ⟨[1, 2], true, 8, 8, [0, 1, 2]⟩
    let s := endProtection s s.iss.ply 10
    let (p, _, t) ← translateOne s none 0 ea 1 1
    if writeHeld t t.iss.ply 8 p then .error (hold t)
    else
      let t ← flushFor t p
      let ok := match t.curFrag.resv with
        | some r => r.sector == sectorOf p
        | none => false
      let t := if ok then directWrite (redsFirst t p) p (bytesLE v.toNat 8) else t
      let t := t.modCurFrag (fun f => { f with resv := none })
      writeS t d (b2w ok))

end Sys2Proof.Machine
end

