-- ==== Sys2Proof/Machine/Memory.lean ====
section
/-! DEFINITION. Vector memory (R184 to R186), fences (R190), cache maintenance (R191, R192) and interval control (R193). -/
namespace Sys2Proof.Machine

/-! ## Loads and stores -/

/-- The value that a load of lanes gives a register of lane l; a lane without bytes reads zero. -/
def lanePart (sz part : Nat) (bs : List (Nat × Bytes)) (l : Nat) : W64 :=
  match bs.find? (fun b => b.1 == l) with
  | some b => loadValue sz (if sz = 4 then (b.2.drop (8 * part)).take 8 else b.2)
  | none => 0

/-- Write what a load gives to the lanes of a mask: one register, or a pair for .Q. -/
def writeLoad (s : State) (sz d : Nat) (m : W32) (bs : List (Nat × Bytes)) : State :=
  let s := setVecLanes s d m (lanePart sz 0 bs)
  if sz = 4 then setVecLanes s (d + 1) m (lanePart sz 1 bs) else s

/-- A .Q access names a pair that does not run past v63 (R184). -/
def needPair (sz : Nat) (d : BitVec 6) : Except Stop Unit := need (!(sz == 4 && d == 63)) (illegalOperand 0)

/-- A load of lanes at offsets from a base (R182, R184): active lanes whose translation fails park the fragment, the others are written;
a lane without an access reads zero. -/
def vecLoad (s : State) (sz d : Nat) (m : W32) (base : W64) (x : Option XReg) (ls : List LaneOff) : Eff := do
  let (bs, fails, t) ← loadLanes s base x (loadAcc (sizeBytes sz)) ls
  let lost := maskOf (fails.map (·.lane))
  parkLanes (writeLoad t sz d (m &&& ~~~lost) bs) (ctxOf t) 0 fails

/-- A store of lanes (R182, R184). -/
def vecStore (s : State) (sz d : Nat) (base : W64) (x : Option XReg) (ls : List LaneOff) (nib : Nat → Int) : Eff := do
  let (fails, t) ← storeLanes s base x (storeAcc (sizeBytes sz)) ls (storeCellsOf s sz d nib)
  parkLanes t (ctxOf t) 1 fails

/-- The nibble offset of a lane. -/
def nibOf (s : State) (o l : Nat) : Int := (vreg s o l).toInt

/-- Offsets of a load or store by register; a nibble store counts nibbles (R181). -/
def offsetsFor (s : State) (nib : Bool) (m : W32) (o : Nat) : List LaneOff := if nib then nibbleOffsets s m o else byteOffsets s m o

/-- The lanes of a load: active and helper lanes under the guard, and none at all where none of them is active (R180): nothing is then read, and
no lane's destination written. [DEDUCED: log 84] -/
def loadLanesOf (s : State) (g : Nat) : W32 := if activeLanes s g = 0 then 0 else enabledLanes s g

/-- LD (R184). -/
def execLd (d : BitVec 6) (a : BitVec 8) (o : BitVec 6) (z : BitVec 3) (p : BitVec 2) (s : State) : Res :=
  run s (do
    needPair z.toNat d
    needVecs s (o.toNat :: sizeRegs z.toNat d.toNat)
    let (base, x) ← readBase s a
    let m := toPerform s (loadLanesOf s p.toNat)
    vecLoad s z.toNat d.toNat m base x (byteOffsets s m o.toNat))

/-- ST: helper lanes store nothing (R180, R184). -/
def execSt (d : BitVec 6) (a : BitVec 8) (o : BitVec 6) (z : BitVec 3) (p : BitVec 2) (s : State) : Res :=
  run s (do
    needPair z.toNat d
    needVecs s (o.toNat :: sizeRegs z.toNat d.toNat)
    let (base, x) ← readBase s a
    let m := toPerform s (activeLanes s p.toNat)
    vecStore s z.toNat d.toNat base x (offsetsFor s (z.toNat == 5) m o.toNat) (nibOf s o.toNat))

/-- The size codes of LD.ACQ and ST.REL as those of R184, loads zero-extending (R185). -/
def ordSize (z : Nat) (load : Bool) : Nat :=
  match z with
  | 0 => if load then 7 else 2
  | 1 => 3
  | 2 => 4
  | _ => if load then 5 else 0

/-- LD.ACQ: the loads, then an acquire (R185). -/
def execLdAcq (d : BitVec 6) (a : BitVec 8) (o : BitVec 6) (sc : BitVec 3) (z : BitVec 2) (s : State) : Res :=
  run s (do
    let sz := ordSize z.toNat true
    needPair sz d
    needVecs s (o.toNat :: sizeRegs sz d.toNat)
    let (base, x) ← readBase s a
    needAcquire s sc.toNat 0
    let m := toPerform s (loadLanesOf s 0)
    let t ← vecLoad s sz d.toNat m base x (byteOffsets s m o.toNat)
    .ok (acquireHere t sc.toNat 0))

/-- ST.REL: finds room in the log (R239, R326), ends protection, releases, then stores behind the release; the publication of the release carries its stores (R185). Where the release
has had to wait, its stores take a publication of their own, which no observer tells from the release's. [DEDUCED: log 19, 80] -/
def execStRel (d : BitVec 6) (a : BitVec 8) (o : BitVec 6) (sc : BitVec 3) (z : BitVec 2) (s : State) : Res :=
  run s (do
    let sz := ordSize z.toNat false
    needPair sz d
    needVecs s (o.toNat :: sizeRegs sz d.toNat)
    let (base, x) ← readBase s a
    let m := toPerform s (activeLanes s 0)
    let ls := byteOffsets s m o.toNat
    let (g, s) ← storeTargets s base x (storeAcc (sizeBytes sz)) ls
    let s := endProtection s s.iss.ply 8
    let waited := s.curFrag.fence.isSome
    let s ← releaseHere s sc.toNat
    let t := storeAll s base g (storeCellsOf s sz d.toNat (fun _ => 0))
    let t := if sc.toNat = 0 then t else if waited then publish t t.curCore else joinPublication t t.curCore
    parkLanes t (ctxOf t) 1 g.fails)

/-- LDB: a load by a buffer record (R186). -/
def execLdb (d : BitVec 6) (q : BitVec 5) (o : BitVec 6) (z : BitVec 3) (m : BitVec 2) (p : BitVec 3) (s : State) : Res :=
  run s (do
    needPair z.toNat d
    needVecs s (o.toNat :: sizeRegs z.toNat d.toNat)
    let b ← readBuf s q.toNat m.toNat
    let e := toPerform s (loadLanesOf s p.toNat)
    vecLoad s z.toNat d.toNat e b.base none (bufOffsets s b e o.toNat (sizeBytes z.toNat)))

/-- STB: a store by a buffer record; it has no nibble form (R186). -/
def execStb (d : BitVec 6) (q : BitVec 5) (o : BitVec 6) (z : BitVec 3) (m : BitVec 2) (p : BitVec 3) (s : State) : Res :=
  run s (do
    need (z.toNat != 5) (illegalOperand 2)
    needPair z.toNat d
    needVecs s (o.toNat :: sizeRegs z.toNat d.toNat)
    let b ← readBuf s q.toNat m.toNat
    let e := toPerform s (activeLanes s p.toNat)
    vecStore s z.toNat d.toNat b.base none (bufOffsets s b e o.toNat (sizeBytes z.toNat)) (fun _ => 0))

/-! ## Fences (R190) -/

/-- FENCE.ACQ. -/
def execFenceAcq (sc : BitVec 3) (a : BitVec 8) (s : State) : Res :=
  run s (do
    let m ← readS s a
    needAcquire s sc.toNat (bits m 0 4)
    .ok (acquireHere s sc.toNat (bits m 0 4)))

/-- FENCE.REL: ends protection. -/
def execFenceRel (sc : BitVec 3) (a : BitVec 8) (s : State) : Res :=
  run s (do
    let _ ← readS s a
    releaseHere (endProtection s s.iss.ply 8) sc.toNat)

/-- FENCE.AR: a release, then an acquire. -/
def execFenceAr (sc : BitVec 3) (a : BitVec 8) (s : State) : Res :=
  run s (do
    let m ← readS s a
    let t ← releaseHere (endProtection s s.iss.ply 8) sc.toNat
    needAcquire t sc.toNat (bits m 0 4)
    .ok (acquireHere t sc.toNat (bits m 0 4)))

/-! ## Cache maintenance (R191, R192) -/

/-- The operations of CMO. -/
inductive CmoOp where
  | clean | inv | clinv | pref
  deriving DecidableEq, Repr

/-- The L1 key of a place's sector. -/
def placeKey (p : Place) : Nat :=
  match p with
  | .hbm pa => l1Key 0 (pa / 128)
  | .ws o => l1Key 1 (o / 128)
  | .host pa => l1Key 2 (pa / 128)
  | .peer r o => l1Key 3 (peerSector r (o / 128))
  | .scratch _ _ => 0

/-- A log entry belongs to the sector of a place. -/
def entryAt (p : Place) (e : LogEntry) : Bool :=
  match p, e.space with
  | .hbm pa, .dev => e.sector == pa / 128
  | .host pa, .host _ => e.sector == pa / 128
  | .peer r o, .peer q => q == r && e.sector == o / 128
  | _, _ => false

/-- No ordinary entry of the core for a sector is left: a release under way may have held one back, and CLEAN then waits for it (R192, R250). -/
def cleaned (s : State) (p : Place) : Bool := !((s.core s.curCore).log.any (fun e => !e.held && entryAt p e))

/-- CLEAN of a sector at a level: the core's ordinary entries drain in log order; the home writes a dirty sector to HBM. -/
def cleanSector (s : State) (p : Place) (level : Nat) : State :=
  let s := drainWhere s s.curCore (entryAt p)
  match p with
  | .hbm pa => if level = 0 then s else l2Clean s (pa / 128)
  | _ => s

/-- INV of a sector at a level: the L1 drops it unless it is pinned, and then leaves it in place; the home writes a dirty copy to HBM and drops it. -/
def invSector (s : State) (p : Place) (level : Nat) : State :=
  let s := dropL1 s s.curCore (placeKey p)
  match p with
  | .hbm pa => if level = 0 then s else l2Drop (l2Clean s (pa / 128)) (pa / 128)
  | _ => s

/-- PREF of a sector: it is read into the caches of the level, whatever the log covers and the L1 holds; a host sector that is not there yet is asked
for, and tag 3 acts at .L1 (R191). -/
def prefSector (s : State) (p : Place) (level pol : Nat) : Except Stop State :=
  match p with
  | .hbm pa =>
    if level = 0 then .ok (missHbm s s.curCore (pa / 128 * 128) pol)
    else if level = 1 then .ok (homeTouch s pa pol) else .ok s
  | .host pa =>
    if level = 0 then
      match hostSectorOf s (ctxOf s) pa pol with
      | (.wait, t) => .error (hold t)
      | (_, t) => .ok t
    else .ok s
  | .ws o => .ok (readWs s (ctxOf s) (o / 128 * 128) 128).2
  | _ => .ok s

/-- What follows a CLEAN of a sector, once it is clean. -/
def afterClean (t : State) (p : Place) (f : State → State) : Except Stop State := if cleaned t p then .ok (f t) else .error (hold t)

/-- One operation on one translated sector; tag 3 acts at .L1 whatever the level. -/
def cmoSector (s : State) (op : CmoOp) (p : Place) (level pol : Nat) : Except Stop State :=
  match op with
  | .clean => afterClean (cleanSector s p level) p (fun t => t)
  | .inv => .ok (invSector s p level)
  | .clinv => afterClean (cleanSector s p level) p (fun t => invSector t p level)
  | .pref => prefSector s p level pol

/-- The check of sector i of a range under R65, as a load. [DESIGN CHOICE: log 101] -/
def cmoCheck (s : State) (base : W64) (i : Nat) : Except Stop W64 :=
  checkOne s base ((128 * i : Nat) : Int) ⟨[0], false, 128, 128, [0, 3, 4, 5]⟩

/-- Every sector of a range passes R65: the instruction traps with no effect where one fails (R343); PREF skips it. [DEDUCED: log 72] -/
def cmoChecks (s : State) (base : W64) (i : Nat) : Nat → Except Stop Unit
  | 0 => .ok ()
  | n + 1 =>
    match cmoCheck s base i with
    | .error e => .error e
    | .ok _ => cmoChecks s base (i + 1) n

/-- n sectors from sector i of the range on; the fragment's unfinished value keeps the place across a park. [DEDUCED: log 72] -/
def cmoSectors (s : State) (op : CmoOp) (base : W64) (level i : Nat) : Nat → Eff
  | 0 => .ok s
  | n + 1 =>
    let s := s.modCurFrag (fun f => { f with unfinished := some (w32 i) })
    let off : Int := ((128 * i : Nat) : Int)
    let next (t : State) : Eff := cmoSectors t op base level (i + 1) n
    match cmoCheck s base i with
    | .error e => if op = .pref then next s else .error e
    | .ok ea =>
      match translateOne s none off ea 0 7 with
      | .ok (p, _, t) =>
        match cmoSector t op p level (ptrPol ea) with
        | .ok u => next u
        | .error e => .error e
      | .error (.stay t) =>
        if op = .pref && (t.curFrag.wait != .held) then next s
        else .error (.stay (if t.livePly t.iss.ply && t.liveFrag t.iss.ply t.iss.strand t.iss.frag then
          t.modCurFrag (fun f => { f with unfinished := some (w32 i) }) else t))
      | .error (.trap q) => .error (.trap q)

/-- .MEM completes when the host or a peer has performed the writes: what was under way there when the CMO had drained its entries, of whichever
ply (R192, R250). [DEDUCED: log 80] -/
def cmoWait (s : State) (tag level : Nat) : Eff :=
  if level = 2 ∧ (tag = 4 ∨ tag = 5) then
    let c := ctxOf s
    match c.fence with
    | some f => if f.met s then .ok s else .error (hold s)
    | none =>
      let f := newFence s (if tag = 4 then scSystem else scReel)
      let f : Fence := if tag = 4 then { f with reqs := [] } else f
      if f.met s then .ok s else .error (hold (setFence (askFlush s c.who c.vdev f.host) c (some f)))
  else .ok s

/-- CMO on the sectors of [S(sa), S(sa) + S(sb)) (R191). [DEDUCED: log 72] -/
def cmo (s : State) (op : CmoOp) (l a : BitVec 8) (b : BitVec 6) : Eff := do
  let ptr ← readS s a
  let n := (readSb6 s b).toNat
  need (decide (n ≤ 2 ^ 32)) (illegalOperand 2)
  if n = 0 ∨ ptrTag ptr = 1 ∨ ptrTag ptr = 2 then .ok s
  else
    let start := ptrAddr ptr % 128
    let base := w64 (ptr.toNat - start)
    let count := (start + n + 127) / 128
    let done := (s.curFrag.unfinished.getD 0).toNat
    if op ≠ .pref then cmoChecks s base done (count - done)
    let t ← cmoSectors s op base l.toNat done (count - done)
    let t := t.modCurFrag (fun f => { f with unfinished := some (w32 count) })
    if op = .pref then .ok t else cmoWait t (ptrTag ptr) l.toNat

/-- CMO.CLEAN. -/
def execCmoClean (l a : BitVec 8) (b : BitVec 6) (s : State) : Res := run s (cmo s .clean l a b)

/-- CMO.INV. -/
def execCmoInv (l a : BitVec 8) (b : BitVec 6) (s : State) : Res := run s (cmo s .inv l a b)

/-- CMO.CLINV. -/
def execCmoClinv (l a : BitVec 8) (b : BitVec 6) (s : State) : Res := run s (cmo s .clinv l a b)

/-- CMO.PREF: never faults. -/
def execCmoPref (l a : BitVec 8) (b : BitVec 6) (s : State) : Res := run s (cmo s .pref l a b)

/-! ## Interval control (R193) -/

/-- RGN.OFF: ends protection with bit 15. -/
def execRgnOff (s : State) : Res := run s (.ok (endProtection s s.iss.ply 15))

/-- RGN.MARK: the ply's interval mark. -/
def execRgnMark (a : BitVec 8) (i : BitVec 10) (s : State) : Res :=
  run s (do
    let v ← readS s a
    .ok (s.modCurPly (fun y => { y with markCode := i, markVal := v })))

end Sys2Proof.Machine
end

