-- ==== Sys2Proof/Machine/Atomic.lean ====
section
/-! DEFINITION. ATOM and RED (R187 to R189, R11, R103 to R105) and the home router's step of a RED. -/
namespace Sys2Proof.Machine

/-- The access of an atomic operation of n bytes (R187): tag 3 is a weight-store write, tags 4 to 6 pointer faults; g[tag].a. -/
def atomAcc (n : Nat) : Acc := ⟨[2], true, n, n, [0, 1, 2, 3]⟩

/-- An operation that compares. -/
def isCas (op : Nat) : Bool := op == 18 || op == 19

/-- The lane data of an operation's width. -/
def atomData (s : State) (op d l : Nat) : Nat := (vreg s d l).toNat % 2 ^ (8 * amoBytes op)

/-- One lane's step of ATOM at its home or bank, behind the fragment's REDs on the sector (R189): the old value (a poisoned sector gives its
consumer's mark, and the step is not performed, R372) and the state. -/
def atomStep (s : State) (op d : Nat) (l : LaneTo) : Nat × Option Bool × State :=
  let n := amoBytes op
  let (b, poison, t) := directRead (redsFirst s l.place) l.place n
  let old := natLE b
  (old, poison, if poison.isSome then t else directWrite t l.place (bytesLE (amoNew op old (atomData s op d l.lane) (vreg s (d + 1) l.lane).toNat) n))

/-- The sector flush of the lanes of tag 0 (R187 step 3). -/
def atomFlush (s : State) (ls : List LaneTo) : Except Stop State := ls.foldlM (fun s l => flushFor s l.place) s

/-- Lanes of an atomic, checked and translated (R187 steps 1 and 2); an instruction that traps has no effect (R343). -/
def atomLanes (s : State) (a : BitVec 8) (o op : Nat) : Except Stop (List LaneTo × List LaneFault × State) := do
  let (base, x) ← readBase s a
  let c := ctxOf s
  let m := toPerform s (activeLanes s 0)
  let ats ← checkLanes s c base (atomAcc (amoBytes op)) (byteOffsets s m o)
  let s := endProtection s s.iss.ply 9
  let (g, s) := translateLanes s c x 2 ats
  if g.waits then .error (hold s)
  else if g.tos.any (fun t => writeHeld s c.ply (amoBytes op) t.place) then .error (hold s)
  else
    let s ← atomFlush s g.tos
    .ok (g.tos, g.fails, s)

/-- The steps of ATOM's lanes, ascending: old values by lane, lanes that consumed poison, the state. -/
def atomSteps (s : State) (op d : Nat) (ls : List LaneTo) : List (Nat × W64) × List (LaneTo × Consumed) × State :=
  ls.foldl (fun r l =>
    let q := atomStep r.2.2 op d l
    match q.2.1 with
    | none => (r.1 ++ [(l.lane, w64 q.1)], r.2.1, q.2.2)
    | some u => (r.1, r.2.1 ++ [(l, { cls := 6, cause := 2, unrec := u })], q.2.2)) ([], [], s)

/-- ATOM: each lane's step at its home or bank in ascending lane order; old values come back to vd (R187 to R189). [DEDUCED: log 19] -/
def execAtom (d : BitVec 6) (a : BitVec 8) (o : BitVec 6) (k : BitVec 5) (s : State) : Res :=
  run s (do
    let op := k.toNat
    need (!(isCas op && d == 63)) (illegalOperand 0)
    needVecs s (o.toNat :: (if isCas op then [d.toNat, d.toNat + 1] else [d.toNat]))
    let (tos, fails, t) ← atomLanes s a o.toNat op
    let (olds, bad, t) := atomSteps t op d.toNat tos
    match joinErrors bad with
    | some e => .error (consumeHere t e)
    | none =>
      let t := setVecLanes t d.toNat (maskOf (olds.map (·.1))) (fun l => ((olds.find? (fun x => x.1 == l)).map (·.2)).getD 0)
      parkLanes t (ctxOf t) 2 fails)

/-- A RED request on its way to the home router (R11). -/
def addRed (s : State) (op pa : Nat) (v : W64) (va : W64) : State :=
  let r : RedOp := { id := s.fresh, ply := s.iss.ply, strand := s.iss.strand, frag := s.iss.frag, reel := s.curPly.reel, op := op, pa := pa, val := v, va := va }
  ({ s with reds := s.reds ++ [r] }.bump).later (.homeAtomic r.id)

/-- The requests of one RED: floating-point additions of lanes that name one address are one request, in ascending lane order (R105);
of other operations each lane sends its own. -/
def redRequests (op : Nat) (val : Nat → Nat) (ls : List (Nat × Nat × W64)) : List (Nat × Nat × W64) :=
  ls.foldl (fun rs l =>
    if amoFadd op && rs.any (fun r => r.1 == l.2.1) then
      rs.map (fun r => if r.1 == l.2.1 then (r.1, amoNew op r.2.1 (val l.1) 0, r.2.2) else r)
    else rs ++ [(l.2.1, val l.1, l.2.2)]) []

/-- RED: steps at scratch banks at once; requests to the home routers for device memory (R11, R187, R189). [DEDUCED: log 19] -/
def execRed (d : BitVec 6) (a : BitVec 8) (o : BitVec 6) (k : BitVec 5) (s : State) : Res :=
  run s (do
    let op := k.toNat
    needVecs s [o.toNat, d.toNat]
    let (tos, fails, t) ← atomLanes s a o.toNat op
    let t := tos.foldl (fun t l =>
      match l.place with
      | .scratch _ _ => if (directRead t l.place (amoBytes op)).2.1.isSome then
            containLater t t.iss.ply t.iss.strand 6 10 (laneBit l.lane) l.ea
          else (atomStep t op d.toNat l).2.2
      | _ => t) t
    let dev := tos.filterMap (fun l => match l.place with
      | .hbm pa => some (l.lane, pa, l.va)
      | _ => none)
    let t := (redRequests op (atomData t op d.toNat) dev).foldl (fun t r => addRed t op r.1 (w64 r.2.1) r.2.2) t
    parkLanes t (ctxOf t) 2 fails)

/-- Two requests act on common bytes. -/
def RedOp.meets (q r : RedOp) : Bool := decide (q.pa < r.pa + amoBytes r.op) && decide (r.pa < q.pa + amoBytes q.op)

/-- Requests under way that take effect before this one: earlier ones of a strand of its own to common bytes (R182, R189). [DEDUCED: log 79] -/
def redsBefore (s : State) (r : RedOp) : List RedOp :=
  s.reds.filter (fun q => decide (q.id < r.id) && q.meets r && r.owners.any (fun o => q.ofStrand o.ply o.strand))

/-- Perform a request behind those that take effect before it. -/
def performBehind (s : State) (id : Nat) : Nat → State
  | 0 => s
  | fuel + 1 =>
    match s.reds.find? (fun r => r.id == id) with
    | some r => performRed ((redsBefore s r).foldl (fun t q => performBehind t q.id fuel) s) r
    | none => s

/-- Requests under way that a router may merge with a floating-point addition: of its operation and address, and next after it or due as it is
(R11, R105). -/
def redMates (s : State) (r : RedOp) : List RedOp :=
  if amoFadd r.op then s.reds.filter (fun q => q.id != r.id && q.op == r.op && q.pa == r.pa && (redsBefore s q).all (fun x => x.id == r.id)) else []

/-- Two requests merged into one that goes on its way: the sum of their values, for both their owners. [DESIGN CHOICE: log 25] -/
def mergeRed (s : State) (r q : RedOp) : State :=
  let m : RedOp := { r with id := Nat.min r.id q.id, val := w64 (amoNew r.op r.val.toNat q.val.toNat 0), others := r.others ++ q.owners }
  ({ s with reds := s.reds.filterMap (fun (x : RedOp) => if x.id == r.id || x.id == q.id then (if x.id == m.id then some m else none) else some x)
            draws := s.draws + 1 }).later (.homeAtomic m.id)

/-- HOME_ATOMIC: a RED request is performed at its home router behind those that precede it, or merged on the way with another; whichever is
free, so every grouping of floating-point additions can come (R11, R105, R189). -/
def execHomeAtomic (id : Nat) (s : State) : Res :=
  .next (match s.reds.find? (fun r => r.id == id) with
    | some r =>
      let t := (redsBefore s r).foldl (fun t q => performBehind t q.id s.reds.length) s
      match redMates t r with
      | [] => performRed t r
      | l =>
        match l[Config.redOrder t.draws % (l.length + 1)]? with
        | some q => mergeRed t r q
        | none => performRed { t with draws := t.draws + 1 } r
    | none => s)

end Sys2Proof.Machine
end

