-- ==== Sys2Proof/Machine/Block.lean ====
section
/-! DEFINITION. Block pairs copied or filled in the array (R299). -/
namespace Sys2Proof.Machine

/-- Bytes of a block. -/
def blockBytes : Nat := 2 ^ 20

/-- The physical address of a block of 1 MiB at a virtual address, when every 4-KiB page of it translates to the next of one run of memory. -/
def blockPa (va : Nat) (tr : Nat → Option Nat) : Option Nat :=
  match tr va with
  | some pa => if (upFrom 1 255).all (fun j => tr (va + 4096 * j) == some (pa + 4096 * j)) then some pa else none
  | none => none

/-- Where the two blocks of a pair must lie: on one die, at equal offsets modulo 16 MiB, in different row groups. -/
def pairApart (src dst : Nat) : Bool :=
  src / 2 ^ 37 == dst / 2 ^ 37 && src % 2 ^ 24 == dst % 2 ^ 24 && paRowGroup src != paRowGroup dst

/-- A sector lies in the block at a physical address. -/
def inBlock (pa sec : Nat) : Bool := decide (pa / 128 ≤ sec) && decide (sec < (pa + blockBytes) / 128)

/-- The sectors of a block. -/
def blockSectors (pa : Nat) : List Nat := upFrom (pa / 128) (blockBytes / 128)

/-- Write one sector in the array: past the L2, poison with it, reservations lost. -/
def arraySector (s : State) (sec : Nat) (b : Bytes) (poison : Bool) : State :=
  let s := homeWrote { s with home := Mem.write s.home (sec * 128) b } sec 3 true
  if poison then { s with homePoison := Tab.put sec true s.homePoison, hbmPoison := Tab.put sec true s.hbmPoison } else s

/-- Copy a block in the array, or fill it with an 8-byte pattern: the source's dirty sectors go to HBM, the destination's leave the L2, and
the block is written at its home in one piece. [DEDUCED: log 51] -/
def arrayBlock (s : State) (src : Option Nat) (dst fill : Nat) : State :=
  let s := match src with
    | some pa => (blockSectors pa).foldl (fun s n => l2Clean (detectHome (countHome s (n * 128)) n) n) s
    | none => s
  let s := (blockSectors dst).foldl (fun s n => l2Drop s n) s
  (upFrom 0 (blockBytes / 128)).foldl (fun s i =>
    match src with
    | some pa => arraySector s (dst / 128 + i) (homeRead s (pa + 128 * i) 128) (homePoisoned s (pa / 128 + i))
    | none => arraySector s (dst / 128 + i) ((upFrom 0 16).flatMap (fun _ => bytesLE fill 8)) false) s

/-- A poisoned sector of a block: the offset of the first. -/
def blockPoison (s : State) (pa : Nat) : Option Nat := ((upFrom 0 (blockBytes / 128)).find? (fun i => homePoisoned s (pa / 128 + i))).map (128 * ·)

end Sys2Proof.Machine
end

