-- ==== Sys2Proof/Machine/Geometry.lean ====
section
/-! DEFINITION. What the rules of R225 fix about the unit's ray tests, in exact arithmetic: which side of a triangle a ray meets, which of two triangles
has an edge they share, and the boxes that a ray runs through. The rest of the tests is the unit's own. -/
namespace Sys2Proof.Machine

/-- A point or direction, in units of 2^-149. -/
abbrev Vec := Int × Int × Int

def subV (a b : Vec) : Vec := (a.1 - b.1, a.2.1 - b.2.1, a.2.2 - b.2.2)
def dotV (a b : Vec) : Int := a.1 * b.1 + a.2.1 * b.2.1 + a.2.2 * b.2.2
def crossV (a b : Vec) : Vec := (a.2.1 * b.2.2 - a.2.2 * b.2.1, a.2.2 * b.1 - a.1 * b.2.2, a.1 * b.2.1 - a.2.1 * b.1)

/-- An f32 in units of 2^-149; none when it is not finite. -/
def exactF32 (w : W32) : Option Int :=
  match fmtF32.unpack w.toNat with
  | .fin neg m e => some ((if neg then -1 else 1) * (m * 2 ^ (e + 149).toNat : Nat))
  | _ => none

/-- Three f32 of a list from place i on. -/
def exactV (l : List W32) (i : Nat) : Option Vec :=
  match exactF32 (l.getD i 0), exactF32 (l.getD (i + 1) 0), exactF32 (l.getD (i + 2) 0) with
  | some x, some y, some z => some (x, y, z)
  | _, _, _ => none

/-- Lexical order of points. -/
def ltV (a b : Vec) : Bool := decide (a.1 < b.1) || (a.1 == b.1 && (decide (a.2.1 < b.2.1) || (a.2.1 == b.2.1 && decide (a.2.2 < b.2.2))))

/-- The triangle whose edge runs from a to b has it, rather than the one whose edge runs from b to a: exactly one of them does (R225). -/
def ownsEdge (ray : List W32) (a b : Vec) : Bool := if ltV a b then Config.edgeOwner ray a b else !(Config.edgeOwner ray b a)

/-- How the line of a ray meets a triangle, as the signs of its three edge functions tell. -/
inductive Meet where
  | free
  | edge (a b : Vec)
  | vertex
  deriving DecidableEq, Repr

/-- The line through the origin of a ray in its direction passes exactly through an edge or a vertex of the triangle, in front of the origin. -/
def meetOf (d a b c : Vec) : Meet :=
  let n := crossV (subV b a) (subV c a)
  let u := dotV d (crossV c b)
  let v := dotV d (crossV a c)
  let w := dotV d (crossV b a)
  if decide (dotV a n * dotV d n ≤ 0) || !((decide (0 ≤ u) && decide (0 ≤ v) && decide (0 ≤ w)) || (decide (u ≤ 0) && decide (v ≤ 0) && decide (w ≤ 0))) then .free
  else
    match u == 0, v == 0, w == 0 with
    | true, false, false => .edge b c
    | false, true, false => .edge c a
    | false, false, true => .edge a b
    | false, false, false => .free
    | true, true, true => .free
    | _, _, _ => .vertex

/-- The ray hits the triangle: as R225 says through an edge or a vertex, else as the unit's test gives. [DESIGN CHOICE: log 35] -/
def triangleHit (ray tri : List W32) : Bool :=
  match exactV ray 0, exactV ray 4, exactV tri 0, exactV tri 3, exactV tri 6 with
  | some o, some d, some a, some b, some c =>
    (match meetOf d (subV a o) (subV b o) (subV c o) with
    | .free => (Config.rayTriangle ray tri).1
    | .edge p q => ownsEdge ray p q
    | .vertex => true)
  | _, _, _, _, _ => (Config.rayTriangle ray tri).1

/-- The ray starts on the front side: that from which v0, v1 and v2 wind counter-clockwise in right-handed axes (R225). [DESIGN CHOICE: log 35] -/
def triangleFront (ray tri : List W32) : Bool :=
  match exactV ray 0, exactV tri 0, exactV tri 3, exactV tri 6 with
  | some o, some a, some b, some c =>
    let side := dotV (subV o a) (crossV (subV b a) (subV c a))
    if side = 0 then (Config.rayTriangle ray tri).2.2.2.2 else decide (0 < side)
  | _, _, _, _ => (Config.rayTriangle ray tri).2.2.2.2

/-- A fraction with a positive denominator. -/
abbrev Frac := Int × Int

def leF (x y : Frac) : Bool := decide (x.1 * y.2 ≤ y.1 * x.2)

/-- The part of a ray within a slab: bounds from below and above, or none when it misses. -/
def slab (o d lo hi : Int) : Option (List Frac × List Frac) :=
  if 0 < d then some ([(lo - o, d)], [(hi - o, d)])
  else if d < 0 then some ([(o - hi, -d)], [(o - lo, -d)])
  else if lo ≤ o ∧ o ≤ hi then some ([], []) else none

/-- The ray runs through the box between tmin and tmax, exactly. -/
def boxMet (ray box : List W32) : Bool :=
  match exactV ray 0, exactV ray 4, exactF32 (ray.getD 3 0), exactV box 0, exactV box 3 with
  | some o, some d, some t, some lo, some hi =>
    (match slab o.1 d.1 lo.1 hi.1, slab o.2.1 d.2.1 lo.2.1 hi.2.1, slab o.2.2 d.2.2 lo.2.2 hi.2.2 with
    | some x, some y, some z =>
      let top : List Frac := match exactF32 (ray.getD 7 0) with
        | some u => [(u, 2 ^ 149)]
        | none => []
      ((t, 2 ^ 149) :: x.1 ++ y.1 ++ z.1).all (fun a => (top ++ x.2 ++ y.2 ++ z.2).all (fun b => leF a b))
    | _, _, _ => false)
  | _, _, _, _, _ => false

/-- The distance along the ray at which it is past tmin and inside every slab of the box that bounds it from below, exactly. A bound or a component
of the ray that is not finite bounds nothing. [DEDUCED: log 35] -/
def boxEntryAt (ray box : List W32) : Frac :=
  let num (l : List W32) (i : Nat) : Option Int := exactF32 (l.getD i 0)
  let lows := [0, 1, 2].filterMap (fun i =>
    match num ray i, num ray (4 + i) with
    | some o, some d =>
      if 0 < d then (num box i).map (fun lo => (lo - o, d)) else if d < 0 then (num box (3 + i)).map (fun hi => (o - hi, -d)) else none
    | _, _ => none)
  lows.foldl (fun m a => if leF m a then a else m) (((num ray 3).getD 0), 2 ^ 149)

/-- The entry distance of a ray into a box that it enters: a box that it runs through it does enter. [DESIGN CHOICE: log 35] -/
def boxEntry (ray box : List W32) : Option Frac :=
  if Config.rayBox ray box || boxMet ray box then some (boxEntryAt ray box) else none

end Sys2Proof.Machine
end

