-- ==== Sys2Proof/Machine/Sync.lean ====
section
/-! DEFINITION. Barrier objects (R73, R74, R384, R385) and counters (R75): the bank steps and the adds that instructions, transfers and
the command complex perform on them. -/
namespace Sys2Proof.Machine

/-! ## Barrier objects -/

/-- A barrier object (R73). -/
structure BarObj where
  phase    : Nat
  expected : Nat
  arrived  : Nat
  expbytes : Nat
  landed   : Nat
  flags    : Nat
  deriving DecidableEq, Repr

/-- The object at an offset of a ply's scratch. -/
def readObj (s : State) (q o : Nat) : BarObj :=
  let n (k w : Nat) : Nat := natLE (scrRead s q (o + k) w)
  ⟨n 0 4, n 4 2, n 6 2, n 8 8, n 16 8, n 24 4⟩

/-- An object's bytes. -/
def BarObj.bytes (b : BarObj) : Bytes :=
  bytesLE b.phase 4 ++ bytesLE b.expected 2 ++ bytesLE b.arrived 2 ++ bytesLE b.expbytes 8 ++ bytesLE b.landed 8 ++ bytesLE b.flags 4

/-- The phase completes (R73). -/
def BarObj.complete (b : BarObj) : BarObj := { b with phase := (b.phase + 1) % 2 ^ 32, arrived := 0, landed := 0, expbytes := 0 }

/-- Overshoot sets flags[1] (R384). -/
def BarObj.shot (b : BarObj) : BarObj := { b with flags := Nat.lor b.flags 2 }

/-- Evaluate completion: bytes above the expectation once every arrival is in complete the phase and overshoot. -/
def BarObj.check (b : BarObj) : BarObj × Bool :=
  if b.arrived = b.expected ∧ b.expbytes = b.landed then (b.complete, false)
  else if b.arrived = b.expected ∧ b.expbytes < b.landed then (b.complete.shot, true)
  else (b, false)

/-- BINIT. -/
def BarObj.init (b : BarObj) (n : Nat) : BarObj := { b with expected := n, arrived := 0, expbytes := 0, landed := 0, flags := 0 }

/-- BARR: one arrival; an arrival too many is not counted (R384). [DEDUCED: log 49] -/
def BarObj.arrive (b : BarObj) : BarObj × Bool :=
  if b.expected ≤ b.arrived then (b.shot, true) else BarObj.check { b with arrived := b.arrived + 1 }

/-- BEXP. -/
def BarObj.expect (b : BarObj) (n : Nat) : BarObj × Bool :=
  let b := { b with expbytes := (b.expbytes + n) % 2 ^ 64 }
  if b.arrived = b.expected ∧ b.expbytes = b.landed then (b.complete, false) else (b, false)

/-- A landing report of n bytes. -/
def BarObj.land (b : BarObj) (n : Nat) : BarObj × Bool := BarObj.check { b with landed := (b.landed + n) % 2 ^ 64 }

/-- A barrier step of ply p on an object of ply q ends the protection of both where R45 and R355 say so. -/
def barrierEnds (s : State) (p q : Nat) : State :=
  if p = q then s
  else
    let s := if (s.ply q).core ≠ (s.ply p).core then endProtection s p 9 else s
    endProtection s q 9

/-- The pointer with which a ply names byte o of the scratch of ply q of its skein: tag 1 its own, tag 2 another's (R61). -/
def scrPtr (s : State) (p q o : Nat) : W64 := if p = q then w64 (2 ^ 60 + o) else w64 (2 * 2 ^ 60 + (s.ply q).num * 2 ^ 20 + o)

/-- One indivisible bank step (R74), with the record of an overshoot (R384). -/
def barrierStep (s : State) (p k f q o : Nat) (step : BarObj → BarObj × Bool) : State :=
  let s := barrierEnds s p q
  let r := step (readObj s q o)
  let s := scrWrite s q o r.1.bytes
  if r.2 then writeRecord s { plyRecord s p k f with severity := 0, cls := 8, cause := 5, address := scrPtr s p q o } else s

/-- The object's broken flag. -/
def BarObj.broken (b : BarObj) : Bool := b.flags % 2 == 1

/-! ## Counters -/

/-- What posting to a counter gives. -/
inductive Posted where
  | done (s : State)
  /-- The counter fails a check of R75. -/
  | bad (s : State)
  /-- A translation has been asked for. -/
  | wait (s : State)
  deriving DecidableEq, Repr

/-- Add to the n64 at a place, under a policy (R64). -/
def addHomeAs (s : State) (pa n pol : Nat) : State :=
  let s := homeTouch s pa pol
  homeWriteIn s pa pol (bytesLE ((natLE (homeRead s pa 8) + n) % 2 ^ 64) 8)

/-- Add to the n64 at a place. -/
def addHome (s : State) (pa n : Nat) : State := addHomeAs s pa n 0

/-- The n64 of a counter in a peer's window, reached by a rank: done at the home of this package, or held there while the device sleeps (R305),
or sent to the peer. -/
def addPeer (s : State) (c : Ctx) (rank off n pol : Nat) : Posted :=
  let s := touchRank s (s.ply c.ply).reel rank
  match rankTarget s (s.ply c.ply).reel rank with
  | none => .bad s
  | some (f, v) =>
    if s.pf0.faddr != 0xFFFF && f == s.pf0.faddr.toNat then
      match holdInbound s v (.peerRequest f f v s.fresh 3 ⟨off, pol⟩ 8 1 (bytesLE n 8)) with
      | some t => .done t.bump
      | none =>
        let t := s.vdev v
        let va := t.xbase.toNat % 2 ^ 57 + off
        if t.exist && !t.stopped && decide (off + 8 ≤ t.xbytes.toNat) then
          let s := walkTouch s v va
          match translateWalk s v va 1 with
          | .ok p => .done (addHomeAs s (p.phys va) n pol)
          | _ => .bad s
        else .bad s
    else
      match routeOf s (coreIo c.core) f with
      | none => .bad s
      | some l => .done (((countFor s c.vdev).send (.peerReq s.fresh l f (s.tag c.vdev) v 3 off 8 1 pol (bytesLE n 8))).bump)

/-- Add n to the counter at a pointer (R75): the pointer, the segment and the translation are checked now. [DEDUCED: log 47] -/
def postCounter (s : State) (c : Ctx) (ptr : W64) (n : Nat) : Posted :=
  match checkAddr s c ptr 0 ⟨[0, 1], true, 8, 8, [0, 1, 2, 4, 5]⟩ with
  | .error _ => .bad s
  | .ok ea =>
    match translateAcc s c none 0 ea 1 0 with
    | (.fault _ _ _, t) => .bad t
    | (.wait, t) => .wait t
    | (.here (.hbm pa) _, t) => .done (addHomeAs t pa n (ptrPol ea))
    | (.here (.scratch q o) _, t) =>
      let t := endProtection t q 9
      .done (scrWrite t q o (bytesLE ((natLE (scrRead t q o 8) + n) % 2 ^ 64) 8))
    | (.here (.host pa) _, t) => .done ((t.send (.hostAtomic t.fresh (t.tag c.vdev) (bits (c.seg 4).base 0 20) (w64 pa) 1 (w64 n) 0)).bump)
    | (.here (.peer r o) _, t) => addPeer t c r o n (ptrPol ea)
    | (.here (.ws _) _, t) => .bad t

end Sys2Proof.Machine
end

