-- ==== Sys2Proof/Machine/System.lean ====
section
/-! DEFINITION. System instructions (R147 to R154): NOP, EXIT, YIELD, TRAP, TRET, system and segment registers, ABORT; the illegal-encoding
and fetch events (R112, R343). -/
namespace Sys2Proof.Machine

/-- NOP: no effect (R147). -/
def execNop (s : State) : Res := run s (.ok s)

/-- EXIT: the lanes of the fragment end (R148). -/
def execExit (s : State) : Res :=
  runTo s (
    let quad := (s.reel s.curPly.reel).desc.quad
    let t := s.modCur (fun t => exitFragment t s.iss.frag quad)
    .ok (halt (afterExit t s.iss.ply)))

/-- YIELD: for 32 opportunities of its partition the fragment goes behind the others (R40). -/
def execYield (s : State) : Res := run s (.ok (s.modCurFrag (fun f => { f with yield := 32 })))

/-- A member allowed only at the normal level, or only at the trap level (R147). -/
def needLevel (s : State) (trap : Bool) : Except Stop Unit := need (s.cur.trapped == trap) privilege

/-- TRAP: enters the trap level with a code and a value for %trapaddr (R149). -/
def execTrap (a : BitVec 8) (i : BitVec 10) (s : State) : Res :=
  run s (do
    needLevel s false
    let v ← readS s a
    .error (.trap { cause := 1, addr := v, tcode := i.toNat }))

/-- TRET: leaves the trap level (R150). -/
def execTret (s : State) : Res :=
  runTo s (do
    needLevel s true
    .ok (trapReturn s))

/-- A word index or all ones for none (R151). -/
def indexOrOnes (o : Option W32) : W64 := zext64 (o.getD (BitVec.allOnes 32))

/-- The split-table entries that hold a fragment, one bit each. -/
def liveEntries (t : Strand) : Nat := t.frags.foldl (fun n f => n + 2 ^ f.1) 0

/-- The system registers (R151). -/
def sysReg (s : State) (n : Nat) : W64 :=
  let t := s.cur
  let f := s.curFrag
  match n with
  | 0 => zext64 t.trap.retIdx
  | 1 => indexOrOnes f.join
  | 2 => indexOrOnes f.pendJoin
  | 3 => w64 (f.stack.length * 16 + liveEntries t)
  | 4 => w64 (if t.trapped then t.trap.retRep else f.repPos)
  | 5 => match f.resv with
    | some r => r.addr
    | none => 0
  | 6 => w64 (s.curPly.ntile * 256 + t.blocks)
  | _ => w64 s.curPly.slot

/-- SRD (R152). -/
def execSrd (a : BitVec 8) (n : BitVec 10) (s : State) : Res :=
  run s (do
    need (decide (n.toNat < 8)) (illegalOperand 2)
    writeS s a (sysReg s n.toNat))

/-- SWR: the checks in the order of R152, then TRETIDX is written. -/
def execSwr (a : BitVec 8) (n : BitVec 10) (s : State) : Res :=
  run s (do
    needLevel s true
    need (decide (n.toNat < 8)) (illegalOperand 2)
    need (decide (n.toNat = 0)) privilege
    let v ← readS s a
    .ok (s.modCur (fun t => { t with trap := { t.trap with retIdx := w32 (bits v 0 32), written := true } })))

/-- The new words of a segment register only narrow those of the launch (R153, R62). -/
def segNarrows (l n : Seg) : Bool :=
  n.base == l.base && bit n.ctl 60 == bit l.ctl 60 && bits n.ctl 61 3 == 0 &&
    [57, 58, 59].all (fun i => bit l.ctl i || !(bit n.ctl i)) && decide (bits n.ctl 0 57 ≤ bits l.ctl 0 57)

/-- SEGLD: loads a segment register from a pair (R61, R153). -/
def execSegld (a : BitVec 8) (g : BitVec 3) (s : State) : Res :=
  run s (do
    needLevel s true
    need (decide (a.toNat ≤ 190)) (illegalOperand 0)
    let n : Seg := { base := sreg s a.toNat, ctl := sreg s (a.toNat + 1) }
    need (segNarrows ((s.vdev s.curPly.vdev).launchSeg g.toNat) n) (illegalOperand 2)
    .ok (s.modCur (fun t => { t with g := Tab.put g.toNat n t.g })))

/-- SEGRD: reads a segment register into a pair (R153). -/
def execSegrd (a : BitVec 8) (g : BitVec 3) (s : State) : Res :=
  run s (do
    need (decide (a.toNat ≤ 190)) (illegalOperand 0)
    let x : Seg := Tab.get {} s.cur.g g.toNat
    .ok (setSreg (setSreg s a.toNat x.base) (a.toNat + 1) x.ctl))

/-- ABORT: kills the ply with its own record and no other (R154). -/
def execAbort (a : BitVec 8) (i : BitVec 10) (s : State) : Res :=
  runTo s (do
    let v ← readS s a
    let r := consumedRecord s s.iss.ply { cls := 4, cause := 1, strand := s.iss.strand, frag := s.iss.frag, pc := s.iss.w.toNat } 2 false
    .ok (halt (contain s s.iss.ply { r with markval := v, markcode := i.toNat })))

/-- Make a fragment the issuing one, at its program counter. -/
def focus (s : State) (p k f : Nat) : State :=
  { s with iss := { ply := p, strand := k, frag := f, w := (s.fragOf p k f).pc, halted := false, rep := none } }

/-- ILLEGAL_ENCODING: a fragment whose chain is not well formed or holds an illegal word takes the trap at the chain's first word (R112).
[DEDUCED: log 70] -/
def execIllegalEncoding (p k f : Nat) (s : State) : Res :=
  .next (if s.liveFrag p k f then takeTrap (focus s p k f) { cause := 2 } else s)

/-- CODE_FETCH_FAULT: a fragment whose next word fails R65 takes the fetch trap; one whose translation fails parks (R343, R364). -/
def execCodeFetchFault (p k f : Nat) (s : State) : Res :=
  if s.liveFrag p k f then
    match failedFetch (focus s p k f) with
    | some r => runTo (focus s p k f) (.error (fetchStop r))
    | none => .next s
  else .next s

end Sys2Proof.Machine
end

