-- ==== Sys2Proof/Machine/Barrier.lean ====
section
/-! DEFINITION. Barrier-object instructions, waits and counters (R204 to R207), ply and skein barriers (R208), and the wakes. -/
namespace Sys2Proof.Machine

/-- The object pointer of a barrier operation: tag 1 or 2 and 32-B aligned, else an illegal operand; then R65 (R204), with the permissions that the
operation needs. [DESIGN CHOICE: log 100] -/
def needObj (s : State) (ptr : W64) (perms : List Nat) : Except Stop (Nat × Nat) := do
  need ((ptrTag ptr == 1 || ptrTag ptr == 2) && ptr.toNat % 32 == 0) (illegalOperand 2)
  let ea ← checkOne s ptr 0 ⟨perms, false, 32, 32, [1, 2]⟩
  match scratchOf s s.iss.ply ea with
  | some x => .ok x
  | none => .error (hold s)

/-- A barrier operation waits for the transfers that still read its bytes (R196). -/
def needFree (s : State) (x : Nat × Nat) : Except Stop Unit := need (!(rangeRead s s.iss.ply x.1 x.2 32)) (hold s)

/-- A step of the issuing fragment on an object. -/
def stepHere (s : State) (x : Nat × Nat) (f : BarObj → BarObj × Bool) : State :=
  barrierStep s s.iss.ply s.iss.strand s.iss.frag x.1 x.2 f

/-- A destination of the scalar pipe is a register, %zero or %fpst (R52). -/
def needDest (d : BitVec 8) : Except Stop Unit := need (decide (d.toNat ≤ 192 ∨ d.toNat = 208)) (illegalOperand 0)

/-- BINIT (R204). -/
def execBinit (a b : BitVec 8) (s : State) : Res :=
  run s (do
    let ptr ← readS s a
    let n ← readS s b
    need (bits n 0 16 != 0) (illegalOperand 2)
    let x ← needObj s ptr [0, 1]
    needFree s x
    let t := stepHere s x (fun o => (o.init (bits n 0 16), false))
    .ok (t.modPly x.1 (fun y => { y with objs := if y.objs.contains x.2 then y.objs else y.objs ++ [x.2] })))

/-- BARR: a release if asked for, then one arrival; sb8 takes the phase in which it counted (R204, R207). -/
def execBarr (a b : BitVec 8) (sc : BitVec 3) (l : BitVec 1) (s : State) : Res :=
  run s (do
    let ptr ← readS s a
    needDest b
    let x ← needObj s ptr [0, 1]
    needFree s x
    let t ← if l = 1 then releaseHere (endProtection s s.iss.ply 8) sc.toNat else .ok s
    let ph := (readObj t x.1 x.2).phase
    writeS (stepHere t x BarObj.arrive) b (w64 ph))

/-- BEXP (R204). -/
def execBexp (a b : BitVec 8) (s : State) : Res :=
  run s (do
    let ptr ← readS s a
    let n ← readS s b
    let x ← needObj s ptr [0, 1]
    needFree s x
    .ok (stepHere s x (fun o => o.expect n.toNat)))

/-- The acquire that a wait's flag asks for. -/
def acqOne (sc : BitVec 3) (l : BitVec 1) : Option Nat := if l = 1 then some sc.toNat else none

/-- The acquire that a wait asks for can take effect now (R244). -/
def acquireReady (s : State) (a : Option Nat) : Bool :=
  match a with
  | some sc => canReplay s s.curCore sc 0
  | none => true

/-- A parked wait of the issuing fragment may end: its ply is on a core, and no other fragment of its strand is at the trap level (R345). -/
def mayWake (s : State) : Bool := s.curPly.resident && !(s.cur.trapped && s.cur.trap.frag != s.iss.frag)

/-- The acquire after a wait that succeeds. -/
def acquireIf (s : State) (a : Option Nat) : State :=
  match a with
  | some sc => acquireHere s sc 0
  | none => s

/-- The broken-barrier trap (R205). -/
def brokenBarrier (detail : Nat) : Stop := .trap { cause := 9, detail := detail }

/-- BWAIT: parks until the phase has moved on; a broken object traps (R205). -/
def execBwait (a b : BitVec 8) (sc : BitVec 3) (l : BitVec 1) (s : State) : Res :=
  run s (do
    let ptr ← readS s a
    let ph ← readS s b
    let x ← needObj s ptr [0]
    let o := readObj s x.1 x.2
    need (!o.broken) (brokenBarrier 0)
    if o.phase = bits ph 0 32 then
      .error (.stay (s.modCurFrag (fun f => { f with wait := .bwait ptr (w32 (bits ph 0 32)) (acqOne sc l) })))
    else do
      need (acquireReady s (acqOne sc l)) (hold s)
      .ok (acquireIf s (acqOne sc l)))

/-- BWAIT_WAKE: a parked BWAIT whose phase has moved on returns; one on a broken object traps (R205). A ply that is not on a core, or a
strand at the trap level in another fragment, wakes later; so does one whose acquire has to wait. -/
def execBwaitWake (p k f : Nat) (s : State) : Res :=
  if s.liveFrag p k f then
    match (s.fragOf p k f).wait with
    | .bwait obj phase acq =>
      let t := focus s p k f
      if !(mayWake t && acquireReady t acq) then .next (s.later (.bwaitWake p k f))
      else
        match scratchOf t p obj with
        | none => runTo t (.error (brokenBarrier 0))
        | some (q, o) =>
          let b := readObj t q o
          if b.broken then .next (takeTrap (t.modCurFrag (fun x => { x with wait := .none })) { cause := 9 })
          else if b.phase = phase.toNat then .next s
          else .next (advance ((acquireIf t acq).modCurFrag (fun x => { x with wait := .none })))
    | _ => .next s
  else .next s

/-- BTRY: the pair is the phase and the result: 2 for a broken object, 1 when the phase has moved on, else 0 (R205). -/
def execBtry (a b : BitVec 8) (sc : BitVec 3) (l : BitVec 1) (s : State) : Res :=
  run s (do
    let ptr ← readS s a
    groupOk b 2
    let x ← needObj s ptr [0]
    let o := readObj s x.1 x.2
    let set (t : State) (v : W64) : State := setSreg t (b.toNat + 1) v
    if o.broken then .ok (set s 2)
    else if o.phase = bits (sreg s b.toNat) 0 32 then .ok (set s 0)
    else do
      need (acquireReady s (acqOne sc l)) (hold s)
      .ok (acquireIf (set s 1) (acqOne sc l)))

/-- Read a counter at its home, bank, host or peer, never from L1 nor from the log; no older copy stays in the L1 (R206, R251). -/
def readCounter (s : State) (p : Place) (pol : Nat) : Rd × State :=
  let c := ctxOf s
  match p with
  | .hbm pa => let t := leaveL1 (homeTouch (ownReds s c (pa / 128)) pa pol) c.core (l1Key 0 (pa / 128)); (.got (homeRead t pa 8) none false, t)
  | .scratch q o => (.got (scrRead s q o 8) none false, s)
  | .host pa =>
    match c.replies.findSome? (fun r => match r with
        | .hostSector _ q d => if q == pa / 128 * 128 then some d else none
        | _ => none) with
    | some d => (.got ((d.drop (pa % 128)).take 8) none false, leaveL1 (s.modCurFrag (fun f => { f with replies := [] })) c.core (l1Key 2 (pa / 128)))
    | none =>
      if c.replies.contains (.hostLost (pa / 128 * 128)) then
        (.got (freeBytes s.draws 8) none false, { s.modCurFrag (fun f => { f with replies := [] }) with draws := s.draws + 1 })
      else (.wait, askOnce s c (.hostRead (pa / 128 * 128)) (fun id => .hostReadReq id (s.tag c.vdev) (pa / 128 * 128)) none)
  | .peer r o => let q := peerBytes s c r o 8 pol; (q.1, q.2.modCurFrag (fun f => { f with replies := if q.1 = .wait then f.replies else [] }))
  | .ws _ => (.got (bytesLE 0 8) none false, s)

/-- One read of CTRY: the outcome of the try, when the counter has been read. -/
def tryCounter (s : State) (ptr thr : W64) : Except Stop (Option Bool × State) := do
  let ea ← checkOne s ptr 0 ⟨[0], false, 8, 8, [0, 1, 2, 4, 5]⟩
  match translateAcc s (ctxOf s) none 0 ea 0 0 with
  | (.wait, t) => .ok (none, t)
  | _ => do
    let (p, _, t) ← translateOne s none 0 ea 0 0
    match readCounter t p (ptrPol ea) with
    | (.got b _ _, u) => .ok (some (decide (thr.toNat ≤ natLE b)), u)
    | (.lost, u) => .error (consumeHere u { cls := 6, cause := 8, addr := ea })
    | (.refused, u) => .error (consumeHere u { cls := 6, cause := 9, addr := ea, unrec := true, kill := true })
    | (.wait, u) => .ok (none, u)

/-- CTRY ends with a result. -/
def ctryEnd (s : State) (d : Nat) (acq : Option Nat) (ok : Bool) : State :=
  let s := setSreg s d (b2w ok)
  let s := if ok then acquireIf s acq else s
  advance (s.modCurFrag (fun f => { f with wait := .none }))

/-- CTRY: the first read decides at once when it meets the threshold; else the fragment parks and re-reads (R206). -/
def execCtry (a b : BitVec 8) (sc : BitVec 3) (l : BitVec 1) (s : State) : Res :=
  runTo s (do
    let ptr ← readS s a
    groupOk b 2
    let thr := sreg s b.toNat
    let acq := acqOne sc l
    let (r, t) ← tryCounter s ptr thr
    if r = some true then do
      need (acquireReady t acq) (hold t)
      .ok (ctryEnd t (b.toNat + 1) acq true)
    else
      let w : Wait := .ctry ptr thr (BitVec.ofNat 8 (b.toNat + 1)) acq (t.clock + 2048)
      .error (.stay ((t.modCurFrag (fun f => { f with wait := w })).later (.ctryReread t.iss.ply t.iss.strand t.iss.frag))))

/-- A CTRY whose counter has been met ends with 1, at once or when its acquire can take effect (R244). -/
def ctryMeet (s : State) (d : BitVec 8) (acq : Option Nat) : State :=
  if acquireReady s acq then ctryEnd s d.toNat acq true else s.modCurFrag (fun f => { f with wait := .ctryMet d acq })

/-- CTRY_REREAD: a parked CTRY reads its counter again (R206); at each clock until it ends. A read that was under way when the 2,048 clocks were over
decides as it completes. -/
def execCtryReread (p k f : Nat) (s : State) : Res :=
  if s.liveFrag p k f then
    let t := focus s p k f
    match (s.fragOf p k f).wait with
    | .ctry ptr thr d acq deadline =>
      if !(mayWake t) then .next s
      else
        runTo t (do
          let (r, u) ← tryCounter t ptr thr
          .ok (match r with
            | some true => ctryMeet u d acq
            | some false => if s.clock < deadline then u else ctryEnd u d.toNat acq false
            | none => u))
    | .ctryMet d acq => .next (if mayWake t then ctryMeet t d acq else s)
    | _ => .next s
  else .next s

/-- A read of the fragment is on its way: a request of its own is out, or its answer has come. -/
def readUnderWay (s : State) (p k f : Nat) : Bool :=
  (s.fragOf p k f).replies != [] || s.plat.reqs.any (fun r => r.who == .frag p k f && r.ask.forAsker)

/-- CTRY_TIMEOUT: 2,048 clocks after issue the result is 0 (R206), unless a read is under way, which decides as it completes, or once the strand has
left the trap level (R345). [DESIGN CHOICE: log 99] -/
def execCtryTimeout (p k f : Nat) (s : State) : Res :=
  if s.liveFrag p k f then
    match (s.fragOf p k f).wait with
    | .ctry _ _ d acq deadline =>
      let t := focus s p k f
      if decide (s.clock < deadline) || !(mayWake t) || readUnderWay s p k f then .next s else .next (ctryEnd t d.toNat acq false)
    | _ => .next s
  else .next s

/-! ## BAR.PLY and BAR.SKN (R208, R44) -/

/-- The fragments of the strand that do not exit cannot meet at one address: every one of them stands at a barrier, at different words. -/
def barMismatch (s : State) : Bool :=
  let t := s.cur
  let w := s.curFrag.pc
  let others := t.frags.filter (fun f => f.1 != s.iss.frag)
  (t.frags.any (fun f => f.2.held.any (fun h => h.bar && h.addr != w))) ||
    (others != [] && others.all (fun f => f.2.atBar) && others.any (fun f => f.2.pc != w))

/-- A barrier instruction: the fragment arrives; the commit follows once everyone has. -/
def barrierAt (s : State) (skein : Bool) (sc : BitVec 3) (l : BitVec 2) : Res :=
  runTo s (do
    need (!s.cur.trapped) privilege
    need (!(skein && (s.skein s.curPly.skein).broken)) (brokenBarrier 1)
    need (!(skein && l != 0 && sc == 0)) (illegalOperand 2)
    need (!(barMismatch s)) (.trap { cause := 8 })
    let t := settle (s.modCurFrag (fun f => { f with wait := .bar skein (acqFlag sc l) (relFlag sc l) }))
    .ok (halt (checkBarriers t t.curPly.skein)))

/-- BAR.PLY. -/
def execBarPly (sc : BitVec 3) (l : BitVec 2) (s : State) : Res := barrierAt s false sc l

/-- BAR.SKN. -/
def execBarSkn (sc : BitVec 3) (l : BitVec 2) (s : State) : Res := barrierAt s true sc l

/-! ## COMMIT (R44) -/

/-- Work of a ply that a commit and a save wait for: transfers, collectives, tile operations, queries, and instructions under way in fragments
that can go on. -/
def workLeft (s : State) (p : Nat) : Bool :=
  (s.ply p).strands.any (fun t => t.2.frags.any (fun f => f.2.underWay && !(t.2.trapped && t.2.trap.frag != f.1))) ||
  s.xfers.any (fun x => x.ply == p) || (s.ply p).tileOps != [] || s.bays.any (fun b => b.2.queries.any (fun q => q.ply == p))

/-- A held entry of a ply that holds an error not yet detected: the commit reads it (R371). -/
def heldBad (s : State) (p : Nat) : Option LogEntry := (s.core (s.ply p).core).log.find? (fun e => e.ply == p && e.held && e.bad)

/-- Every fragment of a ply goes past its barrier; one that asked for a release or an acquire waits for it (R208). -/
def passBarrier (s : State) (p : Nat) : State :=
  let s := (s.ply p).strands.foldl (fun s t => s.stamp p t.1) s
  s.modPly p (fun y => { y with strands := y.strands.map (fun t => (t.1, Strand.settle { t.2 with frags := t.2.frags.map (fun f =>
    match f.2.wait with
    | .bar skein a r => (f.1, { f.2 with pc := f.2.pc + 1, repPos := 0, wait := if a = none ∧ r = none then .none else .passing skein r a })
    | _ => f) })) })

/-- The fragments of plies, as ply, strand and fragment. -/
def fragsOf (s : State) (ps : List Nat) : List (Nat × Nat × Nat) :=
  ps.flatMap (fun p => (s.ply p).strands.flatMap (fun t => t.2.frags.map (fun f => (p, t.1, f.1))))

/-- Begin or go on with the release of a fragment past a barrier (R208). -/
def passRelease (s : State) (p k f : Nat) : State :=
  match (s.fragOf p k f).wait with
  | .passing skein (some sc) acq =>
    let t := focus s p k f
    if !t.curPly.resident then s
    else
      let r := releaseFor t (ctxOf t) sc
      let u := { r.1 with iss := s.iss }
      if r.2 then u.modFrag p k f (fun x => { x with wait := if acq = none then .none else .passing skein none acq, fence := none }) else u
  | _ => s

/-- Some fragment past the same barrier still waits for its release. -/
def releasesLeft (s : State) (p : Nat) (skein : Bool) : Bool :=
  let ps := if skein then (s.skein (s.ply p).skein).plies else [p]
  (fragsOf s ps).any (fun x => match (s.fragOf x.1 x.2.1 x.2.2).wait with
    | .passing b (some _) _ => b == skein
    | _ => false)

/-- The acquire of a fragment past a barrier, once every release of that barrier is performed (R208, R245). -/
def passAcquire (s : State) (p k f : Nat) : State :=
  match (s.fragOf p k f).wait with
  | .passing skein none (some sc) =>
    let c := (s.ply p).core
    if !(s.ply p).resident || releasesLeft s p skein || !(canReplay s c sc 0) then s
    else (acquire s c sc 0).modFrag p k f (fun x => { x with wait := .none })
  | _ => s

/-- The releases of plies past a barrier, then their acquires. -/
def passOn (s : State) (ps : List Nat) : State :=
  let fs := fragsOf s ps
  let s := fs.foldl (fun s x => passRelease s x.1 x.2.1 x.2.2) s
  fs.foldl (fun s x => passAcquire s x.1 x.2.1 x.2.2) s

/-- The commit of the plies of one barrier (R44): each commits, passes its barrier and takes its snapshot; then they release, then acquire. -/
def commitAll (s : State) (ps : List Nat) : State :=
  let s := ps.foldl (fun s q => commitPly (passBarrier s q) q) s
  ps.foldl (fun s q => saveIfAsked s q) (passOn s ps)

/-- COMMIT: when every strand has arrived and the interval's work is done (R44, R195). -/
def execCommit (p : Nat) (s : State) : Res :=
  .next (if !(barrierMet s p) then s
    else if (s.reel (s.ply p).reel).rerun.isSome then s.later (.ckptRerun (s.ply p).queue)
    else
      let ps := barrierPlies s p
      if ps.any (workLeft s) then s.later (.commit p)
      else
        let s := performReds s (fun r => ps.any (fun q => r.ofPly q))
        match ps.findSome? (fun q => (heldBad s q).map (fun e => (q, e))) with
        | some (q, e) => consumeError (seeEntry s (s.ply q).core e) q { cls := 6, cause := 5, addr := e.vaddr }
        | none => commitAll s ps)

end Sys2Proof.Machine
end

