-- ==== Sys2Proof/Machine/Planes.lean ====
section
/-! DEFINITION. Element formats of records (R77), matrix formats, bit planes and plane sets (R92 to R97). -/
namespace Sys2Proof.Machine

/-- Bits of an element of a format code (R77); 0 for a code that is not defined. -/
def formatBits (n : Nat) : Nat :=
  if [0, 8, 22].contains n then 4
  else if [1, 9, 20, 21, 23].contains n then 8
  else if [2, 10, 16, 17].contains n then 16
  else if [3, 11, 18].contains n then 32
  else if [4, 12, 19].contains n then 64
  else 0

/-- A matrix format (R92): plane count, and for floating point its format; for integers, whether it is signed. -/
structure MatFmt where
  p : Nat
  fp : Option Fmt
  signed : Bool
  deriving DecidableEq, Repr

/-- The matrix formats by descriptor code (R92). -/
def matFmt (code : Nat) : Option MatFmt :=
  match code with
  | 0 => some ⟨2, some fmtE2M1, true⟩
  | 1 => some ⟨3, some fmtE5M2, true⟩
  | 2 => some ⟨4, some fmtE4M3, true⟩
  | 3 => some ⟨8, some fmtBF16, true⟩
  | 4 => some ⟨11, some fmtF16, true⟩
  | 5 => some ⟨24, some fmtF32, true⟩
  | 6 => some ⟨53, some fmtF64, true⟩
  | 7 => some ⟨8, none, true⟩
  | 8 => some ⟨8, none, false⟩
  | 9 => some ⟨4, none, true⟩
  | 10 => some ⟨4, none, false⟩
  | _ => none

/-- The matrix format of a record's element format (R199). -/
def planeFmt (code : Nat) : Option MatFmt :=
  match code with
  | 22 => matFmt 0
  | 21 => matFmt 1
  | 20 => matFmt 2
  | 17 => matFmt 3
  | 16 => matFmt 4
  | 18 => matFmt 5
  | 19 => matFmt 6
  | 1 => matFmt 7
  | 9 => matFmt 8
  | 0 => matFmt 9
  | 8 => matFmt 10
  | _ => none

/-- Exponent-field width. -/
def MatFmt.e (m : MatFmt) : Nat :=
  match m.fp with
  | some f => f.ew
  | none => 0

/-- Bytes of a group block of an A or a B plane set (R92 to R94). -/
def MatFmt.block (m : MatFmt) (b : Bool) : Nat :=
  match m.fp, b with
  | some f, false => 512 * (2 + f.ew + m.p)
  | some f, true => 1024 + 512 * f.ew + 4096 * ((m.p + 7) / 8)
  | none, false => 512 * m.p
  | none, true => 4096

/-- Offsets in a group block of the bytes that hold bits of element (i, k) (R93, R94). -/
def MatFmt.reach (m : MatFmt) (b : Bool) (i k : Nat) : List Nat :=
  let planes (n : Nat) : List Nat := (upFrom 0 n).map (fun q => 512 * q + 4 * i + k / 8)
  match m.fp, b with
  | some f, false => planes (2 + f.ew + m.p)
  | some f, true => planes (2 + f.ew) ++ (upFrom 0 ((m.p + 7) / 8)).map (fun j => 512 * (2 + f.ew) + 4096 * j + 32 * i + k)
  | none, false => planes m.p
  | none, true => [32 * i + k]

/-- An element as the planes hold it: sign, NaN, exponent field, significand with the hidden bit at 2^(p-1). -/
structure PlaneElem where
  neg : Bool
  nan : Bool
  ex  : Nat
  m   : Nat
  deriving DecidableEq, Repr

/-- An element of a floating-point format, its significand rounded to d planes (R97); a NaN or an infinity keeps the upper bits of its own.
[DESIGN CHOICE: log 96] -/
def planeElem (f : Fmt) (d mode : Nat) (sat : Bool) (x : Nat) : PlaneElem :=
  let p := f.prec
  let neg := x / 2 ^ (f.ew + f.fw) % 2 == 1
  let ex := x / 2 ^ f.fw % 2 ^ f.ew
  let fr := x % 2 ^ f.fw
  let m := if ex = 0 then fr else 2 ^ f.fw + fr
  let cut := m / 2 ^ (p - d) * 2 ^ (p - d)
  match f.unpack x with
  | .nan _ => ⟨neg, true, ex, cut⟩
  | .inf _ => ⟨neg, false, ex, cut⟩
  | .fin _ _ _ =>
    let q := (roundShift mode neg m (p - d)).1 * 2 ^ (p - d)
    let r : PlaneElem := if q = 2 ^ p then ⟨neg, false, ex + 1, 2 ^ (p - 1)⟩ else ⟨neg, false, ex, q⟩
    let top := 2 ^ f.ew - 1 - b2n f.inf
    if top < r.ex ∨ (r.ex = top ∧ f.maxM < r.m) then
      (if sat || !f.inf then ⟨neg, false, top, f.maxM / 2 ^ (p - d) * 2 ^ (p - d)⟩ else ⟨neg, false, 2 ^ f.ew - 1, 2 ^ (p - 1)⟩)
    else r

/-- A plane of 512 bytes: bit k of row i (R92). -/
def planeBytes (f : Nat → Nat → Bool) : Bytes :=
  (upFrom 0 128).flatMap (fun i => (upFrom 0 4).map (fun b =>
    BitVec.ofNat 8 ((upFrom 0 8).foldl (fun n t => n + b2n (f i (8 * b + t)) * 2 ^ t) 0)))

/-- A group block: el i k is the element of row (A) or column (B) i at position k along K (R93, R94, R97). -/
def groupBlock (m : MatFmt) (b : Bool) (d mode : Nat) (sat : Bool) (el : Nat → Nat → Nat) : Bytes :=
  match m.fp with
  | some f =>
    let e (i k : Nat) : PlaneElem := planeElem f d mode sat (el i k)
    let head := planeBytes (fun i k => (e i k).neg) ++ planeBytes (fun i k => (e i k).nan) ++
      (upFrom 0 f.ew).flatMap (fun j => planeBytes (fun i k => (e i k).ex.testBit (f.ew - 1 - j)))
    if b then
      let s := (m.p + 7) / 8
      head ++ (upFrom 0 s).flatMap (fun j => (upFrom 0 128).flatMap (fun i => (upFrom 0 32).map (fun k =>
        BitVec.ofNat 8 ((e i k).m * 2 ^ (8 * s - m.p) / 2 ^ (8 * (s - 1 - j))))))
    else head ++ (upFrom 0 m.p).flatMap (fun q => planeBytes (fun i k => (e i k).m.testBit (m.p - 1 - q)))
  | none =>
    if b then
      (upFrom 0 128).flatMap (fun i => (upFrom 0 32).map (fun k =>
        BitVec.ofNat 8 (intBits 8 (intVal m.signed m.p (el i k)))))
    else (upFrom 0 m.p).flatMap (fun q => planeBytes (fun i k => (el i k).testBit (m.p - 1 - q)))

/-! ## Elements as the engine reads them (R96) -/

/-- Bit k of row i of the plane at an offset. -/
def planeBit (mem : Mem) (ofs i k : Nat) : Bool := (Mem.byte mem (ofs + 4 * i + k / 8)).getLsbD (k % 8)

/-- A number from n planes, the first one highest. -/
def planesNat (mem : Mem) (ofs i k : Nat) : Nat → Nat
  | 0 => 0
  | n + 1 => planesNat mem ofs i k n * 2 + b2n (planeBit mem (ofs + 512 * n) i k)

/-- Slice bytes of column i at position k, the first one highest. -/
def slicesNat (mem : Mem) (ofs i k : Nat) : Nat → Nat
  | 0 => 0
  | n + 1 => slicesNat mem ofs i k n * 256 + (Mem.byte mem (ofs + 4096 * n + 32 * i + k)).toNat

/-- The value of a floating-point element's planes, its significand cut to d bits. -/
def planeValue (f : Fmt) (neg nan : Bool) (ex m d : Nat) : Num :=
  if nan then .nan false
  else if f.inf && ex == 2 ^ f.ew - 1 then .inf neg
  else .fin neg (m / 2 ^ (f.prec - d) * 2 ^ (f.prec - d)) ((Nat.max ex 1 : Nat) - (f.bias : Int) - (f.prec - 1 : Nat))

/-- An integer element cut to its highest d bits, toward minus infinity. -/
def intValue (m : MatFmt) (x d : Nat) : Num :=
  let v := intVal m.signed m.p (x / 2 ^ (m.p - d) * 2 ^ (m.p - d))
  .fin (decide (v < 0)) v.natAbs 0

/-- Element (i, k) of a group block at an offset, read as A or as B with d planes or bits (R96). An integer's slice byte is taken as it is
stored. [DEDUCED: log 33] -/
def blockElem (mem : Mem) (m : MatFmt) (b : Bool) (d ofs i k : Nat) : Num :=
  match m.fp with
  | some f =>
    let neg := planeBit mem ofs i k
    let nan := planeBit mem (ofs + 512) i k
    let ex := planesNat mem (ofs + 1024) i k f.ew
    let sig := ofs + 1024 + 512 * f.ew
    if b then
      let s := (d + 7) / 8
      planeValue f neg nan ex (slicesNat mem sig i k s * 2 ^ m.p / 2 ^ (8 * s)) d
    else planeValue f neg nan ex (planesNat mem sig i k d * 2 ^ (m.p - d)) d
  | none =>
    if b then
      let v := intVal m.signed 8 (Mem.byte mem (ofs + 32 * i + k)).toNat
      .fin (decide (v < 0)) v.natAbs 0
    else intValue m (planesNat mem ofs i k d * 2 ^ (m.p - d)) d

end Sys2Proof.Machine
end

