-- ==== Sys2Proof/Machine/Transfer.lean ====
section
/-! DEFINITION. The copy units and engines (R194 to R203, R381 to R383, R399): issue of ASYNCA, the checks before a transfer moves a byte, its
moves, pauses and landing reports, remote atomics and collectives. -/
namespace Sys2Proof.Machine

/-! ## Issue (R194, R195, R200) -/

/-- Copy units hold one entry for these kinds (R196). -/
def XKind.copies (k : XKind) : Bool := !(k == .ratom || k == .coll)

/-- A copy transfer still holds its entry of the range scoreboard: its last scratch access is not yet performed. -/
def Xfer.holdsEntry (x : Xfer) : Bool := x.kind.copies && !x.done && !(x.started && x.units.isEmpty)

/-- The scoreboard of the core has a free entry of 16; else the fragment is not ready (R196). -/
def needEntry (s : State) : Except Stop Unit :=
  need (decide ((s.xfers.filter (fun x => x.core == s.curCore && x.holdsEntry)).length < 16)) (hold s)

/-- What a completion object named in a group does to protection at issue: a counter, or a barrier object in another core's scratch, ends
it with bit 9 (R197, R355); in a re-run the captured ply's mates are on no core, and naming one ends it too (R411). -/
def completionEnds (s : State) (ptr : W64) : State :=
  let p := s.iss.ply
  if ptr = 0 then s
  else if ptrTag ptr = 1 ∨ ptrTag ptr = 2 then
    match scratchOf s p ptr with
    | some (q, _) => if (s.ply q).core ≠ s.curCore then endProtection s p 9 else s
    | none => if ptrTag ptr = 2 ∧ (s.reel s.curPly.reel).rerun.isSome then endProtection s p 9 else s
  else endProtection s p 9

/-- A transfer as its instruction issues it. -/
def newXfer (s : State) (k : XKind) (a : W64) (grp : List W64) (acq rel : Option Nat) : Xfer :=
  { id := s.fresh, kind := k, vdev := s.curPly.vdev, ply := s.iss.ply, strand := s.iss.strand, frag := s.iss.frag, core := s.curCore,
    w := s.iss.w, a := a, grp := grp, acq := acq, rel := rel, segs := s.cur.g, arr := !s.curPly.prot, handler := s.cur.trapped }

/-- Hand a transfer to its engine; a release flag ends protection as the instruction issues. -/
def launchXfer (s : State) (x : Xfer) : State :=
  let s := if x.rel.isSome then endProtection s s.iss.ply 8 else s
  ({ s with xfers := s.xfers ++ [x] }.bump).later (.transferStart x.id)

/-- The values of n registers from s[b] on. -/
def groupOf (s : State) (b : BitVec 8) (n : Nat) : List W64 := (upFrom b.toNat n).map (sreg s)

/-- Bytes [ptr, ptr + n) pass R65, and do not run past the address field. -/
def checkRange (s : State) (ptr : W64) (acc : Acc) : Except Stop W64 := do
  let ea ← checkOne s ptr 0 { acc with align := 1 }
  need (decide (ptrAddr ptr + acc.bytes ≤ 2 ^ tagBits (ptrTag ptr))) (.trap { cause := 0x0A, detail := 2, addr := ptr })
  .ok ea

/-- A check that comes before alignment (R65): a pointer fault (0x0A) or a weight-store write (0x0E) of a range. -/
def early (s : State) (cause : Nat) (ptr : W64) (acc : Acc) : Except Stop Unit :=
  match checkOne s ptr 0 { acc with align := 1 } with
  | .error (.trap t) => need (t.cause != cause) (.trap t)
  | _ => .ok ()

/-- The scratch range of a pointer, when it names scratch. -/
def scratchRange (s : State) (p : Nat) (ptr : W64) (n : Nat) : List (Nat × Nat × Nat) :=
  match scratchOf s p ptr with
  | some (q, o) => [(q, o, n)]
  | none => []

/-- TCOPY: the record pointer and the scratch offset are checked at issue; everything else when the record is read (R198). -/
def tcopy (s : State) (k : XKind) (a b : BitVec 8) (sc : BitVec 3) (l : BitVec 2) : Eff := do
  let ptr ← readS s a
  groupOk b 5
  let g := groupOf s b 5
  let low := if k = .tcopyPl then bits ptr 1 6 else bits ptr 0 7
  need (decide (ptrTag ptr ≤ 1)) (illegalOperand 2)
  early s 0x0A ptr ⟨[0], false, 128, 128, [0, 1]⟩
  let off := (sreg s b.toNat).toNat
  need (low == 0 && decide (off < 2 ^ 20) && off % 16 == 0) (illegalOperand 2)
  let _ ← checkOne s (w64 (ptr.toNat / 128 * 128)) 0 ⟨[0], false, 128, 128, [0, 1]⟩
  needEntry s
  let own := (s.iss.ply, off, s.curPly.scrSize - off)
  let x := newXfer s k ptr g (acqFlag sc l) (relFlag sc l)
  let x := if k = .tcopySt then { x with rd := [own] } else { x with wr := [own] }
  .ok (launchXfer (completionEnds s (sreg s (b.toNat + 1))) x)

/-- TCOPY.LD. -/
def execTcopyLd (a b : BitVec 8) (sc : BitVec 3) (l : BitVec 2) (s : State) : Res := run s (tcopy s .tcopyLd a b sc l)

/-- TCOPY.ST. -/
def execTcopySt (a b : BitVec 8) (sc : BitVec 3) (l : BitVec 2) (s : State) : Res := run s (tcopy s .tcopySt a b sc l)

/-- TCOPY.PL. -/
def execTcopyPl (a b : BitVec 8) (sc : BitVec 3) (l : BitVec 2) (s : State) : Res := run s (tcopy s .tcopyPl a b sc l)

/-- BCOPY, BFILL and SCOPY (R200): pointers and count are checked at issue, in the order of R65. src is the source pointer, none for a fill. -/
def bulk (s : State) (k : XKind) (a b : BitVec 8) (acq rel : Option Nat) : Eff := do
  let dst ← readS s a
  groupOk b 3
  let g := groupOf s b 3
  let n := (sreg s (b.toNat + 1)).toNat
  let src : Option W64 := if k = .bfill then none else some (sreg s b.toNat)
  let most := if k = .scopy then 655360 else 2 ^ 32
  let tags := if k = .scopy then [1, 2] else [0, 1, 2, 3, 4, 5]
  let dtags := if k = .scopy then [1, 2, 3] else tags
  let acc : Acc := ⟨[1], true, n, 1, dtags⟩
  early s 0x0A dst acc
  if let some q := src then early s 0x0A q ⟨[0], false, n, 1, tags⟩
  early s 0x0E dst acc
  need (dst.toNat % 16 == 0 && (src.getD 0).toNat % 16 == 0 && n % 16 == 0 && decide (16 ≤ n) && decide (n ≤ most)) (illegalOperand 2)
  let _ ← checkRange s dst acc
  let _ ← match src with
    | some q => checkRange s q ⟨[0], false, n, 1, tags⟩
    | none => .ok 0
  needEntry s
  let x := newXfer s k dst g acq rel
  let x := { x with wr := scratchRange s s.iss.ply dst n
                    rd := match src with
                      | some q => scratchRange s s.iss.ply q n
                      | none => [] }
  let s := endForTag s s.iss.ply (ptrTag dst)
  .ok (launchXfer (completionEnds s (sreg s (b.toNat + 2))) x)

/-- BCOPY. -/
def execBcopy (a b : BitVec 8) (sc : BitVec 3) (l : BitVec 2) (s : State) : Res :=
  run s (bulk s .bcopy a b (acqFlag sc l) (relFlag sc l))

/-- BFILL. -/
def execBfill (a b : BitVec 8) (sc : BitVec 3) (l : BitVec 1) (s : State) : Res :=
  run s (bulk s .bfill a b none (acqOne sc l))

/-- SCOPY. -/
def execScopy (a b : BitVec 8) (s : State) : Res := run s (bulk s .scopy a b none none)

/-- RATOM: the target, the operation and the slot are checked at issue (R201). -/
def execRatom (a b : BitVec 8) (s : State) : Res :=
  run s (do
    let ptr ← readS s a
    groupOk b 5
    let g := groupOf s b 5
    let op := (sreg s b.toNat).toNat
    let slot := sreg s (b.toNat + 3)
    need (decide (op < 27)) (illegalOperand 2)
    need (slot == 0 || (decide (ptrTag slot ≤ 1) && slot.toNat % 16 == 0)) (illegalOperand 2)
    let n := amoBytes op
    let _ ← checkOne s ptr 0 ⟨[0, 1], false, n, n, [4, 5]⟩
    .ok (launchXfer (endProtection s s.iss.ply 11) (newXfer s .ratom ptr g none none)))

/-- COLL: an engine of the I/O die runs 16 at once (R202, R336). -/
def execColl (a : BitVec 8) (sc : BitVec 3) (l : BitVec 2) (s : State) : Res :=
  run s (do
    let ptr ← readS s a
    let _ ← checkOne s ptr 0 ⟨[0], false, 64, 64, [0]⟩
    need (decide ((s.xfers.filter (fun x => x.kind == .coll && coreIo x.core == coreIo s.curCore)).length < 16)) (hold s)
    .ok (launchXfer (endProtection s s.iss.ply 11) (newXfer s .coll ptr [] (acqFlag sc l) (relFlag sc l))))

/-! ## Reads and writes of an engine -/

/-- The transfer as the maker of its accesses. -/
def ctxOfX (x : Xfer) : Ctx :=
  { who := .xfer x.id, ply := x.ply, strand := x.strand, frag := x.frag, core := x.core, vdev := x.vdev, segs := x.segs, replies := x.replies, fence := x.fence }

/-- What keeps a transfer from going on: a translation fault, an answer that is not there, or an error that its ply consumes. -/
inductive Halt where
  | fault (i : FaultInfo) (s : State)
  | wait (s : State)
  | error (e : Consumed) (s : State)
  deriving DecidableEq, Repr

/-- The pieces of n bytes from an address that lie in one sector each. -/
def pieces (a n : Nat) : List (Nat × Nat) :=
  let m := Nat.min n (128 - a % 128)
  if n = 0 then [] else if m = n then [(0, n)] else [(0, m), (m, n - m)]

/-- Where the bytes at a tagged address lie, or the fault of their page. -/
def xPlace (s : State) (c : Ctx) (ea : W64) (kind fkind : Nat) : Except Halt (Place × W64 × State) :=
  match translateAcc s c none 0 ea kind 0 with
  | (.here p va, t) => .ok (p, va, t)
  | (.fault n h g, t) => .error (.fault (faultInfo c fkind [{ lane := 0, ea := ea, cause := n, host := h, page := g }] true) t)
  | (.wait, t) => .error (.wait t)

/-- The first of two addresses that is there. -/
def firstOf (a : Option W64) (hit : Bool) (e : W64) : Option W64 := if a = none ∧ hit then some e else a

/-- n bytes at a tagged address, the address of a poisoned sector among them, and that of a held entry that was bad. -/
def xRead (s : State) (c : Ctx) (ea : W64) (n : Nat) : Except Halt (Bytes × Option W64 × Option W64 × State) :=
  (pieces (ptrAddr ea) n).foldlM (fun r q => do
    let e := ea + w64 q.1
    let (p, _, t) ← xPlace r.2.2.2 c e 0 4
    match readPlace t c p q.2 (ptrPol ea) with
    | (.got b po hb, u) => .ok (r.1 ++ b, firstOf r.2.1 po.isSome (w64 (e.toNat / 128 * 128)), firstOf r.2.2.1 hb e, u)
    | (.wait, u) => .error (.wait u)
    | (.lost, u) => .error (.error { cls := 6, cause := 8, addr := e, strand := c.strand, frag := c.frag } u)
    | (.refused, u) => .error (.error { cls := 6, cause := 9, addr := e, strand := c.strand, frag := c.frag, unrec := true, kill := true } u))
    ([], none, none, s)

/-- Bytes that a move's destination bits touch. -/
def Move.bytes (m : Move) : Nat := (m.dbit + m.bits + 7) / 8

/-- The cells of a move's piece: value and mask of each byte that its bits touch there. -/
def Move.cells (m : Move) (q : Nat × Nat) : Tab (Byte × Byte) :=
  let vb := bytesLE (m.fill % 2 ^ m.bits * 2 ^ m.dbit) m.bytes
  let mb := bytesLE ((2 ^ m.bits - 1) * 2 ^ m.dbit) m.bytes
  (upFrom ((ptrAddr m.dst + q.1) % 128) q.2).zip (((vb.drop q.1).take q.2).zip ((mb.drop q.1).take q.2))

/-- Write the fill bits of some moves: every page is translated, and the log has room for all, before the first byte is written. -/
def xWrite (s : State) (c : Ctx) (ms : List Move) : Except Halt State := do
  let (places, t) ← (ms.flatMap (fun m => (pieces (ptrAddr m.dst) m.bytes).map (fun q => (m, q)))).foldlM (fun r x => do
    let (p, va, t) ← xPlace r.2 c (x.1.dst + w64 x.2.1) 1 5
    .ok (r.1 ++ [(x.1, x.2, p, va)], t)) ([], s)
  let t ← match roomFor t c (places.map (fun x => x.2.2.1)) with
    | .ok u => .ok u
    | .error u => .error (.wait u)
  .ok (places.foldl (fun s x => writePlaceP s c x.2.2.1 x.2.2.2 (ptrPol x.1.dst) (x.1.cells x.2.1) x.1.hurt) t)

/-- A transfer's first poisoned sector is recorded once (R383); a bad held entry of its ply is a consumed error (R371). -/
def notePoison (s : State) (x : Xfer) (po hb : Option W64) : State :=
  let s := match hb with
    | some a => s.urgent (.rollback ⟨x.ply, x.strand, x.frag⟩ 6 5 0 a)
    | none => s
  match po with
  | some a =>
    if ((s.xfer x.id).map (·.poisonSeen)).getD true then s
    else
      (writeRecord s { plyRecord s x.ply x.strand x.frag with severity := 0, cls := 8, cause := 2, address := a }).modXfer x.id
        (fun y => { y with poisonSeen := true })
  | none => s

/-- One move, and whether it carried poison. [DEDUCED: log 50] -/
def moveOne (s : State) (x : Xfer) (m : Move) : Except Halt (State × Bool) :=
  match m.src with
  | none => do
    let t ← xWrite s (ctxOfX x) [m]
    .ok (t, m.hurt)
  | some a => do
    let (b, po, hb, t) ← xRead s (ctxOfX x) a ((m.sbit + m.bits + 7) / 8)
    let u ← xWrite (notePoison t x po hb) (ctxOfX x) [{ m with fill := natLE b / 2 ^ m.sbit, hurt := po.isSome }]
    .ok (u, po.isSome)

/-- Moves up to the first that does not go: what is left, whether all so far was clean, and why it stopped. -/
def moveAll (s : State) (x : Xfer) (clean : Bool) : List Move → State × List Move × Bool × Option Halt
  | [] => (s, [], clean, none)
  | m :: ms =>
    match moveOne s x m with
    | .ok r => moveAll r.1 x (clean && !r.2) ms
    | .error h => (s, m :: ms, clean, some h)

/-! ## Layout records (R70, R71, R199) -/

/-- A field of a record. -/
def fieldAt (b : Bytes) (o n : Nat) : Nat := natLE ((b.drop o).take n)

/-- A tensor layout record's fields. -/
structure Layout where
  base  : W64
  fmt   : Nat
  rank  : Nat
  edge  : Nat
  skew  : Nat
  planes : Nat
  round : Nat
  sat   : Bool
  fill  : Nat
  dims  : List Nat
  strides : List Nat
  wins  : List Nat
  deriving DecidableEq, Repr

/-- Read a record; fields of dimensions at or above rank count as 1. -/
def layoutOf (b : Bytes) : Layout :=
  let rank := fieldAt b 9 1
  let pick (i v d : Nat) : Nat := if i < rank then v else d
  { base := w64 (fieldAt b 0 8), fmt := fieldAt b 8 1, rank := rank, edge := fieldAt b 0x0A 1, skew := fieldAt b 0x0B 1,
    planes := fieldAt b 0x0C 1, round := fieldAt b 0x0D 1, sat := fieldAt b 0x0E 2 == 1, fill := fieldAt b 0x10 4,
    dims := (upFrom 0 5).map (fun i => pick i (fieldAt b (0x18 + 4 * i) 4) 1),
    strides := 0 :: (upFrom 0 4).map (fun i => pick (i + 1) (fieldAt b (0x30 + 8 * i) 8) 0),
    wins := (upFrom 0 5).map (fun i => pick i (fieldAt b (0x50 + 2 * i) 2) 1) }

def Layout.es (l : Layout) : Nat := formatBits l.fmt
def Layout.win (l : Layout) (i : Nat) : Nat := l.wins.getD i 1
/-- Bytes of a landed row. -/
def Layout.rowBytes (l : Layout) : Nat := l.win 0 * l.es / 8
/-- Rows of the window. -/
def Layout.rows (l : Layout) : Nat := l.win 1 * l.win 2 * l.win 3 * l.win 4
def Layout.total (l : Layout) : Nat := l.rowBytes * l.rows

/-- The record keeps R70; a store to the weight store is told apart by its own cause. -/
def layoutOk (b : Bytes) : Bool :=
  let l := layoutOf b
  let below (i : Nat) : Bool := decide (i < l.rank)
  [0, 3, 4, 5].contains (ptrTag l.base) && l.base.toNat % 32 == 0 && decide (l.es ≠ 0) && decide (1 ≤ l.rank) && decide (l.rank ≤ 5) &&
  decide (l.edge ≤ 1) && decide (l.skew ≤ 3) && decide (l.planes ≤ 53) && decide (l.round ≤ 4) && decide (fieldAt b 0x0E 2 ≤ 1) &&
  fieldAt b 0x14 4 == 0 && fieldAt b 0x2C 4 == 0 && (b.drop 0x5A).all (· == 0) &&
  (upFrom 0 5).all (fun i => !(below i) || (decide (1 ≤ l.dims.getD i 0) && decide (1 ≤ l.win i) && decide (l.win i ≤ 1024))) &&
  l.strides.all (fun n => n % 32 == 0) &&
  l.win 0 * l.es % 256 == 0 && (l.skew == 0 || l.win 0 * l.es % 1024 == 0)

/-- Coordinate k of a copy argument group (R72). -/
def coordOf (g : List W64) (k : Nat) : Int := ((w32 (bits (g.getD (2 + k / 2) 0) (32 * (k % 2)) 32)).toInt)

/-- The index of row n in dimensions 1 to 4 of the tensor, below rank. -/
def rowIndex (l : Layout) (g : List W64) (n : Nat) : List Int :=
  let i1 := n % l.win 1
  let i2 := n / l.win 1 % l.win 2
  let i3 := n / (l.win 1 * l.win 2) % l.win 3
  let i4 := n / (l.win 1 * l.win 2 * l.win 3)
  [coordOf g 1 + i1, coordOf g 2 + i2, coordOf g 3 + i3, coordOf g 4 + i4].take (l.rank - 1)

/-- Row n lies in the tensor in dimensions 1 and above. -/
def rowInside (l : Layout) (g : List W64) (n : Nat) : Bool :=
  ((rowIndex l g n).zip (l.dims.drop 1)).all (fun x => decide (0 ≤ x.1) && decide (x.1 < x.2))

/-- Bit offset of element e of row n from the tensor's base. -/
def elemBit (l : Layout) (g : List W64) (n : Nat) (e : Int) : Int :=
  8 * ((rowIndex l g n).zip (l.strides.drop 1)).foldl (fun (a : Int) x => a + x.1 * x.2) 0 + (coordOf g 0 + e) * l.es

/-- Elements [lo, hi) of n elements from e0 of row r that lie in the tensor. -/
def insideRun (l : Layout) (g : List W64) (r e0 n : Nat) : Nat × Nat :=
  if rowInside l g r then
    let c := coordOf g 0
    let lo : Int := max 0 (-(c + e0))
    let hi : Int := min (n : Int) ((l.dims.getD 0 1 : Nat) - (c + e0))
    if lo < hi then (lo.toNat, hi.toNat) else (0, 0)
  else (0, 0)

/-- n copies of the fill value (R70); the upper 32 bits of a 64-bit one are zero. [DESIGN CHOICE: log 95] -/
def fillBits (l : Layout) (n : Nat) : Nat := (upFrom 0 n).foldl (fun v i => v + l.fill % 2 ^ l.es * 2 ^ (l.es * i)) 0

/-- Scratch offset at which chunk q of row n lies under the skew (R71). -/
def chunkAt (l : Layout) (off n q : Nat) : Nat :=
  if l.skew = 0 then off + n * l.rowBytes + 16 * q
  else off + n * l.rowBytes + q / 8 * 128 + (q % 8 + n * 2 ^ (l.skew - 1)) % 8 * 16

/-- The tagged address of a tensor bit and the bit in its byte. -/
def tensorAt (l : Layout) (bit : Int) : W64 × Nat := (l.base + w64i (bit / 8), (bit % 8).toNat)

/-- A tag-1 pointer. -/
def ownScratch (o : Nat) : W64 := w64 (2 ^ 60 + o)

/-- The moves of one chunk of 16 bytes: what the tensor gives first, then fill values (R72). -/
def chunkMoves (l : Layout) (g : List W64) (store : Bool) (off n q : Nat) : List Move :=
  let per := 128 / l.es
  let r := insideRun l g n (per * q) per
  let here := chunkAt l off n q
  let t := tensorAt l (elemBit l g n (per * q + r.1))
  let at1 (bit : Nat) : W64 × Nat := (ownScratch (here + bit / 8), bit % 8)
  let m := r.2 - r.1
  let body : List Move := if m = 0 then [] else
    let a := at1 (l.es * r.1)
    if store then [{ src := some a.1, sbit := a.2, dst := t.1, dbit := t.2, bits := l.es * m }]
    else [{ src := some t.1, sbit := t.2, dst := a.1, dbit := a.2, bits := l.es * m }]
  let pad (e k : Nat) : List Move := if k = 0 ∨ store then [] else
    let a := at1 (l.es * e)
    [{ src := none, fill := fillBits l k, dst := a.1, dbit := a.2, bits := l.es * k }]
  if m = 0 then pad 0 per else body ++ pad 0 r.1 ++ pad r.2 (per - r.2)

/-- Number the units. -/
def numberUnits (l : List (List Move × Nat)) : List ReportUnit :=
  (l.zip (upFrom 0 l.length)).map (fun x => { num := x.2, moves := x.1.1, bytes := x.1.2 })

/-- Group chunks of 16 bytes that belong to one report unit: consecutive ones of one key (R197). -/
def groupUnits (l : List (Nat × List Move)) : List ReportUnit :=
  let r : List (Nat × List Move × Nat) := l.foldl (fun acc c =>
    match acc with
    | (k, ms, n) :: rest => if k = c.1 then (k, ms ++ c.2, n + 16) :: rest else (c.1, c.2, 16) :: acc
    | [] => [(c.1, c.2, 16)]) []
  numberUnits (r.reverse.map (fun x => (x.2.1, x.2.2)))

/-- The chunks of a window in transfer order. -/
def windowChunks (l : Layout) : List (Nat × Nat) := (upFrom 0 l.rows).flatMap (fun n => (upFrom 0 (l.rowBytes / 16)).map (fun q => (n, q)))

/-- The units of TCOPY.LD: by sector of scratch; of TCOPY.ST: by 128-byte run of the count. -/
def windowUnits (l : Layout) (g : List W64) (store : Bool) (off : Nat) : List ReportUnit :=
  groupUnits (((windowChunks l).zip (upFrom 0 (windowChunks l).length)).map (fun x =>
    (if store then x.2 / 8 else chunkAt l off x.1.1 x.1.2 / 128, chunkMoves l g store off x.1.1 x.1.2)))

/-- Every element of the window lies in the tensor. -/
def windowInside (l : Layout) (g : List W64) : Bool :=
  (upFrom 0 l.rows).all (fun n => insideRun l g n 0 (l.win 0) == (0, l.win 0))

/-- The window's elements in the tensor pass R63 to R66 for a kind of access, row by row. -/
def windowChecks (s : State) (c : Ctx) (l : Layout) (g : List W64) (perm : Nat) : Bool :=
  (upFrom 0 l.rows).all (fun n =>
    let r := insideRun l g n 0 (l.win 0)
    if r.2 = 0 then true
    else
      let b0 := elemBit l g n r.1 / 8
      let b1 := (elemBit l g n r.2 + 7) / 8
      match checkAddr s c l.base b0 ⟨[perm], perm == 1, (b1 - b0).toNat, 1, [0, 3, 4, 5]⟩ with
      | .ok ea => decide (ptrAddr ea + (b1 - b0).toNat ≤ 2 ^ tagBits (ptrTag ea))
      | .error _ => false)

/-- What TCOPY.PL asks of its record besides R70 (R199). -/
def planeOk (l : Layout) (off : Nat) : Bool :=
  match planeFmt l.fmt with
  | some m =>
    decide (1 ≤ l.planes) && decide (l.planes ≤ m.p) && (m.fp.isSome || l.planes == m.p) && l.win 0 % 32 == 0 && l.win 1 == 128 &&
      l.win 2 == 1 && l.win 3 == 1 && l.win 4 == 1 && off % 1024 == 0 && l.skew == 0
  | none => false

/-- The units of TCOPY.PL: one group block each (R197, R199). -/
def planeUnits (l : Layout) : List ReportUnit :=
  (upFrom 0 (l.win 0 / 32)).map (fun g => { num := g, moves := [], group := some g, bytes := 32 * 128 * l.es / 8 })

/-- An element of the window, its poison and the state: what the tensor holds, or the fill value. -/
def windowElem (s : State) (x : Xfer) (l : Layout) (row e : Nat) : Except Halt (Nat × Option W64 × Option W64 × State) :=
  if insideRun l x.grp row e 1 == (0, 1) then do
    let t := tensorAt l (elemBit l x.grp row e)
    let (b, po, hb, u) ← xRead s (ctxOfX x) t.1 ((t.2 + l.es + 7) / 8)
    .ok (natLE b / 2 ^ t.2 % 2 ^ l.es, po, hb, u)
  else .ok (l.fill % 2 ^ l.es, none, none, s)

/-- The role bit of TCOPY.PL: B when set. -/
def Xfer.roleB (x : Xfer) : Bool := bit x.a 0

/-- Convert one group block (R97, R199): its 128 x 32 elements are read, then the block is written; a poisoned element poisons the sectors
that its bits reach (R383). -/
def moveGroup (s : State) (x : Xfer) (g : Nat) : Except Halt State := do
  let l := layoutOf x.lay
  let off := ((x.grp.getD 0 0).toNat) % 2 ^ 20
  let cells := (upFrom 0 128).flatMap (fun i => (upFrom 0 32).map (fun k => (i, k)))
  let (els, bad, t) ← cells.foldlM (fun (r : Tab Nat × List (Nat × Nat) × State) c => do
    let (v, po, hb, u) ← windowElem r.2.2 x l c.1 (32 * g + c.2)
    .ok (r.1 ++ [(32 * c.1 + c.2, v)], (if po = none then r.2.1 else r.2.1 ++ [c]), notePoison u x po hb)) ([], [], s)
  match planeFmt l.fmt with
  | none => .ok t
  | some m =>
    let b := groupBlock m x.roleB l.planes l.round l.sat (fun i k => Tab.get 0 els (32 * i + k))
    let o := off + g * m.block x.roleB
    let u := scrWrite t x.ply o b
    .ok (bad.foldl (fun u c => (m.reach x.roleB c.1 c.2).foldl (fun u n => scrPoisonBytes u x.ply (o + n) 1) u) u)

/-! ## Ends of a transfer (R197, R381) -/

/-- The completion object of a transfer: 0 posts nothing. -/
def Xfer.completion (x : Xfer) : W64 :=
  match x.kind with
  | .bcopy => x.grp.getD 2 0
  | .bfill => x.grp.getD 2 0
  | .scopy => x.grp.getD 2 0
  | .ratom => x.grp.getD 4 0
  | .coll => w64 (fieldAt x.lay 0x20 8)
  | _ => x.grp.getD 1 0

/-- The completion object is a barrier object. -/
def Xfer.toBarrier (x : Xfer) : Bool := x.kind.copies && (ptrTag x.completion == 1 || ptrTag x.completion == 2)

/-- The barrier object that a transfer posts to, when it passes R63 to R65 and R204. -/
def xBarrier (s : State) (x : Xfer) : Option (Nat × Nat) :=
  if x.completion.toNat % 32 ≠ 0 then none
  else
    match checkAddr s (ctxOfX x) x.completion 0 ⟨[0, 1], false, 32, 32, [1, 2]⟩ with
    | .ok ea => scratchOf s x.ply ea
    | .error _ => none

/-- A record about a transfer. [DEDUCED: log 44, 45] -/
def xRecord (s : State) (x : Xfer) (cls cause : Nat) (addr : W64) : State :=
  writeRecord s { plyRecord s x.ply x.strand x.frag with severity := 0, cls := cls, cause := cause, address := addr, pc := x.w.toNat }

/-- A posting fails: record class 8, cause 0x03, once (R197, R381). -/
def postFails (s : State) (x : Xfer) : State :=
  if x.postFailed then s else (xRecord s x 8 3 x.completion).modXfer x.id (fun y => { y with postFailed := true })

/-- A refused transfer fails whole: its record, the broken flag of its barrier object, and it completes without posting (R381). -/
def failXfer (s : State) (x : Xfer) (cls cause : Nat) : State :=
  let s := xRecord s x cls cause x.a
  let s :=
    if x.toBarrier then
      match xBarrier s x with
      | some (q, o) => (barrierStep s x.ply x.strand x.frag q o (fun b => ({ b with flags := Nat.lor b.flags 1 }, false)))
      | none => s
    else s
  s.dropXfer x.id

/-- A transfer whose bytes are written and whose reports are all sent is complete. -/
def finishXfer (s : State) (id : Nat) : State :=
  match s.xfer id with
  | some x => if x.done && x.landed == [] then s.dropXfer id else s
  | none => s

/-- Add to the completion counter; the transfer then completes. -/
def addCompletion (s : State) (x : Xfer) (n : Nat) : State :=
  if x.completion = 0 then s.dropXfer x.id
  else
    match postCounter s (ctxOfX x) x.completion n with
    | .done t => t.dropXfer x.id
    | .bad t => (postFails t x).dropXfer x.id
    | .wait t => t.later (.transferComplete x.id)

/-- LANDING_REPORT: one step on the barrier object adds a unit's bytes (R74, R197). [DESIGN CHOICE: log 52] -/
def execLandingReport (id unit : Nat) (s : State) : Res :=
  .next (match s.xfer id with
    | none => s
    | some x =>
      match Tab.find unit x.landed with
      | none => s
      | some n =>
        let s :=
          if x.postFailed then s
          else
            match xBarrier s x with
            | some (q, o) => barrierStep s x.ply x.strand x.frag q o (fun b => b.land n)
            | none => postFails s x
        finishXfer (s.modXfer id (fun y => { y with landed := Tab.del unit y.landed })) id)

/-! ## Movement -/

/-- An earlier transfer of the ply still uses bytes that this one writes (R196). -/
def mustFollow (s : State) (x : Xfer) : Bool :=
  let overlap (a b : Nat × Nat × Nat) : Bool := a.1 == b.1 && decide (a.2.1 < b.2.1 + b.2.2) && decide (b.2.1 < a.2.1 + a.2.2)
  s.xfers.any (fun y => y.ply == x.ply && decide (y.id < x.id) && y.holdsEntry && x.wr.any (fun r => (y.rd ++ y.wr).any (overlap r)))

/-- A unit that covers a whole sector of scratch, and carried no poison, clears the sector's poison (R366). [DESIGN CHOICE: log 52] -/
def clearUnit (s : State) (x : Xfer) (u : ReportUnit) : State :=
  match u.moves.getLast? with
  | some m =>
    if u.clean && u.bytes == 128 && (ptrTag m.dst == 1 || ptrTag m.dst == 2) then
      match scratchOf s x.ply m.dst with
      | some (q, o) => s.modPly q (fun y => { y with scrPoison := Tab.del (o / 128) y.scrPoison })
      | none => s
    else s
  | none => s

/-- One unit: what is left of it, and why. A chunk of a collective's destination is written whole (R399). [DESIGN CHOICE: log 52] -/
def moveUnit (s : State) (x : Xfer) (u : ReportUnit) : State × ReportUnit × Option Halt :=
  if x.kind = .coll then
    match xWrite s (ctxOfX x) u.moves with
    | .ok t => (t, u, none)
    | .error h => (s, u, some h)
  else match u.group with
  | some g =>
    match moveGroup s x g with
    | .ok t => (t, u, none)
    | .error h => (s, u, some h)
  | none =>
    match moveAll s x u.clean u.moves with
    | (t, _, c, none) => (clearUnit t x { u with clean := c }, u, none)
    | (t, ms, c, some h) => (t, { u with moves := ms, clean := c }, some h)

/-- A unit has landed: its report is due at once, or is held until the release is performed (R195, R197). -/
def landUnit (s : State) (x : Xfer) (u : ReportUnit) : State :=
  if x.toBarrier then
    let s := s.modXfer x.id (fun y => { y with landed := Tab.put u.num u.bytes y.landed })
    if x.rel.isSome then s else s.later (.landingReport x.id u.num)
  else s

/-- The scope of the release that follows a transfer's writes: its flag's; a collective's destination is released at reel scope at least (R203). -/
def Xfer.relScope (x : Xfer) : Option Nat := if x.kind == .coll then some (Nat.max scReel (x.rel.getD 0)) else x.rel

/-- Every byte is written: the release, then the posting (R195 steps 4 and 5). -/
def endXfer (s : State) (x : Xfer) : State :=
  let r := match x.relScope with
    | some sc => releaseFor s (ctxOfX x) sc
    | none => (s, true)
  if !r.2 then r.1.later (.transferComplete x.id)
  else
    let s := r.1.modXfer x.id (fun y => { y with done := true, rd := [], wr := [] })
    if x.toBarrier then
      let s := if x.rel.isSome then (((s.xfer x.id).map (·.landed)).getD []).foldl (fun s u => s.later (.landingReport x.id u.1)) s else s
      finishXfer s x.id
    else addCompletion s x x.total

/-- What a stop of a transfer leads to: the pause event, another try, or the fate of a consumed error. -/
def haltXfer (x : Xfer) (h : Halt) (again : Instr) : State :=
  match h with
  | .fault _ t => t.urgent (.transferPause x.id)
  | .wait t => t.later again
  | .error e t => consumeError t x.ply { e with pc := x.w.toNat, away := !x.handler }

/-- A move that begins a block of a BCOPY's or BFILL's destination. -/
def Move.atBlock (m : Move) : Bool := ptrTag m.dst == 0 && ptrAddr m.dst % blockBytes == 0

/-- Moves up to the next that begins a block, and the rest: what may be performed in the array starts by itself (R299). -/
def cutAtBlock : List Move → List Move × List Move
  | [] => ([], [])
  | m :: ms => let n := ms.takeWhile (fun m => !m.atBlock); (m :: n, ms.drop n.length)

/-- The block pair with which the chunks left of a BCOPY or BFILL begin, when it is to be performed in the array (R299): the physical addresses of the
source, for a copy, and the destination. -/
def arrayPair (s : State) (x : Xfer) : Option (Option Nat × Nat) :=
  match x.units.head?.bind (fun u => u.moves.head?) with
  | some m =>
    let left := (x.grp.getD 1 0).toNat - (m.dst - x.a).toNat
    let tr (kind va : Nat) : Option Nat :=
      match (translateDev s x.core x.vdev va kind (bit ((ctxOfX x).seg 0).ctl 60)).1 with
      | .ok p => some (p.phys va)
      | _ => none
    if !x.arr || !(x.kind == .bcopy || x.kind == .bfill) || ptrTag m.dst ≠ 0 || ptrAddr m.dst % blockBytes ≠ 0 || !([0, 3].contains (ptrPol m.dst)) ||
        decide (left < blockBytes) then none
    else
      match blockPa (ptrAddr m.dst) (tr 1) with
      | none => none
      | some d =>
        match m.src with
        | none => some (none, d)
        | some a =>
          if ptrTag a ≠ 0 then none
          else
            match blockPa (ptrAddr a) (tr 0) with
            | some p => if pairApart p d then some (some p, d) else none
            | none => none
  | none => none

/-- Take the first n chunks off a transfer's units: what is left, and the units that have none left. -/
def takeChunks : Nat → List ReportUnit → List ReportUnit × List ReportUnit
  | _, [] => ([], [])
  | 0, us => (us, [])
  | n + 1, u :: us =>
    if u.moves.length ≤ n + 1 then let r := takeChunks (n + 1 - u.moves.length) us; (r.1, u :: r.2)
    else ({ u with moves := u.moves.drop (n + 1) } :: us, [])

/-- Perform a block pair in the array (R299): the issuing core's ordinary entries for both blocks, and its REDs there, come first; its L1 loses
the destination, and its next publication has the others of its bay drop what they hold (R248). none while an entry waits behind a release under way. -/
def moveBlock (s : State) (x : Xfer) (p : Option Nat × Nat) : Option State :=
  let mine (sec : Nat) : Bool := inBlock p.2 sec || (p.1.map (fun a => inBlock a sec)).getD false
  let s := drainWhere (performReds s (fun r => r.ofStrand x.ply x.strand && mine (r.pa / 128))) x.core (fun e => e.space == .dev && mine e.sector)
  if (s.core x.core).log.any (fun e => !e.held && e.space == .dev && mine e.sector) then none
  else
    let a := x.grp.getD 0 0
    let s := arrayBlock s p.1 p.2 a.toNat
    let s := match p.1.bind (blockPoison s) with
      | some o => notePoison s x ((x.units.head?.bind (fun u => u.moves.head?.bind (·.src))).map (· + w64 o)) none
      | none => s
    let s := s.modCore x.core (fun c => { c with marks := [], dropAll := true })
    some ((blockSectors p.2).foldl (fun s n => dropL1 s x.core (l1Key 0 n)) s)

/-- A transfer's units as they are left; its entry of the range scoreboard is free once there are none (R196). -/
def leaveUnits (s : State) (id : Nat) (l : List ReportUnit) : State :=
  s.modXfer id (fun y => { y with units := l, rd := if l = [] then [] else y.rd, wr := if l = [] then [] else y.wr })

/-- Go on after some units: the next, or the end. -/
def goOnXfer (s : State) (x : Xfer) (l : List ReportUnit) : State :=
  let t := leaveUnits s x.id l
  if l = [] then endXfer t x else t.later (.transferComplete x.id)

/-- TRANSFER_COMPLETE: the transfer moves its next unit or block pair, and queues itself again while units are left; then it releases and posts (R195).
The moves of a unit that are done are not done again. [DEDUCED: log 50; DESIGN CHOICE: log 52] -/
def execTransferComplete (id : Nat) (s : State) : Res :=
  .next (match s.xfer id with
    | none => s
    | some x =>
      if !x.started || x.paused.isSome || x.pausedPri.isSome || x.kind == .ratom || (x.kind == .coll && x.step == 0) then s
      else if x.done then (if x.toBarrier then s else addCompletion s x x.total)
      else if mustFollow s x then s.later (.transferComplete id)
      else
        match x.units with
        | [] => endXfer s x
        | u :: us =>
          match arrayPair s x with
          | some p =>
            (match moveBlock s x p with
            | some t =>
              let r := takeChunks (blockBytes / 16) x.units
              goOnXfer (r.2.foldl (fun t u => landUnit t x u) t) x r.1
            | none => s.later (.transferComplete id))
          | none =>
            let cut := if x.kind == .bcopy || x.kind == .bfill then cutAtBlock u.moves else (u.moves, [])
            let left (v : ReportUnit) : List ReportUnit := { v with moves := v.moves ++ cut.2 } :: us
            match moveUnit s x { u with moves := cut.1 } with
            | (t, v, none) =>
              if cut.2 = [] then goOnXfer (landUnit t x u) x us
              else goOnXfer t x ({ v with moves := cut.2 } :: us)
            | (t, v, some (.fault _ _)) => (leaveUnits t id (left v)).urgent (.transferPause id)
            | (_, v, some (.wait w)) => (leaveUnits w id (left v)).later (.transferComplete id)
            | (t, _, some (.error e _)) => consumeError t x.ply { e with pc := x.w.toNat, away := !x.handler })

/-- The translation fault that the next chunk of a transfer meets. -/
def nextFault (s : State) (x : Xfer) : Option FaultInfo :=
  let of (h : Option Halt) : Option FaultInfo := match h with
    | some (.fault i _) => some i
    | _ => none
  if !x.started then
    match xRead s (ctxOfX x) (w64 (x.a.toNat / 64 * 64)) 64 with
    | .error h => of (some h)
    | .ok _ => none
  else
    match x.units with
    | u :: _ => of (moveUnit s x u).2.2
    | [] => none

/-- TRANSFER_PAUSE: a transfer that meets a translation fault pauses at the chunk (R382). -/
def execTransferPause (id : Nat) (s : State) : Res :=
  .next (match s.xfer id with
    | none => s
    | some x =>
      match nextFault s x with
      | some i => pauseTransfer s x i
      | none => s.later (if x.started then .transferComplete id else .transferStart id))

/-! ## Start -/

/-- A transfer that has passed its checks, with its units and scratch ranges. -/
def beginXfer (s : State) (x : Xfer) (units : List ReportUnit) (total : Nat) (lay : Bytes) (rd wr : List (Nat × Nat × Nat)) : State :=
  (s.modXfer x.id (fun y => { y with started := true, units := units, total := total, lay := lay, rd := rd, wr := wr })).later (.transferComplete x.id)

/-- TCOPY: the whole copy is checked before a byte moves (R198, R199, R381). -/
def startTcopy (s : State) (x : Xfer) (lay : Bytes) : State :=
  let l := layoutOf lay
  let off := ((x.grp.getD 0 0).toNat) % 2 ^ 20
  let store := x.kind == .tcopySt
  let size := (s.ply x.ply).scrSize
  let c := ctxOfX x
  let s := if store then endForTag s x.ply (ptrTag l.base) else s
  if !(layoutOk lay) then failXfer s x 8 1
  else if store && ptrTag l.base == 3 then failXfer s x 6 7
  else if x.kind == .tcopyPl && !(planeOk l off) then failXfer s x 8 1
  else if l.edge == 1 && !(windowInside l x.grp) then failXfer s x 8 1
  else if !(windowChecks s c l x.grp (if store then 1 else 0)) then failXfer s x 8 1
  else if x.kind == .tcopyPl then
    let n := (l.win 0 / 32) * ((planeFmt l.fmt).map (fun m => m.block x.roleB)).getD 0
    if size < off + n then failXfer s x 8 1
    else beginXfer s x (planeUnits l) l.total lay [] [(x.ply, off, n)]
  else if size < off + l.total || (l.skew != 0 && off % 128 != 0) then failXfer s x 8 1
  else
    let own := [(x.ply, off, l.total)]
    beginXfer s x (windowUnits l x.grp store off) l.total lay (if store then own else []) (if store then [] else own)

/-- The units of BCOPY, BFILL and SCOPY: by sector of a scratch destination, else by 128-byte run (R197). -/
def bulkUnits (x : Xfer) : List ReportUnit :=
  let n := (x.grp.getD 1 0).toNat
  let fill := (x.grp.getD 0 0).toNat
  let scr := ptrTag x.a == 1 || ptrTag x.a == 2
  groupUnits ((upFrom 0 (n / 16)).map (fun i =>
    let d := x.a + w64 (16 * i)
    (if scr then ptrAddr d / 128 else i / 8,
      [if x.kind == .bfill then { src := none, fill := fill + fill * 2 ^ 64, dst := d, bits := 128 }
       else { src := some (x.grp.getD 0 0 + w64 (16 * i)), dst := d, bits := 128 }])))

/-- Answer of a remote atomic that needs no outside agent. -/
def ratomAnswer (s : State) (x : Xfer) (old : W64) (status : Nat) : State :=
  (s.modXfer x.id (fun y => { y with started := true })).later (.ratomReply x.id old status)

/-- The PCIe AtomicOps: FetchAdd, Swap and CAS (R201). -/
def hostAtomicOp (op : Nat) : Bool := op == 0 || op == 1 || op == 16 || op == 17 || op == 18 || op == 19

/-- A remote atomic goes out, or is performed at this package's own home (R201). -/
def startRatom (s : State) (x : Xfer) : State :=
  let op := (x.grp.getD 0 0).toNat
  let v := x.grp.getD 1 0
  let new := x.grp.getD 2 0
  let n := amoBytes op
  let sent (t : State) : State := t.modXfer x.id (fun y => { y with started := true })
  match translateAcc s (ctxOfX x) none 0 x.a 1 0 with
  | (.wait, t) => t.later (.transferStart x.id)
  | (.here (.host pa) _, t) =>
    if !(hostAtomicOp op) then ratomAnswer t x 0 1
    else sent (ask (t.send (.hostAtomic t.fresh (t.tag x.vdev) (bits ((ctxOfX x).seg 4).base 0 20) (w64 pa) op v new)) (.xfer x.id) x.vdev (.ratom x.id) none)
  | (.here (.peer rank off) _, t) =>
    let t := touchRank t (t.ply x.ply).reel rank
    match rankTarget t (t.ply x.ply).reel rank with
    | none => ratomAnswer t x 0 2
    | some (f, d) =>
      let data := bytesLE v.toNat 8 ++ bytesLE new.toNat 8
      let pol := ptrPol x.a
      if t.pf0.faddr != 0xFFFF && f == t.pf0.faddr.toNat then
        match holdInbound t d (.peerRequest f f d t.fresh 2 ⟨off, pol⟩ n op data) with
        | some t => sent (ask t (.xfer x.id) x.vdev (.ratom x.id) none)
        | none =>
          let y := t.vdev d
          let va := y.xbase.toNat % 2 ^ 57 + off
          if y.exist && !y.stopped && decide (off + n ≤ y.xbytes.toNat) then
            let t := walkTouch t d va
            match translateWalk t d va 2 with
            | .ok p =>
              let pa := p.phys va
              let t := homeTouch t pa pol
              let old := natLE (homeRead t pa n)
              ratomAnswer (homeWriteIn t pa pol (bytesLE (amoNew op old v.toNat new.toNat) n)) x (w64 old) 0
            | _ => ratomAnswer t x 0 3
          else ratomAnswer t x 0 3
      else
        match routeOf t (coreIo x.core) f with
        | none => ratomAnswer t x 0 2
        | some lk => sent (ask ((countFor t x.vdev).send (.peerReq t.fresh lk f (t.tag x.vdev) d 2 off n op pol data)) (.xfer x.id) x.vdev (.ratom x.id) (some lk))
  | (_, t) => ratomAnswer t x 0 3

/-- The slot of a remote atomic takes its 16 bytes, through the log for tag 0 (R201, R248); one that cannot be written receives nothing and is
recorded. none while the log has no room. -/
def ratomSlot (s : State) (x : Xfer) (old : W64) (status : Nat) : Except State State :=
  let slot := x.grp.getD 3 0
  let op := (x.grp.getD 0 0).toNat
  let c := ctxOfX x
  match checkAddr s c slot 0 ⟨[1], true, 16, 16, [0, 1]⟩ with
  | .error _ => .ok (xRecord s x 8 3 slot)
  | .ok ea =>
    match translateAcc s c none 0 ea 1 0 with
    | (.here p va, t) =>
      (match roomFor t c [p] with
      | .ok t => .ok (writePlace t c p va (ptrPol ea) (cellsOf (ptrAddr ea % 128) (bytesLE (old.toNat % 2 ^ (8 * amoBytes op)) 8 ++ bytesLE status 4 ++ bytesLE op 4)))
      | .error t => .error t)
    | (_, t) => .ok (xRecord t x 8 3 slot)

/-- RATOM_REPLY: the slot takes the old value and the status, is released at system scope, then the counter takes its add (R201). Each of these is
done once, however often one of them has to wait. [DESIGN CHOICE: log 55] -/
def execRatomReply (id : Nat) (old : W64) (status : Nat) (s : State) : Res :=
  .next (match s.xfer id with
    | none => s
    | some x =>
      if x.kind != .ratom || !x.started then s
      else
        let again (t : State) : State := t.later (.ratomReply id old status)
        let step (t : State) (n : Nat) : State := again (t.modXfer id (fun y => { y with step := n }))
        let s := s.modPlat (fun p => { p with reqs := p.reqs.filter (fun r => r.ask != .ratom id) })
        if x.step = 0 then
          if x.grp.getD 3 0 = 0 then step s 2
          else
            match ratomSlot s x old status with
            | .ok t => step t 1
            | .error t => again t
        else if x.step = 1 then
          let r := releaseFor s (ctxOfX x) scSystem
          if r.2 then step r.1 2 else again r.1
        else if x.completion = 0 then s.dropXfer id
        else
          match postCounter s (ctxOfX x) x.completion 1 with
          | .done u => u.dropXfer id
          | .bad u => (postFails u x).dropXfer id
          | .wait u => again u)

/-! ## Collectives (R202, R203, R399) -/

/-- The formats of a collective: bytes, whether floating point (and which), whether signed. -/
def collFmt (n : Nat) : Option (Nat × Option Fmt × Bool) :=
  match n with
  | 3 => some (4, none, true)
  | 4 => some (8, none, true)
  | 11 => some (4, none, false)
  | 12 => some (8, none, false)
  | 16 => some (2, some fmtF16, true)
  | 17 => some (2, some fmtBF16, true)
  | 18 => some (4, some fmtF32, true)
  | 19 => some (8, some fmtF64, true)
  | _ => none

/-- Bytes of an element, of a rank's source and of its destination, for n ranks. -/
def collBytes (d : Bytes) : Nat := ((collFmt (fieldAt d 2 1)).map (·.1)).getD 0
def collSrc (d : Bytes) (n : Nat) : Nat :=
  let c := fieldAt d 0x18 8 * collBytes d
  match fieldAt d 0 1 with
  | 1 => n * c
  | 4 => 0
  | _ => c
def collDst (d : Bytes) (n : Nat) : Nat :=
  let c := fieldAt d 0x18 8 * collBytes d
  match fieldAt d 0 1 with
  | 2 => n * c
  | 4 => 0
  | _ => c

/-- A descriptor keeps the limits of R202. -/
def collOk (d : Bytes) (nrank : Nat) : Bool :=
  let op := fieldAt d 0 1
  let red := fieldAt d 1 1
  decide (op ≤ 4) && decide (red ≤ 2) && (decide (op < 2) || red == 0) && (collFmt (fieldAt d 2 1)).isSome && fieldAt d 3 1 == 0 &&
    (if op = 3 then decide (fieldAt d 4 2 < nrank) else fieldAt d 4 2 == 0) && fieldAt d 6 2 == 0 &&
    ptrTag (w64 (fieldAt d 8 8)) == 0 && fieldAt d 8 8 % 16 == 0 && ptrTag (w64 (fieldAt d 0x10 8)) == 0 && fieldAt d 0x10 8 % 16 == 0 &&
    (d.drop 0x2C).all (· == 0)

/-- The whole source and destination of a collective pass R65. -/
def collRanges (s : State) (x : Xfer) (d : Bytes) (nrank : Nat) : Bool :=
  let okRange (p n perm : Nat) : Bool :=
    n == 0 || (match checkAddr s (ctxOfX x) (w64 p) 0 ⟨[perm], false, n, 1, [0]⟩ with
      | .ok ea => decide (ptrAddr ea + n ≤ 2 ^ 57)
      | .error _ => false)
  okRange (fieldAt d 8 8) (collSrc d nrank) 0 && okRange (fieldAt d 0x10 8) (collDst d nrank) 1

/-- Ranks of a transfer's reel. -/
def xReel (s : State) (x : Xfer) : Reel := s.reel (s.ply x.ply).reel

/-- A rank's package can be reached. -/
def rankReached (s : State) (x : Xfer) (rank : Nat) : Bool :=
  rank == (xReel s x).rank ||
  (match rankTarget s (s.ply x.ply).reel rank with
   | some (f, _) => f == s.pf0.faddr.toNat || (routeOf s (coreIo x.core) f).isSome
   | none => false)

/-- A collective is handed to its engine (R202, R336). [DEDUCED: log 53] -/
def startColl (s : State) (x : Xfer) (d : Bytes) : State :=
  let n := (xReel s x).nrank
  if !(collOk d n) || !(collRanges s x d n) then failXfer s { x with lay := d } 8 4
  else
    let s := s.modXfer x.id (fun y => { y with started := true, lay := d })
    let s := s.modPlat (fun p => { p with colls := p.colls ++ [{ id := x.id, eng := coreIo x.core, xfer := x.id, vdev := x.vdev, desc := d, first := s.clock }] })
    let s := (upFrom 0 n).foldl (fun s k => touchRank s (s.ply x.ply).reel k) s
    if !((upFrom 0 n).all (rankReached s x)) then s.later (.collectiveLoss x.id)
    else if n = 1 then s.later (.collectiveComplete x.id [])
    else s

/-- This rank's part goes to the engines of the other ranks over the links of the route table, in chunks of 4 KiB (R336). A rank on this package
needs no link. -/
def sendParts (s : State) (x : Xfer) (mine : Bytes) (bad : List Bool) : State :=
  let r := xReel s x
  ((upFrom 0 r.nrank).filter (· ≠ r.rank)).foldl (fun s k =>
    let s := touchRank s (s.ply x.ply).reel k
    match rankTarget s (s.ply x.ply).reel k with
    | none => s
    | some (f, d) =>
      if f = s.pf0.faddr.toNat then s
      else
        match routeOf s (coreIo x.core) f with
        | none => s
        | some lk => (upFrom 0 (Nat.max 1 ((mine.length + 4095) / 4096))).foldl (fun s i =>
            (countFor s x.vdev).send (.collPart lk f (s.tag x.vdev) d x.lay (4096 * i) ((mine.drop (4096 * i)).take 4096) ((bad.drop (256 * i)).take 256))) s) s

/-- Bytes at a tagged address, 16 at a time, and whether each 16 were poisoned. -/
def xReadAll (s : State) (x : Xfer) (ea : W64) : Nat → Except Halt (Bytes × List Bool × State)
  | 0 => .ok ([], [], s)
  | k + 1 => do
    let (b, po, hb, t) ← xRead s (ctxOfX x) ea 16
    let (r, l, u) ← xReadAll (notePoison t x po hb) x (ea + 16) k
    .ok (b ++ r, po.isSome :: l, u)

/-- Combine two elements of a collective: sum, minimum or maximum (R203). -/
def collCombine (d : Bytes) (x y : Nat) : Nat :=
  let red := fieldAt d 1 1
  match collFmt (fieldAt d 2 1) with
  | some (n, some f, _) =>
    if red = 0 then (fAdd f x y).1 else (fMinMax f (red == 2) x y).1 + 0 * n
  | some (n, none, sg) => if red = 0 then (x + y) % 2 ^ (8 * n) else iMinMax sg (red == 2) (8 * n) x y
  | none => x

/-- Element i of the reduction of the ranks' sources, in ascending rank order. -/
def collElem (d : Bytes) (parts : Parts) (i : Nat) : Bytes :=
  let es := collBytes d
  let vals := parts.map (fun p => fieldAt p (es * i) es)
  match vals with
  | [] => bytesLE 0 es
  | v :: vs => bytesLE (vs.foldl (collCombine d) v) es

/-- What rank r's destination receives. [DEDUCED: log 53] -/
def collResult (d : Bytes) (parts : Parts) (r : Nat) : Bytes :=
  let es := collBytes d
  let count := fieldAt d 0x18 8
  match fieldAt d 0 1 with
  | 0 => (upFrom 0 count).flatMap (collElem d parts)
  | 1 => (upFrom (r * count) count).flatMap (collElem d parts)
  | 2 => parts.flatMap (fun p => p.take (count * es))
  | 3 => (parts.getD (fieldAt d 4 2) []).take (count * es)
  | _ => []

/-- Byte o of rank r's destination comes from a poisoned piece of a rank's source (R383); bad holds each rank's, by 16 bytes. [DEDUCED: log 53] -/
def collTaint (d : Bytes) (r : Nat) (bad : List (List Bool)) (o : Nat) : Bool :=
  let c := fieldAt d 0x18 8 * collBytes d
  let hit (k i : Nat) : Bool := (bad.getD k []).getD (i / 16) false
  match fieldAt d 0 1 with
  | 0 => (upFrom 0 bad.length).any (fun k => hit k o)
  | 1 => (upFrom 0 bad.length).any (fun k => hit k (r * c + o))
  | 2 => hit (o / c) (o % c)
  | 3 => hit (fieldAt d 4 2) o
  | _ => false

/-- The poisoned 16-byte pieces that another rank's part names: a byte for each, not 0, behind the descriptor and n bytes of source. -/
def partTaint (part : Bytes) (n : Nat) : List Bool := (part.drop (64 + n)).map (· != 0)

/-- The moves that put bytes at a destination, 16 bytes at a time; bad says which bytes bring poison. -/
def putMoves (dst : W64) (b : Bytes) (bad : Nat → Bool) : List Move :=
  (upFrom 0 ((b.length + 15) / 16)).map (fun i =>
    let p := (b.drop (16 * i)).take 16
    { src := none, fill := natLE p, hurt := (upFrom (16 * i) p.length).any bad, dst := dst + w64 (16 * i), bits := 8 * p.length })

/-- The units that write the results to a collective's destination: chunks of 4 KiB (R399). -/
def collUnits (dst : W64) (out : Bytes) (bad : Nat → Bool) : List ReportUnit :=
  numberUnits ((upFrom 0 ((out.length + 4095) / 4096)).map (fun i =>
    let b := (out.drop (4096 * i)).take 4096
    (putMoves (dst + w64 (4096 * i)) b (fun o => bad (4096 * i + o)), b.length)))

/-- The fields in which matched descriptors agree (R203). [DEDUCED: log 53] -/
def collAgree (d e : Bytes) : Bool :=
  (d.take 6) == (e.take 6) && fieldAt d 0x18 8 == fieldAt e 0x18 8 && fieldAt d 0x28 4 == fieldAt e 0x28 4

/-- COLLECTIVE_COMPLETE: with every rank's descriptor (64 bytes), source and poisoned pieces, the engine combines once; a mismatch fails it (R203). This
rank's part goes to the others (R336). The result then goes to this rank's destination as a transfer's bytes do, through the log, is released, and the counter takes its add. [DEDUCED: log 53] -/
def execCollectiveComplete (id : Nat) (contrib : Parts) (s : State) : Res :=
  .next (match s.xfer id with
    | none => s
    | some x =>
      if x.kind != .coll || !x.started || x.step != 0 || x.paused.isSome then s
      else
        let r := xReel s x
        let d := x.lay
        let drop (t : State) : State := t.modPlat (fun p => { p with colls := p.colls.filter (fun c => c.id != id) })
        let keep (t : State) : State := t.modPlat (fun p => { p with colls := p.colls.map (fun c => if c.id == id then { c with parts := if contrib = [] then [[]] else contrib } else c) })
        if r.nrank ≠ 1 ∧ (contrib.length ≠ r.nrank ∨ contrib.any (fun p => !(collAgree d (p.take 64)))) then drop (failXfer s x 8 4)
        else
          match xReadAll s x (w64 (fieldAt d 8 8)) ((collSrc d r.nrank + 15) / 16) with
          | .error (.fault i _) => pauseTransfer (keep s) x i
          | .error (.wait t) => (keep t).later (.collectiveComplete id contrib)
          | .error (.error e t) => consumeError t x.ply { e with pc := x.w.toNat, away := !x.handler }
          | .ok (mine, bad, t) =>
            let parts := (upFrom 0 r.nrank).map (fun k => if k = r.rank then mine else (contrib.getD k []).drop 64)
            let out := collResult d parts r.rank
            let n := collSrc d r.nrank
            let taint := (upFrom 0 r.nrank).map (fun k => if k = r.rank then bad else partTaint (contrib.getD k []) n)
            let units := collUnits (w64 (fieldAt d 0x10 8)) out (collTaint d r.rank taint)
            (drop ((sendParts t x mine bad).modXfer id (fun y => { y with step := 1, units := units, total := out.length }))).later (.transferComplete id))

/-- COLLECTIVE_LOSS: the collective fails with class 8, cause 0x04; no counter receives an add (R399). -/
def execCollectiveLoss (id : Nat) (s : State) : Res :=
  .next (match s.xfer id with
    | none => s
    | some x =>
      if x.kind != .coll || x.step != 0 then s
      else (failXfer s x 8 4).modPlat (fun p => { p with colls := p.colls.filter (fun c => c.id != id) }))

/-- TRANSFER_START: the acquire, then every check that can refuse the transfer (R195, R381). -/
def execTransferStart (id : Nat) (s : State) : Res :=
  .next (match s.xfer id with
    | none => s
    | some x =>
      if x.started || x.paused.isSome || x.pausedPri.isSome then s
      else if !((x.acq.map (fun sc => canReplay s x.core sc 0)).getD true) then s.later (.transferStart id)
      else
        let s := match x.acq with
          | some sc => acquire s x.core sc 0
          | none => s
        match x.kind with
        | .ratom => startRatom s x
        | .coll =>
          match xRead s (ctxOfX x) x.a 64 with
          | .ok (b, po, hb, t) => startColl (notePoison t x po hb) x b
          | .error h => haltXfer x h (.transferStart id)
        | .tcopyLd | .tcopySt | .tcopyPl =>
          match xRead s (ctxOfX x) (w64 (x.a.toNat / 128 * 128)) 128 with
          | .ok (b, po, hb, t) => startTcopy (notePoison t x po hb) x b
          | .error h => haltXfer x h (.transferStart id)
        | _ => beginXfer s x (bulkUnits x) (x.grp.getD 1 0).toNat [] x.rd x.wr)

end Sys2Proof.Machine
end

