-- ==== Sys2Proof/Machine/Intersect.lean ====
section
/-! DEFINITION. The intersection unit of a bay (R222 to R227) and the records it reads (R308 to R316): ray queries, visibility queries, and
EMIT with its stalls. -/
namespace Sys2Proof.Machine

/-! ## Reads of the unit (R222) -/

/-- What a query gives a lane: the values of its destination registers (with poison accepted on the way or not), or what keeps it from them. -/
inductive LaneEnd where
  /-- Its registers, and the address of the poison that it has accepted. -/
  | regs (vs : List W64) (accepted : Option W64)
  /-- A translation fault of an access of this kind (R377): 6 a read of the unit, 2 the add of VISQ. -/
  | fault (kind : Nat) (f : LaneFault)
  | trap (cause detail : Nat) (addr : W64)
  | bad (e : Consumed)
  /-- The hierarchy has a cycle: the query does not end. -/
  | endless
  deriving DecidableEq, Repr

/-- What one read of the unit gives. -/
inductive UnitRd where
  | got (b : Bytes)
  /-- Poison that the ply accepts, at an address. -/
  | accepted (a : W64)
  | stop (e : LaneEnd)
  deriving DecidableEq, Repr

/-- Read n bytes at base + off as a load of the issuing fragment on behalf of a lane. -/
def unitRead (s : State) (lane : Nat) (base : W64) (off : Int) (n : Nat) : UnitRd × State :=
  let c := ctxOf s
  match checkAddr s c base off ⟨[0], false, n, 1, [0, 3]⟩ with
  | .error e => (.stop (.trap e.1 e.2 (uncheckedSum base off)), s)
  | .ok ea =>
    match translateAcc s c none 0 ea 0 lane with
    | (.fault k h g, t) => (.stop (.fault 6 { lane := lane, ea := ea, cause := k, host := h, page := g }), t)
    | (.wait, t) => (.stop .endless, t)
    | (.here p va, t) =>
      let r := readPlace t c p n (ptrPol ea)
      let one : List (LaneTo × Rd) := [({ lane := lane, ea := ea, place := p, va := va }, r.1)]
      match joinErrors (loadErrors one (curAccepts t)) with
      | some e => (.stop (.bad e), dropStaged r.2 c.vdev p)
      | none =>
        match r.1 with
        | .got b none _ => (.got b, r.2)
        | _ => (.accepted ea, r.2)

/-- End the lanes of a query: a trap or a consumed error writes nothing; else finished lanes are written, and with failing ones the query parks as a
whole: the fault names no lane (R373), and none that is written is performed twice (R222). [DEDUCED: log 34] -/
def endLanes (s : State) (d n : Nat) (es : List (Nat × LaneEnd)) : Eff :=
  let traps := es.filterMap (fun e => match e.2 with
    | .trap c k a => some (e.1, c, k, a)
    | _ => none)
  let bads := es.filterMap (fun e => match e.2 with
    | .bad b => some (({ lane := e.1, ea := b.addr, place := .ws 0, va := 0 } : LaneTo), b)
    | _ => none)
  match traps, joinErrors bads with
  | t :: _, _ => .error (.trap { cause := t.2.1, detail := t.2.2.1, lanes := maskOf (traps.map (·.1)), addr := t.2.2.2 })
  | [], some b => .error (consumeHere s b)
  | [], none =>
    let done := es.filterMap (fun e => match e.2 with
      | .regs vs a => some (e.1, vs, a)
      | _ => none)
    let s := (upFrom 0 n).foldl (fun s i =>
      setVecLanes s (d + i) (maskOf (done.map (·.1))) (fun l => ((done.find? (fun x => x.1 == l)).map (fun x => x.2.1.getD i 0)).getD 0)) s
    let took := done.filterMap (fun x => x.2.2.map (fun a => (x.1, a)))
    let s := match took with
      | [] => s
      | x :: _ => acceptRecord s (maskOf (took.map (·.1))) x.2
    let fs := es.filterMap (fun e => match e.2 with
      | .fault k f => some (k, f)
      | _ => none)
    parkQuery s ((fs.head?.map (·.1)).getD 6) (fs.map (·.2))

/-! ## Hierarchies (R308 to R311, R225) -/

/-- A hit. -/
structure Hit where
  t : W32
  prim : Nat
  u : W32
  v : W32
  inst : Nat
  user : Nat
  front : Bool
  deriving DecidableEq, Repr

/-- A reference to visit: the hierarchy's root, the instance it belongs to (index and user value), the ray in its frame, and the reference. -/
structure Todo where
  root  : W64
  inst  : Option (Nat × Nat)
  ray   : List W32
  ref   : Nat
  deriving DecidableEq, Repr

/-- A traversal: what is left to visit, the best hit so far and the nodes visited. -/
structure Trav where
  todo  : List Todo
  best  : Option Hit
  nodes : Nat
  deriving DecidableEq, Repr

def f32 (w : W32) : Num := fmtF32.unpack w.toNat
def f32lt (a b : W32) : Bool := lessNum (f32 a) (f32 b)
def f32le (a b : W32) : Bool := !(f32 a).isNan && !(f32 b).isNan && !(f32lt b a)

/-- An n32 field of a record. -/
def word32 (b : Bytes) (o : Nat) : W32 := w32 (fieldAt b o 4)

/-- n f32 fields from an offset. -/
def words32 (b : Bytes) (o n : Nat) : List W32 := (upFrom 0 n).map (fun i => word32 b (o + 4 * i))

def zeros (b : Bytes) (o n : Nat) : Bool := ((b.drop o).take n).all (· == 0)

/-- The better of two hits: least t, then lower instance, then lower primitive (R225). -/
def betterHit (a b : Hit) : Bool :=
  f32lt a.t b.t || (!(f32lt b.t a.t) && (decide (a.inst < b.inst) || (a.inst == b.inst && decide (a.prim < b.prim))))

/-- Children of a node that the ray enters, in ascending entry distance, ties to the lower index. -/
def childOrder (cs : List (Frac × Nat)) : List (Frac × Nat) :=
  let put (l : List (Frac × Nat)) (c : Frac × Nat) : List (Frac × Nat) :=
    l.takeWhile (fun x => leF x.1 c.1) ++ c :: l.dropWhile (fun x => leF x.1 c.1)
  cs.foldl put []

/-- A node record keeps R308 and R311. -/
def nodeOk (b : Bytes) : Bool :=
  fieldAt b 0x70 2 == 1 && zeros b 0x72 14 &&
    (upFrom 0 4).all (fun c => fieldAt b (0x60 + 4 * c) 4 / 2 ^ 30 == 0 || (words32 b (0x18 * c) 6).all (fun w => !(f32 w).isNan))

/-- The child references of a node that a ray enters: a box with min > max on an axis is never entered. -/
def entered (ray : List W32) (b : Bytes) : List (Frac × Nat) :=
  (upFrom 0 4).filterMap (fun c =>
    let ref := fieldAt b (0x60 + 4 * c) 4
    let box := words32 b (0x18 * c) 6
    if ref / 2 ^ 30 = 0 ∨ (upFrom 0 3).any (fun i => f32lt (box.getD (3 + i) 0) (box.getD i 0)) then none
    else (boxEntry ray box).map (fun d => (d, ref)))

/-- A component of the transformed ray (R310). -/
def xform (m : List W32) (r : Nat) (v : List W32) (point : Bool) : W32 :=
  let g (i : Nat) : Nat := (m.getD (4 * r + i) 0).toNat
  let x (i : Nat) : Nat := (v.getD i 0).toNat
  let mul (a b : Nat) : Nat := (fMul fmtF32 a b).1
  let add (a b : Nat) : Nat := (fAdd fmtF32 a b).1
  let t := add (add (mul (g 0) (x 0)) (mul (g 1) (x 1))) (mul (g 2) (x 2))
  w32 (if point then add t (g 3) else t)

/-- The ray in an instance's frame: tmin and tmax keep their meaning. -/
def instRay (m ray : List W32) : List W32 :=
  let o := ray.take 3
  let d := (ray.drop 4).take 3
  (upFrom 0 3).map (fun r => xform m r o true) ++ [ray.getD 3 0] ++ (upFrom 0 3).map (fun r => xform m r d false) ++ [ray.getD 7 0]

/-- An instance record keeps R310 and R311. -/
def instOk (b : Bytes) : Bool :=
  let root := w64 (fieldAt b 8 8)
  fieldAt b 0 2 == 3 && zeros b 3 1 && zeros b 0x13 5 && zeros b 0x48 56 && (ptrTag root == 0 || ptrTag root == 3) && ptrAddr root % 128 == 0

/-- A triangle leaf keeps R309 and R311. -/
def leafOk (b : Bytes) : Bool := fieldAt b 0 2 == 2 && zeros b 2 2 && zeros b 0x2C 20 && (words32 b 8 9).all (fun w => !(f32 w).isNan)

/-- The hit of a leaf, when it counts: culling, then tmin and tmax (R223, R225). [DESIGN CHOICE: log 35] -/
def leafHit (t : Todo) (ctl : W64) (b : Bytes) : Option Hit :=
  let tri := words32 b 8 9
  if !(triangleHit t.ray tri) then none
  else
    let (_, d, u, v, _) := Config.rayTriangle t.ray tri
    let front := triangleFront t.ray tri
    if (front && bit ctl 9) || (!front && bit ctl 8) || !(f32le (t.ray.getD 3 0) d) || !(f32le d (t.ray.getD 7 0)) then none
    else some { t := d, prim := fieldAt b 4 4, u := u, v := v, inst := (t.inst.getD (0, 0)).1, user := (t.inst.getD (0, 0)).2, front := front }

/-- What a visit does: the traversal goes on, ends with status 3 (its poison accepted or not), or stops. -/
inductive Visit where
  | go (v : Trav)
  | format (accepted : Option W64)
  | stop (e : LaneEnd)
  deriving DecidableEq, Repr

/-- Visit one reference. [DESIGN CHOICE: log 35] -/
def visit (s : State) (lane : Nat) (ctl : W64) (v : Trav) (t : Todo) : Visit × State :=
  let kind := t.ref / 2 ^ 30
  let off := 64 * (t.ref % 2 ^ 30)
  let size := if kind = 2 then 64 else 128
  if (ptrAddr t.root + off) % size ≠ 0 then (.format none, s)
  else if (kind = 2 ∧ t.inst = none) ∨ (kind = 3 ∧ t.inst ≠ none) ∨ kind = 0 then (.format none, s)
  else
    match unitRead s lane t.root (off : Nat) size with
    | (.accepted a, u) => (.format (some a), u)
    | (.stop e, u) => (.stop e, u)
    | (.got b, u) =>
      if kind = 1 then
        let v := { v with nodes := Nat.min (v.nodes + 1) (2 ^ 32 - 1) }
        if nodeOk b then
          let kids := (childOrder (entered t.ray b)).map (fun c => { t with ref := c.2 })
          (.go { v with todo := kids ++ v.todo }, u)
        else (.format none, u)
      else if kind = 2 then
        if leafOk b then
          let best := match leafHit t ctl b, v.best with
            | some h, some g => if betterHit h g then some h else some g
            | some h, none => some h
            | none, g => g
          (.go { v with best := best }, u)
        else (.format none, u)
      else if instOk b then
        if Nat.land (fieldAt b 2 1) (bits ctl 0 8) = 0 then (.go v, u)
        else
          let inner : Todo := { root := w64 (fieldAt b 8 8), inst := some (fieldAt b 4 4, fieldAt b 0x10 3), ray := instRay (words32 b 0x18 12) t.ray,
                                ref := 2 ^ 30 }
          (.go { v with todo := inner :: v.todo }, u)
      else (.format none, u)

/-- The registers of a lane's result (R224). -/
def rayRegs (best : Option Hit) (nodes status : Nat) : List W64 :=
  match best with
  | some h => [w64 (h.prim * 2 ^ 32 + h.t.toNat), w64 (h.v.toNat * 2 ^ 32 + h.u.toNat),
               w64 (b2n h.front * 2 ^ 63 + h.user * 2 ^ 32 + h.inst), w64 (nodes * 2 ^ 32 + status)]
  | none => [w64 (0xFFFFFFFF * 2 ^ 32 + 0x7F800000), 0, 0xFFFFFFFF, w64 (nodes * 2 ^ 32 + status)]

/-- Traverse until nothing is left, or until the first hit. Every box that the ray enters is visited, the far ones too. [DEDUCED: log 35] -/
def traverse (s : State) (lane : Nat) (ctl : W64) (any : Bool) (v : Trav) : Nat → LaneEnd × State
  | 0 => (.endless, s)
  | n + 1 =>
    match v.todo with
    | [] => (.regs (rayRegs v.best v.nodes (b2n v.best.isSome)) none, s)
    | t :: rest =>
      let w := { v with todo := rest }
      if any && v.best.isSome then (.regs (rayRegs v.best v.nodes 1) none, s)
      else
        match visit s lane ctl w t with
        | (.go x, u) => traverse u lane ctl any x n
        | (.format a, u) => (.regs (rayRegs none v.nodes 3) a, u)
        | (.stop e, u) => (e, u)

/-- A lane's ray: origin, tmin, direction, tmax (R223). -/
def laneRay (s : State) (a l : Nat) : List W32 :=
  (upFrom 0 4).flatMap (fun i => [w32 (bits (vreg s (a + i) l) 0 32), w32 (bits (vreg s (a + i) l) 32 32)])

/-- A ray that is not traced (R223). -/
def rayInvalid (ray : List W32) (ctl : W64) : Bool :=
  let zero (w : W32) : Bool := eqNum (f32 w) (.fin false 0 0)
  ray.any (fun w => (f32 w).isNan) || ((ray.drop 4).take 3).all zero || f32lt (ray.getD 3 0) 0 || f32lt (ray.getD 7 0) (ray.getD 3 0) ||
    bits ctl 10 54 != 0

/-- Visits after which a query counts as one that never ends. [DEDUCED: log 34] -/
def rayFuel : Nat := 2 ^ 34

/-- The query of one lane. [DEDUCED: log 34] -/
def rayLane (s : State) (q : Query) (l : Nat) : LaneEnd × State :=
  let ray := laneRay s q.va l
  let ctl := vreg s (q.va + 4) l
  if rayInvalid ray ctl then (.regs (rayRegs none 0 2) none, s)
  else
    traverse s l ctl (q.fn == 1) { todo := [{ root := q.ptr, inst := none, ray := ray, ref := 2 ^ 30 }], best := none, nodes := 0 } rayFuel

/-! ## Visibility (R226, R312) -/

/-- A visibility-buffer descriptor keeps R312. -/
def visOk (b : Bytes) : Bool :=
  let tag0 (o n : Nat) : Bool := fieldAt b o 8 / 2 ^ 60 == 0 && fieldAt b o 8 % n == 0
  let side (o : Nat) : Bool := decide (1 ≤ fieldAt b o 2) && decide (fieldAt b o 2 ≤ 16384)
  tag0 0 8 && side 8 && side 10 && decide (3 ≤ fieldAt b 12 1) && decide (fieldAt b 12 1 ≤ 6) && zeros b 13 3 && tag0 0x10 4 && tag0 0x18 8 &&
    decide (1 ≤ fieldAt b 0x20 4) && decide (fieldAt b 0x20 4 ≤ 65536) && zeros b 0x24 28

/-- The tiles that a clipped box overlaps, row by row, as indices of the zmax array. -/
def visTiles (b : Bytes) (x0 y0 x1 y1 : Nat) : List Nat :=
  let w := fieldAt b 8 2
  let h := fieldAt b 10 2
  let t := 2 ^ fieldAt b 12 1
  let row := (w + t - 1) / t
  if w ≤ x0 ∨ h ≤ y0 then []
  else
    let x1 := Nat.min x1 (w - 1)
    let y1 := Nat.min y1 (h - 1)
    (upFrom (y0 / t) (y1 / t - y0 / t + 1)).flatMap (fun y => (upFrom (x0 / t) (x1 / t - x0 / t + 1)).map (fun x => row * y + x))

/-- Read the tiles of a box: is zmin at or before some stored depth? -/
def visScan (s : State) (lane : Nat) (zmax : W64) (zmin : W32) (seen : Bool) (acc : Option W64) : List Nat → Except LaneEnd (Bool × Option W64) × State
  | [] => (.ok (seen, acc), s)
  | k :: ks =>
    match unitRead s lane zmax (4 * k : Nat) 4 with
    | (.got b, t) => visScan t lane zmax zmin (seen || f32le zmin (w32 (natLE b))) acc ks
    | (.accepted a, t) => visScan t lane zmax zmin seen (acc.orElse (fun _ => some a)) ks
    | (.stop e, t) => (.error e, t)

/-- The counter of a lane's slot: its physical address. -/
def visCounter (s : State) (lane : Nat) (b : Bytes) (slot : Nat) : Except LaneEnd (Nat × W64) × State :=
  let c := ctxOf s
  let base := w64 (fieldAt b 0x18 8)
  match checkAddr s c base (8 * slot : Nat) ⟨[2], true, 8, 8, [0]⟩ with
  | .error e => (.error (.trap e.1 e.2 (uncheckedSum base (8 * slot : Nat))), s)
  | .ok ea =>
    match translateAcc s c none 0 ea 2 lane with
    | (.here (.hbm pa) va, t) => (.ok (pa, va), t)
    | (.fault k h g, t) => (.error (.fault 2 { lane := lane, ea := ea, cause := k, host := h, page := g }), t)
    | (_, t) => (.error .endless, t)

/-- The query of one lane: its end, and the counter it adds to. [DEDUCED: log 34] -/
def visLane (s : State) (q : Query) (l : Nat) : LaneEnd × Option (Nat × W64) × State :=
  let box := vreg s q.va l
  let x0 := bits box 0 16
  let y0 := bits box 16 16
  let x1 := bits box 32 16
  let y1 := bits box 48 16
  let zmin := w32 (bits (vreg s (q.va + 1) l) 0 32)
  let slot := bits (vreg s (q.va + 1) l) 32 32
  if x1 < x0 ∨ y1 < y0 ∨ (f32 zmin).isNan ∨ fieldAt q.desc 0x20 4 ≤ slot then (.regs [2] none, none, s)
  else
    match visScan s l (w64 (fieldAt q.desc 0x10 8)) zmin false none (visTiles q.desc x0 y0 x1 y1) with
    | (.error e, t) => (e, none, t)
    | (.ok (seen, acc), t) =>
      if acc.isSome then (.regs [3] acc, none, t)
      else if seen then
        match visCounter t l q.desc slot with
        | (.ok c, u) => (.regs [1] none, some c, u)
        | (.error e, u) => (e, none, u)
      else (.regs [0] none, none, t)

/-- The adds of one instruction, lanes of one slot combined (R226). -/
def visAdds (l : List (Nat × W64)) : List (Nat × W64 × Nat) :=
  l.foldl (fun rs c =>
    if rs.any (fun r => r.1 == c.1) then rs.map (fun r => if r.1 == c.1 then (r.1, r.2.1, r.2.2 + 1) else r) else rs ++ [(c.1, c.2, 1)]) []

/-! ## Issue (R222) -/

/-- A register range from r on, n long. -/
def rangeOf (r n : Nat) : List Nat := upFrom r n

/-- The registers of an IU instruction: within 0-63, then in the allotment. -/
def needRange (s : State) (rs : List Nat) : Except Stop Unit := do
  need (rs.all (fun r => decide (r < 64))) (illegalOperand 0)
  needVecs s rs

/-- The pointer of an IU instruction, 64-byte aligned. -/
def iuPtr (s : State) (b : BitVec 8) (perms tags : List Nat) : Except Stop (W64 × W64) := do
  let ptr ← readS s b
  let ea ← checkOne s ptr 0 ⟨perms, false, 64, 64, tags⟩
  .ok (ptr, ea)

/-- The lanes of an IU instruction that are still to perform: helper lanes take no part. -/
def iuLanes (s : State) (g : Nat) : W32 := toPerform s (activeLanes s g)

/-- A stop of the instruction as a whole leaves its unfinished lanes as they are. -/
def keepUnfinished {α : Type} (s : State) (r : Except Stop α) : Except Stop α :=
  match r with
  | .error (.stay t) => .error (.stay (t.modCurFrag (fun f => { f with unfinished := s.curFrag.unfinished })))
  | x => x

/-- Hand a query to the bay's unit. -/
def startQuery (s : State) (fn d a : Nat) (ptr : W64) (m : W32) (desc : Bytes) : Eff :=
  if m = 0 then .ok s
  else
    let q : Query := { id := s.fresh, ply := s.iss.ply, strand := s.iss.strand, frag := s.iss.frag, fn := fn, vd := d, va := a, ptr := ptr,
                       lanes := m, w := s.iss.w, desc := desc }
    let s := (s.modBay (coreBay s.curCore) (fun b => { b with queries := b.queries ++ [q] })).bump
    .error (.stay ((s.modCurFrag (fun f => { f with wait := .query q.id })).later (.intersectionResult q.id)))

/-- RAYQ and RAYQ.ANY at issue. -/
def rayQuery (s : State) (fn : Nat) (d a : BitVec 6) (b : BitVec 8) (g : BitVec 3) : Eff := do
  needRange s (rangeOf d.toNat 4 ++ rangeOf a.toNat 5)
  let (ptr, _) ← iuPtr s b [0] [0, 3]
  startQuery s fn d.toNat a.toNat ptr (iuLanes s g.toNat) []

/-- RAYQ (R223 to R225). -/
def execRayq (d a : BitVec 6) (b : BitVec 8) (p : BitVec 3) (s : State) : Res := run s (rayQuery s 0 d a b p)

/-- RAYQ.ANY. -/
def execRayqAny (d a : BitVec 6) (b : BitVec 8) (p : BitVec 3) (s : State) : Res := run s (rayQuery s 1 d a b p)

/-- VISQ: the descriptor is read and checked before any effect (R226, R312). Its adds end protection, once no lane of it traps (R343). -/
def execVisq (d a : BitVec 6) (b : BitVec 8) (p : BitVec 3) (s : State) : Res :=
  run s (do
    needRange s (rangeOf d.toNat 1 ++ rangeOf a.toNat 2)
    let (ptr, ea) ← iuPtr s b [0] [0]
    let m := iuLanes s p.toNat
    let (pl, _, t) ← keepUnfinished s (translateOne s none 0 ea 0 6)
    let r := readPlace t (ctxOf t) pl 64 (ptrPol ea)
    match r.1 with
    | .got desc none false =>
      need (visOk desc) (illegalOperand 2)
      startQuery (if m = 0 then endProtection r.2 s.iss.ply 9 else r.2) 2 d.toNat a.toNat ptr m desc
    | .got _ (some u) false =>
      if curAccepts r.2 then .ok (acceptRecord (setVecLanes r.2 d.toNat m (fun _ => 3)) m ea)
      else .error (consumeHere r.2 { cls := 6, cause := 2, unrec := u, lanes := m, addr := ea })
    | .got _ po true => .error (consumeHere r.2 { cls := 6, cause := 5, unrec := !(curAccepts r.2) && po.getD false, lanes := m, addr := ea })
    | _ => .error (hold r.2))

/-! ## EMIT (R227, R314 to R316) -/

/-- An amplification-buffer descriptor keeps R314. -/
def emitOk (b : Bytes) : Bool :=
  let mode := fieldAt b 12 1
  let tag (o : Nat) : Nat := fieldAt b o 8 / 2 ^ 60
  let cap := fieldAt b 8 4
  tag 0 == 0 && fieldAt b 0 8 % 16 == 0 && decide (1 ≤ cap) && decide (cap ≤ 2 ^ 28) && (mode != 0 || decide (32 ≤ cap)) && decide (mode ≤ 2) &&
    decide (fieldAt b 13 1 ≤ 1) && decide (1 ≤ fieldAt b 14 2) && decide (fieldAt b 14 2 ≤ 4096) &&
    (if mode = 1 then (tag 0x20 == 0 || tag 0x20 == 4) && fieldAt b 0x20 8 % 16 == 0 else fieldAt b 0x20 8 == 0 && fieldAt b 0x28 4 == 0)

/-- Where the record of an index goes, and its status (R315). -/
def emitSlot (b : Bytes) (i : Nat) : Option W64 × Nat :=
  let cap := fieldAt b 8 4
  let main (k : Nat) : Option W64 := some (w64 (fieldAt b 0 8) + w64 (16 * k))
  if fieldAt b 12 1 = 0 then (main (i % cap), 0)
  else if i < cap then (main i, 0)
  else if fieldAt b 12 1 = 1 ∧ i < cap + fieldAt b 0x28 4 then (some (w64 (fieldAt b 0x20 8) + w64 (16 * (i - cap))), 1)
  else (none, 2)

/-- A lane of EMIT with its index, status and the place of its record, with its virtual address and policy. -/
structure EmitLane where
  lane : Nat
  idx  : Nat
  st   : Nat
  at'  : Option (Place × W64 × Nat)
  deriving DecidableEq, Repr

/-- The access of a record's store. -/
def emitAcc : Acc := ⟨[1], true, 16, 16, [0, 4]⟩

/-- The lanes of EMIT with their indices, as slots give them; nothing is translated yet. -/
def emitSlots (b : Bytes) (i0 : Nat) (ls : List Nat) : List (Nat × Nat × Option W64 × Nat) :=
  (ls.zip (upFrom i0 ls.length)).map (fun x => (x.1, x.2, emitSlot b x.2))

/-- Lanes whose record's address fails a check of R65, with the check and the address. -/
def emitFails (s : State) (l : List (Nat × Nat × Option W64 × Nat)) : List (Nat × (Nat × Nat) × W64) :=
  l.filterMap (fun x => x.2.2.1.bind (fun p =>
    match checkAddr s (ctxOf s) p 0 emitAcc with
    | .error e => some (x.1, e, p)
    | .ok _ => none))

/-- Check and translate the record of every lane before anything is claimed: no lane is appended twice. Every failing lane is named (R344); a
translation fault leaves all the lanes unfinished. -/
def emitLanes (s : State) (b : Bytes) (i0 : Nat) (ls : List Nat) : Except Stop (List EmitLane × State) := do
  let c := ctxOf s
  let slots := emitSlots b i0 ls
  match emitFails s slots with
  | f :: fs => .error (.trap { cause := f.2.1.1, detail := f.2.1.2, lanes := maskOf (f.1 :: fs.map (·.1)), addr := f.2.2 })
  | [] =>
    let ats := slots.filterMap (fun x => x.2.2.1.map (fun p => ({ lane := x.1, off := 0, ea := p } : LaneAt)))
    let (g, t) := translateLanes s c none 1 ats
    if g.waits then .error (hold t)
    else
      match g.fails with
      | [] => .ok (slots.map (fun x => { lane := x.1, idx := x.2.1, st := x.2.2.2, at' := (g.tos.find? (fun q => q.lane == x.1)).map (fun q => (q.place, q.va, ptrPol q.ea)) }), t)
      | fs => .error (.stay (parkFault t { faultInfo c 1 fs false with lanes := 0 } (some (maskOf ls))))

/-- Write the lanes' results: index and status. -/
def emitResults (s : State) (d : Nat) (ls : List EmitLane) : State :=
  setVecLanes s d (maskOf (ls.map (·.lane))) (fun l =>
    match ls.find? (fun e => e.lane == l) with
    | some e => w64 (e.st * 2 ^ 32 + e.idx % 2 ^ 32)
    | none => 0)

/-- EMIT is past its claim: once committed has reached its first index it adds its count and goes on (R316). While the count cannot be translated it waits.
[DEDUCED: log 36] -/
def emitFinish (s : State) : State :=
  match s.curFrag.wait with
  | .emitCommit ea i0 n =>
    match translateAcc s (ctxOf s) none 0 ea 2 0 with
    | (.here (.hbm pa) _, s) =>
      let s := homeTouch s pa 0
      if natLE (homeRead s (pa + 0x30) 8) = i0 then
        let s := addHome s (pa + 0x30) n
        let s := s.reels.foldl (fun s r => if r.2.mesh.isSome && r.2.vdev == s.curPly.vdev then s.later (.meshSkeinLaunch r.1) else s) s
        advance (s.modCurFrag (fun f => { f with wait := .none }))
      else halt s
    | (_, s) => halt s
  | _ => s

/-- Nothing keeps an EMIT from its release at package scope, and the log has room for its records: from its claim on it does not wait. -/
def emitReady (s : State) (ls : List EmitLane) : Except Stop State := do
  need (!(bayFenced s (coreBay s.curCore))) (hold s)
  storeReady s (ls.filterMap (fun e => e.at'.map (·.1)))

/-- Store the record of a lane; one in host memory ends protection (R45). -/
def emitStore (s : State) (a : Nat) (e : EmitLane) : State :=
  match e.at' with
  | some (pl, va, pol) =>
    let s := match pl with
      | .host _ => endProtection s s.iss.ply 12
      | _ => s
    writePlace s (ctxOf s) pl va pol (cellsOf (ptrAddr va % 128) (bytesLE (vreg s a e.lane).toNat 8 ++ bytesLE (vreg s (a + 1) e.lane).toNat 8))
  | none => s

/-- Claim, store, release, and wait for the turn. [DEDUCED: log 36] -/
def emitClaim (s : State) (d a pa : Nat) (ea : W64) (ls : List EmitLane) (i0 : Nat) : Except Stop State := do
  let s ← emitReady s ls
  let s := addHome s (pa + 0x10) ls.length
  let s := ls.foldl (fun s e => emitStore s a e) s
  let lost := (ls.filter (fun e => e.st == 2)).length
  let s := if lost = 0 then s else addHome s (pa + 0x38) lost
  let s ← releaseHere (emitResults s d ls) scPackage
  .ok (emitFinish (s.modCurFrag (fun f => { f with wait := .emitCommit ea i0 ls.length })))

/-- The descriptor at its home, after the fragment's own stores to it. -/
def emitDesc (s : State) (ea : W64) : Except Stop (Nat × Bytes × Option Bool × State) := do
  let (pl, _, t) ← keepUnfinished s (translateOne s none 0 ea 2 2)
  match pl with
  | .hbm pa =>
    let t ← flushFor t pl
    let t := ownReds t (ctxOf t) (pa / 128)
    let (b, poison, u) := directRead t pl 64
    .ok (pa, b, poison, u)
  | _ => .error (hold t)

/-- EMIT from its claim on, when the unit serves it or a stall ends. Its claims end protection; a trap finds none of it done (R227, R343).
[DEDUCED: log 34, 36] -/
def emitRun (s : State) (d a : Nat) (ea : W64) (m : W32) : Eff := do
  let s := endProtection s s.iss.ply 9
  let (pa, b, poison, s) ← emitDesc s ea
  let ls := lanesOf m
  let n := ls.length
  let all (t : State) (v : W64) : State := advance ((setVecLanes t d m (fun _ => v)).modCurFrag (fun f => { f with wait := .none }))
  match poison with
  | some u =>
    if curAccepts s then .ok (all (acceptRecord s m ea) (w64 (3 * 2 ^ 32)))
    else .error (consumeHere s { cls := 6, cause := 2, unrec := u, lanes := m, addr := ea })
  | none =>
    if !(emitOk b) then
      let free := w64 (3 * 2 ^ 32 + bits (Config.freeWord s.draws) 0 32)
      .ok (all { s with draws := s.draws + 1 } free)
    else
      let head := fieldAt b 0x10 8
      let tail := fieldAt b 0x18 8
      if fieldAt b 12 1 = 0 ∧ ((fieldAt b 8 4 : Int) - n < (head : Int) - tail) then
        let t := fieldAt b 0x2C 4
        let dl := match s.curFrag.wait with
          | .emit _ _ _ _ x => x
          | _ => if t = 0 then none else some (s.clock + 1024 * t)
        .error (.stay (s.modCurFrag (fun f => { f with wait := .emit d a ea m dl })))
      else do
        let (es, s) ← keepUnfinished s (emitLanes s b head ls)
        emitClaim s d a pa ea es head

/-! ## Results -/

/-- The query of a bay that comes first, when it has this number. -/
def headQuery (s : State) (id : Nat) : Option (Nat × Query) :=
  s.bays.findSome? (fun b => match b.2.queries with
    | q :: _ => if q.id = id then some (b.1, q) else none
    | [] => none)

/-- A query of this number waits in some bay. -/
def queryWaits (s : State) (id : Nat) : Bool := s.bays.any (fun b => b.2.queries.any (fun q => q.id == id))

/-- The lanes of a visibility query: the ends, the counters of those that write 1, and the state. [DEDUCED: log 34] -/
def visLanes (s : State) (q : Query) : List (Nat × LaneEnd) × List (Nat × W64) × State :=
  (lanesOf q.lanes).foldl (fun r l =>
    let x := visLane r.2.2 q l
    (r.1 ++ [(l, x.1)], r.2.1 ++ x.2.1.toList, x.2.2)) ([], [], s)

/-- Some lane traps, consumes an error or does not end: no lane has an effect. -/
def anyStop (l : List (Nat × LaneEnd)) : Bool :=
  l.any (fun e => match e.2 with
    | .trap _ _ _ => true
    | .bad _ => true
    | .endless => true
    | _ => false)

/-- Protection ends, and the counters' sectors are flushed, as for a RED of the fragment (R183, R187, R246). -/
def visFlush (s : State) (cs : List (Nat × W64)) : State :=
  cs.foldl (fun t c => flushSector t t.curCore (l1Key 0 (c.1 / 128))) (endProtection s s.iss.ply 9)

/-- A visibility query waits: an entry for a counter's sector stays behind a release under way (R242). -/
def queryHeld (s : State) (q : Query) : Bool :=
  let r := visLanes s q
  let t := visFlush r.2.2 r.2.1
  q.fn == 2 && !(anyStop r.1) && r.2.1.any (fun c => !(flushed t t.curCore (l1Key 0 (c.1 / 128))))

/-- Run a query for all its lanes: the ends and the state. [DEDUCED: log 34] -/
def queryLanes (s : State) (q : Query) : List (Nat × LaneEnd) × State :=
  if q.fn = 2 then
    let r := visLanes s q
    (r.1, if anyStop r.1 then r.2.2 else (visAdds r.2.1).foldl (fun t a => addRed t 1 a.1 (w64 a.2.2) a.2.1) (visFlush r.2.2 r.2.1))
  else
    (lanesOf q.lanes).foldl (fun r l => let x := rayLane r.2 q l; (r.1 ++ [(l, x.1)], x.2)) ([], s)

/-- INTERSECTION_RESULT: the unit serves its queries in arrival order; its reads are loads of the fragment (R222). -/
def execIntersectionResult (id : Nat) (s : State) : Res :=
  match headQuery s id with
  | none => .next (if queryWaits s id then s.later (.intersectionResult id) else s)
  | some (b, q) =>
    let t := focus s q.ply q.strand q.frag
    let gone (u : State) : State := (u.modBay b (fun y => { y with queries := y.queries.filter (fun x => x.id != id) })).modCurFrag (fun f => { f with wait := .none })
    if !(mayWake t) then .next (s.later (.intersectionResult id))
    else if q.fn = 3 then runTo (gone t) (emitRun (gone t) q.vd q.va q.ptr q.lanes)
    else
      let r := queryLanes t q
      if r.1.any (fun e => e.2 == .endless) || queryHeld t q then .next (s.later (.intersectionResult id))
      else runTo (gone r.2) ((endLanes (gone r.2) q.vd (if q.fn = 2 then 1 else 4) r.1).map advance)

/-! ## EMIT at issue, and the end of a stall -/

/-- EMIT: the unit serves it in its turn (R222); its claims end protection (R227). -/
def execEmit (d a : BitVec 6) (b : BitVec 8) (p : BitVec 3) (s : State) : Res :=
  run s (do
    needRange s (rangeOf d.toNat 1 ++ rangeOf a.toNat 2)
    let (_, ea) ← iuPtr s b [0, 2] [0]
    let m := iuLanes s p.toNat
    startQuery (if m = 0 then endProtection s s.iss.ply 9 else s) 3 d.toNat a.toNat ea m [])

/-- EMIT_STALL_RESUME: a stalled EMIT claims its slots once the buffer has room, and one that has claimed goes on in its turn (R315, R316).
[DEDUCED: log 36] -/
def execEmitStallResume (p k f : Nat) (s : State) : Res :=
  if s.liveFrag p k f then
    let t := focus s p k f
    if !(mayWake t) then .next s
    else
      match (s.fragOf p k f).wait with
      | .emit d a ea m dl =>
        runTo t (match emitRun t d a ea m with
          | .error (.stay u) => .error (.stay (u.modCurFrag (fun g => { g with wait := if g.wait = .held then .emit d a ea m dl else g.wait })))
          | r => r)
      | .emitCommit _ _ _ => .next (emitFinish t)
      | _ => .next s
  else .next s

/-- EMIT_STALL_TIMEOUT: nothing is claimed; every lane gets status 2 (R315), once its strand is not at the trap level elsewhere (R345). -/
def execEmitStallTimeout (p k f : Nat) (s : State) : Res :=
  if s.liveFrag p k f then
    let t := focus s p k f
    match (s.fragOf p k f).wait with
    | .emit d _ ea m (some dl) =>
      if decide (s.clock < dl) || !(mayWake t) then .next s
      else
        runTo t (do
          let (pa, b, _, u) ← emitDesc t ea
          let n := (lanesOf m).length
          let u := addHome u (pa + 0x38) n
          let u := homeWriteIn u (pa + 13) 0 (bytesLE (Nat.lor (fieldAt b 13 1) 1) 1)
          let u := setVecLanes u d m (fun _ => w64 (2 * 2 ^ 32 + 0xFFFFFFFF))
          .ok (advance (u.modCurFrag (fun g => { g with wait := .none }))))
    | _ => .next s
  else .next s

end Sys2Proof.Machine
end

