-- ==== Sys2Proof/Machine/Queue.lean ====
section
/-! DEFINITION. The command complex's own means (R265 to R274, R285, R286, R418): its memory accesses, queue indices and stops, signals
with the re-test of parked queues, and completions. -/
namespace Sys2Proof.Machine

/-! ## Records and stops of a queue -/

/-- A record about a packet of a queue of a device: the markval field carries the packet index (R273, R418). -/
def queueRecordOf (s : State) (q v cause : Nat) (addr : W64) (detail idx : Nat) (cookie : W32) : State :=
  writeRecord s { severity := 0, cls := 9, cause := cause, vdev := v, queue := q, address := addr, detail := detail,
                  markval := w64 idx, cookie := cookie }

/-- The same, of the device that the queue's entry names. -/
def queueRecord (s : State) (q cause : Nat) (addr : W64) (detail idx : Nat) (cookie : W32) : State :=
  queueRecordOf s q (s.queue q).vdev cause addr detail idx cookie

/-- A wake write wakes the device to which the queue is granted, whatever the queue's entry says (R305, R330). -/
def wakeOwner (s : State) (q : Nat) : State :=
  match s.vdevs.find? (fun v => v.2.exist && v.2.ownsQueue q) with
  | some v => wakeDevice s v.1
  | none => s

/-- Stop a queue (R269): what has not started never starts. -/
def stopQueue (s : State) (q err : Nat) : State :=
  s.modQueue q (fun x => { x with state := .stopped, shadowS := .stopped, err := err, parked := none, deadline := none, waitPkt := [], replies := [], fence := none, gated := false,
                                  save := none })

/-- A double-bit error of a queue's entry: the queue stops with ERR 0x03 and its RW fields read 0; the lane's shadow keeps RIDX (R392). -/
def queueTableError (s : State) (q : Nat) : State :=
  let s := stopQueue (queueRecord s q 3 0 0 (s.queue q).ridx 0) q 3
  s.modQueue q (fun x => { x with ring := 0, vdev := 0, log := 0, cls := 0, dev := false, prot := false, pois := false, intr := false, vec := 0,
                                  rdptr := 0, ridx := 0, spoilt := true })

/-- A queue's entry is read: an error in it is detected, a single-bit one corrected and counted (R392, R403). [DESIGN CHOICE: log 63] -/
def seeQueue (s : State) (q : Nat) : State :=
  match takeFlip s (fun f => f.kind == 15 && f.unit == q) (fun f => (9, if f.double then 3 else 1)) with
  | none => s
  | some (f, t) => if f.double then queueTableError t q else t.modPlat (fun p => { p with fixed := p.fixed + 1 })

/-- The queue takes part: it is configured and has not stopped. -/
def QState.runs (t : QState) : Bool := !(t == .off || t == .stopped)

/-! ## Accesses (R418) -/

/-- What keeps an access of the command complex: an answer from outside that has not come, or a failure at an address. -/
inductive CcStop where
  | wait (s : State)
  | fail (addr : W64) (s : State)
  deriving DecidableEq, Repr

/-- Ask for something on behalf of a queue, once. [DESIGN CHOICE: log 39] -/
def ccAsk (s : State) (q v : Nat) (a : Ask) (o : Nat → Out) : State :=
  if s.plat.reqs.any (fun r => r.who == .queue q && r.ask == a) then s else ask (s.send (o s.fresh)) (.queue q) v a none

/-- The fabric address and device of a rank for a packet, which belongs to no reel: by the lowest process group of its device that has the rank, or
this package alone (R292). What its reading leaves at the homes comes with it. [DESIGN CHOICE: log 38] -/
def ccRank (s : State) (v rank : Nat) : Option (Nat × Nat) × State :=
  match (s.vdev v).pgt.find? (fun e => decide (rank < e.2.nrank)) with
  | none => (if rank = 0 then some (s.pf0.faddr.toNat, v) else none, s)
  | some e =>
    let a := (bits e.2.map 0 57 + 8 * rank) % 2 ^ 57
    let s := walkTouch s v a
    match translateWalk s v a 0 with
    | .ok p =>
      let t := homeTouch s (p.phys a) 0
      let x := natLE (homeRead t (p.phys a) 8)
      (some (x % 65536, x / 65536 % 16), t)
    | _ => (none, s)

/-- Where a pointer leads for an access of a kind: the device's own table for tag 0, ATS for tag 4, and for tag 5 the window of a rank, here when the
rank is this package's. [DEDUCED: log 38] -/
def ccPlace (s : State) (q v : Nat) (ptr : W64) (kind : Nat) : Except CcStop (Place × State) :=
  let a := ptrAddr ptr
  if 5 ≤ ptrPol ptr then .error (.fail ptr s)
  else
    match ptrTag ptr with
    | 0 =>
      let s := walkTouch s v a
      match translateWalk s v a kind with
      | .ok p => .ok (.hbm (p.phys a), s)
      | _ => .error (.fail ptr s)
    | 4 =>
      let pasid := (s.vdev v).pasid
      match (s.queue q).replies.findSome? (fun r => match r with
          | .atsPage p => if p.covers v true pasid a && pagePermits p kind then some p else none
          | _ => none) with
      | some p => .ok (.host (p.phys a), s)
      | none =>
        if (s.queue q).replies.contains (.atsDenied pasid (a / 4096) kind) then
          .error (.fail ptr (s.modQueue q (fun x => { x with replies := x.replies.filter (· ≠ .atsDenied pasid (a / 4096) kind) })))
        else .error (.wait (ccAsk s q v (.ats pasid (a / 4096) kind) (fun id => .atsReq id (s.tag v) pasid (a / 4096) kind)))
    | 5 =>
      let o := a % 2 ^ 46
      match ccRank s v (a / 2 ^ 46) with
      | (none, s) => .error (.fail ptr s)
      | (some (f, d), s) =>
        let t := s.vdev d
        let va := (t.xbase.toNat + o) % 2 ^ 57
        if f ≠ s.pf0.faddr.toNat then .ok (.peer (a / 2 ^ 46) o, s)
        else if !t.exist || t.stopped || decide (t.xbytes.toNat ≤ o) then .error (.fail ptr s)
        else if t.collapse != .awake then .error (.wait (wakeDevice s d))
        else
          let s := walkTouch s d va
          match translateWalk s d va kind with
          | .ok p => .ok (.hbm (p.phys va), s)
          | _ => .error (.fail ptr s)
    | _ => .error (.fail ptr s)

/-- The pieces of n bytes from an address by sector: offset and length. -/
def sectorPieces (a o n : Nat) : Nat → List (Nat × Nat)
  | 0 => []
  | fuel + 1 =>
    if n = 0 then []
    else
      let m := Nat.min n (128 - (a + o) % 128)
      (o, m) :: sectorPieces a (o + m) (n - m) fuel

/-- The link from either I/O die to the rank of a peer, with its fabric address and device. -/
def ccRoute (s : State) (v rank : Nat) : Option (Nat × Nat × Nat) × State :=
  match ccRank s v rank with
  | (some (f, d), t) => (((routeOf t 0 f).orElse (fun _ => routeOf t 1 f)).map (fun l => (l, f, d)), t)
  | (none, t) => (none, t)

/-- Read n bytes of a peer's window: its sector is asked for, and the answer kept while the packet lasts. -/
def ccReadPeer (s : State) (q v rank o n : Nat) (addr : W64) : Except CcStop (Bytes × Bool × State) :=
  let base := o / 128 * 128
  let drop (r : Reply) : CcStop := .fail addr (s.modQueue q (fun x => { x with replies := x.replies.filter (· ≠ r) }))
  match (s.queue q).replies.findSome? (fun r => match r with
      | .peerData k b d bad => if k == rank && b == base then some (d, bad) else none
      | _ => none) with
  | some (d, bad) => .ok ((d.drop (o % 128)).take n, bad, s)
  | none =>
    if (s.queue q).replies.contains (.peerUnreachable rank base) then .error (drop (.peerUnreachable rank base))
    else if (s.queue q).replies.contains (.peerRefused rank base) then .error (drop (.peerRefused rank base))
    else if s.plat.reqs.any (fun r => r.who == .queue q && r.ask == .peerLoad rank base 128) then .error (.wait s)
    else
      match ccRoute s v rank with
      | (none, t) => .error (.fail addr t)
      | (some (l, f, d), t) =>
        .error (.wait (ask ((countFor t v).send (.peerReq t.fresh l f (t.tag v) d 0 base 128 0 0 [])) (.queue q) v (.peerLoad rank base 128) (some l)))

/-- Send a write of cells of a sector of a peer's window; its fate comes back to the queue. -/
def ccWritePeer (s : State) (q v rank sector : Nat) (cells : Tab (Byte × Byte)) (poison : Bool) (addr : W64) : Except CcStop State :=
  match ccRoute s v rank with
  | (none, t) => .error (.fail addr t)
  | (some (l, f, d), t) =>
    .ok (ask ((countFor t v).send (.peerReq t.fresh l f (t.tag v) d 1 (128 * sector) 128 (b2n poison) 0 (cellBytes 0 cells))) (.queue q) v
      (.peerStore rank t.fresh {}) (some l))

/-- Writes of a queue to peers are still on their way. -/
def ccSending (s : State) (q : Nat) : Bool := s.plat.reqs.any (fun r => r.who == .queue q && (match r.ask with
  | .peerStore _ _ _ => true
  | _ => false))

/-- A write of a queue to a peer has failed: the answer, used up. -/
def ccLost (s : State) (q : Nat) : Option State :=
  if (s.queue q).replies.contains .storeLost then some (s.modQueue q (fun x => { x with replies := x.replies.filter (· ≠ .storeLost) })) else none

/-- Read one piece at its home, through the host or from a peer: bytes and poison. -/
def ccReadAt (s : State) (q v : Nat) (p : Place) (n : Nat) (addr : W64) : Except CcStop (Bytes × Bool × State) :=
  match p with
  | .hbm pa => let t := homeTouch s pa 0; .ok (homeRead t pa n, homePoisoned t (pa / 128), t)
  | .host pa =>
    let sec := pa / 128 * 128
    match (s.queue q).replies.findSome? (fun r => match r with
        | .hostSector _ a d => if a == sec then some d else none
        | _ => none) with
    | some d => .ok ((d.drop (pa % 128)).take n, false, s)
    | none =>
      if (s.queue q).replies.contains (.hostLost sec) then
        .error (.fail addr (s.modQueue q (fun x => { x with replies := x.replies.filter (· ≠ .hostLost sec) })))
      else .error (.wait (ccAsk s q v (.hostRead sec) (fun id => .hostReadReq id (s.tag v) sec)))
  | .peer r o => ccReadPeer s q v r o n addr
  | _ => .error (.fail addr s)

/-- Read n bytes: what each sector holds, with its poison. -/
def ccRead (s : State) (q v : Nat) (ptr : W64) (n : Nat) : Except CcStop (List (Bytes × Bool) × State) :=
  (sectorPieces (ptrAddr ptr) 0 n (n / 128 + 2)).foldlM (fun r x => do
    let at' := ptr + w64 x.1
    let (p, t) ← ccPlace r.2 q v at' 0
    let (b, poison, t) ← ccReadAt t q v p x.2 at'
    .ok (r.1 ++ [(b, poison)], t)) ([], s)

/-- Read n bytes whose contents the command core interprets: poison fails the access. -/
def ccFetch (s : State) (q v : Nat) (ptr : W64) (n : Nat) : Except CcStop (Bytes × State) := do
  let (l, t) ← ccRead s q v ptr n
  if l.any (·.2) then .error (.fail ptr t) else .ok (l.flatMap (·.1), t)

/-- Write bytes at their home, through the host or to a peer, sector by sector; poison comes with them. -/
def ccWriteP (s : State) (q v : Nat) (ptr : W64) (b : Bytes) (poison : Bool) : Except CcStop State :=
  (sectorPieces (ptrAddr ptr) 0 b.length (b.length / 128 + 2)).foldlM (fun s x => do
    let at' := ptr + w64 x.1
    let (p, t) ← ccPlace s q v at' 1
    let d := (b.drop x.1).take x.2
    match p with
    | .hbm pa => .ok (homeDrain (homeTouch t pa 0) (pa / 128) 0 (cellsOf (pa % 128) d) poison)
    | .host pa => .ok (sendHost t v (t.vdev v).pasid (pa / 128 * 128) (cellsOf (pa % 128) d) poison)
    | .peer r o => ccWritePeer t q v r (o / 128) (cellsOf (o % 128) d) poison at'
    | _ => .error (.fail at' t)) s

def ccWrite (s : State) (q v : Nat) (ptr : W64) (b : Bytes) : Except CcStop State := ccWriteP s q v ptr b false

/-! ## Indices (R267 to R269) -/

/-- Packets of a ring. -/
def Queue.slots (x : Queue) : Nat := 2 ^ (x.log + 4)

/-- The packet slot of an index. -/
def Queue.slotPtr (x : Queue) (i : Nat) : W64 := x.ring + w64 (64 * (i % x.slots))

/-- The release of a write that a device's command core announces, at system scope (R241, R268, R274): the device's REDs and published entries
are performed first, and then what newFence names; the fence that remains, and whether the release is performed. -/
def ccRelease (s : State) (q v : Nat) (f : Option Fence) : State × Option Fence × Bool :=
  match f with
  | some g => if g.met s then (s, none, true) else (s, some g, false)
  | none =>
    let s := performReds s (fun r => r.owners.any (fun o => (s.reel o.reel).vdev == v))
    let s := (s.vdev v).bays.foldl (fun s b => drainPublished s b (s.bay b).pubs) s
    if (s.vdev v).bays.any (fun b => publishedUpTo s b (s.bay b).pubs != []) then (s, none, false)
    else
      let g := newFence s scSystem
      let s := askFlush s (.queue q) v g.host
      if g.met s then (s, none, true) else (s, some g, false)

/-- Mirror the read index after each advance, oldest first, where RDPTR led then: the release, then the write; a failed write is recorded and skipped (R268, R418
kind 2). [DEDUCED: log 40] -/
def writeMirrors (s : State) (q : Nat) : Nat → State
  | 0 => s
  | n + 1 =>
    let x := s.queue q
    match x.mirrors with
    | [] => s
    | m :: rest =>
      let put (s : State) (l : List Mirror) : State := s.modQueue q (fun x => { x with mirrors := l })
      match (if m.free then (s, none, true) else ccRelease s q m.vdev m.fence) with
      | (t, f, false) => put t ({ m with fence := f } :: rest)
      | (t, _, true) =>
        match ccWrite t q m.vdev m.ptr (bytesLE (m.index + 1) 8) with
        | .ok t => writeMirrors (put t rest) q n
        | .error (.wait t) => put t ({ m with fence := none, free := true } :: rest)
        | .error (.fail a t) => writeMirrors (queueRecordOf (put t rest) q m.vdev 10 a 2 m.index m.cookie) q n

/-- Write the mirrors of a queue that can be written. -/
def mirrorIdx (s : State) (q : Nat) : State := writeMirrors s q (s.queue q).mirrors.length

/-- A packet starts: RIDX advances (R268), the shadow follows (R392), the ring's answers are used up. [DEDUCED: log 40] -/
def advanceIdx (s : State) (q : Nat) (b : Bytes) : State :=
  let s := s.modQueue q (fun x =>
    let st : QState := if x.ridx + 1 < x.widx then .ready else .idle
    { x with
      ridx := x.ridx + 1
      shadowR := x.ridx + 1
      state := st
      shadowS := st
      parked := none
      deadline := none
      waitPkt := []
      fence := none
      gated := false
      warm := x.warm.filter (· ≠ x.ridx)
      mirrors := if x.rdptr = 0 then x.mirrors else x.mirrors ++ [{ index := x.ridx, cookie := w32 (fieldAt b 4 4), ptr := x.rdptr, vdev := x.vdev }]
      replies := x.replies.filter (fun r => match r with
        | .hostSector _ _ _ => false
        | .hostLost _ => false
        | .peerData _ _ _ _ => false
        | .peerUnreachable _ _ => false
        | .peerRefused _ _ => false
        | .storeLost => false
        | _ => true)
      save := none })
  mirrorIdx s q

/-- A packet error (R273). -/
def packetError (s : State) (q : Nat) (b : Bytes) : State :=
  stopQueue (queueRecord s q 4 0 0 (s.queue q).ridx (w32 (fieldAt b 4 4))) q 4

/-! ## Completions (R274) -/

/-- Packets of a queue that have started and not completed. -/
def jobsOf (s : State) (q : Nat) : List Job := s.jobs.filter (fun j => j.queue == q)

/-- A started packet becomes a job with the tail of its packet; a WAIT has none but its status word. -/
def newJob (s : State) (q : Nat) (b : Bytes) (todo : List Nat) : Job × State :=
  let x := s.queue q
  let j : Job := { id := s.fresh, vdev := x.vdev, queue := q, index := x.ridx, cookie := w32 (fieldAt b 4 4), intr := (fieldAt b 1 1).testBit 1,
                   signal := w64 (fieldAt b 0x28 8), addend := w64 (fieldAt b 0x30 8), statusPtr := w64 (fieldAt b 0x38 8), status := 0,
                   packet := b, todo := todo }
  (j, { s with jobs := s.jobs ++ [j] }.bump)

/-- A job's work is done: its tail follows. -/
def completeJob (s : State) (id status : Nat) : State :=
  (s.modJob id (fun j => { j with done := true, status := status })).later (.completionTail id)

/-- A packet that starts and completes at once. -/
def startAndComplete (s : State) (q : Nat) (b : Bytes) (status : Nat) : State :=
  let r := newJob s q b []
  completeJob (advanceIdx r.2 q b) r.1.id status

/-! ## Signals (R232, R285 to R288) -/

/-- The conditions of WAIT and COND. -/
def condHolds (cond v w : Nat) : Bool :=
  match cond with
  | 0 => decide (w ≤ v)
  | 1 => decide (v = w)
  | 2 => decide (v ≠ w)
  | _ => decide (v < w)

/-- Write the status word of a WAIT; when an answer of the host is missing, a job keeps the write. -/
def waitStatus (s : State) (q : Nat) (b : Bytes) (idx st : Nat) : State :=
  let ptr := w64 (fieldAt b 0x20 8)
  let v := (s.queue q).vdev
  if ptr = 0 then s
  else
    match ccWrite s q v ptr (bytesLE st 8) with
    | .ok t => t
    | .error (.fail a t) => queueRecord t q 10 a 8 idx (w32 (fieldAt b 4 4))
    | .error (.wait t) =>
      let j : Job := { id := t.fresh, vdev := v, queue := q, index := idx, cookie := w32 (fieldAt b 4 4), intr := false, signal := 0, addend := 0,
                       statusPtr := ptr, status := st, packet := b, done := true }
      ({ t with jobs := t.jobs ++ [j] }.bump).later (.completionTail j.id)

/-- A WAIT starts, met (0) or timed out (1). -/
def startWait (s : State) (q st : Nat) (b : Bytes) : State :=
  let idx := (s.queue q).ridx
  waitStatus (advanceIdx s q b) q b idx st

/-- Re-test the queues parked on a signal against a value, in ascending queue number (R286). -/
def retestSignal (s : State) (pa value : Nat) : State :=
  (s.queues.filter (fun x => x.2.state == .parked && x.2.parked == some (w64 pa))).foldl (fun s x =>
    if condHolds (fieldAt x.2.waitPkt 0x18 1) value (fieldAt x.2.waitPkt 0x10 8) then startWait s x.1 0 x.2.waitPkt else s) s

/-- One step on a signal's value at its home: add or set; then the parked queues are re-tested. -/
def signalStep (s : State) (pa n : Nat) (set : Bool) : State :=
  let s := homeTouch s pa 0
  let v := if set then n % 2 ^ 64 else (natLE (homeRead s pa 8) + n) % 2 ^ 64
  retestSignal (homeWriteIn s pa 0 (bytesLE v 8)) pa v

/-- The physical address of a signal or counter of a device; none for a failed access, and where its value is read, for a poisoned sector. -/
def signalPlace (s : State) (q v : Nat) (ptr : W64) (kind : Nat) (reads : Bool) : Option Nat × State :=
  match ccPlace s q v ptr kind with
  | .ok (.hbm pa, t) => let t := homeTouch t pa 0; (if reads && homePoisoned t (pa / 128) then none else some pa, t)
  | .ok (_, t) => (none, t)
  | .error (.wait t) => (none, t)
  | .error (.fail _ t) => (none, t)

/-! ## LAUNCH's append (R231, R267) -/

/-- What an append answers: the status of LAUNCH, or a wait. -/
inductive Appended where
  | status (n : Nat) (s : State)
  | wait (s : State)
  deriving DecidableEq, Repr

/-- Append a packet to a queue that LAUNCH feeds. [DEDUCED: log 37, 40] -/
def appendPacket (s : State) (v q : Nat) (b : Bytes) : Appended :=
  let s := seeQueue s q
  let x := s.queue q
  let ty := fieldAt b 0 1
  if !((s.vdev v).ownsQueue q) || x.vdev != v || !x.dev || !x.state.runs || !(ty == 5 || ty == 6) then .status 2 s
  else if x.widx - x.ridx = x.slots then .status 1 s
  else
    match ccWrite s q v (x.slotPtr x.widx) b with
    | .error (.wait t) => .wait t
    | .error (.fail a t) => .status 2 (queueRecord t q 10 a 10 x.widx (w32 (fieldAt b 4 4)))
    | .ok t =>
      .status 0 (wakeDevice (t.modQueue q (fun x =>
        { x with widx := x.widx + 1
                 shadowW := x.widx + 1
                 warm := if x.state == .idle && (x.cls == 1 || x.cls == 2) then x.warm ++ [x.widx] else x.warm
                 state := if x.state == .idle then .ready else x.state
                 shadowS := if x.state == .idle then .ready else x.state })) v)

end Sys2Proof.Machine
end

