-- ==== Sys2Proof/Machine/Mgmt.lean ====
section
/-! DEFINITION. Management instructions (R228 to R232): run-time allotment (R51), translation registers (R259), LAUNCH, SIGADD and SIGSET. -/
namespace Sys2Proof.Machine

/-! ## Allotment -/

/-- Free vector blocks of the issuing strand's partition. -/
def freeBlocks (s : State) : Nat :=
  64 - (s.pliesOn s.curCore).foldl (fun n p => n + p.2.partBlocks (s.iss.strand % 4)) 0

/-- VACQ.P: the blocks are added when they are free and the strand stays within 8; the new registers read zero. -/
def acquireBlocks (s : State) (d : BitVec 8) (n : Nat) : Eff :=
  if s.cur.blocks + n ≤ 8 ∧ n ≤ freeBlocks s then writeS (s.modCur (fun t => { t with blocks := t.blocks + n })) d 1
  else writeS s d 0

/-- VACQ.W: parks for at most 4,096 clocks while the blocks are not free (R51, R229). -/
def execVacqW (d b : BitVec 8) (s : State) : Res :=
  run s (do
    let n ← readS s b
    needDest d
    if s.cur.blocks + n.toNat ≤ 8 ∧ freeBlocks s < n.toNat then
      .error (.stay ((s.modCurFrag (fun f => { f with wait := .vacq n.toNat d (s.clock + 4096) }))))
    else acquireBlocks s d n.toNat)

/-- VACQ.P. -/
def execVacqP (d b : BitVec 8) (s : State) : Res :=
  run s (do
    let n ← readS s b
    needDest d
    acquireBlocks s d n.toNat)

/-- VACQ_WAIT_END: a waiting VACQ.W gets its blocks, or its clocks have passed and it acts as VACQ.P; a ply that is off its core, or a strand
at the trap level in another fragment, keeps it waiting (R229, R345). -/
def execVacqWaitEnd (p k f : Nat) (s : State) : Res :=
  if s.liveFrag p k f then
    match (s.fragOf p k f).wait with
    | .vacq n d deadline =>
      let t := focus s p k f
      if !(mayWake t) then .next s
      else if freeBlocks t < n && decide (s.clock < deadline) then .next s
      else runTo t ((acquireBlocks (t.modCurFrag (fun x => { x with wait := .none })) d n).map advance)
    | _ => .next s
  else .next s

/-- The base allotment of the strand's role (R23). -/
def baseBlocks (s : State) : Nat :=
  let d := (s.reel s.curPly.reel).desc
  if s.cur.role1 then d.vblk1 else d.vblk0

/-- A fragment stands at an instruction that has issued and is not finished: it is parked on a fault or a page request, waits for a query or
for room in a buffer, or for what it has asked of the outside. -/
def unfinishedAt (s : State) (p k f : Nat) (x : Frag) : Bool :=
  match x.wait with
  | .fault _ => true
  | .pri _ => true
  | .emit _ _ _ _ _ => true
  | .emitCommit _ _ _ => true
  | .query _ => true
  | _ => x.unfinished.isSome || x.replies != [] || s.plat.reqs.any (fun r => r.who == .frag p k f)

/-- An issued, unfinished instruction of the strand names a vector register from r on (R229). -/
def stillNamed (s : State) (r : Nat) : Bool :=
  s.cur.frags.any (fun x => x.1 != s.iss.frag && unfinishedAt s s.iss.ply s.iss.strand x.1 x.2 && x.2.names.any (fun n => decide (r ≤ n)))

/-- VREL: the highest blocks go, down to the role's base; an interval that is protected keeps them from the partition (R43, R51). -/
def execVrel (b : BitVec 8) (s : State) : Res :=
  run s (do
    let n ← readS s b
    let k := Nat.min n.toNat (s.cur.blocks - baseBlocks s)
    if k = 0 then .ok s
    else
      let left := s.cur.blocks - k
      need (!(stillNamed s (8 * left))) (hold s)
      let i := s.iss.strand % 4
      let prot := s.curPly.prot
      let s := s.modCur (fun t => { t with blocks := left, v := Tab.delRange t.v (256 * left) 16384 })
      let s := clearBad s s.iss.ply (fun x => x.kind == 0 && x.strand == s.iss.strand && decide (8 * left ≤ x.reg))
      let s := s.modCurPly (fun y => { y with relBlocks := if prot then Tab.put i (Tab.get 0 y.relBlocks i + k) y.relBlocks else y.relBlocks })
      .ok (s.later .placement))

/-! ## Translation registers (R60, R259) -/

/-- The register that sa8 of XBIND or XUNB names. -/
def needX (x : BitVec 8) : Except Stop Nat := if 224 ≤ x.toNat ∧ x.toNat < 240 then .ok (x.toNat - 224) else .error (illegalOperand 0)

/-- A translation register is written: a bad one is replaced. -/
def clearX (s : State) (n : Nat) : State :=
  clearBad s s.iss.ply (fun b => b.kind == 4 && b.strand == s.iss.strand && b.reg == n)

/-- XBIND: never faults on translation and ends no protection; a host page is asked for, and the fragment is not ready until the answer is
there. -/
def execXbind (x b : BitVec 8) (s : State) : Res :=
  run s (do
    let n ← needX x
    groupOk b 2
    let base := sreg s b.toNat
    let limit := sreg s (b.toNat + 1)
    need ((ptrTag base == 0 || ptrTag base == 4) && decide (ptrPol base ≤ 4)) (illegalOperand 2)
    let c := ctxOf s
    let r := resolveX (clearX s n) c.core c.vdev (c.seg 0) (c.seg 4) base limit
    let pasid := bits (c.seg 4).base 0 20
    let page := ptrAddr base / 4096
    need (!r.2.1 || c.replies.contains (.atsDenied pasid page 0))
      (hold (askOnce s c (.ats pasid page 0) (fun id => .atsReq id (s.tag c.vdev) pasid page 0) none))
    .ok (r.2.2.modCur (fun t => { t with x := Tab.put n r.1 t.x })))

/-- XUNB. -/
def execXunb (x : BitVec 8) (s : State) : Res :=
  run s (do
    let n ← needX x
    .ok ((clearX s n).modCur (fun t => { t with x := Tab.del n t.x })))

/-! ## LAUNCH, SIGADD, SIGSET (R231, R232) -/

/-- Scopes below package scope are not allowed. -/
def needWide (sc : BitVec 3) : Except Stop Unit := need (decide (3 ≤ sc.toNat)) (illegalOperand 2)

/-- The release with which these three begin. -/
def mgmtRelease (s : State) (sc : BitVec 3) : Except Stop State := releaseHere (endProtection s s.iss.ply 8) sc.toNat

/-- LAUNCH: the packet is read and appended, and the status is written. [DEDUCED: log 37] -/
def execLaunch (a b : BitVec 8) (sc : BitVec 3) (s : State) : Res :=
  run s (do
    needWide sc
    let ptr ← readS s a
    groupOk b 2
    let ea ← checkOne s ptr 0 ⟨[0], false, 64, 64, [0]⟩
    let t ← mgmtRelease s sc
    let (pl, _, t) ← translateOne t none 0 ea 0 0
    let q := sreg s b.toNat
    let status (u : State) (n : Nat) : State := setSreg u (b.toNat + 1) (w64 n)
    match pl with
    | .hbm pa =>
      let t := homeTouch t pa 0
      if bits q 7 57 ≠ 0 then .ok (status t 2)
      else
        match appendPacket t t.curPly.vdev (bits q 0 7) (homeRead t pa 64) with
        | .status n u => .ok (status u n)
        | .wait u => .error (hold u)
    | _ => .ok (status t 2))

/-- One step on the signal at S(sa). -/
def signalHere (s : State) (a b : BitVec 8) (sc : BitVec 3) (set : Bool) : Eff := do
  needWide sc
  let ptr ← readS s a
  let v ← readS s b
  let ea ← checkOne s ptr 0 ⟨if set then [1] else [0, 1], false, 64, 64, [0]⟩
  let t ← mgmtRelease s sc
  let (pl, _, t) ← translateOne t none 0 ea 1 1
  match pl with
  | .hbm pa => .ok (signalStep t pa v.toNat set)
  | _ => .ok t

/-- SIGADD. [DEDUCED: log 47] -/
def execSigadd (a b : BitVec 8) (sc : BitVec 3) (s : State) : Res := run s (signalHere s a b sc false)

/-- SIGSET. [DEDUCED: log 47] -/
def execSigset (a b : BitVec 8) (sc : BitVec 3) (s : State) : Res := run s (signalHere s a b sc true)

end Sys2Proof.Machine
end

