-- ==== Sys2Proof/Machine/Sched.lean ====
section
/-! DEFINITION. The placement arbiter (R24 to R28, R48 to R50, R277 to R281): what a ply holds at release, where a skein fits, vacating and
restoring, the exit of plies and the completion of reels. -/
namespace Sys2Proof.Machine

/-! ## Launch values (R23, R28, R42) -/

/-- A strand of a ply as it is released, its fragment stamped with the clock (R39). -/
def newStrand (v : VDev) (d : Kdesc) (clock i : Nat) : Strand :=
  let one := decide (d.nstr0 ≤ i)
  { g := (upFrom 0 8).map (fun n => (n, v.launchSeg n))
    frags := [(0, { pc := if one then d.entry1 else d.entry0, mask := BitVec.allOnes 32, age := 1024 * clock })]
    blocks := if one then d.vblk1 else d.vblk0
    role1 := one
    ages := 1024 * clock + 1 }

/-- Protection of a ply is enabled (R42). -/
def protEnabled (s : State) (r : Reel) : Bool := r.desc.protect && (r.cls != 3 || (s.queue r.queue).prot)

/-- Ply i of a skein as it is released; its core, scratch, tiles and slot come with its place. [DESIGN CHOICE: log 8] -/
def newPly (s : State) (r k i : Nat) : Ply :=
  let x := s.reel r
  let d := x.desc
  let en := protEnabled s x
  let y : Ply := { vdev := x.vdev, queue := x.queue, reel := r, skein := k, num := i, scrSize := d.scratch, ntile := d.tiles, en := en, prot := en,
                   strands := (upFrom 0 (d.nstr0 + d.nstr1)).map (fun j => (j, newStrand (s.vdev x.vdev) d s.clock j)) }
  { y with snap := snapshotOf y }

/-! ## Where a skein fits (R24, R26, R279) -/

/-- The plies of a skein as the cores would take them: number (0 for one not yet made) and record. -/
def skeinPlies (s : State) (k : Nat) : List (Nat × Ply) :=
  let x := s.skein k
  if x.plies = [] then (upFrom 0 (s.reel x.reel).desc.plies).map (fun i => (0, newPly s x.reel k i))
  else (x.plies.filter s.livePly).map (fun p => (p, s.ply p))

/-- The core on which a ply of a skein runs in a bay: core-in-bay i, or the named core of a re-run (R26, R411). -/
def coreFor (s : State) (k b i : Nat) : Nat :=
  match (s.reel (s.skein k).reel).rerun with
  | some r => r.core
  | none => bayCore b i

/-- A bay takes a skein. -/
def bayFits (s : State) (k b : Nat) : Bool :=
  let r := s.reel (s.skein k).reel
  !((bayCores b).any (fun c => (s.core c).retiring || (s.core c).retired)) &&
  (match r.rerun with
   | some x => coreBay x.core == b
   | none => true) &&
  (skeinPlies s k).all (fun p => coreAccepts s (coreFor s k b p.2.num) p.1 p.2)

/-- The lowest bay of the device that takes a skein. -/
def findBay (s : State) (k : Nat) : Option Nat := (s.vdev (s.reel (s.skein k).reel).vdev).bays.find? (bayFits s k)

/-- The account lets a class be placed (R281). -/
def accountAllows (v : VDev) (e : Nat) : Bool :=
  match e with
  | 0 => true
  | 1 => decide (v.acct.th1 ≤ v.acct.balance)
  | 2 => decide (v.acct.th2 ≤ v.acct.balance)
  | _ => decide (v.acct.th3 ≤ v.acct.balance)

/-- Local slots in use in a device (R67, R277): a vacated ply keeps its own. -/
def slotsUsed (s : State) (v : Nat) : List Nat := (s.plies.filter (fun p => p.2.vdev == v)).map (fun p => p.2.slot)

/-- The lowest free local slots. -/
def freeSlots (s : State) (v n : Nat) : List Nat :=
  ((upFrom 0 (s.vdev v).lslots).filter (fun i => !((slotsUsed s v).contains i))).take n

/-- A closed staging gate holds the releases of a device (R283). -/
def gateHolds (s : State) (v : Nat) : Bool := s.gates.any (fun g => g.dies.any (fun d => (s.vdev v).wsDies.contains d))

/-! ## Release and restore (R25, R50, R277) -/

/-- A ply whose saved context cannot be read is contained as its skein is restored (R360). -/
def dropDamaged (s : State) (p : Nat) : State :=
  if s.livePly p && (s.ply p).ctxBad then contain s p { plyRecord s p 0 0xFF with severity := 2, cls := 5, cause := 2 } else s

/-- The interval of a ply as it is released or restored: a protected one starts anew; one that was not protected goes on as it was saved, with no
snapshot (R45, R50, R345). -/
def openInterval (y : Ply) : Ply :=
  if y.prot then
    let y := { y with cause := 0, journal := [], relBlocks := [] }
    { y with snap := snapshotOf y }
  else y

/-- A skein goes to a bay: its plies are made or restored, each with its place; the cores drop their unpinned L1 sectors. [DEDUCED: log 42] -/
def releaseSkein (s : State) (k b : Nat) : State :=
  let x := s.skein k
  let s :=
    if x.plies = [] then
      let n := (s.reel x.reel).desc.plies
      let slots := freeSlots s (s.reel x.reel).vdev n
      (upFrom 0 n).foldl (fun s i =>
        let p := s.fresh
        let y := { newPly s x.reel k i with slot := slots.getD i 0 }
        ({ s with plies := Tab.put p y s.plies }.bump).modSkein k (fun x => { x with plies := x.plies ++ [p] })) s
    else x.plies.foldl dropDamaged s
  let s := if Tab.has s.skeins k then s.modSkein k (fun x => { x with spot := .bay b, front := false, wants := none }) else s
  ((s.skein k).plies.filter s.livePly).foldl (fun s p =>
    let c := coreFor s k b (s.ply p).num
    let s := seat s p c
    let d := (s.reel x.reel).desc
    let entry := d.code + w64 (4 * d.entry0.toNat)
    let s := s.modCore c (fun k => let l := k.entryBuf.filter (· ≠ entry) ++ [entry]; { k with entryBuf := l.drop (l.length - 4) })
    dropL1All (rebindAll (s.modPly p openInterval) p) c) s

/-! ## Vacating (R48, R279) -/

/-- Ask a skein's cores to vacate. [DEDUCED: log 41] -/
def askVacate (s : State) (k : Nat) : State :=
  if (s.skein k).vacate.isSome then s
  else (s.modSkein k (fun x => { x with vacate := some (s.clock + 65536) })).later (.vacate k)

/-- The skein runs on a bay. -/
def running (x : Skein) : Bool :=
  match x.spot with
  | .bay _ => true
  | _ => false

/-- The machine as it would be without a skein on its bay. -/
def withoutSkein (s : State) (k : Nat) : State :=
  { s with plies := s.plies.map (fun p => (p.1, if p.2.skein == k then { p.2 with resident := false } else p.2)) }

/-- The skein to vacate for another of class c: the highest class above c, the youngest reel, whose leaving lets it fit. [DEDUCED: log 41] -/
def victimFor (s : State) (k c v : Nat) : Option Nat :=
  let cs := s.skeins.filter (fun x => running x.2 && x.2.vacate.isNone && (s.reel x.2.reel).vdev == v && decide (c < (s.reel x.2.reel).cls) &&
    (findBay (withoutSkein s x.1) k).isSome)
  (cs.foldl (fun (m : Option (Nat × Skein)) x =>
    match m with
    | none => some x
    | some y =>
      let a := s.reel x.2.reel
      let b := s.reel y.2.reel
      if b.cls < a.cls ∨ (a.cls = b.cls ∧ b.order < a.order) then some x else some y) none).map (·.1)

/-- A protected ply that has not stopped at a commit: asked to vacate, it runs on (R48); one that waits for its capture comes to its replay first. -/
def runsOn (y : Ply) : Bool := y.prot && !(y.halt && y.capture.isNone)

/-- VACATE: protected plies run on to their commit; the others stop, finish their transfers and are saved (R48). [DEDUCED: log 41] -/
def execVacate (k : Nat) (s : State) : Res :=
  .next (if !(Tab.has s.skeins k) || !(running (s.skein k)) then s
    else
      let s := if (s.skein k).vacate.isSome then s else s.modSkein k (fun x => { x with vacate := some (s.clock + 65536) })
      let s := (s.skein k).plies.foldl (fun s p =>
        if !s.livePly p || !(s.ply p).resident || runsOn (s.ply p) || (s.ply p).exiting then s
        else
          let s := s.modPly p (fun y => { y with halt := true })
          if workLeft s p || !(canSave s p) then s else saveContext s p) s
      if running (s.skein k) && Tab.has s.skeins k then s.later (.vacate k) else s)

/-- The class and cause that a record of severity replayed can have (R370, R413). -/
def replayedCodes : List (Nat × Nat) := [(1, 1), (1, 2), (1, 3), (2, 1), (2, 2), (2, 3), (6, 2), (6, 5), (6, 8)]

/-- The record of the rollback that a vacate request forces: severity replayed (R354); which of the codes it carries is free.
[DESIGN CHOICE: log 90] -/
def vacateRecord (s : State) (p : Nat) : ErrRec :=
  let c := replayedCodes.getD (Config.choice replayedCodes.length s.draws % replayedCodes.length) (1, 1)
  { plyRecord s p 0 0xFF with severity := 1, cls := c.1, cause := c.2 }

/-- The rollback that a vacate request forces, with its capture when the queue has one to take (R48, R410). -/
def vacateRollback (s : State) (p : Nat) : State :=
  let r := vacateRecord s p
  let s := captureIfArmed { s with draws := s.draws + 1 } p r
  rollbackPly (writeRecord s r) p 0 0

/-- VACATE_TIMEOUT: a protected ply that has not committed in 65,536 clocks rolls back, and is saved (R48). -/
def execVacateTimeout (k : Nat) (s : State) : Res :=
  .next (match (s.skein k).vacate with
    | none => s
    | some d =>
      if s.clock < d then s
      else (s.skein k).plies.foldl (fun s p =>
        if s.livePly p && (s.ply p).resident && runsOn (s.ply p) && !((s.ply p).exiting) then vacateRollback s p else s) s)

/-! ## Placement (R279) -/

/-- Order of the arbiter's list: class, vacated skeins first, launch order, skein number. -/
def listBefore (s : State) (a b : Skein) : Bool :=
  let x := s.reel a.reel
  let y := s.reel b.reel
  let key (z : Reel) (k : Skein) : List Nat := [z.cls, if k.front then 0 else 1, z.order, k.num]
  decide (key x a < key y b)

/-- Insert into the list. -/
def insertList (s : State) (x : Nat × Skein) : List (Nat × Skein) → List (Nat × Skein)
  | [] => [x]
  | y :: l => if listBefore s y.2 x.2 then y :: insertList s x l else x :: y :: l

/-- The skeins of a device that wait to be placed, in list order. -/
def pendingList (s : State) (v : Nat) : List Nat :=
  ((s.skeins.filter (fun x => !(running x.2) && (s.reel x.2.reel).vdev == v)).foldl (fun l x => insertList s x l) []).map (·.1)

/-- The device lets its skeins run. -/
def deviceOpen (v : VDev) : Bool := v.exist && !v.stopped && v.collapse == .awake

/-- Place one skein, or ask for room for the head of its class. -/
def placeOne (s : State) (v k : Nat) (head : Bool) : State :=
  let x := s.skein k
  let r := s.reel x.reel
  if !(accountAllows (s.vdev v) r.desc.eclass) then s
  else if x.plies = [] ∧ (freeSlots s v r.desc.plies).length < r.desc.plies then s
  else
    match findBay s k with
    | some b => releaseSkein s k b
    | none =>
      let busy := match x.wants with
        | some w => (s.skein w).vacate.isSome
        | none => false
      if r.cls ≤ 2 ∧ head ∧ !busy then
        match victimFor s k r.cls v with
        | some w => askVacate (s.modSkein k (fun x => { x with wants := some w })) w
        | none => s
      else s

/-- Place what can be placed of one device. -/
def placeDevice (s : State) (v : Nat) : State :=
  if !(deviceOpen (s.vdev v)) || gateHolds s v then s
  else
    let l := pendingList s v
    l.foldl (fun s k =>
      let c := (s.reel (s.skein k).reel).cls
      placeOne s v k ((l.find? (fun j => (s.reel (s.skein j).reel).cls == c)) == some k)) s

/-- PLACEMENT: the arbiter places or restores pending skeins. -/
def execPlacement (s : State) : Res := .next ((upFrom 0 16).foldl placeDevice s)

/-! ## Exit and completion (R148, R278) -/

/-- PLY_EXIT: the last interval commits once the ply's work is done, the log drains with a release at package scope, and the ply is freed;
one that an error met on the way contains is freed by that. -/
def execPlyExit (p : Nat) (s : State) : Res :=
  .next (if !(s.livePly p) || !((s.ply p).exiting) then s
    else if workLeft s p then s.later (.plyExit p)
    else if (s.reel (s.ply p).reel).rerun.isSome then s.later (.ckptRerun (s.ply p).queue)
    else
      match heldBad s p with
      | some e => consumeError (seeEntry s (s.ply p).core e) p { cls := 6, cause := 5, addr := e.vaddr }
      | none =>
        let t := releaseLocal (commitPly s p) (s.ply p).core scPackage
        if doomed t p then t else removePly t p)

/-! ## Linked mesh passes (R317) -/

/-- The amplification buffer of a linked mesh DRAW, read by the command core. -/
def meshBuffer (s : State) (x : Reel) : Option (Bytes × State) :=
  match x.mesh with
  | none => none
  | some m =>
    match ccFetch s x.queue x.vdev m.buf 64 with
    | .ok r => some r
    | .error _ => none

/-- N: the records that the DRAW covers. [DEDUCED: log 43] -/
def meshCovers (b : Bytes) : Nat :=
  let c := fieldAt b 0x30 8
  let cap := fieldAt b 8 4
  match fieldAt b 12 1 with
  | 0 => c
  | 1 => Nat.min c (cap + fieldAt b 0x28 4)
  | _ => Nat.min c cap

/-- End a linked DRAW's launching: skeins not launched leave the reel. -/
def meshEnd (s : State) (r : Nat) : State :=
  let x := s.reel r
  match x.mesh with
  | none => s
  | some m =>
    let s := s.modReel r (fun x => { x with left := x.left - (x.nskein - m.next), mesh := some { m with ended := true } })
    if (s.reel r).left = 0 then s.later (.reelComplete r) else s

/-- An access to a linked DRAW's buffer has failed: its record and a packet error; no further skein is launched (R418 kind 7, R273). [DEDUCED: log 43] -/
def meshFail (s : State) (r : Nat) : State :=
  let x := s.reel r
  match x.mesh with
  | none => s
  | some m =>
    if m.failed then s
    else
      let i := (s.job x.job).map (·.index) |>.getD 0
      let s := queueRecordOf (queueRecordOf s x.queue x.vdev 10 m.buf 7 i x.cookie) x.queue x.vdev 4 0 0 i x.cookie
      meshEnd ((stopQueue s x.queue 4).modReel r (fun x => { x with mesh := some { m with failed := true } })) r

/-- Under STALL the tail goes to the records of the lowest skein that has not exited, or to the end of the coverage; says whether it could be
written. [DEDUCED: log 43] -/
def meshTail (s : State) (r : Nat) (b : Bytes) : State × Bool :=
  let x := s.reel r
  match x.mesh with
  | none => (s, true)
  | some m =>
    if fieldAt b 12 1 ≠ 0 then (s, true)
    else
      let rps := fieldAt b 14 2
      let live := (s.skeins.filter (fun k => k.2.reel == r)).map (fun k => k.2.num)
      let low := live.foldl Nat.min m.next
      let t := if live = [] ∧ (m.ended ∨ m.next = x.nskein) then Nat.min (m.next * rps) (meshCovers b) else low * rps
      match ccWrite s x.queue x.vdev (m.buf + 0x18) (bytesLE t 8) with
      | .ok u => (u, true)
      | .error _ => (s, false)

/-- The last tail of a linked mesh DRAW, and whether its packet fails: an access to the buffer has, or records are left that its skeins have not
covered. [DEDUCED: log 43] -/
def meshLast (s : State) (r : Nat) : State × Bool :=
  match (s.reel r).mesh with
  | none => (s, false)
  | some m =>
    if m.failed then (s, true)
    else
      match meshBuffer s (s.reel r) with
      | none => (meshFail s r, true)
      | some (b, t) =>
        match meshTail t r b with
        | (u, true) => (u, decide ((t.reel r).nskein * fieldAt b 14 2 < meshCovers b))
        | (u, false) => (meshFail u r, true)

/-- REEL_COMPLETE: every skein has exited or been killed; the packet's work is done (R278). -/
def execReelComplete (r : Nat) (s : State) : Res :=
  .next (let x := s.reel r
    if !(Tab.has s.reels r) || x.left ≠ 0 || s.skeins.any (fun k => k.2.reel == r) then s
    else
      let m := meshLast s r
      let s := { m.1 with reels := Tab.del r m.1.reels }
      if (s.vdev x.vdev).stopped then s
      else completeJob s x.job (if m.2 then 5 else if x.contained then 3 else 0))

end Sys2Proof.Machine
end

