-- ==== Sys2Proof/Machine/Packet.lean ====
section
/-! DEFINITION. The packet format (R272, R273, R275, R285 to R291, R306), kernel descriptors and working-set lists as the command core checks
them (R21, R22, R282), the head packet of a queue and the rounds of a command core (R268 to R271). -/
namespace Sys2Proof.Machine

/-! ## Fields -/

def pkType (b : Bytes) : Nat := fieldAt b 0 1
def pkBarrier (b : Bytes) : Bool := (fieldAt b 1 1).testBit 0
def pkCookie (b : Bytes) : W32 := w32 (fieldAt b 4 4)

/-- Bytes [lo, hi) are zero. -/
def zeroBytes (b : Bytes) (lo hi : Nat) : Bool := ((b.take hi).drop lo).all (· == 0)

/-- A pointer field has one of these tags and this alignment. -/
def ptrFits (b : Bytes) (o : Nat) (tags : List Nat) (al : Nat) : Bool :=
  let p := w64 (fieldAt b o 8)
  tags.contains (ptrTag p) && ptrAddr p % al == 0

/-- A completion tail keeps R274. -/
def tailOk (b : Bytes) : Bool := ptrFits b 0x28 [0] 64 && ptrFits b 0x38 [0, 4] 8

/-- Types that end with a completion tail. -/
def hasTail (ty : Nat) : Bool := [3, 5, 6, 7, 9, 10, 11, 12].contains ty

/-- The body of a packet keeps its table; x is its queue, share the bytes of the device's weight-store share. -/
def bodyOk (x : Queue) (share : Nat) (b : Bytes) : Bool :=
  let f (o n : Nat) : Nat := fieldAt b o n
  let launch : Bool := ptrFits b 8 [0] 128 && ptrFits b 0x10 [0] 1 && decide (1 ≤ f 0x18 4) && decide (f 0x18 4 ≤ 2 ^ 20)
  let group : Bool := decide (f 0x1C 2 < 64) || f 0x1C 2 == 0xFFFF
  match pkType b with
  | 1 => ptrFits b 8 [0] 64 && decide (f 0x18 1 ≤ 1) && zeroBytes b 0x19 0x40
  | 2 => ptrFits b 8 [0] 64 && decide (f 0x18 1 ≤ 3) && zeroBytes b 0x19 0x1C && ptrFits b 0x20 [0, 4] 8 && zeroBytes b 0x28 0x40
  | 3 => decide (1 ≤ f 0x10 8) && decide (f 0x1C 1 ≤ 1) && (f 0x1C 1 == 1 || f 0x18 4 == 0) && decide (f 0x1D 1 < 8) && zeroBytes b 0x1E 0x28
  | 4 => decide (f 0x10 1 ≤ 1) && zeroBytes b 0x11 0x40
  | 5 => launch && group && decide (f 0x1E 1 ≤ 8) && f 0x1F 1 == 0 && ptrFits b 0x20 [0] 8 && (f 0x1E 1 != 0 || f 0x20 8 == 0)
  | 6 => launch && group && f 0x22 2 == 0
  | 7 => x.cls == 3 && launch && f 0x1C 2 == 0xFFFF && decide (f 0x1E 1 ≤ 4) && f 0x1F 1 == 0 && ptrFits b 0x20 [0] 64 &&
      (decide (f 0x1E 1 ≤ 1) || f 0x20 8 == 0)
  | 8 => ptrFits b 8 [0] 8 && decide (f 0x18 1 ≤ 3) && decide (1 ≤ f 0x19 1) && zeroBytes b 0x1A 0x40
  | 9 => ptrFits b 8 [0] 128 && ptrFits b 0x10 [3] 128 && decide (128 ≤ f 0x18 8) && f 0x18 8 % 128 == 0 &&
      decide (ptrAddr (w64 (f 0x10 8)) + f 0x18 8 ≤ share) && zeroBytes b 0x20 0x28
  | 10 => ptrFits b 8 [0, 4] 16 && decide (f 0x20 1 ≤ 1) && (f 0x20 1 == 1 || ptrFits b 0x10 [0, 4] 16) && decide (16 ≤ f 0x18 8) &&
      decide (f 0x18 8 ≤ 2 ^ 40) && f 0x18 8 % 16 == 0
  | 11 => ptrFits b 8 [0] 128 && zeroBytes b 0x10 0x28
  | 12 => x.cls == 0 && decide (f 8 1 ≤ 1) && decide (1 ≤ f 9 1) && decide (f 9 1 ≤ 3) && (f 8 1 == 0 || decide (f 0x18 8 ≤ 2 ^ 62))
  | 13 => zeroBytes b 8 0x40
  | _ => false

/-- A packet raises no packet error by its own bytes (R273). -/
def packetOk (s : State) (q : Nat) (b : Bytes) : Bool :=
  let x := s.queue q
  decide (fieldAt b 1 1 < 4) && fieldAt b 2 2 == 0 && bodyOk x ((s.vdev x.vdev).wssize * 2 ^ 26) b && (!(hasTail (pkType b)) || tailOk b)

/-! ## Descriptors (R21, R282) -/

/-- The fields of a kernel descriptor. -/
def kdescOf (b : Bytes) : Kdesc :=
  { protect := (fieldAt b 6 2).testBit 0, quad := (fieldAt b 6 2).testBit 1, code := w64 (fieldAt b 8 8), entry0 := w32 (fieldAt b 0x10 4),
    entry1 := w32 (fieldAt b 0x14 4), trapvec := w32 (fieldAt b 0x18 4), scratch := fieldAt b 0x1C 4, nstr0 := fieldAt b 0x20 1,
    nstr1 := fieldAt b 0x21 1, vblk0 := fieldAt b 0x22 1, vblk1 := fieldAt b 0x23 1, plies := fieldAt b 0x24 1, tiles := fieldAt b 0x25 1,
    eclass := fieldAt b 0x26 1, wscount := fieldAt b 0x27 1, wslist := w64 (fieldAt b 0x28 8) }

/-- A descriptor keeps the limits of R21. -/
def kdescOk (b : Bytes) : Bool :=
  let d := kdescOf b
  fieldAt b 0 4 == 0x4B394B44 && fieldAt b 4 2 == 1 && decide (fieldAt b 6 2 < 4) && ptrTag d.code == 0 && ptrPol d.code == 0 &&
  ptrAddr d.code % 48 == 0 && d.entry0.toNat % 3 == 0 && (d.nstr1 == 0 || d.entry1.toNat % 3 == 0) && d.trapvec.toNat % 3 == 0 &&
  d.scratch % 1024 == 0 && decide (d.scratch ≤ 655360) && decide (1 ≤ d.nstr0) && decide (d.nstr0 + d.nstr1 ≤ 32) && decide (1 ≤ d.vblk0) &&
  decide (d.vblk0 ≤ 8) && (if d.nstr1 = 0 then d.vblk1 == 0 else decide (1 ≤ d.vblk1) && decide (d.vblk1 ≤ 8)) && decide (1 ≤ d.plies) &&
  decide (d.plies ≤ 4) && decide (d.tiles ≤ 16) && decide (d.eclass ≤ 3) && decide (d.wscount ≤ 8) && ptrFits b 0x28 [0] 8 &&
  (d.wscount != 0 || d.wslist == 0) && zeroBytes b 0x30 0x80

/-- Bytes with n replaced from an offset on. -/
def patchBytes (b : Bytes) (o : Nat) (n : Bytes) : Bytes := b.take o ++ n ++ b.drop (o + n.length)

/-- DISPATCH.ROLE replaces the role fields for its launch (R275). -/
def roleBytes (p d : Bytes) : Bytes :=
  patchBytes (patchBytes (patchBytes d 0x14 (bytesLE (fieldAt p 0x24 4) 4)) 0x20 (bytesLE (fieldAt p 0x1E 2) 2)) 0x22 (bytesLE (fieldAt p 0x20 2) 2)

/-- An entry of a working-set list keeps R282. -/
def wsEntryOk (share : Nat) (e : Bytes) : Bool :=
  let n := fieldAt e 8 8
  ptrFits e 0 [0] 128 && decide (128 ≤ n) && n % 128 == 0 && decide (n ≤ share) && fieldAt e 0x10 8 % 128 == 0 &&
    decide (fieldAt e 0x10 8 + n ≤ share) && decide (fieldAt e 0x18 1 < 4) && zeroBytes e 0x19 0x20 && (fieldAt e 0x18 1 != 2)

/-- The staged range that a stageable entry names. -/
def wsRange (e : Bytes) : Staged := { src := w64 (fieldAt e 0 8), bytes := fieldAt e 8 8, wsoff := fieldAt e 0x10 8 }

/-- The stageable ranges of a list of n entries. -/
def wsRanges (b : Bytes) (n : Nat) : List Staged :=
  ((upFrom 0 n).map (fun i => (b.drop (32 * i)).take 32)).filterMap (fun e => if (fieldAt e 0x18 1).testBit 1 then some (wsRange e) else none)

/-! ## The head of a queue (R268 to R271) -/

/-- A queue's command core parses: it has not failed (R393). -/
def coreParses (s : State) (q : Nat) : Bool := !((s.cmdCore (q / 32)).failed)

/-- A CKPT holds its queue until it is complete; a gate holds the queue whose head it stages for. -/
def queueBusy (s : State) (q : Nat) : Bool :=
  s.gates.any (fun g => g.queue == q) || (jobsOf s q).any (fun j => pkType j.packet == 11)

/-- The packet may start as far as earlier packets of its queue go (R271, R290, R303). -/
def mayStart (s : State) (q : Nat) (b : Bytes) : Bool :=
  let alone := pkBarrier b || pkType b == 8 || (pkType b == 12 && fieldAt b 8 1 == 0)
  !(queueBusy s q) && (!alone || jobsOf s q == [])

/-- A queue whose head may be read. -/
def headOpen (s : State) (q : Nat) : Bool :=
  let x := s.queue q
  (x.state == .ready || x.state == .held) && decide (x.ridx < x.widx) && deviceOpen (s.vdev x.vdev) && coreParses s q

/-- Consume a packet under a COND without effect; a tail is posted with status 4 (R290). -/
def skipPacket (s : State) (q : Nat) (b : Bytes) : State :=
  let s := s.modQueue q (fun x => { x with skip := x.skip - 1 })
  if hasTail (pkType b) then startAndComplete s q b 4 else advanceIdx s q b

/-- Read and check the head packet of a queue; the state after it, and the packet when it may start now. -/
def lookHead (s : State) (q : Nat) : State × Option Bytes :=
  let s := seeQueue s q
  let x := s.queue q
  if !(headOpen s q) then (s, none)
  else
    match ccFetch s q x.vdev (x.slotPtr x.ridx) 64 with
    | .error (.wait t) => (t, none)
    | .error (.fail a t) => (stopQueue (queueRecord t q 10 a 1 x.ridx 0) q 0x0A, none)
    | .ok (b, t) =>
      if !(packetOk t q b) then (packetError t q b, none)
      else if 0 < x.skip then (skipPacket t q b, none)
      else if mayStart t q b then (t.modQueue q (fun y => { y with state := .ready, shadowS := .ready }), some b)
      else (t.modQueue q (fun y => { y with state := .held, shadowS := .held }), none)

/-- A packet event acts on the head of its queue when that is a packet of the event's kind. -/
def onHead (q : Nat) (want : Bytes → Bool) (act : State → Bytes → State) (s : State) : Res :=
  .next (match lookHead s q with
    | (t, some b) => if want b then act t b else s
    | (t, none) => t)

/-- A packet of a type, its op or kind at an offset. -/
def isKind (ty : Nat) (b : Bytes) : Bool := pkType b == ty
def isOp (ty o op : Nat) (b : Bytes) : Bool := pkType b == ty && fieldAt b o 1 == op

/-- The queues of a command core in lane order. -/
def coreQueues (cc : Nat) : List Nat := upFrom (32 * cc) 32

/-- The round of a command core (R270): every lane whose head may start, by type and then by lane. -/
def newRound (s : State) (cc : Nat) : State × List Nat :=
  let r := (coreQueues cc).foldl (fun (a : State × List (Nat × Nat)) q =>
    match lookHead a.1 q with
    | (t, some b) => (t, a.2 ++ [(pkType b, q)])
    | (t, none) => (t, a.2)) (s, [])
  (r.1, (upFrom 1 13).flatMap (fun ty => (r.2.filter (fun e => e.1 == ty)).map (·.2)))

/-- Some lane of a command core has a head to look at. [DESIGN CHOICE: log 14] -/
def coreHasWork (s : State) (cc : Nat) : Bool := (s.cmdCore cc).round != [] || (coreQueues cc).any (headOpen s)

end Sys2Proof.Machine
end

