-- ==== Sys2Proof/Machine/Command.lean ====
section
/-! DEFINITION. The packets of a queue (R274 to R292, R306, R317, R378): launches, signals, waits, invalidations, replays, copies, and the
completion tail; the doorbell (R267) and the turns of the command cores (R270, R288). -/
namespace Sys2Proof.Machine

/-! ## Launching (R275 to R278, R284, R306) -/

/-- What a launch comes to: a wait, an end without a reel, or a reel. -/
inductive Launching where
  | over (s : State)
  | started (s : State) (reel : Nat)
  deriving DecidableEq, Repr

/-- The launch is refused: the packet starts and completes at once; a record says so unless an access has already (R276, R418). -/
def refuse (s : State) (q : Nat) (b : Bytes) (status : Nat) (said : Bool) : State :=
  let s := if said then s else queueRecord s q 8 0 0 (s.queue q).ridx (pkCookie b)
  startAndComplete s q b status

/-- The reel of a packet and its skeins; the skeins of a linked mesh DRAW come as its records commit. -/
def launchReel (s : State) (q : Nat) (b : Bytes) (d : Kdesc) : State × Nat :=
  let x := s.queue q
  let pgt := fieldAt b 0x1C 2
  let e : PgEntry := Tab.get {} (s.vdev x.vdev).pgt pgt
  let one := pkType b == 7 || pgt == 0xFFFF
  let n := fieldAt b 0x18 4
  let j := newJob s q b []
  let r := j.2.fresh
  let linked := pkType b == 7 && fieldAt b 0x1E 1 == 1 && fieldAt b 0x20 8 != 0
  let reel : Reel := {
    job := j.1.id
    vdev := x.vdev
    queue := q
    cookie := pkCookie b
    desc := d
    args := w64 (fieldAt b 0x10 8)
    nskein := n
    rank := if one then 0 else e.rank
    nrank := if one then 1 else e.nrank
    map := if one then 0 else e.map
    pgt := if one then none else some pgt
    cls := x.cls
    left := n
    mesh := if linked then some { buf := w64 (fieldAt b 0x20 8), next := 0 } else none
    order := r
    capture := decide (x.capTaken < x.captures) }
  let s := { j.2 with reels := Tab.put r reel j.2.reels }.bump
  let s := if linked then s.later (.meshSkeinLaunch r)
    else ((upFrom 0 n).foldl (fun s i => { s with skeins := Tab.put s.fresh { reel := r, num := i } s.skeins }.bump) s).later .placement
  (advanceIdx s q b, r)

/-- What a DRAW does with its buffer before its first skein: a task DRAW resets it, a linked one must be able to read it (R306, R317). -/
def drawBuffer (s : State) (q : Nat) (b : Bytes) : Except CcStop State := do
  let v := (s.queue q).vdev
  let p := w64 (fieldAt b 0x20 8)
  if pkType b ≠ 7 ∨ p = 0 then .ok s
  else if fieldAt b 0x1E 1 = 0 then
    let s ← ccWrite s q v (p + 0x0D) (bytesLE 0 1)
    let s ← ccWrite s q v (p + 0x10) (bytesLE 0 16)
    ccWrite s q v (p + 0x30) (bytesLE 0 16)
  else do
    let (_, s) ← ccFetch s q v p 64
    .ok s

/-- Move the entries that a launch uses to the most recently used end of the staged-range table (R282). -/
def touchStaged (s : State) (v : Nat) (l : List Staged) : State :=
  s.modVdev v (fun d => { d with staged := d.staged.filter (fun e => !(l.contains e)) ++ d.staged.filter (fun e => l.contains e) })

/-- Dies that hold bytes [o, o + n) of the weight store. -/
def wsRangeDies (o n : Nat) : List Nat := (upFrom 0 8).filter (fun d => decide (o < (d + 1) * 2 ^ 31) && decide (d * 2 ^ 31 < o + n))

/-- Close a staging gate for the head packet of a queue (R283). -/
def closeGate (s : State) (q : Nat) (b : Bytes) (l : List Staged) (stage : Bool) : State :=
  let v := (s.queue q).vdev
  let base := (s.vdev v).wsbase * 2 ^ 26
  let g : Gate := {
    id := s.fresh
    queue := q
    vdev := v
    dies := (upFrom 0 8).filter (fun d => l.any (fun e => (wsRangeDies (base + e.wsoff) e.bytes).contains d))
    ranges := l
    asked := s.clock
    stage := stage }
  let s := s.modQueue q (fun x => { x with state := .held, shadowS := .held, waitPkt := b })
  ({ s with gates := s.gates ++ [g] }.bump).later (.stagingGate g.id)

/-- The launch of a packet with a descriptor that keeps R21: the process group, the local slots, the working set, then the reel (R276). -/
def launchWith (s : State) (q : Nat) (b : Bytes) (d : Kdesc) : Launching :=
  let x := s.queue q
  let v := s.vdev x.vdev
  let pgt := fieldAt b 0x1C 2
  let own := pkType b == 5 && fieldAt b 0x1E 1 != 0
  let n := if own then fieldAt b 0x1E 1 else d.wscount
  let list := if own then w64 (fieldAt b 0x20 8) else d.wslist
  if v.lslots < d.plies || (pkType b != 7 && pgt != 0xFFFF && (Tab.get {} v.pgt pgt).nrank == 0) then .over (refuse s q b 1 false)
  else
    match (if n = 0 then .ok ([], s) else ccFetch s q x.vdev list (32 * n)) with
    | .error (.wait t) => .over t
    | .error (.fail a t) => .over (refuse (queueRecord t q 10 a 4 x.ridx (pkCookie b)) q b 2 true)
    | .ok (l, t) =>
      if !((upFrom 0 n).all (fun i => wsEntryOk (v.wssize * 2 ^ 26) ((l.drop (32 * i)).take 32))) then .over (refuse t q b 2 false)
      else
        let rs := wsRanges l n
        let todo := if x.gated then [] else rs.filter (fun e => !(v.staged.contains e))
        if todo ≠ [] then .over (closeGate (touchStaged t x.vdev rs) q b todo false)
        else
          match drawBuffer (touchStaged t x.vdev rs) q b with
          | .error (.wait u) => .over u
          | .error (.fail a u) => .over (packetError (queueRecord u q 10 a 7 x.ridx (pkCookie b)) q b)
          | .ok u => let r := launchReel u q b d; .started r.1 r.2

/-- The descriptor of a launch read and checked afresh. -/
def coldLaunch (s : State) (q : Nat) (b : Bytes) : State :=
  let x := s.queue q
  match ccFetch s q x.vdev (w64 (fieldAt b 8 8)) 128 with
  | .error (.wait t) => t
  | .error (.fail a t) => refuse (queueRecord t q 10 a 3 x.ridx (pkCookie b)) q b 1 true
  | .ok (d0, t) =>
    let d := if pkType b = 6 then roleBytes b d0 else d0
    if !(kdescOk d) then refuse t q b 1 false
    else
      let t := if pkType b = 5 then
          t.modCmdCore (q / 32) (fun c =>
            let l := c.cache.filter (fun e => !(e.1 == x.vdev && e.2.1 == w64 (fieldAt b 8 8))) ++ [(x.vdev, w64 (fieldAt b 8 8), kdescOf d)]
            { c with cache := l.drop (l.length - 16) })
        else t
      match launchWith t q b (kdescOf d) with
      | .over u => u
      | .started u _ => u

/-- The warm path (R284): the cached descriptor, when nothing is to be staged, the first skein is placed at once, and the core it goes to
holds the entry. [DEDUCED: log 67] -/
def warmLaunch (s : State) (q : Nat) (b : Bytes) : Option State :=
  let x := s.queue q
  if !(x.warm.contains x.ridx) || pkType b ≠ 5 then none
  else
    match (s.cmdCore (q / 32)).cache.find? (fun e => e.1 == x.vdev && e.2.1 == w64 (fieldAt b 8 8)) with
    | none => none
    | some (_, _, d) =>
      match launchWith s q b d with
      | .over _ => none
      | .started t r =>
        match t.skeins.find? (fun k => k.2.reel == r && k.2.num == 0) with
        | none => none
        | some (k, _) =>
          match findBay t k with
          | none => none
          | some bay =>
            let u := placeDevice t x.vdev
            if ((t.core (coreFor t k bay 0)).entryBuf.contains (d.code + w64 (4 * d.entry0.toNat))) && running (u.skein k) then some u else none

/-- DISPATCH (R276, R284). -/
def execDispatch (q : Nat) (s : State) : Res :=
  onHead q (isKind 5) (fun t b => (warmLaunch t q b).getD (coldLaunch t q b)) s

/-- DISPATCH.ROLE (R275). -/
def execDispatchRole (q : Nat) (s : State) : Res := onHead q (isKind 6) (fun t b => coldLaunch t q b) s

/-- DRAW (R291, R306). -/
def execDraw (q : Nat) (s : State) : Res := onHead q (isKind 7) (fun t b => coldLaunch t q b) s

/-! ## Linked mesh passes (R317) -/

/-- MESH_SKEIN_LAUNCH: launch the next skein once its records have committed, or the last ones once the earlier packets are done. A buffer
that fails an access is a packet error. -/
def execMeshSkeinLaunch (r : Nat) (s : State) : Res :=
  .next (
    let x := s.reel r
    match x.mesh with
    | none => s
    | some m =>
      if !(Tab.has s.reels r) || m.failed then s
      else
        match (meshBuffer s x).map (fun y => (y.1, meshTail y.2 r y.1)) with
        | none => meshFail s r
        | some (_, s, false) => meshFail s r
        | some (b, s, true) =>
          if m.ended then s
          else
            let n := meshCovers b
            let rps := fieldAt b 14 2
            let earlier := (jobsOf s x.queue).any (fun j => decide (j.id < x.job))
            if m.next < x.nskein ∧ ((m.next + 1) * rps ≤ fieldAt b 0x30 8 ∨ (m.next * rps < n ∧ !earlier)) then
              let s := { s with skeins := Tab.put s.fresh { reel := r, num := m.next } s.skeins }.bump
              ((s.modReel r (fun x => { x with mesh := some { m with next := m.next + 1 } })).later .placement).later (.meshSkeinLaunch r)
            else if !earlier then meshEnd s r
            else s.later (.meshSkeinLaunch r))

/-! ## SIGNAL, WAIT, COND (R285 to R288, R290) -/

/-- A signal or counter that cannot be reached: its record and a packet error (R418). -/
def signalLost (s : State) (q : Nat) (b : Bytes) : State :=
  packetError (queueRecord s q 10 (w64 (fieldAt b 8 8)) 7 (s.queue q).ridx (pkCookie b)) q b

/-- The start of SIGNAL: the release, then one step on the value; RIDX advances in the same step of the model, so no packet that has acted is
parsed again (R393). -/
def startSignal (s : State) (q : Nat) (b : Bytes) (set : Bool) : State :=
  let x := s.queue q
  match ccRelease s q x.vdev x.fence with
  | (t, f, false) => t.modQueue q (fun x => { x with fence := f })
  | (t, _, true) =>
    match signalPlace t q x.vdev (w64 (fieldAt b 8 8)) 1 (!set) with
    | (none, u) => signalLost u q b
    | (some pa, u) => advanceIdx (signalStep u pa (fieldAt b 0x10 8) set) q b

/-- SIGNAL, op 0. -/
def execSignalAdd (q : Nat) (s : State) : Res := onHead q (isOp 1 0x18 0) (fun t b => startSignal t q b false) s

/-- SIGNAL, op 1. -/
def execSignalSet (q : Nat) (s : State) : Res := onHead q (isOp 1 0x18 1) (fun t b => startSignal t q b true) s

/-- WAIT: the test and the park are one step (R287). -/
def execWait (q : Nat) (s : State) : Res :=
  onHead q (isKind 2) (fun t b =>
    let x := t.queue q
    match signalPlace t q x.vdev (w64 (fieldAt b 8 8)) 0 true with
    | (none, u) => signalLost u q b
    | (some pa, u) =>
      if condHolds (fieldAt b 0x18 1) (natLE (homeRead u pa 8)) (fieldAt b 0x10 8) then startWait u q 0 b
      else
        let time := fieldAt b 0x1C 4
        u.modQueue q (fun x => { x with state := .parked, shadowS := .parked, parked := some (w64 pa), waitPkt := b,
                                        deadline := if time = 0 then none else some (u.clock + 940 * time) })) s

/-- WAIT_TIMEOUT: the WAIT writes status 1 and starts (R287). -/
def execWaitTimeout (q : Nat) (s : State) : Res :=
  .next (let x := s.queue q
    match x.deadline with
    | some d => if x.state == .parked && decide (d ≤ s.clock) then startWait s q 1 x.waitPkt else s
    | none => s)

/-- Re-test a parked queue against the value that stands, at the place to which the signal's address leads now (R262, R288). -/
def retestQueue (s : State) (q : Nat) : State :=
  let x := s.queue q
  if x.state != .parked then s
  else
    match signalPlace s q x.vdev (w64 (fieldAt x.waitPkt 8 8)) 0 true with
    | (none, u) => signalLost u q x.waitPkt
    | (some pa, u) =>
      if condHolds (fieldAt x.waitPkt 0x18 1) (natLE (homeRead u pa 8)) (fieldAt x.waitPkt 0x10 8) then startWait u q 0 x.waitPkt
      else u.modQueue q (fun x => { x with parked := some (w64 pa) })

/-- PARKED_RETEST_TICK: a command core re-tests its parked queues (R288). -/
def execParkedRetestTick (cc : Nat) (s : State) : Res := .next ((coreQueues cc).foldl retestQueue s)

/-- COND: a failed condition skips the next packets (R290). -/
def execCond (q : Nat) (s : State) : Res :=
  onHead q (isKind 8) (fun t b =>
    let x := t.queue q
    match signalPlace t q x.vdev (w64 (fieldAt b 8 8)) 0 true with
    | (none, u) => signalLost u q b
    | (some pa, u) =>
      let met := condHolds (fieldAt b 0x18 1) (natLE (homeRead u pa 8)) (fieldAt b 0x10 8)
      let u := advanceIdx u q b
      if met then u else u.modQueue q (fun x => { x with skip := fieldAt b 0x19 1 })) s

/-! ## INVAL (R262, R289) -/

/-- A log entry of a device and space lies in a range of its virtual addresses. -/
def entryIn (v : Nat) (host : Bool) (pasid lo hi : Nat) (e : LogEntry) : Bool :=
  e.vdev == v && (match e.space with
    | .dev => !host
    | .host p => host && p == pasid
    | .peer _ => false) && (e.vaddr :: e.others).any (fun w => decide (bits w 0 57 < hi) && decide (lo < bits w 0 57 + 128))

/-- A request that carries an access to the memory of a space, translated when it was made. -/
def Ask.inSpace (a : Ask) (host : Bool) : Bool :=
  match a with
  | .hostRead _ => host
  | .ratom _ => host
  | _ => false

/-- What an invalidation that begins now waits for. -/
def beforeNow (s : State) (v : Nat) (host : Bool) (pasid lo hi : Nat) : Before :=
  { reqs := (s.plat.reqs.filter (fun r => r.vdev == v && r.ask.inSpace host)).map (·.id)
    entries := s.cores.flatMap (fun c => (c.2.log.filter (fun e => !e.held && entryIn v host pasid lo hi e)).map (·.serial)) }

/-- Everything that an invalidation waits for has been performed. -/
def Before.met (s : State) (b : Before) : Bool :=
  !(s.plat.reqs.any (fun r => b.reqs.contains r.id)) && !(s.cores.any (fun c => c.2.log.any (fun e => b.entries.contains e.serial)))

/-- Drop the answers still to come of walks begun before an invalidation; who asked asks again (R262 step 3). -/
def dropWalks (s : State) (v : Nat) (host : Bool) (pasid lo hi : Nat) : State :=
  let s := if host then s.modPlat (fun p => { p with reqs := p.reqs.filter (fun r =>
      match r.ask with
      | .ats w _ _ => !(r.vdev == v && w == pasid)
      | _ => true) }) else s
  let s := { s with queues := s.queues.map (fun (q : Nat × Queue) => (q.1, { q.2 with replies := q.2.replies.filter (fun r =>
    match r with
    | .atsPage g => !(g.inSpace v host pasid && g.overlaps lo hi)
    | _ => true) })) }
  (s.plies.filter (fun (p : Nat × Ply) => p.2.vdev == v && p.2.resident)).foldl (fun s p => rebind s p.1 (·.pending)) s

/-- A translation invalidation (R262): cached translations go, answers of walks begun before are dropped, ordinary entries drain, the owners of
held ones roll back, and parked queues translate their signals afresh. -/
def invalidate (s : State) (v : Nat) (host : Bool) (pasid lo hi : Nat) : State :=
  let s := dropWalks (dropWindows (dropTlb s v host pasid lo hi) v host pasid lo hi) v host pasid lo hi
  let s := performReds s (fun r => !host && r.owners.any (fun o => (s.reel o.reel).vdev == v && decide (bits o.va 0 57 < hi) && decide (lo ≤ bits o.va 0 57)))
  let s := (s.cores.map (·.1)).foldl (fun s c => drainWhere s c (entryIn v host pasid lo hi)) s
  let owners := s.cores.flatMap (fun c => (c.2.log.filter (fun e => e.held && entryIn v host pasid lo hi e)).map (·.ply))
  let s := owners.dedup.foldl (fun s p => if s.livePly p then rollbackPly s p 0 0 else s) s
  if host then s else (s.queues.filter (fun q => q.2.state == .parked && q.2.vdev == v)).foldl (fun s q => retestQueue s q.1) s

/-- The range of an INVAL, widened to whole pages. -/
def invalRange (b : Bytes) : Nat × Nat :=
  let a := fieldAt b 8 8 % 2 ^ 57
  (a / 4096 * 4096, roundUp (a + fieldAt b 0x10 8) 4096)

/-- The start of INVAL: its actions are due. -/
def startInval (s : State) (q : Nat) (b : Bytes) : State :=
  let todo := [0, 1, 2].filter (fun i => (fieldAt b 0x1D 1).testBit i)
  let j := newJob s q b todo
  let s := advanceIdx j.2 q b
  if todo = [] then completeJob s j.1.id 0
  else todo.foldl (fun s i => s.later (if i = 0 then .invalTranslation j.1.id else if i = 1 then .invalCode j.1.id else .invalStaged j.1.id)) s

/-- One action of an INVAL; the last one completes it. -/
def invalAct (s : State) (id i : Nat) (f : State → Job → State) : State :=
  match s.job id with
  | none => s
  | some j =>
    if !(j.todo.contains i) then s
    else
      let s := (f s j).modJob id (fun j => { j with todo := without j.todo i })
      if without j.todo i = [] then completeJob s id 0 else s

/-- INVAL_TRANSLATION: the invalidation, and then, when all that was translated before it has been performed, its end. -/
def execInvalTranslation (job : Nat) (s : State) : Res :=
  .next (match s.job job with
    | none => s
    | some j =>
      let r := invalRange j.packet
      let host := fieldAt j.packet 0x1C 1 == 1
      let pasid := if host then fieldAt j.packet 0x18 4 else 0
      let s := if j.before.isNone && j.todo.contains 0 then
          let t := invalidate s j.vdev host pasid r.1 r.2
          t.modJob job (fun x => { x with before := some (beforeNow t j.vdev host pasid r.1 r.2) })
        else s
      match (s.job job).bind (·.before) with
      | some b => if b.met s then invalAct s job 0 (fun s _ => s) else s.later (.invalTranslation job)
      | none => s)

/-- INVAL_CODE: the device's cores drop their entry buffers and the code words of the range, the command cores its descriptors. [DEDUCED: log 26] -/
def execInvalCode (job : Nat) (s : State) : Res :=
  .next (invalAct s job 1 (fun s j =>
    let r := invalRange j.packet
    let s := ((s.vdev j.vdev).bays.flatMap bayCores).foldl (fun s c => s.modCore c (fun x =>
      { x with entryBuf := [], code := Tab.delRange x.code (codeKey j.vdev r.1) (codeKey j.vdev (Nat.min r.2 (2 ^ 57))) })) s
    (upFrom 0 4).foldl (fun s c => s.modCmdCore c (fun k => { k with cache := k.cache.filter (fun e => e.1 != j.vdev) })) s))

/-- INVAL_STAGED. -/
def execInvalStaged (job : Nat) (s : State) : Res :=
  .next (invalAct s job 2 (fun s j =>
    let r := invalRange j.packet
    s.modVdev j.vdev (fun d => { d with staged := d.staged.filter (fun e => !(decide (ptrAddr e.src < r.2) && decide (r.1 < ptrAddr e.src + e.bytes))) })))

/-! ## REPLAY (R378) -/

/-- The live entry of a token. -/
def liveToken (s : State) (v : Nat) (t : W64) : Option FaultEntry := (s.vdev v).faults.find? (fun e => e.written && e.token == t)

/-- Resume what an entry or a group parked: a fragment, or a transfer at its chunk. -/
def resumeWho (s : State) (w : Who) : State :=
  match w with
  | .frag p k f => if s.liveFrag p k f then unpark s p k f else s
  | .xfer id =>
    match s.xfer id with
    | some x =>
      (s.modXfer id (fun y => { y with paused := none, pausedPri := none })).later
        (if !x.started then .transferStart id
         else if x.kind == .coll && x.step == 0 then .collectiveComplete id ((s.plat.colls.find? (fun c => c.id == id)).map (·.parts) |>.getD [])
         else .transferComplete id)
    | none => s
  | .queue _ => s
  | .bind _ _ => s

/-- REPLAY: the token is consumed; a stale one is recorded. -/
def startReplay (s : State) (q : Nat) (b : Bytes) (kill : Bool) : State :=
  let v := (s.queue q).vdev
  let idx := (s.queue q).ridx
  let s := advanceIdx s q b
  match liveToken s v (w64 (fieldAt b 8 8)) with
  | none =>
    writeRecord s { severity := 0, cls := 7, cause := 7, vdev := v, queue := q, markval := w64 idx, cookie := pkCookie b }
  | some e =>
    let s := s.modVdev v (fun d => { d with faults := d.faults.filter (fun g => g.token != e.token) })
    if kill then
      match whoPly s e.who with
      | some p =>
        let r := match e.who with
          | .frag _ k f => plyRecord s p k f
          | _ => plyRecord s p 0 0xFF
        if s.livePly p then contain s p { r with severity := 2, cls := 7, cause := 8, address := w64 (fieldAt e.bytes 8 8) } else s
      | none => s
    else resumeWho (e.pages.foldl (fun s g => dropTlb s v g.1 g.2.1 (g.2.2 * 4096) (g.2.2 * 4096 + 4096)) s) e.who

/-- REPLAY, action 0. -/
def execReplayResume (q : Nat) (s : State) : Res := onHead q (isOp 4 0x10 0) (fun t b => startReplay t q b false) s

/-- REPLAY, action 1. -/
def execReplayKill (q : Nat) (s : State) : Res := onHead q (isOp 4 0x10 1) (fun t b => startReplay t q b true) s

/-! ## STAGE, COPY, VDEV op 1, NOP (R283, R291) -/

/-- STAGE: the gate copies the range, staged already or not. -/
def execStage (q : Nat) (s : State) : Res :=
  onHead q (isKind 9) (fun t b =>
    closeGate t q b [{ src := w64 (fieldAt b 8 8), bytes := fieldAt b 0x18 8, wsoff := ptrAddr (w64 (fieldAt b 0x10 8)) }] true) s

/-- Every answer that a copy needs from outside is there: the source and the destination can be gone through. -/
def copyReady (s : State) (q v : Nat) (dst : W64) (src : Option W64) (n : Nat) : Except CcStop State := do
  let s ← match src with
    | some p => (ccRead s q v p n).map (·.2)
    | none => .ok s
  (sectorPieces (ptrAddr dst) 0 n (n / 128 + 2)).foldlM (fun s x => (ccPlace s q v (dst + w64 x.1) 1).map (·.2)) s

/-- The block pair that a COPY performs in the array at a destination (R299): source block and destination block. -/
def copyPair (s : State) (v : Nat) (dst : W64) (src : Option W64) (left : Nat) : Option (Option Nat × Nat) :=
  let tr (kind va : Nat) : Option Nat :=
    match translateWalk s v va kind with
    | .ok p => some (p.phys va)
    | _ => none
  if ptrTag dst ≠ 0 || ptrAddr dst % blockBytes ≠ 0 || !([0, 3].contains (ptrPol dst)) || decide (left < blockBytes) then none
  else
    match blockPa (ptrAddr dst) (tr 1), src with
    | some d, none => some (none, d)
    | some d, some p =>
      if ptrTag p ≠ 0 ∨ 5 ≤ ptrPol p then none
      else (blockPa (ptrAddr p) (tr 0)).bind (fun a => if pairApart a d then some (some a, d) else none)
    | none, _ => none

/-- Copy or fill what is left of n bytes at an offset: block pairs in the array (R299), else sector by sector of the destination; poison moves
with the bytes. [DEDUCED: log 51] -/
def copyFrom (s : State) (q v : Nat) (dst : W64) (src : Option W64) (fill o n : Nat) : Nat → Except CcStop State
  | 0 => .ok s
  | fuel + 1 =>
    if n ≤ o then .ok s
    else
      let to' := dst + w64 o
      match copyPair s v to' (src.map (· + w64 o)) (n - o) with
      | some p => copyFrom (arrayBlock s p.1 p.2 fill) q v dst src fill (o + blockBytes) n fuel
      | none => do
        let m := Nat.min (n - o) (128 - ptrAddr to' % 128)
        let t ← match src with
          | none => ccWrite s q v to' ((upFrom 0 (m / 8)).flatMap (fun _ => bytesLE fill 8))
          | some p => do
            let (l, t) ← ccRead s q v (p + w64 o) m
            ccWriteP t q v to' (l.flatMap (·.1)) (l.any (·.2))
        copyFrom t q v dst src fill (o + m) n fuel

/-- Copy or fill n bytes. -/
def copyBytes (s : State) (q v : Nat) (dst : W64) (src : Option W64) (fill n : Nat) : Except CcStop State :=
  copyFrom s q v dst src fill 0 n (n / 128 + 2)

/-- The start of COPY: it goes once every answer of the host is there, and completes; a failed access ends it with status 5. -/
def startCopy (s : State) (q : Nat) (b : Bytes) (src : Option W64) : State :=
  let v := (s.queue q).vdev
  let dst := w64 (fieldAt b 8 8)
  let n := fieldAt b 0x18 8
  match copyReady s q v dst src n with
  | .error (.wait t) => t
  | _ =>
    match copyBytes s q v dst src (fieldAt b 0x10 8) n with
    | .ok t => startAndComplete t q b 0
    | .error (.wait t) => t
    | .error (.fail a t) => startAndComplete (queueRecord t q 10 a 6 (t.queue q).ridx (pkCookie b)) q b 5

/-- COPY, kind 0. -/
def execCopy (q : Nat) (s : State) : Res := onHead q (isOp 10 0x20 0) (fun t b => startCopy t q b (some (w64 (fieldAt b 0x10 8)))) s

/-- COPY, kind 1. -/
def execCopyFill (q : Nat) (s : State) : Res := onHead q (isOp 10 0x20 1) (fun t b => startCopy t q b none) s

/-- VDEV op 1: refill and cap of the account. -/
def execVdevSetEnergyShare (q : Nat) (s : State) : Res :=
  onHead q (isOp 12 8 1) (fun t b =>
    startAndComplete (t.modVdev (t.queue q).vdev (fun d => { d with acct := { d.acct with refill := fieldAt b 0x10 8, cap := fieldAt b 0x18 8 } })) q b 0) s

/-- NOP: with BARRIER it has waited for the earlier packets; it has no tail. -/
def execPacketNop (q : Nat) (s : State) : Res := onHead q (isKind 13) (fun t b => advanceIdx t q b) s

/-! ## The completion tail (R274) -/

/-- Send the MSI-X message of a queue; a vector beyond the table leaves a record (R328). [DEDUCED: log 74] -/
def notice (s : State) (q : Nat) (j : Job) : State :=
  let x := s.queue q
  if !(j.intr && x.intr) then s
  else if servingFn s j.vdev ≠ 0 ∧ 64 ≤ x.vec then queueRecordOf s q j.vdev 7 0 0 j.index j.cookie
  else msixVdev s j.vdev x.vec

/-- COMPLETION_TAIL: the status word, the release, the signal, the notice. -/
def execCompletionTail (job : Nat) (s : State) : Res :=
  .next (match s.job job with
    | none => s
    | some j =>
      if !j.done then s
      else
        let w : Except State State :=
          if j.statusPtr = 0 then .ok s
          else
            match ccWrite s j.queue j.vdev j.statusPtr (bytesLE j.status 8) with
            | .ok t => .ok t
            | .error (.wait t) => .error t
            | .error (.fail a t) => .ok (queueRecordOf t j.queue j.vdev 10 a 8 j.index j.cookie)
        match w with
        | .error t => t.later (.completionTail job)
        | .ok t =>
          let t := t.modJob job (fun j => { j with statusPtr := 0 })
          match ccRelease t j.queue j.vdev j.fence with
          | (u, f, false) => (u.modJob job (fun j => { j with fence := f })).later (.completionTail job)
          | (u, _, true) =>
            let u := if j.signal = 0 then u
              else
                match signalPlace u j.queue j.vdev j.signal 1 true with
                | (none, u) => queueRecordOf u j.queue j.vdev 10 j.signal 9 j.index j.cookie
                | (some pa, u) => signalStep u pa j.addend.toNat false
            let u := notice u j.queue j
            { u with jobs := u.jobs.filter (fun k => k.id != job) })

/-! ## Doorbells (R267, R305, R327) -/

/-- Only PF0 answers: after a package stop (R405), and while images that do not verify hold the package in reset (R338). -/
def onlyPf0 (s : State) : Bool := s.plat.stopped || s.plat.held

/-- A doorbell write of w to queue q (R267). -/
def ringDoorbell (s : State) (q w : Nat) : State :=
  let s := seeQueue (wakeOwner s q) q
  let x := s.queue q
  if !x.state.runs then s
  else if x.dev then queueRecord s q 6 0 0 x.ridx 0
  else if w ≤ x.widx then s
  else if x.slots < w - x.ridx then stopQueue (queueRecord s q 5 0 0 x.ridx 0) q 5
  else
    s.modQueue q (fun x =>
      let st : QState := if x.state == .idle then .ready else x.state
      { x with widx := w, shadowW := w, state := st, shadowS := st })

/-- DOORBELL: an access to the doorbell page of a queue on a host port, through PF1 (0) or a VF (1 to 16): a read gives 0; the BAR of a secure
device takes requests only on its IDE stream (R327, R337). -/
def execDoorbell (fn : PortNum) (q : Nat) (value : DoorbellOp) (s : State) : Res :=
  .next (
    let d := s.vdev (fn.num - 1)
    if onlyPf0 s || decide (128 ≤ q) then s
    else if fn.num ≠ 0 && d.exist && d.secure && !value.ide then (if value.write.isSome then s else s.send (.unsupported fn.port))
    else
      match value.write with
      | none => s.send (.readReply fn.port (bytesLE 0 8))
      | some x =>
        if fn.num ≠ 0 ∧ !(d.exist && d.ownsQueue q) then writeRecord s { severity := 0, cls := 9, cause := 6, vdev := fn.num - 1, queue := q }
        else ringDoorbell s q x.toNat)

/-! ## Turns of the command cores -/

/-- The event that starts a packet. -/
def packetEvent (s : State) (q : Nat) (b : Bytes) : Option Instr :=
  match pkType b with
  | 1 => some (if fieldAt b 0x18 1 = 0 then .signalAdd q else .signalSet q)
  | 2 => some (.wait q)
  | 4 => some (if fieldAt b 0x10 1 = 0 then .replayResume q else .replayKill q)
  | 5 => some (.dispatch q)
  | 6 => some (.dispatchRole q)
  | 7 => some (.draw q)
  | 8 => some (.cond q)
  | 9 => some (.stage q)
  | 10 => some (if fieldAt b 0x20 1 = 0 then .copy q else .copyFill q)
  | 11 =>
    match ccFetch s q (s.queue q).vdev (w64 (fieldAt b 8 8)) 128 with
    | .ok (d, _) =>
      some (match fieldAt d 0 1 with
        | 0 => .ckptSave q
        | 1 => .ckptRestore q
        | 2 => .ckptArmCapture q
        | _ => .ckptRerun q)
    | .error _ => some (.ckptSave q)
  | 12 => some (if fieldAt b 8 1 = 0 then .vdevCollapse q else .vdevSetEnergyShare q)
  | 13 => some (.packetNop q)
  | _ => none

/-- The lane whose packet a command core is starting, while that packet is still to start: its answers from outside, or its release, are not there. The
passes and lanes behind it wait (R270, R285). -/
def startsStill (s : State) (cc : Nat) : Option Nat :=
  match (s.cmdCore cc).lane with
  | some (q, i) => if (s.queue q).ridx = i ∧ (s.queue q).state = .ready ∧ headOpen s q then some q else none
  | none => none

/-- The command core that answers to a number: the spare, number 4, once it stands in (R393, R400). -/
def cmdPhys (s : State) (cc : Nat) : Nat := if s.pf0.remap.any (fun e => bits e.2 60 4 == 7 && bits e.2 32 24 == cc) then 4 else cc

/-- A command core fails: it stops at once, and its queues that are Ready become Held (R393). -/
def failCore (s : State) (cc : Nat) : State :=
  let t := s.modCmdCore cc (fun k => { k with failed := true, round := [], lane := none })
  let t := (coreQueues cc).foldl (fun s q => if (s.queue q).state == .ready then s.modQueue q (fun x => { x with state := .held, shadowS := .held }) else s) t
  t.urgent (.commandCoreSubstitution cc)

/-- A command core fetches from its instruction memory: an error there is detected, a single-bit one corrected and counted (R393, R403). The state,
and whether the core has failed. [DESIGN CHOICE: log 63] -/
def seeCore (s : State) (cc : Nat) : State × Bool :=
  match takeFlip s (fun f => f.kind == 14 && f.unit == cmdPhys s cc) (fun f => (9, if f.double then (if s.plat.spareUsed then 9 else 2) else 1)) with
  | none => (s, false)
  | some (f, t) => if f.double then (failCore t cc, true) else (t.modPlat (fun p => { p with fixed := p.fixed + 1 }), false)

/-- The passes of a command core: the lane whose packet is still to start, else the next of its round, its passes in type order; INVAL starts here, and its
actions follow. -/
def passes (s : State) (cc : Nat) : State × Option Instr :=
  match startsStill s cc with
  | some q =>
    (match lookHead s q with
    | (t, none) => (t.modCmdCore cc (fun c => { c with lane := none }), none)
    | (t, some b) => (t, packetEvent t q b))
  | none =>
  let s := s.modCmdCore cc (fun c => { c with lane := none })
  let r := if (s.cmdCore cc).round = [] then newRound s cc else (s, (s.cmdCore cc).round)
  match r.2 with
  | [] => (r.1, none)
  | q :: rest =>
    let s := r.1.modCmdCore cc (fun c => { c with round := rest })
    match lookHead s q with
    | (t, none) => (t, none)
    | (t, some b) =>
      if pkType b = 3 then (startInval t q b, none)
      else (t.modCmdCore cc (fun c => { c with lane := some (q, (t.queue q).ridx) }), packetEvent t q b)

/-- A turn of a command core. -/
def cmdTurn (s : State) (cc : Nat) : State × Option Instr :=
  match seeCore s cc with
  | (t, true) => (t, none)
  | (t, false) => passes t cc

end Sys2Proof.Machine
end

