-- ==== Sys2Proof/Machine/Device.lean ====
section
/-! DEFINITION. Staging gates (R283, R293, R294), refresh windows (R295), collapse and wake (R303 to R305), energy metering (R281, R340), and
stops of devices and of the package (R329, R404, R405). -/
namespace Sys2Proof.Machine

/-! ## Staging (R282, R283, R294) -/

/-- Devices that have a share on a die of a gate. -/
def gateDevices (s : State) (g : Gate) : List Nat :=
  (s.vdevs.filter (fun v => v.2.exist && v.2.wsDies.any (fun d => g.dies.contains d))).map (·.1)

/-- The skeins of a device that run. -/
def runningSkeins (s : State) (v : Nat) : List Nat :=
  (s.skeins.filter (fun k => running k.2 && (s.reel k.2.reel).vdev == v)).map (·.1)

/-- The range that a gate writes next, and the bytes of it that are written. -/
def gateNext : List Staged → Nat → Option (Staged × Nat)
  | [], _ => none
  | r :: l, m => if m < r.bytes then some (r, m) else gateNext l (m - r.bytes)

/-- The parts of its ranges that a gate has written. -/
def gateWritten : List Staged → Nat → List Staged
  | [], _ => []
  | r :: l, m => if m = 0 then [] else { r with bytes := Nat.min m r.bytes } :: gateWritten l (m - r.bytes)

/-- Everything is written, or it has failed. -/
def Gate.over (g : Gate) : Bool := g.failed || (gateNext g.ranges g.moved).isNone

/-- Write sectors of the weight store with their poison. -/
def wsWrite (s : State) (o : Nat) : List (Bytes × Bool) → State
  | [] => s
  | (b, bad) :: l =>
    let s := dropFlips { s with ws := Mem.write s.ws o b
                                wsPoison := Tab.set false s.wsPoison (o / 128) bad } (fun f => f.kind == 7 && f.loc.toNat / 128 == o / 128)
    wsWrite s (o + b.length) l

/-- Replace a gate. -/
def modGate (s : State) (id : Nat) (f : Gate → Gate) : State := { s with gates := s.gates.map (fun g => if g.id == id then f g else g) }

/-- Write one chunk of at most 256 KiB; a source that cannot be read ends the staging (R418). -/
def gateChunk (s : State) (g : Gate) : State :=
  match gateNext g.ranges g.moved with
  | none => s.later (.stagingGateOpen g.id)
  | some (r, m) =>
    let n := Nat.min (r.bytes - m) 262144
    match ccRead s g.queue g.vdev (r.src + w64 m) n with
    | .error (.wait t) => t.later (.stagingGate g.id)
    | .error (.fail a t) =>
      let t := queueRecord t g.queue 10 a 5 (t.queue g.queue).ridx (pkCookie (t.queue g.queue).waitPkt)
      (modGate t g.id (fun g => { g with failed := true })).later (.stagingGateOpen g.id)
    | .ok (l, t) =>
      let t := countMany (wsWrite t ((s.vdev g.vdev).wsbase * 2 ^ 26 + r.wsoff + m) l) g.vdev (n / 128)
      let t := modGate t g.id (fun g => { g with moved := g.moved + n })
      t.later (if (gateNext g.ranges (g.moved + n)).isNone then .stagingGateOpen g.id else .stagingGate g.id)

/-- STAGING_GATE: with no skein of its devices running, no window of its dies open and no gate before it on them, the gate writes. -/
def execStagingGate (id : Nat) (s : State) : Res :=
  .next (match s.gates.find? (fun g => g.id == id) with
    | none => s
    | some g =>
      let first := s.gates.all (fun h => decide (id ≤ h.id) || !(h.dies.any (fun d => g.dies.contains d)))
      if g.over || !first || (gateDevices s g).any (fun v => runningSkeins s v != []) || g.dies.any (fun d => (s.die d).window) then
        (if g.over then s else s.later (.stagingGate id))
      else gateChunk s g)

/-- STAGING_VACATE_TIMEOUT: after 94,000 clocks the gate asks the running skeins to vacate. -/
def execStagingVacateTimeout (id : Nat) (s : State) : Res :=
  .next (match s.gates.find? (fun g => g.id == id) with
    | none => s
    | some g =>
      if g.vacated || g.over || decide (s.clock < g.asked + 94000) then s
      else modGate (((gateDevices s g).flatMap (runningSkeins s)).foldl askVacate s) id (fun g => { g with vacated := true }))

/-- The shares of two staged ranges overlap. -/
def Staged.overlaps (a b : Staged) : Bool := decide (a.wsoff < b.wsoff + b.bytes) && decide (b.wsoff < a.wsoff + a.bytes)

/-- A range that a gate has written: entries whose bytes it overwrites go, and when it was copied whole it comes in, in place of the least recently
used (R282). -/
def noteRange (l : List Staged) (whole : List Staged) (w : Staged) : List Staged :=
  let kept := l.filter (fun e => !(w.overlaps e))
  if whole.contains w then (kept ++ [w]).drop (kept.length + 1 - 64) else kept

/-- The ranges of a gate enter the staged-range table in the order in which they were written. -/
def recordStaged (s : State) (v : Nat) (g : Gate) : State :=
  s.modVdev v (fun d => { d with staged := (gateWritten g.ranges g.moved).foldl (fun l w => noteRange l g.ranges w) d.staged })

/-- STAGING_GATE_OPEN: tag-3 sectors leave the L1s, the gate opens, held skeins and the queue go on (R283, R249). -/
def execStagingGateOpen (id : Nat) (s : State) : Res :=
  .next (match s.gates.find? (fun g => g.id == id) with
    | none => s
    | some g =>
      if !g.over then s
      else
        let cores := ((gateDevices s g).flatMap (fun v => (s.vdev v).bays)).flatMap bayCores
        let s := cores.foldl (fun s c => s.modCore c (fun x => { x with l1 := x.l1.filter (fun l => l.1 % 4 != 1) })) s
        let s := recordStaged { s with gates := s.gates.filter (fun h => h.id != id) } g.vdev g
        let x := s.queue g.queue
        let s :=
          if x.state != .held then s
          else if g.failed then startAndComplete s g.queue x.waitPkt 5
          else if g.stage then startAndComplete s g.queue x.waitPkt 0
          else s.modQueue g.queue (fun x => { x with state := .ready, shadowS := .ready, waitPkt := [], gated := true })
        s.later .placement)

/-! ## Refresh windows (R295) -/

/-- Clocks since a window last fell due on a die. -/
def windowPhase (s : State) (d : Nat) : Nat := (s.clock + 2256000 - 282000 * d) % 2256000

/-- REFRESH_WINDOW_OPEN: a window opens when it falls due; the gates of the model write a chunk in no clock, so none defers it. -/
def execRefreshWindowOpen (d : Nat) (s : State) : Res :=
  .next (if windowsOn s d && decide (windowPhase s d < 2820) then s.modDie d (fun x => { x with window := true }) else s)

/-- REFRESH_WINDOW_CLOSE: 2,820 clocks after it opened. -/
def execRefreshWindowClose (d : Nat) (s : State) : Res :=
  .next (if (s.die d).window && decide (2820 ≤ windowPhase s d) then s.modDie d (fun x => { x with window := false }) else s)

/-! ## Collapse and wake (R303 to R305) -/

/-- VDEV_COLLAPSE: refused while the device has work; else its tail is posted and the collapse begins. -/
def execVdevCollapse (q : Nat) (s : State) : Res :=
  onHead q (isOp 12 8 0) (fun t b =>
    let v := (t.queue q).vdev
    let c := fieldAt b 9 1
    let busy := t.queues.any (fun x => x.1 != q && (t.vdev v).ownsQueue x.1 && (x.2.state == .ready || x.2.state == .held)) ||
      t.skeins.any (fun k => (t.reel k.2.reel).vdev == v)
    if decide ((t.vdev v).wclass < c) || busy then startAndComplete t q b 5
    else ((startAndComplete t q b 0).modVdev v (fun d => { d with collapse := .collapsing c })).later (.vdevCollapseComplete v)) s

/-- The sectors of a device's partition that are present in L2. -/
def l2Of (s : State) (v : VDev) : List Nat :=
  (s.l2.filter (fun e => decide (v.hbmbase * 2 ^ 30 ≤ paLin (e.1 * 128)) && decide (paLin (e.1 * 128) < (v.hbmbase + v.hbmsize) * 2 ^ 30))).map (·.1)

/-- What the bays of a device lose: L1s, TLBs, entry buffers and kept code words, and its descriptors (R304). -/
def dropCaches (s : State) (v : Nat) : State :=
  let s := ((s.vdev v).bays.flatMap bayCores).foldl (fun s c => s.modCore c (fun x => { x with l1 := [], utlb := [], entryBuf := [], code := [] })) s
  let s := { s with dies := s.dies.map (fun d => (d.1, { d.2 with tlb := d.2.tlb.filter (fun p => p.vdev != v) })) }
  (upFrom 0 4).foldl (fun s c => s.modCmdCore c (fun k => { k with cache := k.cache.filter (fun e => e.1 != v) })) s

/-- VDEV_COLLAPSE_COMPLETE: once the tail is posted, classes 2 and 3 clean the device's lines in L2 to HBM and drop them. -/
def execVdevCollapseComplete (v : Nat) (s : State) : Res :=
  .next (match (s.vdev v).collapse with
    | .collapsing c =>
      if s.jobs.any (fun j => j.vdev == v) then s.later (.vdevCollapseComplete v)
      else
        let s := if c < 2 then s else (l2Of s (s.vdev v)).foldl (fun s sec => l2Drop (l2Clean s sec) sec) s
        (dropCaches s v).modVdev v (fun d => { d with collapse := .collapsed c })
    | _ => s)

/-- WAKE: the device is awake; accesses held since the wake write are performed, in their order. -/
def execWake (v : Nat) (s : State) : Res :=
  .next (match (s.vdev v).collapse with
    | .waking _ =>
      let h := (s.vdev v).heldIn
      let s := s.modVdev v (fun d => { d with collapse := .awake, heldIn := [] })
      { s with inputs := h ++ s.inputs }.later .placement
    | _ => s)

/-! ## What collapsed devices switch off (R304) -/

/-- The class to which a device is collapsed; 0 while it is not. -/
def VDev.depth (v : VDev) : Nat :=
  match v.collapse with
  | .collapsed c => c
  | _ => 0

/-- The depth to which a unit is gated: that of its shallowest user; an unused one is not gated. -/
def unitDepth (users : List VDev) : Nat :=
  match users with
  | [] => 0
  | v :: vs => vs.foldl (fun n w => Nat.min n w.depth) v.depth

/-- The devices that a test picks. -/
def usersOf (s : State) (pick : VDev → Bool) : List VDev := (s.vdevs.map (·.2)).filter (fun v => v.exist && pick v)

/-- The depth of a die's home slices and HBM stacks: their users hold a part of the die's 96 GiB. -/
def hbmDepth (s : State) (d : Nat) : Nat := unitDepth (usersOf s (fun v => decide (v.hbmbase < 96 * (d + 1)) && decide (96 * d < v.hbmbase + v.hbmsize)))

/-- The depth of a die's weight store. -/
def wsDepth (s : State) (d : Nat) : Nat := unitDepth (usersOf s (fun v => v.wsDies.contains d))

/-- How a memory of a depth is kept: clocked, in self-refresh (1), in deep self-refresh (2: HBM at W3). -/
def hbmRefresh (s : State) (d : Nat) : Nat := if hbmDepth s d = 0 then 0 else if hbmDepth s d < 3 then 1 else 2

/-- A device uses a link: some rank of its process groups is reached on it from an I/O die that serves one of its bays. -/
def usesLink (s : State) (v : Nat) (port : Nat) : Bool :=
  (s.vdev v).pgt.any (fun e => (upFrom 0 e.2.nrank).any (fun r =>
    match translateWalk s v ((bits e.2.map 0 57 + 8 * r) % 2 ^ 57) 0 with
    | .ok p => routeOf s (port / 72) (natLE (homeRead s (p.phys ((bits e.2.map 0 57 + 8 * r) % 2 ^ 57)) 2)) == some port
    | _ => false)) && (s.vdev v).bays.any (fun b => b / 36 == port / 72)

/-- A link sleeps: every device that uses it is collapsed to W3. -/
def linkAsleep (s : State) (port : Nat) : Bool :=
  decide (3 ≤ unitDepth ((s.vdevs.filter (fun v => v.2.exist && usesLink s v.1 port)).map (·.2)))

/-! ## Energy (R281, R340) -/

/-- A part of an amount, in proportion. -/
def portion (e part whole : Nat) : Nat := e * part / Nat.max whole 1

/-- Charge one ply for the period: its part of what its core has used for the issue opportunities of the resident plies. -/
def chargePly (s : State) (p e whole : Nat) : State :=
  let y := s.ply p
  let n := portion e y.used whole
  let s := s.modPly p (fun y => { y with energy := y.energy + w64 n, used := 0 })
  s.modVdev y.vdev (fun d => { d with energy := d.energy + w64 n, acct := { d.acct with balance := d.acct.balance - n } })

/-- Charge the plies of a core. -/
def chargeCore (s : State) (c : Nat) : State :=
  let ps := s.pliesOn c
  let whole := ps.foldl (fun n p => n + p.2.used) 0
  if whole = 0 then s
  else (ps.map (·.1)).foldl (fun t p => chargePly t p (Config.coreEnergy s.draws c) whole) { s with draws := s.draws + 1 }

/-- Charge what home slices, HBM, weight store and links have used to the devices, in proportion to their sector traffic. -/
def chargeShared (s : State) : State :=
  let l := s.plat.traffic
  let whole := l.foldl (fun n v => n + v.2) 0
  let s := l.foldl (fun t v => if (t.vdev v.1).exist then t.modVdev v.1 (fun d => { d with energy := d.energy + w64 (portion (Config.sharedEnergy s.draws) v.2 whole) }) else t) s
  { s.modPlat (fun p => { p with traffic := [] }) with draws := s.draws + 1 }

/-- ENERGY_PERIOD: the plies' and the shared energy is charged, and every account is refilled up to its cap. -/
def execEnergyPeriod (s : State) : Res :=
  .next (
    let s := chargeShared ((s.plies.map (fun p => p.2.core)).dedup.foldl chargeCore s)
    let s := ((s.vdevs.filter (fun (v : Nat × VDev) => v.2.exist)).map (·.1)).foldl (fun s v =>
      s.modVdev v (fun d => { d with acct := { d.acct with balance := min (d.acct.balance + d.acct.refill) d.acct.cap } })) s
    s.later .placement)

/-! ## Stops (R278, R329, R404, R405) -/

/-- Stop a device: each of its queues enters Stopped, its skeins are killed without completion. -/
def stopDevice (s : State) (v : Nat) (err : Option Nat) : State :=
  let qs := (s.vdev v).queueList
  let s := qs.foldl (fun s q => if (s.queue q).state == .stopped then s else stopQueue s q (err.getD (s.queue q).err)) s
  let s := { s with gates := s.gates.filter (fun g => g.vdev != v) }
  let s := ((s.plies.filter (fun p => p.2.vdev == v)).map (·.1)).foldl (fun s p => killPly s p) s
  let gone := (s.reels.filter (fun r => r.2.vdev == v)).map (fun r => r.2.job)
  { s with skeins := s.skeins.filter (fun k => (s.reel k.2.reel).vdev != v)
           reels := s.reels.filter (fun r => r.2.vdev != v)
           jobs := s.jobs.filter (fun j => !(gone.contains j.id)) }

/-- A record of class 11 goes to the package ring, another to the device's queue. -/
def stopRecord (s : State) (v cls cause severity : Nat) : State :=
  let r : ErrRec := { severity := severity, cls := cls, cause := cause, vdev := v }
  if cls = 11 then writePackageRecord s r (some v) else writeRecord s r

/-- DEVICE_STOP. -/
def execDeviceStop (v cls cause : Nat) (s : State) : Res :=
  .next (if !((s.vdev v).exist) || (s.vdev v).stopped then s
    else (stopDevice (stopRecord s v cls cause 3) v (some cause)).modVdev v (fun d => { d with stopped := true }))

/-- PACKAGE_STOP: copies of the record go to the queues of all devices, stopped ones too, then every device stops and no core issues. -/
def execPackageStop (cause : Nat) (s : State) : Res :=
  .next (if s.plat.stopped then s
    else
      let all := (s.vdevs.filter (fun v => v.2.exist)).map (·.1)
      let vs := (s.vdevs.filter (fun v => v.2.exist && !v.2.stopped)).map (·.1)
      let s := writePackageRecord s { severity := 4, cls := 11, cause := cause }
      let s := all.foldl (fun s v => writeRecord s { severity := 4, cls := 11, cause := cause, vdev := v }) s
      let s := vs.foldl (fun s v => (stopDevice s v (some cause)).modVdev v (fun d => { d with stopped := true })) s
      s.modPlat (fun p => { p with stopped := true }))

/-- Empty a record or fault ring: READ takes the value of WRITE. [DESIGN CHOICE: log 58] -/
def emptyRing (s : State) (v base w : Nat) : State := homeWrite s ((s.vdev v).rsvPa (base + 8)) (bytesLE w 8)

/-- An FLR of the function of one device (R329). [DESIGN CHOICE: log 58] -/
def flrDevice (s : State) (v : Nat) : State :=
  if !((s.vdev v).exist) then s
  else
    let s := stopDevice s v none
    let s := s.modVdev v (fun d => { d with faults := [], fullSaid := false })
    emptyRing (emptyRing s v 0 (s.vdev v).faultW) v 0x80000 (s.vdev v).recW

/-- FLR: a VF's device, or for PF1 every device. -/
def execFlr (fn : Nat) (s : State) : Res :=
  .next (if fn = 0 then (upFrom 0 16).foldl flrDevice s else if fn ≤ 16 then flrDevice s (fn - 1) else s)

/-- POWER_THROTTLE: issue opportunities are withheld, or no longer (R341). -/
def execPowerThrottle (on : Bool) (s : State) : Res := .next (s.modPlat (fun p => { p with throttled := on }))

/-- THERMAL_EVENT: kind 0, a die between 105 and 115 °C, throttles that die, until it has cooled (5); the others stop the package: a die above
115 °C for 1 ms (1), a converter fault (2), input out of range for 1 ms (3), the watchdog of the management controller (4) (R341, R404). -/
def execThermalEvent (d kind : Nat) (s : State) : Res :=
  .next (if kind = 0 then
      (writePackageRecord s { severity := 0, cls := 11, cause := 2, die := d }).modPlat (fun p => { p with hot := without p.hot d ++ [d] })
    else if kind ≤ 4 then s.urgent (.packageStop 3)
    else if kind = 5 then s.modPlat (fun p => { p with hot := without p.hot d })
    else s)

end Sys2Proof.Machine
end

