-- ==== Sys2Proof/Machine/Sha.lean ====
section
/-! DEFINITION. SHA-256, which attestation (R339) and checkpoints (R407, R409) name. Its constants are derived, not listed: fractions of the
roots of the first primes. The spec names the function only. -/
namespace Sys2Proof.Machine

/-! ## Constants -/

/-- The primes below 312: there are 64 of them. -/
def shaPrimes : List Nat := (upFrom 2 310).filter (fun n => (upFrom 2 16).all (fun d => decide (n ≤ d) || n % d != 0))

/-- The whole part of the e-th root of x, which has at most n bits, over the bits already found. -/
def rootOver (e x : Nat) : Nat → Nat → Nat
  | 0, r => r
  | n + 1, r => rootOver e x n (if (r + 2 ^ n) ^ e ≤ x then r + 2 ^ n else r)

/-- The first 32 bits of the fraction of the e-th root of p. -/
def rootFraction (e p : Nat) : W32 := w32 (rootOver e (p * 2 ^ (32 * e)) 36 0)

/-- The constant of each round, and the chaining value before the first block: cube roots of 64 primes, square roots of 8. -/
def shaRounds : List W32 := shaPrimes.map (rootFraction 3)
def shaStart : List W32 := (shaPrimes.take 8).map (rootFraction 2)

/-! ## Rounds -/

/-- A word under several rotations, added without carry. -/
def turns (x : W32) (l : List Nat) : W32 := l.foldl (fun y n => y ^^^ x.rotateRight n) 0

/-- What a round works on: the words of the schedule that are next, oldest first, and the two halves of the eight variables, newest first. -/
structure ShaRun where
  next : List W32
  hi   : List W32
  lo   : List W32

/-- The word that joins the schedule as its oldest is used. -/
def joinWord (l : List W32) : W32 :=
  let near := l.getD 14 0
  let far := l.getD 1 0
  l.getD 0 0 + l.getD 9 0 + (turns far [7, 18] ^^^ far >>> 3) + (turns near [17, 19] ^^^ near >>> 10)

/-- One round: both halves take a word in front and lose their last. -/
def ShaRun.round (r : ShaRun) (k : W32) : ShaRun :=
  let x (i : Nat) := r.lo.getD i 0
  let y (i : Nat) := r.hi.getD i 0
  let pick := (x 0 &&& (x 1 ^^^ x 2)) ^^^ x 2
  let most := (y 0 &&& (y 1 ||| y 2)) ||| (y 1 &&& y 2)
  let t := k + r.next.getD 0 0 + x 3 + pick + turns (x 0) [6, 11, 25]
  { next := r.next.drop 1 ++ [joinWord r.next]
    hi := (t + most + turns (y 0) [2, 13, 22]) :: r.hi.take 3
    lo := (y 3 + t) :: r.lo.take 3 }

/-- The words of bytes, each with its first byte on top; n of them. -/
def topFirst : Nat → Bytes → List W32
  | 0, _ => []
  | n + 1, b => w32 (natLE (b.take 4).reverse) :: topFirst n (b.drop 4)

/-- The chaining value after n more blocks. -/
def shaOver (h : List W32) : Nat → Bytes → List W32
  | 0, _ => h
  | n + 1, b =>
    let r := shaRounds.foldl ShaRun.round { next := topFirst 16 b, hi := h.take 4, lo := h.drop 4 }
    shaOver ((h.zip (r.hi ++ r.lo)).map (fun x => x.1 + x.2)) n (b.drop 64)

/-- The hash of a run of bytes: it is followed by a 1 bit, zeros up to 8 bytes short of a block, and its length in bits. [PRESUMED: log 85] -/
def sha256 (b : Bytes) : Bytes :=
  let n := (b.length + 8) / 64 + 1
  let whole := b ++ 0x80#8 :: bytesLE 0 (64 * n - b.length - 9) ++ (bytesLE (8 * b.length) 8).reverse
  (shaOver shaStart n whole).flatMap (fun w => (bytesLE w.toNat 4).reverse)

end Sys2Proof.Machine
end

