-- ==== Sys2Proof/Machine/Manage.lean ====
section
/-! DEFINITION. The management function (R300, R301, R330 to R332, R339, R391, R402, R403): its register window, commands, the queue table, the
aperture and error injection; package reset (R342). -/
namespace Sys2Proof.Machine

/-! ## Creating and destroying a virtual device (R300, R301) -/

/-- The device of a record. -/
def vdevOf (b : Bytes) : VDev :=
  let cap := fieldAt b 0x58 8
  { exist := true, record := b, bays0 := w64 (fieldAt b 0 8), bays1 := w64 (fieldAt b 8 8), qmask0 := w64 (fieldAt b 0x10 8),
    qmask1 := w64 (fieldAt b 0x18 8), hbmbase := fieldAt b 0x20 2, hbmsize := fieldAt b 0x22 2, rsvsize := fieldAt b 0x24 2,
    wsbase := fieldAt b 0x28 2, wssize := fieldAt b 0x2A 2, secure := fieldAt b 0x2C 1 == 1, wclass := fieldAt b 0x2D 1,
    lslots := fieldAt b 0x2E 2, llane := fieldAt b 0x30 4, pasid := fieldAt b 0x34 4, troot := w64 (fieldAt b 0x38 8),
    lbase := w64 (fieldAt b 0x40 8), xbase := w64 (fieldAt b 0x48 8), xbytes := w64 (fieldAt b 0x50 8),
    acct := { balance := 0, refill := fieldAt b 0x60 8, cap := cap, th1 := 0, th2 := (cap / 4 : Nat), th3 := (cap / 2 : Nat) } }

/-- Every field keeps its limit. -/
def recordOk (b : Bytes) : Bool :=
  let v := vdevOf b
  let n (o k : Nat) : Nat := fieldAt b o k
  zeroBytes b 9 0x10 && v.bays != [] && decide (2 ≤ v.hbmsize) && decide (v.hbmsize ≤ 768) && decide (v.hbmbase + v.hbmsize ≤ 768) &&
  decide (1 ≤ v.rsvsize) && decide (v.rsvsize ≤ 16 * v.hbmsize - 1) && n 0x26 2 == 0 && decide (v.wsbase ≤ 255) && decide (v.wssize ≤ 256) &&
  decide (v.wsbase + v.wssize ≤ 256) && decide (n 0x2C 1 ≤ 1) && decide (1 ≤ v.wclass) && decide (v.wclass ≤ 3) && decide (1 ≤ v.lslots) &&
  decide (v.lslots ≤ 4096) && v.llane % 16 == 0 && decide (16 ≤ v.llane) && decide (v.llane ≤ 2 ^ 20) && decide (v.pasid < 2 ^ 20) &&
  rootOk v v.troot && ptrFits b 0x40 [0] 65536 && ptrFits b 0x48 [0] 65536 && n 0x50 8 % 65536 == 0 && decide (n 0x58 8 ≤ 2 ^ 62) &&
  zeroBytes b 0x68 0x80

/-- Two devices share a bay, a queue, HBM or a share unit. -/
def clash (a b : VDev) : Bool :=
  a.bays0 &&& b.bays0 != 0 || a.bays1 &&& b.bays1 != 0 || a.qmask0 &&& b.qmask0 != 0 || a.qmask1 &&& b.qmask1 != 0 ||
  (decide (a.hbmbase < b.hbmbase + b.hbmsize) && decide (b.hbmbase < a.hbmbase + a.hbmsize)) ||
  (a.wssize != 0 && b.wssize != 0 && decide (a.wsbase < b.wsbase + b.wssize) && decide (b.wsbase < a.wsbase + a.wssize))

/-- Creation succeeds (R301). -/
def createOk (s : State) (v : Nat) (b : Bytes) : Bool :=
  decide (v < 16) && !((s.vdev v).exist) && recordOk b && !(s.vdevs.any (fun d => d.2.exist && clash d.2 (vdevOf b))) &&
    (vdevOf b).queueList.all (fun q => (s.queue q).state == .off)

/-- The command buffer. -/
def bufBytes (s : State) : Bytes := Mem.read s.pf0.buf 0 128

/-- A device comes into being: its entries in the queue table name it, and its two rings are empty, their first 4 KiB zero (R375). [DEDUCED: log 57] -/
def createDevice (s : State) (v : Nat) (b : Bytes) : State :=
  let s := s.modVdev v (fun _ => vdevOf b)
  let s := (vdevOf b).queueList.foldl (fun s q => s.modQueue q (fun x => { x with vdev := v })) s
  homeWrite (homeWrite s ((vdevOf b).rsvPa 0) (bytesLE 0 4096)) ((vdevOf b).rsvPa 0x80000) (bytesLE 0 4096)

/-- Carry out the running command when it is this one; f answers its result and effect. [DEDUCED: log 61] -/
def carryOut (s : State) (op v : Nat) (f : State → Nat × State) : State :=
  match s.pf0.busy with
  | none => s
  | some c =>
    if c.op ≠ op ∨ c.vdev ≠ v ∨ c.done then s
    else
      let r := f s
      r.2.modPf0 (fun p => { p with busy := some { c with result := r.1, done := true } })

/-- A command on a device that must exist: else result 3. -/
def onDevice (v : Nat) (f : State → Nat × State) (s : State) : Nat × State := if (s.vdev v).exist then f s else (3, s)

/-- CREATE. -/
def execCreate (v : Nat) (s : State) : Res :=
  .next (carryOut s 1 v (fun s => if createOk s v (bufBytes s) then (0, createDevice s v (bufBytes s)) else (1, s)))

/-- DESTROY: with its queues Off or Stopped and no skein. -/
def execDestroy (v : Nat) (s : State) : Res :=
  .next (carryOut s 2 v (onDevice v (fun s =>
    let d := s.vdev v
    if d.queueList.any (fun q => (s.queue q).state.runs) || s.skeins.any (fun k => (s.reel k.2.reel).vdev == v) then (2, s)
    else
      let s := d.queueList.foldl (fun s q => s.modQueue q (fun x => { x with state := .off, shadowS := .off })) (dropCaches s v)
      let s := { s with jobs := s.jobs.filter (fun j => j.vdev != v) }
      (0, s.modVdev v (fun _ => {})))))

/-- A signed field of the command buffer. -/
def bufInt (b : Bytes) (o : Nat) : Int := (w64 (fieldAt b o 8)).toInt

/-- SET_ACCOUNT: the six fields of R281; a cap above 2^62 is refused. -/
def execSetAccount (v : Nat) (s : State) : Res :=
  .next (carryOut s 3 v (onDevice v (fun s =>
    let b := bufBytes s
    if 2 ^ 62 < fieldAt b 0x10 8 then (1, s)
    else
      (0, (s.modVdev v (fun d => { d with acct := { balance := bufInt b 0, refill := fieldAt b 8 8, cap := fieldAt b 0x10 8, th1 := bufInt b 0x18,
                                                    th2 := bufInt b 0x20, th3 := bufInt b 0x28 } })).later .placement))))

/-- WRITE_PROCESS_GROUP_ENTRY. -/
def execWriteProcessGroupEntry (v : Nat) (s : State) : Res :=
  .next (carryOut s 4 v (onDevice v (fun s =>
    let b := bufBytes s
    let i := fieldAt b 0x10 1
    if 64 ≤ i then (1, s)
    else if s.reels.any (fun r => r.2.vdev == v && r.2.pgt == some i) then (2, s)
    else (0, s.modVdev v (fun d => { d with pgt := Tab.set {} d.pgt i { nrank := fieldAt b 0 2, rank := fieldAt b 2 2, map := w64 (fieldAt b 8 8) } })))))

/-- SET_TRANSLATION_ROOT. -/
def execSetTranslationRoot (v : Nat) (s : State) : Res :=
  .next (carryOut s 5 v (onDevice v (fun s =>
    let t := w64 (fieldAt (bufBytes s) 0 8)
    if !(rootOk (s.vdev v) t) then (1, s)
    else if runningSkeins s v ≠ [] then (2, s)
    else (0, s.modVdev v (fun d => { d with troot := t })))))

/-- A field of n bytes: what is given, cut or filled with zeros. -/
def fitBytes (b : Bytes) (n : Nat) : Bytes := (b ++ bytesLE 0 (n - b.length)).take n

/-- The report without its signature (R339). -/
def reportHead (s : State) (nonce : Bytes) : Bytes :=
  fitBytes (fitBytes nonce 32 ++ bytesLE 0x9A 1 ++ bytesLE 0xB1 1 ++ bytesLE (s.vdevs.filter (fun v => v.2.exist)).length 2 ++ bytesLE 0 28 ++
    (upFrom 0 8).flatMap (fun i => fitBytes (Config.measurement i) 32) ++
    (upFrom 0 16).flatMap (fun v =>
      let d := s.vdev v
      if d.exist then bytesLE 1 1 ++ bytesLE (b2n d.secure) 1 ++ bytesLE 0 14 ++ sha256 d.record else bytesLE 0 48)) 0x440

/-- ATTEST: the report and the certificate chain go to REPORT. -/
def execAttest (s : State) : Res :=
  .next (match s.pf0.busy with
    | none => s
    | some c =>
      carryOut s 6 c.vdev (fun s =>
        let h := reportHead s ((bufBytes s).take 32)
        let certs := Config.certificates.take 4092
        let r := fitBytes (h ++ fitBytes (Config.signature h) 384) 0x1000 ++ bytesLE certs.length 4 ++ certs
        (0, s.modPf0 (fun p => { p with report := Mem.write [] 0 r }))))

/-- COMMAND_DONE: RESULT takes the result and BUSY clears (R331). [DEDUCED: log 61] -/
def execCommandDone (s : State) : Res :=
  .next (match s.pf0.busy with
    | none => s
    | some c => if c.done && decide (c.due ≤ s.clock) then s.modPf0 (fun p => { p with result := c.result, busy := none }) else s)

/-- Start a management command: it ends within its bound, never in the instant of the write. [DEDUCED: log 61] -/
def startCommand (s : State) (op v : Nat) : State :=
  if s.plat.held then s
  else if s.pf0.busy.isSome then s.modPf0 (fun p => { p with lost := true })
  else
    let bound := if op = 6 then 47000000 else 94000
    let c : Command := { op := op, vdev := v, due := s.clock + 1 + Config.commandTime s.draws % bound }
    let go (c : Command) : State := { s.modPf0 (fun p => { p with busy := some c }) with draws := s.draws + 1 }
    match op with
    | 1 => (go c).urgent (.create v)
    | 2 => (go c).urgent (.destroy v)
    | 3 => (go c).urgent (.setAccount v)
    | 4 => (go c).urgent (.writeProcessGroupEntry v)
    | 5 => (go c).urgent (.setTranslationRoot v)
    | 6 => (go c).urgent .attest
    | _ => go { c with result := 3, done := true }

/-! ## Registers (R266, R330, R391) -/

/-- PLIMIT clamps. -/
def plimitOf (value : W64) : Nat :=
  let n := bits value 0 13
  if n < 1000 then 1000 else Nat.min n 4800

/-- PLIMIT. -/
def execPlimit (value : W64) (s : State) : Res := .next (s.modPf0 (fun p => { p with plimit := plimitOf value }))

/-- The entry's fields let it leave Off (R266). -/
def ringOk (x : Queue) : Bool := (ptrTag x.ring == 0 || ptrTag x.ring == 4) && decide (x.log ≤ 12) && ptrAddr x.ring % (64 * x.slots) == 0

/-- A write of word 5 of a queue's entry: Idle, from Off or Stopped (R266, R392). -/
def writeState (s : State) (q : Nat) (value : W64) : State :=
  let s := seeQueue (wakeOwner s q) q
  let x := s.queue q
  if 128 ≤ q ∨ x.state.runs ∨ bits value 0 3 ≠ 1 then s
  else if !(ringOk x) then s.modQueue q (fun x => { x with state := .off, shadowS := .off })
  else
    let i := if x.spoilt then x.shadowR else x.ridx
    s.modQueue q (fun x => { x with ridx := i, shadowR := i, widx := i, shadowW := i, state := .idle, shadowS := .idle, spoilt := false, skip := 0,
                                    warm := [], fence := none, gated := false, replies := [], parked := none, deadline := none, waitPkt := [], save := none })

/-- QUEUE_STATE_WRITE. -/
def execQueueStateWrite (q : Nat) (value : W64) (s : State) : Res := .next (writeState s q value)

/-- A write of another word of a queue's entry: only while the queue is Off or Stopped. -/
def writeQueueWord (s : State) (q w : Nat) (value : W64) : State :=
  let s := seeQueue (wakeOwner s q) q
  if (s.queue q).state.runs then s
  else
    s.modQueue q (fun x =>
      match w with
      | 0 => { x with ring := value }
      | 1 => { x with vdev := bits value 24 4, log := bits value 16 4, cls := bits value 14 2, dev := bit value 13, prot := bit value 12,
                      pois := bit value 11, intr := bit value 10, vec := bits value 0 10 }
      | 2 => { x with rdptr := value }
      | 4 => { x with ridx := value.toNat, shadowR := if x.spoilt then x.shadowR else value.toNat }
      | _ => x)

/-! ## Error injection (R402, R403) -/

/-- The strand of a strand slot of a partition of a core: the live strands there in order of ply and strand number. -/
def slotStrand (s : State) (c part slot : Nat) : Option (Nat × Nat) :=
  ((s.pliesOn c).flatMap (fun p => (p.2.strands.filter (fun t => t.1 % 4 == part)).map (fun t => (p.1, t.1))))[slot]?

/-- Mark a register, entry or tile word of a ply. -/
def addBad (s : State) (p : Nat) (b : Bad) : State :=
  s.modPly p (fun y => { y with bad := y.bad.filter (fun x => !(x.strand == b.strand && x.kind == b.kind && x.reg == b.reg && x.sub == b.sub)) ++ [b] })

/-- Bits of a log entry turn: two are an error that a read of it detects, one is corrected then (R365, R371). -/
def hurtEntry (double inj : Bool) (e : LogEntry) : LogEntry :=
  { e with bad := e.bad || double, single := e.single || !double, injected := e.injected || inj }

/-- Bits of entry i of a core's log, or of its extension, turn; none where there is no entry. -/
def hurtLog (s : State) (c i : Nat) (ext double inj : Bool) : Option State :=
  (((s.core c).log.filter (fun e => e.ext == ext))[i]?).map (fun e =>
    s.modCore c (fun x => { x with log := x.log.map (fun g => if g.serial == e.serial then hurtEntry double inj g else g) }))

/-- Bits of granule i of a core's journal turn; none where there is no granule. -/
def hurtJournal (s : State) (c i : Nat) (double inj : Bool) : Option State :=
  (((s.pliesOn c).flatMap (fun p => p.2.journal.map (fun g => (p.1, g.1))))[i]?).map (fun x =>
    s.modPly x.1 (fun y => { y with journal := y.journal.map (fun j => if j.1 == x.2 then
      (j.1, { j.2 with bad := j.2.bad || double, single := j.2.single || !double, injected := j.2.injected || inj }) else j) }))

/-- Turn one bit of an array, or two adjacent ones, on core c; none when there is no such location. Parity finds an odd number of turned bits in
one of its words: the second of two adjacent bits lies beyond the word when the first is its last, in the other half of a vector register for bit 31. -/
def turnRegister (s : State) (kind c : Nat) (loc : W64) (double inj : Bool) : Option State :=
  let put (odd : Bool) (p k knd reg sub : Nat) (t : State) : State :=
    if odd then addBad t p { strand := k, kind := knd, reg := reg, sub := sub, unrec := false, injected := inj } else t
  if kind = 1 then
    match slotStrand s c (bits loc 11 2) (bits loc 19 3) with
    | none => none
    | some (p, k) =>
      let reg := bits loc 0 6
      let lane := bits loc 6 5
      let half := b2n (bit loc 13)
      let m : W64 := (if double then 3#64 else 1#64) <<< (32 * half + bits loc 14 5)
      if 8 * ((s.ply p).strand k).blocks ≤ reg then none
      else
        let t := s.modStrand p k (fun t => { t with v := Tab.set 0 t.v (32 * reg + lane) (Tab.get 0 t.v (32 * reg + lane) ^^^ m) })
        let last := bits loc 14 5 == 31
        some (put (double && last && half == 0) p k 0 reg (2 * lane + 1) (put (!double || last) p k 0 reg (2 * lane + half) t))
  else
    match slotStrand s c (bits loc 11 2) (bits loc 8 3) with
    | none => none
    | some (p, k) =>
      let n := bits loc 0 8
      let m : W64 := (if double then 3#64 else 1#64) <<< bits loc 13 6
      let m32 : W32 := (if double then 3#32 else 1#32) <<< (bits loc 13 6 % 32)
      let f := bits loc 22 2
      let t := (s.ply p).strand k
      let odd := !double || bits loc 13 6 == 63
      let mark (p k knd reg sub : Nat) (flip : State → State) : State := put odd p k knd reg sub (flip s)
      if n < 16 then
        if !(Tab.has t.frags f) then none
        else some (s.modFrag p k f (fun g => { g with bank := Tab.set 0 g.bank n (Tab.get 0 g.bank n ^^^ m)
                                                      marks := if odd then Tab.put n { unrec := false, injected := inj } g.marks else g.marks }))
      else if n < 192 then some (mark p k 1 n 0 (fun s => s.modStrand p k (fun t => { t with s := Tab.set 0 t.s n (Tab.get 0 t.s n ^^^ m) })))
      else if n < 208 then
        some (mark p k 2 (n - 192) 0 (fun s => s.modStrand p k (fun t => { t with trapBank := Tab.set 0 t.trapBank (n - 192) (Tab.get 0 t.trapBank (n - 192) ^^^ m) })))
      else if 224 ≤ n ∧ n < 240 then
        match Tab.find (n - 224) t.x with
        | none => none
        | some x =>
          let x := if bits loc 19 3 = 0 then { x with base := x.base ^^^ m } else if bits loc 19 3 = 1 then { x with limit := x.limit ^^^ m } else x
          some (mark p k 4 (n - 224) 0 (fun s => s.modStrand p k (fun t => { t with x := Tab.put (n - 224) x t.x })))
      else if 240 ≤ n ∧ n < 244 then
        if !(Tab.has t.frags (n - 240)) then none
        else some (mark p k 5 (n - 240) (fragKey t (n - 240)) (fun s => if bits loc 19 3 = 0 then s.modFrag p k (n - 240) (fun g => { g with pc := g.pc ^^^ m32 }) else s))
      else if n = 248 then some s
      else if 249 ≤ n then
        if 32 ≤ bits loc 13 6 then none
        else
          some (put (!double || bits loc 13 6 == 31) p k 3 (n - 248) 0
            (s.modStrand p k (fun t => { t with p := Tab.set 0 t.p (n - 248) (Tab.get 0 t.p (n - 248) ^^^ m32) })))
      else none

/-- A word of the tile store of a core: the ply that holds the tile, and its offset there (R26). -/
def tileWord (s : State) (c o : Nat) : Option (Nat × Nat) :=
  (s.pliesOn c).findSome? (fun p =>
    if p.2.tileBase * 65536 ≤ o ∧ o < (p.2.tileBase + p.2.ntile) * 65536 then some (p.1, o - p.2.tileBase * 65536) else none)

/-- Turn bits of a location named as in R402; none when it is out of range. Arrays under SECDED keep a flip until it is detected.
[DEDUCED: log 62; DESIGN CHOICE: log 63] -/
def turnBits (s : State) (kind d unit : Nat) (loc : W64) (double inj : Bool) : Option State :=
  let c := 36 * d + unit
  let coreIn := decide (d < 8) && decide (unit < 36)
  let flip : State := { s with flips := s.flips ++ [{ kind := kind, die := d, unit := unit, loc := loc, double := double, injected := inj }] }
  match kind with
  | 1 => if coreIn then turnRegister s 1 c loc double inj else none
  | 2 => if coreIn then turnRegister s 2 c loc double inj else none
  | 3 =>
    if !coreIn || decide (1048576 ≤ loc.toNat) then none
    else if !double then some flip
    else
      match tileWord s c loc.toNat with
      | some (p, o) => some (addBad s p { strand := 0, kind := 6, reg := o / 65536, sub := o % 65536 / 8, unrec := false, injected := inj })
      | none => some flip
  | 4 => if coreIn && decide (loc.toNat < Config.scratchBytes) then some flip else none
  | 5 => if paExists loc.toNat then some flip else none
  | 6 => if paExists loc.toNat then some flip else none
  | 7 => if loc.toNat < 2 ^ 34 then some flip else none
  | 8 =>
    if !coreIn || decide (1024 ≤ loc.toNat) then none else some ((hurtLog s c loc.toNat false double inj).getD flip)
  | 9 =>
    if !coreIn || decide (512 ≤ loc.toNat) then none else some ((hurtJournal s c loc.toNat double inj).getD flip)
  | 10 => if coreIn then some (s.modCore c (fun x => { x with resFp := true })) else none
  | 11 => if coreIn then some (s.modCore c (fun x => { x with resMx := true })) else none
  | 12 => if coreIn then some ((s.modCore c (fun x => { x with timing := if double then 2 else 1 })).later (.timingReplay c double)) else none
  | 13 =>
    match s.plat.links.find? (fun l => decide (l.port ≤ unit) && decide (2 * unit + bits loc 0 1 < 2 * l.port + l.width)) with
    | some l => if d = 8 + unit / 72 then some (if inj then flip.later (.linkRetrain l.port (2 * (unit - l.port) + bits loc 0 1)) else flip) else none
    | none => none
  | 14 =>
    if unit < 5 then some flip else none
  | 15 =>
    if unit < 128 then some flip else none
  | _ => none

/-- The device to which a location belongs. -/
def ownerOf (s : State) (kind d unit : Nat) (loc : W64) : Option Nat :=
  (s.vdevs.find? (fun v => v.2.exist &&
    (if kind = 5 ∨ kind = 6 then
       decide (v.2.hbmbase * 2 ^ 30 ≤ paLin loc.toNat) && decide (paLin loc.toNat < (v.2.hbmbase + v.2.hbmsize) * 2 ^ 30)
     else if kind = 7 then decide (v.2.wsbase * 2 ^ 26 ≤ loc.toNat) && decide (loc.toNat < (v.2.wsbase + v.2.wssize) * 2 ^ 26)
     else if kind = 13 ∨ kind = 14 then false
     else if kind = 15 then v.2.ownsQueue unit
     else v.2.bays.contains (coreBay (36 * d + unit))))).map (·.1)

/-- A write of INJB: its fields, FIRED cleared by a 1, and with ARM the injection; one that R403 refuses changes nothing. RECNO and FIRED stay until
the injection fires. -/
def writeInjb (s : State) (value : W64) : State :=
  let kind := bits value 8 4
  let d := bits value 12 4
  let u := bits value 16 8
  let t := s.modPf0 (fun p => { p with unit := u, die := d, kind := kind, double := bit value 1, fired := p.fired && !(bit value 2) })
  if !(bit value 0) then t
  else
    let hidden := match ownerOf s kind d u s.pf0.inja with
      | some v => (s.vdev v).secure
      | none => false
    if hidden || s.pf0.arm then s else (turnBits (t.modPf0 (fun p => { p with arm := true })) kind d u s.pf0.inja (bit value 1) true).getD s

/-- INJECTION_ARM. -/
def execInjectionArm (value : W64) (s : State) : Res := .next (writeInjb s (value ||| 1))

/-! ## The register window -/

/-- A write of an n64 to the window of PF0; offsets without a register ignore it (R330, R391). -/
def writeRegister (s : State) (off : Nat) (value : W64) : State :=
  if off = 0x08 then s.modPf0 (fun p => { p with faddr := BitVec.ofNat 16 (bits value 0 16) })
  else if off = 0x10 then startCommand s (bits value 0 4) (bits value 4 4)
  else if off = 0x18 then s.modPf0 (fun p => { p with lost := p.lost && !(bit value 2) })
  else if off = 0x20 then s.modPf0 (fun p => { p with plimit := plimitOf value })
  else if off = 0x30 then s.modPf0 (fun p => { p with inja := value })
  else if off = 0x38 then writeInjb s value
  else if off = 0x40 then s.modPf0 (fun p => { p with rwbase := bits value 30 34, rwvdev := bits value 0 4 })
  else if 0x100 ≤ off ∧ off < 0x180 ∧ off % 8 = 0 then s.modPf0 (fun p => { p with buf := Mem.write p.buf (off - 0x100) (bytesLE value.toNat 8) })
  else if 0x2000 ≤ off ∧ off < 0x4000 ∧ off % 8 = 0 then
    let q := (off - 0x2000) / 64
    let w := (off - 0x2000) % 64 / 8
    if w = 5 then writeState s q value else writeQueueWord s q w value
  else s

/-- REGISTER_WRITE. -/
def execRegisterWrite (off : Nat) (value : W64) (s : State) : Res := .next (writeRegister s off value)

/-- States of a queue by code. -/
def QState.code (t : QState) : Nat :=
  match t with
  | .off => 0
  | .idle => 1
  | .ready => 2
  | .held => 3
  | .parked => 4
  | .stopped => 5

/-- A word of a queue's entry as it reads. -/
def readQueueWord (x : Queue) (w : Nat) : W64 :=
  match w with
  | 0 => x.ring
  | 1 => w64 (x.vdev * 2 ^ 24 + x.log * 2 ^ 16 + x.cls * 2 ^ 14 + b2n x.dev * 2 ^ 13 + b2n x.prot * 2 ^ 12 + b2n x.pois * 2 ^ 11 +
      b2n x.intr * 2 ^ 10 + x.vec)
  | 2 => x.rdptr
  | 3 => w64 x.widx
  | 4 => w64 x.ridx
  | 5 => w64 (x.err * 256 + x.state.code)
  | _ => 0

/-- What an aligned n64 of the window reads; write-only and unlisted places read 0. -/
def readRegister (s : State) (off : Nat) : W64 :=
  let p := s.pf0
  if off = 0 then 0xB19A
  else if off = 0x08 then zext64 p.faddr
  else if off = 0x18 then w64 (p.result * 256 + 4 * b2n p.lost + b2n p.busy.isSome)
  else if off = 0x20 then w64 p.plimit
  else if off = 0x28 then zext64 p.precw
  else if off = 0x30 then p.inja
  else if off = 0x38 then
    w64 (p.recno.toNat * 2 ^ 32 + p.unit * 2 ^ 16 + p.die * 2 ^ 12 + p.kind * 2 ^ 8 + 4 * b2n p.fired + 2 * b2n p.double + b2n p.arm)
  else if off = 0x40 then w64 (p.rwbase * 2 ^ 30 + p.rwvdev)
  else if 0x100 ≤ off ∧ off < 0x180 then w64 (natLE (Mem.read p.buf (off - 0x100) 8))
  else if 0x400 ≤ off ∧ off < 0x480 then (s.vdev ((off - 0x400) / 8)).energy
  else if 0x800 ≤ off ∧ off < 0x1000 then w64 (natLE (Mem.read p.ring (off - 0x800) 8))
  else if 0x1800 ≤ off ∧ off < 0x2000 then Tab.get 0 p.remap ((off - 0x1800) / 8)
  else if 0x2000 ≤ off ∧ off < 0x4000 then readQueueWord (s.queue ((off - 0x2000) / 64)) ((off - 0x2000) % 64 / 8)
  else if 0x4000 ≤ off ∧ off < 0x6000 then w64 (natLE (Mem.read p.report (off - 0x4000) 8))
  else 0

/-! ## Inbound accesses to device memory (R249, R286, R332) -/

/-- An ordinary inbound write at the homes: signals in its bytes on which a queue is parked are re-tested. -/
def inboundWrite (s : State) (pa : Nat) (b : Bytes) : State :=
  let s := homeWrite s pa b
  let hit := s.queues.filterMap (fun q => match q.2.parked with
    | some a => if q.2.state == .parked && decide (pa < a.toNat + 8) && decide (a.toNat < pa + b.length) then some a.toNat else none
    | none => none)
  hit.dedup.foldl (fun s a => retestSignal s a (natLE (homeRead s a 8))) s

/-- Bytes at the homes as an inbound read gets them: each sector is touched once. -/
def inboundRead (s : State) (pa n : Nat) : Bytes × State :=
  let t := (upFrom (pa / 128) ((pa % 128 + n + 127) / 128)).foldl (fun s sec => homeTouch s (sec * 128) 0) s
  (homeRead t pa n, t)

/-- A sector at the head of one of the two rings of a reserved region, where only the READ field is the host's: WRITE is the device's, and bytes
0x10 to 0xFFF are zero (R375, R389). -/
def ownedSector (o : Nat) : Bool := o / 4096 == 0 || o / 4096 == 0x80000 / 4096

/-- Write bytes of a region from an offset on, sector by sector (a sector of the region is one of memory); bytes that are not the host's are skipped. -/
def regionWrite (s : State) (v o : Nat) (b : Bytes) : Nat → State
  | 0 => s
  | fuel + 1 =>
    if b = [] then s
    else
      let n := 128 - o % 128
      let put (s : State) (x : Nat × Byte) : State := if (o + x.1) % 0x80000 < 8 ∨ 16 ≤ (o + x.1) % 0x80000 then s else inboundWrite s ((s.vdev v).rsvPa (o + x.1)) [x.2]
      let t := if ownedSector o then ((upFrom 0 (Nat.min n b.length)).zip b).foldl put s else inboundWrite s ((s.vdev v).rsvPa o) (b.take n)
      regionWrite t v (o + n) (b.drop n) fuel

/-- Bytes that a management read gets of a region from an offset on: where a saved context lies, the device's own bytes (R49, R302). [DESIGN CHOICE:
log 73] -/
def overContext (s : State) (v o : Nat) (b : Bytes) : Bytes :=
  let n := (s.vdev v).saves
  if n = 0 then b
  else (b.zip (upFrom o b.length)).map (fun x => if x.2 < 0xC1000 then x.1 else (Config.contextByte v n x.2).getD x.1)

/-- Read n bytes of a region from an offset on, sector by sector. -/
def regionRead (s : State) (v o n : Nat) : Nat → Bytes × State
  | 0 => ([], s)
  | fuel + 1 =>
    if n = 0 then ([], s)
    else
      let m := Nat.min n (128 - o % 128)
      let r := inboundRead s ((s.vdev v).rsvPa o) m
      let q := regionRead r.2 v (o + m) (n - m) fuel
      (r.1 ++ q.1, q.2)

/-- APERTURE_ACCESS: the reserved region of RWVDEV from RWBASE x 2^30 on, as the register stood when the access came (R332); one that has been held
for a wake names that region itself. -/
def execApertureAccess (wr : Bool) (off : AperturePlace) (len : Nat) (data : Bytes) (s : State) : Res :=
  .next (
    let v := (off.region.getD (s.pf0.rwvdev, s.pf0.rwbase)).1
    let base := (off.region.getD (s.pf0.rwvdev, s.pf0.rwbase)).2
    let d := s.vdev v
    let o := base * 2 ^ 30 + off.off
    let n := if wr then data.length else len
    if !d.exist || d.secure || decide (2 ^ 30 < off.off + n) || decide (d.rsvBytes < o + n) then
      let s := writePackageRecord s { severity := 0, cls := 11, cause := 8 } (some v)
      if wr then s else s.send (.completerAbort false)
    else
      match holdInbound s v (.apertureAccess wr ⟨off.off, some (v, base)⟩ len data) with
      | some t => t
      | none =>
        if wr then flushFaults (regionWrite s v o data (n / 128 + 2)) v
        else
          let r := regionRead s v o n (n / 128 + 2)
          r.2.send (.readReply false (overContext r.2 v o r.1)))

/-! ## Package reset (R342) -/

/-- A remap entry of a kind: its die, its place and its spare. -/
def remapOf (kind : Nat) (e : W64) : Option (Nat × Nat × Nat) :=
  if bits e 60 4 = kind then some (bits e 56 4, bits e 32 24, bits e 8 24) else none

/-- The remap entries of a kind. -/
def remaps (t : Tab W64) (kind : Nat) : List (Nat × Nat × Nat) := t.filterMap (fun e => remapOf kind e.2)

/-- A core as the remap table leaves it: retired when an entry says that no spare covers it (R8, R400). The table does not say on which core a lane
was replaced, which the management controller keeps beside it. [DESIGN CHOICE: log 9] -/
def resetCore (t : Tab W64) (c : Nat) (old : Core) : Core :=
  { lanesUsed := old.lanesUsed, retired := (remaps t 1).contains (coreDie c, physCore t (coreDie c) (coreNum c), noSpare) }

/-- The spares of a die as the remap table leaves them. -/
def resetDie (t : Tab W64) (d : Nat) : Die :=
  let ways := (remaps t 3).filter (fun x => x.1 == d)
  { sparesUsed := ((remaps t 1).filter (fun x => x.1 == d && x.2.2 != noSpare)).length
    wayUsed := (ways.filter (fun x => x.2.2 != noSpare)).map (fun x => x.2.1 / 32)
    waysLost := (ways.filter (fun x => x.2.2 == noSpare)).foldl (fun m x => Tab.put (x.2.1 / 32) (Nat.min 31 (Tab.get 0 m (x.2.1 / 32) + 1)) m) [] }

/-- PACKAGE_RESET: everything is as after reset; what has been sent out, the schedule of outside events and the draws go on, and the stored
remap table with the spares that stand in is applied again, its pending rows with it. An image that does not verify keeps the package held, with
RESULT 4 (R338). [DESIGN CHOICE: log 2, 9] -/
def execPackageReset (s : State) : Res :=
  .next (
    let r := State.reset
    let m : Tab W64 := s.pf0.remap.map (fun e => (e.1, e.2 &&& ~~~2#64))
    let t : State := { r with
      inputs := s.inputs
      draws := s.draws
      fresh := s.fresh
      cores := ((upFrom 0 288).map (fun c => (c, resetCore m c (s.core c)))).filter (fun c => c.2 ≠ {})
      dies := ((upFrom 0 8).map (fun d => (d, resetDie m d))).filter (fun d => d.2 ≠ {})
      pf0 := { r.pf0 with remap := m }
      plat := { r.plat with out := s.plat.out, links := trainedLinks m, spareUsed := remaps m 7 != [] } }
    if Config.imagesVerify then t
    else (t.modPf0 (fun p => { p with result := 4 })).modPlat (fun p => { p with held := true }))

end Sys2Proof.Machine
end

