-- ==== Sys2Proof/Machine/Inbound.lean ====
section
/-! DEFINITION. What comes in from the host ports and the fabric: BAR2 and host accesses (R249, R327), answers and invalidations of the host
(R262, R264, R380), peers' requests and responses (R201, R335), links (R395 to R398) and PCIe configuration. -/
namespace Sys2Proof.Machine

/-! ## BAR2 and host accesses -/

/-- Pieces of n bytes from a virtual address by 4-KiB page, each with its physical address; none when one is refused. The walks read their
buckets at the homes (R256). -/
def inboundPieces (s : State) (v va kind o n : Nat) : Nat → Option (List (Nat × Nat × Nat)) × State
  | 0 => (some [], s)
  | fuel + 1 =>
    if n = 0 then (some [], s)
    else
      let m := Nat.min n (4096 - (va + o) % 4096)
      let a := (va + o) % 2 ^ 57
      let t := walkTouch s v a
      match translateWalk t v a kind with
      | .ok p => let r := inboundPieces t v va kind (o + m) (n - m) fuel; (r.1.map (fun l => (p.phys a, o, m) :: l), r.2)
      | _ => (none, t)

/-- Read or write pieces at the homes. -/
def readPieces (s : State) (l : List (Nat × Nat × Nat)) : Bytes × State :=
  l.foldl (fun r x => let q := inboundRead r.2 x.1 x.2.2; (r.1 ++ q.1, q.2)) ([], s)
def writePieces (s : State) (l : List (Nat × Nat × Nat)) (b : Bytes) : State :=
  l.foldl (fun s x => inboundWrite s x.1 ((b.drop x.2.1).take x.2.2)) s

/-- VF_BAR2_ACCESS: a tag-0 access to the virtual address of the offset (R327, R337, R405). -/
def execVfBar2Access (vf : PortNum) (ide wr : Bool) (off len : Nat) (data : Bytes) (s : State) : Res :=
  .next (
    let v := vf.num - 1
    let d := s.vdev v
    let n := if wr then data.length else len
    let abort (t : State) : State := if wr then t else t.send (.completerAbort vf.port)
    if onlyPf0 s then s
    else if vf.num = 0 ∨ !d.exist ∨ d.stopped then abort s
    else if d.secure && !ide then (if wr then s else s.send (.unsupported vf.port))
    else
      match holdInbound s v (.vfBar2Access vf ide wr off len data) with
      | some t => t
      | none =>
        match (if 2 ^ 40 < off + n then (none, s) else inboundPieces s v off (b2n wr) 0 n (n / 4096 + 2)) with
        | (none, t) => abort (writeRecord t { severity := 0, cls := 7, cause := 9, vdev := v, address := w64 off })
        | (some l, t) =>
          if wr then writePieces t l data
          else
            let r := readPieces t l
            r.2.send (.readReply vf.port r.1))

/-- HOST_WRITE: an inbound write is performed at the homes in the order in which the port receives it. -/
def execHostWrite (v pa : Nat) (data : Bytes) (s : State) : Res :=
  .next (if onlyPf0 s then s
    else match holdInbound s v (.hostWrite v pa data) with
    | some t => t
    | none => if (upFrom pa data.length).all paExists then inboundWrite s pa data else s)

/-- HOST_READ: an inbound read reads the homes. -/
def execHostRead (v : PortNum) (pa len : Nat) (s : State) : Res :=
  .next (if onlyPf0 s then s
    else match holdInbound s v.num (.hostRead v pa len) with
    | some t => t
    | none =>
      if (upFrom pa len).all paExists then
        let r := inboundRead s pa len
        r.2.send (.readReply v.port r.1)
      else s.send (.completerAbort v.port))

/-! ## Answers of the host (R264) -/

/-- Give an answer to whoever waits for it; a translation register whose page is denied has no window (R259). -/
def giveReply (s : State) (w : Who) (r : Reply) : State :=
  match w with
  | .frag p k f => if s.liveFrag p k f then s.modFrag p k f (fun x => { x with replies := x.replies ++ [r] }) else s
  | .xfer id => s.modXfer id (fun x => { x with replies := x.replies ++ [r] })
  | .queue q => s.modQueue q (fun x => { x with replies := x.replies ++ [r] })
  | .bind p k =>
    match r with
    | .atsDenied _ page _ =>
      if s.livePly p then
        s.modStrand p k (fun t => { t with x := t.x.map (fun x => (x.1, if bits x.2.base 0 57 / 4096 = page then { x.2 with pending := false } else x.2)) })
      else s
    | _ => s

/-- The page of an ATS Translation Completion: bits [63:12] the translated address, [11] S, [1] W, [0] R; with S set the lowest clear address
bit gives the size. A larger page than 128 MiB is cached as the 128-MiB page around the address (R264). [PRESUMED: log 54] -/
def atsPageOf (vdev pasid page : Nat) (w : W64) : Page :=
  let k := if bit w 11 then Nat.min 15 (1 + ctz (~~~(w >>> 12))) else 0
  let va := page * 4096
  let big := 4096 * 2 ^ (if bit w 11 then 1 + ctz (~~~(w >>> 12)) else 0)
  let frame := w.toNat / 4096 * 4096 / big * big + va % big / pageBytes k * pageBytes k
  { vdev := vdev, host := true, pasid := pasid, vbase := va / pageBytes k * pageBytes k, k := k, frame := frame, r := bit w 0, w := bit w 1,
    a := bit w 0 && bit w 1 }

/-- Remove a request. -/
def dropReq (s : State) (id : Nat) : State := s.modPlat (fun p => { p with reqs := p.reqs.filter (fun r => r.id != id) })

/-- HOST_COMPLETION: the answer to an ATS request, a read, a flushing read or an AtomicOp; status 0 is success.
[DESIGN CHOICE: log 39, 55; PRESUMED: log 54] -/
def execHostCompletion (id status : Nat) (data : Bytes) (s : State) : Res :=
  .next (match s.plat.reqs.find? (fun r => r.id == id) with
    | none => s
    | some r =>
      match r.ask with
      | .ats pasid page kind =>
        let g := atsPageOf r.vdev pasid page (w64 (natLE (data.take 8)))
        let s := dropReq s id
        if status = 0 ∧ pagePermits g kind then
          match r.who, whoCore s r.who with
          | .queue _, _ => giveReply s r.who (.atsPage g)
          | .bind p _, some c => rebind (tlbFill s c g) p (·.pending)
          | _, some c => tlbFill s c g
          | _, none => s
        else giveReply s r.who (.atsDenied pasid page kind)
      | .hostRead pa => giveReply (dropReq s id) r.who (if status = 0 then .hostSector id pa (fitOf data 128) else .hostLost pa)
      | .flush n => (dropReq s id).modPlat (fun p => { p with hostDone := Nat.max p.hostDone n })
      | .ratom x => s.later (.ratomReply x (w64 (natLE (data.take 8))) (if status = 0 then 0 else 3))
      | _ => s)
where
  fitOf (b : Bytes) (n : Nat) : Bytes := (b ++ bytesLE 0 n).take n

/-- Send the completion of every ATS invalidation that waits for nothing more (R262, R264). -/
def endInvals (s : State) : State :=
  (s.plat.invals.filter (fun i => i.before.met s)).foldl (fun s i =>
    (s.send (.atsDone i.tag)).modPlat (fun p => { p with invals := p.invals.erase i })) s

/-- ATS_INVALIDATE_REQUEST: R262 for the PASID and range of every device that uses it; the completion follows when all that was translated before it
has been performed. After a package stop only PF0 answers (R405). -/
def execAtsInvalidateRequest (tag pasid : Nat) (va : W64) (size : Nat) (s : State) : Res :=
  .next (if onlyPf0 s then s else
    let lo := bits va 0 57 / 4096 * 4096
    let hi := roundUp (bits va 0 57 + size) 4096
    let r := (upFrom 0 16).foldl (fun (r : State × Before) v =>
      if (r.1.vdev v).exist then
        let t := invalidate r.1 v true pasid lo hi
        let b := beforeNow t v true pasid lo hi
        (t, { reqs := r.2.reqs ++ b.reqs, entries := r.2.entries ++ b.entries })
      else r) (s, { reqs := [], entries := [] })
    endInvals (r.1.modPlat (fun p => { p with invals := p.invals ++ [{ tag := tag, before := r.2 }] })))

/-- PRG_RESPONSE_SUCCESS: the group's pages are translated afresh and its fragment or transfer goes on (R380). -/
def execPrgResponseSuccess (group : Nat) (s : State) : Res :=
  .next (match s.plat.groups.find? (fun g => g.id == group && g.sent) with
    | none => s
    | some g =>
      let s := s.modPlat (fun p => { p with groups := p.groups.filter (fun h => h.id != group) })
      let s := g.pages.foldl (fun s a => dropTlb s g.vdev true (s.vdev g.vdev).pasid (a * 4096) (a * 4096 + 4096)) s
      sendGroups (resumeWho s g.who))

/-- PRG_RESPONSE_INVALID: the lanes or the chunk go to the fault queue (R380). -/
def execPrgResponseInvalid (group : Nat) (s : State) : Res :=
  .next (match s.plat.groups.find? (fun g => g.id == group && g.sent) with
    | none => s
    | some g => sendGroups (groupToQueue s g))

/-- PRG_RESPONSE_FAILURE: every outstanding request of the function goes to the fault queue, and its page requests stop (R380). -/
def execPrgResponseFailure (fn : Nat) (s : State) : Res :=
  .next (
    let s := (s.plat.groups.filter (fun g => g.fn == fn)).foldl groupToQueue s
    s.modPlat (fun p => { p with fns := Tab.set {} p.fns fn { Tab.get {} p.fns fn with priDead := true } }))

/-- CONFIGURATION_REQUEST: item 0 is VF Enable of a VF, item 1 the PRI Enable bit of a function; setting it after clearing it lets page
requests go again (R380). [PRESUMED: log 11] -/
def execConfigurationRequest (fn item : Nat) (value : W64) (s : State) : Res :=
  .next (
    let f := Tab.get {} s.plat.fns fn
    let g : Fn := match item with
      | 0 => { f with enabled := bit value 0 }
      | 1 => { f with pri := bit value 0, priDead := f.priDead && (f.pri || !(bit value 0)) }
      | _ => f
    if fn ≤ 16 then s.modPlat (fun p => { p with fns := Tab.set {} p.fns fn g }) else s)

/-! ## The fabric (R335) -/

/-- Statuses of an answer from a peer. -/
def peerOk : Nat := 0
def peerPoison : Nat := 1
def peerLost : Nat := 2
def peerRefuses : Nat := 3

/-- The cells of a peer's store entries: offset in the request, value and mask of each byte. -/
def peerCells (b : Bytes) : Nat → Tab (Byte × Byte)
  | 0 => []
  | n + 1 => if b.length < 3 then [] else ((b.getD 0 0).toNat, (b.getD 1 0, b.getD 2 0)) :: peerCells (b.drop 3) n

/-- PEER_REQUEST: a tag-5 request is checked against the window that the device exports, then performed at the homes. Kind 0 load, 1 the
store entries of one sector or of two (bit i of op: sector i is poisoned, R415), 2 remote atomic, 3 counter add. Its policy holds at this package's homes (R64). A request of this package to its own window, held
while the device slept, is answered here. [DESIGN CHOICE: log 46; DEDUCED: log 47] -/
def execPeerRequest (src dst v req kind : Nat) (off : WindowPlace) (len op : Nat) (data : Bytes) (s : State) : Res :=
  .next (
    let d := s.vdev v
    let answer (t : State) (st : Nat) (b : Bytes) : State :=
      if src = s.pf0.faddr.toNat then t.later (.peerResponse req st b) else t.send (.peerReply src req st b)
    if onlyPf0 s then s
    else if s.pf0.faddr == 0xFFFF || dst != s.pf0.faddr.toNat then answer s peerLost []
    else
      match holdInbound s v (.peerRequest src dst v req kind off len op data) with
      | some t => t
      | none =>
        let va := (ptrAddr d.xbase + off.off) % 2 ^ 57
        if !d.exist || d.stopped || decide (d.xbytes.toNat < off.off + len) then answer s peerRefuses []
        else
          let w := walkTouch s v va
          match translateWalk w v va (if kind = 0 then 0 else if kind = 2 then 2 else 1) with
          | .ok p =>
            let pa := p.phys va
            let t := homeTouch w pa off.policy
            match kind with
            | 0 => answer t (if homePoisoned t (pa / 128) then peerPoison else peerOk) (homeRead t pa len)
            | 1 =>
              let cells := peerCells data data.length
              answer ((upFrom 0 (len / 128)).foldl (fun t i =>
                homeDrain t (pa / 128 + i) off.policy ((cells.filter (fun x => x.1 / 128 == i)).map (fun x => (x.1 % 128, x.2))) (op.testBit i)) t) peerOk []
            | 2 =>
              let n := amoBytes op
              let old := natLE (homeRead t pa n)
              answer (homeWriteIn t pa off.policy (bytesLE (amoNew op old (fieldAt data 0 8) (fieldAt data 8 8)) n)) peerOk (bytesLE old 8)
            | _ => answer (addHomeAs t pa (fieldAt data 0 8) off.policy) peerOk []
          | _ => answer w peerRefuses [])

/-- A request of the command complex. -/
def ofQueue (r : Req) : Bool :=
  match r.who with
  | .queue _ => true
  | _ => false

/-- PEER_RESPONSE: data or a refusal for a load, the acknowledgement or the fate of a store entry, the answer of a remote atomic.
[DESIGN CHOICE: log 46] -/
def execPeerResponse (id status : Nat) (data : Bytes) (s : State) : Res :=
  .next (match s.plat.reqs.find? (fun r => r.id == id) with
    | none => s
    | some r =>
      match r.ask with
      | .peerLoad rank off _ =>
        giveReply (dropReq s id) r.who
          (if status = peerOk then .peerData rank off data false
           else if status = peerPoison then .peerData rank off data true
           else if status = peerLost then .peerUnreachable rank off
           else .peerRefused rank off)
      | .peerStore _ p own =>
        if status = peerOk then dropReq s id
        else if ofQueue r then giveReply (dropReq s id) r.who .storeLost
        else if status = peerLost then lostStore (dropReq s id) p own
        else refusedStore (dropReq s id) p own
      | .ratom x => s.later (.ratomReply x (w64 (natLE (data.take 8))) (if status = peerOk then 0 else if status = peerLost then 2 else 3))
      | _ => s)

/-- PEER_LOAD_TIMEOUT: after 65,536 clocks the lane takes unreachable. -/
def execPeerLoadTimeout (id : Nat) (s : State) : Res :=
  .next (match s.plat.reqs.find? (fun r => r.id == id) with
    | none => s
    | some r =>
      match r.ask with
      | .peerLoad rank off _ =>
        if s.clock < r.clock + 65536 then s else giveReply (dropReq s id) r.who (.peerUnreachable rank off)
      | _ => s)

/-! ## Links (R395 to R398, R401) -/

def modLink (s : State) (port : Nat) (f : Link → Link) : State :=
  s.modPlat (fun p => { p with links := p.links.map (fun l => if l.port == port then f l else l) })

/-- A record about a link in the package ring: its detail names the lane concerned, 2 x port + lane, or is 0 (R415). -/
def linkRecord (s : State) (detail cause : Nat) : State := writePackageRecord s { severity := 0, cls := 10, cause := cause, detail := detail }

/-- Lane n of the link whose first port is f, as records and remap entries number it: lane n mod 2 of port f + n / 2 (R401, R415). -/
def laneName (port lane : Nat) : Nat := 2 * port + lane

/-- LINK_REPLAY: a flit is sent again; 16 times in a row, or 1,024 replays in 2^20 clocks, retrain the link. Whether it is the flit of the
last replay is the link's own. [DESIGN CHOICE: log 56] -/
def execLinkReplay (port : Nat) (s : State) : Res :=
  .next (match s.plat.links.find? (fun l => l.port == port && l.up) with
    | none => s
    | some l =>
      let same := Config.choice 2 s.draws % 2 == 0
      let row := if same then l.inRow + 1 else 1
      let reps := (l.replays.filter (fun c => decide (s.clock < c + 2 ^ 20))) ++ [s.clock]
      let s := { modLink s port (fun l => { l with inRow := row, replays := reps }) with draws := s.draws + 1 }
      let s := s.modPlat (fun p => { p with flits := p.flits + 1 })
      if 16 ≤ row ∨ 1024 ≤ reps.length then s.later (.linkRetrain port 255) else s)

/-- The half of the lanes in use that does not hold a lane. -/
def otherHalf (lanes : List Nat) (lane : Nat) : List Nat :=
  let h := lanes.length / 2
  if (lanes.take h).contains lane then lanes.drop h else lanes.take h

/-- A flip that stands for lane n of a link that has failed (R402 kind 13). -/
def laneFlip (l : Link) (lane : Nat) (f : Flip) : Bool := f.kind == 13 && 2 * f.unit + bits f.loc 0 1 == laneName l.port lane

/-- The lane that the test of a retrain finds: the one that the event names, else one in use that has failed. -/
def failedLane (s : State) (l : Link) (lane : Nat) : Nat :=
  if l.lanes.contains lane then lane else (l.lanes.find? (fun n => s.flips.any (laneFlip l n))).getD lane

/-- LINK_RETRAIN: each lane is tested; the link goes on with the half without the failed lane (none failed when it is not in use); a link of one
lane that fails goes down (R395, R396, R398). [DESIGN CHOICE: log 46] -/
def execLinkRetrain (port lane : Nat) (s : State) : Res :=
  .next (match s.plat.links.find? (fun l => l.port == port && l.up) with
    | none => s
    | some l =>
      let lane := failedLane s l lane
      let s := ((takeFlip s (laneFlip l lane) (fun _ => (10, if l.lanes.length ≤ 1 then 4 else 2))).map (·.2)).getD s
      let s := modLink s port (fun l => { l with inRow := 0, replays := [] })
      if !(l.lanes.contains lane) then linkRecord s 0 2
      else if l.lanes.length ≤ 1 then (modLink s port (fun l => { l with dead := true, steps := (l.lanes, lane, s.clock) :: l.steps })).urgent (.linkDown port)
      else linkRecord (modLink s port (fun l => { l with lanes := otherHalf l.lanes lane, steps := (l.lanes, lane, s.clock) :: l.steps })) (laneName port lane) 2)

/-- Spare lanes of a bundle group in use. -/
def groupSpares (s : State) (port : Nat) : Nat := s.plat.links.foldl (fun n l => if l.port / 8 = port / 8 then n + l.spares else n) 0

/-- A spare takes the place of the lane of the latest narrowing, when one is free. -/
def takeSpare (s : State) (l : Link) : Option State :=
  match l.steps with
  | [] => none
  | (lanes, lane, _) :: rest =>
    if 2 ≤ groupSpares s l.port then none
    else
      let r := addRemap s 6 (8 + l.port / 72) (laneName l.port lane) (groupSpares s l.port)
      if !r.2 then none
      else some (writePackageRecord (linkRecord (modLink r.1 l.port (fun l => { l with lanes := lanes, steps := rest, spares := l.spares + 1 })) (laneName l.port lane) 3) { severity := 0, cls := 11, cause := 1 })

/-- SPARE_LANE_RETRAIN: one second after a narrowing (R397). -/
def execSpareLaneRetrain (port : Nat) (s : State) : Res :=
  .next (match s.plat.links.find? (fun l => l.port == port && l.up) with
    | none => s
    | some l =>
      match l.steps with
      | (_, _, c) :: _ => if s.clock < c + 940000000 then s else (takeSpare s l).getD s
      | [] => s)

/-- LINK_DOWN: its route entries go, and what is in flight on it ends (R398). -/
def execLinkDown (port : Nat) (s : State) : Res :=
  .next (match s.plat.links.find? (fun l => l.port == port && l.up) with
    | none => s
    | some l =>
      let lost := (s.plat.routes.filter (fun r => r.2 == some port)).map (·.1)
      let s := modLink s port (fun l => { l with up := false, since := s.clock, lost := lost })
      let s := s.modPlat (fun p => { p with routes := p.routes.filter (fun r => r.2 != some port) })
      let s := linkRecord s (match l.dead, l.steps with
        | true, x :: _ => laneName port x.2.1
        | _, _ => 0) 4
      let s := (s.plat.reqs.filter (fun r => r.link == some port)).foldl (fun s r =>
        match r.ask with
        | .peerLoad rank off _ => giveReply (dropReq s r.id) r.who (.peerUnreachable rank off)
        | .peerStore _ p own => if ofQueue r then giveReply (dropReq s r.id) r.who .storeLost else lostStore (dropReq s r.id) p own
        | .ratom x => s.later (.ratomReply x 0 2)
        | _ => s) s
      s.plat.colls.foldl (fun s c =>
        match s.xfer c.xfer with
        | some x => if (upFrom 0 (xReel s x).nrank).all (rankReached s x) then s else s.later (.collectiveLoss c.id)
        | none => s) s)

/-- DOWN_LINK_RETRAIN: every 9,400,000 clocks; ok says that the far side trains. A link whose only lane failed needs a spare (R398). -/
def execDownLinkRetrain (port : Nat) (ok : Bool) (s : State) : Res :=
  .next (match s.plat.links.find? (fun l => l.port == port && !l.up) with
    | none => s
    | some l =>
      if s.clock < l.since + 9400000 then s
      else
        let s := modLink s port (fun l => { l with since := s.clock })
        let back (t : State) : State :=
          (modLink t port (fun l => { l with up := true, dead := false, lost := [], inRow := 0, replays := [] })).modPlat
            (fun p => { p with routes := l.lost.foldl (fun r i => Tab.put i (some port) r) p.routes })
        if !ok then s
        else if l.dead then
          match takeSpare s l with
          | some t => back t
          | none => s
        else linkRecord (back s) 0 2)

end Sys2Proof.Machine
end

