-- ==== Sys2Proof/Machine/Recovery.lean ====
section
/-! DEFINITION. Detection and recovery (R347 to R360, R365, R392 to R394, R400, R403): timing replays, consumed errors, soft errors, corrected
counts, lost queue entries, substitutions; drains and reservations that end (R138, R238). -/
namespace Sys2Proof.Machine

/-- LOG_DRAIN: an ordinary entry of a core is performed, after everything that must be performed before it (R238). -/
def execLogDrain (core serial : Nat) (s : State) : Res := .next (drainEntry s core serial)

/-- RESERVATION_EXPIRY: 16,384 clocks after the SLR.D the reservation is lost (R138). -/
def execReservationExpiry (p k f : Nat) (s : State) : Res :=
  .next (match (s.fragOf p k f).resv with
    | some r => if s.clock < r.clock + 16384 then s else s.modFrag p k f (fun x => { x with resv := none })
    | none => s)

/-- TIMING_REPLAY: the cycle is repeated at half clock and gives no issue opportunity; when the detector fires again what the core issues in the
clock after it takes a datapath error (R348, R349). [DEDUCED: log 65] -/
def execTimingReplay (core : Nat) (again : Bool) (s : State) : Res :=
  .next (
    let inj := (s.core core).timing != 0
    let s := s.modCore core (fun c => { c with timing := 0, stall := s.clock + 2, counts := { c.counts with timing := c.counts.timing + 1 } })
    let s := if inj then fireInjection s (if again then 1 else 3) (if again then 3 else 1) else s
    if again then s.modCore core (fun c => { c with late := some (s.clock + 2) }) else s)

/-- ROLLBACK: an error of a ply has been found, in an entry or a request of its maker; in a protected interval it
returns to its last commit, else it is contained (R352, R354). -/
def execRollback (p : Maker) (cls cause : Nat) (lanes : W32) (addr : W64) (s : State) : Res :=
  .next (consumeError s p.ply { cls := cls, cause := cause, lanes := lanes, addr := addr, strand := p.strand, frag := p.frag, away := true })

/-- CONTAINMENT: a ply is killed with its record (R358). -/
def execContainment (p : Maker) (cls cause : Nat) (lanes : W32) (addr : W64) (s : State) : Res :=
  .next (consumeError s p.ply { cls := cls, cause := cause, lanes := lanes, addr := addr, strand := p.strand, frag := p.frag, away := true, kill := true })

/-! ## Corrected counts (R351) -/

/-- A record that carries a count: to the device that holds the core, else to the package ring; one of class 2 counts towards the retirement of its
core (R400). -/
def countRecord (s : State) (c : Nat) (cls cause n : Nat) : State :=
  if n = 0 then s
  else
    let s := if cls = 2 then noteError s c cls 0 0 else s
    let r : ErrRec := { severity := 0, cls := cls, cause := cause, die := coreDie c, core := coreNum c, lanes := w32 (Nat.min n (2 ^ 32 - 1)) }
    match s.vdevs.find? (fun v => v.2.exist && v.2.bays.contains (coreBay c)) with
    | some v => writeRecord s { r with vdev := v.1 }
    | none => writePackageRecord s r

/-- A supply 10 mV lower, down to the fused value. -/
def lowered (fused supply : Nat) : Nat := if fused < supply then Nat.max fused (supply - 10) else supply

/-- The supply of a core after a period: 10 mV up after a replay, to 420 mV at most; 10 mV down after 16 periods without one (R18, R351). -/
def trimSupply (c : Nat) (x : Core) : Core :=
  if x.counts.timing ≠ 0 then { x with supply := Nat.min 420 (x.supply + 10), counts := {} }
  else if 15 ≤ x.counts.quiet then { x with supply := lowered (Config.fusedSupply c) x.supply, counts := {} }
  else { x with counts := { quiet := x.counts.quiet + 1 } }

/-- CORRECTED_COUNT_REPORT: at the end of a period every count is recorded and cleared. -/
def execCorrectedCountReport (s : State) : Res :=
  .next (
    let s := (upFrom 0 288).foldl (fun s c =>
      let n := (s.core c).counts
      let s := countRecord s c 3 1 n.timing
      let s := countRecord s c 2 3 n.tile
      let s := countRecord s c 5 1 n.snap
      let s := countRecord s c 6 1 n.array
      let s := countRecord s c 6 4 n.refill
      s.modCore c (trimSupply c)) s
    let ring (s : State) (d cls cause n : Nat) : State :=
      if n = 0 then s else writePackageRecord s { severity := 0, cls := cls, cause := cause, die := d, lanes := w32 (Nat.min n (2 ^ 32 - 1)) }
    let s := (s.dies.map (·.1)).foldl (fun s d =>
      (ring (ring s d 6 1 (s.die d).fixed) d 6 4 (s.die d).refilled).modDie d (fun x => { x with fixed := 0, refilled := 0 })) s
    (ring (ring s 0xFF 9 1 s.plat.fixed) 0xFF 10 1 s.plat.flits).modPlat (fun p => { p with fixed := 0, flits := 0 }))

/-! ## Soft errors (R347, R350, R357, R362, R365) -/

/-- A word of a ply's snapshot turns bad: loc names strand [4:0], kind [7:5] as Bad numbers it, register [15:8] and, above, what Bad.sub names (of a
scalar register s0 to s15 or a split-table entry, the entry) (R347, R357). -/
def spoilSnapshot (y : Ply) (loc : W64) : Ply :=
  let k := bits loc 0 5
  let t := Tab.get {} y.snap.strands k
  let n := bits loc 8 8
  let sub := bits loc 16 48
  if bits loc 5 3 = 1 ∧ n < 16 then
    { y with snap := { y.snap with strands := y.snap.strands.map (fun x =>
      if x.1 = k then (k, x.2.modFrag (sub % 4) (fun f => { f with marks := Tab.put n { unrec := true, injected := false } f.marks })) else x) } }
  else
    let b : Bad := { strand := k, kind := bits loc 5 3, reg := n, sub := if bits loc 5 3 = 5 then fragKey t (n % 4) else sub, unrec := true, injected := false }
    { y with snap := { y.snap with bad := y.snap.bad ++ [b] } }

/-- A sector of the saved context of a ply turns bad: of its scratch, at a byte offset, or of anything else (R360). -/
def spoilContext (y : Ply) (loc : W64) : Ply :=
  if y.resident then y
  else if bit loc 63 then { y with scrPoison := Tab.put (bits loc 0 63 / 128) false y.scrPoison }
  else { y with ctxBad := true }

/-- SOFT_ERROR: bits of an array turn. Kinds 1 to 15 name locations as R402 does (UNIT in unit, INJA in loc); further kinds: 16 the snapshot
store of ply number unit (loc as spoilSnapshot reads it), 17 an L1 sector (key loc) of a core, 18 the translation root, energy account or staged-range
table of device unit, 19 the recovery sequencer of die d, 20 the saved context of ply number unit (loc: bit 63 its scratch, at the byte offset below), 21 entry loc
of a core's log extension. -/
def execSoftError (kind d unit : Nat) (loc : W64) (double : Bool) (s : State) : Res :=
  .next (
    if kind ≤ 15 then (turnBits s kind d unit loc double false).getD s
    else if kind = 16 then
      if !(s.livePly unit) then s
      else if double then s.modPly unit (fun y => spoilSnapshot y loc)
      else s.modCore (s.ply unit).core (fun x => { x with counts := { x.counts with snap := x.counts.snap + 1 } })
    else if kind = 17 then
      let c := 36 * d + unit
      match Tab.find loc.toNat (s.core c).l1 with
      | none => s
      | some l =>
        if double then
          (if l.pins = [] then dropL1 s c loc.toNat else s.modCore c (fun x => { x with l1 := Tab.put loc.toNat (refilled s loc.toNat l) x.l1 })).modCore c (fun x => { x with counts := { x.counts with refill := x.counts.refill + 1 } })
        else s.modCore c (fun x => { x with counts := { x.counts with array := x.counts.array + 1 } })
    else if kind = 18 then (if double then s.urgent (.deviceStop unit 11 7) else s)
    else if kind = 19 then
      (upFrom 0 16).foldl (fun s v => if (s.vdev v).exist && (s.vdev v).onDie d then s.later (.deviceStop v 5 1) else s) s
    else if kind = 20 then
      if !(s.livePly unit) then s
      else if double then s.modPly unit (fun y => spoilContext y loc)
      else countFixed s ((s.vdev (s.ply unit).vdev).rsvPa 0 / 2 ^ 37)
    else if kind = 21 then (hurtLog s (36 * d + unit) loc.toNat true double false).getD s
    else s)

/-! ## The command complex (R392 to R394) -/

/-- QUEUE_TABLE_ERROR: the queue stops with ERR 0x03 and its RW fields read 0; the lane's shadow keeps RIDX. -/
def execQueueTableError (q : Nat) (s : State) : Res :=
  .next (if 128 ≤ q then s else queueTableError s q)

/-- COMMAND_CORE_SUBSTITUTION: the spare takes the lanes of a failed command core; with no spare the devices of its queues stop. -/
def execCommandCoreSubstitution (cc : Nat) (s : State) : Res :=
  .next (if !((s.cmdCore cc).failed) then s
    else
      let r := if s.plat.spareUsed then (s, false) else addRemap s 7 8 cc 4
      if r.2 then
        let s := dropFlips (writePackageRecord r.1 { severity := 0, cls := 9, cause := 2 }) (fun f => f.kind == 14 && f.unit == 4)
        let s := writePackageRecord s { severity := 0, cls := 11, cause := 1 }
        (s.modCmdCore cc (fun k => { k with failed := false, cache := [], round := [], lane := none })).modPlat (fun p => { p with spareUsed := true })
      else
        (upFrom 0 16).foldl (fun s v =>
          if (s.vdev v).exist && !((s.vdev v).stopped) && (coreQueues cc).any (s.vdev v).ownsQueue then s.later (.deviceStop v 9 9) else s) r.1)

/-! ## Cores and lanes (R8, R400) -/

/-- A lane that four records within 2^32 clocks name: its partition and number. -/
def worstLane (s : State) (c : Nat) : Option (Nat × Nat) :=
  let e := (s.core c).errs.filter (fun e => decide (s.clock < e.1 + 2 ^ 32) && e.2.1 == 2)
  ((upFrom 0 4).flatMap (fun p => lanes.map (fun l => (p, l)))).find? (fun x =>
    decide (4 ≤ (e.filter (fun r => r.2.2.1 == x.1 && inMask r.2.2.2 x.2)).length))

/-- The running skeins of a bay. -/
def baySkeins (s : State) (b : Nat) : List Nat := (s.skeins.filter (fun k => k.2.spot == .bay b)).map (·.1)

/-- CORE_SUBSTITUTION: once every skein of the bay has been vacated a spare lane, or else a spare core, takes the place; with none the core
is retired and its bay leaves placement. -/
def execCoreSubstitution (core : Nat) (s : State) : Res :=
  .next (
    let b := coreBay core
    let d := coreDie core
    let place := physCore s.pf0.remap d (coreNum core)
    if !((s.core core).retiring) then s
    else if baySkeins s b ≠ [] then ((baySkeins s b).foldl askVacate s).later (.coreSubstitution core)
    else
      let fresh (s : State) : State := s.modCore core (fun x => { x with retiring := false, errs := [], l1 := [], utlb := [], code := [], entryBuf := [] })
      let done (s : State) : State := (writePackageRecord s { severity := 0, cls := 11, cause := 1, die := d, core := coreNum core }).later .placement
      let laneTry : Option State :=
        match worstLane s core with
        | some (p, l) =>
          let used := Tab.get 0 (s.core core).lanesUsed p
          if used < 2 then
            let r := addRemap s 2 d (32 * p + l) used
            if r.2 then some ((fresh r.1).modCore core (fun x => { x with lanesUsed := Tab.put p (used + 1) x.lanesUsed })) else none
          else none
        | none => none
      match laneTry with
      | some t => done t
      | none =>
        let r := if (s.die d).sparesUsed < 4 then addRemap s 1 d place (36 + (s.die d).sparesUsed) else (s, false)
        if r.2 then
          done (((fresh r.1).modDie d (fun x => { x with sparesUsed := x.sparesUsed + 1 })).modCore core (fun x => { x with lanesUsed := [], supply := 350, counts := { x.counts with quiet := 0 } }))
        else
          let s := (addRemap (fresh s) 1 d place noSpare).1.modCore core (fun x => { x with retired := true })
          let alive (v : VDev) : Bool := v.bays.any (fun b => !((bayCores b).any (fun c => (s.core c).retired)))
          (upFrom 0 16).foldl (fun s v =>
            if (s.vdev v).exist && !((s.vdev v).stopped) && !(alive (s.vdev v)) then s.later (.deviceStop v 11 7) else s) s)

end Sys2Proof.Machine
end

