-- ==== Sys2Proof/Machine/Checkpoint.lean ====
section
/-! DEFINITION. Checkpoints (R406 to R409), captures of intervals (R410) and their re-runs (R411). -/
namespace Sys2Proof.Machine

/-! ## Descriptors (R406) -/

/-- A checkpoint descriptor. -/
structure Ckpt where
  op    : Nat
  timer : Bool
  steps : Bool
  nshard : Nat
  job   : Nat
  period : Nat
  counter : W64
  every : Nat
  list  : W64
  slots : W64
  size  : Nat
  state : W64
  rank  : Nat
  nrank : Nat
  core  : Nat
  deriving DecidableEq, Repr

def ckptOf (d : Bytes) : Ckpt :=
  { op := fieldAt d 0 1, timer := (fieldAt d 1 1).testBit 0, steps := (fieldAt d 1 1).testBit 1, nshard := fieldAt d 2 2, job := fieldAt d 4 4,
    period := fieldAt d 8 8, counter := w64 (fieldAt d 0x10 8), every := fieldAt d 0x18 8, list := w64 (fieldAt d 0x20 8),
    slots := w64 (fieldAt d 0x28 8), size := fieldAt d 0x30 8, state := w64 (fieldAt d 0x38 8), rank := fieldAt d 0x40 2,
    nrank := fieldAt d 0x42 2, core := bayCore (9 * fieldAt d 0x44 1 + fieldAt d 0x45 1) (fieldAt d 0x46 1) }

/-- The descriptor keeps its limits. -/
def ckptOk (d : Bytes) : Bool :=
  let c := ckptOf d
  decide (c.op ≤ 3) && decide (fieldAt d 1 1 < 4) && decide (1 ≤ c.nshard) && decide (c.nshard ≤ 64) && ptrFits d 0x10 [0] 8 && ptrFits d 0x20 [0] 1 &&
  ptrFits d 0x28 [0, 4, 5] 4096 && c.size % 4096 == 0 && ptrFits d 0x38 [0] 1 && zeroBytes d 0x47 0x80 &&
  (c.op != 2 || (decide (1 ≤ c.every) && decide (c.every ≤ 16))) &&
  (c.op != 3 || (decide (fieldAt d 0x44 1 < 8) && decide (fieldAt d 0x45 1 < 9) && decide (fieldAt d 0x46 1 < 4)))

/-- A shard: source, bytes, offset in a slot. -/
structure Shard where
  src : W64
  bytes : Nat
  off : Nat
  deriving DecidableEq, Repr

/-- The shards of a list of n entries. -/
def shardsOf (l : Bytes) (n : Nat) : List Shard :=
  (upFrom 0 n).map (fun i => ⟨w64 (fieldAt l (32 * i) 8), fieldAt l (32 * i + 8) 8, fieldAt l (32 * i + 16) 8⟩)

/-- Every entry keeps its limits. -/
def shardsOk (c : Ckpt) (l : Bytes) : Bool :=
  (upFrom 0 c.nshard).all (fun i =>
    ptrFits l (32 * i) [0] 128 && fieldAt l (32 * i + 8) 8 % 128 == 0 && decide (4096 ≤ fieldAt l (32 * i + 16) 8) &&
    fieldAt l (32 * i + 16) 8 % 128 == 0 && fieldAt l (32 * i + 24) 8 == 0 &&
    decide (fieldAt l (32 * i + 16) 8 + fieldAt l (32 * i + 8) 8 ≤ c.size))

/-! ## Ends -/

/-- A checkpoint that failed: its record (class 11) and status 5. [DEDUCED: log 60] -/
def ckptFails (s : State) (q : Nat) (b : Bytes) (cause : Nat) : State :=
  let x := s.queue q
  startAndComplete (writeRecord s { severity := 0, cls := 11, cause := cause, vdev := x.vdev, queue := q, cookie := pkCookie b, markval := w64 x.ridx }) q b 5

/-- A CKPT head of one op: its descriptor and shards are read and checked, then act runs it. cause is that of its failures. -/
def onCkpt (q op cause : Nat) (alone : Bool) (act : State → Bytes → Ckpt → List Shard → State) (s : State) : Res :=
  onHead q (isKind 11) (fun t b =>
    let v := (t.queue q).vdev
    match ccFetch t q v (w64 (fieldAt b 8 8)) 128 with
    | .error (.wait u) => u
    | .error (.fail _ u) => if op = 0 then ckptFails u q b cause else t
    | .ok (d, u) =>
      let c := ckptOf d
      if !(ckptOk d) then packetError u q b
      else if c.op ≠ op then t
      else if alone ∧ jobsOf u q ≠ [] then u.modQueue q (fun x => { x with state := .held, shadowS := .held })
      else
        match ccFetch u q v c.list (32 * c.nshard) with
        | .error (.wait u) => u
        | .error (.fail _ u) => ckptFails u q b cause
        | .ok (l, u) => if shardsOk c l then act u b c (shardsOf l c.nshard) else packetError u q b) s

/-! ## Moving shards -/

/-- Copy n sectors; what has been read is answered for the hash. A poisoned sector fails. -/
def copySectors (s : State) (q v : Nat) (src dst : W64) (i : Nat) : Nat → Except CcStop (Bytes × State)
  | 0 => .ok ([], s)
  | n + 1 => do
    let (b, s) ← ccFetch s q v (src + w64 (128 * i)) 128
    let s ← ccWrite s q v (dst + w64 (128 * i)) b
    let (r, s) ← copySectors s q v src dst (i + 1) n
    .ok (b ++ r, s)

/-- Every translation of a range is at hand. -/
def placesReady (s : State) (q v : Nat) (p : W64) (n kind : Nat) : Except CcStop State :=
  (sectorPieces (ptrAddr p) 0 n (n / 128 + 2)).foldlM (fun s x => (ccPlace s q v (p + w64 x.1) kind).map (·.2)) s

/-- The header of a slot but for its seal: 120 bytes. -/
def headerBytes (magic : Nat) (c : Ckpt) (step epoch total : Nat) (hash : Bytes) : Bytes :=
  bytesLE magic 4 ++ bytesLE 1 4 ++ bytesLE c.job 4 ++ bytesLE c.rank 2 ++ bytesLE c.nrank 2 ++ bytesLE step 8 ++ bytesLE epoch 8 ++ bytesLE total 8 ++
    hash ++ bytesLE 0 48

/-- Slot k. -/
def slotAt (c : Ckpt) (k : Nat) : W64 := c.slots + w64 (k * c.size)

/-! ## Save (R407, R408) -/

/-- The four words of the engine's state. -/
structure CkptState where
  step  : Nat
  clock : Nat
  slot  : Nat
  epoch : Nat
  deriving DecidableEq, Repr

def ckptStateOf (b : Bytes) : CkptState := ⟨fieldAt b 0 8, fieldAt b 8 8, fieldAt b 16 8, fieldAt b 24 8⟩

/-- A save is due. -/
def saveDue (c : Ckpt) (t : CkptState) (clock step : Nat) : Bool :=
  t.epoch == 0 || (c.timer && decide (c.period * 940 ≤ (clock + 2 ^ 64 - t.clock) % 2 ^ 64)) ||
    (c.steps && decide (c.every ≤ (step + 2 ^ 64 - t.step) % 2 ^ 64))

/-- A part of a save leaves the packet at the head, with its next part to come. -/
def setSave (s : State) (q : Nat) (r : SaveRun) : State := s.modQueue q (fun x => { x with save := some r })

/-- The next part of a save has been carried out. -/
def SaveRun.next (r : SaveRun) : SaveRun := { r with done := r.done + 1 }

/-- A save begins: the seal of its slot is 0 (R407). -/
def beginSave (s : State) (q v : Nat) (c : Ckpt) (r : SaveRun) : Except CcStop State := do
  let s ← ccWrite s q v (slotAt c r.slot + 0x78) (bytesLE 0 8)
  .ok (setSave s q r)

/-- A release at system scope between two parts of a save: nothing that its slot takes earlier is still on its way (R241, R407). -/
def saveRelease (s : State) (q v : Nat) (r : SaveRun) : Except CcStop State :=
  match ccRelease s q v (s.queue q).fence with
  | (t, f, false) => .ok (t.modQueue q (fun x => { x with fence := f }))
  | (t, _, true) => .ok (setSave (t.modQueue q (fun x => { x with fence := none })) q r.next)

/-- The next part of a save with n shards, in the order of R407: a release after the cleared seal, each shard, the header, a release, the seal, a
release, and then the state, with which the packet completes. A package stop between two parts leaves the slot invalid (R408). -/
def saveStep (s : State) (q v : Nat) (c : Ckpt) (l : List Shard) (b : Bytes) (r : SaveRun) : Except CcStop State :=
  let slot := slotAt c r.slot
  let n := l.length
  if r.done = 0 ∨ r.done = n + 2 ∨ r.done = n + 4 then saveRelease s q v r
  else if r.done = n + 1 then do
    let s ← ccWrite s q v slot (headerBytes 0x4B39434B c r.step r.epoch r.all.length (sha256 r.all))
    .ok (setSave s q r.next)
  else if r.done = n + 3 then do
    let s ← ccWrite s q v (slot + 0x78) (bytesLE (Nat.lor r.epoch (2 ^ 63)) 8)
    .ok (setSave s q r.next)
  else
    match l[r.done - 1]? with
    | some h => do
      let (d, s) ← copySectors s q v h.src (slot + w64 h.off) 0 (h.bytes / 128)
      .ok (setSave s q { r.next with all := r.all ++ d })
    | none => do
      let s ← ccWrite s q v c.state (bytesLE r.step 8 ++ bytesLE (s.clock % 2 ^ 64) 8 ++ bytesLE r.slot 8 ++ bytesLE (r.epoch + 1) 8)
      .ok (startAndComplete s q b 0)

/-- What an access of a save has led to: one that failed ends it (R408), one that waits is made again. -/
def saveEnds (q : Nat) (b : Bytes) (x : Except CcStop State) : State :=
  match x with
  | .ok u => u
  | .error (.wait u) => u
  | .error (.fail _ u) => ckptFails u q b 4

/-- Start a save that is due: the places of its slot are at hand, and its seal is cleared. -/
def startSave (s : State) (q v : Nat) (c : Ckpt) (r : SaveRun) : Except CcStop State :=
  match placesReady s q v (slotAt c r.slot) c.size 1 with
  | .error (.wait u) => .error (.wait u)
  | _ => beginSave s q v c r

/-- CKPT_SAVE: starts the save of the head packet, or carries out the next part of the one under way. -/
def execCkptSave (q : Nat) (s : State) : Res :=
  onCkpt q 0 4 true (fun s b c l =>
    let v := (s.queue q).vdev
    match (s.queue q).save with
    | some r => saveEnds q b (match ccLost s q with
      | some t => .error (.fail 0 t)
      | none => saveStep s q v c l b r)
    | none =>
    let read : Except CcStop (Bytes × Bytes × State) := do
      let (n, s) ← ccFetch s q v c.counter 8
      let (w, s) ← ccFetch s q v c.state 32
      .ok (n, w, s)
    match read with
    | .error (.wait t) => t
    | .error (.fail _ t) => ckptFails t q b 4
    | .ok (n, w, s) =>
      let t := ckptStateOf w
      let step := natLE n
      if !(saveDue c t s.clock step) then startAndComplete s q b 4
      else
        let k := if t.epoch = 0 then 0 else 1 - t.slot % 2
        saveEnds q b (startSave s q v c { step := step, epoch := t.epoch, slot := k, done := 0, all := [] })) s

/-! ## Restore (R407, R409) -/

/-- A slot that is valid: its step and epoch, and the bytes of its shards. -/
structure GoodSlot where
  index : Nat
  step  : Nat
  epoch : Nat
  data  : List Bytes
  deriving DecidableEq, Repr

/-- Read and check a slot; one that cannot be read is not valid. -/
def readSlot (s : State) (q v : Nat) (c : Ckpt) (l : List Shard) (magic k : Nat) : Except CcStop (Option GoodSlot × State) := do
  let slot := slotAt c k
  let (h, s) ← ccFetch s q v slot 128
  let epoch := fieldAt h 0x18 8
  if fieldAt h 0 4 ≠ magic ∨ fieldAt h 4 4 ≠ 1 ∨ fieldAt h 0x78 8 ≠ Nat.lor epoch (2 ^ 63) then .ok (none, s)
  else do
    let (data, s) ← l.foldlM (fun (r : List Bytes × State) x => do
      let (b, s) ← ccFetch r.2 q v (slot + w64 x.off) x.bytes
      .ok (r.1 ++ [b], s)) (([] : List Bytes), s)
    if sha256 data.flatten = (h.drop 0x28).take 32 then .ok (some ⟨k, fieldAt h 0x10 8, epoch, data⟩, s) else .ok (none, s)

/-- A slot, or none when it cannot be read; a wait stays one. -/
def trySlot (s : State) (q v : Nat) (c : Ckpt) (l : List Shard) (magic k : Nat) : Except State (Option GoodSlot × State) :=
  match readSlot s q v c l magic k with
  | .ok r => .ok r
  | .error (.fail _ t) => .ok (none, t)
  | .error (.wait t) => .error t

/-- The slot that a restore takes: the wanted step, or the newest. -/
def chooseSlot (every : Nat) (a b : Option GoodSlot) : Option GoodSlot :=
  let l := [a, b].filterMap id
  let l := if every = 2 ^ 64 - 1 then l else l.filter (fun g => g.step == every)
  l.foldl (fun m g => match m with
    | none => some g
    | some h => if h.epoch < g.epoch then some g else some h) none

/-- Write the shards back to their sources. -/
def putShards (s : State) (q v : Nat) (l : List Shard) (data : List Bytes) : Except CcStop State :=
  (l.zip data).foldlM (fun s x => ccWrite s q v x.1.src x.2) s

/-- CKPT_RESTORE. [DEDUCED: log 60] -/
def execCkptRestore (q : Nat) (s : State) : Res :=
  onCkpt q 1 5 true (fun s b c l =>
    let v := (s.queue q).vdev
    match trySlot s q v c l 0x4B39434B 0 with
    | .error t => t
    | .ok (g0, t) =>
      match trySlot t q v c l 0x4B39434B 1 with
      | .error u => u
      | .ok (g1, u) =>
        match chooseSlot c.every g0 g1 with
        | none => ckptFails u q b 5
        | some g =>
          let r : Except CcStop State := do
            let s ← putShards u q v l g.data
            ccWrite { s with draws := s.draws + 1 } q v c.state
              (bytesLE g.step 8 ++ bytesLE (Config.freeWord s.draws).toNat 8 ++ bytesLE g.index 8 ++ bytesLE (g.epoch + 1) 8)
          match r with
          | .ok t => startAndComplete t q b 0
          | .error (.wait t) => t
          | .error (.fail _ t) => ckptFails t q b 5) s

/-! ## Capture (R410) -/

/-- CKPT_ARM_CAPTURE. -/
def execCkptArmCapture (q : Nat) (s : State) : Res :=
  onCkpt q 2 6 false (fun s b c _ =>
    startAndComplete (s.modQueue q (fun x => { x with captures := c.every, capTaken := 0, capDesc := w64 (fieldAt b 8 8) })) q b 0) s

/-- Where a slot of a capture keeps the replayed record and the context: before offset 4,096, where no shard lies. [DESIGN CHOICE: log 59] -/
def captureRecordAt : Nat := 0x80
def captureContextAt : Nat := 0xC0

/-- Write a capture into its slot. [DESIGN CHOICE: log 59] -/
def writeCapture (s : State) (q v : Nat) (k : Captured) : Except CcStop State := do
  let c := ckptOf k.desc
  let slot := slotAt c k.index
  let s ← placesReady s q v slot c.size 1
  let all := k.shards.flatMap (·.2)
  let epoch := (Config.freeWord s.draws).toNat
  let s := { s with draws := s.draws + 1 }
  let s ← ccWrite s q v slot (headerBytes 0x4B394341 c k.number epoch all.length (sha256 all) ++ bytesLE (Nat.lor epoch (2 ^ 63)) 8)
  let s ← ccWrite s q v (slot + w64 captureRecordAt) k.record
  let s ← ccWrite s q v (slot + w64 captureContextAt) (bytesLE k.ctx 8)
  k.shards.foldlM (fun s x => ccWrite s q v (slot + w64 x.1) x.2) s

/-- INTERVAL_CAPTURE: the slot is written and the ply's replay goes on; a capture that fails is recorded and does not hold it. -/
def execIntervalCapture (p : Nat) (s : State) : Res :=
  .next (if !(s.livePly p) then s
    else
      let y := s.ply p
      match y.capture with
      | none => s
      | some k =>
        let go (t : State) : State := t.modPly p (fun y => { y with capture := none, halt := false })
        let ok := k.desc.length == 128 && ckptOk k.desc && k.shards.length == (ckptOf k.desc).nshard
        let fails (t : State) : State := writeRecord t { plyRecord t p 0 0xFF with severity := 0, cls := 11, cause := 6 }
        let wait (t : State) : State := t.later (.intervalCapture p)
        if !ok then go (fails s)
        else if k.sent then
          match ccLost s y.queue with
          | some t => go (fails t)
          | none => if ccSending s y.queue then wait s else go s
        else
          match writeCapture s y.queue y.vdev k with
          | .ok t => if ccSending t y.queue then wait (t.modPly p (fun y => { y with capture := some { k with sent := true } })) else go t
          | .error (.wait t) => t.later (.intervalCapture p)
          | .error (.fail _ t) => go (fails t))

/-! ## Re-run (R411) -/

/-- A captured interval starts again as a one-ply reel on the named core. [DEDUCED: log 60] -/
def startRerun (s : State) (q : Nat) (b : Bytes) (c : Ckpt) (x : Context) : State :=
  let v := (s.queue q).vdev
  let j := newJob s q b []
  let s := advanceIdx j.2 q b
  let r := s.fresh
  let k := s.fresh + 1
  let p := s.fresh + 2
  let reel : Reel := { x.reel with job := j.1.id, vdev := v, queue := q, cookie := pkCookie b, cls := (s.queue q).cls, left := 1, contained := false, mesh := none,
                                   rerun := some { slots := c.slots, size := c.size, index := c.every, core := c.core }, order := r, capture := false }
  let plies := (upFrom 0 x.nply).map (fun i => if i = x.ply.num then p else 0)
  let y : Ply := { x.ply with vdev := v, queue := q, reel := r, skein := k, resident := false, asCore := some x.ply.core, en := true, prot := true, capture := none,
                              halt := false }
  { s with reels := Tab.put r reel s.reels
           skeins := Tab.put k { reel := r, num := x.skein, plies := plies } s.skeins
           plies := Tab.put p y s.plies
           fresh := s.fresh + 3 }.later .placement

/-- The re-run of a queue under way: its reel's number, its ply and its job. -/
def rerunOf (s : State) (q : Nat) : Option (Nat × Nat × Reel) :=
  match s.reels.find? (fun r => r.2.queue == q && r.2.rerun.isSome) with
  | none => none
  | some (r, x) => (s.plies.find? (fun p => p.2.reel == r)).map (fun p => (r, p.1, x))

/-- The re-run is over: its ply goes without a trace of its interval. -/
def endRerun (s : State) (r p : Nat) (x : Reel) (status : Nat) : State :=
  let y := s.ply p
  let s := if status = 5 then writeRecord s { plyRecord s p 0 0xFF with severity := 0, cls := 11, cause := 5 } else s
  let s := cancelWork (withdraw (freeJournal (dropHeld s p) p) p) p
  let s := if y.resident then releaseLocal s y.core scPackage else s
  let s := { s with plies := Tab.del p s.plies, skeins := Tab.del y.skein s.skeins, reels := Tab.del r s.reels }
  (completeJob s x.job status).later .placement

/-- The nibble mask of an entry's cells. -/
def nibbleMask (c : Tab (Byte × Byte)) : Nat :=
  c.foldl (fun m e => m + (if e.2.2.toNat % 16 ≠ 0 then 2 ^ (2 * e.1) else 0) + (if 16 ≤ e.2.2.toNat then 2 ^ (2 * e.1 + 1) else 0)) 0

/-- The record of a held entry: 176 bytes. -/
def entryRecord (e : LogEntry) : Bytes :=
  bytesLE e.vaddr.toNat 8 ++ bytesLE 0 8 ++ bytesLE (nibbleMask e.cells) 32 ++
    (upFrom 0 128).map (fun o => let c := Tab.get (0, 0) e.cells o; c.1 &&& c.2)

/-- CKPT_RERUN: starts the re-run of the head packet, or takes the one under way to its end: at its first commit its held entries are
written to the slot after the capture. -/
def execCkptRerun (q : Nat) (s : State) : Res :=
  match rerunOf s q with
  | some (r, p, x) =>
    .next (
      let y := s.ply p
      let v := x.vdev
      if y.resident && (y.halt || !y.prot) then endRerun s r p x 5
      else if !(barrierMet s p || y.exiting) then s
      else if workLeft s p then s.later (.ckptRerun q)
      else
        match x.rerun with
        | none => s
        | some g =>
          let l := ((s.core y.core).log.filter (fun e => e.ply == p && e.held)).flatMap entryRecord
          let put : Except CcStop State := do
            let t ← placesReady s q v (g.slots + w64 ((g.index + 1) * g.size)) l.length 1
            ccWrite t q v (g.slots + w64 ((g.index + 1) * g.size)) l
          if g.sent then
            match ccLost s q with
            | some t => endRerun t r p x 5
            | none => if ccSending s q then s.later (.ckptRerun q) else endRerun s r p x 0
          else
          match put with
          | .ok t =>
            if ccSending t q then (t.modReel r (fun y => { y with rerun := some { g with sent := true } })).later (.ckptRerun q) else endRerun t r p x 0
          | .error (.wait t) => t.later (.ckptRerun q)
          | .error (.fail _ t) => endRerun t r p x 5)
  | none =>
    onCkpt q 3 5 false (fun s b c l =>
      let v := (s.queue q).vdev
      match trySlot s q v c l 0x4B394341 c.every with
      | .error t => t
      | .ok (none, t) => ckptFails t q b 5
      | .ok (some g, t) =>
        match ccFetch t q v (slotAt c c.every + w64 captureContextAt) 8 with
        | .error (.wait u) => u
        | .error (.fail _ u) => ckptFails u q b 5
        | .ok (h, u) =>
          match Tab.find (natLE h) u.captures with
          | none => ckptFails u q b 5
          | some x =>
            if !((u.vdev v).bays.contains (coreBay c.core)) then ckptFails u q b 5
            else
              match putShards u q v l g.data with
              | .error (.wait w) => w
              | .error (.fail _ w) => ckptFails w q b 5
              | .ok w => startRerun w q b c x) s

end Sys2Proof.Machine
end

