-- ==== Sys2Proof/Machine/Control.lean ====
section
/-! DEFINITION. Branches, jumps, vector branches with splits (R32, R36, R140 to R144) and the repeat prefix (R145, R146). -/
namespace Sys2Proof.Machine

/-- The conditions of B.cnd on an i64 (R140). -/
def branchCond (k : Nat) (v : W64) : Bool :=
  match k with
  | 0 => v == 0
  | 1 => v != 0
  | 2 => decide (v.toInt < 0)
  | 3 => decide (0 ≤ v.toInt)
  | 4 => decide (v.toInt ≤ 0)
  | 5 => decide (0 < v.toInt)
  | _ => true

/-- B.cnd: the hint changes nothing (R113, R140); B.ALW tests nothing. -/
def execBCnd (_h : BitVec 2) (k : BitVec 3) (a : BitVec 8) (o : BitVec 12) (s : State) : Res :=
  runTo s (do
    let v ← if k = 6 then .ok 0 else readS s a
    .ok (branch s (branchCond k.toNat v) o.toInt))

/-- J (R141). -/
def execJ (_h : BitVec 2) (o : BitVec 23) (s : State) : Res := runTo s (.ok (jumpBy s o.toInt))

/-- CALL: s191 takes the return index (R141). -/
def execCall (_h : BitVec 2) (o : BitVec 23) (s : State) : Res :=
  runTo s (.ok (jumpBy (setSreg s 191 (zext64 (s.iss.w + 1))) o.toInt))

/-- JR: a target with a bit of [63:32] takes the illegal-target trap at the JR (R113, R141). -/
def execJr (a : BitVec 8) (s : State) : Res :=
  runTo s (do
    let v ← readS s a
    need (bits v 32 32 == 0) illegalTarget
    .ok (jump s (w32 (bits v 0 32))))

/-- LOOP: count down and branch while the count is not zero (R142). -/
def execLoop (_h : BitVec 2) (a : BitVec 8) (o : BitVec 12) (s : State) : Res :=
  runTo s (do
    need (decide (a.toNat < 192)) (illegalOperand 0)
    let c := sreg s a.toNat - 1
    .ok (branch (setSreg s a.toNat c) (c != 0) o.toInt))

/-- BRV.ALL (R143). -/
def execBrvAll (_h : BitVec 2) (q : BitVec 3) (o : BitVec 17) (s : State) : Res :=
  runTo s (.ok (branch s (s.curFrag.mask &&& preg s q.toNat == s.curFrag.mask) o.toInt))

/-- BRV.NONE (R143). -/
def execBrvNone (_h : BitVec 2) (q : BitVec 3) (o : BitVec 17) (s : State) : Res :=
  runTo s (.ok (branch s (s.curFrag.mask &&& preg s q.toNat == 0) o.toInt))

/-- BRV.UNI: all lanes follow the lowest lane of the mask (R143). -/
def execBrvUni (_h : BitVec 2) (q : BitVec 3) (o : BitVec 17) (s : State) : Res :=
  runTo s (.ok (branch s (inMask (preg s q.toNat) (lowestLane s.curFrag.mask)) o.toInt))

/-- A path of a split: its lanes and its helper lanes. -/
structure Path where
  mask : W32
  helper : W32
  deriving DecidableEq, Repr

/-- The paths of SPLIT: each helper lane goes to each path that holds an active lane of its quad (R143). -/
def splitPaths (f : Frag) (q : W32) : Path × Path :=
  let t := f.mask &&& q
  let r := f.mask &&& ~~~q
  ({ mask := t, helper := f.helper &&& quadsOf t }, { mask := r, helper := f.helper &&& quadsOf r })

/-- The paths of QSPLIT (R36): active lanes of a divided quad become helper lanes of the other side's path. -/
def quadPaths (f : Frag) (q : W32) : Path × Path :=
  let t := f.mask &&& q
  let r := f.mask &&& ~~~q
  ({ mask := t, helper := (f.helper ||| r) &&& quadsOf t }, { mask := r, helper := (f.helper ||| t) &&& quadsOf r })

/-- The lowest free entry of the split table. -/
def freeEntryOf (t : Strand) : Option Nat := [0, 1, 2, 3].find? (fun e => !(Tab.has t.frags e))

/-- SPLIT and QSPLIT (R32): the pending join is consumed; the taken path becomes a fragment, or a deferred path when the table is full. The
target is checked before the split is. [DESIGN CHOICE: log 86] -/
def splitTo (s : State) (ps : Path × Path) (d : Int) : Eff :=
  let t := s.cur
  let f := s.curFrag
  if ps.1.mask = 0 then
    .ok (goTo (s.modCurFrag (fun f => { f with pendJoin := none })) (s.iss.w + 1))
  else do
    let s ← needTarget s d
    let join := f.pendJoin
    let s' := s.modCurFrag (fun f => { f with pendJoin := none })
    let tgt := target s.iss.w d
    if ps.2.mask = 0 then .ok (jump s' tgt)
    else if t.trapped then .error (.trap { cause := 7, detail := 1 })
    else
      let stay (g : Frag) : Frag := { g with mask := ps.2.mask, helper := ps.2.helper }
      match freeEntryOf t with
      | some e =>
        let g : Frag := { pc := tgt, mask := ps.1.mask, helper := ps.1.helper, join := join, parent := some s.iss.frag, bank := f.bank,
                           marks := f.marks, age := t.ages }
        .ok (goTo ((s'.modCurFrag (fun g => { stay g with resv := none })).modCur (fun u => { u with frags := Tab.put e g u.frags, ages := u.ages + 1 })) (s.iss.w + 1))
      | none =>
        if 8 ≤ f.stack.length then .error (.trap { cause := 7, detail := 0 })
        else
          let p : Deferred := { pc := tgt, mask := ps.1.mask, helper := ps.1.helper, join := join, bank := f.bank, marks := f.marks, age := t.ages }
          let s'' := (s'.modCurFrag (fun g => stay { g with stack := p :: g.stack })).modCur (fun u => { u with ages := u.ages + 1 })
          .ok (goTo s'' (s.iss.w + 1))

/-- BRV.SPLIT (R32, R143). -/
def execBrvSplit (_h : BitVec 2) (q : BitVec 3) (o : BitVec 17) (s : State) : Res :=
  runTo s (splitTo s (splitPaths s.curFrag (preg s q.toNat)) o.toInt)

/-- BRV.QSPLIT (R36, R143). -/
def execBrvQsplit (_h : BitVec 2) (q : BitVec 3) (o : BitVec 17) (s : State) : Res :=
  runTo s (splitTo s (quadPaths s.curFrag (preg s q.toNat)) o.toInt)

/-- JSET: sets the pending join; its target must qualify (R144). -/
def execJset (o : BitVec 23) (s : State) : Res :=
  run s (do
    let t ← needTarget s o.toInt
    .ok (t.modCurFrag (fun f => { f with pendJoin := some (target s.iss.w o.toInt) })))

/-- REP: the repeated word follows in the same issue, with the fragment's repeat position (R120, R146). -/
def execRep (n : BitVec 6) (se : BitVec 3) (st : BitVec 2) (s : State) : Res :=
  .next { s with iss := { s.iss with rep := some (n.toNat, se, st) } }

end Sys2Proof.Machine
end

