-- ==== Sys2Proof/Machine/Matrix.lean ====
section
/-! DEFINITION. The matrix engine (R76, R92 to R102, R209 to R221): MMA at issue and at completion, tile moves, batches. A TLD, TST or
TZERO takes its effect as it is accepted and completes later; an MMA reads its scratch operands as it is accepted. -/
namespace Sys2Proof.Machine

/-! ## Descriptors (R76, R95, R98) -/

/-- The fields of a matrix operand descriptor. -/
structure MatDesc where
  off    : Nat
  planes : Nat
  code   : Nat
  mode   : Nat
  k      : Nat
  scale  : Nat
  deriving DecidableEq, Repr

def matDesc (w : W64) : MatDesc := ⟨bits w 0 20, bits w 20 6, bits w 26 4, bits w 30 2, bits w 32 16, 128 * bits w 48 16⟩

/-- Groups of 32 along K. -/
def MatDesc.groups (d : MatDesc) : Nat := d.k / 32

/-- Bytes of the plane set, in the A or the B layout. -/
def MatDesc.setBytes (d : MatDesc) (b : Bool) : Nat := d.groups * ((matFmt d.code).map (fun m => m.block b)).getD 0

/-- Bytes of the scale table. -/
def MatDesc.scaleBytes (d : MatDesc) : Nat := if d.mode = 1 then 4 * d.k else if d.mode = 2 then 512 else 0

/-- A descriptor keeps its limits in an allocation of size bytes. -/
def matDescOk (d : MatDesc) (b : Bool) (size : Nat) : Bool :=
  match matFmt d.code with
  | none => false
  | some m =>
    decide (1 ≤ d.planes) && decide (d.planes ≤ m.p) && (m.fp.isSome || d.planes == m.p) &&
    d.k % 32 == 0 && decide (32 ≤ d.k) && d.off % 1024 == 0 && decide (d.off + d.setBytes b ≤ size) &&
    (match d.mode with
     | 0 => true
     | 1 => decide (d.code ≤ 2)
     | 2 => decide (d.code ≤ 5)
     | _ => false) &&
    (d.mode == 0 || decide (d.scale + d.scaleBytes ≤ size))

/-- The accumulator that two formats pair to. -/
inductive AccKind where
  | f32 | f64 | i32
  deriving DecidableEq, Repr

def pairFormats (a b : Nat) : Option AccKind :=
  if a ≤ 5 ∧ b ≤ 5 then some .f32
  else if a = 6 ∧ b = 6 then some .f64
  else if 7 ≤ a ∧ a ≤ 10 ∧ 7 ≤ b ∧ b ≤ 10 then some .i32
  else none

/-- The tiles of an operation. -/
def tilesOf (o : TileOp) : List Nat := if o.kind = 0 ∧ (matDesc o.a).code = 6 then [o.tile, o.tile + 1] else [o.tile]

/-! ## The tile store -/

/-- Bytes of a tile. -/
def tileBytes : Nat := 65536

/-- Replace the bytes from lo on. -/
def Mem.splice (m : Mem) (lo : Nat) (b : Bytes) : Mem :=
  m.filter (fun e => decide (e.1 < lo)) ++
    (b.zip (upFrom lo b.length)).filterMap (fun x => if x.1 = 0 then none else some (x.2, x.1)) ++
    m.filter (fun e => decide (lo + b.length ≤ e.1))

/-- A flip of a core's tile store in bytes [lo, hi) of a ply's tiles. -/
def flipInTile (y : Ply) (lo hi : Nat) (f : Flip) : Bool :=
  f.kind == 3 && f.die == coreDie y.core && f.unit == coreNum y.core && decide (y.tileBase * tileBytes + lo ≤ f.loc.toNat) &&
    decide (f.loc.toNat < y.tileBase * tileBytes + hi)

/-- Detect the errors of bytes [lo, hi) of a ply's tiles as they are read: a double one leaves its word bad (R347). -/
def detectTile (s : State) (p lo hi : Nat) : State :=
  let y := s.ply p
  match takeFlip s (flipInTile y lo hi) (fun _ => (2, 3)) with
  | some (f, t) =>
    if f.double then
      let b : Bad := { strand := 0, kind := 6, reg := (f.loc.toNat - y.tileBase * tileBytes) / tileBytes,
                       sub := (f.loc.toNat % tileBytes) / 8, unrec := false, injected := false }
      t.modPly p (fun y => { y with bad := b :: y.bad })
    else countCore t y.core (fun n => { n with tile := n.tile + 1 })
  | none => s

/-- A bad word of bytes [lo, hi) of a ply's tiles. -/
def badTile (lo hi : Nat) (b : Bad) : Bool := b.kind == 6 && decide (lo < tileBytes * b.reg + 8 * b.sub + 8) && decide (tileBytes * b.reg + 8 * b.sub < hi)

/-- The injections among the marks that a ply's instruction consumes have fired (R403); cause is that of its record. -/
def fireMarks (s : State) (p cause : Nat) (hit : Bad → Bool) : State :=
  if (s.ply p).bad.any (fun b => b.injected && hit b) then
    fireInjection (s.modPly p (fun y => { y with bad := y.bad.map (fun b => if hit b then { b with injected := false } else b) })) 2 cause
  else s

/-- What reading bytes [lo, hi) of a ply's tiles consumes (R352): whether some mark is unrecoverable. -/
def tileError (s : State) (p lo hi : Nat) : Option Bool :=
  let l := (s.ply p).bad.filter (badTile lo hi)
  if l = [] then none else some (l.any (fun b => b.unrec))

/-- Write bytes of a ply's tiles: what they replace loses its errors. -/
def tileWrite (s : State) (p lo : Nat) (b : Bytes) : State :=
  let hi := lo + b.length
  let y := s.ply p
  let s := dropFlips s (flipInTile y lo hi)
  let s := clearBad s p (fun x => x.kind == 6 && decide (lo ≤ tileBytes * x.reg + 8 * x.sub) && decide (tileBytes * x.reg + 8 * x.sub + 8 ≤ hi))
  s.modPly p (fun y => { y with tiles := Mem.splice y.tiles lo b })

/-! ## Acceptance (R209, R210, R221) -/

/-- The ply has a tile (R27). -/
def needTile (s : State) (t : Nat) : Except Stop Unit := need (decide (t < s.curPly.ntile)) (allotment 1)

/-- A tile operation under way names one of these tiles: the instruction waits. [DESIGN CHOICE: log 32] -/
def needIdle (s : State) (ts : List Nat) : Except Stop Unit :=
  need (!(s.curPly.tileOps.any (fun o => (tilesOf o).any (fun t => ts.contains t)))) (hold s)

/-- Accept a tile operation: it joins the running batch. [DESIGN CHOICE: log 31] -/
def acceptTile (s : State) (kind tile : Nat) (a b : W64) (md : Nat) (src : Mem) : State :=
  let o : TileOp := { id := s.fresh, strand := s.iss.strand, kind := kind, tile := tile, a := a, b := b, md := md, batch := s.curPly.batch.toNat,
                      src := src, pc := s.iss.w, frag := s.iss.frag, handler := s.cur.trapped }
  let s := (s.modCurPly (fun y => { y with tileOps := y.tileOps ++ [o] })).bump
  s.later (if kind = 0 then .mmaComplete o.id else .tileOperationComplete o.id)

/-- The scratch ranges that an MMA reads. -/
def mmaRanges (a b : MatDesc) (bt : Bool) : List (Nat × Nat) :=
  [(a.off, a.setBytes false), (b.off, b.setBytes (!bt)), (a.scale, a.scaleBytes), (b.scale, b.scaleBytes)]

/-- Detect errors in the sectors of scratch ranges. -/
def detectRanges (s : State) (p : Nat) (rs : List (Nat × Nat)) : State :=
  if s.flips = [] then s
  else rs.foldl (fun s r => (upFrom (r.1 / 128) ((r.2 + 127) / 128)).foldl (fun s g => detectScratch s p g) s) s

/-- Poison in scratch ranges, as its consumer sees it. -/
def rangesPoison (s : State) (p : Nat) (rs : List (Nat × Nat)) : Option Bool :=
  if (s.ply p).scrPoison = [] then none
  else rs.foldl (fun a r => if r.2 = 0 then a else joinPoison a (scrPoisoned s p r.1 r.2)) none

/-- The pointer of the first poisoned sector of scratch ranges. -/
def rangesAddr (s : State) (p : Nat) (rs : List (Nat × Nat)) : W64 :=
  (rs.findSome? (fun r => ((upFrom (r.1 / 128) ((r.1 % 128 + r.2 + 127) / 128)).find? (fun g => decide (0 < r.2) && Tab.has (s.ply p).scrPoison g)).map
    (fun g => w64 (2 ^ 60 + 128 * g)))).getD 0

/-- MMA: the checks of R215, then the engine accepts it. [DESIGN CHOICE: log 31] -/
def execMma (t : BitVec 4) (a b : BitVec 8) (m : BitVec 3) (s : State) : Res :=
  run s (do
    let va ← readS s a
    let vb ← readS s b
    let da := matDesc va
    let db := matDesc vb
    let bt := bit m 1
    let size := s.curPly.scrSize
    need (matDescOk da false size && matDescOk db (!bt) size && da.k == db.k && (pairFormats da.code db.code).isSome) (illegalOperand 2)
    let n := t.toNat
    let _ ← (if da.code = 6 then need (n % 2 == 0 && decide (n + 1 < s.curPly.ntile)) (allotment 1) else needTile s n)
    needIdle s (if da.code = 6 then [n, n + 1] else [n])
    let rs := mmaRanges da db bt
    let s := detectRanges s s.iss.ply rs
    match rangesPoison s s.iss.ply rs with
    | some u => .error (consumeHere s { cls := 6, cause := 2, unrec := u, addr := rangesAddr s s.iss.ply rs })
    | none =>
      let src := s.curPly.scratch.filter (fun e => rs.any (fun r => decide (r.1 ≤ e.1) && decide (e.1 < r.1 + r.2)))
      .ok (acceptTile s 0 n va vb m.toNat src))

/-! ## Group sums (R99 to R102) -/

/-- A scale (R95). -/
def scaleAt (mem : Mem) (d : MatDesc) (g i : Nat) : Num :=
  match d.mode with
  | 1 => let e := (Mem.byte mem (d.scale + 128 * g + i)).toNat; if e = 255 then .nan false else .fin false 1 ((e : Int) - 127)
  | 2 => (match fmtF32.unpack (natLE (Mem.read mem (d.scale + 4 * i) 4)) with
    | .nan _ => .nan false
    | x => x)
  | _ => .fin false 1 0

/-- The exponent of the leading bit of the greatest term; none when no term is other than zero. -/
def leadExp (ts : List Num) : Option Int :=
  ts.foldl (fun a t =>
    match t with
    | .fin _ m e => if m = 0 then a else
        let l := (Nat.log2 m : Int) + e
        match a with
        | some x => some (max x l)
        | none => some l
    | _ => a) none

/-- A finite term cut toward zero to a multiple of 2^lo, as a multiplier, and whether that changed it. -/
def cutTerm (lo : Int) (t : Num) : Int × Bool :=
  match t with
  | .fin neg m e =>
    let q : Nat := if lo ≤ e then m * 2 ^ (e - lo).toNat else m / 2 ^ (lo - e).toNat
    (if neg then -(q : Int) else q, decide (e < lo) && m % 2 ^ (lo - e).toNat != 0)
  | _ => (0, false)

/-- P and sigma of finite terms, for the larger plane count m. -/
def windowSum (m : Nat) (ts : List Num) : Num × Bool :=
  match leadExp ts with
  | none => (.fin (ts.all (fun t => match t with
      | .fin neg _ _ => neg
      | _ => false)) 0 0, false)
  | some x =>
    let lo := x + 6 - (3 * m + 8 : Nat)
    let us := ts.map (cutTerm lo)
    let v := us.foldl (fun a u => a + u.1) (0 : Int)
    (.fin (decide (v < 0)) v.natAbs lo, us.any (·.2))

def Num.isInf : Num → Bool
  | .inf _ => true
  | _ => false

/-- A value is NaN or infinite. -/
def Num.isSpecial (x : Num) : Bool := x.isNan || x.isInf

/-- P of a group with an infinite term: the infinity of its sign. [DEDUCED: log 33] -/
def infTerm (ts : List Num) : Option Bool :=
  ts.findSome? (fun t => match t with
    | .inf n => some n
    | _ => none)

/-- The result of a special group (R101). Beside a NaN, infinities of both signs, or a scale that is zero and a sum that is not finite, raise no flag.
[DEDUCED: log 33] -/
def specialGroup (f : Fmt) (m : Nat) (sat : Bool) (acc sa sb : Num) (ts : List Num) (fl : Flags) : Nat × Flags :=
  let fl := fl ||| (mulNum sa sb).2
  if acc.isNan || sa.isNan || sb.isNan || ts.any Num.isNan then (f.cnan, fl)
  else if ts.contains (.inf true) && ts.contains (.inf false) then (f.cnan, fl ||| fNV)
  else
    let p := match infTerm ts with
      | some n => .inf n
      | none => (windowSum m ts).1
    let v := (mulNum (mulNum sa sb).1 p).1
    let clamp (n : Bool) : Nat × Flags := if sat then (f.maxBits n, fl ||| fSAT ||| fNX) else (f.infBits n, fl)
    match v, acc with
    | .nan _, _ => (f.cnan, fl ||| fNV)
    | .inf a, .inf b => if a = b then clamp a else (f.cnan, fl ||| fNV)
    | .inf a, _ => clamp a
    | _, .inf b => clamp b
    | _, _ => (f.cnan, fl)

/-- The rounding of a group (R100). [DESIGN CHOICE: log 88] -/
def roundAcc (f : Fmt) (sat : Bool) (v : Num) (sigma : Bool) : Nat × Flags :=
  match v with
  | .fin neg m e =>
    if m = 0 then (f.signBit (neg && !sigma), if sigma then fNX else 0)
    else
      let r := roundFin f (if sigma then 4 else 0) sat neg m e
      let low := decide (r.1 % 2 ^ (f.ew + f.fw) < 2 ^ f.fw)
      (r.1, r.2 ||| (if sigma then fNX else 0) ||| (if sigma && low then fUF else 0))
  | _ => (f.cnan, 0)

/-- One group of a floating-point sum: the accumulator's pattern and the flags. -/
def floatGroup (f : Fmt) (m : Nat) (sat : Bool) (acc : Nat) (sa sb : Num) (ts : List (Num × Flags)) : Nat × Flags :=
  let x := f.unpack acc
  let ps := ts.map (·.1)
  let fl := ts.foldl (fun a t => a ||| t.2) 0
  if x.isSpecial || sa.isSpecial || sb.isSpecial || ps.any Num.isSpecial then specialGroup f m sat x sa sb ps fl
  else
    let w := windowSum m ps
    roundAcc f sat (addNum 0 x (mulNum (mulNum sa sb).1 w.1).1).1 w.2

/-- The integer value of a term. -/
def intTerm (t : Num) : Int :=
  match t with
  | .fin neg m _ => if neg then -(m : Int) else m
  | _ => 0

/-- One group of an integer sum. -/
def intGroup (sat : Bool) (acc : Nat) (ts : List (Num × Flags)) : Nat × Flags :=
  let v := intVal true 32 acc + ts.foldl (fun a t => a + intTerm t.1) (0 : Int)
  if sat then cvtII true 32 true v else (intBits 32 v, 0)

/-- The product terms of group g of element (i, j). -/
def mmaTerms (mem : Mem) (da db : MatDesc) (bt : Bool) (fa fb : MatFmt) (i j g : Nat) : List (Num × Flags) :=
  (upFrom 0 32).map (fun k =>
    mulNum (blockElem mem fa false da.planes (da.off + g * fa.block false) i k)
           (blockElem mem fb (!bt) db.planes (db.off + g * fb.block (!bt)) j k))

/-- Element (i, j): all its groups in ascending order. [DEDUCED: log 33] -/
def mmaElem (mem : Mem) (da db : MatDesc) (bt sat : Bool) (fa fb : MatFmt) (kind : AccKind) (acc i j : Nat) : Nat × Flags :=
  (upFrom 0 da.groups).foldl (fun a g =>
    let ts := mmaTerms mem da db bt fa fb i j g
    let m := Nat.max fa.p fb.p
    let r := match kind with
      | .f32 => floatGroup fmtF32 m sat a.1 (scaleAt mem da g i) (scaleAt mem db g j) ts
      | .f64 => floatGroup fmtF64 m sat a.1 (scaleAt mem da g i) (scaleAt mem db g j) ts
      | .i32 => intGroup sat a.1 ts
    (r.1, a.2 ||| r.2)) (acc, 0)

/-- Bytes of an accumulator element. -/
def AccKind.bytes : AccKind → Nat
  | .f64 => 8
  | _ => 4

/-- All elements of an MMA in the order of their bytes (R59): the bytes and the flags. -/
def mmaResult (o : TileOp) (tiles : Mem) : Bytes × Flags :=
  let da := matDesc o.a
  let db := matDesc o.b
  match pairFormats da.code db.code, matFmt da.code, matFmt db.code with
  | some kind, some fa, some fb =>
    let n := kind.bytes
    (upFrom 0 16384).foldl (fun r e =>
      let acc := if o.md.testBit 0 then natLE (Mem.read tiles (o.tile * tileBytes + n * e) n) else 0
      let v := mmaElem o.src da db (o.md.testBit 1) (o.md.testBit 2) fa fb kind acc (e / 128) (e % 128)
      (r.1 ++ bytesLE v.1 n, r.2 ||| v.2)) ([], 0)
  | _, _, _ => ([], 0)

/-- A tile operation leaves the engine. -/
def retireTile (s : State) (p id : Nat) : State := s.modPly p (fun y => { y with tileOps := y.tileOps.filter (fun o => o.id != id) })

/-- The tile operation with a number, and its ply. -/
def tileOpOf (s : State) (id : Nat) : Option (Nat × TileOp) :=
  s.plies.findSome? (fun p => (p.2.tileOps.find? (fun o => o.id == id)).map (fun o => (p.1, o)))

/-- MMA_COMPLETE: every element is written and the flags are set (R212); a failed residue check, or a bad word of the accumulator, is a
consumed error and writes nothing (R349, R352). [DESIGN CHOICE: log 31] -/
def execMmaComplete (id : Nat) (s : State) : Res :=
  .next (match tileOpOf s id with
    | none => s
    | some (p, o) =>
      let y := s.ply p
      let lo := o.tile * tileBytes
      let hi := lo + tileBytes * (tilesOf o).length
      let err (t : State) (cls cause : Nat) (u : Bool) : State :=
        consumeError (retireTile t p id) p { cls := cls, cause := cause, pc := o.pc.toNat, strand := o.strand, frag := o.frag, unrec := u, away := !o.handler }
      let s := if o.md.testBit 0 then detectTile s p lo hi else s
      if (s.core y.core).resMx then err (fireInjection (s.modCore y.core (fun x => { x with resMx := false })) 1 2) 1 2 false
      else
        match (if o.md.testBit 0 then tileError s p lo hi else none) with
        | some u => err (fireMarks s p 3 (badTile lo hi)) 2 3 u
        | none =>
          let r := mmaResult o (s.ply p).tiles
          (retireTile (tileWrite s p lo r.1) p id).modStrand p o.strand (fun t => { t with fpst := t.fpst ||| r.2 }))

/-- TILE_OPERATION_COMPLETE: a TLD, TST or TZERO leaves the engine (R221). [DESIGN CHOICE: log 32] -/
def execTileOperationComplete (id : Nat) (s : State) : Res :=
  .next (match tileOpOf s id with
    | none => s
    | some (p, _) => retireTile s p id)

/-! ## Tile moves (R218 to R220) -/

/-- The row control word, checked: count, stride, first row. -/
def rowControl (c : W64) : Except Stop (Nat × Nat × Nat) :=
  let n := bits c 8 7 + 1
  let st := if bits c 16 16 = 0 then 512 else 16 * bits c 16 16
  let r0 := bits c 0 7
  if bits c 32 32 ≠ 0 ∨ bit c 15 ∨ bit c 7 ∨ 128 < r0 + n ∨ (1 < n ∧ st < 512) then .error (illegalOperand 2)
  else .ok (n, st, r0)

/-- The rows of a tile move: every row's address passes R65, inside the allocation that p addresses, before any byte moves (R219). -/
def tileRows (s : State) (ptr : W64) (n st : Nat) (store : Bool) : Except Stop (List (Nat × Nat)) :=
  (upFrom 0 n).foldlM (fun l r => do
    let ea ← checkOne s ptr ((r * st : Nat) : Int) ⟨[if store then 1 else 0], store, 512, 16, [1, 2]⟩
    need (bits ea 20 2 == bits ptr 20 2) (.trap { cause := 0x0B, detail := 3, addr := uncheckedSum ptr ((r * st : Nat) : Int) })
    match scratchOf s s.iss.ply ea with
    | some x => .ok (l ++ [x])
    | none => .error (hold s)) []

/-- TLD: raw rows from scratch; poisoned scratch is consumed (R219, R367). [DESIGN CHOICE: log 32] -/
def execTld (t : BitVec 4) (a b : BitVec 8) (s : State) : Res :=
  run s (do
    let ptr ← readS s a
    let c ← readS s b
    let (n, st, r0) ← rowControl c
    needTile s t.toNat
    let rows ← tileRows s ptr n st false
    needIdle s [t.toNat]
    let s := rows.foldl (fun s x => detectRanges s x.1 [(x.2, 512)]) s
    match rows.foldl (fun q x => joinPoison q ((scrPoisoned s x.1 x.2 512).map (fun u => u || x.1 != s.iss.ply))) none with
    | some u => .error (consumeHere s { cls := 6, cause := 2, unrec := u, addr := ptr })
    | none =>
      let data := rows.flatMap (fun x => scrRead s x.1 x.2 512)
      .ok (acceptTile (tileWrite s s.iss.ply (t.toNat * tileBytes + 512 * r0) data) 1 t.toNat ptr c 0 []))

/-- TST: raw rows to scratch at the banks; a bad word of the tile is consumed (R219, R352). [DESIGN CHOICE: log 32] -/
def execTst (t : BitVec 4) (a b : BitVec 8) (s : State) : Res :=
  run s (do
    let ptr ← readS s a
    let c ← readS s b
    let (n, st, r0) ← rowControl c
    needTile s t.toNat
    let rows ← tileRows s ptr n st true
    needIdle s [t.toNat]
    need (!(rows.any (fun x => rangeRead s s.iss.ply x.1 x.2 512))) (hold s)
    let lo := t.toNat * tileBytes + 512 * r0
    let s := detectTile s s.iss.ply lo (lo + 512 * n)
    match tileError s s.iss.ply lo (lo + 512 * n) with
    | some u => .error (consumeHere (fireMarks s s.iss.ply 3 (badTile lo (lo + 512 * n))) { cls := 2, cause := 3, unrec := u })
    | none =>
      let s := (rows.zip (upFrom 0 n)).foldl (fun s x => scrWrite s x.1.1 x.1.2 (Mem.read s.curPly.tiles (lo + 512 * x.2) 512)) s
      .ok (acceptTile s 2 t.toNat ptr c 0 []))

/-- TZERO (R220). [DESIGN CHOICE: log 32] -/
def execTzero (t : BitVec 4) (s : State) : Res :=
  run s (do
    needTile s t.toNat
    needIdle s [t.toNat]
    .ok (acceptTile (tileWrite s s.iss.ply (t.toNat * tileBytes) (List.replicate tileBytes 0)) 3 t.toNat 0 0 0 []))

/-! ## Batches (R221) -/

/-- MBATCH: the counter goes up and its new value is written. -/
def execMbatch (a : BitVec 8) (s : State) : Res :=
  run s (do
    let n := s.curPly.batch + 1
    writeS (s.modCurPly (fun y => { y with batch := n })) a n)

/-- MWAIT: not ready while an operation of a batch up to S(sa) is under way. -/
def execMwait (a : BitVec 8) (s : State) : Res :=
  run s (do
    let v ← readS s a
    need (!(s.curPly.tileOps.any (fun o => decide (o.batch ≤ v.toNat)))) (hold s)
    .ok s)

end Sys2Proof.Machine
end

