-- ==== Sys2Proof/Machine/VectorFp.lean ====
section
/-! DEFINITION. Vector floating point (R157 to R159): VF64, VF32 on two elements, VF16 on four elements of f16 or bf16. -/
namespace Sys2Proof.Machine

/-- Two sources, on the elements of a format of 32 or fewer bits. -/
def vf2 (s : State) (g d a b : Nat) (n : Nat) (f : Nat → Nat → Nat × Flags) : Eff :=
  vecOp s g d [a, b] (fun l => el2 n f (vreg s a l) (vreg s b l))

/-- Two sources and the old destination. -/
def vf3 (s : State) (g d a b : Nat) (n : Nat) (f : Nat → Nat → Nat → Nat × Flags) : Eff :=
  vecOp s g d [a, b] (fun l => el3 n f (vreg s a l) (vreg s b l) (vreg s d l))

/-- One source. -/
def vf1 (s : State) (g d a : Nat) (n : Nat) (f : Nat → Nat × Flags) : Eff :=
  vecOp s g d [a] (fun l => el1 n f (vreg s a l))

/-- f64 forms, under the residue check (R347). -/
def vd2 (s : State) (g d a b : Nat) (f : Nat → Nat → Nat × Flags) : Eff :=
  vecOp64 s g d [a, b] (fun l => el2 64 f (vreg s a l) (vreg s b l))
def vd3 (s : State) (g d a b : Nat) (f : Nat → Nat → Nat → Nat × Flags) : Eff :=
  vecOp64 s g d [a, b] (fun l => el3 64 f (vreg s a l) (vreg s b l) (vreg s d l))
def vd1 (s : State) (g d a : Nat) (f : Nat → Nat × Flags) : Eff :=
  vecOp64 s g d [a] (fun l => el1 64 f (vreg s a l))

/-- The sign operations of a format: absolute value, negation, copied sign (R157). -/
def absOp (f : Fmt) (x : Nat) : Nat × Flags := signOp f x (fAbs f x)
def negOp (f : Fmt) (x : Nat) : Nat × Flags := signOp f x (fNeg f x)
def cpsgnOp (f : Fmt) (x y : Nat) : Nat × Flags := signOp f x (fCopySign f x y)

/-- VCLASS of an element (R158). -/
def classOp (f : Fmt) (x : Nat) : Nat × Flags := (fClass f x, 0)

/-- The format of a VF16 word: fn4 [3] (R159). -/
def fmtHalf (t : BitVec 1) : Fmt := if t = 1 then fmtBF16 else fmtF16

/-- VADD.F64: a + b, RNE (R157). -/
def execVaddF64 (d a b : BitVec 6) (p : BitVec 3) (s : State) : Res :=
  run s (vd2 s p.toNat d.toNat a.toNat b.toNat (fAdd fmtF64))

/-- VSUB.F64: a - b, RNE (R157). -/
def execVsubF64 (d a b : BitVec 6) (p : BitVec 3) (s : State) : Res :=
  run s (vd2 s p.toNat d.toNat a.toNat b.toNat (fSub fmtF64))

/-- VMUL.F64: a b, RNE (R157). -/
def execVmulF64 (d a b : BitVec 6) (p : BitVec 3) (s : State) : Res :=
  run s (vd2 s p.toNat d.toNat a.toNat b.toNat (fMul fmtF64))

/-- VFMA.F64: a b + d, one rounding (R157). -/
def execVfmaF64 (d a b : BitVec 6) (p : BitVec 3) (s : State) : Res :=
  run s (vd3 s p.toNat d.toNat a.toNat b.toNat (fFma fmtF64))

/-- VFMS.F64: a b - d, one rounding (R157). -/
def execVfmsF64 (d a b : BitVec 6) (p : BitVec 3) (s : State) : Res :=
  run s (vd3 s p.toNat d.toNat a.toNat b.toNat (fFms fmtF64))

/-- VFNMA.F64: d - a b, one rounding (R157). -/
def execVfnmaF64 (d a b : BitVec 6) (p : BitVec 3) (s : State) : Res :=
  run s (vd3 s p.toNat d.toNat a.toNat b.toNat (fFnma fmtF64))

/-- VMIN.F64: under R84 (R157). -/
def execVminF64 (d a b : BitVec 6) (p : BitVec 3) (s : State) : Res :=
  run s (vd2 s p.toNat d.toNat a.toNat b.toNat (fMinMax fmtF64 false))

/-- VMAX.F64: under R84 (R157). -/
def execVmaxF64 (d a b : BitVec 6) (p : BitVec 3) (s : State) : Res :=
  run s (vd2 s p.toNat d.toNat a.toNat b.toNat (fMinMax fmtF64 true))

/-- VDIV.F64: a / b, correctly rounded (R157). -/
def execVdivF64 (d a b : BitVec 6) (p : BitVec 3) (s : State) : Res :=
  run s (vd2 s p.toNat d.toNat a.toNat b.toNat (fDiv fmtF64))

/-- VSQRT.F64: square root, correctly rounded (R157). -/
def execVsqrtF64 (d a : BitVec 6) (p : BitVec 3) (s : State) : Res :=
  run s (vd1 s p.toNat d.toNat a.toNat (fSqrt fmtF64))

/-- VABS.F64: a with sign 0 (R157). -/
def execVabsF64 (d a : BitVec 6) (p : BitVec 3) (s : State) : Res :=
  run s (vd1 s p.toNat d.toNat a.toNat (absOp fmtF64))

/-- VNEG.F64: a with its sign inverted (R157). -/
def execVnegF64 (d a : BitVec 6) (p : BitVec 3) (s : State) : Res :=
  run s (vd1 s p.toNat d.toNat a.toNat (negOp fmtF64))

/-- VCLASS.F64: the class mask of R158 (R157). -/
def execVclassF64 (d a : BitVec 6) (p : BitVec 3) (s : State) : Res :=
  run s (vd1 s p.toNat d.toNat a.toNat (classOp fmtF64))

/-- VCPSGN.F64: the magnitude of a with the sign of b (R157). -/
def execVcpsgnF64 (d a b : BitVec 6) (p : BitVec 3) (s : State) : Res :=
  run s (vd2 s p.toNat d.toNat a.toNat b.toNat (cpsgnOp fmtF64))

/-- VRINT.F64: a rounded to an integral value by a mode of R81; codes 101 to 111 trap (R157), before a register beyond the allotment does.
[DESIGN CHOICE: log 92] -/
def execVrintF64 (d a : BitVec 6) (r p : BitVec 3) (s : State) : Res :=
  run s (do
    need (decide (r.toNat < 5)) (illegalOperand 1)
    vd1 s p.toNat d.toNat a.toNat (fRint fmtF64 r.toNat))

/-- VADD.F32X2: a + b, RNE (R157). -/
def execVaddF32x2 (d a b : BitVec 6) (p : BitVec 3) (s : State) : Res :=
  run s (vf2 s p.toNat d.toNat a.toNat b.toNat 32 (fAdd fmtF32))

/-- VSUB.F32X2: a - b, RNE (R157). -/
def execVsubF32x2 (d a b : BitVec 6) (p : BitVec 3) (s : State) : Res :=
  run s (vf2 s p.toNat d.toNat a.toNat b.toNat 32 (fSub fmtF32))

/-- VMUL.F32X2: a b, RNE (R157). -/
def execVmulF32x2 (d a b : BitVec 6) (p : BitVec 3) (s : State) : Res :=
  run s (vf2 s p.toNat d.toNat a.toNat b.toNat 32 (fMul fmtF32))

/-- VFMA.F32X2: a b + d, one rounding (R157). -/
def execVfmaF32x2 (d a b : BitVec 6) (p : BitVec 3) (s : State) : Res :=
  run s (vf3 s p.toNat d.toNat a.toNat b.toNat 32 (fFma fmtF32))

/-- VFMS.F32X2: a b - d, one rounding (R157). -/
def execVfmsF32x2 (d a b : BitVec 6) (p : BitVec 3) (s : State) : Res :=
  run s (vf3 s p.toNat d.toNat a.toNat b.toNat 32 (fFms fmtF32))

/-- VFNMA.F32X2: d - a b, one rounding (R157). -/
def execVfnmaF32x2 (d a b : BitVec 6) (p : BitVec 3) (s : State) : Res :=
  run s (vf3 s p.toNat d.toNat a.toNat b.toNat 32 (fFnma fmtF32))

/-- VMIN.F32X2: under R84 (R157). -/
def execVminF32x2 (d a b : BitVec 6) (p : BitVec 3) (s : State) : Res :=
  run s (vf2 s p.toNat d.toNat a.toNat b.toNat 32 (fMinMax fmtF32 false))

/-- VMAX.F32X2: under R84 (R157). -/
def execVmaxF32x2 (d a b : BitVec 6) (p : BitVec 3) (s : State) : Res :=
  run s (vf2 s p.toNat d.toNat a.toNat b.toNat 32 (fMinMax fmtF32 true))

/-- VDIV.F32X2: a / b, correctly rounded (R157). -/
def execVdivF32x2 (d a b : BitVec 6) (p : BitVec 3) (s : State) : Res :=
  run s (vf2 s p.toNat d.toNat a.toNat b.toNat 32 (fDiv fmtF32))

/-- VSQRT.F32X2: square root, correctly rounded (R157). -/
def execVsqrtF32x2 (d a : BitVec 6) (p : BitVec 3) (s : State) : Res :=
  run s (vf1 s p.toNat d.toNat a.toNat 32 (fSqrt fmtF32))

/-- VABS.F32X2: a with sign 0 (R157). -/
def execVabsF32x2 (d a : BitVec 6) (p : BitVec 3) (s : State) : Res :=
  run s (vf1 s p.toNat d.toNat a.toNat 32 (absOp fmtF32))

/-- VNEG.F32X2: a with its sign inverted (R157). -/
def execVnegF32x2 (d a : BitVec 6) (p : BitVec 3) (s : State) : Res :=
  run s (vf1 s p.toNat d.toNat a.toNat 32 (negOp fmtF32))

/-- VCLASS.F32X2: the class mask of R158 (R157). -/
def execVclassF32x2 (d a : BitVec 6) (p : BitVec 3) (s : State) : Res :=
  run s (vf1 s p.toNat d.toNat a.toNat 32 (classOp fmtF32))

/-- VCPSGN.F32X2: the magnitude of a with the sign of b (R157). -/
def execVcpsgnF32x2 (d a b : BitVec 6) (p : BitVec 3) (s : State) : Res :=
  run s (vf2 s p.toNat d.toNat a.toNat b.toNat 32 (cpsgnOp fmtF32))

/-- VRINT.F32X2: a rounded to an integral value by a mode of R81; codes 101 to 111 trap (R157). -/
def execVrintF32x2 (d a : BitVec 6) (r p : BitVec 3) (s : State) : Res :=
  run s (do
    need (decide (r.toNat < 5)) (illegalOperand 1)
    vf1 s p.toNat d.toNat a.toNat 32 (fRint fmtF32 r.toNat))

/-- VSUBN.F64: a - b formed exactly, rounded once to f32, zero above (R157). -/
def execVsubnF64 (d a b : BitVec 6) (p : BitVec 3) (s : State) : Res :=
  run s (vd2 s p.toNat d.toNat a.toNat b.toNat fSubNarrow)

/-- VF16 VADD (R159). -/
def execVf16Add (d a b : BitVec 6) (p : BitVec 3) (t : BitVec 1) (s : State) : Res :=
  run s (vf2 s p.toNat d.toNat a.toNat b.toNat 16 (fAdd (fmtHalf t)))

/-- VF16 VSUB (R159). -/
def execVf16Sub (d a b : BitVec 6) (p : BitVec 3) (t : BitVec 1) (s : State) : Res :=
  run s (vf2 s p.toNat d.toNat a.toNat b.toNat 16 (fSub (fmtHalf t)))

/-- VF16 VMUL (R159). -/
def execVf16Mul (d a b : BitVec 6) (p : BitVec 3) (t : BitVec 1) (s : State) : Res :=
  run s (vf2 s p.toNat d.toNat a.toNat b.toNat 16 (fMul (fmtHalf t)))

/-- VF16 VFMA: a b + d, one rounding (R159). -/
def execVf16Fma (d a b : BitVec 6) (p : BitVec 3) (t : BitVec 1) (s : State) : Res :=
  run s (vf3 s p.toNat d.toNat a.toNat b.toNat 16 (fFma (fmtHalf t)))

/-- VF16 VMIN (R84, R159). -/
def execVf16Min (d a b : BitVec 6) (p : BitVec 3) (t : BitVec 1) (s : State) : Res :=
  run s (vf2 s p.toNat d.toNat a.toNat b.toNat 16 (fMinMax (fmtHalf t) false))

/-- VF16 VMAX (R84, R159). -/
def execVf16Max (d a b : BitVec 6) (p : BitVec 3) (t : BitVec 1) (s : State) : Res :=
  run s (vf2 s p.toNat d.toNat a.toNat b.toNat 16 (fMinMax (fmtHalf t) true))

/-- VF16 VABS (R159). -/
def execVf16Abs (d a : BitVec 6) (p : BitVec 3) (t : BitVec 1) (s : State) : Res :=
  run s (vf1 s p.toNat d.toNat a.toNat 16 (absOp (fmtHalf t)))

/-- VF16 VNEG (R159). -/
def execVf16Neg (d a : BitVec 6) (p : BitVec 3) (t : BitVec 1) (s : State) : Res :=
  run s (vf1 s p.toNat d.toNat a.toNat 16 (negOp (fmtHalf t)))

end Sys2Proof.Machine
end

