-- ==== Sys2Proof/Machine/Scalar.lean ====
section
/-! DEFINITION. Scalar arithmetic (R129 to R133): register forms, immediate forms and floating point. -/
namespace Sys2Proof.Machine

/-- A register form of format SR (R130): sd from S(sa) and S(sb). -/
def srOp (s : State) (d a : BitVec 8) (b : BitVec 6) (f : W64 → W64 → W64) : Eff := do
  let x ← readS s a
  writeS s d (f x (readSb6 s b))

/-- A unary register form. -/
def srUn (s : State) (d a : BitVec 8) (f : W64 → W64) : Eff := do
  let x ← readS s a
  writeS s d (f x)

/-- A result given by a function of natural numbers. -/
def nat2 (f : Nat → Nat → Nat) (x y : W64) : W64 := w64 (f x.toNat y.toNat)

/-- The conditions of SCMP (R131). -/
def scalarCond (k : Nat) (x y : W64) : Bool :=
  match k with
  | 0 => x == y
  | 1 => x != y
  | 2 => decide (x.toInt < y.toInt)
  | 3 => decide (y.toInt ≤ x.toInt)
  | 4 => decide (x.toNat < y.toNat)
  | 5 => decide (y.toNat ≤ x.toNat)
  | _ => x &&& y != 0

/-- The immediate of SCMPI: zero-extended for LTN and GEN, sign-extended otherwise (R132). -/
def cmpImm (k : Nat) (i : BitVec 6) : W64 := if k = 4 ∨ k = 5 then zext64 i else sext64 i

/-- A floating-point register form (R133). -/
def sfOp (s : State) (d a : BitVec 8) (b : BitVec 6) (f : Nat → Nat → Nat × Flags) : Eff := do
  let x ← readS s a
  let r := f x.toNat (readSb6 s b).toNat
  residueFp s 0
  scalarResult s d (w64 r.1, r.2)

/-- A rounding field names a mode of R81, else the illegal-operand trap. -/
def needRound (r : BitVec 3) : Except Stop Unit := need (decide (r.toNat < 5)) (illegalOperand 1)

/-- A scalar conversion under a rounding mode. -/
def sfCvt (s : State) (d a : BitVec 8) (r : BitVec 3) (f : Nat → W64 → Nat × Flags) : Eff := do
  needRound r
  let x ← readS s a
  let v := f r.toNat x
  residueFp s 0
  scalarResult s d (w64 v.1, v.2)


/-- SADD: a + b (R130). -/
def execSadd (d a : BitVec 8) (b : BitVec 6) (s : State) : Res := run s (srOp s d a b (fun x y => x + y))

/-- SSUB: a - b (R130). -/
def execSsub (d a : BitVec 8) (b : BitVec 6) (s : State) : Res := run s (srOp s d a b (fun x y => x - y))

/-- SAND (R130). -/
def execSand (d a : BitVec 8) (b : BitVec 6) (s : State) : Res := run s (srOp s d a b (fun x y => x &&& y))

/-- SOR (R130). -/
def execSor (d a : BitVec 8) (b : BitVec 6) (s : State) : Res := run s (srOp s d a b (fun x y => x ||| y))

/-- SXOR (R130). -/
def execSxor (d a : BitVec 8) (b : BitVec 6) (s : State) : Res := run s (srOp s d a b (fun x y => x ^^^ y))

/-- SSHL: a << b[5:0] (R130). -/
def execSshl (d a : BitVec 8) (b : BitVec 6) (s : State) : Res := run s (srOp s d a b (fun x y => x <<< bits y 0 6))

/-- SSHR: a >> b[5:0] with zeros (R130). -/
def execSshr (d a : BitVec 8) (b : BitVec 6) (s : State) : Res := run s (srOp s d a b (fun x y => x >>> bits y 0 6))

/-- SSRA: a >> b[5:0] with a[63] (R130). -/
def execSsra (d a : BitVec 8) (b : BitVec 6) (s : State) : Res := run s (srOp s d a b (fun x y => x.sshiftRight (bits y 0 6)))

/-- SMUL: low 64 bits of a b (R130). -/
def execSmul (d a : BitVec 8) (b : BitVec 6) (s : State) : Res := run s (srOp s d a b (fun x y => x * y))

/-- SMULH: bits [127:64] of the signed product (R130). -/
def execSmulh (d a : BitVec 8) (b : BitVec 6) (s : State) : Res := run s (srOp s d a b (nat2 (iMulHigh true 64)))

/-- SMULHN: bits [127:64] of the unsigned product (R130). -/
def execSmulhn (d a : BitVec 8) (b : BitVec 6) (s : State) : Res := run s (srOp s d a b (nat2 (iMulHigh false 64)))

/-- SMIN (R130). -/
def execSmin (d a : BitVec 8) (b : BitVec 6) (s : State) : Res := run s (srOp s d a b (nat2 (iMinMax true false 64)))

/-- SMAX (R130). -/
def execSmax (d a : BitVec 8) (b : BitVec 6) (s : State) : Res := run s (srOp s d a b (nat2 (iMinMax true true 64)))

/-- SMINN (R130). -/
def execSminn (d a : BitVec 8) (b : BitVec 6) (s : State) : Res := run s (srOp s d a b (nat2 (iMinMax false false 64)))

/-- SMAXN (R130). -/
def execSmaxn (d a : BitVec 8) (b : BitVec 6) (s : State) : Res := run s (srOp s d a b (nat2 (iMinMax false true 64)))

/-- SSEL: a if the old sd is not zero, else b (R130). -/
def execSsel (d a : BitVec 8) (b : BitVec 6) (s : State) : Res :=
  run s (do
    let c ← readS s d
    srOp s d a b (fun x y => if c = 0 then y else x))

/-- SDIV: the signed quotient of R85 (R130). -/
def execSdiv (d a : BitVec 8) (b : BitVec 6) (s : State) : Res := run s (srOp s d a b (nat2 (iDiv true 64)))

/-- SDIVN: the unsigned quotient of R85 (R130). -/
def execSdivn (d a : BitVec 8) (b : BitVec 6) (s : State) : Res := run s (srOp s d a b (nat2 (iDiv false 64)))

/-- SREM: the signed remainder of R85 (R130). -/
def execSrem (d a : BitVec 8) (b : BitVec 6) (s : State) : Res := run s (srOp s d a b (nat2 (iRem true 64)))

/-- SREMN: the unsigned remainder of R85 (R130). -/
def execSremn (d a : BitVec 8) (b : BitVec 6) (s : State) : Res := run s (srOp s d a b (nat2 (iRem false 64)))

/-- SPOPC: number of 1 bits (R130). -/
def execSpopc (d a : BitVec 8) (s : State) : Res := run s (srUn s d a (fun x => w64 (popCount x)))

/-- SCLZ: leading zeros, 64 for 0 (R130). -/
def execSclz (d a : BitVec 8) (s : State) : Res := run s (srUn s d a (fun x => w64 (clz x)))

/-- SCTZ: trailing zeros, 64 for 0 (R130). -/
def execSctz (d a : BitVec 8) (s : State) : Res := run s (srUn s d a (fun x => w64 (ctz x)))

/-- SBREV: bit k to bit 63 - k (R130). -/
def execSbrev (d a : BitVec 8) (s : State) : Res := run s (srUn s d a (fun x => bitReverse x))

/-- SCMP: 1 when the condition holds, else 0 (R131). -/
def execScmp (d a : BitVec 8) (b : BitVec 6) (k : BitVec 3) (s : State) : Res :=
  run s (srOp s d a b (fun x y => b2w (scalarCond k.toNat x y)))

/-- SADDI: a + sext(imm9) (R132). -/
def execSaddi (d a : BitVec 8) (i : BitVec 9) (s : State) : Res := run s (srUn s d a (fun x => x + sext64 i))

/-- SANDI (R132). -/
def execSandi (d a : BitVec 8) (i : BitVec 9) (s : State) : Res := run s (srUn s d a (fun x => x &&& sext64 i))

/-- SORI (R132). -/
def execSori (d a : BitVec 8) (i : BitVec 9) (s : State) : Res := run s (srUn s d a (fun x => x ||| sext64 i))

/-- SXORI (R132). -/
def execSxori (d a : BitVec 8) (i : BitVec 9) (s : State) : Res := run s (srUn s d a (fun x => x ^^^ sext64 i))

/-- SSHLI: a << n (R132). -/
def execSshli (d a : BitVec 8) (n : BitVec 6) (s : State) : Res := run s (srUn s d a (fun x => x <<< n.toNat))

/-- SSHRI: a >> n with zeros (R132). -/
def execSshri (d a : BitVec 8) (n : BitVec 6) (s : State) : Res := run s (srUn s d a (fun x => x >>> n.toNat))

/-- SSRAI: a >> n with a[63] (R132). -/
def execSsrai (d a : BitVec 8) (n : BitVec 6) (s : State) : Res := run s (srUn s d a (fun x => x.sshiftRight n.toNat))

/-- SRORI: a rotated right by n (R132). -/
def execSrori (d a : BitVec 8) (n : BitVec 6) (s : State) : Res := run s (srUn s d a (fun x => x.rotateRight n.toNat))

/-- SCMPI: SCMP with a 6-bit immediate (R132). -/
def execScmpi (d a : BitVec 8) (k : BitVec 3) (i : BitVec 6) (s : State) : Res :=
  run s (srUn s d a (fun x => b2w (scalarCond k.toNat x (cmpImm k.toNat i))))

/-- SLI: sext(imm17) (R132). -/
def execSli (d : BitVec 8) (i : BitVec 17) (s : State) : Res := run s (writeS s d (sext64 i))

/-- SHIN: (old sd << 17) OR imm17; of the specials it names only %zero (R132). -/
def execShin (d : BitVec 8) (i : BitVec 17) (s : State) : Res :=
  run s (do
    need (decide (d.toNat ≤ 192)) (illegalOperand 0)
    let x ← readS s d
    writeS s d ((x <<< 17) ||| zext64 i))

/-- SFADD: a + b, RNE (R133). -/
def execSfadd (d a : BitVec 8) (b : BitVec 6) (s : State) : Res := run s (sfOp s d a b (fAdd fmtF64))

/-- SFSUB: a - b, RNE (R133). -/
def execSfsub (d a : BitVec 8) (b : BitVec 6) (s : State) : Res := run s (sfOp s d a b (fSub fmtF64))

/-- SFMUL: a b, RNE (R133). -/
def execSfmul (d a : BitVec 8) (b : BitVec 6) (s : State) : Res := run s (sfOp s d a b (fMul fmtF64))

/-- SFDIV: a / b, correctly rounded (R133). -/
def execSfdiv (d a : BitVec 8) (b : BitVec 6) (s : State) : Res := run s (sfOp s d a b (fDiv fmtF64))

/-- SFMIN (R84) (R133). -/
def execSfmin (d a : BitVec 8) (b : BitVec 6) (s : State) : Res := run s (sfOp s d a b (fMinMax fmtF64 false))

/-- SFMAX (R84) (R133). -/
def execSfmax (d a : BitVec 8) (b : BitVec 6) (s : State) : Res := run s (sfOp s d a b (fMinMax fmtF64 true))

/-- SCVTF: the i64 value converted to f64 by the mode (R89, R133). -/
def execScvtf (d a : BitVec 8) (r : BitVec 3) (s : State) : Res :=
  run s (sfCvt s d a r (fun m x => cvtIF fmtF64 m false x.toInt))

/-- SCVTI: the f64 value converted to i64 by the mode, without .SAT (R88, R133). -/
def execScvti (d a : BitVec 8) (r : BitVec 3) (s : State) : Res :=
  run s (sfCvt s d a r (fun m x => cvtFI fmtF64 true 64 m false x.toNat))

end Sys2Proof.Machine
end

