-- ==== Sys2Proof/Machine/VectorInt.lean ====
section
/-! DEFINITION. Vector integers, logic, moves, compares, conversions, dot products and special functions (R160 to R170). -/
namespace Sys2Proof.Machine

/-- An element operation without flags. -/
def plain2 (f : Nat → Nat → Nat) (x y : Nat) : Nat × Flags := (f x y, 0)
def plain1 (f : Nat → Nat) (x : Nat) : Nat × Flags := (f x, 0)

/-- Wrapping sums and products of n-bit elements (R85). -/
def addOp (n x y : Nat) : Nat := (x + y) % 2 ^ n
def subOp (n x y : Nat) : Nat := (x + (2 ^ n - y)) % 2 ^ n
def mulOp (n x y : Nat) : Nat := x * y % 2 ^ n
def negInt (n x : Nat) : Nat := (2 ^ n - x) % 2 ^ n

/-- Saturating sum and difference (R85, R160). -/
def satAdd (signed : Bool) (n x y : Nat) : Nat × Flags := iClamp signed n (intVal signed n x + intVal signed n y)
def satSub (signed : Bool) (n x y : Nat) : Nat × Flags := iClamp signed n (intVal signed n x - intVal signed n y)

/-- A function of the 64-bit lane values of two registers, without flags. -/
def vw2 (s : State) (g d a b : Nat) (f : W64 → W64 → W64) : Eff :=
  vecOp s g d [a, b] (fun l => pure64 (f (vreg s a l) (vreg s b l)))

/-- A function of one lane value. -/
def vw1 (s : State) (g d a : Nat) (f : W64 → W64) : Eff :=
  vecOp s g d [a] (fun l => pure64 (f (vreg s a l)))

/-- VADD.I32X2: a + b (R160). -/
def execVaddI32x2 (d a b : BitVec 6) (p : BitVec 3) (s : State) : Res :=
  run s (vf2 s p.toNat d.toNat a.toNat b.toNat 32 (plain2 (addOp 32)))

/-- VSUB.I32X2: a - b (R160). -/
def execVsubI32x2 (d a b : BitVec 6) (p : BitVec 3) (s : State) : Res :=
  run s (vf2 s p.toNat d.toNat a.toNat b.toNat 32 (plain2 (subOp 32)))

/-- VMUL.I32X2: the low bits of a b (R160). -/
def execVmulI32x2 (d a b : BitVec 6) (p : BitVec 3) (s : State) : Res :=
  run s (vf2 s p.toNat d.toNat a.toNat b.toNat 32 (plain2 (mulOp 32)))

/-- VMULH.I32X2: the high bits of the signed product (R160). -/
def execVmulhI32x2 (d a b : BitVec 6) (p : BitVec 3) (s : State) : Res :=
  run s (vf2 s p.toNat d.toNat a.toNat b.toNat 32 (plain2 (iMulHigh true 32)))

/-- VMULHN.I32X2: the high bits of the unsigned product (R160). -/
def execVmulhnI32x2 (d a b : BitVec 6) (p : BitVec 3) (s : State) : Res :=
  run s (vf2 s p.toNat d.toNat a.toNat b.toNat 32 (plain2 (iMulHigh false 32)))

/-- VMIN.I32X2: signed (R160). -/
def execVminI32x2 (d a b : BitVec 6) (p : BitVec 3) (s : State) : Res :=
  run s (vf2 s p.toNat d.toNat a.toNat b.toNat 32 (plain2 (iMinMax true false 32)))

/-- VMAX.I32X2: signed (R160). -/
def execVmaxI32x2 (d a b : BitVec 6) (p : BitVec 3) (s : State) : Res :=
  run s (vf2 s p.toNat d.toNat a.toNat b.toNat 32 (plain2 (iMinMax true true 32)))

/-- VMINN.I32X2: unsigned (R160). -/
def execVminnI32x2 (d a b : BitVec 6) (p : BitVec 3) (s : State) : Res :=
  run s (vf2 s p.toNat d.toNat a.toNat b.toNat 32 (plain2 (iMinMax false false 32)))

/-- VMAXN.I32X2: unsigned (R160). -/
def execVmaxnI32x2 (d a b : BitVec 6) (p : BitVec 3) (s : State) : Res :=
  run s (vf2 s p.toNat d.toNat a.toNat b.toNat 32 (plain2 (iMinMax false true 32)))

/-- VADDSAT.I32X2: saturating; sets sat (R160). -/
def execVaddsatI32x2 (d a b : BitVec 6) (p : BitVec 3) (s : State) : Res :=
  run s (vf2 s p.toNat d.toNat a.toNat b.toNat 32 (satAdd true 32))

/-- VSUBSAT.I32X2: saturating; sets sat (R160). -/
def execVsubsatI32x2 (d a b : BitVec 6) (p : BitVec 3) (s : State) : Res :=
  run s (vf2 s p.toNat d.toNat a.toNat b.toNat 32 (satSub true 32))

/-- VADDSATN.I32X2: saturating; sets sat (R160). -/
def execVaddsatnI32x2 (d a b : BitVec 6) (p : BitVec 3) (s : State) : Res :=
  run s (vf2 s p.toNat d.toNat a.toNat b.toNat 32 (satAdd false 32))

/-- VSUBSATN.I32X2: saturating; sets sat (R160). -/
def execVsubsatnI32x2 (d a b : BitVec 6) (p : BitVec 3) (s : State) : Res :=
  run s (vf2 s p.toNat d.toNat a.toNat b.toNat 32 (satSub false 32))

/-- VABS.I32X2: the most negative value gives itself (R160). -/
def execVabsI32x2 (d a : BitVec 6) (p : BitVec 3) (s : State) : Res :=
  run s (vf1 s p.toNat d.toNat a.toNat 32 (plain1 (iAbs 32)))

/-- VNEG.I32X2: wrapping (R160). -/
def execVnegI32x2 (d a : BitVec 6) (p : BitVec 3) (s : State) : Res :=
  run s (vf1 s p.toNat d.toNat a.toNat 32 (plain1 (negInt 32)))

/-- VADD.I64: a + b (R160). -/
def execVaddI64 (d a b : BitVec 6) (p : BitVec 3) (s : State) : Res :=
  run s (vf2 s p.toNat d.toNat a.toNat b.toNat 64 (plain2 (addOp 64)))

/-- VSUB.I64: a - b (R160). -/
def execVsubI64 (d a b : BitVec 6) (p : BitVec 3) (s : State) : Res :=
  run s (vf2 s p.toNat d.toNat a.toNat b.toNat 64 (plain2 (subOp 64)))

/-- VMUL.I64: the low bits of a b (R160). -/
def execVmulI64 (d a b : BitVec 6) (p : BitVec 3) (s : State) : Res :=
  run s (vf2 s p.toNat d.toNat a.toNat b.toNat 64 (plain2 (mulOp 64)))

/-- VMULH.I64: the high bits of the signed product (R160). -/
def execVmulhI64 (d a b : BitVec 6) (p : BitVec 3) (s : State) : Res :=
  run s (vf2 s p.toNat d.toNat a.toNat b.toNat 64 (plain2 (iMulHigh true 64)))

/-- VMULHN.I64: the high bits of the unsigned product (R160). -/
def execVmulhnI64 (d a b : BitVec 6) (p : BitVec 3) (s : State) : Res :=
  run s (vf2 s p.toNat d.toNat a.toNat b.toNat 64 (plain2 (iMulHigh false 64)))

/-- VMIN.I64: signed (R160). -/
def execVminI64 (d a b : BitVec 6) (p : BitVec 3) (s : State) : Res :=
  run s (vf2 s p.toNat d.toNat a.toNat b.toNat 64 (plain2 (iMinMax true false 64)))

/-- VMAX.I64: signed (R160). -/
def execVmaxI64 (d a b : BitVec 6) (p : BitVec 3) (s : State) : Res :=
  run s (vf2 s p.toNat d.toNat a.toNat b.toNat 64 (plain2 (iMinMax true true 64)))

/-- VMINN.I64: unsigned (R160). -/
def execVminnI64 (d a b : BitVec 6) (p : BitVec 3) (s : State) : Res :=
  run s (vf2 s p.toNat d.toNat a.toNat b.toNat 64 (plain2 (iMinMax false false 64)))

/-- VMAXN.I64: unsigned (R160). -/
def execVmaxnI64 (d a b : BitVec 6) (p : BitVec 3) (s : State) : Res :=
  run s (vf2 s p.toNat d.toNat a.toNat b.toNat 64 (plain2 (iMinMax false true 64)))

/-- VDIV.I64: under R85 (R160). -/
def execVdivI64 (d a b : BitVec 6) (p : BitVec 3) (s : State) : Res :=
  run s (vf2 s p.toNat d.toNat a.toNat b.toNat 64 (plain2 (iDiv true 64)))

/-- VDIVN.I64: under R85 (R160). -/
def execVdivnI64 (d a b : BitVec 6) (p : BitVec 3) (s : State) : Res :=
  run s (vf2 s p.toNat d.toNat a.toNat b.toNat 64 (plain2 (iDiv false 64)))

/-- VREM.I64: under R85 (R160). -/
def execVremI64 (d a b : BitVec 6) (p : BitVec 3) (s : State) : Res :=
  run s (vf2 s p.toNat d.toNat a.toNat b.toNat 64 (plain2 (iRem true 64)))

/-- VREMN.I64: under R85 (R160). -/
def execVremnI64 (d a b : BitVec 6) (p : BitVec 3) (s : State) : Res :=
  run s (vf2 s p.toNat d.toNat a.toNat b.toNat 64 (plain2 (iRem false 64)))

/-- VABS.I64: the most negative value gives itself (R160). -/
def execVabsI64 (d a : BitVec 6) (p : BitVec 3) (s : State) : Res :=
  run s (vf1 s p.toNat d.toNat a.toNat 64 (plain1 (iAbs 64)))

/-- VNEG.I64: wrapping (R160). -/
def execVnegI64 (d a : BitVec 6) (p : BitVec 3) (s : State) : Res :=
  run s (vf1 s p.toNat d.toNat a.toNat 64 (plain1 (negInt 64)))

/-- VAND: a AND b (R161). -/
def execVand (d a b : BitVec 6) (p : BitVec 3) (s : State) : Res :=
  run s (vw2 s p.toNat d.toNat a.toNat b.toNat (fun x y => x &&& y))

/-- VOR: a OR b (R161). -/
def execVor (d a b : BitVec 6) (p : BitVec 3) (s : State) : Res :=
  run s (vw2 s p.toNat d.toNat a.toNat b.toNat (fun x y => x ||| y))

/-- VXOR: a XOR b (R161). -/
def execVxor (d a b : BitVec 6) (p : BitVec 3) (s : State) : Res :=
  run s (vw2 s p.toNat d.toNat a.toNat b.toNat (fun x y => x ^^^ y))

/-- VANDN: a AND NOT b (R161). -/
def execVandn (d a b : BitVec 6) (p : BitVec 3) (s : State) : Res :=
  run s (vw2 s p.toNat d.toNat a.toNat b.toNat (fun x y => x &&& ~~~y))

/-- VSHL: a << b[5:0] (R161). -/
def execVshl (d a b : BitVec 6) (p : BitVec 3) (s : State) : Res :=
  run s (vw2 s p.toNat d.toNat a.toNat b.toNat (fun x y => x <<< bits y 0 6))

/-- VSHR: a >> b[5:0] with zeros (R161). -/
def execVshr (d a b : BitVec 6) (p : BitVec 3) (s : State) : Res :=
  run s (vw2 s p.toNat d.toNat a.toNat b.toNat (fun x y => x >>> bits y 0 6))

/-- VSRA: a >> b[5:0] with a[63] (R161). -/
def execVsra (d a b : BitVec 6) (p : BitVec 3) (s : State) : Res :=
  run s (vw2 s p.toNat d.toNat a.toNat b.toNat (fun x y => x.sshiftRight (bits y 0 6)))

/-- VROTL: a rotated left by b[5:0] (R161). -/
def execVrotl (d a b : BitVec 6) (p : BitVec 3) (s : State) : Res :=
  run s (vw2 s p.toNat d.toNat a.toNat b.toNat (fun x y => x.rotateLeft (bits y 0 6)))

/-- VSHL32X2: each element by its own amount, left (R161). -/
def execVshl32x2 (d a b : BitVec 6) (p : BitVec 3) (s : State) : Res :=
  run s (vw2 s p.toNat d.toNat a.toNat b.toNat (shift32 (fun x n => x <<< n)))

/-- VSHR32X2: each element by its own amount, right with zeros (R161). -/
def execVshr32x2 (d a b : BitVec 6) (p : BitVec 3) (s : State) : Res :=
  run s (vw2 s p.toNat d.toNat a.toNat b.toNat (shift32 (fun x n => x >>> n)))

/-- VSRA32X2: each element by its own amount, right with its sign (R161). -/
def execVsra32x2 (d a b : BitVec 6) (p : BitVec 3) (s : State) : Res :=
  run s (vw2 s p.toNat d.toNat a.toNat b.toNat (shift32 (fun x n => x.sshiftRight n)))

/-- VBFX: a bit field of a (R161). -/
def execVbfx (d a b : BitVec 6) (p : BitVec 3) (s : State) : Res :=
  run s (vw2 s p.toNat d.toNat a.toNat b.toNat (bitField))

/-- VNOT: NOT a (R161). -/
def execVnot (d a : BitVec 6) (p : BitVec 3) (s : State) : Res :=
  run s (vw1 s p.toNat d.toNat a.toNat (fun x => ~~~x))

/-- VPOPC: number of 1 bits (R161). -/
def execVpopc (d a : BitVec 6) (p : BitVec 3) (s : State) : Res :=
  run s (vw1 s p.toNat d.toNat a.toNat (fun x => w64 (popCount x)))

/-- VCLZ: leading zeros, 64 for 0 (R161). -/
def execVclz (d a : BitVec 6) (p : BitVec 3) (s : State) : Res :=
  run s (vw1 s p.toNat d.toNat a.toNat (fun x => w64 (clz x)))

/-- VBREV: bit k to bit 63 - k (R161). -/
def execVbrev (d a : BitVec 6) (p : BitVec 3) (s : State) : Res :=
  run s (vw1 s p.toNat d.toNat a.toNat (fun x => bitReverse x))

/-- VMOV (R162). -/
def execVmov (d a : BitVec 6) (p : BitVec 3) (s : State) : Res :=
  run s (vw1 s p.toNat d.toNat a.toNat (fun x => x))

/-- VSEL: a where the selecting predicate is 1, else b; the enabled lanes are the lane and helper masks (R162). -/
def execVsel (d a b : BitVec 6) (q : BitVec 3) (s : State) : Res :=
  run s (vecOp s 0 d.toNat [a.toNat, b.toNat] (fun l => pure64 (if inMask (preg s q.toNat) l then vreg s a.toNat l else vreg s b.toNat l)))

/-- VPK32: b[31:0] above a[31:0] (R162). -/
def execVpk32 (d a b : BitVec 6) (p : BitVec 3) (s : State) : Res :=
  run s (vw2 s p.toNat d.toNat a.toNat b.toNat (fun x y => w64 (bits y 0 32 * 2 ^ 32 + bits x 0 32)))

/-- VHI32: a[63:32] zero-extended (R162). -/
def execVhi32 (d a : BitVec 6) (p : BitVec 3) (s : State) : Res :=
  run s (vw1 s p.toNat d.toNat a.toNat (fun x => w64 (bits x 32 32)))

/-- VLO32: a[31:0] zero-extended (R162). -/
def execVlo32 (d a : BitVec 6) (p : BitVec 3) (s : State) : Res :=
  run s (vw1 s p.toNat d.toNat a.toNat (fun x => w64 (bits x 0 32)))

/-- VID: the lane number (R162). -/
def execVid (d : BitVec 6) (p : BitVec 3) (s : State) : Res :=
  run s (vecOp s p.toNat d.toNat [] (fun l => pure64 (w64 l)))

/-- VQID: the position in the quad, and the quad above it (R162). -/
def execVqid (d : BitVec 6) (p : BitVec 3) (s : State) : Res :=
  run s (vecOp s p.toNat d.toNat [] (fun l => pure64 (w64 (l / 4 * 2 ^ 32 + l % 4))))

/-- VMOVI: sext(simm19) in every enabled lane (R163). -/
def execVmovi (d : BitVec 6) (i : BitVec 19) (s : State) : Res :=
  run s (vecOp s 0 d.toNat [] (fun _ => pure64 (sext64 i)))

/-! ## Compares (R164, R165) -/

/-- The bits that element k of a compare writes: the result in enabled lanes, 0 in lanes that the guard turns off. -/
def cmpBits (s : State) (g ty cond k a b : Nat) : W32 :=
  maskOf ((lanesOf (enabledLanes s g)).filter (fun l => (cmpElem ty cond k (vreg s a l) (vreg s b l)).1))

/-- The flags of a compare. -/
def cmpFlags (s : State) (g ty cond a b : Nat) : Flags :=
  (upFrom 0 (cmpCount ty)).foldl (fun f k => f ||| lanesFlags (activeLanes s g) (fun l => (0, (cmpElem ty cond k (vreg s a l) (vreg s b l)).2))) 0

/-- VCMP: element k writes predicate pd + k (R164); an integer condition above 5 is no legal encoding (R116). [DEDUCED: log 71] -/
def execVcmp (d : BitVec 3) (a b : BitVec 6) (p : BitVec 3) (k : BitVec 4) (y : BitVec 3) (s : State) : Res :=
  run s (do
    need (!(cmpInteger y && decide (6 ≤ k.toNat))) (.trap { cause := 2 })
    need (decide (d.toNat + cmpCount y.toNat ≤ 8)) (illegalOperand 0)
    needVecs s [a.toNat, b.toNat]
    let m := s.curFrag.mask ||| s.curFrag.helper
    let t := (upFrom 0 (cmpCount y.toNat)).foldl (fun t e =>
      setPredLanes t (d.toNat + e) m (cmpBits s p.toNat y.toNat k.toNat e a.toNat b.toNat)) s
    .ok (raise t (cmpFlags s p.toNat y.toNat k.toNat a.toNat b.toNat)))

/-! ## Conversions, dot products, special functions (R166 to R170) -/

/-- VCVT: by the code in vb6; a rounding code of 101 to 111 traps (R81, R166). [DEDUCED: log 71] -/
def execVcvt (d a x : BitVec 6) (p : BitVec 3) (st : BitVec 1) (r : BitVec 3) (s : State) : Res :=
  run s (do
    need (cvtOk x st r) (.trap { cause := 2 })
    need (decide (r.toNat < 5)) (illegalOperand 1)
    vecOp s p.toNat d.toNat [a.toNat] (fun l => cvtLane x.toNat r.toNat (st == 1) (vreg s a.toNat l) (vreg s d.toNat l)))

/-- VDOT4.I8 (R168). -/
def execVdot4I8 (d a b : BitVec 6) (p : BitVec 3) (st u v : BitVec 1) (s : State) : Res :=
  run s (vecOp s p.toNat d.toNat [a.toNat, b.toNat] (fun l =>
    dotLane 8 (st == 1) (u == 1) (v == 1) (vreg s a.toNat l) (vreg s b.toNat l) (vreg s d.toNat l)))

/-- VDOT8.I4 (R168). -/
def execVdot8I4 (d a b : BitVec 6) (p : BitVec 3) (st u v : BitVec 1) (s : State) : Res :=
  run s (vecOp s p.toNat d.toNat [a.toNat, b.toNat] (fun l =>
    dotLane 4 (st == 1) (u == 1) (v == 1) (vreg s a.toNat l) (vreg s b.toNat l) (vreg s d.toNat l)))

/-- VRCPF32X2: a special function of each element (R169, R170). -/
def execVrcpF32x2 (d a : BitVec 6) (p : BitVec 3) (s : State) : Res :=
  run s (vf1 s p.toNat d.toNat a.toNat 32 (sfuElem 0 fmtF32))

/-- VRSQF32X2: a special function of each element (R169, R170). -/
def execVrsqF32x2 (d a : BitVec 6) (p : BitVec 3) (s : State) : Res :=
  run s (vf1 s p.toNat d.toNat a.toNat 32 (sfuElem 1 fmtF32))

/-- VEXP2F32X2: a special function of each element (R169, R170). -/
def execVexp2F32x2 (d a : BitVec 6) (p : BitVec 3) (s : State) : Res :=
  run s (vf1 s p.toNat d.toNat a.toNat 32 (sfuElem 2 fmtF32))

/-- VLOG2F32X2: a special function of each element (R169, R170). -/
def execVlog2F32x2 (d a : BitVec 6) (p : BitVec 3) (s : State) : Res :=
  run s (vf1 s p.toNat d.toNat a.toNat 32 (sfuElem 3 fmtF32))

/-- VSINF32X2: a special function of each element (R169, R170). -/
def execVsinF32x2 (d a : BitVec 6) (p : BitVec 3) (s : State) : Res :=
  run s (vf1 s p.toNat d.toNat a.toNat 32 (sfuElem 4 fmtF32))

/-- VCOSF32X2: a special function of each element (R169, R170). -/
def execVcosF32x2 (d a : BitVec 6) (p : BitVec 3) (s : State) : Res :=
  run s (vf1 s p.toNat d.toNat a.toNat 32 (sfuElem 5 fmtF32))

/-- VTANHF32X2: a special function of each element (R169, R170). -/
def execVtanhF32x2 (d a : BitVec 6) (p : BitVec 3) (s : State) : Res :=
  run s (vf1 s p.toNat d.toNat a.toNat 32 (sfuElem 6 fmtF32))

/-- VRCPF64A: a special function of each element (R169, R170). -/
def execVrcpF64a (d a : BitVec 6) (p : BitVec 3) (s : State) : Res :=
  run s (vf1 s p.toNat d.toNat a.toNat 64 (sfuElem 7 fmtF64))

/-- VRSQF64A: a special function of each element (R169, R170). -/
def execVrsqF64a (d a : BitVec 6) (p : BitVec 3) (s : State) : Res :=
  run s (vf1 s p.toNat d.toNat a.toNat 64 (sfuElem 8 fmtF64))

end Sys2Proof.Machine
end

