-- ==== Sys2Proof/Machine/VectorLane.lean ====
section
/-! DEFINITION. Cross-lane instructions, reductions, votes, scalar operands, single lanes and predicate logic (R171 to R178). -/
namespace Sys2Proof.Machine

/-- A move of whole values: lane l takes va of lane src l (R171). -/
def shuffle (s : State) (g d a : Nat) (rs : List Nat) (src : Nat → Nat) : Eff :=
  vecOp s g d (a :: rs) (fun l => pure64 (vreg s a (src l)))

/-- b_l[4:0]. -/
def laneArg (s : State) (b l : Nat) : Nat := bits (vreg s b l) 0 5

/-- The difference of two quad lanes, rounded once (R172). -/
def quadDiff (s : State) (a n : Nat) (f : Fmt) (hi lo : Nat) : LaneRes := el2 n (fSub f) (vreg s a hi) (vreg s a lo)

/-- The lanes that VQDX and VQDY subtract: minuend and subtrahend (R172). -/
def quadX (l : Nat) : Nat × Nat := let q := 4 * (l / 4); let r := l % 4 / 2; (q + 2 * r + 1, q + 2 * r)
def quadY (l : Nat) : Nat × Nat := let q := 4 * (l / 4); let c := l % 2; (q + 2 + c, q + c)

/-- The inclusive sums over lanes in ascending order (R173). -/
def scanSums (s : State) (a : Nat) (add : W64 → W64 → LaneRes) (acc : Option W64) : List Nat → List (Nat × LaneRes)
  | [] => []
  | l :: ls =>
    let r : LaneRes := match acc with
      | none => (vreg s a l, 0)
      | some v => add v (vreg s a l)
    (l, r) :: scanSums s a add (some r.1) ls

/-- A scan writes the enabled lanes that are not helper lanes. -/
def scanWrite (s : State) (d m : Nat) (rs : List (Nat × LaneRes)) : State :=
  raise (setVecLanes s d (BitVec.ofNat 32 m) (fun l => (Tab.get (0, 0) rs l).1)) (rs.foldl (fun f r => f ||| r.2.2) 0)

/-- f64 addition of lane values. -/
def addF64 (x y : W64) : LaneRes := let r := fAdd fmtF64 x.toNat y.toNat; (w64 r.1, r.2)

/-- Fold a combination over values, the first one as it is; an empty list gives the identity (R174). [DESIGN CHOICE: log 89] -/
def reduce (ident : W64) (f : W64 → W64 → LaneRes) : List W64 → LaneRes
  | [] => (ident, 0)
  | v :: vs => vs.foldl (fun r x => let q := f r.1 x; (q.1, r.2 ||| q.2)) (v, 0)

/-- VRED: the scalar is written once (R174). -/
def vred (s : State) (d : BitVec 8) (a g : Nat) (fp : Bool) (ident : W64) (f : W64 → W64 → LaneRes) : Eff := do
  needVecs s [a]
  let m := activeLanes s g
  if fp then residueFp s m
  scalarResult s d (reduce ident f ((lanesOf m).map (vreg s a)))

/-- A combination by an integer function. -/
def natComb (f : Nat → Nat → Nat) (x y : W64) : LaneRes := pure64 (nat2 f x y)

/-- A vote over the fragment's lane mask (R175). -/
def vote (s : State) (d : BitVec 8) (q : Nat) (f : W32 → W32 → W64) : Eff :=
  let m := s.curFrag.mask
  writeS s d (f (preg s q &&& m) m)

/-- PLOG: the bits of the lane and helper masks change (R178). -/
def plog (s : State) (d : BitVec 3) (v : W32) : Eff := .ok (setPredLanes s d.toNat (s.curFrag.mask ||| s.curFrag.helper) v)

/-- VSHFL.IDX (R171). -/
def execVshflIdx (d a b : BitVec 6) (p : BitVec 3) (s : State) : Res :=
  run s (shuffle s p.toNat d.toNat a.toNat [b.toNat] (laneArg s b.toNat))

/-- VSHFL.UP: below lane 0 a lane takes its own value (R171). -/
def execVshflUp (d a b : BitVec 6) (p : BitVec 3) (s : State) : Res :=
  run s (shuffle s p.toNat d.toNat a.toNat [b.toNat] (fun l => if laneArg s b.toNat l ≤ l then l - laneArg s b.toNat l else l))

/-- VSHFL.DN: above lane 31 a lane takes its own value (R171). -/
def execVshflDn (d a b : BitVec 6) (p : BitVec 3) (s : State) : Res :=
  run s (shuffle s p.toNat d.toNat a.toNat [b.toNat] (fun l => if l + laneArg s b.toNat l ≤ 31 then l + laneArg s b.toNat l else l))

/-- VSHFL.XOR (R171). -/
def execVshflXor (d a b : BitVec 6) (p : BitVec 3) (s : State) : Res :=
  run s (shuffle s p.toNat d.toNat a.toNat [b.toNat] (fun l => Nat.xor l (laneArg s b.toNat l)))

/-- VQSWAP.H (R171). -/
def execVqswapH (d a : BitVec 6) (p : BitVec 3) (s : State) : Res :=
  run s (shuffle s p.toNat d.toNat a.toNat [] (fun l => Nat.xor l 1))

/-- VQSWAP.V (R171). -/
def execVqswapV (d a : BitVec 6) (p : BitVec 3) (s : State) : Res :=
  run s (shuffle s p.toNat d.toNat a.toNat [] (fun l => Nat.xor l 2))

/-- VQSWAP.D (R171). -/
def execVqswapD (d a : BitVec 6) (p : BitVec 3) (s : State) : Res :=
  run s (shuffle s p.toNat d.toNat a.toNat [] (fun l => Nat.xor l 3))

/-- VQBC (R171). -/
def execVqbc (d a b : BitVec 6) (p : BitVec 3) (s : State) : Res :=
  run s (shuffle s p.toNat d.toNat a.toNat [b.toNat] (fun l => 4 * (l / 4) + bits (vreg s b.toNat l) 0 2))

/-- VQDX.F32X2 (R172). -/
def execVqdxF32x2 (d a : BitVec 6) (p : BitVec 3) (s : State) : Res :=
  run s (vecOp s p.toNat d.toNat [a.toNat] (fun l => quadDiff s a.toNat 32 fmtF32 (quadX l).1 (quadX l).2))

/-- VQDX.F64 (R172). -/
def execVqdxF64 (d a : BitVec 6) (p : BitVec 3) (s : State) : Res :=
  run s (vecOp s p.toNat d.toNat [a.toNat] (fun l => quadDiff s a.toNat 64 fmtF64 (quadX l).1 (quadX l).2))

/-- VQDY.F32X2 (R172). -/
def execVqdyF32x2 (d a : BitVec 6) (p : BitVec 3) (s : State) : Res :=
  run s (vecOp s p.toNat d.toNat [a.toNat] (fun l => quadDiff s a.toNat 32 fmtF32 (quadY l).1 (quadY l).2))

/-- VQDY.F64 (R172). -/
def execVqdyF64 (d a : BitVec 6) (p : BitVec 3) (s : State) : Res :=
  run s (vecOp s p.toNat d.toNat [a.toNat] (fun l => quadDiff s a.toNat 64 fmtF64 (quadY l).1 (quadY l).2))

/-- VSCAN.ADD.I64: wrapping sums (R173). -/
def execVscanAddI64 (d a : BitVec 6) (p : BitVec 3) (s : State) : Res :=
  run s (do
    needVecs s [d.toNat, a.toNat]
    let m := activeLanes s p.toNat
    .ok (scanWrite s d.toNat m.toNat (scanSums s a.toNat (fun x y => pure64 (x + y)) none (lanesOf m))))

/-- VSCAN.ADD.F64: running sums, one rounding per add (R173). -/
def execVscanAddF64 (d a : BitVec 6) (p : BitVec 3) (s : State) : Res :=
  run s (do
    needVecs s [d.toNat, a.toNat]
    let m := activeLanes s p.toNat
    residueFp s m
    .ok (scanWrite s d.toNat m.toNat (scanSums s a.toNat addF64 none (lanesOf m))))

/-- VRED.ADD.I64: sum modulo 2^64 (R174). -/
def execVredAddI64 (d : BitVec 8) (a : BitVec 6) (p : BitVec 3) (s : State) : Res :=
  run s (vred s d a.toNat p.toNat false 0 (fun x y => pure64 (x + y)))

/-- VRED.ADD.F64: ascending lanes, one rounding per add (R174). -/
def execVredAddF64 (d : BitVec 8) (a : BitVec 6) (p : BitVec 3) (s : State) : Res :=
  run s (vred s d a.toNat p.toNat true 0 (addF64))

/-- VRED.MIN.I64 (R174). -/
def execVredMinI64 (d : BitVec 8) (a : BitVec 6) (p : BitVec 3) (s : State) : Res :=
  run s (vred s d a.toNat p.toNat false (w64 (2 ^ 63 - 1)) (natComb (iMinMax true false 64)))

/-- VRED.MAX.I64 (R174). -/
def execVredMaxI64 (d : BitVec 8) (a : BitVec 6) (p : BitVec 3) (s : State) : Res :=
  run s (vred s d a.toNat p.toNat false (w64 (2 ^ 63)) (natComb (iMinMax true true 64)))

/-- VRED.MINN.N64 (R174). -/
def execVredMinnN64 (d : BitVec 8) (a : BitVec 6) (p : BitVec 3) (s : State) : Res :=
  run s (vred s d a.toNat p.toNat false (BitVec.allOnes 64) (natComb (iMinMax false false 64)))

/-- VRED.MAXN.N64 (R174). -/
def execVredMaxnN64 (d : BitVec 8) (a : BitVec 6) (p : BitVec 3) (s : State) : Res :=
  run s (vred s d a.toNat p.toNat false 0 (natComb (iMinMax false true 64)))

/-- VRED.MIN.F64 under R84 (R174). -/
def execVredMinF64 (d : BitVec 8) (a : BitVec 6) (p : BitVec 3) (s : State) : Res :=
  run s (vred s d a.toNat p.toNat true (w64 (fmtF64.infBits false)) (fun x y => let r := fMinMax fmtF64 false x.toNat y.toNat; (w64 r.1, r.2)))

/-- VRED.MAX.F64 under R84 (R174). -/
def execVredMaxF64 (d : BitVec 8) (a : BitVec 6) (p : BitVec 3) (s : State) : Res :=
  run s (vred s d a.toNat p.toNat true (w64 (fmtF64.infBits true)) (fun x y => let r := fMinMax fmtF64 true x.toNat y.toNat; (w64 r.1, r.2)))

/-- VRED.AND (R174). -/
def execVredAnd (d : BitVec 8) (a : BitVec 6) (p : BitVec 3) (s : State) : Res :=
  run s (vred s d a.toNat p.toNat false (BitVec.allOnes 64) (fun x y => pure64 (x &&& y)))

/-- VRED.OR (R174). -/
def execVredOr (d : BitVec 8) (a : BitVec 6) (p : BitVec 3) (s : State) : Res :=
  run s (vred s d a.toNat p.toNat false 0 (fun x y => pure64 (x ||| y)))

/-- VRED.XOR (R174). -/
def execVredXor (d : BitVec 8) (a : BitVec 6) (p : BitVec 3) (s : State) : Res :=
  run s (vred s d a.toNat p.toNat false 0 (fun x y => pure64 (x ^^^ y)))

/-- VBALLOT (R175). -/
def execVballot (d : BitVec 8) (q : BitVec 3) (s : State) : Res :=
  run s (vote s d q.toNat (fun q _ => zext64 q))

/-- VANY (R175). -/
def execVany (d : BitVec 8) (q : BitVec 3) (s : State) : Res :=
  run s (vote s d q.toNat (fun q _ => b2w (q != 0)))

/-- VALL (R175). -/
def execVall (d : BitVec 8) (q : BitVec 3) (s : State) : Res :=
  run s (vote s d q.toNat (fun q m => b2w (q == m)))

/-- VFIRST: the lowest lane, or 32 (R175). -/
def execVfirst (d : BitVec 8) (q : BitVec 3) (s : State) : Res :=
  run s (vote s d q.toNat (fun q _ => w64 (lowestLane q)))

/-- VADDS.F64: a + s (R176). -/
def execVaddsF64 (d a : BitVec 6) (b : BitVec 8) (p : BitVec 3) (s : State) : Res :=
  run s (do
    let v ← readS s b
    vecOp64 s p.toNat d.toNat [a.toNat] (fun l => el2 64 (fAdd fmtF64) (vreg s a.toNat l) v))

/-- VMULS.F64: a s (R176). -/
def execVmulsF64 (d a : BitVec 6) (b : BitVec 8) (p : BitVec 3) (s : State) : Res :=
  run s (do
    let v ← readS s b
    vecOp64 s p.toNat d.toNat [a.toNat] (fun l => el2 64 (fMul fmtF64) (vreg s a.toNat l) v))

/-- VFMAS.F64: a s + d, one rounding (R176). -/
def execVfmasF64 (d a : BitVec 6) (b : BitVec 8) (p : BitVec 3) (s : State) : Res :=
  run s (do
    let v ← readS s b
    vecOp64 s p.toNat d.toNat [a.toNat] (fun l => el3 64 (fFma fmtF64) (vreg s a.toNat l) v (vreg s d.toNat l)))

/-- VBCST: s in every enabled lane (R176). -/
def execVbcst (d : BitVec 6) (b : BitVec 8) (p : BitVec 3) (s : State) : Res :=
  run s (do
    let v ← readS s b
    vecOp s p.toNat d.toNat [] (fun _ => pure64 v))

/-- VGET: one lane's value, whatever the lane's state (R177). The allotment is checked first. [DESIGN CHOICE: log 92] -/
def execVget (v : BitVec 6) (d : BitVec 8) (l : BitVec 5) (s : State) : Res :=
  run s (do
    needVecs s [v.toNat]
    writeS s d (vreg s v.toNat l.toNat))

/-- VPUT: writes one lane when it is in the lane or helper mask (R177). -/
def execVput (v : BitVec 6) (a : BitVec 8) (l : BitVec 5) (s : State) : Res :=
  run s (do
    let x ← readS s a
    needVecs s [v.toNat]
    .ok (setVecLanes s v.toNat (laneBit l.toNat &&& (s.curFrag.mask ||| s.curFrag.helper)) (fun _ => x)))

/-- PAND (R178). -/
def execPand (d a b : BitVec 3) (s : State) : Res :=
  run s (plog s d (let x := preg s a.toNat; let y := preg s b.toNat; x &&& y))

/-- POR (R178). -/
def execPor (d a b : BitVec 3) (s : State) : Res :=
  run s (plog s d (let x := preg s a.toNat; let y := preg s b.toNat; x ||| y))

/-- PXOR (R178). -/
def execPxor (d a b : BitVec 3) (s : State) : Res :=
  run s (plog s d (let x := preg s a.toNat; let y := preg s b.toNat; x ^^^ y))

/-- PANDN (R178). -/
def execPandn (d a b : BitVec 3) (s : State) : Res :=
  run s (plog s d (let x := preg s a.toNat; let y := preg s b.toNat; x &&& ~~~y))

/-- PNOT (R178). -/
def execPnot (d a : BitVec 3) (s : State) : Res := run s (plog s d (~~~(preg s a.toNat)))

/-- PMOV (R178). -/
def execPmov (d a : BitVec 3) (s : State) : Res := run s (plog s d (preg s a.toNat))

/-- PFROMS: S(sa)[31:0] (R178). -/
def execPfroms (d : BitVec 3) (a : BitVec 8) (s : State) : Res :=
  run s (do
    let v ← readS s a
    plog s d (w32 (bits v 0 32)))

end Sys2Proof.Machine
end

