-- ==== Sys2Proof/Machine/Dispatch.lean ====
section
/-! DEFINITION. One arm per row: a direct call of its meaning. -/
namespace Sys2Proof.Machine

/-- What an instruction of a program or an event does to a state. [DESIGN CHOICE: log 5] -/
def exec (i : Instr) (s : State) : Host.Outcome State Fault Refusal :=
  match i with
  | .nop => Sys2Proof.Machine.execNop s
  | .exit => Sys2Proof.Machine.execExit s
  | .yield => Sys2Proof.Machine.execYield s
  | .trap a im => Sys2Proof.Machine.execTrap a im s
  | .tret => Sys2Proof.Machine.execTret s
  | .srd a n => Sys2Proof.Machine.execSrd a n s
  | .swr a n => Sys2Proof.Machine.execSwr a n s
  | .segld a g => Sys2Proof.Machine.execSegld a g s
  | .segrd a g => Sys2Proof.Machine.execSegrd a g s
  | .abort a im => Sys2Proof.Machine.execAbort a im s
  | .sadd d a b => Sys2Proof.Machine.execSadd d a b s
  | .ssub d a b => Sys2Proof.Machine.execSsub d a b s
  | .sand d a b => Sys2Proof.Machine.execSand d a b s
  | .sor d a b => Sys2Proof.Machine.execSor d a b s
  | .sxor d a b => Sys2Proof.Machine.execSxor d a b s
  | .sshl d a b => Sys2Proof.Machine.execSshl d a b s
  | .sshr d a b => Sys2Proof.Machine.execSshr d a b s
  | .ssra d a b => Sys2Proof.Machine.execSsra d a b s
  | .smul d a b => Sys2Proof.Machine.execSmul d a b s
  | .smulh d a b => Sys2Proof.Machine.execSmulh d a b s
  | .smulhn d a b => Sys2Proof.Machine.execSmulhn d a b s
  | .smin d a b => Sys2Proof.Machine.execSmin d a b s
  | .smax d a b => Sys2Proof.Machine.execSmax d a b s
  | .sminn d a b => Sys2Proof.Machine.execSminn d a b s
  | .smaxn d a b => Sys2Proof.Machine.execSmaxn d a b s
  | .ssel d a b => Sys2Proof.Machine.execSsel d a b s
  | .sdiv d a b => Sys2Proof.Machine.execSdiv d a b s
  | .sdivn d a b => Sys2Proof.Machine.execSdivn d a b s
  | .srem d a b => Sys2Proof.Machine.execSrem d a b s
  | .sremn d a b => Sys2Proof.Machine.execSremn d a b s
  | .spopc d a => Sys2Proof.Machine.execSpopc d a s
  | .sclz d a => Sys2Proof.Machine.execSclz d a s
  | .sctz d a => Sys2Proof.Machine.execSctz d a s
  | .sbrev d a => Sys2Proof.Machine.execSbrev d a s
  | .scmp d a b k => Sys2Proof.Machine.execScmp d a b k s
  | .saddi d a im => Sys2Proof.Machine.execSaddi d a im s
  | .sandi d a im => Sys2Proof.Machine.execSandi d a im s
  | .sori d a im => Sys2Proof.Machine.execSori d a im s
  | .sxori d a im => Sys2Proof.Machine.execSxori d a im s
  | .sshli d a n => Sys2Proof.Machine.execSshli d a n s
  | .sshri d a n => Sys2Proof.Machine.execSshri d a n s
  | .ssrai d a n => Sys2Proof.Machine.execSsrai d a n s
  | .srori d a n => Sys2Proof.Machine.execSrori d a n s
  | .scmpi d a k im => Sys2Proof.Machine.execScmpi d a k im s
  | .sli d im => Sys2Proof.Machine.execSli d im s
  | .shin d im => Sys2Proof.Machine.execShin d im s
  | .sldD d a o => Sys2Proof.Machine.execSldD d a o s
  | .sldW d a o => Sys2Proof.Machine.execSldW d a o s
  | .sstD d a o => Sys2Proof.Machine.execSstD d a o s
  | .sstW d a o => Sys2Proof.Machine.execSstW d a o s
  | .sfadd d a b => Sys2Proof.Machine.execSfadd d a b s
  | .sfsub d a b => Sys2Proof.Machine.execSfsub d a b s
  | .sfmul d a b => Sys2Proof.Machine.execSfmul d a b s
  | .sfdiv d a b => Sys2Proof.Machine.execSfdiv d a b s
  | .sfmin d a b => Sys2Proof.Machine.execSfmin d a b s
  | .sfmax d a b => Sys2Proof.Machine.execSfmax d a b s
  | .scvtf d a r => Sys2Proof.Machine.execScvtf d a r s
  | .scvti d a r => Sys2Proof.Machine.execScvti d a r s
  | .slrD d a o => Sys2Proof.Machine.execSlrD d a o s
  | .sscD d a b => Sys2Proof.Machine.execSscD d a b s
  | .bCnd h k a o => Sys2Proof.Machine.execBCnd h k a o s
  | .j h o => Sys2Proof.Machine.execJ h o s
  | .call h o => Sys2Proof.Machine.execCall h o s
  | .jr a => Sys2Proof.Machine.execJr a s
  | .loop h a o => Sys2Proof.Machine.execLoop h a o s
  | .brvSplit h q o => Sys2Proof.Machine.execBrvSplit h q o s
  | .brvAll h q o => Sys2Proof.Machine.execBrvAll h q o s
  | .brvNone h q o => Sys2Proof.Machine.execBrvNone h q o s
  | .brvQsplit h q o => Sys2Proof.Machine.execBrvQsplit h q o s
  | .brvUni h q o => Sys2Proof.Machine.execBrvUni h q o s
  | .jset o => Sys2Proof.Machine.execJset o s
  | .rep n sc t => Sys2Proof.Machine.execRep n sc t s
  | .mma t a b m => Sys2Proof.Machine.execMma t a b m s
  | .mmaComplete id => Sys2Proof.Machine.execMmaComplete id s
  | .tld t a b => Sys2Proof.Machine.execTld t a b s
  | .tst t a b => Sys2Proof.Machine.execTst t a b s
  | .tzero t => Sys2Proof.Machine.execTzero t s
  | .mbatch a => Sys2Proof.Machine.execMbatch a s
  | .mwait a => Sys2Proof.Machine.execMwait a s
  | .rayq d a b p => Sys2Proof.Machine.execRayq d a b p s
  | .rayqAny d a b p => Sys2Proof.Machine.execRayqAny d a b p s
  | .visq d a b p => Sys2Proof.Machine.execVisq d a b p s
  | .emit d a b p => Sys2Proof.Machine.execEmit d a b p s
  | .intersectionResult id => Sys2Proof.Machine.execIntersectionResult id s
  | .emitStallResume p sc f => Sys2Proof.Machine.execEmitStallResume p sc f s
  | .emitStallTimeout p sc f => Sys2Proof.Machine.execEmitStallTimeout p sc f s
  | .vacqW d b => Sys2Proof.Machine.execVacqW d b s
  | .vacqWaitEnd p sc f => Sys2Proof.Machine.execVacqWaitEnd p sc f s
  | .vacqP d b => Sys2Proof.Machine.execVacqP d b s
  | .vrel b => Sys2Proof.Machine.execVrel b s
  | .xbind x b => Sys2Proof.Machine.execXbind x b s
  | .xunb x => Sys2Proof.Machine.execXunb x s
  | .launch a b sc => Sys2Proof.Machine.execLaunch a b sc s
  | .sigadd a b sc => Sys2Proof.Machine.execSigadd a b sc s
  | .sigset a b sc => Sys2Proof.Machine.execSigset a b sc s
  | .vaddF64 d a b p => Sys2Proof.Machine.execVaddF64 d a b p s
  | .vsubF64 d a b p => Sys2Proof.Machine.execVsubF64 d a b p s
  | .vmulF64 d a b p => Sys2Proof.Machine.execVmulF64 d a b p s
  | .vfmaF64 d a b p => Sys2Proof.Machine.execVfmaF64 d a b p s
  | .vfmsF64 d a b p => Sys2Proof.Machine.execVfmsF64 d a b p s
  | .vfnmaF64 d a b p => Sys2Proof.Machine.execVfnmaF64 d a b p s
  | .vminF64 d a b p => Sys2Proof.Machine.execVminF64 d a b p s
  | .vmaxF64 d a b p => Sys2Proof.Machine.execVmaxF64 d a b p s
  | .vdivF64 d a b p => Sys2Proof.Machine.execVdivF64 d a b p s
  | .vsqrtF64 d a p => Sys2Proof.Machine.execVsqrtF64 d a p s
  | .vabsF64 d a p => Sys2Proof.Machine.execVabsF64 d a p s
  | .vnegF64 d a p => Sys2Proof.Machine.execVnegF64 d a p s
  | .vsubnF64 d a b p => Sys2Proof.Machine.execVsubnF64 d a b p s
  | .vclassF64 d a p => Sys2Proof.Machine.execVclassF64 d a p s
  | .vcpsgnF64 d a b p => Sys2Proof.Machine.execVcpsgnF64 d a b p s
  | .vrintF64 d a r p => Sys2Proof.Machine.execVrintF64 d a r p s
  | .vaddF32x2 d a b p => Sys2Proof.Machine.execVaddF32x2 d a b p s
  | .vsubF32x2 d a b p => Sys2Proof.Machine.execVsubF32x2 d a b p s
  | .vmulF32x2 d a b p => Sys2Proof.Machine.execVmulF32x2 d a b p s
  | .vfmaF32x2 d a b p => Sys2Proof.Machine.execVfmaF32x2 d a b p s
  | .vfmsF32x2 d a b p => Sys2Proof.Machine.execVfmsF32x2 d a b p s
  | .vfnmaF32x2 d a b p => Sys2Proof.Machine.execVfnmaF32x2 d a b p s
  | .vminF32x2 d a b p => Sys2Proof.Machine.execVminF32x2 d a b p s
  | .vmaxF32x2 d a b p => Sys2Proof.Machine.execVmaxF32x2 d a b p s
  | .vdivF32x2 d a b p => Sys2Proof.Machine.execVdivF32x2 d a b p s
  | .vsqrtF32x2 d a p => Sys2Proof.Machine.execVsqrtF32x2 d a p s
  | .vabsF32x2 d a p => Sys2Proof.Machine.execVabsF32x2 d a p s
  | .vnegF32x2 d a p => Sys2Proof.Machine.execVnegF32x2 d a p s
  | .vclassF32x2 d a p => Sys2Proof.Machine.execVclassF32x2 d a p s
  | .vcpsgnF32x2 d a b p => Sys2Proof.Machine.execVcpsgnF32x2 d a b p s
  | .vrintF32x2 d a r p => Sys2Proof.Machine.execVrintF32x2 d a r p s
  | .vf16Add d a b p t => Sys2Proof.Machine.execVf16Add d a b p t s
  | .vf16Sub d a b p t => Sys2Proof.Machine.execVf16Sub d a b p t s
  | .vf16Mul d a b p t => Sys2Proof.Machine.execVf16Mul d a b p t s
  | .vf16Fma d a b p t => Sys2Proof.Machine.execVf16Fma d a b p t s
  | .vf16Min d a b p t => Sys2Proof.Machine.execVf16Min d a b p t s
  | .vf16Max d a b p t => Sys2Proof.Machine.execVf16Max d a b p t s
  | .vf16Abs d a p t => Sys2Proof.Machine.execVf16Abs d a p t s
  | .vf16Neg d a p t => Sys2Proof.Machine.execVf16Neg d a p t s
  | .vaddI32x2 d a b p => Sys2Proof.Machine.execVaddI32x2 d a b p s
  | .vsubI32x2 d a b p => Sys2Proof.Machine.execVsubI32x2 d a b p s
  | .vmulI32x2 d a b p => Sys2Proof.Machine.execVmulI32x2 d a b p s
  | .vmulhI32x2 d a b p => Sys2Proof.Machine.execVmulhI32x2 d a b p s
  | .vmulhnI32x2 d a b p => Sys2Proof.Machine.execVmulhnI32x2 d a b p s
  | .vminI32x2 d a b p => Sys2Proof.Machine.execVminI32x2 d a b p s
  | .vmaxI32x2 d a b p => Sys2Proof.Machine.execVmaxI32x2 d a b p s
  | .vminnI32x2 d a b p => Sys2Proof.Machine.execVminnI32x2 d a b p s
  | .vmaxnI32x2 d a b p => Sys2Proof.Machine.execVmaxnI32x2 d a b p s
  | .vabsI32x2 d a p => Sys2Proof.Machine.execVabsI32x2 d a p s
  | .vnegI32x2 d a p => Sys2Proof.Machine.execVnegI32x2 d a p s
  | .vaddsatI32x2 d a b p => Sys2Proof.Machine.execVaddsatI32x2 d a b p s
  | .vsubsatI32x2 d a b p => Sys2Proof.Machine.execVsubsatI32x2 d a b p s
  | .vaddsatnI32x2 d a b p => Sys2Proof.Machine.execVaddsatnI32x2 d a b p s
  | .vsubsatnI32x2 d a b p => Sys2Proof.Machine.execVsubsatnI32x2 d a b p s
  | .vaddI64 d a b p => Sys2Proof.Machine.execVaddI64 d a b p s
  | .vsubI64 d a b p => Sys2Proof.Machine.execVsubI64 d a b p s
  | .vmulI64 d a b p => Sys2Proof.Machine.execVmulI64 d a b p s
  | .vmulhI64 d a b p => Sys2Proof.Machine.execVmulhI64 d a b p s
  | .vmulhnI64 d a b p => Sys2Proof.Machine.execVmulhnI64 d a b p s
  | .vminI64 d a b p => Sys2Proof.Machine.execVminI64 d a b p s
  | .vmaxI64 d a b p => Sys2Proof.Machine.execVmaxI64 d a b p s
  | .vminnI64 d a b p => Sys2Proof.Machine.execVminnI64 d a b p s
  | .vmaxnI64 d a b p => Sys2Proof.Machine.execVmaxnI64 d a b p s
  | .vdivI64 d a b p => Sys2Proof.Machine.execVdivI64 d a b p s
  | .vdivnI64 d a b p => Sys2Proof.Machine.execVdivnI64 d a b p s
  | .vremI64 d a b p => Sys2Proof.Machine.execVremI64 d a b p s
  | .vremnI64 d a b p => Sys2Proof.Machine.execVremnI64 d a b p s
  | .vabsI64 d a p => Sys2Proof.Machine.execVabsI64 d a p s
  | .vnegI64 d a p => Sys2Proof.Machine.execVnegI64 d a p s
  | .vand d a b p => Sys2Proof.Machine.execVand d a b p s
  | .vor d a b p => Sys2Proof.Machine.execVor d a b p s
  | .vxor d a b p => Sys2Proof.Machine.execVxor d a b p s
  | .vandn d a b p => Sys2Proof.Machine.execVandn d a b p s
  | .vnot d a p => Sys2Proof.Machine.execVnot d a p s
  | .vshl d a b p => Sys2Proof.Machine.execVshl d a b p s
  | .vshr d a b p => Sys2Proof.Machine.execVshr d a b p s
  | .vsra d a b p => Sys2Proof.Machine.execVsra d a b p s
  | .vrotl d a b p => Sys2Proof.Machine.execVrotl d a b p s
  | .vshl32x2 d a b p => Sys2Proof.Machine.execVshl32x2 d a b p s
  | .vshr32x2 d a b p => Sys2Proof.Machine.execVshr32x2 d a b p s
  | .vsra32x2 d a b p => Sys2Proof.Machine.execVsra32x2 d a b p s
  | .vpopc d a p => Sys2Proof.Machine.execVpopc d a p s
  | .vclz d a p => Sys2Proof.Machine.execVclz d a p s
  | .vbrev d a p => Sys2Proof.Machine.execVbrev d a p s
  | .vbfx d a b p => Sys2Proof.Machine.execVbfx d a b p s
  | .vmov d a p => Sys2Proof.Machine.execVmov d a p s
  | .vsel d a b q => Sys2Proof.Machine.execVsel d a b q s
  | .vpk32 d a b p => Sys2Proof.Machine.execVpk32 d a b p s
  | .vhi32 d a p => Sys2Proof.Machine.execVhi32 d a p s
  | .vlo32 d a p => Sys2Proof.Machine.execVlo32 d a p s
  | .vid d p => Sys2Proof.Machine.execVid d p s
  | .vqid d p => Sys2Proof.Machine.execVqid d p s
  | .vcmp d a b p k y => Sys2Proof.Machine.execVcmp d a b p k y s
  | .vcvt d a x p sc r => Sys2Proof.Machine.execVcvt d a x p sc r s
  | .vdot4I8 d a b p sc u v => Sys2Proof.Machine.execVdot4I8 d a b p sc u v s
  | .vdot8I4 d a b p sc u v => Sys2Proof.Machine.execVdot8I4 d a b p sc u v s
  | .vrcpF32x2 d a p => Sys2Proof.Machine.execVrcpF32x2 d a p s
  | .vrsqF32x2 d a p => Sys2Proof.Machine.execVrsqF32x2 d a p s
  | .vexp2F32x2 d a p => Sys2Proof.Machine.execVexp2F32x2 d a p s
  | .vlog2F32x2 d a p => Sys2Proof.Machine.execVlog2F32x2 d a p s
  | .vsinF32x2 d a p => Sys2Proof.Machine.execVsinF32x2 d a p s
  | .vcosF32x2 d a p => Sys2Proof.Machine.execVcosF32x2 d a p s
  | .vtanhF32x2 d a p => Sys2Proof.Machine.execVtanhF32x2 d a p s
  | .vrcpF64a d a p => Sys2Proof.Machine.execVrcpF64a d a p s
  | .vrsqF64a d a p => Sys2Proof.Machine.execVrsqF64a d a p s
  | .vshflIdx d a b p => Sys2Proof.Machine.execVshflIdx d a b p s
  | .vshflUp d a b p => Sys2Proof.Machine.execVshflUp d a b p s
  | .vshflDn d a b p => Sys2Proof.Machine.execVshflDn d a b p s
  | .vshflXor d a b p => Sys2Proof.Machine.execVshflXor d a b p s
  | .vqswapH d a p => Sys2Proof.Machine.execVqswapH d a p s
  | .vqswapV d a p => Sys2Proof.Machine.execVqswapV d a p s
  | .vqswapD d a p => Sys2Proof.Machine.execVqswapD d a p s
  | .vqbc d a b p => Sys2Proof.Machine.execVqbc d a b p s
  | .vqdxF32x2 d a p => Sys2Proof.Machine.execVqdxF32x2 d a p s
  | .vqdyF32x2 d a p => Sys2Proof.Machine.execVqdyF32x2 d a p s
  | .vqdxF64 d a p => Sys2Proof.Machine.execVqdxF64 d a p s
  | .vqdyF64 d a p => Sys2Proof.Machine.execVqdyF64 d a p s
  | .vscanAddI64 d a p => Sys2Proof.Machine.execVscanAddI64 d a p s
  | .vscanAddF64 d a p => Sys2Proof.Machine.execVscanAddF64 d a p s
  | .vredAddI64 d a p => Sys2Proof.Machine.execVredAddI64 d a p s
  | .vredAddF64 d a p => Sys2Proof.Machine.execVredAddF64 d a p s
  | .vredMinI64 d a p => Sys2Proof.Machine.execVredMinI64 d a p s
  | .vredMaxI64 d a p => Sys2Proof.Machine.execVredMaxI64 d a p s
  | .vredMinnN64 d a p => Sys2Proof.Machine.execVredMinnN64 d a p s
  | .vredMaxnN64 d a p => Sys2Proof.Machine.execVredMaxnN64 d a p s
  | .vredMinF64 d a p => Sys2Proof.Machine.execVredMinF64 d a p s
  | .vredMaxF64 d a p => Sys2Proof.Machine.execVredMaxF64 d a p s
  | .vredAnd d a p => Sys2Proof.Machine.execVredAnd d a p s
  | .vredOr d a p => Sys2Proof.Machine.execVredOr d a p s
  | .vredXor d a p => Sys2Proof.Machine.execVredXor d a p s
  | .vballot d q => Sys2Proof.Machine.execVballot d q s
  | .vany d q => Sys2Proof.Machine.execVany d q s
  | .vall d q => Sys2Proof.Machine.execVall d q s
  | .vfirst d q => Sys2Proof.Machine.execVfirst d q s
  | .vaddsF64 d a b p => Sys2Proof.Machine.execVaddsF64 d a b p s
  | .vmulsF64 d a b p => Sys2Proof.Machine.execVmulsF64 d a b p s
  | .vfmasF64 d a b p => Sys2Proof.Machine.execVfmasF64 d a b p s
  | .vbcst d b p => Sys2Proof.Machine.execVbcst d b p s
  | .vget v sc l => Sys2Proof.Machine.execVget v sc l s
  | .vput v sc l => Sys2Proof.Machine.execVput v sc l s
  | .vmovi d im => Sys2Proof.Machine.execVmovi d im s
  | .pand d a b => Sys2Proof.Machine.execPand d a b s
  | .por d a b => Sys2Proof.Machine.execPor d a b s
  | .pxor d a b => Sys2Proof.Machine.execPxor d a b s
  | .pandn d a b => Sys2Proof.Machine.execPandn d a b s
  | .pnot d a => Sys2Proof.Machine.execPnot d a s
  | .pmov d a => Sys2Proof.Machine.execPmov d a s
  | .pfroms d sc => Sys2Proof.Machine.execPfroms d sc s
  | .ld d a o z p => Sys2Proof.Machine.execLd d a o z p s
  | .st d a o z p => Sys2Proof.Machine.execSt d a o z p s
  | .ldAcq d a o sc z => Sys2Proof.Machine.execLdAcq d a o sc z s
  | .stRel d a o sc z => Sys2Proof.Machine.execStRel d a o sc z s
  | .ldb d q o z m p => Sys2Proof.Machine.execLdb d q o z m p s
  | .stb d q o z m p => Sys2Proof.Machine.execStb d q o z m p s
  | .atom d a o k => Sys2Proof.Machine.execAtom d a o k s
  | .red d a o k => Sys2Proof.Machine.execRed d a o k s
  | .homeAtomic id => Sys2Proof.Machine.execHomeAtomic id s
  | .fenceAcq sc a => Sys2Proof.Machine.execFenceAcq sc a s
  | .fenceRel sc a => Sys2Proof.Machine.execFenceRel sc a s
  | .fenceAr sc a => Sys2Proof.Machine.execFenceAr sc a s
  | .cmoClean l a b => Sys2Proof.Machine.execCmoClean l a b s
  | .cmoInv l a b => Sys2Proof.Machine.execCmoInv l a b s
  | .cmoClinv l a b => Sys2Proof.Machine.execCmoClinv l a b s
  | .cmoPref l a b => Sys2Proof.Machine.execCmoPref l a b s
  | .rgnOff => Sys2Proof.Machine.execRgnOff s
  | .rgnMark a im => Sys2Proof.Machine.execRgnMark a im s
  | .tcopyLd a b sc l => Sys2Proof.Machine.execTcopyLd a b sc l s
  | .tcopySt a b sc l => Sys2Proof.Machine.execTcopySt a b sc l s
  | .tcopyPl a b sc l => Sys2Proof.Machine.execTcopyPl a b sc l s
  | .bcopy a b sc l => Sys2Proof.Machine.execBcopy a b sc l s
  | .bfill a b sc l => Sys2Proof.Machine.execBfill a b sc l s
  | .ratom a b => Sys2Proof.Machine.execRatom a b s
  | .coll a sc l => Sys2Proof.Machine.execColl a sc l s
  | .scopy a b => Sys2Proof.Machine.execScopy a b s
  | .binit a b => Sys2Proof.Machine.execBinit a b s
  | .barr a b sc l => Sys2Proof.Machine.execBarr a b sc l s
  | .bexp a b => Sys2Proof.Machine.execBexp a b s
  | .bwait a b sc l => Sys2Proof.Machine.execBwait a b sc l s
  | .bwaitWake p sc f => Sys2Proof.Machine.execBwaitWake p sc f s
  | .btry a b sc l => Sys2Proof.Machine.execBtry a b sc l s
  | .ctry a b sc l => Sys2Proof.Machine.execCtry a b sc l s
  | .ctryReread p sc f => Sys2Proof.Machine.execCtryReread p sc f s
  | .ctryTimeout p sc f => Sys2Proof.Machine.execCtryTimeout p sc f s
  | .barPly sc l => Sys2Proof.Machine.execBarPly sc l s
  | .barSkn sc l => Sys2Proof.Machine.execBarSkn sc l s
  | .commit p => Sys2Proof.Machine.execCommit p s
  | .plyExit p => Sys2Proof.Machine.execPlyExit p s
  | .logDrain core serial => Sys2Proof.Machine.execLogDrain core serial s
  | .reservationExpiry p sc f => Sys2Proof.Machine.execReservationExpiry p sc f s
  | .transferStart id => Sys2Proof.Machine.execTransferStart id s
  | .landingReport id unit => Sys2Proof.Machine.execLandingReport id unit s
  | .transferComplete id => Sys2Proof.Machine.execTransferComplete id s
  | .transferPause id => Sys2Proof.Machine.execTransferPause id s
  | .ratomReply id old status => Sys2Proof.Machine.execRatomReply id old status s
  | .collectiveComplete id contrib => Sys2Proof.Machine.execCollectiveComplete id contrib s
  | .collectiveLoss id => Sys2Proof.Machine.execCollectiveLoss id s
  | .timingReplay core again => Sys2Proof.Machine.execTimingReplay core again s
  | .rollback p cls cause lanes addr => Sys2Proof.Machine.execRollback p cls cause lanes addr s
  | .containment p cls cause lanes addr => Sys2Proof.Machine.execContainment p cls cause lanes addr s
  | .correctedCountReport => Sys2Proof.Machine.execCorrectedCountReport s
  | .vacate k => Sys2Proof.Machine.execVacate k s
  | .vacateTimeout k => Sys2Proof.Machine.execVacateTimeout k s
  | .placement => Sys2Proof.Machine.execPlacement s
  | .reelComplete r => Sys2Proof.Machine.execReelComplete r s
  | .completionTail job => Sys2Proof.Machine.execCompletionTail job s
  | .doorbell fn q value => Sys2Proof.Machine.execDoorbell fn q value s
  | .signalAdd q => Sys2Proof.Machine.execSignalAdd q s
  | .signalSet q => Sys2Proof.Machine.execSignalSet q s
  | .wait q => Sys2Proof.Machine.execWait q s
  | .waitTimeout q => Sys2Proof.Machine.execWaitTimeout q s
  | .parkedRetestTick cc => Sys2Proof.Machine.execParkedRetestTick cc s
  | .invalTranslation job => Sys2Proof.Machine.execInvalTranslation job s
  | .invalCode job => Sys2Proof.Machine.execInvalCode job s
  | .invalStaged job => Sys2Proof.Machine.execInvalStaged job s
  | .replayResume q => Sys2Proof.Machine.execReplayResume q s
  | .replayKill q => Sys2Proof.Machine.execReplayKill q s
  | .dispatch q => Sys2Proof.Machine.execDispatch q s
  | .dispatchRole q => Sys2Proof.Machine.execDispatchRole q s
  | .draw q => Sys2Proof.Machine.execDraw q s
  | .meshSkeinLaunch r => Sys2Proof.Machine.execMeshSkeinLaunch r s
  | .cond q => Sys2Proof.Machine.execCond q s
  | .stage q => Sys2Proof.Machine.execStage q s
  | .stagingGate id => Sys2Proof.Machine.execStagingGate id s
  | .stagingVacateTimeout id => Sys2Proof.Machine.execStagingVacateTimeout id s
  | .copy q => Sys2Proof.Machine.execCopy q s
  | .copyFill q => Sys2Proof.Machine.execCopyFill q s
  | .ckptSave q => Sys2Proof.Machine.execCkptSave q s
  | .ckptRestore q => Sys2Proof.Machine.execCkptRestore q s
  | .ckptArmCapture q => Sys2Proof.Machine.execCkptArmCapture q s
  | .intervalCapture p => Sys2Proof.Machine.execIntervalCapture p s
  | .ckptRerun q => Sys2Proof.Machine.execCkptRerun q s
  | .vdevCollapse q => Sys2Proof.Machine.execVdevCollapse q s
  | .vdevSetEnergyShare q => Sys2Proof.Machine.execVdevSetEnergyShare q s
  | .packetNop q => Sys2Proof.Machine.execPacketNop q s
  | .wake v => Sys2Proof.Machine.execWake v s
  | .refreshWindowOpen d => Sys2Proof.Machine.execRefreshWindowOpen d s
  | .refreshWindowClose d => Sys2Proof.Machine.execRefreshWindowClose d s
  | .energyPeriod => Sys2Proof.Machine.execEnergyPeriod s
  | .create v => Sys2Proof.Machine.execCreate v s
  | .destroy v => Sys2Proof.Machine.execDestroy v s
  | .setAccount v => Sys2Proof.Machine.execSetAccount v s
  | .writeProcessGroupEntry v => Sys2Proof.Machine.execWriteProcessGroupEntry v s
  | .setTranslationRoot v => Sys2Proof.Machine.execSetTranslationRoot v s
  | .attest => Sys2Proof.Machine.execAttest s
  | .commandDone => Sys2Proof.Machine.execCommandDone s
  | .plimit value => Sys2Proof.Machine.execPlimit value s
  | .queueStateWrite q value => Sys2Proof.Machine.execQueueStateWrite q value s
  | .injectionArm value => Sys2Proof.Machine.execInjectionArm value s
  | .registerWrite off value => Sys2Proof.Machine.execRegisterWrite off value s
  | .apertureAccess wr off len data => Sys2Proof.Machine.execApertureAccess wr off len data s
  | .vfBar2Access vf ide wr off len data => Sys2Proof.Machine.execVfBar2Access vf ide wr off len data s
  | .hostWrite v pa data => Sys2Proof.Machine.execHostWrite v pa data s
  | .hostRead v pa len => Sys2Proof.Machine.execHostRead v pa len s
  | .atsInvalidateRequest tag pasid va size => Sys2Proof.Machine.execAtsInvalidateRequest tag pasid va size s
  | .prgResponseSuccess group => Sys2Proof.Machine.execPrgResponseSuccess group s
  | .prgResponseInvalid group => Sys2Proof.Machine.execPrgResponseInvalid group s
  | .prgResponseFailure fn => Sys2Proof.Machine.execPrgResponseFailure fn s
  | .flr fn => Sys2Proof.Machine.execFlr fn s
  | .packageReset => Sys2Proof.Machine.execPackageReset s
  | .peerRequest src dst v req kind off len op data => Sys2Proof.Machine.execPeerRequest src dst v req kind off len op data s
  | .peerLoadTimeout id => Sys2Proof.Machine.execPeerLoadTimeout id s
  | .linkReplay port => Sys2Proof.Machine.execLinkReplay port s
  | .linkRetrain port lane => Sys2Proof.Machine.execLinkRetrain port lane s
  | .spareLaneRetrain port => Sys2Proof.Machine.execSpareLaneRetrain port s
  | .linkDown port => Sys2Proof.Machine.execLinkDown port s
  | .downLinkRetrain port ok => Sys2Proof.Machine.execDownLinkRetrain port ok s
  | .queueTableError q => Sys2Proof.Machine.execQueueTableError q s
  | .commandCoreSubstitution cc => Sys2Proof.Machine.execCommandCoreSubstitution cc s
  | .coreSubstitution core => Sys2Proof.Machine.execCoreSubstitution core s
  | .powerThrottle on => Sys2Proof.Machine.execPowerThrottle on s
  | .thermalEvent d kind => Sys2Proof.Machine.execThermalEvent d kind s
  | .deviceStop v cls cause => Sys2Proof.Machine.execDeviceStop v cls cause s
  | .packageStop cause => Sys2Proof.Machine.execPackageStop cause s
  | .illegalEncoding p sc f => Sys2Proof.Machine.execIllegalEncoding p sc f s
  | .codeFetchFault p sc f => Sys2Proof.Machine.execCodeFetchFault p sc f s
  | .softError kind d unit loc double => Sys2Proof.Machine.execSoftError kind d unit loc double s
  | .peerResponse id status data => Sys2Proof.Machine.execPeerResponse id status data s
  | .hostCompletion id status data => Sys2Proof.Machine.execHostCompletion id status data s
  | .tileOperationComplete id => Sys2Proof.Machine.execTileOperationComplete id s
  | .stagingGateOpen id => Sys2Proof.Machine.execStagingGateOpen id s
  | .vdevCollapseComplete v => Sys2Proof.Machine.execVdevCollapseComplete v s
  | .configurationRequest fn item value => Sys2Proof.Machine.execConfigurationRequest fn item value s

end Sys2Proof.Machine
end

