-- ==== Sys2Proof/Machine/RegUse.lean ====
section
/-! DEFINITION. What registers and other parts of a strand an instruction reads and writes: for the scoreboard that divides a chain (R110),
and for the values with bad parity that an instruction consumes (R349, R350, R357). -/
namespace Sys2Proof.Machine

/-- A part of a strand's state, as the scoreboard names it. -/
inductive Loc where
  | v (r : Nat)
  | s (n : Nat)
  | p (q : Nat)
  | x (n : Nat)
  | t (n : Nat)
  /-- A register that SRD reads, by number (R151). -/
  | sr (n : Nat)
  /-- The segment registers; the trap level; the allotment; the flags. -/
  | seg | trap | blocks | flags
  deriving DecidableEq, Repr

/-- The registers of a field: vector, n vectors, scalar, sb6, a base (R52, R60), a group of scalars, its second register, a predicate. -/
def ve (r : BitVec 6) : List Loc := [.v r.toNat]
def vr (r : BitVec 6) (n : Nat) : List Loc := (upFrom r.toNat n).map .v
def sc (a : BitVec 8) : List Loc := if a.toNat = 192 then [] else if a.toNat = 208 then [.s 208, .flags] else [.s a.toNat]
def s6 (b : BitVec 6) : List Loc := [.s b.toNat]
def ba (a : BitVec 8) : List Loc := if 224 ≤ a.toNat ∧ a.toNat < 240 then [.x (a.toNat - 224)] else sc a
def grp (a : BitVec 8) (n : Nat) : List Loc := (upFrom a.toNat n).map .s
def up (a : BitVec 8) : List Loc := [.s (a.toNat + 1)]
def ti (t : BitVec 4) : List Loc := [.t t.toNat]
def g {n : Nat} (q : BitVec n) : List Loc := if q.toNat = 0 then [] else [.p q.toNat]
def xr (x : BitVec 8) : List Loc := [.x (x.toNat - 224)]
/-- A fragment's bank, which a split copies (R32). -/
def bank : List Loc := (upFrom 0 16).map .s
/-- A buffer record's scalars. -/
def bq (q : BitVec 5) : List Loc := (upFrom (4 * q.toNat) 4).map .s
/-- The registers of a size code; the predicates of a compare; the data of an atomic. -/
def pr (d : BitVec 6) (z : Nat) : List Loc := (sizeRegs z d.toNat).map .v
def ordCode (z : BitVec 2) : Nat := if z = 2 then 4 else 0
def pp (d y : BitVec 3) : List Loc := (upFrom d.toNat (cmpCount y.toNat)).map .p
def cas (d : BitVec 6) (k : BitVec 5) : List Loc := if isCas k.toNat then vr d 2 else ve d

/-- What an instruction reads and what it writes. [DEDUCED: log 16] -/
def Instr.uses (i : Instr) : List Loc × List Loc :=
  match i with
  | .trap a _ => (sc a, [])
  | .tret => ([.trap], [])
  | .srd a n => ([.sr n.toNat], sc a)
  | .swr a _ => (sc a, [.trap, .sr 0])
  | .segld a _ => (grp a 2, [.seg])
  | .segrd a _ => ([.seg], grp a 2)
  | .abort a _ => (sc a, [])
  | .sadd d a b => (sc a ++ s6 b, sc d)
  | .ssub d a b => (sc a ++ s6 b, sc d)
  | .sand d a b => (sc a ++ s6 b, sc d)
  | .sor d a b => (sc a ++ s6 b, sc d)
  | .sxor d a b => (sc a ++ s6 b, sc d)
  | .sshl d a b => (sc a ++ s6 b, sc d)
  | .sshr d a b => (sc a ++ s6 b, sc d)
  | .ssra d a b => (sc a ++ s6 b, sc d)
  | .smul d a b => (sc a ++ s6 b, sc d)
  | .smulh d a b => (sc a ++ s6 b, sc d)
  | .smulhn d a b => (sc a ++ s6 b, sc d)
  | .smin d a b => (sc a ++ s6 b, sc d)
  | .smax d a b => (sc a ++ s6 b, sc d)
  | .sminn d a b => (sc a ++ s6 b, sc d)
  | .smaxn d a b => (sc a ++ s6 b, sc d)
  | .ssel d a b => (sc d ++ sc a ++ s6 b, sc d)
  | .sdiv d a b => (sc a ++ s6 b, sc d)
  | .sdivn d a b => (sc a ++ s6 b, sc d)
  | .srem d a b => (sc a ++ s6 b, sc d)
  | .sremn d a b => (sc a ++ s6 b, sc d)
  | .spopc d a => (sc a, sc d)
  | .sclz d a => (sc a, sc d)
  | .sctz d a => (sc a, sc d)
  | .sbrev d a => (sc a, sc d)
  | .scmp d a b _ => (sc a ++ s6 b, sc d)
  | .saddi d a _ => (sc a, sc d)
  | .sandi d a _ => (sc a, sc d)
  | .sori d a _ => (sc a, sc d)
  | .sxori d a _ => (sc a, sc d)
  | .sshli d a _ => (sc a, sc d)
  | .sshri d a _ => (sc a, sc d)
  | .ssrai d a _ => (sc a, sc d)
  | .srori d a _ => (sc a, sc d)
  | .scmpi d a _ _ => (sc a, sc d)
  | .sli d _ => ([], sc d)
  | .shin d _ => (sc d, sc d)
  | .sldD d a _ => (ba a ++ [.seg], sc d)
  | .sldW d a _ => (ba a ++ [.seg], sc d)
  | .sstD d a _ => (sc d ++ ba a ++ [.seg], [])
  | .sstW d a _ => (sc d ++ ba a ++ [.seg], [])
  | .sfadd d a b => (sc a ++ s6 b, sc d ++ [.flags])
  | .sfsub d a b => (sc a ++ s6 b, sc d ++ [.flags])
  | .sfmul d a b => (sc a ++ s6 b, sc d ++ [.flags])
  | .sfdiv d a b => (sc a ++ s6 b, sc d ++ [.flags])
  | .sfmin d a b => (sc a ++ s6 b, sc d ++ [.flags])
  | .sfmax d a b => (sc a ++ s6 b, sc d ++ [.flags])
  | .scvtf d a _ => (sc a, sc d ++ [.flags])
  | .scvti d a _ => (sc a, sc d ++ [.flags])
  | .slrD d a _ => (ba a ++ [.seg], sc d)
  | .sscD d a b => (sc a ++ s6 b ++ [.seg], sc d)
  | .bCnd _ k a _ => (if k = 6 then [] else sc a, [])
  | .call _ _ => ([], [.s 191])
  | .jr a => (sc a, [])
  | .loop _ a _ => (sc a, sc a)
  | .brvSplit _ q _ => (g q ++ [.sr 2] ++ bank, [])
  | .brvAll _ q _ => (g q, [])
  | .brvNone _ q _ => (g q, [])
  | .brvQsplit _ q _ => (g q ++ [.sr 2] ++ bank, [])
  | .brvUni _ q _ => (g q, [])
  | .jset _ => ([], [.sr 2])
  | .mma t a b _ => (ti t ++ sc a ++ sc b, ti t ++ [.flags])
  | .tld t a b => (sc a ++ sc b ++ [.seg], ti t)
  | .tst t a b => (ti t ++ sc a ++ sc b ++ [.seg], [])
  | .tzero t => ([], ti t)
  | .mbatch a => ([], sc a ++ [.s 207])
  | .mwait a => (sc a, [])
  | .rayq d a b p => (vr a 5 ++ sc b ++ g p ++ [.seg], vr d 4)
  | .rayqAny d a b p => (vr a 5 ++ sc b ++ g p ++ [.seg], vr d 4)
  | .visq d a b p => (vr a 2 ++ sc b ++ g p ++ [.seg], ve d)
  | .emit d a b p => (vr a 2 ++ sc b ++ g p ++ [.seg], ve d)
  | .vacqW d b => (sc b, sc d ++ [.sr 6, .blocks])
  | .vacqP d b => (sc b, sc d ++ [.sr 6, .blocks])
  | .vrel b => (sc b, [.sr 6, .blocks])
  | .xbind x b => (grp b 2 ++ [.seg], xr x)
  | .xunb x => ([], xr x)
  | .launch a b _ => (sc a ++ sc b ++ [.seg], up b)
  | .sigadd a b _ => (sc a ++ [.seg] ++ sc b, [])
  | .sigset a b _ => (sc a ++ [.seg] ++ sc b, [])
  | .vaddF64 d a b p => (ve a ++ ve b ++ g p, ve d ++ [.flags])
  | .vsubF64 d a b p => (ve a ++ ve b ++ g p, ve d ++ [.flags])
  | .vmulF64 d a b p => (ve a ++ ve b ++ g p, ve d ++ [.flags])
  | .vfmaF64 d a b p => (ve a ++ ve b ++ g p ++ ve d, ve d ++ [.flags])
  | .vfmsF64 d a b p => (ve a ++ ve b ++ g p ++ ve d, ve d ++ [.flags])
  | .vfnmaF64 d a b p => (ve a ++ ve b ++ g p ++ ve d, ve d ++ [.flags])
  | .vminF64 d a b p => (ve a ++ ve b ++ g p, ve d ++ [.flags])
  | .vmaxF64 d a b p => (ve a ++ ve b ++ g p, ve d ++ [.flags])
  | .vdivF64 d a b p => (ve a ++ ve b ++ g p, ve d ++ [.flags])
  | .vsqrtF64 d a p => (ve a ++ g p, ve d ++ [.flags])
  | .vabsF64 d a p => (ve a ++ g p, ve d)
  | .vnegF64 d a p => (ve a ++ g p, ve d)
  | .vsubnF64 d a b p => (ve a ++ ve b ++ g p, ve d ++ [.flags])
  | .vclassF64 d a p => (ve a ++ g p, ve d)
  | .vcpsgnF64 d a b p => (ve a ++ ve b ++ g p, ve d)
  | .vrintF64 d a _ p => (ve a ++ g p, ve d ++ [.flags])
  | .vaddF32x2 d a b p => (ve a ++ ve b ++ g p, ve d ++ [.flags])
  | .vsubF32x2 d a b p => (ve a ++ ve b ++ g p, ve d ++ [.flags])
  | .vmulF32x2 d a b p => (ve a ++ ve b ++ g p, ve d ++ [.flags])
  | .vfmaF32x2 d a b p => (ve a ++ ve b ++ g p ++ ve d, ve d ++ [.flags])
  | .vfmsF32x2 d a b p => (ve a ++ ve b ++ g p ++ ve d, ve d ++ [.flags])
  | .vfnmaF32x2 d a b p => (ve a ++ ve b ++ g p ++ ve d, ve d ++ [.flags])
  | .vminF32x2 d a b p => (ve a ++ ve b ++ g p, ve d ++ [.flags])
  | .vmaxF32x2 d a b p => (ve a ++ ve b ++ g p, ve d ++ [.flags])
  | .vdivF32x2 d a b p => (ve a ++ ve b ++ g p, ve d ++ [.flags])
  | .vsqrtF32x2 d a p => (ve a ++ g p, ve d ++ [.flags])
  | .vabsF32x2 d a p => (ve a ++ g p, ve d)
  | .vnegF32x2 d a p => (ve a ++ g p, ve d)
  | .vclassF32x2 d a p => (ve a ++ g p, ve d)
  | .vcpsgnF32x2 d a b p => (ve a ++ ve b ++ g p, ve d)
  | .vrintF32x2 d a _ p => (ve a ++ g p, ve d ++ [.flags])
  | .vf16Add d a b p _ => (ve a ++ ve b ++ g p, ve d ++ [.flags])
  | .vf16Sub d a b p _ => (ve a ++ ve b ++ g p, ve d ++ [.flags])
  | .vf16Mul d a b p _ => (ve a ++ ve b ++ g p, ve d ++ [.flags])
  | .vf16Fma d a b p _ => (ve a ++ ve b ++ g p ++ ve d, ve d ++ [.flags])
  | .vf16Min d a b p _ => (ve a ++ ve b ++ g p, ve d ++ [.flags])
  | .vf16Max d a b p _ => (ve a ++ ve b ++ g p, ve d ++ [.flags])
  | .vf16Abs d a p _ => (ve a ++ g p, ve d)
  | .vf16Neg d a p _ => (ve a ++ g p, ve d)
  | .vaddI32x2 d a b p => (ve a ++ ve b ++ g p, ve d)
  | .vsubI32x2 d a b p => (ve a ++ ve b ++ g p, ve d)
  | .vmulI32x2 d a b p => (ve a ++ ve b ++ g p, ve d)
  | .vmulhI32x2 d a b p => (ve a ++ ve b ++ g p, ve d)
  | .vmulhnI32x2 d a b p => (ve a ++ ve b ++ g p, ve d)
  | .vminI32x2 d a b p => (ve a ++ ve b ++ g p, ve d)
  | .vmaxI32x2 d a b p => (ve a ++ ve b ++ g p, ve d)
  | .vminnI32x2 d a b p => (ve a ++ ve b ++ g p, ve d)
  | .vmaxnI32x2 d a b p => (ve a ++ ve b ++ g p, ve d)
  | .vabsI32x2 d a p => (ve a ++ g p, ve d)
  | .vnegI32x2 d a p => (ve a ++ g p, ve d)
  | .vaddsatI32x2 d a b p => (ve a ++ ve b ++ g p, ve d ++ [.flags])
  | .vsubsatI32x2 d a b p => (ve a ++ ve b ++ g p, ve d ++ [.flags])
  | .vaddsatnI32x2 d a b p => (ve a ++ ve b ++ g p, ve d ++ [.flags])
  | .vsubsatnI32x2 d a b p => (ve a ++ ve b ++ g p, ve d ++ [.flags])
  | .vaddI64 d a b p => (ve a ++ ve b ++ g p, ve d)
  | .vsubI64 d a b p => (ve a ++ ve b ++ g p, ve d)
  | .vmulI64 d a b p => (ve a ++ ve b ++ g p, ve d)
  | .vmulhI64 d a b p => (ve a ++ ve b ++ g p, ve d)
  | .vmulhnI64 d a b p => (ve a ++ ve b ++ g p, ve d)
  | .vminI64 d a b p => (ve a ++ ve b ++ g p, ve d)
  | .vmaxI64 d a b p => (ve a ++ ve b ++ g p, ve d)
  | .vminnI64 d a b p => (ve a ++ ve b ++ g p, ve d)
  | .vmaxnI64 d a b p => (ve a ++ ve b ++ g p, ve d)
  | .vdivI64 d a b p => (ve a ++ ve b ++ g p, ve d)
  | .vdivnI64 d a b p => (ve a ++ ve b ++ g p, ve d)
  | .vremI64 d a b p => (ve a ++ ve b ++ g p, ve d)
  | .vremnI64 d a b p => (ve a ++ ve b ++ g p, ve d)
  | .vabsI64 d a p => (ve a ++ g p, ve d)
  | .vnegI64 d a p => (ve a ++ g p, ve d)
  | .vand d a b p => (ve a ++ ve b ++ g p, ve d)
  | .vor d a b p => (ve a ++ ve b ++ g p, ve d)
  | .vxor d a b p => (ve a ++ ve b ++ g p, ve d)
  | .vandn d a b p => (ve a ++ ve b ++ g p, ve d)
  | .vnot d a p => (ve a ++ g p, ve d)
  | .vshl d a b p => (ve a ++ ve b ++ g p, ve d)
  | .vshr d a b p => (ve a ++ ve b ++ g p, ve d)
  | .vsra d a b p => (ve a ++ ve b ++ g p, ve d)
  | .vrotl d a b p => (ve a ++ ve b ++ g p, ve d)
  | .vshl32x2 d a b p => (ve a ++ ve b ++ g p, ve d)
  | .vshr32x2 d a b p => (ve a ++ ve b ++ g p, ve d)
  | .vsra32x2 d a b p => (ve a ++ ve b ++ g p, ve d)
  | .vpopc d a p => (ve a ++ g p, ve d)
  | .vclz d a p => (ve a ++ g p, ve d)
  | .vbrev d a p => (ve a ++ g p, ve d)
  | .vbfx d a b p => (ve a ++ ve b ++ g p, ve d)
  | .vmov d a p => (ve a ++ g p, ve d)
  | .vsel d a b q => (ve a ++ ve b ++ g q, ve d)
  | .vpk32 d a b p => (ve a ++ ve b ++ g p, ve d)
  | .vhi32 d a p => (ve a ++ g p, ve d)
  | .vlo32 d a p => (ve a ++ g p, ve d)
  | .vid d p => (g p, ve d)
  | .vqid d p => (g p, ve d)
  | .vcmp d a b p _ y => (ve a ++ ve b ++ g p, pp d y ++ [.flags])
  | .vcvt d a x p _ _ => (ve a ++ (if (cvtWidths x.toNat).2 < (cvtWidths x.toNat).1 then ve d else []) ++ g p, ve d ++ [.flags])
  | .vdot4I8 d a b p _ _ _ => (ve a ++ ve b ++ g p ++ ve d, ve d ++ [.flags])
  | .vdot8I4 d a b p _ _ _ => (ve a ++ ve b ++ g p ++ ve d, ve d ++ [.flags])
  | .vrcpF32x2 d a p => (ve a ++ g p, ve d ++ [.flags])
  | .vrsqF32x2 d a p => (ve a ++ g p, ve d ++ [.flags])
  | .vexp2F32x2 d a p => (ve a ++ g p, ve d ++ [.flags])
  | .vlog2F32x2 d a p => (ve a ++ g p, ve d ++ [.flags])
  | .vsinF32x2 d a p => (ve a ++ g p, ve d ++ [.flags])
  | .vcosF32x2 d a p => (ve a ++ g p, ve d ++ [.flags])
  | .vtanhF32x2 d a p => (ve a ++ g p, ve d ++ [.flags])
  | .vrcpF64a d a p => (ve a ++ g p, ve d ++ [.flags])
  | .vrsqF64a d a p => (ve a ++ g p, ve d ++ [.flags])
  | .vshflIdx d a b p => (ve a ++ ve b ++ g p, ve d)
  | .vshflUp d a b p => (ve a ++ ve b ++ g p, ve d)
  | .vshflDn d a b p => (ve a ++ ve b ++ g p, ve d)
  | .vshflXor d a b p => (ve a ++ ve b ++ g p, ve d)
  | .vqswapH d a p => (ve a ++ g p, ve d)
  | .vqswapV d a p => (ve a ++ g p, ve d)
  | .vqswapD d a p => (ve a ++ g p, ve d)
  | .vqbc d a b p => (ve a ++ ve b ++ g p, ve d)
  | .vqdxF32x2 d a p => (ve a ++ g p, ve d ++ [.flags])
  | .vqdyF32x2 d a p => (ve a ++ g p, ve d ++ [.flags])
  | .vqdxF64 d a p => (ve a ++ g p, ve d ++ [.flags])
  | .vqdyF64 d a p => (ve a ++ g p, ve d ++ [.flags])
  | .vscanAddI64 d a p => (ve a ++ g p, ve d)
  | .vscanAddF64 d a p => (ve a ++ g p, ve d ++ [.flags])
  | .vredAddI64 d a p => (ve a ++ g p, sc d)
  | .vredAddF64 d a p => (ve a ++ g p, sc d ++ [.flags])
  | .vredMinI64 d a p => (ve a ++ g p, sc d)
  | .vredMaxI64 d a p => (ve a ++ g p, sc d)
  | .vredMinnN64 d a p => (ve a ++ g p, sc d)
  | .vredMaxnN64 d a p => (ve a ++ g p, sc d)
  | .vredMinF64 d a p => (ve a ++ g p, sc d ++ [.flags])
  | .vredMaxF64 d a p => (ve a ++ g p, sc d ++ [.flags])
  | .vredAnd d a p => (ve a ++ g p, sc d)
  | .vredOr d a p => (ve a ++ g p, sc d)
  | .vredXor d a p => (ve a ++ g p, sc d)
  | .vballot d q => (g q, sc d)
  | .vany d q => (g q, sc d)
  | .vall d q => (g q, sc d)
  | .vfirst d q => (g q, sc d)
  | .vaddsF64 d a b p => (ve a ++ sc b ++ g p, ve d ++ [.flags])
  | .vmulsF64 d a b p => (ve a ++ sc b ++ g p, ve d ++ [.flags])
  | .vfmasF64 d a b p => (ve a ++ sc b ++ g p ++ ve d, ve d ++ [.flags])
  | .vbcst d b p => (sc b ++ g p, ve d)
  | .vget v s _ => (ve v, sc s)
  | .vput v s _ => (sc s, ve v)
  | .vmovi d _ => ([], ve d)
  | .pand d a b => (g a ++ g b, g d)
  | .por d a b => (g a ++ g b, g d)
  | .pxor d a b => (g a ++ g b, g d)
  | .pandn d a b => (g a ++ g b, g d)
  | .pnot d a => (g a, g d)
  | .pmov d a => (g a, g d)
  | .pfroms d s => (sc s, g d)
  | .ld d a o z p => (ba a ++ ve o ++ [.seg] ++ g p, pr d z.toNat)
  | .st d a o z p => (ba a ++ ve o ++ pr d z.toNat ++ [.seg] ++ g p, [])
  | .ldAcq d a o _ z => (ba a ++ ve o ++ [.seg], pr d (ordCode z))
  | .stRel d a o _ z => (ba a ++ ve o ++ pr d (ordCode z) ++ [.seg], [])
  | .ldb d q o z _ p => (bq q ++ ve o ++ [.seg] ++ g p, pr d z.toNat)
  | .stb d q o z _ p => (bq q ++ ve o ++ pr d z.toNat ++ [.seg] ++ g p, [])
  | .atom d a o k => (ba a ++ ve o ++ cas d k ++ [.seg], ve d)
  | .red d a o _ => (ba a ++ ve o ++ ve d ++ [.seg], [])
  | .fenceAcq _ a => (sc a, [])
  | .fenceRel _ a => (sc a, [])
  | .fenceAr _ a => (sc a, [])
  | .cmoClean _ a b => (sc a ++ s6 b ++ [.seg], [])
  | .cmoInv _ a b => (sc a ++ s6 b ++ [.seg], [])
  | .cmoClinv _ a b => (sc a ++ s6 b ++ [.seg], [])
  | .cmoPref _ a b => (sc a ++ s6 b ++ [.seg], [])
  | .rgnMark a _ => (sc a, [])
  | .tcopyLd a b _ _ => (sc a ++ grp b 5 ++ [.seg], [])
  | .tcopySt a b _ _ => (sc a ++ grp b 5 ++ [.seg], [])
  | .tcopyPl a b _ _ => (sc a ++ grp b 5 ++ [.seg], [])
  | .bcopy a b _ _ => (sc a ++ grp b 3 ++ [.seg], [])
  | .bfill a b _ _ => (sc a ++ grp b 3 ++ [.seg], [])
  | .ratom a b => (sc a ++ grp b 5 ++ [.seg], [])
  | .coll a _ _ => (sc a ++ [.seg], [])
  | .scopy a b => (sc a ++ grp b 3 ++ [.seg], [])
  | .binit a b => (sc a ++ sc b ++ [.seg], [])
  | .barr a b _ _ => (sc a ++ [.seg], sc b)
  | .bexp a b => (sc a ++ sc b ++ [.seg], [])
  | .bwait a b _ _ => (sc a ++ sc b ++ [.seg], [])
  | .btry a b _ _ => (sc a ++ sc b ++ [.seg], up b)
  | .ctry a b _ _ => (sc a ++ sc b ++ [.seg], up b)
  | _ => ([], [])

/-- A later instruction of a chain reads or writes what an earlier one writes (R110). Two instructions that only raise flags do not
conflict: their flags combine by OR (R56); a write of %fpst conflicts with either. [DEDUCED: log 16] -/
def conflicts (earlier later : Instr) : Bool :=
  let w := (Instr.uses earlier).2
  let u := Instr.uses later
  w.any (fun l => l != .flags && (u.1.contains l || u.2.contains l)) ||
    (w.contains .flags && u.1.contains .flags) || (u.2.contains (.s 208) && w.contains .flags) ||
    (w.contains (.s 208) && u.2.contains .flags) ||
    (w.contains .blocks && (u.1 ++ u.2).any (fun l => match l with
      | .v _ => true
      | _ => false))

/-- An instruction whose helper lanes do nothing (R37). -/
def activeOnly (i : Instr) : Bool :=
  match i with
  | .st _ _ _ _ _ => true
  | .stRel _ _ _ _ _ => true
  | .stb _ _ _ _ _ _ => true
  | .atom _ _ _ _ => true
  | .red _ _ _ _ => true
  | .rayq _ _ _ _ => true
  | .rayqAny _ _ _ _ => true
  | .visq _ _ _ _ => true
  | .emit _ _ _ _ => true
  | .vscanAddI64 _ _ _ => true
  | .vscanAddF64 _ _ _ => true
  | .vredAddI64 _ _ _ => true
  | .vredAddF64 _ _ _ => true
  | .vredMinI64 _ _ _ => true
  | .vredMaxI64 _ _ _ => true
  | .vredMinnN64 _ _ _ => true
  | .vredMaxnN64 _ _ _ => true
  | .vredMinF64 _ _ _ => true
  | .vredMaxF64 _ _ _ => true
  | .vredAnd _ _ _ => true
  | .vredOr _ _ _ => true
  | .vredXor _ _ _ => true
  | _ => false

/-- The guard of an instruction; 0 where it has none. -/
def guardOf (i : Instr) : Nat :=
  match i with
  | .vsel _ _ _ _ => 0
  | .pand _ _ _ => 0
  | .por _ _ _ => 0
  | .pxor _ _ _ => 0
  | .pandn _ _ _ => 0
  | .pnot _ _ => 0
  | .pmov _ _ => 0
  | _ => ((Instr.uses i).1.findSome? (fun l => match l with
    | .p q => some q
    | _ => none)).getD 0

/-- The lanes for which an instruction reads lane l of register r; only a few read another lane's register (R350). -/
def readersOf (s : State) (i : Instr) (r l : Nat) : W32 :=
  let q := guardOf i
  let m := toPerform s (if activeOnly i then activeLanes s q else enabledLanes s q)
  let own : W32 := m &&& laneBit l
  let from' (a : Nat) (src : Nat → Nat) : W32 := maskOf ((lanesOf m).filter (fun k => r == a && src k == l))
  match i with
  | .vshflIdx _ a b _ => from' a.toNat (laneArg s b.toNat) ||| (if r = b.toNat then own else 0)
  | .vshflUp _ a b _ => from' a.toNat (fun k => if laneArg s b.toNat k ≤ k then k - laneArg s b.toNat k else k) ||| (if r = b.toNat then own else 0)
  | .vshflDn _ a b _ => from' a.toNat (fun k => if k + laneArg s b.toNat k ≤ 31 then k + laneArg s b.toNat k else k) ||| (if r = b.toNat then own else 0)
  | .vshflXor _ a b _ => from' a.toNat (fun k => Nat.xor k (laneArg s b.toNat k)) ||| (if r = b.toNat then own else 0)
  | .vqswapH _ a _ => from' a.toNat (fun k => Nat.xor k 1)
  | .vqswapV _ a _ => from' a.toNat (fun k => Nat.xor k 2)
  | .vqswapD _ a _ => from' a.toNat (fun k => Nat.xor k 3)
  | .vqbc _ a b _ => from' a.toNat (fun k => 4 * (k / 4) + bits (vreg s b.toNat k) 0 2) ||| (if r = b.toNat then own else 0)
  | .vqdxF32x2 _ a _ => from' a.toNat (fun k => (quadX k).1) ||| from' a.toNat (fun k => (quadX k).2)
  | .vqdxF64 _ a _ => from' a.toNat (fun k => (quadX k).1) ||| from' a.toNat (fun k => (quadX k).2)
  | .vqdyF32x2 _ a _ => from' a.toNat (fun k => (quadY k).1) ||| from' a.toNat (fun k => (quadY k).2)
  | .vqdyF64 _ a _ => from' a.toNat (fun k => (quadY k).1) ||| from' a.toNat (fun k => (quadY k).2)
  | _ => own

/-- An instruction consumes a mark of its strand, and for which lanes. -/
def consumes (s : State) (i : Instr) (b : Bad) : Option W32 :=
  let u := (Instr.uses i).1
  let t := s.cur
  if b.strand != s.iss.strand then none
  else
    match b.kind with
    | 0 =>
      match i with
      | .vget v _ l => if b.reg = v.toNat ∧ b.sub / 2 = l.toNat then some 0 else none
      | _ =>
        let m := readersOf s i b.reg (b.sub / 2)
        if u.contains (.v b.reg) && m != 0 then some m else none
    | 1 => if u.contains (.s b.reg) && scalarMark t s.iss.strand b.reg b then some 0 else none
    | 2 => if u.contains (.s b.reg) && scalarMark t s.iss.strand b.reg b then some 0 else none
    | 3 => if u.contains (.p b.reg) then some (s.curFrag.mask ||| s.curFrag.helper) else none
    | 4 => if u.contains (.x b.reg) then some 0 else none
    | 5 => if b.sub == fragKey t s.iss.frag && b.reg == s.iss.frag then some 0 else none
    | _ => none

/-- The marks of the fragment's bank that an instruction consumes; a split copies them with the bank. -/
def bankMarks (s : State) (i : Instr) : Tab Mark :=
  match i with
  | .brvSplit _ _ _ => []
  | .brvQsplit _ _ _ => []
  | _ => if s.cur.trapped then [] else s.curFrag.marks.filter (fun m => (Instr.uses i).1.contains (.s m.1))

/-- The injections among marks of the fragment's bank have fired (R403). -/
def fireBank (s : State) (cause : Nat) (l : Tab Mark) : State :=
  if l.any (fun m => m.2.injected) then
    fireInjection (s.modCurFrag (fun f => { f with marks := f.marks.map (fun m => if Tab.has l m.1 then (m.1, { m.2 with injected := false }) else m) })) 2 cause
  else s

/-- The register error that an instruction of the issuing fragment consumes (R350), as the fate of the ply. -/
def registerError (s : State) (i : Instr) : Option State :=
  let hits := s.curPly.bad.filterMap (fun b => (consumes s i b).map (fun m => (b, m)))
  let own := bankMarks s i
  if hits = [] ∧ own = [] then none
  else
    let e : Consumed := { cls := 2, cause := if (hits.head?.map (fun h => h.1.kind)).getD 1 = 0 then 1 else 2, lanes := hits.foldl (fun m h => m ||| h.2) 0,
                          pc := s.iss.w.toNat, strand := s.iss.strand, frag := s.iss.frag,
                          unrec := hits.any (fun h => h.1.unrec) || own.any (fun m => m.2.unrec) }
    let t := fireBank (fireMarks s s.iss.ply e.cause (fun x => hits.any (fun h => h.1 == x))) e.cause own
    some (consumeError t s.iss.ply e)

/-- An instruction whose lanes can fail one by one: of the vector pipe, a lane-wise access to memory, or of the intersection unit (R116, R349). -/
def perLane (i : Instr) : Bool :=
  let m := majorOf (encode false i)
  (decide (0x20 ≤ m) && decide (m ≤ 0x30)) ||
  match i with
  | .ld _ _ _ _ _ => true
  | .ldAcq _ _ _ _ _ => true
  | .ldb _ _ _ _ _ _ => true
  | _ => activeOnly i

/-- The lanes for which an instruction works: all enabled ones, or the active ones alone (R37), less those that it has performed. -/
def lanesAt (s : State) (i : Instr) : W32 :=
  toPerform s (if activeOnly i then activeLanes s (guardOf i) else enabledLanes s (guardOf i))

/-- The timing detector of the core has fired again in a repeated cycle: the instructions that it issues in the clock after it are in the affected stage
and take a datapath error (R348, R349). [DEDUCED: log 65] -/
def lateError (s : State) (i : Instr) : Option State :=
  if (s.core s.curCore).late = some s.clock then
    let r := if perLane i then someLanes s (lanesAt s i) else (0, s)
    some (consumeError r.2 s.iss.ply { cls := 1, cause := 3, lanes := r.1, pc := s.iss.w.toNat, strand := s.iss.strand, frag := s.iss.frag })
  else none

/-- The scoreboard holds an instruction: it names a tile that an operation of the strand is on, or reads %fpst while an MMA of the strand
is under way (R210, R212). -/
def scoreboardHolds (s : State) (i : Instr) : Bool :=
  let ops := s.curPly.tileOps
  if ops = [] then false
  else
    let u := Instr.uses i
    (u.1 ++ u.2).any (fun l => match l with
      | .t n => ops.any (fun o => o.strand == s.iss.strand && (tilesOf o).contains n)
      | _ => false) ||
    (u.1.contains (.s 208) && ops.any (fun o => o.strand == s.iss.strand && o.kind == 0))

end Sys2Proof.Machine
end

