-- ==== Sys2Proof/Machine/Ahead.lean ====
section
/-! DEFINITION. Accesses of one fragment that other observers see in either order (R235, R252): a later word may be performed before loads that
it does not depend on. -/
namespace Sys2Proof.Machine

/-- A run of bytes that an access touches. -/
structure Span where
  place : Place
  bytes : Nat
  deriving DecidableEq, Repr

/-- Where a place lies: its kind, the ply or the rank, the offset. -/
def Place.key (p : Place) : Nat × Nat × Nat :=
  match p with
  | .hbm pa => (0, 0, pa)
  | .ws o => (1, 0, o)
  | .scratch q o => (2, q, o)
  | .host pa => (3, 0, pa)
  | .peer r o => (4, r, o)

/-- Two spans share no byte. -/
def Span.apart (a b : Span) : Bool :=
  let x := a.place.key
  let y := b.place.key
  x.1 != y.1 || x.2.1 != y.2.1 || decide (x.2.2 + a.bytes ≤ y.2.2) || decide (y.2.2 + b.bytes ≤ x.2.2)

/-- The span of a scalar access, where it meets no trap, no fault and no wait. -/
def scalarSpan (s : State) (a : BitVec 8) (o : BitVec 9) (n kind : Nat) : Option (List Span) :=
  let r : Except Stop Place := do
    let (base, x) ← readBase s a
    let ea ← checkOne s base (o.toInt * n) ⟨[kind], kind == 1, n, n, scalarTags⟩
    let (p, _, _) ← translateOne s x (o.toInt * n) ea kind kind
    .ok p
  match r with
  | .ok p => some [⟨p, n⟩]
  | .error _ => none

/-- The spans of the lanes of an access, where none of them meets a trap, a fault or a wait. -/
def laneSpans (s : State) (base : W64) (x : Option XReg) (acc : Acc) (ls : List LaneOff) : Option (List Span) :=
  match checkLanes s (ctxOf s) base acc ls with
  | .error _ => none
  | .ok l =>
    let g := (translateLanes s (ctxOf s) x acc.kind l).1
    if g.waits || g.fails != [] then none else some (g.tos.map (fun t => ⟨t.place, acc.bytes⟩))

/-- The spans of a vector access under a base. -/
def vecSpans (s : State) (a : BitVec 8) (acc : Acc) (ls : List LaneOff) : Option (List Span) :=
  match readBase s a with
  | .ok (base, x) => laneSpans s base x acc ls
  | .error _ => none

/-- The spans of an access by a buffer record. -/
def bufSpans (s : State) (q : BitVec 5) (m : BitVec 2) (acc : Acc) (lanes : W32) (o : Nat) : Option (List Span) :=
  match readBuf s q.toNat m.toNat with
  | .ok b => laneSpans s b.base none acc (bufOffsets s b lanes o acc.bytes)
  | .error _ => none

/-- The spans of a plain load. -/
def loadSpans (s : State) (i : Instr) : Option (List Span) :=
  match i with
  | .sldD _ a o => scalarSpan s a o 8 0
  | .sldW _ a o => scalarSpan s a o 4 0
  | .ld _ a o z p => vecSpans s a (loadAcc (sizeBytes z.toNat)) (byteOffsets s (loadLanesOf s p.toNat) o.toNat)
  | .ldb _ q o z m p => bufSpans s q m (loadAcc (sizeBytes z.toNat)) (loadLanesOf s p.toNat) o.toNat
  | _ => none

/-- The spans of a plain store. -/
def storeSpans (s : State) (i : Instr) : Option (List Span) :=
  match i with
  | .sstD _ a o => scalarSpan s a o 8 1
  | .sstW _ a o => scalarSpan s a o 4 1
  | .st _ a o z p => vecSpans s a (storeAcc (sizeBytes z.toNat)) (offsetsFor s (z.toNat == 5) (activeLanes s p.toNat) o.toNat)
  | .stb _ q o z m p => bufSpans s q m (storeAcc (sizeBytes z.toNat)) (activeLanes s p.toNat) o.toNat
  | _ => none

/-- The spans of a load that may stay unbound: none of them is scratch, whose accesses keep program order (R235), or a peer's window, which may be
memory of this package. -/
def lateSpans (s : State) (i : Instr) : Option (List Span) :=
  match loadSpans s i with
  | some l => if l.any (fun x => x.place.key.1 == 2 || x.place.key.1 == 4) then none else some l
  | none => none

/-- The spans of a word that may be performed early: a plain load or store, or arithmetic on registers. -/
def earlySpans (s : State) (i : Instr) : Option (List Span) :=
  let m := majorOf (encode false i)
  if (1 ≤ m ∧ m ≤ 0x0C) ∨ m = 0x11 ∨ (0x20 ≤ m ∧ m ≤ 0x30) then some []
  else (loadSpans s i).orElse (fun _ => storeSpans s i)

/-- A load that stays unbound while later words are performed. -/
structure LateLoad where
  instr : Instr
  spans : List Span
  deriving DecidableEq, Repr

/-- No other fragment of the strand writes what an instruction reads or reads what it writes: it names the fragment's own scalars and its lanes of
vector registers. -/
def keepsToItself (i : Instr) : Bool :=
  ((Instr.uses i).1 ++ (Instr.uses i).2).all (fun l => match l with
    | .s n => decide (n < 16)
    | .v _ => true
    | _ => false)

/-- A word depends on none of the unbound loads: neither names what the other writes, and their accesses share no byte (R182, R235). -/
def goesBefore (loads : List LateLoad) (i : Instr) (l : List Span) : Bool :=
  loads.all (fun x => !(conflicts x.instr i) && !(conflicts i x.instr) &&
    x.spans.all (fun a => l.all (fun b => b.place.key.1 != 4 && a.apart b)))

/-- Where a fragment goes on after a word that it has performed early. -/
def Frag.passed (f : Frag) (w : W32) : Option W32 := (f.ahead.find? (fun x => x.1 == w)).map (·.2)

/-- Fragments meet at this word: no access passes it. -/
def meetsAt (t : Strand) (w : W32) : Bool :=
  t.frags.any (fun f => f.2.join == some w || f.2.pendJoin == some w || f.2.stack.any (fun d => d.join == some w) || f.2.held.any (fun h => h.addr == w))

/-- The instruction of a legal word. -/
noncomputable def wordInstr (w : W32) : Option Instr :=
  match decodeWord w with
  | .ok r => some r.2
  | .error _ => none

/-- The words from w on that may be performed before the loads behind them. -/
noncomputable def earlyWords (s : State) (loads : List LateLoad) (w : W32) : Nat → List (W32 × Instr)
  | 0 => []
  | n + 1 =>
    match fetchWord s w false with
    | (.word v, _) =>
      if chainBit v || meetsAt s.cur w then []
      else if (s.curFrag.passed w).isSome then earlyWords s loads (w + 1) n
      else
        match wordInstr v with
        | none => []
        | some i =>
          let here :=
            match earlySpans s i with
            | some l => if loads != [] && goesBefore loads i l then [(w, i)] else []
            | none => []
          match (lateSpans s i).filter (fun _ => s.cur.frags.length == 1 || keepsToItself i) with
          | some l => here ++ earlyWords s (⟨i, l⟩ :: loads) (w + 1) n
          | none => here
    | _ => []

/-- The words that the issuing fragment may perform before the load at its program counter. Where it is not alone in its strand the loads that they pass
use no register that another fragment may write or read. [DESIGN CHOICE: log 28] -/
noncomputable def earlyChoices (s : State) : List (W32 × Instr) :=
  if s.curPly.halt || s.curFrag.unfinished.isSome then [] else earlyWords s [] s.iss.w 64

end Sys2Proof.Machine
end

