-- ==== Sys2Proof/Machine/Issue.lean ====
section
/-! DEFINITION. The issue of a fragment's next chain (R39, R40, R108 to R113), the repeat prefix (R119, R120, R146), and the scoreboard (R110,
R210, R212). The meaning of an instruction is a parameter here: step gives exec. -/
namespace Sys2Proof.Machine

/-! ## Which fragment issues (R39, R40) -/

/-- A fragment is ready: nothing parks it, its ply runs (or it ends what it has begun) and is not moving (R412), no translation register of the ply is being resolved (R261),
and its strand is not at the trap level in another fragment. -/
def ready (s : State) (p k f : Nat) : Bool :=
  let y := s.ply p
  let t := y.strand k
  let x := t.fragAt f
  y.resident && y.moving.isNone && (!y.halt || x.underWay) && !y.exiting && decide ((s.core y.core).stall ≤ s.clock) && x.wait == .none &&
    !(y.strands.any (fun t => t.2.x.any (fun r => r.2.pending))) &&
    (if t.trapped then t.trap.frag == f else !(waiting t f x))

/-- The partition of a strand on its ply's core, package-wide. -/
def partitionOf (s : State) (p k : Nat) : Nat := 4 * (s.ply p).core + k % 4

/-- How a partition orders its ready fragments: least recently issued first; among equals one that has not yielded, the older one, the
lower strand. One that has not issued yet counts from its creation, so that none waits for more than the others of its partition (R40). -/
def issueKey (s : State) (p k f : Nat) : List Nat :=
  let x := s.fragOf p k f
  [if x.issued = 0 then x.age / 1024 + 1 else x.issued, Nat.min x.yield 1, x.age, k, p, f]

/-- The lexical order of keys. [DEDUCED: log 68] -/
def keyLt : List Nat → List Nat → Bool
  | a :: as, b :: bs => decide (a < b) || (a == b && keyLt as bs)
  | _, _ => false

/-- A candidate for issue: its partition, key, ply, strand and fragment. -/
structure Cand where
  part : Nat
  key  : List Nat
  ply  : Nat
  strand : Nat
  frag : Nat
  deriving DecidableEq, Repr

/-- The running clock gives no opportunity to a core: the throttle withholds it from every core, or from those of hot dies (R341). -/
def withheld (s : State) (c : Nat) : Bool := s.plat.waited != 0 && (s.plat.throttled || s.plat.hot.contains (coreDie c))

/-- The ready fragments of the partitions that have not had their issue opportunity in this clock. [DESIGN CHOICE: log 14] -/
def candidates (s : State) : List Cand :=
  if s.plat.stopped || s.plat.held then []
  else ((allFrags s).filter (fun x => decide (s.turn ≤ partitionOf s x.1 x.2.1) && !(withheld s (s.ply x.1).core) && ready s x.1 x.2.1 x.2.2.1)).map (fun x =>
    { part := partitionOf s x.1 x.2.1, key := issueKey s x.1 x.2.1 x.2.2.1, ply := x.1, strand := x.2.1, frag := x.2.2.1 })

/-- The fragment that issues next: that of the lowest such partition, by its order. [DEDUCED: log 68] -/
def nextCand (s : State) : Option Cand :=
  (candidates s).foldl (fun m c =>
    match m with
    | none => some c
    | some b => if c.part < b.part ∨ (c.part = b.part ∧ keyLt c.key b.key) then some c else m) none

/-! ## Chains (R108, R109, R112, R119) -/

/-- The pipes (R116): scalar 0, matrix, intersection and management 1, vector 2, memory 3. -/
def pipeOf (maj : Nat) : Nat :=
  if maj ≤ 0x1B then 0
  else if maj ≤ 0x1F then 1
  else if maj ≤ 0x30 then 2
  else if maj ≤ 0x3B then 3
  else 1

/-- The control transfers (R109). -/
def controlTransfer (i : Instr) : Bool :=
  match i with
  | .bCnd _ _ _ _ => true
  | .j _ _ => true
  | .call _ _ => true
  | .jr _ => true
  | .loop _ _ _ => true
  | .brvSplit _ _ _ => true
  | .brvAll _ _ _ => true
  | .brvNone _ _ _ => true
  | .brvQsplit _ _ _ => true
  | .brvUni _ _ _ => true
  | .exit => true
  | .trap _ _ => true
  | .tret => true
  | .abort _ _ => true
  | _ => false

/-- No value stands twice in a list. -/
def differ : List Nat → Bool
  | [] => true
  | a :: l => !(l.contains a) && differ l

/-- The words of a chain are well formed and legal: their instructions (R109, R112). -/
noncomputable def chainInstrs (ws : List W32) : Option (List Instr) :=
  let is := ws.filterMap wordInstr
  if is.length == ws.length && differ (ws.map (fun w => pipeOf (majorOf w))) && !((is.take (is.length - 1)).any controlTransfer) &&
      !((ws.getLast?.map chainBit).getD true) then some is
  else none

/-- The majors that REP repeats (R119). -/
def repeatable (maj : Nat) : Bool := (decide (0x20 ≤ maj) && decide (maj ≤ 0x2B)) || [0x2D, 0x31, 0x32].contains maj

/-- REP at word index w with field bits se, and its repeated word v, are legal (R119). -/
def repLegal (w : W32) (se : BitVec 3) (v : W32) : Bool :=
  w.toNat % 3 != 2 && !(chainBit v) && repeatable (majorOf v) &&
    (!([0x28, 0x2D, 0x31, 0x32].contains (majorOf v)) || !(bit se 0))

/-- Where the stepped fields of a repeated word lie (R120): (lowest bit, width) of destination, first and second source. -/
def stepFields (maj : Nat) : List (Nat × Nat) :=
  if maj = 0x27 then [(22, 3), (16, 6), (10, 6)]
  else if maj = 0x31 ∨ maj = 0x32 then [(19, 6), (5, 6)]
  else [(19, 6), (13, 6), (7, 6)]

/-- The step of a REP. -/
def stepOf (st : BitVec 2) : Int :=
  match st.toNat with
  | 0 => 1
  | 1 => 2
  | 2 => 4
  | _ => -1

/-- A word with a field set. -/
def setField (v : W32) (lo n x : Nat) : W32 := w32 (v.toNat - bits v lo n * 2 ^ lo + x * 2 ^ lo)

/-- Step one field of a word: none when it leaves 0 to 63, for pd3 0 to 7. -/
def stepField (v : W32) (lo n : Nat) (d : Int) : Option W32 :=
  let x : Int := (bits v lo n : Nat) + d
  if x < 0 ∨ (2 : Int) ^ n ≤ x then none else some (setField v lo n x.toNat)

/-- Repeat i of a repeated word: its instruction, or the cause of the trap at that repeat (R120). A field to which the member gives no meaning is
stepped like the others, and is illegally encoded once it is not zero (R115). [DEDUCED: log 30] -/
noncomputable def repeatInstr (v : W32) (se : BitVec 3) (st : BitVec 2) (i : Nat) : Except Nat Instr :=
  let d := stepOf st * (i : Int)
  let fields := ((stepFields (majorOf v)).zip [2, 1, 0]).filter (fun x => bit se x.2)
  match fields.foldlM (fun u x => stepField u x.1.1 x.1.2 d) v with
  | none => .error 3
  | some u =>
    match wordInstr u with
    | some j => .ok j
    | none => .error 2

/-- A word of a chain to run: its instruction, and the repeated word behind a REP. -/
structure Item where
  instr : Instr
  repeated : Option W32
  deriving DecidableEq, Repr

/-- Fetch the repeated words of a chain's REPs from index w on; an illegal REP makes the chain illegal. [DEDUCED: log 70] -/
noncomputable def chainItems (s : State) (w : W32) : List Instr → Except (Option (Fetched × State)) (List Item × State)
  | [] => .ok ([], s)
  | i :: is =>
    let here : Except (Option (Fetched × State)) (Item × State) :=
      match i with
      | .rep _ se _ =>
        if w.toNat % 3 = 2 || !(is.isEmpty) then .error none
        else
          match fetchWord s (w + 1) false with
          | (.word v, t) => if repLegal w se v then .ok (⟨i, some v⟩, t) else .error none
          | r => .error (some r)
      | _ => .ok (⟨i, none⟩, s)
    match here with
    | .error e => .error e
    | .ok (x, t) =>
      match chainItems t (w + 1) is with
      | .error e => .error e
      | .ok (l, u) => .ok (x :: l, u)

/-- The instruction that a word of a chain performs now: for a REP, its repeated word at the fragment's repeat position. -/
noncomputable def Item.effective (x : Item) (s : State) : Except Nat Instr :=
  match x.instr, x.repeated with
  | .rep _ se st, some v => repeatInstr v se st s.curFrag.repPos
  | i, _ => .ok i

/-! ## Running a chain (R110, R111, R146) -/

/-- The chain goes on at the next word: nothing stopped the fragment at this one. -/
def goesOn (s t : State) : Bool :=
  !t.iss.halted && t.liveFrag s.iss.ply s.iss.strand s.iss.frag &&
    t.curFrag.pc == s.iss.w + 1 && t.curFrag.wait == .none

/-- One word: the error that it meets (R348, R350), or its meaning. -/
noncomputable def runItem (ex : Instr → State → Res) (s : State) (x : Item) : Res :=
  match x.effective s with
  | .error c => .next (takeTrap s { cause := c })
  | .ok i =>
    match (lateError s i).orElse (fun _ => registerError s i) with
    | some t => .next (halt t)
    | none =>
      match x.repeated with
      | none => ex i s
      | some _ =>
        match ex x.instr s with
        | .next t => ex i t
        | r => r

/-- The vector registers that an instruction names. -/
def vecsOf (i : Instr) : List Nat :=
  let u := Instr.uses i
  (u.1 ++ u.2).filterMap (fun l => match l with
    | .v r => some r
    | _ => none)

/-- The issuing fragment stands at its word and waits. -/
def stopsAt (s t : State) : Bool :=
  t.liveFrag s.iss.ply s.iss.strand s.iss.frag && t.curFrag.pc == s.iss.w && t.curFrag.wait != .none

/-- A word that has not completed leaves in its fragment the registers that it names, and whether it has issued: a release or a maintenance of the
caches that goes on, or a word of a chain whose words before it have been performed (R111). [DESIGN CHOICE: log 87] -/
def leaveWord (s t : State) (first : Bool) (i : Instr) : State :=
  if stopsAt s t then
    t.modCurFrag (fun f => { f with names := vecsOf i, begun := f.wait == .held && (!first || f.fence.isSome || f.unfinished.isSome) })
  else t

/-- A transfer of control that only sets the program counter. -/
def plainTransfer (i : Instr) : Bool :=
  match i with
  | .bCnd _ _ _ _ => true
  | .j _ _ => true
  | .call _ _ => true
  | .jr _ => true
  | .loop _ _ _ => true
  | _ => false

/-- A transfer of control has only moved the fragment: no trap, and no fragment joined or fused where it went. -/
def onlyMoved (s t : State) : Bool :=
  let f := s.curFrag
  let g := t.curFrag
  !t.iss.halted && t.liveFrag s.iss.ply s.iss.strand s.iss.frag && g.wait == .none && t.cur.trapped == s.cur.trapped &&
    t.cur.frags.map (·.1) == s.cur.frags.map (·.1) && g.mask == f.mask && g.stack == f.stack && g.held == f.held && !g.under

/-- A word is performed early: the fragment stays where it stands, as it stands. none: it would not simply complete. -/
noncomputable def runEarly (ex : Instr → State → Res) (s : State) (x : W32 × Instr) : Option State :=
  let f := s.curFrag
  let u := { (s.modCurFrag (fun f => { (freshFrag f) with pc := x.1, ahead := [], wait := .none })) with iss := { s.iss with w := x.1, halted := false } }
  if scoreboardHolds u x.2 then none
  else
    match runItem ex u ⟨x.2, none⟩ with
    | .next t =>
      if goesOn u t || (plainTransfer x.2 && onlyMoved u t) then
        some { (t.modCurFrag (fun g => { g with pc := f.pc, ahead := (x.1, g.pc) :: f.ahead, replies := f.replies, begun := f.begun, wait := f.wait
                                                fence := f.fence, unfinished := f.unfinished, repPos := f.repPos, under := f.under, names := f.names
                                                jumped := f.jumped }))
               with iss := s.iss }
      else none
    | _ => none

/-- The words of a chain behind one that has issued and goes on: those that it does not touch, and that do not touch what it reads, are performed beside
it, up to the first that would not simply complete (R111). -/
noncomputable def runBeside (ex : Instr → State → Res) (s : State) (done : List Instr) (w : W32) : List Item → State
  | [] => s
  | x :: xs =>
    if x.repeated.isSome || meetsAt s.cur w || meetsAt s.cur (w + 1) || done.any (fun e => conflicts e x.instr || conflicts x.instr e) then s
    else
      match runEarly ex s (w, x.instr) with
      | some t => runBeside ex t (x.instr :: done) (w + 1) xs
      | none => s

/-- A word of the chain has issued and goes on: its effects have begun. -/
def wordGoesOn (s t : State) : Bool :=
  stopsAt s t && (t.curFrag.begun || (match t.curFrag.wait with
    | .emitCommit _ _ _ => true
    | _ => false))

/-- The bay's unit serves a query of the issuing fragment, after those before it, in the same opportunity: the words behind it in the chain follow at
once (R111, R222). -/
noncomputable def serveQuery (ex : Instr → State → Res) (s : State) : State :=
  match s.curFrag.wait with
  | .query id =>
    let q := (s.bay (coreBay s.curCore)).queries.map (·.id)
    let t := (q.takeWhile (· ≠ id) ++ [id]).foldl (fun u n => match ex (.intersectionResult n) u with
      | .next v => v
      | _ => u) s
    if t.curFrag.wait = .query id then s else { t with iss := { s.iss with halted := t.iss.halted } }
  | _ => s

/-- Words one after another; a word that conflicts with an earlier one waits for a later opportunity (R110). What came back for a later word stays.
before is %rgnst as the chain found it: a word that reads it waits too once a word has changed it. [DEDUCED: log 16] -/
noncomputable def runItems (ex : Instr → State → Res) (s : State) (done : List Instr) (before : W64) : List Item → Res
  | [] => .next s
  | x :: xs =>
    match x.effective s with
    | .error _ => runItem ex s x
    | .ok i =>
      if done.any (fun e => conflicts e i) || ((Instr.uses i).1.contains (.s 209) && rgnst s.curPly != before) then .next s
      else
        match runItem ex s x with
        | .next t =>
          let t := if xs.isEmpty then t else serveQuery ex t
          if xs.isEmpty then .next (leaveWord s t done.isEmpty i)
          else if !(goesOn s t) then
            let t := leaveWord s t done.isEmpty i
            .next (if wordGoesOn s t then runBeside ex t (i :: done) (s.iss.w + 1) xs else t)
          else
            let u := t.modCurFrag (fun f => { f with replies := s.curFrag.replies })
            runItems ex { u with iss := { u.iss with w := s.iss.w + 1 } } (i :: done) before xs
        | r => r

/-- A word of the intersection unit. -/
def onUnit (i : Instr) : Bool := majorOf (encode false i) == 0x1E

/-- The chain waits for one of its later words, or for the intersection unit to serve one that is not its last, which would not complete yet: what that word asks of the outside is asked, and no word of the chain
takes effect (R39, R111). A release and a maintenance of the caches wait once they have issued. [DESIGN CHOICE: log 87] -/
noncomputable def chainWaits (ex : Instr → State → Res) (s : State) (done : List Instr) : List Item → Option State
  | [] => none
  | x :: xs =>
    match x.effective s with
    | .error _ => none
    | .ok i =>
      if done.any (fun e => conflicts e i) then none
      else
        let w := s.iss.w + BitVec.ofNat 32 done.length
        let u := { (s.modCurFrag (fun f => { f with pc := w })) with iss := { s.iss with w := w } }
        let now : Option State :=
          match if done.isEmpty && !(onUnit i && !xs.isEmpty) then Host.Outcome.next s else runItem ex u x with
          | .next t =>
            if onUnit i && !xs.isEmpty && (match (serveQuery ex t).curFrag.wait with
                | .query _ => true
                | _ => false) then some (s.modCurFrag (fun f => { f with wait := .held }))
            else if stopsAt u t && t.curFrag.wait == .held && t.curFrag.fence == s.curFrag.fence && t.curFrag.unfinished == s.curFrag.unfinished then
              some { (t.modCurFrag (fun f => { f with pc := s.iss.w })) with iss := s.iss }
            else none
          | _ => none
        now.orElse (fun _ => chainWaits ex s (i :: done) xs)

/-- The scoreboard holds some word of the chain. -/
noncomputable def chainHeld (s : State) (xs : List Item) : Bool :=
  xs.any (fun x => match x.effective s with
    | .ok i => scoreboardHolds s i
    | .error _ => false)

/-- The chain at the fragment's program counter, checked: its words, or what becomes of the fragment instead. [DEDUCED: log 70] -/
noncomputable def readChain (s : State) : Except (Option (Fetched × State)) (List Item × State) :=
  match fetchChain s s.iss.w s.curFrag.under 3 with
  | .error r => .error (some r)
  | .ok (ws, t) =>
    match chainInstrs ws with
    | none => .error none
    | some is => chainItems t s.iss.w is

/-- What the issuing fragment performs before the load at its program counter, if anything: the choice, and the state that has made it. -/
noncomputable def goEarly (ex : Instr → State → Res) (s : State) : State × Option State :=
  match earlyChoices s with
  | [] => (s, none)
  | l =>
    let t := { s with draws := s.draws + 1 }
    (t, (l[Config.choice (l.length + 1) s.draws % (l.length + 1)]?).bind (runEarly ex t))

/-- The words of a chain that are still to run: those behind its first that have run beside it are passed one by one. -/
def stillToRun (s : State) (xs : List Item) : List Item :=
  ((xs.zip (upFrom 0 xs.length)).takeWhile (fun x => (s.curFrag.passed (s.iss.w + w32 x.2)).isNone)).map (·.1)

/-- A chain that has been read and is legal: it waits, or its words run. -/
noncomputable def runRead (ex : Instr → State → Res) (s : State) (l : List Item) : Res :=
  let xs := stillToRun s l
  if chainHeld s xs then .next (s.modCurFrag (fun f => { f with wait := .held }))
  else
    match chainWaits ex s [] xs with
    | some t => .next t
    | none =>
      match goEarly ex s with
      | (_, some t) => .next t
      | (t, none) => runItems ex t [] (rgnst t.curPly) xs

/-- The issuing fragment runs the chain at its program counter, or passes a word that it has performed early. -/
noncomputable def runChain (ex : Instr → State → Res) (s : State) : Res :=
  match s.curFrag.passed s.iss.w with
  | some w => .next (goTo (s.modCurFrag (fun f => { f with ahead := f.ahead.filter (fun x => x.1 != s.iss.w), jumped := decide (w ≠ s.iss.w + 1) })) w)
  | none =>
    match targetStands s with
    | .ok (false, t) => .next (takeTrap t { cause := 4 })
    | .error _ => ex (.codeFetchFault s.iss.ply s.iss.strand s.iss.frag) s
    | .ok (true, t) =>
      match readChain t with
      | .error none => ex (.illegalEncoding s.iss.ply s.iss.strand s.iss.frag) t
      | .error (some _) => ex (.codeFetchFault s.iss.ply s.iss.strand s.iss.frag) s
      | .ok (xs, u) => runRead ex (u.modCurFrag (fun f => { f with jumped := false })) xs

/-- The fragment stands where it stood and waits to be tried again: it has not used an issue opportunity. [DESIGN CHOICE: log 17] -/
def notIssued (s t : State) (c : Cand) : Bool :=
  let f := s.fragOf c.ply c.strand c.frag
  let g := t.fragOf c.ply c.strand c.frag
  t.liveFrag c.ply c.strand c.frag && g.wait == .held && g.pc == f.pc && g.repPos == f.repPos

/-- Account for an issue opportunity (R39, R40, R340). [DEDUCED: log 15, 68] -/
def account (s : State) (c : Cand) : State :=
  let s := { s with turn := c.part + 1 }
  let s := s.mapFrags (fun p k _ f => if f.yield != 0 && partitionOf s p k == c.part then { f with yield := f.yield - 1 } else f)
  let s := if s.liveFrag c.ply c.strand c.frag then s.modFrag c.ply c.strand c.frag (fun f => { f with issued := s.clock + 1 }) else s
  if s.livePly c.ply then s.modPly c.ply (fun y => { y with used := y.used + 1 }) else s

/-- One issue opportunity: the fragment runs its chain. [DEDUCED: log 15] -/
noncomputable def issue (ex : Instr → State → Res) (s : State) (c : Cand) : Res :=
  match runChain ex (focus (s.stamp c.ply c.strand) c.ply c.strand c.frag) with
  | .next t => .next (if notIssued s t c then t else account t c)
  | r => r

end Sys2Proof.Machine
end

