-- ==== Sys2Proof/Machine/Tick.lean ====
section
/-! DEFINITION. The passing of a clock: the events that fall due (R51, R138, R206, R238, R281, R287, R288, R295, R315, R335, R351, R397), the
retry of what is held, and the choice of what happens next. -/
namespace Sys2Proof.Machine

/-- Fragments that were held try again, and releases past a barrier go on. -/
def wakeHeld (s : State) : State :=
  let s := if (allFrags s).any (fun x => x.2.2.2.wait == .held) then
      s.mapFrags (fun _ _ _ f => if f.wait == .held then { f with wait := .none } else f)
    else s
  passOn s (s.plies.map (·.1))

/-- The events of a parked or reserving fragment that are due. [DESIGN CHOICE: log 75] -/
def fragTimers (s : State) (p k f : Nat) (x : Frag) : State :=
  let s := match x.resv with
    | some r => if r.clock + 16384 ≤ s.clock then s.urgent (.reservationExpiry p k f) else s
    | none => s
  match x.wait with
  | .ctry _ _ _ _ deadline => if deadline ≤ s.clock && !(readUnderWay s p k f) then s.urgent (.ctryTimeout p k f) else s.later (.ctryReread p k f)
  | .ctryMet _ _ => s.later (.ctryReread p k f)
  | .vacq _ _ deadline => if deadline ≤ s.clock then s.urgent (.vacqWaitEnd p k f) else s.later (.vacqWaitEnd p k f)
  | .emit _ _ _ _ (some deadline) => if deadline ≤ s.clock then s.urgent (.emitStallTimeout p k f) else s.later (.emitStallResume p k f)
  | .emit _ _ _ _ none => s.later (.emitStallResume p k f)
  | .emitCommit _ _ _ => s.later (.emitStallResume p k f)
  | _ => s

/-- Events that fall due at values of the clock: energy periods, re-tests, corrected counts, refresh windows. -/
def clockTimers (s : State) : State :=
  let c := s.clock
  let s := if c % 1024 = 0 then s.urgent .energyPeriod else s
  let s := if c % 65536 = 0 then (upFrom 0 4).foldl (fun s cc => if (s.cmdCore cc).failed then s else s.urgent (.parkedRetestTick cc)) s else s
  let s := if c % 2 ^ 26 = 0 then s.urgent .correctedCountReport else s
  (upFrom 0 8).foldl (fun s d =>
    let n := windowPhase s d
    if n = 0 && windowsOn s d then s.urgent (.refreshWindowOpen d)
    else if n = 2820 && (s.die d).window then s.urgent (.refreshWindowClose d) else s) s

/-- Deadlines of queues, skeins, gates, requests, collectives, commands and links. -/
def deadlineTimers (s : State) : State :=
  let c := s.clock
  let s := s.queues.foldl (fun s q =>
    match q.2.deadline with
    | some d => if q.2.state == .parked && decide (d ≤ c) then s.urgent (.waitTimeout q.1) else s
    | none => s) s
  let s := s.skeins.foldl (fun s k =>
    match k.2.vacate with
    | some d => if d ≤ c then s.urgent (.vacateTimeout k.1) else s
    | none => s) s
  let s := s.gates.foldl (fun s g => if !g.vacated && decide (g.asked + 94000 ≤ c) then s.urgent (.stagingVacateTimeout g.id) else s) s
  let s := s.plat.reqs.foldl (fun s r =>
    match r.ask with
    | .peerLoad _ _ _ => if r.clock + 65536 ≤ c then s.urgent (.peerLoadTimeout r.id) else s
    | _ => s) s
  let s := s.plat.colls.foldl (fun s x => if x.parts = [] ∧ x.first + 2 ^ 32 ≤ c then s.urgent (.collectiveLoss x.xfer) else s) s
  let s := match s.pf0.busy with
    | some b => if b.done && decide (b.due ≤ c) then s.urgent .commandDone else s
    | none => s
  s.plat.links.foldl (fun s l =>
    match l.steps with
    | x :: _ => if l.up && decide (x.2.2 + 940000000 ≤ c) then s.urgent (.spareLaneRetrain l.port) else s
    | [] => s) s

/-- The clock that begins is withheld from cores under the throttle, or is not: at most 3 in a row are, so that a reserved sequence
keeps to the bound of R139 (R341). [DESIGN CHOICE: log 77] -/
def withhold (s : State) : State :=
  if s.plat.throttled || s.plat.hot != [] then
    let w := decide (s.plat.waited < 3) && Config.choice 2 s.draws % 2 == 1
    { s.modPlat (fun p => { p with waited := if w then p.waited + 1 else 0 }) with draws := s.draws + 1 }
  else if s.plat.waited = 0 then s
  else s.modPlat (fun p => { p with waited := 0 })

/-- One clock passes. [DEDUCED: log 15; DESIGN CHOICE: log 17] -/
def tick (s : State) : State :=
  let s := withhold { s with clock := s.clock + 1, turn := 0 }
  let s := (allFrags s).foldl (fun s x => fragTimers s x.1 x.2.1 x.2.2.1 x.2.2.2) s
  let s := deadlineTimers (clockTimers s)
  let s := endInvals (sendGroups ((s.vdevs.map (·.1)).foldl flushFaults s))
  let s := (s.plies.filter (fun p => p.2.moving.isSome)).foldl (fun s p => goOnMoving s p.1) s
  wakeHeld ((s.queues.filter (fun q => q.2.mirrors != [])).foldl (fun s q => mirrorIdx s q.1) s)

/-! ## What may happen next -/

/-- An event that runs before anything else. [DESIGN CHOICE: log 14] -/
def isUrgent (i : Instr) : Bool :=
  match i with
  | .containment _ _ _ _ _ => true
  | .rollback _ _ _ _ _ => true
  | .vacateTimeout _ => true
  | .vacqWaitEnd _ _ _ => true
  | .intervalCapture _ => true
  | .transferPause _ => true
  | .reservationExpiry _ _ _ => true
  | .ctryTimeout _ _ _ => true
  | .emitStallTimeout _ _ _ => true
  | .energyPeriod => true
  | .parkedRetestTick _ => true
  | .correctedCountReport => true
  | .refreshWindowOpen _ => true
  | .refreshWindowClose _ => true
  | .waitTimeout _ => true
  | .stagingVacateTimeout _ => true
  | .peerLoadTimeout _ => true
  | .commandDone => true
  | .deviceStop _ _ _ => true
  | .packageStop _ => true
  | .linkDown _ => true
  | .queueTableError _ => true
  | .create _ => true
  | .destroy _ => true
  | .setAccount _ => true
  | .writeProcessGroupEntry _ => true
  | .setTranslationRoot _ => true
  | .attest => true
  | _ => false

/-- What a step does when no event from outside is due. -/
inductive Next where
  | issue (c : Cand)
  | event (i : Instr)
  | command (cc : Nat)
  | drain (core serial : Nat)
  | tick
  deriving DecidableEq, Repr

/-- Ordinary entries that no release under way holds back: they may drain at any time (R238, R242). -/
def mayDrain (s : State) : List (Nat × Nat) :=
  s.cores.flatMap (fun x => (x.2.log.filter (fun e => !e.held && !(fenced s x.1 e.serial))).map (fun e => (x.1, e.serial)))

/-- Those that must drain now: the log holds 512 entries, or no store has coalesced into the entry for 2,048 clocks (R238). -/
def mustDrain (s : State) : List (Nat × Nat) :=
  s.cores.flatMap (fun x =>
    let full := decide (512 ≤ logCount x.2)
    (x.2.log.filter (fun e => !e.held && e.pub.isNone && (full || decide (e.touched + 2048 ≤ s.clock)) && !(fenced s x.1 e.serial))).map
      (fun e => (x.1, e.serial)))

/-- The command cores that have a packet to look at. -/
def busyCores (s : State) : List Nat := if s.plat.stopped || s.plat.held then [] else (upFrom 0 4).filter (coreHasWork s)

/-- A ready fragment issues before its clock ends. -/
def goOn (s : State) : Next :=
  match nextCand s with
  | some c => .issue c
  | none => .tick

/-- Everything that may happen next. -/
def choices (s : State) : List Next :=
  goOn s :: s.engine.map .event ++ (busyCores s).map .command ++ (mayDrain s).map (fun x => .drain x.1 x.2)

/-- The choice, which the spec leaves open, at draw number d: any of what may happen. So that nothing waits for ever (R41, R139), of every 16 draws one
goes to the fragments and the clock, one to the oldest event and one to the command cores in turn. [DESIGN CHOICE: log 77] -/
def pick (s : State) (d : Nat) : Next :=
  let l := choices s
  let free := l.getD (Config.choice l.length d % l.length) .tick
  match d % 16 with
  | 0 => goOn s
  | 5 => (s.engine.head?.map Next.event).getD free
  | 10 => ((busyCores s)[d / 16 % (busyCores s).length]?.map Next.command).getD free
  | _ => free

/-- What happens next, and the state that has chosen it: an urgent event, an entry that must drain, else the choice. -/
def choose (s : State) : Next × State :=
  match s.engine.head?.filter isUrgent, mustDrain s, choices s with
  | some e, _, _ => (.event e, s)
  | none, x :: _, _ => (.drain x.1 x.2, s)
  | none, [], [x] => (x, s)
  | none, [], _ => (pick s s.draws, { s with draws := s.draws + 1 })

/-! ## One step -/

/-- An event of the machine: encode gives it the reserved word. [DESIGN CHOICE: log 5] -/
def isEvent (i : Instr) : Bool := majorOf (encode false i) == 0x3E

/-- Carry out what has been chosen. -/
noncomputable def perform (ex : Instr → State → Res) (n : Next) (s : State) : Res :=
  match n with
  | .issue c => issue ex s c
  | .event e => ex e { s with engine := s.engine.erase e }
  | .command cc =>
    match cmdTurn s cc with
    | (t, some e) => ex e t
    | (t, none) => .next t
  | .drain c n => ex (.logDrain c n) s
  | .tick => .next (tick s)

/-- A lane stays in a helper mask only while its quad holds active lanes (R38): every step ends so. [DEDUCED: log 69] -/
def trimHelpers (s : State) : State :=
  { s with plies := s.plies.map (fun p => (p.1, { p.2 with strands := p.2.strands.map (fun t => (t.1, pruneHelpers t.2)) })) }

/-- What a step leaves. [DEDUCED: log 69] -/
def endStep (r : Res) : Res :=
  match r with
  | .next s => .next (trimHelpers s)
  | r => r

/-- One step of the machine: the next event from outside, else what the machine itself does next. -/
noncomputable def stepWith (ex : Instr → State → Res) (s : State) : Res :=
  match s.inputs with
  | e :: rest => if isEvent e then endStep (ex e { s with inputs := rest }) else .fault .programWordAsEvent
  | [] => let c := choose s; endStep (perform ex c.1 c.2)

end Sys2Proof.Machine
end

