-- ==== Sys2Proof/Machine/Step.lean ====
section
/-! DEFINITION. The step of the machine, and the state in which a given word is the next to issue. -/
namespace Sys2Proof.Machine

/-- One step: an event from outside, or an issue opportunity, an event of the machine, a turn of a command core, a lazy drain, a clock.
[DESIGN CHOICE: log 5] -/
noncomputable def step (s : State) : Host.Outcome State Fault Refusal := stepWith exec s

/-- The state s with a kernel of one word loaded: device 0 has a running ply with one strand of one fragment at index 0 of a code segment
at address 0, a page maps it, and nothing else is due. It stands for the set-up by a host: Create, a queue, DISPATCH and placement.
[DESIGN CHOICE: log 13] -/
def State.withFetchWord (s : State) (_nbits w : Nat) : State :=
  let page : Page := { vdev := 0, vbase := 0, k := 0, frame := 0, r := true, x := true }
  let v : VDev := { exist := true, hbmsize := 1 }
  let d : Kdesc := { nstr0 := 1, vblk0 := 8, plies := 1, tiles := 2, scratch := 1024 }
  let s := {
    s with
      inputs := []
      engine := []
      turn := 0
      vdevs := [(0, v)]
      queues := []
      reels := [(0, { desc := d, nskein := 1, left := 1 })]
      skeins := [(0, { plies := [0], spot := .bay 0 })]
      plies := []
      cores := [(0, { utlb := [page] })]
      home := Mem.write s.home 0 (bytesOfWord (BitVec.ofNat 32 w))
      plat := { s.plat with throttled := false, hot := [], stopped := false, held := false } }
  { s with plies := [(0, newPly s 0 0 0)] }

end Sys2Proof.Machine
end

