-- ==== Sys2Proof/Safety.lean ====
section
/-! DEFINITION. The terms in which claims speak of a run: what stays the same, what an instruction's result is by the spec's tables,
and the invariants that every step keeps. -/
namespace Sys2Proof.Machine

/-! ## What a step leaves unchanged -/

/-- Nothing but the issuing strand, the bad-parity marks of its ply and the ARM and FIRED bits of an injection differs. -/
def SameButStrand (s t : State) : Prop :=
  t = { s with plies := t.plies, pf0 := t.pf0 } ∧
  t.pf0 = { s.pf0 with arm := t.pf0.arm, fired := t.pf0.fired } ∧
  (∀ q, q ≠ s.iss.ply → t.ply q = s.ply q) ∧
  t.curPly = { s.curPly with strands := t.curPly.strands, bad := t.curPly.bad } ∧
  ∀ k, k ≠ s.iss.strand → t.curPly.strand k = s.curPly.strand k

/-- Every byte of every memory reads as before: the homes, HBM, the weight store, scratch and tiles. -/
def SameMemory (s t : State) : Prop :=
  (∀ a, Mem.byte t.home a = Mem.byte s.home a) ∧ (∀ a, Mem.byte t.hbm a = Mem.byte s.hbm a) ∧
  (∀ a, Mem.byte t.ws a = Mem.byte s.ws a) ∧
  (∀ q a, Mem.byte (t.ply q).scratch a = Mem.byte (s.ply q).scratch a) ∧
  ∀ q a, Mem.byte (t.ply q).tiles a = Mem.byte (s.ply q).tiles a

/-- The issuing fragment is the only one of its strand, with no path deferred and no lanes held, or its strand is at the trap level:
no join, fusion or deferred path can follow the instruction (R33 to R35). -/
def Alone (s : State) : Prop :=
  s.livePly s.iss.ply = true ∧
  (s.cur.trapped = true ∨
    (s.cur.frags = [(s.iss.frag, s.curFrag)] ∧ s.curFrag.stack = [] ∧ s.curFrag.held = [] ∧ s.curFrag.join = none ∧
      s.curFrag.parent = none))

/-- The registers that an instruction may write: scalars, vector registers and predicates by number, and %fpst. -/
structure Writes where
  scalar : Nat → Bool := fun _ => false
  vector : Nat → Bool := fun _ => false
  pred   : Nat → Bool := fun _ => false
  flags  : Bool := false

/-- Every register but those named holds what it held; translation, segment, trap and system registers and memory are as before. -/
def RegistersKept (w : Writes) (s t : State) : Prop :=
  SameButStrand s t ∧ SameMemory s t ∧
  t.cur = { s.cur with s := t.cur.s, v := t.cur.v, p := t.cur.p, fpst := t.cur.fpst, frags := t.cur.frags,
                       trapBank := t.cur.trapBank, ages := t.cur.ages } ∧
  (∀ n, 16 ≤ n → n < 192 → w.scalar n = false → sreg t n = sreg s n) ∧
  (Alone s → ∀ n, n < 16 → w.scalar n = false → sreg t n = sreg s n) ∧
  (∀ r l, l < 32 → w.vector r = false → vreg t r l = vreg s r l) ∧
  (∀ q, w.pred q = false → preg t q = preg s q) ∧
  (w.flags = false → t.cur.fpst = s.cur.fpst)

/-! ## Scalar sources and destinations (R52, R56) -/

/-- A source field that does not trap. -/
def isSource (f : BitVec 8) : Prop := f.toNat < 218

/-- A destination field that does not trap: a register, %zero or %fpst. -/
def isDest (f : BitVec 8) : Prop := f.toNat ≤ 192 ∨ f.toNat = 208

/-- The value of a source field. -/
def sourceOf (s : State) (f : BitVec 8) : W64 := if f.toNat < 192 then sreg s f.toNat else special s f.toNat

/-- The state after a write to a destination field: %zero discards, %fpst clears the flags that are 1. -/
def destOf (s : State) (f : BitVec 8) (v : W64) : State :=
  if f.toNat < 192 then setSreg s f.toNat v
  else if f.toNat = 208 then s.modCur (fun t => { t with fpst := t.fpst &&& ~~~(v.setWidth 6) })
  else s

/-! ## Scalar results (R130 to R133) -/

/-- A scalar instruction: destination, sources, whether it reads its destination, and sd as a function of a, b and the old sd. -/
structure ScalarForm where
  d : BitVec 8
  a : BitVec 8 := 192
  b : BitVec 6 := 0
  old : Bool := false
  f : W64 → W64 → W64 → W64

/-- 1 when a condition holds and 0 otherwise. -/
def oneIf (p : Prop) [Decidable p] : W64 := if p then 1 else 0

/-- The quotient and the remainder of R85 on signed and unsigned 64-bit values. -/
def quotient (a b : W64) : W64 := if b = 0 then BitVec.allOnes 64 else BitVec.ofInt 64 (Int.tdiv a.toInt b.toInt)
def quotientN (a b : W64) : W64 := if b = 0 then BitVec.allOnes 64 else BitVec.ofNat 64 (a.toNat / b.toNat)
def remainder (a b : W64) : W64 := if b = 0 then a else BitVec.ofInt 64 (Int.tmod a.toInt b.toInt)
def remainderN (a b : W64) : W64 := if b = 0 then a else BitVec.ofNat 64 (a.toNat % b.toNat)

/-- The condition of a code of R131. -/
def conditionHolds (k : Nat) (a b : W64) : Bool :=
  match k with
  | 0 => decide (a = b)
  | 1 => decide (a ≠ b)
  | 2 => decide (a.toInt < b.toInt)
  | 3 => decide (b.toInt ≤ a.toInt)
  | 4 => decide (a.toNat < b.toNat)
  | 5 => decide (b.toNat ≤ a.toNat)
  | _ => decide (a &&& b ≠ 0)

/-- The tables of R130, R131 and R132. -/
def scalarForm (i : Instr) : Option ScalarForm :=
  match i with
  | .sadd d a b => some { d := d, a := a, b := b, f := fun a b _ => a + b }
  | .ssub d a b => some { d := d, a := a, b := b, f := fun a b _ => a - b }
  | .sand d a b => some { d := d, a := a, b := b, f := fun a b _ => a &&& b }
  | .sor d a b => some { d := d, a := a, b := b, f := fun a b _ => a ||| b }
  | .sxor d a b => some { d := d, a := a, b := b, f := fun a b _ => a ^^^ b }
  | .sshl d a b => some { d := d, a := a, b := b, f := fun a b _ => a <<< (b.toNat % 64) }
  | .sshr d a b => some { d := d, a := a, b := b, f := fun a b _ => a >>> (b.toNat % 64) }
  | .ssra d a b => some { d := d, a := a, b := b, f := fun a b _ => a.sshiftRight (b.toNat % 64) }
  | .smul d a b => some { d := d, a := a, b := b, f := fun a b _ => a * b }
  | .smulh d a b => some { d := d, a := a, b := b, f := fun a b _ => BitVec.ofInt 64 (a.toInt * b.toInt / 2 ^ 64) }
  | .smulhn d a b => some { d := d, a := a, b := b, f := fun a b _ => BitVec.ofNat 64 (a.toNat * b.toNat / 2 ^ 64) }
  | .smin d a b => some { d := d, a := a, b := b, f := fun a b _ => if a.toInt ≤ b.toInt then a else b }
  | .smax d a b => some { d := d, a := a, b := b, f := fun a b _ => if a.toInt ≤ b.toInt then b else a }
  | .sminn d a b => some { d := d, a := a, b := b, f := fun a b _ => if a.toNat ≤ b.toNat then a else b }
  | .smaxn d a b => some { d := d, a := a, b := b, f := fun a b _ => if a.toNat ≤ b.toNat then b else a }
  | .ssel d a b => some { d := d, a := a, b := b, old := true, f := fun a b c => if c ≠ 0 then a else b }
  | .sdiv d a b => some { d := d, a := a, b := b, f := fun a b _ => quotient a b }
  | .sdivn d a b => some { d := d, a := a, b := b, f := fun a b _ => quotientN a b }
  | .srem d a b => some { d := d, a := a, b := b, f := fun a b _ => remainder a b }
  | .sremn d a b => some { d := d, a := a, b := b, f := fun a b _ => remainderN a b }
  | .spopc d a => some { d := d, a := a, f := fun a _ _ => BitVec.ofNat 64 ((List.range 64).countP (fun k => a.getLsbD k)) }
  | .sclz d a => some { d := d, a := a, f := fun a _ _ => BitVec.ofNat 64 ((List.range 64).findIdx (fun k => a.getLsbD (63 - k))) }
  | .sctz d a => some { d := d, a := a, f := fun a _ _ => BitVec.ofNat 64 ((List.range 64).findIdx (fun k => a.getLsbD k)) }
  | .sbrev d a => some { d := d, a := a, f := fun a _ _ => a.reverse }
  | .scmp d a b k => some { d := d, a := a, b := b, f := fun a b _ => oneIf (conditionHolds k.toNat a b = true) }
  | .saddi d a i => some { d := d, a := a, f := fun a _ _ => a + i.signExtend 64 }
  | .sandi d a i => some { d := d, a := a, f := fun a _ _ => a &&& i.signExtend 64 }
  | .sori d a i => some { d := d, a := a, f := fun a _ _ => a ||| i.signExtend 64 }
  | .sxori d a i => some { d := d, a := a, f := fun a _ _ => a ^^^ i.signExtend 64 }
  | .sshli d a n => some { d := d, a := a, f := fun a _ _ => a <<< n.toNat }
  | .sshri d a n => some { d := d, a := a, f := fun a _ _ => a >>> n.toNat }
  | .ssrai d a n => some { d := d, a := a, f := fun a _ _ => a.sshiftRight n.toNat }
  | .srori d a n => some { d := d, a := a, f := fun a _ _ => (a >>> n.toNat) ||| (a <<< (64 - n.toNat)) }
  | .scmpi d a k i =>
    some { d := d, a := a, f := fun a _ _ =>
      oneIf (conditionHolds k.toNat a (if k = 4 ∨ k = 5 then i.setWidth 64 else i.signExtend 64) = true) }
  | .sli d i => some { d := d, f := fun _ _ _ => i.signExtend 64 }
  | .shin d i => some { d := d, old := true, f := fun _ _ c => (c <<< 17) ||| i.setWidth 64 }
  | _ => none

/-- The old destination as an instruction that reads it sees it. -/
def ScalarForm.oldOf (x : ScalarForm) (s : State) : W64 := if x.old then sourceOf s x.d else 0

/-! ## Vector results (R155 to R176) -/

/-- A vector instruction: destination, guard, the source registers, the width of its elements, whether the FP64 residue check covers
it (R347), and element k of lane l of the result with the flags it raises. -/
structure VectorForm where
  d : Nat
  guard : Nat
  regs : List Nat
  width : Nat
  fp64 : Bool
  value : Nat → Nat → Nat × Flags

/-- Element functions of one, two and three registers, on numbers with flags, and on bit vectors without. -/
def numOf1 (n : Nat) (f : Nat → Nat × Flags) (s : State) (a : Nat) (l k : Nat) : Nat × Flags := f (elem n (vreg s a l) k).toNat
def numOf2 (n : Nat) (f : Nat → Nat → Nat × Flags) (s : State) (a b : Nat) (l k : Nat) : Nat × Flags :=
  f (elem n (vreg s a l) k).toNat (elem n (vreg s b l) k).toNat
def numOf3 (n : Nat) (f : Nat → Nat → Nat → Nat × Flags) (s : State) (a b d : Nat) (l k : Nat) : Nat × Flags :=
  f (elem n (vreg s a l) k).toNat (elem n (vreg s b l) k).toNat (elem n (vreg s d l) k).toNat
def bitsOf1 (n : Nat) (f : BitVec n → BitVec n) (s : State) (a : Nat) (l k : Nat) : Nat × Flags :=
  ((f (elem n (vreg s a l) k)).toNat, 0)
def bitsOf2 (n : Nat) (f : BitVec n → BitVec n → BitVec n) (s : State) (a b : Nat) (l k : Nat) : Nat × Flags :=
  ((f (elem n (vreg s a l) k) (elem n (vreg s b l) k)).toNat, 0)
/-- A whole lane value, without and with flags. -/
def laneValue (f : Nat → W64) (l _k : Nat) : Nat × Flags := ((f l).toNat, 0)
def wholeLane (f : Nat → W64 × Flags) (l _k : Nat) : Nat × Flags := ((f l).1.toNat, (f l).2)

/-- Clamping to the 32-bit type, signed or not, with sat when it clamps (R85). -/
def clamp32 (signed : Bool) (v : Int) : Nat × Flags :=
  let lo : Int := if signed then -(2 ^ 31) else 0
  let hi : Int := if signed then 2 ^ 31 - 1 else 2 ^ 32 - 1
  if v < lo then ((BitVec.ofInt 32 lo).toNat, fSAT) else if hi < v then ((BitVec.ofInt 32 hi).toNat, fSAT) else ((BitVec.ofInt 32 v).toNat, 0)
def clampOf (signed : Bool) (f : BitVec 32 → BitVec 32 → Int) (s : State) (a b : Nat) (l k : Nat) : Nat × Flags :=
  clamp32 signed (f (elem 32 (vreg s a l) k) (elem 32 (vreg s b l) k))

/-- The accumulation of R168: m products of w-bit fields onto element k of vd, clamped or wrapped. -/
def dotOf (w m : Nat) (sat bSigned aSigned : Bool) (s : State) (a b d : Nat) (l k : Nat) : Nat × Flags :=
  let field (signed : Bool) (v : W64) (j : Nat) : Int := if signed then (elem w v j).toInt else (elem w v j).toNat
  let sum := ((List.range m).map (fun j => field aSigned (vreg s a l) (m * k + j) * field bSigned (vreg s b l) (m * k + j))).sum
  let v := (elem 32 (vreg s d l) k).toInt + sum
  if sat then clamp32 true v else ((BitVec.ofInt 32 v).toNat, 0)

/-- Floating point (R157, R159), the quad differences (R172) and the FP64 forms with a scalar (R176). -/
def floatForm (s : State) (i : Instr) : Option VectorForm :=
  match i with
  | .vaddF64 d a b p => some ⟨d.toNat, p.toNat, [a.toNat, b.toNat], 64, true, numOf2 64 (fAdd fmtF64) s a.toNat b.toNat⟩
  | .vsubF64 d a b p => some ⟨d.toNat, p.toNat, [a.toNat, b.toNat], 64, true, numOf2 64 (fSub fmtF64) s a.toNat b.toNat⟩
  | .vmulF64 d a b p => some ⟨d.toNat, p.toNat, [a.toNat, b.toNat], 64, true, numOf2 64 (fMul fmtF64) s a.toNat b.toNat⟩
  | .vdivF64 d a b p => some ⟨d.toNat, p.toNat, [a.toNat, b.toNat], 64, true, numOf2 64 (fDiv fmtF64) s a.toNat b.toNat⟩
  | .vfmaF64 d a b p => some ⟨d.toNat, p.toNat, [a.toNat, b.toNat], 64, true, numOf3 64 (fFma fmtF64) s a.toNat b.toNat d.toNat⟩
  | .vfmsF64 d a b p => some ⟨d.toNat, p.toNat, [a.toNat, b.toNat], 64, true, numOf3 64 (fFms fmtF64) s a.toNat b.toNat d.toNat⟩
  | .vfnmaF64 d a b p => some ⟨d.toNat, p.toNat, [a.toNat, b.toNat], 64, true, numOf3 64 (fFnma fmtF64) s a.toNat b.toNat d.toNat⟩
  | .vminF64 d a b p => some ⟨d.toNat, p.toNat, [a.toNat, b.toNat], 64, true, numOf2 64 (fMinMax fmtF64 false) s a.toNat b.toNat⟩
  | .vmaxF64 d a b p => some ⟨d.toNat, p.toNat, [a.toNat, b.toNat], 64, true, numOf2 64 (fMinMax fmtF64 true) s a.toNat b.toNat⟩
  | .vcpsgnF64 d a b p => some ⟨d.toNat, p.toNat, [a.toNat, b.toNat], 64, true, numOf2 64 (cpsgnOp fmtF64) s a.toNat b.toNat⟩
  | .vsqrtF64 d a p => some ⟨d.toNat, p.toNat, [a.toNat], 64, true, numOf1 64 (fSqrt fmtF64) s a.toNat⟩
  | .vabsF64 d a p => some ⟨d.toNat, p.toNat, [a.toNat], 64, true, numOf1 64 (absOp fmtF64) s a.toNat⟩
  | .vnegF64 d a p => some ⟨d.toNat, p.toNat, [a.toNat], 64, true, numOf1 64 (negOp fmtF64) s a.toNat⟩
  | .vclassF64 d a p => some ⟨d.toNat, p.toNat, [a.toNat], 64, true, numOf1 64 (classOp fmtF64) s a.toNat⟩
  | .vrintF64 d a r p => some ⟨d.toNat, p.toNat, [a.toNat], 64, true, numOf1 64 (fRint fmtF64 r.toNat) s a.toNat⟩
  | .vaddF32x2 d a b p => some ⟨d.toNat, p.toNat, [a.toNat, b.toNat], 32, false, numOf2 32 (fAdd fmtF32) s a.toNat b.toNat⟩
  | .vsubF32x2 d a b p => some ⟨d.toNat, p.toNat, [a.toNat, b.toNat], 32, false, numOf2 32 (fSub fmtF32) s a.toNat b.toNat⟩
  | .vmulF32x2 d a b p => some ⟨d.toNat, p.toNat, [a.toNat, b.toNat], 32, false, numOf2 32 (fMul fmtF32) s a.toNat b.toNat⟩
  | .vdivF32x2 d a b p => some ⟨d.toNat, p.toNat, [a.toNat, b.toNat], 32, false, numOf2 32 (fDiv fmtF32) s a.toNat b.toNat⟩
  | .vfmaF32x2 d a b p => some ⟨d.toNat, p.toNat, [a.toNat, b.toNat], 32, false, numOf3 32 (fFma fmtF32) s a.toNat b.toNat d.toNat⟩
  | .vfmsF32x2 d a b p => some ⟨d.toNat, p.toNat, [a.toNat, b.toNat], 32, false, numOf3 32 (fFms fmtF32) s a.toNat b.toNat d.toNat⟩
  | .vfnmaF32x2 d a b p => some ⟨d.toNat, p.toNat, [a.toNat, b.toNat], 32, false, numOf3 32 (fFnma fmtF32) s a.toNat b.toNat d.toNat⟩
  | .vminF32x2 d a b p => some ⟨d.toNat, p.toNat, [a.toNat, b.toNat], 32, false, numOf2 32 (fMinMax fmtF32 false) s a.toNat b.toNat⟩
  | .vmaxF32x2 d a b p => some ⟨d.toNat, p.toNat, [a.toNat, b.toNat], 32, false, numOf2 32 (fMinMax fmtF32 true) s a.toNat b.toNat⟩
  | .vcpsgnF32x2 d a b p => some ⟨d.toNat, p.toNat, [a.toNat, b.toNat], 32, false, numOf2 32 (cpsgnOp fmtF32) s a.toNat b.toNat⟩
  | .vsqrtF32x2 d a p => some ⟨d.toNat, p.toNat, [a.toNat], 32, false, numOf1 32 (fSqrt fmtF32) s a.toNat⟩
  | .vabsF32x2 d a p => some ⟨d.toNat, p.toNat, [a.toNat], 32, false, numOf1 32 (absOp fmtF32) s a.toNat⟩
  | .vnegF32x2 d a p => some ⟨d.toNat, p.toNat, [a.toNat], 32, false, numOf1 32 (negOp fmtF32) s a.toNat⟩
  | .vclassF32x2 d a p => some ⟨d.toNat, p.toNat, [a.toNat], 32, false, numOf1 32 (classOp fmtF32) s a.toNat⟩
  | .vrintF32x2 d a r p => some ⟨d.toNat, p.toNat, [a.toNat], 32, false, numOf1 32 (fRint fmtF32 r.toNat) s a.toNat⟩
  | .vsubnF64 d a b p => some ⟨d.toNat, p.toNat, [a.toNat, b.toNat], 64, true, numOf2 64 fSubNarrow s a.toNat b.toNat⟩
  | .vf16Add d a b p t => some ⟨d.toNat, p.toNat, [a.toNat, b.toNat], 16, false, numOf2 16 (fAdd (fmtHalf t)) s a.toNat b.toNat⟩
  | .vf16Sub d a b p t => some ⟨d.toNat, p.toNat, [a.toNat, b.toNat], 16, false, numOf2 16 (fSub (fmtHalf t)) s a.toNat b.toNat⟩
  | .vf16Mul d a b p t => some ⟨d.toNat, p.toNat, [a.toNat, b.toNat], 16, false, numOf2 16 (fMul (fmtHalf t)) s a.toNat b.toNat⟩
  | .vf16Fma d a b p t => some ⟨d.toNat, p.toNat, [a.toNat, b.toNat], 16, false, numOf3 16 (fFma (fmtHalf t)) s a.toNat b.toNat d.toNat⟩
  | .vf16Min d a b p t => some ⟨d.toNat, p.toNat, [a.toNat, b.toNat], 16, false, numOf2 16 (fMinMax (fmtHalf t) false) s a.toNat b.toNat⟩
  | .vf16Max d a b p t => some ⟨d.toNat, p.toNat, [a.toNat, b.toNat], 16, false, numOf2 16 (fMinMax (fmtHalf t) true) s a.toNat b.toNat⟩
  | .vf16Abs d a p t => some ⟨d.toNat, p.toNat, [a.toNat], 16, false, numOf1 16 (absOp (fmtHalf t)) s a.toNat⟩
  | .vf16Neg d a p t => some ⟨d.toNat, p.toNat, [a.toNat], 16, false, numOf1 16 (negOp (fmtHalf t)) s a.toNat⟩
  | .vqdxF32x2 d a p => some ⟨d.toNat, p.toNat, [a.toNat], 32, false, (fun l k => fSub fmtF32 (elem 32 (vreg s a.toNat (4 * (l / 4) + 2 * (l % 4 / 2) + 1)) k).toNat (elem 32 (vreg s a.toNat (4 * (l / 4) + 2 * (l % 4 / 2))) k).toNat)⟩
  | .vqdxF64 d a p => some ⟨d.toNat, p.toNat, [a.toNat], 64, false, (fun l k => fSub fmtF64 (elem 64 (vreg s a.toNat (4 * (l / 4) + 2 * (l % 4 / 2) + 1)) k).toNat (elem 64 (vreg s a.toNat (4 * (l / 4) + 2 * (l % 4 / 2))) k).toNat)⟩
  | .vqdyF32x2 d a p => some ⟨d.toNat, p.toNat, [a.toNat], 32, false, (fun l k => fSub fmtF32 (elem 32 (vreg s a.toNat (4 * (l / 4) + 2 + l % 2)) k).toNat (elem 32 (vreg s a.toNat (4 * (l / 4) + l % 2)) k).toNat)⟩
  | .vqdyF64 d a p => some ⟨d.toNat, p.toNat, [a.toNat], 64, false, (fun l k => fSub fmtF64 (elem 64 (vreg s a.toNat (4 * (l / 4) + 2 + l % 2)) k).toNat (elem 64 (vreg s a.toNat (4 * (l / 4) + l % 2)) k).toNat)⟩
  | .vaddsF64 d a b p => some ⟨d.toNat, p.toNat, [a.toNat], 64, true, (fun l _ => fAdd fmtF64 (vreg s a.toNat l).toNat (sourceOf s b).toNat)⟩
  | .vmulsF64 d a b p => some ⟨d.toNat, p.toNat, [a.toNat], 64, true, (fun l _ => fMul fmtF64 (vreg s a.toNat l).toNat (sourceOf s b).toNat)⟩
  | .vfmasF64 d a b p => some ⟨d.toNat, p.toNat, [a.toNat], 64, true, (fun l _ => fFma fmtF64 (vreg s a.toNat l).toNat (sourceOf s b).toNat (vreg s d.toNat l).toNat)⟩
  | _ => none

/-- Integer arithmetic (R160). -/
def integerForm (s : State) (i : Instr) : Option VectorForm :=
  match i with
  | .vaddI32x2 d a b p => some ⟨d.toNat, p.toNat, [a.toNat, b.toNat], 32, false, bitsOf2 32 (fun x y => x + y) s a.toNat b.toNat⟩
  | .vsubI32x2 d a b p => some ⟨d.toNat, p.toNat, [a.toNat, b.toNat], 32, false, bitsOf2 32 (fun x y => x - y) s a.toNat b.toNat⟩
  | .vmulI32x2 d a b p => some ⟨d.toNat, p.toNat, [a.toNat, b.toNat], 32, false, bitsOf2 32 (fun x y => x * y) s a.toNat b.toNat⟩
  | .vmulhI32x2 d a b p => some ⟨d.toNat, p.toNat, [a.toNat, b.toNat], 32, false, bitsOf2 32 (fun x y => BitVec.ofInt 32 (x.toInt * y.toInt / 2 ^ 32)) s a.toNat b.toNat⟩
  | .vmulhnI32x2 d a b p => some ⟨d.toNat, p.toNat, [a.toNat, b.toNat], 32, false, bitsOf2 32 (fun x y => BitVec.ofNat 32 (x.toNat * y.toNat / 2 ^ 32)) s a.toNat b.toNat⟩
  | .vminI32x2 d a b p => some ⟨d.toNat, p.toNat, [a.toNat, b.toNat], 32, false, bitsOf2 32 (fun x y => if x.toInt ≤ y.toInt then x else y) s a.toNat b.toNat⟩
  | .vmaxI32x2 d a b p => some ⟨d.toNat, p.toNat, [a.toNat, b.toNat], 32, false, bitsOf2 32 (fun x y => if x.toInt ≤ y.toInt then y else x) s a.toNat b.toNat⟩
  | .vminnI32x2 d a b p => some ⟨d.toNat, p.toNat, [a.toNat, b.toNat], 32, false, bitsOf2 32 (fun x y => if x.toNat ≤ y.toNat then x else y) s a.toNat b.toNat⟩
  | .vmaxnI32x2 d a b p => some ⟨d.toNat, p.toNat, [a.toNat, b.toNat], 32, false, bitsOf2 32 (fun x y => if x.toNat ≤ y.toNat then y else x) s a.toNat b.toNat⟩
  | .vabsI32x2 d a p => some ⟨d.toNat, p.toNat, [a.toNat], 32, false, bitsOf1 32 (fun x => if x.toInt < 0 then -x else x) s a.toNat⟩
  | .vnegI32x2 d a p => some ⟨d.toNat, p.toNat, [a.toNat], 32, false, bitsOf1 32 (fun x => -x) s a.toNat⟩
  | .vaddI64 d a b p => some ⟨d.toNat, p.toNat, [a.toNat, b.toNat], 64, false, bitsOf2 64 (fun x y => x + y) s a.toNat b.toNat⟩
  | .vsubI64 d a b p => some ⟨d.toNat, p.toNat, [a.toNat, b.toNat], 64, false, bitsOf2 64 (fun x y => x - y) s a.toNat b.toNat⟩
  | .vmulI64 d a b p => some ⟨d.toNat, p.toNat, [a.toNat, b.toNat], 64, false, bitsOf2 64 (fun x y => x * y) s a.toNat b.toNat⟩
  | .vmulhI64 d a b p => some ⟨d.toNat, p.toNat, [a.toNat, b.toNat], 64, false, bitsOf2 64 (fun x y => BitVec.ofInt 64 (x.toInt * y.toInt / 2 ^ 64)) s a.toNat b.toNat⟩
  | .vmulhnI64 d a b p => some ⟨d.toNat, p.toNat, [a.toNat, b.toNat], 64, false, bitsOf2 64 (fun x y => BitVec.ofNat 64 (x.toNat * y.toNat / 2 ^ 64)) s a.toNat b.toNat⟩
  | .vminI64 d a b p => some ⟨d.toNat, p.toNat, [a.toNat, b.toNat], 64, false, bitsOf2 64 (fun x y => if x.toInt ≤ y.toInt then x else y) s a.toNat b.toNat⟩
  | .vmaxI64 d a b p => some ⟨d.toNat, p.toNat, [a.toNat, b.toNat], 64, false, bitsOf2 64 (fun x y => if x.toInt ≤ y.toInt then y else x) s a.toNat b.toNat⟩
  | .vminnI64 d a b p => some ⟨d.toNat, p.toNat, [a.toNat, b.toNat], 64, false, bitsOf2 64 (fun x y => if x.toNat ≤ y.toNat then x else y) s a.toNat b.toNat⟩
  | .vmaxnI64 d a b p => some ⟨d.toNat, p.toNat, [a.toNat, b.toNat], 64, false, bitsOf2 64 (fun x y => if x.toNat ≤ y.toNat then y else x) s a.toNat b.toNat⟩
  | .vdivI64 d a b p => some ⟨d.toNat, p.toNat, [a.toNat, b.toNat], 64, false, bitsOf2 64 (fun x y => quotient x y) s a.toNat b.toNat⟩
  | .vdivnI64 d a b p => some ⟨d.toNat, p.toNat, [a.toNat, b.toNat], 64, false, bitsOf2 64 (fun x y => quotientN x y) s a.toNat b.toNat⟩
  | .vremI64 d a b p => some ⟨d.toNat, p.toNat, [a.toNat, b.toNat], 64, false, bitsOf2 64 (fun x y => remainder x y) s a.toNat b.toNat⟩
  | .vremnI64 d a b p => some ⟨d.toNat, p.toNat, [a.toNat, b.toNat], 64, false, bitsOf2 64 (fun x y => remainderN x y) s a.toNat b.toNat⟩
  | .vabsI64 d a p => some ⟨d.toNat, p.toNat, [a.toNat], 64, false, bitsOf1 64 (fun x => if x.toInt < 0 then -x else x) s a.toNat⟩
  | .vnegI64 d a p => some ⟨d.toNat, p.toNat, [a.toNat], 64, false, bitsOf1 64 (fun x => -x) s a.toNat⟩
  | .vaddsatI32x2 d a b p => some ⟨d.toNat, p.toNat, [a.toNat, b.toNat], 32, false, clampOf true (fun x y => x.toInt + y.toInt) s a.toNat b.toNat⟩
  | .vsubsatI32x2 d a b p => some ⟨d.toNat, p.toNat, [a.toNat, b.toNat], 32, false, clampOf true (fun x y => x.toInt - y.toInt) s a.toNat b.toNat⟩
  | .vaddsatnI32x2 d a b p => some ⟨d.toNat, p.toNat, [a.toNat, b.toNat], 32, false, clampOf false (fun x y => (x.toNat : Int) + y.toNat) s a.toNat b.toNat⟩
  | .vsubsatnI32x2 d a b p => some ⟨d.toNat, p.toNat, [a.toNat, b.toNat], 32, false, clampOf false (fun x y => (x.toNat : Int) - y.toNat) s a.toNat b.toNat⟩
  | _ => none

/-- Logic, shifts and moves (R161 to R163), broadcasts (R176) and moves between lanes (R171). -/
def logicForm (s : State) (i : Instr) : Option VectorForm :=
  match i with
  | .vand d a b p => some ⟨d.toNat, p.toNat, [a.toNat, b.toNat], 64, false, bitsOf2 64 (fun x y => x &&& y) s a.toNat b.toNat⟩
  | .vor d a b p => some ⟨d.toNat, p.toNat, [a.toNat, b.toNat], 64, false, bitsOf2 64 (fun x y => x ||| y) s a.toNat b.toNat⟩
  | .vxor d a b p => some ⟨d.toNat, p.toNat, [a.toNat, b.toNat], 64, false, bitsOf2 64 (fun x y => x ^^^ y) s a.toNat b.toNat⟩
  | .vandn d a b p => some ⟨d.toNat, p.toNat, [a.toNat, b.toNat], 64, false, bitsOf2 64 (fun x y => x &&& ~~~y) s a.toNat b.toNat⟩
  | .vshl d a b p => some ⟨d.toNat, p.toNat, [a.toNat, b.toNat], 64, false, bitsOf2 64 (fun x y => x <<< (y.toNat % 64)) s a.toNat b.toNat⟩
  | .vshr d a b p => some ⟨d.toNat, p.toNat, [a.toNat, b.toNat], 64, false, bitsOf2 64 (fun x y => x >>> (y.toNat % 64)) s a.toNat b.toNat⟩
  | .vsra d a b p => some ⟨d.toNat, p.toNat, [a.toNat, b.toNat], 64, false, bitsOf2 64 (fun x y => x.sshiftRight (y.toNat % 64)) s a.toNat b.toNat⟩
  | .vrotl d a b p => some ⟨d.toNat, p.toNat, [a.toNat, b.toNat], 64, false, bitsOf2 64 (fun x y => x.rotateLeft (y.toNat % 64)) s a.toNat b.toNat⟩
  | .vbfx d a b p => some ⟨d.toNat, p.toNat, [a.toNat, b.toNat], 64, false, bitsOf2 64 (fun x y => BitVec.ofNat 64 ((x >>> (y.toNat % 64)).toNat % 2 ^ (min (y.toNat / 256 % 128) 64))) s a.toNat b.toNat⟩
  | .vpk32 d a b p => some ⟨d.toNat, p.toNat, [a.toNat, b.toNat], 64, false, bitsOf2 64 (fun x y => (y.setWidth 32 ++ x.setWidth 32 : BitVec (32 + 32))) s a.toNat b.toNat⟩
  | .vshl32x2 d a b p => some ⟨d.toNat, p.toNat, [a.toNat, b.toNat], 32, false, bitsOf2 32 (fun x y => x <<< (y.toNat % 32)) s a.toNat b.toNat⟩
  | .vshr32x2 d a b p => some ⟨d.toNat, p.toNat, [a.toNat, b.toNat], 32, false, bitsOf2 32 (fun x y => x >>> (y.toNat % 32)) s a.toNat b.toNat⟩
  | .vsra32x2 d a b p => some ⟨d.toNat, p.toNat, [a.toNat, b.toNat], 32, false, bitsOf2 32 (fun x y => x.sshiftRight (y.toNat % 32)) s a.toNat b.toNat⟩
  | .vnot d a p => some ⟨d.toNat, p.toNat, [a.toNat], 64, false, bitsOf1 64 (fun x => ~~~x) s a.toNat⟩
  | .vpopc d a p => some ⟨d.toNat, p.toNat, [a.toNat], 64, false, bitsOf1 64 (fun x => BitVec.ofNat 64 ((List.range 64).countP (fun k => x.getLsbD k))) s a.toNat⟩
  | .vclz d a p => some ⟨d.toNat, p.toNat, [a.toNat], 64, false, bitsOf1 64 (fun x => BitVec.ofNat 64 ((List.range 64).findIdx (fun k => x.getLsbD (63 - k)))) s a.toNat⟩
  | .vbrev d a p => some ⟨d.toNat, p.toNat, [a.toNat], 64, false, bitsOf1 64 (fun x => x.reverse) s a.toNat⟩
  | .vmov d a p => some ⟨d.toNat, p.toNat, [a.toNat], 64, false, bitsOf1 64 (fun x => x) s a.toNat⟩
  | .vhi32 d a p => some ⟨d.toNat, p.toNat, [a.toNat], 64, false, bitsOf1 64 (fun x => x >>> 32) s a.toNat⟩
  | .vlo32 d a p => some ⟨d.toNat, p.toNat, [a.toNat], 64, false, bitsOf1 64 (fun x => (x.setWidth 32).setWidth 64) s a.toNat⟩
  | .vsel d a b q => some ⟨d.toNat, 0, [a.toNat, b.toNat], 64, false, laneValue (fun l => if inMask (preg s q.toNat) l = true then vreg s a.toNat l else vreg s b.toNat l)⟩
  | .vid d p => some ⟨d.toNat, p.toNat, [], 64, false, laneValue (fun l => BitVec.ofNat 64 l)⟩
  | .vqid d p => some ⟨d.toNat, p.toNat, [], 64, false, laneValue (fun l => BitVec.ofNat 64 (l % 4 + l / 4 * 2 ^ 32))⟩
  | .vmovi d i => some ⟨d.toNat, 0, [], 64, false, laneValue (fun _ => i.signExtend 64)⟩
  | .vbcst d b p => some ⟨d.toNat, p.toNat, [], 64, false, laneValue (fun _ => sourceOf s b)⟩
  | .vshflIdx d a b p => some ⟨d.toNat, p.toNat, [a.toNat, b.toNat], 64, false, laneValue (fun l => vreg s a.toNat ((vreg s b.toNat l).toNat % 32))⟩
  | .vshflUp d a b p => some ⟨d.toNat, p.toNat, [a.toNat, b.toNat], 64, false, laneValue (fun l => vreg s a.toNat (if (vreg s b.toNat l).toNat % 32 ≤ l then l - (vreg s b.toNat l).toNat % 32 else l))⟩
  | .vshflDn d a b p => some ⟨d.toNat, p.toNat, [a.toNat, b.toNat], 64, false, laneValue (fun l => vreg s a.toNat (if l + (vreg s b.toNat l).toNat % 32 ≤ 31 then l + (vreg s b.toNat l).toNat % 32 else l))⟩
  | .vshflXor d a b p => some ⟨d.toNat, p.toNat, [a.toNat, b.toNat], 64, false, laneValue (fun l => vreg s a.toNat (l ^^^ ((vreg s b.toNat l).toNat % 32)))⟩
  | .vqswapH d a p => some ⟨d.toNat, p.toNat, [a.toNat], 64, false, laneValue (fun l => vreg s a.toNat (l ^^^ 1))⟩
  | .vqswapV d a p => some ⟨d.toNat, p.toNat, [a.toNat], 64, false, laneValue (fun l => vreg s a.toNat (l ^^^ 2))⟩
  | .vqswapD d a p => some ⟨d.toNat, p.toNat, [a.toNat], 64, false, laneValue (fun l => vreg s a.toNat (l ^^^ 3))⟩
  | .vqbc d a b p => some ⟨d.toNat, p.toNat, [a.toNat, b.toNat], 64, false, laneValue (fun l => vreg s a.toNat (4 * (l / 4) + (vreg s b.toNat l).toNat % 4))⟩
  | _ => none

/-- Conversions (R166), dot products (R168) and special functions (R169). -/
def convertForm (s : State) (i : Instr) : Option VectorForm :=
  match i with
  | .vcvt d a x p st r => some ⟨d.toNat, p.toNat, [a.toNat], 64, false, wholeLane (fun l => cvtLane x.toNat r.toNat (st == 1) (vreg s a.toNat l) (vreg s d.toNat l))⟩
  | .vdot4I8 d a b p st u v => some ⟨d.toNat, p.toNat, [a.toNat, b.toNat], 32, false, dotOf 8 4 (st == 1) (u == 1) (v == 1) s a.toNat b.toNat d.toNat⟩
  | .vdot8I4 d a b p st u v => some ⟨d.toNat, p.toNat, [a.toNat, b.toNat], 32, false, dotOf 4 8 (st == 1) (u == 1) (v == 1) s a.toNat b.toNat d.toNat⟩
  | .vrcpF32x2 d a p => some ⟨d.toNat, p.toNat, [a.toNat], 32, false, numOf1 32 (sfuElem 0 fmtF32) s a.toNat⟩
  | .vrsqF32x2 d a p => some ⟨d.toNat, p.toNat, [a.toNat], 32, false, numOf1 32 (sfuElem 1 fmtF32) s a.toNat⟩
  | .vexp2F32x2 d a p => some ⟨d.toNat, p.toNat, [a.toNat], 32, false, numOf1 32 (sfuElem 2 fmtF32) s a.toNat⟩
  | .vlog2F32x2 d a p => some ⟨d.toNat, p.toNat, [a.toNat], 32, false, numOf1 32 (sfuElem 3 fmtF32) s a.toNat⟩
  | .vsinF32x2 d a p => some ⟨d.toNat, p.toNat, [a.toNat], 32, false, numOf1 32 (sfuElem 4 fmtF32) s a.toNat⟩
  | .vcosF32x2 d a p => some ⟨d.toNat, p.toNat, [a.toNat], 32, false, numOf1 32 (sfuElem 5 fmtF32) s a.toNat⟩
  | .vtanhF32x2 d a p => some ⟨d.toNat, p.toNat, [a.toNat], 32, false, numOf1 32 (sfuElem 6 fmtF32) s a.toNat⟩
  | .vrcpF64a d a p => some ⟨d.toNat, p.toNat, [a.toNat], 64, false, numOf1 64 (sfuElem 7 fmtF64) s a.toNat⟩
  | .vrsqF64a d a p => some ⟨d.toNat, p.toNat, [a.toNat], 64, false, numOf1 64 (sfuElem 8 fmtF64) s a.toNat⟩
  | _ => none

/-- Every vector form that works lane by lane. -/
def vectorForm (s : State) (i : Instr) : Option VectorForm :=
  (floatForm s i).or ((integerForm s i).or ((logicForm s i).or (convertForm s i)))

/-- A rounding code that names no mode of R81, which traps. -/
def badRounding (i : Instr) : Bool :=
  match i with
  | .vrintF64 _ _ r _ => decide (5 ≤ r.toNat)
  | .vrintF32x2 _ _ r _ => decide (5 ≤ r.toNat)
  | .vcvt _ _ _ _ _ r => decide (5 ≤ r.toNat)
  | .scvtf _ _ r => decide (5 ≤ r.toNat)
  | .scvti _ _ r => decide (5 ≤ r.toNat)
  | _ => false

/-- The scalar source of a vector form, if it has one. -/
def scalarSource (i : Instr) : Option (BitVec 8) :=
  match i with
  | .vaddsF64 _ _ b _ => some b
  | .vmulsF64 _ _ b _ => some b
  | .vfmasF64 _ _ b _ => some b
  | .vbcst _ b _ => some b
  | _ => none

/-- The operands are readable and the residue check of the core is not armed to fail: the instruction executes normally. -/
def VectorForm.ready (x : VectorForm) (s : State) (i : Instr) : Prop :=
  i.wellFormed = true ∧ badRounding i = false ∧ (∀ b, scalarSource i = some b → isSource b) ∧
  (∀ r, r ∈ x.d :: x.regs → r < 8 * s.cur.blocks) ∧ (x.fp64 = true → (s.core s.curCore).resFp = false)

/-- The destination holds the form's elements in every enabled lane, every other lane of every register is as before, and the flags of
the active lanes are raised, of the helper lanes not (R30, R37, R56). -/
def VectorForm.done (x : VectorForm) (s t : State) : Prop :=
  (∀ l, l < 32 → inMask (enabledLanes s x.guard) l = true →
    ∀ k, k < 64 / x.width → elem x.width (vreg t x.d l) k = BitVec.ofNat x.width (x.value l k).1) ∧
  (∀ r l, l < 32 → (r ≠ x.d ∨ inMask (enabledLanes s x.guard) l = false) → vreg t r l = vreg s r l) ∧
  ∀ b, b < 6 → (t.cur.fpst.getLsbD b = true ↔
    (s.cur.fpst.getLsbD b = true ∨
      ∃ l k, l < 32 ∧ inMask (activeLanes s x.guard) l = true ∧ k < 64 / x.width ∧ (x.value l k).2.getLsbD b = true))

/-! ## Next: scalars with flags, reductions, votes, single lanes and predicates (R133, R164, R173 to R178) -/

/-- A scalar floating-point instruction: destination, sources, and the result of the operand patterns with its flags. -/
structure ScalarFloatForm where
  d : BitVec 8
  a : BitVec 8
  b : BitVec 6 := 0
  f : Nat → Nat → Nat × Flags

/-- The table of R133. -/
def scalarFloatForm (i : Instr) : Option ScalarFloatForm :=
  match i with
  | .sfadd d a b => some { d := d, a := a, b := b, f := fAdd fmtF64 }
  | .sfsub d a b => some { d := d, a := a, b := b, f := fSub fmtF64 }
  | .sfmul d a b => some { d := d, a := a, b := b, f := fMul fmtF64 }
  | .sfdiv d a b => some { d := d, a := a, b := b, f := fDiv fmtF64 }
  | .sfmin d a b => some { d := d, a := a, b := b, f := fMinMax fmtF64 false }
  | .sfmax d a b => some { d := d, a := a, b := b, f := fMinMax fmtF64 true }
  | .scvtf d a r => some { d := d, a := a, f := fun x _ => cvtIF fmtF64 r.toNat false (BitVec.ofNat 64 x).toInt }
  | .scvti d a r => some { d := d, a := a, f := fun x _ => cvtFI fmtF64 true 64 r.toNat false x }
  | _ => none

/-- Values combined one after another, the first as it is; none gives the identity. -/
def combined (ident : W64) (f : W64 → W64 → W64 × Flags) : List W64 → W64 × Flags
  | [] => (ident, 0)
  | v :: vs => vs.foldl (fun r x => ((f r.1 x).1, r.2 ||| (f r.1 x).2)) (v, 0)

/-- A combination without flags, and one by an f64 operation. -/
def quietly (f : W64 → W64 → W64) (x y : W64) : W64 × Flags := (f x y, 0)
def byF64 (f : Nat → Nat → Nat × Flags) (x y : W64) : W64 × Flags := (BitVec.ofNat 64 (f x.toNat y.toNat).1, (f x.toNat y.toNat).2)

/-- A reduction: scalar destination, vector source, guard, whether the FP64 residue check covers it, identity and combination. -/
structure ReduceForm where
  d : BitVec 8
  a : Nat
  guard : Nat
  fp64 : Bool := false
  ident : W64
  f : W64 → W64 → W64 × Flags

/-- The table of R174. -/
def reduceForm (i : Instr) : Option ReduceForm :=
  match i with
  | .vredAddI64 d a p => some { d := d, a := a.toNat, guard := p.toNat, ident := 0, f := quietly (fun x y => x + y) }
  | .vredAddF64 d a p => some { d := d, a := a.toNat, guard := p.toNat, fp64 := true, ident := 0, f := byF64 (fAdd fmtF64) }
  | .vredMinI64 d a p =>
    some { d := d, a := a.toNat, guard := p.toNat, ident := BitVec.ofNat 64 (2 ^ 63 - 1), f := quietly (fun x y => if x.toInt ≤ y.toInt then x else y) }
  | .vredMaxI64 d a p =>
    some { d := d, a := a.toNat, guard := p.toNat, ident := BitVec.ofInt 64 (-(2 ^ 63)), f := quietly (fun x y => if x.toInt ≤ y.toInt then y else x) }
  | .vredMinnN64 d a p =>
    some { d := d, a := a.toNat, guard := p.toNat, ident := BitVec.allOnes 64, f := quietly (fun x y => if x.toNat ≤ y.toNat then x else y) }
  | .vredMaxnN64 d a p => some { d := d, a := a.toNat, guard := p.toNat, ident := 0, f := quietly (fun x y => if x.toNat ≤ y.toNat then y else x) }
  | .vredMinF64 d a p =>
    some { d := d, a := a.toNat, guard := p.toNat, fp64 := true, ident := BitVec.ofNat 64 (fmtF64.infBits false), f := byF64 (fMinMax fmtF64 false) }
  | .vredMaxF64 d a p =>
    some { d := d, a := a.toNat, guard := p.toNat, fp64 := true, ident := BitVec.ofNat 64 (fmtF64.infBits true), f := byF64 (fMinMax fmtF64 true) }
  | .vredAnd d a p => some { d := d, a := a.toNat, guard := p.toNat, ident := BitVec.allOnes 64, f := quietly (fun x y => x &&& y) }
  | .vredOr d a p => some { d := d, a := a.toNat, guard := p.toNat, ident := 0, f := quietly (fun x y => x ||| y) }
  | .vredXor d a p => some { d := d, a := a.toNat, guard := p.toNat, ident := 0, f := quietly (fun x y => x ^^^ y) }
  | _ => none

/-- The values of a register in the lanes of a mask that a test picks, in ascending order. -/
def laneValues (s : State) (a : Nat) (m : W32) (pick : Nat → Bool) : List W64 :=
  ((List.range 32).filter (fun l => inMask m l && pick l)).map (vreg s a)

/-- The votes of R175 and VGET (R177): scalar destination and value. -/
def voteForm (s : State) (i : Instr) : Option (BitVec 8 × W64) :=
  let m := s.curFrag.mask
  match i with
  | .vballot d q => some (d, (preg s q.toNat &&& m).setWidth 64)
  | .vany d q => some (d, oneIf (preg s q.toNat &&& m ≠ 0))
  | .vall d q => some (d, oneIf (preg s q.toNat &&& m = m))
  | .vfirst d q => some (d, BitVec.ofNat 64 ((List.range 32).findIdx (fun l => (preg s q.toNat &&& m).getLsbD l)))
  | .vget v d l => some (d, vreg s v.toNat l.toNat)
  | _ => none

/-- The vector registers that a vote or VGET names. -/
def voteRegs (i : Instr) : List Nat :=
  match i with
  | .vget v _ _ => [v.toNat]
  | _ => []

/-- Predicate logic (R178): destination and value. -/
def predForm (s : State) (i : Instr) : Option (Nat × W32) :=
  match i with
  | .pand d a b => some (d.toNat, preg s a.toNat &&& preg s b.toNat)
  | .por d a b => some (d.toNat, preg s a.toNat ||| preg s b.toNat)
  | .pxor d a b => some (d.toNat, preg s a.toNat ^^^ preg s b.toNat)
  | .pandn d a b => some (d.toNat, preg s a.toNat &&& ~~~(preg s b.toNat))
  | .pnot d a => some (d.toNat, ~~~(preg s a.toNat))
  | .pmov d a => some (d.toNat, preg s a.toNat)
  | .pfroms d a => some (d.toNat, (sourceOf s a).setWidth 32)
  | _ => none

/-- The scalar that PFROMS reads. -/
def predSource (i : Instr) : Option (BitVec 8) :=
  match i with
  | .pfroms _ a => some a
  | _ => none

/-! ## Compares (R164, R165) -/

/-- A condition of R165 on two floating-point numbers: ordered or not, by order and equality. -/
def floatCondition (k : Nat) (x y : Num) : Bool :=
  let un := x.isNan || y.isNan
  match k with
  | 0 => !un && eqNum x y
  | 1 => un || !(eqNum x y)
  | 2 => !un && lessNum x y
  | 3 => !un && (lessNum x y || eqNum x y)
  | 4 => !un && lessNum y x
  | 5 => !un && (lessNum y x || eqNum x y)
  | 6 => !un
  | 7 => un
  | 8 => un || eqNum x y
  | 9 => un || lessNum x y
  | 10 => un || lessNum x y || eqNum x y
  | 11 => un || lessNum y x
  | 12 => un || lessNum y x || eqNum x y
  | 13 => !un && !(eqNum x y)
  | 14 => !un && lessNum x y
  | _ => !un && (lessNum x y || eqNum x y)

/-- The condition codes that raise nv for any NaN; the others raise it for a signalling one (R165). -/
def signalsNan (k : Nat) : Bool := decide (2 ≤ k) && decide (k ≤ 5)

/-- The elements of a compare type and, of a floating one, their format (R164). -/
def compareType (y : Nat) : Nat × Option Fmt :=
  match y with
  | 0 => (1, none)
  | 1 => (1, none)
  | 2 => (1, some fmtF64)
  | 3 => (2, some fmtF32)
  | 4 => (2, none)
  | 5 => (2, none)
  | 6 => (4, some fmtBF16)
  | _ => (4, some fmtF16)

/-- Element i of two lanes keeps condition k of compare type y (R164, R165). -/
def elementsCompare (y k i : Nat) (a b : W64) : Bool :=
  let n := 64 / (compareType y).1
  match (compareType y).2 with
  | some f => floatCondition k (f.unpack (elem n a i).toNat) (f.unpack (elem n b i).toNat)
  | none =>
    match k with
    | 0 => decide (elem n a i = elem n b i)
    | 1 => decide (elem n a i ≠ elem n b i)
    | 2 => if y = 0 ∨ y = 4 then decide ((elem n a i).toInt < (elem n b i).toInt) else decide ((elem n a i).toNat < (elem n b i).toNat)
    | 3 => if y = 0 ∨ y = 4 then decide ((elem n a i).toInt ≤ (elem n b i).toInt) else decide ((elem n a i).toNat ≤ (elem n b i).toNat)
    | 4 => if y = 0 ∨ y = 4 then decide ((elem n b i).toInt < (elem n a i).toInt) else decide ((elem n b i).toNat < (elem n a i).toNat)
    | _ => if y = 0 ∨ y = 4 then decide ((elem n b i).toInt ≤ (elem n a i).toInt) else decide ((elem n b i).toNat ≤ (elem n a i).toNat)

/-- Element i of two lanes raises nv under condition k of compare type y (R165). -/
def compareRaises (y k i : Nat) (a b : W64) : Bool :=
  let n := 64 / (compareType y).1
  match (compareType y).2 with
  | some f =>
    let x := f.unpack (elem n a i).toNat
    let z := f.unpack (elem n b i).toNat
    if signalsNan k then x.isNan || z.isNan else x == .nan true || z == .nan true
  | none => false

/-! ## Control (R32, R36, R113, R140 to R146) -/

/-- The fragment goes on at an index; a transfer of control has its target checked before it issues (R113). What the rules of joins
and deferred paths (R33 to R35) then do is settle's. -/
def goesOnAt (s : State) (w : W32) (transfer : Bool) : State :=
  settle (s.modCurFrag (fun f =>
    { f with pc := w, jumped := transfer || f.jumped, unfinished := none, replies := [], fence := none, begun := false, repPos := 0, under := false }))

/-- The word index of the instruction plus an offset. -/
def indexPlus (s : State) (d : Int) : W32 := BitVec.ofInt 32 ((s.iss.w.toNat : Int) + d)

/-- A branch: the state with its register writes, whether it is taken, and the offset of its target. -/
structure BranchForm where
  pre : State
  taken : Bool
  d : Int

/-- The condition of a code of R140. -/
def branchHolds (k : Nat) (a : W64) : Bool :=
  match k with
  | 0 => decide (a = 0)
  | 1 => decide (a ≠ 0)
  | 2 => decide (a.toInt < 0)
  | 3 => decide (0 ≤ a.toInt)
  | 4 => decide (a.toInt ≤ 0)
  | 5 => decide (0 < a.toInt)
  | _ => true

/-- The tables of R140 to R143, the modes that make no fragment. -/
def branchForm (s : State) (i : Instr) : Option BranchForm :=
  let m := s.curFrag.mask
  match i with
  | .bCnd _ k a o => some ⟨s, branchHolds k.toNat (sourceOf s a), o.toInt⟩
  | .j _ o => some ⟨s, true, o.toInt⟩
  | .call _ o => some ⟨setSreg s 191 ((s.iss.w + 1).setWidth 64), true, o.toInt⟩
  | .jr a => some ⟨s, true, (sourceOf s a).toNat - (s.iss.w.toNat : Int)⟩
  | .loop _ a o => some ⟨setSreg s a.toNat (sreg s a.toNat - 1), decide (sreg s a.toNat ≠ 1), o.toInt⟩
  | .brvAll _ q o => some ⟨s, decide (m &&& preg s q.toNat = m), o.toInt⟩
  | .brvNone _ q o => some ⟨s, decide (m &&& preg s q.toNat = 0), o.toInt⟩
  | .brvUni _ q o => some ⟨s, (preg s q.toNat).getLsbD (lowestLane m), o.toInt⟩
  | _ => none

/-- The operand of a branch is one that R52, R141 and R142 allow; B.ALW tests nothing. -/
def branchOperandOk (s : State) (i : Instr) : Prop :=
  match i with
  | .bCnd _ k a _ => k = 6 ∨ isSource a
  | .jr a => isSource a ∧ (sourceOf s a).toNat < 2 ^ 32
  | .loop _ a _ => a.toNat < 192
  | _ => True

/-- The scalar that a branch writes. -/
def branchWrites (i : Instr) (n : Nat) : Bool :=
  match i with
  | .call _ _ => n == 191
  | .loop _ a _ => n == a.toNat
  | _ => false

/-- The taken and the rest sets of SPLIT and QSPLIT with their helper lanes (R36, R143): each lane of a path's helper mask lies in a quad
with an active lane of the path, and is a helper lane of F or, for QSPLIT, an active lane of the other side. -/
def splitSets (s : State) (q : W32) (quad : Bool) : (W32 × W32) × (W32 × W32) :=
  let f := s.curFrag
  let t := f.mask &&& q
  let r := f.mask &&& ~~~q
  ((t, (f.helper ||| (if quad then r else 0)) &&& quadsOf t), (r, (f.helper ||| (if quad then t else 0)) &&& quadsOf r))

/-- The two splitting modes: predicate, offset, by quads or not. -/
def splitForm (i : Instr) : Option (BitVec 3 × Int × Bool) :=
  match i with
  | .brvSplit _ q o => some (q, o.toInt, false)
  | .brvQsplit _ q o => some (q, o.toInt, true)
  | _ => none

/-- The fields of a repeated word that a REP steps, as lowest bit and width: destination, first and second source by the bits of se3 (R120). -/
def steppedFields (v : W32) (e : BitVec 3) : List (Nat × Nat) :=
  let major := v.toNat / 2 ^ 25 % 64
  let all := if major = 0x27 then [(22, 3), (16, 6), (10, 6)] else if major = 0x31 ∨ major = 0x32 then [(19, 6), (5, 6)] else [(19, 6), (13, 6), (7, 6)]
  ((all.zip [2, 1, 0]).filter (fun x => e.getLsbD x.2)).map (fun x => x.1)

/-- The step of a REP by its code (R145). -/
def repStep (k : BitVec 2) : Int := if k = 0 then 1 else if k = 1 then 2 else if k = 2 then 4 else -1

/-- A word that differs from another in these fields alone, each of which is d more in it (R120). -/
def SteppedBy (v u : W32) (fields : List (Nat × Nat)) (d : Int) : Prop :=
  (∀ x ∈ fields, ((bits u x.1 x.2 : Nat) : Int) = (bits v x.1 x.2 : Nat) + d) ∧
  ∀ j, j < 32 → (∀ x ∈ fields, j < x.1 ∨ x.1 + x.2 ≤ j) → u.getLsbD j = v.getLsbD j

/-- Fragment a of a strand stands at an index with these lanes, of these helper lanes those that R38 leaves it, and this bank. -/
def Joined (t : Strand) (a : Nat) (pc mask helper : W32) (bank : Tab W64) : Prop :=
  (t.fragAt a).pc = pc ∧ (t.fragAt a).mask = mask ∧ (t.fragAt a).helper = helper &&& quadsOf mask &&& ~~~mask ∧ (t.fragAt a).bank = bank

/-! ## Memory (R60, R65, R134 to R137, R181 to R193, R236, R373) -/

/-- Every sector that is not dirty reads at its home as in HBM (R10). [DEDUCED: log 4] -/
def HomesAgree (s : State) : Prop :=
  ∀ a, (Tab.get {} s.l2 (a / 128)).dirty = false → Mem.byte s.home a = Mem.byte s.hbm a

/-- What a read leaves of a state in which no RED is under way, poison is not accepted, and the core has no log entry in error and no pinned L1 sector: every register of every ply, scratch, tiles,
the weight store and every byte of device memory; caches, translation caches and detected errors may differ. -/
def ReadKept (s u : State) : Prop :=
  s.reds = [] → curAccepts s = false → (∀ e ∈ (s.core s.curCore).log, e.bad = false) → (∀ l ∈ (s.core s.curCore).l1, l.2.pins = []) →
    (∀ q, u.ply q = { s.ply q with scrPoison := (u.ply q).scrPoison }) ∧
    u.iss = s.iss ∧ u.ws = s.ws ∧ u.skeins = s.skeins ∧ u.reels = s.reels ∧ u.jobs = s.jobs ∧ u.xfers = s.xfers ∧ u.queues = s.queues ∧
    u.vdevs = s.vdevs ∧ u.clock = s.clock ∧ (HomesAgree s → ∀ a, Mem.byte u.home a = Mem.byte s.home a)

/-- Of strands and fragments nothing but reservations (R138) and kept answers to reads of the outside differs: an entry that leaves for the host or a
peer drops those of its sector (R182). -/
def ReservationsOnly (s u : State) : Prop :=
  ∀ q k, (u.ply q).strand k = { (s.ply q).strand k with frags := ((u.ply q).strand k).frags } ∧
    ∀ f, u.fragOf q k f = { s.fragOf q k f with resv := (u.fragOf q k f).resv, replies := (u.fragOf q k f).replies }

/-- Transfers stay as they are but for the answers that they keep. -/
def TransfersKept (s u : State) : Prop := u.xfers.map (fun x => { x with replies := [] }) = s.xfers.map (fun x => { x with replies := [] })

/-- What a store leaves whatever it stores to: every register, tiles, the weight store and the work under way; a RED that a drain brings on may be
dropped at a poisoned sector and end a reel (R366). -/
def StoreKept (s u : State) : Prop :=
  ReservationsOnly s u ∧ (∀ q, (u.ply q).tiles = (s.ply q).tiles) ∧ u.iss = s.iss ∧ u.ws = s.ws ∧ u.skeins = s.skeins ∧
  (s.reds = [] → u.reels = s.reels) ∧ u.jobs = s.jobs ∧ TransfersKept s u ∧ u.queues = s.queues ∧ u.clock = s.clock

/-- The byte of device memory that a ply of a core sees: its core's log entries over the home (R236). -/
def byteSeen (s : State) (c p a : Nat) : Byte :=
  let r := byteFromLog (visibleEntries s c p .dev (a / 128)) (a % 128)
  r.1 ||| (Mem.byte s.home a &&& ~~~r.2.1)

/-- The entries of every core's log have numbers of their own, given out before. [DEDUCED: log 4] -/
def LogNumbered (s : State) : Prop :=
  ∀ c, ((s.core c).log.map (fun e => e.serial)).Nodup ∧ ∀ e ∈ (s.core c).log, e.serial < s.fresh

/-- A core's log has room for n more entries. -/
def LogRoom (s : State) (c n : Nat) : Prop := LogNumbered s ∧ logCount (s.core c) + n ≤ Config.logEntries

/-- Byte j of a value. -/
def byteOf (v : W64) (j : Nat) : Byte := (v >>> (8 * j)).setWidth 8

/-- A base field that does not trap: a source, or a bound translation register (R60). -/
def baseOk (s : State) (f : BitVec 8) : Prop :=
  isSource f ∨ (224 ≤ f.toNat ∧ f.toNat < 240 ∧ Tab.has s.cur.x (f.toNat - 224) = true)
/-- The base that it names. -/
def baseOf (s : State) (f : BitVec 8) : W64 :=
  if 224 ≤ f.toNat ∧ f.toNat < 240 then (Tab.get {} s.cur.x (f.toNat - 224)).base else sourceOf s f
/-- The translation register that it names. -/
def boundOf (s : State) (f : BitVec 8) : Option XReg :=
  if 224 ≤ f.toNat ∧ f.toNat < 240 then Tab.find (f.toNat - 224) s.cur.x else none

/-- n bytes at offset A of the issuing ply's own scratch, named by a tag-1 base and an offset, with the permission bit k of g1, poison-free
and with no bit error (R26, R63, R65). -/
def inOwnScratch (s : State) (base : W64) (off : Int) (n A k : Nat) : Prop :=
  s.livePly s.iss.ply = true ∧ s.flips = [] ∧ bits base 60 4 = 1 ∧ bits base 57 3 = 0 ∧ (bits base 0 57 : Int) + off = (A : Int) ∧
  A % n = 0 ∧ A + n ≤ s.curPly.scrSize ∧ A < 2 ^ 20 ∧ bit (Tab.get {} s.cur.g 1).ctl (57 + k) = true ∧ Tab.has s.curPly.scrPoison (A / 128) = false

/-- A scalar memory instruction: data field, base field, offset in bytes, size, load or store. -/
structure ScalarAccess where
  d : BitVec 8
  a : BitVec 8
  off : Int
  n : Nat
  load : Bool

/-- R134: offsets count elements. -/
def scalarAccess (i : Instr) : Option ScalarAccess :=
  match i with
  | .sldD d a o => some ⟨d, a, 8 * o.toInt, 8, true⟩
  | .sldW d a o => some ⟨d, a, 4 * o.toInt, 4, true⟩
  | .sstD d a o => some ⟨d, a, 8 * o.toInt, 8, false⟩
  | .sstW d a o => some ⟨d, a, 4 * o.toInt, 4, false⟩
  | _ => none

/-- The checks that a scalar access makes: the permission of its direction, its own alignment, every space but local. -/
def ScalarAccess.acc (x : ScalarAccess) : Acc := ⟨[if x.load then 0 else 1], !x.load, x.n, x.n, [0, 1, 2, 3, 4, 5]⟩

/-- A load of lanes: size code, destination, lanes, base, offsets, and what follows it. -/
structure LaneLoad where
  size : Nat
  d : Nat
  m : W32
  base : W64
  bound : Option XReg
  ls : List LaneOff
  after : State → State

/-- LD, LD.ACQ and LDB with a sound buffer record (R184 to R186); helper lanes load beside active ones only (R180). -/
def laneLoad (s : State) (i : Instr) : Option LaneLoad :=
  match i with
  | .ld d a o z p =>
    let m := toPerform s (loadLanesOf s p.toNat)
    some ⟨z.toNat, d.toNat, m, baseOf s a, boundOf s a, byteOffsets s m o.toNat, fun t => t⟩
  | .ldAcq d a o sc z =>
    let m := toPerform s (loadLanesOf s 0)
    some ⟨ordSize z.toNat true, d.toNat, m, baseOf s a, boundOf s a, byteOffsets s m o.toNat, fun t => acquire t t.curCore sc.toNat 0⟩
  | .ldb d q o z b p =>
    match readBuf s q.toNat b.toNat with
    | .ok r =>
      let m := toPerform s (loadLanesOf s p.toNat)
      some ⟨z.toNat, d.toNat, m, r.base, none, bufOffsets s r m o.toNat (sizeBytes z.toNat), fun t => t⟩
    | .error _ => none
  | _ => none

/-- A store of lanes: size code, source register, base, offsets, and the nibble offset of a lane. -/
structure LaneStore where
  size : Nat
  d : Nat
  base : W64
  bound : Option XReg
  ls : List LaneOff
  nib : Nat → Int

/-- ST and STB with a sound buffer record; STB has no nibble form (R184, R186). -/
def laneStore (s : State) (i : Instr) : Option LaneStore :=
  match i with
  | .st d a o z p =>
    let m := toPerform s (activeLanes s p.toNat)
    some ⟨z.toNat, d.toNat, baseOf s a, boundOf s a, if z = 5 then nibbleOffsets s m o.toNat else byteOffsets s m o.toNat,
      fun l => (vreg s o.toNat l).toInt⟩
  | .stb d q o z b p =>
    match readBuf s q.toNat b.toNat with
    | .ok r =>
      let m := toPerform s (activeLanes s p.toNat)
      if z = 5 then none else some ⟨z.toNat, d.toNat, r.base, none, bufOffsets s r m o.toNat (sizeBytes z.toNat), fun _ => 0⟩
    | .error _ => none
  | _ => none

/-- The registers of a vector access: offsets, and the data register or pair. -/
def laneRegs (i : Instr) : List Nat :=
  let pair (z d : Nat) : List Nat := if z = 4 then [d, d + 1] else [d]
  match i with
  | .ld d _ o z _ => o.toNat :: pair z.toNat d.toNat
  | .st d _ o z _ => o.toNat :: pair z.toNat d.toNat
  | .ldb d _ o z _ _ => o.toNat :: pair z.toNat d.toNat
  | .stb d _ o z _ _ => o.toNat :: pair z.toNat d.toNat
  | .ldAcq d _ o _ z => o.toNat :: pair (ordSize z.toNat true) d.toNat
  | .stRel d _ o _ z => o.toNat :: pair (ordSize z.toNat false) d.toNat
  | _ => []

/-- The base field of a vector access. -/
def laneBase (i : Instr) : Option (BitVec 8) :=
  match i with
  | .ld _ a _ _ _ => some a
  | .st _ a _ _ _ => some a
  | .ldAcq _ a _ _ _ => some a
  | .stRel _ a _ _ _ => some a
  | _ => none

/-- The operands of a vector access do not trap: a readable base, registers in v0 to v63 and in the allotment; an acquire that follows can take
effect at once (R244). -/
def laneOperandsOk (s : State) (i : Instr) : Prop :=
  (∀ a, laneBase i = some a → baseOk s a) ∧ (∀ r, r ∈ laneRegs i → r < 64 ∧ r < 8 * s.cur.blocks) ∧
  ∀ d a o sc z, i = .ldAcq d a o sc z → canReplay s s.curCore sc.toNat 0 = true

/-- The new value of an atomic operation from the old one, the lane's data and the value of the next register, each of the operation's
width (R188, R103 to R105): the words and doublewords of the integer operations alternate. -/
def atomicResult (op m v new : Nat) : Nat :=
  let n := 8 * amoBytes op
  let sInt (x : Nat) : Int := (BitVec.ofNat n x).toInt
  if op < 2 then (m + v) % 2 ^ n
  else if op < 4 then (if sInt m ≤ sInt v then m else v)
  else if op < 6 then (if sInt m ≤ sInt v then v else m)
  else if op < 8 then (if m ≤ v then m else v)
  else if op < 10 then (if m ≤ v then v else m)
  else if op < 12 then (BitVec.ofNat n m &&& BitVec.ofNat n v).toNat
  else if op < 14 then (BitVec.ofNat n m ||| BitVec.ofNat n v).toNat
  else if op < 16 then (BitVec.ofNat n m ^^^ BitVec.ofNat n v).toNat
  else if op < 18 then v
  else if op < 20 then (if m = v then new else m)
  else if op = 20 then (fAdd fmtF32 m v).1
  else if op = 21 then (fAdd fmtF64 m v).1
  else if op = 22 then (fAdd fmtBF16 (m % 2 ^ 16) (v % 2 ^ 16)).1 + 2 ^ 16 * (fAdd fmtBF16 (m / 2 ^ 16) (v / 2 ^ 16)).1
  else if op = 23 then (fMinMax fmtF64 false m v).1
  else if op = 24 then (fMinMax fmtF64 true m v).1
  else if op = 25 then (if v ≤ m then 0 else m + 1)
  else (if m = 0 ∨ v < m then v else m - 1)

/-- The issuing fragment waits for a query of the bay's unit that stands behind those already there, with these operands (R222). -/
def QueryHanded (s u : State) (fn d a : Nat) (ptr : W64) (m : W32) (desc : Bytes) : Prop :=
  ∃ q : Query, (u.bay (coreBay s.curCore)).queries = (s.bay (coreBay s.curCore)).queries ++ [q] ∧ q.ply = s.iss.ply ∧ q.strand = s.iss.strand ∧
    q.frag = s.iss.frag ∧ q.fn = fn ∧ q.vd = d ∧ q.va = a ∧ q.ptr = ptr ∧ q.lanes = m ∧ q.desc = desc ∧ u.curFrag.wait = .query q.id ∧
    .intersectionResult q.id ∈ u.engine ∧ SameMemory s u

/-- The registers of a hit and of a miss with n nodes visited (R224). -/
def hitRegisters (h : Hit) (n : Nat) : List W64 :=
  [BitVec.ofNat 64 (h.prim * 2 ^ 32 + h.t.toNat), BitVec.ofNat 64 (h.v.toNat * 2 ^ 32 + h.u.toNat),
   BitVec.ofNat 64 ((if h.front then 1 else 0) * 2 ^ 63 + h.user * 2 ^ 32 + h.inst), BitVec.ofNat 64 (n * 2 ^ 32 + 1)]
def missRegisters (n : Nat) : List W64 := [0xFFFFFFFF7F800000, 0, 0xFFFFFFFF, BitVec.ofNat 64 (n * 2 ^ 32)]

/-- The offset and the bytes of the record that a reference names (R308). -/
def recordAt (x : Todo) : Nat × Nat := (64 * (x.ref % 2 ^ 30), if x.ref / 2 ^ 30 = 2 then 64 else 128)

/-- References that a visit to x leads to, with the record of each reference as rec gives it: the children of a node that the ray enters, or the root of
an instance that the mask lets through, with the ray in its frame (R225, R308 to R310). -/
def visitsNext (rec : Todo → Bytes) (ctl : W64) (x y : Todo) : Prop :=
  (x.ref / 2 ^ 30 = 1 ∧ ∃ c ∈ entered x.ray (rec x), y = { x with ref := c.2 }) ∨
  (x.ref / 2 ^ 30 = 3 ∧ fieldAt (rec x) 2 1 &&& bits ctl 0 8 ≠ 0 ∧
    y = { root := w64 (fieldAt (rec x) 8 8), inst := some (fieldAt (rec x) 4 4, fieldAt (rec x) 0x10 3)
          ray := instRay (words32 (rec x) 0x18 12) x.ray, ref := 2 ^ 30 })

/-- A reference and its record keep their formats (R308 to R311): aligned, a leaf inside an instance and an instance outside one. -/
def visitSound (rec : Todo → Bytes) (x : Todo) : Prop :=
  (ptrAddr x.root + (recordAt x).1) % (recordAt x).2 = 0 ∧
  ((x.ref / 2 ^ 30 = 1 ∧ nodeOk (rec x) = true) ∨ (x.ref / 2 ^ 30 = 2 ∧ x.inst ≠ none ∧ leafOk (rec x) = true) ∨
    (x.ref / 2 ^ 30 = 3 ∧ x.inst = none ∧ instOk (rec x) = true))

/-- In states with P the unit reads the records of these references as rec gives them, and P stays. -/
def ReadsAs (P : State → Prop) (lane : Nat) (rec : Todo → Bytes) (met : Todo → Prop) : Prop :=
  ∀ x t, met x → P t → ∃ u, P u ∧ unitRead t lane x.root ((recordAt x).1 : Nat) (recordAt x).2 = (.got (rec x), u)

/-- A pixel lies in a box and on the screen of a descriptor (R226, R312), and the index of its tile. -/
def inBox (desc : Bytes) (box : W64) (x y : Nat) : Prop :=
  bits box 0 16 ≤ x ∧ x ≤ bits box 32 16 ∧ bits box 16 16 ≤ y ∧ y ≤ bits box 48 16 ∧ x < fieldAt desc 8 2 ∧ y < fieldAt desc 10 2
def tileAt (desc : Bytes) (x y : Nat) : Nat :=
  let side := 2 ^ fieldAt desc 12 1
  (fieldAt desc 8 2 + side - 1) / side * (y / side) + x / side

/-- The event's fragment may wake and the bay's unit has let its query go. -/
def servedBy (s : State) (b : Nat) (q : Query) : State :=
  ((focus s q.ply q.strand q.frag).modBay b (fun y => { y with queries := y.queries.filter (fun x => x.id != q.id) })).modCurFrag
    (fun f => { f with wait := .none })

/-- The buffer of a descriptor has no room for n records (R315). -/
def bufferFull (desc : Bytes) (n : Nat) : Prop :=
  fieldAt desc 12 1 = 0 ∧ (fieldAt desc 8 4 : Int) - n < (fieldAt desc 0x10 8 : Int) - fieldAt desc 0x18 8

/-! ## Helper lanes (R38) -/

/-- Every lane of every fragment's helper mask is not active and lies in a quad with an active lane. [DEDUCED: log 69] -/
def HelpersOk (s : State) : Prop :=
  ∀ y ∈ s.plies, ∀ t ∈ y.2.strands, ∀ f ∈ t.2.frags, ∀ l, inMask f.2.helper l = true →
    inMask f.2.mask l = false ∧ ∃ j, j < 4 ∧ inMask f.2.mask (4 * (l / 4) + j) = true

end Sys2Proof.Machine
end

