-- ==== Sys2Proof/Certificates/Slice0/Obligations.lean ====
section
/-! DEFINITION. The statements for the provers. -/
open Sys2Proof Sys2Proof.Machine

/-! ## Encodings (R2, R108, R114 to R118) -/

/-- The decoder and the encoder agree on every word: every well-formed instruction that has an encoding is decoded from its word, chained or not,
with every operand; every word that decodes stands for a well-formed instruction and is its encoding, so no two words have one meaning. -/
def Obligations.EncodeDecode : Prop :=
  (∀ (c : Bool) (i : Instr), i.wellFormed = true → isEvent i = false → decodeWord (encode c i) = .ok (c, i)) ∧
  ∀ (w : W32) (c : Bool) (i : Instr), decodeWord w = .ok (c, i) → i.wellFormed = true ∧ isEvent i = false ∧ encode c i = w

/-- Words that the spec writes out (R112, R120, R125, R141, R144, R147, R163, R174 to R178, R184, R190, R193, R218, R221) decode to what it says they are,
and the reserved majors are refused (R116, R117). -/
def Obligations.DecodedWords : Prop :=
  decodeWord 0x00000000 = .ok (false, .nop) ∧ decodeWord 0x00040000 = .ok (false, .exit) ∧ decodeWord 0x00100000 = .ok (false, .tret) ∧
  decodeWord 0x1611FFFF = .ok (false, .sli 8 (-1)) ∧ decodeWord 0x2E017E00 = .ok (false, .jr 191) ∧
  decodeWord 0x40404183 = .ok (false, .vfmaF64 8 2 3 0) ∧ decodeWord 0x5E17FFFF = .ok (false, .vmovi 2 (-1)) ∧
  decodeWord 0x583C3001 = .ok (false, .vredAddF64 30 6 0) ∧ decodeWord 0x583E0310 = .ok (false, .vballot 31 3) ∧
  decodeWord 0x6438A069 = .ok (false, .st 7 20 3 2 1) ∧ decodeWord 0x73128000 = .ok (false, .fenceAr 1 40) ∧
  decodeWord 0x7604A007 = .ok (false, .rgnMark 40 7) ∧ decodeWord 0x3A000002 = .ok (false, .tzero 0) ∧
  decodeWord 0x3A050003 = .ok (false, .mbatch 40) ∧
  decodeWord 0x3400007C = .ok (false, .jset 124) ∧ decodeWord 0x3210004B = .ok (false, .brvSplit 0 1 75) ∧
  decodeWord 0x36160000 = .ok (false, .rep 2 6 0) ∧ decodeWord 0xDA208288 = .ok (true, .vaddsF64 4 4 20 2) ∧
  decodeWord 0x0A2A2A01 = .ok (false, .saddi 21 21 1) ∧ decodeWord 0xE210502C = .ok (true, .ld 2 10 1 3 0) ∧
  decodeWord 0xC0186200 = .ok (true, .vaddF64 3 3 4 0) ∧ decodeWord 0x30805FFE = .ok (false, .loop 1 5 (-2)) ∧
  decodeWord 0x5C394340 = .ok (false, .vget 7 40 13) ∧ decodeWord 0x6100C120 = .ok (false, .pfroms 4 9) ∧
  ∀ w : W32, (w.toNat / 2 ^ 25 % 64 = 0x3E ∨ w.toNat / 2 ^ 25 % 64 = 0x3F) → decodeWord w = .error .reservedMajor

/-! ## Scalar instructions (R52, R56, R129 to R133) -/

/-- The tables of R130 to R132: every scalar form completes and writes its destination with the value its table gives. -/
def Obligations.ScalarResults : Prop :=
  ∀ (i : Instr) (x : ScalarForm) (s : State), scalarForm i = some x → i.wellFormed = true → isSource x.a → isDest x.d →
    (∀ d n, i = .shin d n → d.toNat ≤ 192) →
    exec i s = .next (advance (destOf s x.d (x.f (sourceOf s x.a) (sreg s x.b.toNat) (x.oldOf s))))

/-- R131, whole: SCMP writes 1 to sd when its condition holds and 0 otherwise; the condition is fn3, by the table; fn3 = 7 is reserved. -/
def Obligations.ScalarCompare : Prop :=
  (∀ (d a : BitVec 8) (b : BitVec 6) (k : BitVec 3) (s : State), isSource a → isDest d →
    let x := sourceOf s a
    let y := sreg s b.toNat
    let writes (p : Prop) : Prop := (p → exec (.scmp d a b k) s = .next (advance (destOf s d 1))) ∧
      (¬ p → exec (.scmp d a b k) s = .next (advance (destOf s d 0)))
    (k = 0 → writes (x = y)) ∧ (k = 1 → writes (x ≠ y)) ∧ (k = 2 → writes (x.toInt < y.toInt)) ∧ (k = 3 → writes (y.toInt ≤ x.toInt)) ∧
    (k = 4 → writes (x.toNat < y.toNat)) ∧ (k = 5 → writes (y.toNat ≤ x.toNat)) ∧ (k = 6 → writes (x &&& y ≠ 0))) ∧
  ∀ (c : BitVec 1) (d a : BitVec 8) (b : BitVec 6) (k : BitVec 3),
    decodeWord (packSR c 4 d a b k) = if k = 7 then .error .reservedCode else .ok (c == 1#1, .scmp d a b k)

/-- Traps of the operands (R23, R52, R133, R343): a scalar source or destination that R52 does not allow, of the scalar integer and floating-point
instructions, VSOP, VBCST, PFROMS, VGET, VPUT, reductions and votes, or a special but %zero for SHIN; a reserved rounding mode of SCVTF, SCVTI, VRINT or VCVT; a vector
register beyond the allotment. The instruction has no effect.
The model's own: the detail numbers (log 20), the order of operand limits (log 92). -/
def Obligations.OperandTraps : Prop :=
  (∀ (i : Instr) (x : ScalarForm) (s : State), scalarForm i = some x →
    (¬ isSource x.a ∨ ¬ isDest x.d ∨ ∃ d n, i = .shin d n ∧ 192 < d.toNat) →
    exec i s = .next (takeTrap s { cause := 3 })) ∧
  (∀ (i : Instr) (s : State), i.wellFormed = true → badRounding i = true → exec i s = .next (takeTrap s { cause := 3, detail := 1 })) ∧
  (∀ (i : Instr) (s : State) (x : VectorForm), vectorForm s i = some x → i.wellFormed = true → badRounding i = false →
    (∀ b, scalarSource i = some b → isSource b) → (∃ r ∈ x.d :: x.regs, 8 * s.cur.blocks ≤ r) →
    exec i s = .next (takeTrap s { cause := 6 })) ∧
  (∀ (i : Instr) (x : ScalarFloatForm) (s : State), scalarFloatForm i = some x → badRounding i = false → (s.core s.curCore).resFp = false →
    (¬ isSource x.a ∨ ¬ isDest x.d) → exec i s = .next (takeTrap s { cause := 3 })) ∧
  (∀ (i : Instr) (b : BitVec 8) (s : State), (scalarSource i = some b ∨ predSource i = some b) → ¬ isSource b →
    exec i s = .next (takeTrap s { cause := 3 })) ∧
  (∀ (v : BitVec 6) (a : BitVec 8) (n : BitVec 5) (s : State), (¬ isSource a → exec (.vput v a n) s = .next (takeTrap s { cause := 3 })) ∧
    (v.toNat < 8 * s.cur.blocks → ¬ isDest a → exec (.vget v a n) s = .next (takeTrap s { cause := 3 })) ∧
    (8 * s.cur.blocks ≤ v.toNat → exec (.vget v a n) s = .next (takeTrap s { cause := 6 }) ∧
      (isSource a → exec (.vput v a n) s = .next (takeTrap s { cause := 6 })))) ∧
  (∀ (i : Instr) (x : ReduceForm) (s : State), reduceForm i = some x → (x.fp64 = true → (s.core s.curCore).resFp = false) →
    (8 * s.cur.blocks ≤ x.a → exec i s = .next (takeTrap s { cause := 6 })) ∧
    (x.a < 8 * s.cur.blocks → ¬ isDest x.d → exec i s = .next (takeTrap s { cause := 3 }))) ∧
  ∀ (i : Instr) (s : State) (d : BitVec 8) (v : W64), voteForm s i = some (d, v) → voteRegs i = [] → ¬ isDest d →
    exec i s = .next (takeTrap s { cause := 3 })

/-- What a scalar instruction leaves unchanged: every register but its destination, every flag unless %fpst is the destination, memory. -/
def Obligations.ScalarFrame : Prop :=
  ∀ (i : Instr) (x : ScalarForm) (s t : State), scalarForm i = some x → i.wellFormed = true → isSource x.a → isDest x.d →
    (∀ d n, i = .shin d n → d.toNat ≤ 192) → exec i s = .next t →
    RegistersKept { scalar := fun n => n == x.d.toNat, flags := x.d.toNat == 208 } s t

/-! ## Vector instructions (R23, R30, R37, R56, R155 to R176) -/

/-- Floating point (R157, R159, R172, R176): each element of each enabled lane as its table gives it; only lanes that are not helper lanes raise flags. -/
def Obligations.VectorFloatResults : Prop :=
  ∀ (i : Instr) (s : State) (x : VectorForm), floatForm s i = some x → x.ready s i →
    ∃ t, exec i s = .next (advance t) ∧ x.done s t

/-- Integer arithmetic (R160): wrapping, saturating and dividing elements. -/
def Obligations.VectorIntegerResults : Prop :=
  ∀ (i : Instr) (s : State) (x : VectorForm), integerForm s i = some x → x.ready s i →
    ∃ t, exec i s = .next (advance t) ∧ x.done s t

/-- Logic, shifts, moves and lane numbers (R161 to R163). -/
def Obligations.VectorLogicResults : Prop :=
  ∀ (i : Instr) (s : State) (x : VectorForm), logicForm s i = some x → x.ready s i →
    ∃ t, exec i s = .next (advance t) ∧ x.done s t

/-- Conversions (R166, R167), dot products (R168) and special functions (R169, R170).
The model's own: what a special function delivers within its bound is free, and an overflow gives infinity (Config.sfu, log 24, 93); a signalling e5m2
NaN raises no flag when it is widened (log 94). -/
def Obligations.VectorConversionResults : Prop :=
  ∀ (i : Instr) (s : State) (x : VectorForm), convertForm s i = some x → x.ready s i →
    ∃ t, exec i s = .next (advance t) ∧ x.done s t

/-- What a vector instruction leaves unchanged: every register but its destination, every lane that is not enabled (stated with its result), memory. -/
def Obligations.VectorFrame : Prop :=
  ∀ (i : Instr) (s t : State) (x : VectorForm), vectorForm s i = some x → x.ready s i → exec i s = .next t →
    RegistersKept { vector := fun r => r == x.d, flags := true } s t

/-! ## Scalars with flags, reductions, votes, single lanes, predicates (R133, R164, R173 to R178) -/

/-- Scalar floating point and conversions (R133): the value to the destination, its flags to %fpst. -/
def Obligations.ScalarFloatResults : Prop :=
  ∀ (i : Instr) (x : ScalarFloatForm) (s : State), scalarFloatForm i = some x → badRounding i = false → isSource x.a → isDest x.d →
    (s.core s.curCore).resFp = false →
    exec i s = .next (advance (raise (destOf s x.d (BitVec.ofNat 64 (x.f (sourceOf s x.a).toNat (sreg s x.b.toNat).toNat).1))
      (x.f (sourceOf s x.a).toNat (sreg s x.b.toNat).toNat).2))

/-- Reductions in lane order from the identity of an empty set (R174), votes over the lane mask (R175) and VGET.
The model's own: a reduction over one lane that holds a NaN (log 89). -/
def Obligations.ReduceAndVoteResults : Prop :=
  (∀ (i : Instr) (x : ReduceForm) (s : State), reduceForm i = some x → isDest x.d → x.a < 8 * s.cur.blocks →
    (x.fp64 = true → (s.core s.curCore).resFp = false) →
    exec i s = .next (advance (raise (destOf s x.d (combined x.ident x.f (laneValues s x.a (activeLanes s x.guard) (fun _ => true))).1)
      (combined x.ident x.f (laneValues s x.a (activeLanes s x.guard) (fun _ => true))).2))) ∧
  (∀ (i : Instr) (s : State) (d : BitVec 8) (v : W64), voteForm s i = some (d, v) → isDest d → (∀ r ∈ voteRegs i, r < 8 * s.cur.blocks) →
    exec i s = .next (advance (destOf s d v)))

/-- The scans (R173) over the enabled lanes that are not helper lanes, in ascending order; every other lane of vd and every other register keeps
its value. The members are unary: their words have vb6 zero.
The model's own: a scan whose sum is over one lane that holds a NaN (log 89). -/
def Obligations.ScanResults : Prop :=
  (∀ (d a : BitVec 6) (p : BitVec 3) (s : State), d.toNat < 8 * s.cur.blocks → a.toNat < 8 * s.cur.blocks →
    (∃ t, exec (.vscanAddI64 d a p) s = .next (advance t) ∧ t.cur.fpst = s.cur.fpst ∧
      ∀ r l, l < 32 → vreg t r l =
        if r = d.toNat ∧ inMask (activeLanes s p.toNat) l = true then
          (laneValues s a.toNat (activeLanes s p.toNat) (fun m => decide (m ≤ l))).sum
        else vreg s r l) ∧
    ((s.core s.curCore).resFp = false →
      ∃ t, exec (.vscanAddF64 d a p) s = .next (advance t) ∧
        t.cur.fpst = s.cur.fpst ||| (combined 0 (byF64 (fAdd fmtF64)) (laneValues s a.toNat (activeLanes s p.toNat) (fun _ => true))).2 ∧
        ∀ r l, l < 32 → vreg t r l =
          if r = d.toNat ∧ inMask (activeLanes s p.toNat) l = true then
            (combined 0 (byF64 (fAdd fmtF64)) (laneValues s a.toNat (activeLanes s p.toNat) (fun m => decide (m ≤ l)))).1
          else vreg s r l)) ∧
  ∀ (c : BitVec 1) (d a b : BitVec 6) (p : BitVec 3),
    decodeWord (packVR c 43#6 d a b p 12#4) = (if b = 0 then .ok (c == 1#1, .vscanAddI64 d a p) else .error .nonzeroField) ∧
    decodeWord (packVR c 43#6 d a b p 13#4) = (if b = 0 then .ok (c == 1#1, .vscanAddF64 d a p) else .error .nonzeroField)

/-- R177, whole: VGET reads one lane of any state; VPUT writes one lane of the fragment's lane or helper mask and no other, with no trap; their words. -/
def Obligations.SingleLanes : Prop :=
  (∀ (v : BitVec 6) (a : BitVec 8) (n : BitVec 5) (s : State), isDest a → v.toNat < 8 * s.cur.blocks →
    exec (.vget v a n) s = .next (advance (destOf s a (vreg s v.toNat n.toNat)))) ∧
  (∀ (v : BitVec 6) (a : BitVec 8) (n : BitVec 5) (s : State), isSource a → v.toNat < 8 * s.cur.blocks →
    ∃ t, exec (.vput v a n) s = .next (advance t) ∧
      ∀ r l, l < 32 → vreg t r l =
        if r = v.toNat ∧ l = n.toNat ∧ inMask (s.curFrag.mask ||| s.curFrag.helper) l = true then sourceOf s a else vreg s r l) ∧
  (∀ (c : BitVec 1) (v : BitVec 6) (a : BitVec 8) (n z : BitVec 5),
    decodeWord (packVL c 0x2E v a n 0 z) = (if z = 0 then .ok (c == 1#1, .vget v a n) else .error .nonzeroField) ∧
    decodeWord (packVL c 0x2E v a n 1 z) = (if z = 0 then .ok (c == 1#1, .vput v a n) else .error .nonzeroField)) ∧
  decodeWord 0x5C394340 = .ok (false, .vget 7 40 13)

/-- R178, whole: predicate logic writes the bits of the fragment's lane and helper masks and no others; p0 reads all ones and discards writes; the
words of the members, with the fields that must be zero and the reserved value. -/
def Obligations.PredicateResults : Prop :=
  (∀ (i : Instr) (s : State) (d : Nat) (v : W32), predForm s i = some (d, v) → (∀ a, predSource i = some a → isSource a) →
    ∃ t, exec i s = .next (advance t) ∧
      ∀ q, preg t q = if q = d ∧ d ≠ 0 then
          (preg s d &&& ~~~(s.curFrag.mask ||| s.curFrag.helper)) ||| (v &&& (s.curFrag.mask ||| s.curFrag.helper))
        else preg s q) ∧
  (∀ s : State, preg s 0 = 0xFFFFFFFF) ∧
  (∀ (c : BitVec 1) (d a b : BitVec 3) (x : BitVec 8),
    decodeWord (packPL c 0x30 d a b 0 0 0) = .ok (c == 1#1, .pand d a b) ∧ decodeWord (packPL c 0x30 d a b 1 0 0) = .ok (c == 1#1, .por d a b) ∧
    decodeWord (packPL c 0x30 d a b 2 0 0) = .ok (c == 1#1, .pxor d a b) ∧ decodeWord (packPL c 0x30 d a b 3 0 0) = .ok (c == 1#1, .pandn d a b) ∧
    decodeWord (packPL c 0x30 d a 0 4 0 0) = .ok (c == 1#1, .pnot d a) ∧ decodeWord (packPL c 0x30 d a 0 5 0 0) = .ok (c == 1#1, .pmov d a) ∧
    decodeWord (packPL c 0x30 d 0 0 6 x 0) = .ok (c == 1#1, .pfroms d x)) ∧
  (∀ (c : BitVec 1) (d a b f : BitVec 3) (x : BitVec 8) (z : BitVec 5),
    (f = 7 → decodeWord (packPL c 0x30 d a b f x z) = .error .reservedFunction) ∧
    (f ≠ 7 → (z ≠ 0 ∨ (f ≠ 6 ∧ x ≠ 0) ∨ (f = 6 ∧ a ≠ 0) ∨ (4 ≤ f.toNat ∧ b ≠ 0)) → decodeWord (packPL c 0x30 d a b f x z) = .error .nonzeroField)) ∧
  decodeWord 0x6100C120 = .ok (false, .pfroms 4 9)

/-- VCMP (R164, R165): bit l of each predicate written is the guard and the comparison of its element by the table of R165; other bits and predicates keep
theirs; nv is raised as the kind of the condition says, by the elements of active lanes that the guard leaves on, and no other flag changes. -/
def Obligations.CompareResults : Prop :=
  ∀ (d : BitVec 3) (a b : BitVec 6) (p : BitVec 3) (k : BitVec 4) (y : BitVec 3) (s : State),
    Instr.wellFormed (.vcmp d a b p k y) = true → d.toNat + cmpCount y.toNat ≤ 8 → a.toNat < 8 * s.cur.blocks → b.toNat < 8 * s.cur.blocks →
    ∃ t, exec (.vcmp d a b p k y) s = .next (advance t) ∧
      (∀ q l, l < 32 → inMask (preg t q) l =
        if q ≠ 0 ∧ d.toNat ≤ q ∧ q < d.toNat + cmpCount y.toNat ∧ inMask (s.curFrag.mask ||| s.curFrag.helper) l = true then
          inMask (preg s p.toNat) l && elementsCompare y.toNat k.toNat (q - d.toNat) (vreg s a.toNat l) (vreg s b.toNat l)
        else inMask (preg s q) l) ∧
      (t.cur.fpst.getLsbD 0 = true ↔ (s.cur.fpst.getLsbD 0 = true ∨ ∃ l i, l < 32 ∧ inMask (activeLanes s p.toNat) l = true ∧ i < cmpCount y.toNat ∧
        compareRaises y.toNat k.toNat i (vreg s a.toNat l) (vreg s b.toNat l) = true)) ∧
      ∀ f, 0 < f → f < 6 → t.cur.fpst.getLsbD f = s.cur.fpst.getLsbD f

/-- What the instructions of this part leave unchanged: every register but the destination, flags that they do not raise, memory. -/
def Obligations.LaneFrames : Prop :=
  ((∀ (i : Instr) (x : ScalarFloatForm) (s t : State), scalarFloatForm i = some x → badRounding i = false → isSource x.a → isDest x.d →
    (s.core s.curCore).resFp = false → exec i s = .next t → RegistersKept { scalar := fun n => n == x.d.toNat, flags := true } s t) ∧
  (∀ (i : Instr) (x : ReduceForm) (s t : State), reduceForm i = some x → isDest x.d → x.a < 8 * s.cur.blocks →
    (x.fp64 = true → (s.core s.curCore).resFp = false) → exec i s = .next t →
    RegistersKept { scalar := fun n => n == x.d.toNat, flags := true } s t) ∧
  ∀ (i : Instr) (s t : State) (d : BitVec 8) (v : W64), voteForm s i = some (d, v) → isDest d → (∀ r ∈ voteRegs i, r < 8 * s.cur.blocks) →
    exec i s = .next t → RegistersKept { scalar := fun n => n == d.toNat, flags := d.toNat == 208 } s t) ∧
  ((∀ (d a : BitVec 6) (p : BitVec 3) (s t : State), d.toNat < 8 * s.cur.blocks → a.toNat < 8 * s.cur.blocks →
    (s.core s.curCore).resFp = false → (exec (.vscanAddI64 d a p) s = .next t ∨ exec (.vscanAddF64 d a p) s = .next t) →
    RegistersKept { vector := fun r => r == d.toNat, flags := true } s t) ∧
  (∀ (v : BitVec 6) (a : BitVec 8) (n : BitVec 5) (s t : State), isSource a → v.toNat < 8 * s.cur.blocks →
    exec (.vput v a n) s = .next t → RegistersKept { vector := fun r => r == v.toNat } s t) ∧
  (∀ (i : Instr) (s t : State) (d : Nat) (v : W32), predForm s i = some (d, v) → (∀ a, predSource i = some a → isSource a) →
    exec i s = .next t → RegistersKept { pred := fun q => q == d } s t) ∧
  ∀ (d : BitVec 3) (a b : BitVec 6) (p : BitVec 3) (k : BitVec 4) (y : BitVec 3) (s t : State),
    Instr.wellFormed (.vcmp d a b p k y) = true → d.toNat + cmpCount y.toNat ≤ 8 → a.toNat < 8 * s.cur.blocks → b.toNat < 8 * s.cur.blocks →
    exec (.vcmp d a b p k y) s = .next t →
    RegistersKept { pred := fun q => decide (d.toNat ≤ q) && decide (q < d.toNat + cmpCount y.toNat), flags := true } s t)

/-! ## Control (R31, R32, R36, R113, R140 to R150) -/

/-- Branches, jumps, CALL, LOOP and the vector branches that make no fragment (R140 to R143): where the fragment goes on, the register written,
the traps of their operands, and what they leave unchanged. -/
def Obligations.BranchResults : Prop :=
  (∀ (i : Instr) (s : State) (x : BranchForm), branchForm s i = some x → i.wellFormed = true → branchOperandOk s i →
    ((x.taken = true → 0 ≤ (s.iss.w.toNat : Int) + x.d) →
      exec i s = .next (goesOnAt x.pre (if x.taken then indexPlus s x.d else s.iss.w + 1) x.taken)) ∧
    (x.taken = true → (s.iss.w.toNat : Int) + x.d < 0 →
      exec i s = .next ((goesOnAt x.pre (indexPlus s x.d) true).modCurFrag (fun f => { f with under := true })))) ∧
  (∀ (s : State) (h k : BitVec 2) (c : BitVec 3) (a : BitVec 8) (o : BitVec 12),
    (¬ isSource a → c ≠ 6 → exec (.bCnd h c a o) s = .next (takeTrap s { cause := 3 })) ∧
    (¬ isSource a → exec (.jr a) s = .next (takeTrap s { cause := 3 })) ∧
    (isSource a → 2 ^ 32 ≤ (sourceOf s a).toNat → exec (.jr a) s = .next (takeTrap s { cause := 4 })) ∧
    (192 ≤ a.toNat → exec (.loop k a o) s = .next (takeTrap s { cause := 3 }))) ∧
  (∀ (i : Instr) (s t : State) (x : BranchForm), branchForm s i = some x → branchOperandOk s i → exec i s = .next t →
    RegistersKept { scalar := branchWrites i } s t)

/-- SPLIT and QSPLIT (R32, R36, R143, R144): an empty side makes no fragment; a free entry takes the taken path, the lowest first; with none free it
is deferred, or traps when the stack is full; a target that does not qualify traps before any effect.
The model's own: the bank that a new fragment copies, its age counter, the target before the split (log 22, 86). -/
def Obligations.SplitResults : Prop :=
  ∀ (i : Instr) (s : State) (q : BitVec 3) (d : Int) (quad : Bool), splitForm i = some (q, d, quad) →
    let taken := (splitSets s (preg s q.toNat) quad).1
    let rest := (splitSets s (preg s q.toNat) quad).2
    (taken.1 = 0 → exec i s = .next (goesOnAt (s.modCurFrag (fun f => { f with pendJoin := none })) (s.iss.w + 1) false)) ∧
    (taken.1 ≠ 0 → (s.iss.w.toNat : Int) + d < 0 → exec i s = .next (takeTrap s { cause := 4 })) ∧
    ∀ b r, taken.1 ≠ 0 → 0 ≤ (s.iss.w.toNat : Int) + d → beginsChain s (indexPlus s d) = .ok (b, r) →
      (b = false → exec i s = .next (takeTrap s { cause := 4 })) ∧
      (b = true → rest.1 = 0 → exec i s = .next (goesOnAt (r.modCurFrag (fun f => { f with pendJoin := none })) (indexPlus r d) true)) ∧
      (b = true → rest.1 ≠ 0 → s.cur.trapped = true → exec i s = .next (takeTrap s { cause := 7, detail := 1 })) ∧
      (b = true → rest.1 ≠ 0 → s.cur.trapped = false → ∀ e, (∀ k, k < e → Tab.has s.cur.frags k = true) → e < 4 →
        Tab.has s.cur.frags e = false → ∃ u, exec i s = .next (goesOnAt u (r.iss.w + 1) false) ∧
          u.cur.fragAt e = { pc := indexPlus r d, mask := taken.1, helper := taken.2, join := s.curFrag.pendJoin,
                             parent := some r.iss.frag, bank := s.curFrag.bank, marks := s.curFrag.marks, age := s.cur.ages } ∧
          (e ≠ r.iss.frag → u.curFrag.mask = rest.1 ∧ u.curFrag.helper = rest.2 ∧ u.curFrag.pendJoin = none ∧ u.curFrag.resv = none ∧
            u.curFrag.bank = r.curFrag.bank)) ∧
      (b = true → rest.1 ≠ 0 → s.cur.trapped = false → (∀ k, k < 4 → Tab.has s.cur.frags k = true) →
        (8 ≤ s.curFrag.stack.length → exec i s = .next (takeTrap s { cause := 7 })) ∧
        (s.curFrag.stack.length < 8 → ∃ u, exec i s = .next (goesOnAt u (r.iss.w + 1) false) ∧
          u.curFrag.stack = { pc := indexPlus r d, mask := taken.1, helper := taken.2, join := s.curFrag.pendJoin,
                              bank := s.curFrag.bank, marks := s.curFrag.marks, age := s.cur.ages } :: r.curFrag.stack ∧
          u.curFrag.mask = rest.1 ∧ u.curFrag.helper = rest.2 ∧ u.curFrag.pendJoin = none ∧ u.curFrag.bank = r.curFrag.bank))

/-- JSET: a target that qualifies becomes the pending join; any other takes the illegal-target trap at the JSET (R144). Joins: a child fuses into its parent and
siblings into the older at the join address, with the lower lane's bank (R33); a child whose parent waits elsewhere is released (R34); at the join of the
path on top of its stack a fragment holds its lanes and takes the path, and held lanes join those that come to their address (R35).
The model's own: what a fused fragment keeps of both (log 22, 82). -/
def Obligations.JoinSetResults : Prop :=
  (∀ (t : Strand) (a b : Nat) (x y : Frag) (A : W32), t.trapped = false → a ≠ b → t.frags = [(a, x), (b, y)] → y.parent = some a → y.join = some A →
    x.pc = A → x.join = none → x.parent = none → x.stack = [] → y.stack = [] → x.held = [] → y.held = [] →
    (y.pc = A → ∃ f, t.settle.frags = [(a, f)] ∧
      Joined t.settle a A (x.mask ||| y.mask) (x.helper ||| y.helper) (if lowestLane x.mask ≤ lowestLane y.mask then x.bank else y.bank)) ∧
    (y.pc ≠ A → t.settle = pruneHelpers t)) ∧
  (∀ (t : Strand) (r a b : Nat) (z x y : Frag) (A : W32), t.trapped = false → r < a → r < b → a ≠ b →
    (t.frags = [(r, z), (a, x), (b, y)] ∨ t.frags = [(r, z), (b, y), (a, x)]) → x.parent = some r → y.parent = some r → x.join = some A → y.join = some A → x.pc = A → y.pc = A → z.pc ≠ A → z.join = none → z.parent = none →
    x.age < y.age → z.stack = [] → x.stack = [] → y.stack = [] → z.held = [] → x.held = [] → y.held = [] →
    ∃ g f, t.settle.frags = [(r, g), (a, f)] ∧
      Joined t.settle a A (x.mask ||| y.mask) (x.helper ||| y.helper) (if lowestLane x.mask ≤ lowestLane y.mask then x.bank else y.bank)) ∧
  (∀ (t : Strand) (r a b : Nat) (z x y : Frag) (A B : W32), t.trapped = false → r ≠ a → r ≠ b → a ≠ b → t.frags = [(r, z), (a, x), (b, y)] →
    x.parent = some r → y.parent = some a → x.join = some A → x.pc = A → z.pc ≠ A → y.join = some B → B ≠ A → z.join = none → z.parent = none →
    z.stack = [] → x.stack = [] → y.stack = [] → z.held = [] → x.held = [] → y.held = [] →
    (t.settle.fragAt b).parent = some r ∧ (t.settle.fragAt b).join = none ∧ (t.settle.fragAt b).pc = y.pc ∧ (t.settle.fragAt a).pc = A) ∧
  (∀ (t : Strand) (i : Nat) (f : Frag) (d : Deferred), t.trapped = false → t.frags = [(i, f)] → f.join = none → f.parent = none → f.wait = .none →
    f.held = [] → f.stack = [d] → d.join = some f.pc → d.pc ≠ f.pc →
    Joined t.settle i d.pc d.mask d.helper d.bank ∧ (t.settle.fragAt i).stack = [] ∧
      ∃ h, (t.settle.fragAt i).held = [h] ∧ h.addr = f.pc ∧ h.mask = f.mask ∧ h.helper = f.helper ∧ h.bank = f.bank) ∧
  (∀ (t : Strand) (i : Nat) (f : Frag) (h : HeldLanes), t.trapped = false → t.frags = [(i, f)] → f.join = none → f.parent = none → f.wait = .none →
    f.stack = [] → f.held = [h] → h.addr = f.pc → h.bar = false →
    Joined t.settle i f.pc (f.mask ||| h.mask) (f.helper ||| h.helper) (if lowestLane f.mask ≤ lowestLane h.mask then f.bank else h.bank) ∧
      (t.settle.fragAt i).held = []) ∧
  ∀ (o : BitVec 23) (s : State),
    ((s.iss.w.toNat : Int) + o.toInt < 0 → exec (.jset o) s = .next (takeTrap s { cause := 4 })) ∧
    ∀ b r, 0 ≤ (s.iss.w.toNat : Int) + o.toInt → beginsChain s (indexPlus s o.toInt) = .ok (b, r) →
      (b = false → exec (.jset o) s = .next (takeTrap s { cause := 4 })) ∧
      (b = true → exec (.jset o) s = .next (advance (r.modCurFrag (fun f => { f with pendJoin := some (indexPlus s o.toInt) }))))

/-- NOP and YIELD go on and keep every register; YIELD puts the fragment behind for 32 opportunities (R40); REP gives its count, fields
and step to the word that follows (R145); after each repeat but the last the fragment stays at the REP with the next repeat position and all its lanes to
perform, and after the last it goes on behind the repeated word (R146); repeat i is the repeated word with each enabled field i steps further, and a field
that leaves its range traps (R120). -/
def Obligations.PlainSystemResults : Prop :=
  (∀ (s : State) (n : Nat) (e : BitVec 3) (k : BitVec 2), s.iss.rep = some (n, e, k) →
    (s.curFrag.repPos < n → advance s =
      s.modCurFrag (fun f => { f with unfinished := none, replies := [], fence := none, repPos := f.repPos + 1 })) ∧
    (n ≤ s.curFrag.repPos → advance s = goesOnAt s (s.iss.w + 2) false)) ∧
  (∀ (v u : W32) (e : BitVec 3) (k : BitVec 2) (i : Nat) (c : Bool) (j : Instr),
    (SteppedBy v u (steppedFields v e) (repStep k * i) → decodeWord u = .ok (c, j) → repeatInstr v e k i = .ok j) ∧
    ((∃ x ∈ steppedFields v e, ((bits v x.1 x.2 : Nat) : Int) + repStep k * i < 0 ∨ (2 : Int) ^ x.2 ≤ (bits v x.1 x.2 : Nat) + repStep k * i) →
      repeatInstr v e k i = .error 3)) ∧
  ∀ s : State,
    exec .nop s = .next (advance s) ∧ RegistersKept {} s (advance s) ∧
    (∃ t, exec .yield s = .next (advance t) ∧ t.curFrag.yield = 32 ∧ RegistersKept {} s t) ∧
    ∀ (n : BitVec 6) (e : BitVec 3) (k : BitVec 2),
      ∃ t, exec (.rep n e k) s = .next t ∧ t.iss.rep = some (n.toNat, e, k) ∧ t = { s with iss := t.iss }

/-- Taking a trap (R149, R344): the saved index (the next word for TRAP), repeat position, code and value, the trap vector; nothing else changes.
The model's own: that a trapped instruction has no other effect (log 19, 20). -/
def Obligations.TrapEntry : Prop :=
  (∀ (a : BitVec 8) (c : BitVec 10) (s : State), s.cur.trapped = false → isSource a →
    ∃ t, exec (.trap a c) s = .next t ∧
      t.cur.trapped = true ∧ t.cur.trappc = s.iss.w.setWidth 64 ∧ t.cur.trapaddr = sourceOf s a ∧
      t.cur.trapinfo = BitVec.ofNat 64 (c.toNat * 2 ^ 22 + 1) ∧
      t.cur.trap.retIdx = s.iss.w + 1 ∧ t.cur.trap.retRep = s.curFrag.repPos ∧ t.cur.trap.retLanes = s.curFrag.unfinished ∧
      t.cur.trap.written = false ∧ t.cur.trap.frag = s.iss.frag ∧
      t.curFrag.repPos = 0 ∧ t.curFrag.resv = none ∧ t.curFrag.pc = (s.reel s.curPly.reel).desc.trapvec ∧
      t.curFrag.mask = s.curFrag.mask ∧ t.curFrag.helper = s.curFrag.helper ∧ t.curFrag.bank = s.curFrag.bank ∧
      t.cur.trapBank = s.cur.trapBank ∧
      t.cur.s = s.cur.s ∧ t.cur.v = s.cur.v ∧ t.cur.p = s.cur.p ∧ t.cur.x = s.cur.x ∧ t.cur.g = s.cur.g ∧ t.cur.fpst = s.cur.fpst ∧
      SameMemory s t) ∧
  (∀ (s : State) (q : TrapReq), s.cur.trapped = false → (s.reel s.curPly.reel).rerun = none → q.cause ≠ 1 →
    let t := takeTrap s q
    t.cur.trapped = true ∧ t.cur.trappc = s.iss.w.setWidth 64 ∧ t.cur.trapaddr = q.addr ∧ t.cur.trapinfo = trapWord q ∧
    t.cur.trap.retIdx = s.iss.w ∧ t.cur.trap.retRep = s.curFrag.repPos ∧ t.cur.trap.retLanes = s.curFrag.unfinished ∧ t.cur.trap.written = false ∧
    t.curFrag.repPos = 0 ∧ t.curFrag.resv = none ∧ t.curFrag.pc = (s.reel s.curPly.reel).desc.trapvec ∧
    t.curFrag.mask = s.curFrag.mask ∧ t.curFrag.helper = s.curFrag.helper ∧ t.curFrag.bank = s.curFrag.bank ∧
    t.cur.s = s.cur.s ∧ t.cur.v = s.cur.v ∧ t.cur.p = s.cur.p ∧ t.cur.x = s.cur.x ∧ t.cur.g = s.cur.g ∧ t.cur.fpst = s.cur.fpst ∧
    SameMemory s t)

/-- TRET (R150): the fragment, alone in its strand, goes on at TRETIDX outside the trap level, at the saved repeat position unless SWR has
written TRETIDX, and its target is to be checked. -/
def Obligations.TrapReturn : Prop :=
  ∀ s : State, s.livePly s.iss.ply = true → s.cur.trapped = true → s.cur.frags = [(s.iss.frag, s.curFrag)] → s.curFrag.stack = [] →
    s.curFrag.held = [] → s.curFrag.join = none → s.curFrag.parent = none →
    ∃ t, exec .tret s = .next t ∧
      t.cur.trapped = false ∧ t.curFrag.pc = s.cur.trap.retIdx ∧ t.curFrag.jumped = true ∧ t.curFrag.resv = none ∧
      t.curFrag.repPos = (if s.cur.trap.written then 0 else s.cur.trap.retRep) ∧ t.curFrag.bank = s.curFrag.bank ∧
      t.curFrag.unfinished = (if s.cur.trap.written then none else s.cur.trap.retLanes) ∧
      t.curFrag.mask = s.curFrag.mask ∧ t.cur.trapBank = s.cur.trapBank ∧ t.cur.s = s.cur.s ∧ t.cur.v = s.cur.v ∧ t.cur.p = s.cur.p ∧
      t.cur.fpst = s.cur.fpst ∧ t.cur.trapinfo = s.cur.trapinfo ∧ t.cur.trappc = s.cur.trappc ∧ SameMemory s t

/-- System and segment registers (R147, R151 to R153): SRD and SWR with the checks of R152 in their order, SEGLD and SEGRD, and the levels of R147. -/
def Obligations.SystemRegisters : Prop :=
  (∀ (a : BitVec 8) (n : BitVec 10) (g : BitVec 3) (s : State),
    (n.toNat < 8 → isDest a → exec (.srd a n) s = .next (advance (destOf s a (sysReg s n.toNat)))) ∧
    (s.cur.trapped = true → n = 0 → isSource a → ∃ t, exec (.swr a n) s = .next (advance t) ∧
      t.cur.trap.retIdx = (sourceOf s a).setWidth 32 ∧ t.cur.trap.written = true ∧ t.cur.trapped = true ∧ SameButStrand s t) ∧
    (s.cur.trapped = true → a.toNat ≤ 190 →
      segNarrows ((s.vdev s.curPly.vdev).launchSeg g.toNat) ⟨sreg s a.toNat, sreg s (a.toNat + 1)⟩ = true →
      ∃ t, exec (.segld a g) s = .next (advance t) ∧ Tab.get {} t.cur.g g.toNat = ⟨sreg s a.toNat, sreg s (a.toNat + 1)⟩ ∧
        (∀ k, k ≠ g.toNat → Tab.get {} t.cur.g k = Tab.get {} s.cur.g k) ∧ SameButStrand s t) ∧
    (a.toNat ≤ 190 → exec (.segrd a g) s =
      .next (advance (setSreg (setSreg s a.toNat (Tab.get {} s.cur.g g.toNat).base) (a.toNat + 1) (Tab.get {} s.cur.g g.toNat).ctl)))) ∧
  (∀ (a : BitVec 8) (c : BitVec 10) (g : BitVec 3) (s : State),
    (s.cur.trapped = true → exec (.trap a c) s = .next (takeTrap s { cause := 5 })) ∧
    (s.cur.trapped = false → exec .tret s = .next (takeTrap s { cause := 5 }) ∧ exec (.swr a c) s = .next (takeTrap s { cause := 5 }) ∧
      exec (.segld a g) s = .next (takeTrap s { cause := 5 }))) ∧
  (∀ (a : BitVec 8) (n : BitVec 10) (g : BitVec 3) (s : State),
    (8 ≤ n.toNat → exec (.srd a n) s = .next (takeTrap s { cause := 3, detail := 2 })) ∧
    (s.cur.trapped = true → 8 ≤ n.toNat → exec (.swr a n) s = .next (takeTrap s { cause := 3, detail := 2 })) ∧
    (s.cur.trapped = true → 1 ≤ n.toNat → n.toNat ≤ 7 → exec (.swr a n) s = .next (takeTrap s { cause := 5 })) ∧
    (190 < a.toNat → exec (.segrd a g) s = .next (takeTrap s { cause := 3 })) ∧
    (s.cur.trapped = true → 190 < a.toNat → exec (.segld a g) s = .next (takeTrap s { cause := 3 })) ∧
    (s.cur.trapped = true → a.toNat ≤ 190 →
      segNarrows ((s.vdev s.curPly.vdev).launchSeg g.toNat) ⟨sreg s a.toNat, sreg s (a.toNat + 1)⟩ = false →
      exec (.segld a g) s = .next (takeTrap s { cause := 3, detail := 2 })))

/-- EXIT (R148). Of the only fragment of a strand, with no path deferred and no lanes held: the strand has exited and left the trap level,
nothing else of memory or of other strands changes, and when every other strand has exited the ply is exiting and its exit is due. Beside another fragment:
its lanes leave the strand or, in quad mode, become helper lanes of the other where their quad is active (R38), and a child is released and takes the
parent's parent (R34). With a path deferred: that becomes a fragment in the entry, with the bank saved at its split (R35).
The model's own: the parent and the join of such a path (log 82). -/
def Obligations.ExitResults : Prop :=
  (∀ (s : State) (j : Nat) (g : Frag), s.livePly s.iss.ply = true → j ≠ s.iss.frag →
    (s.cur.frags = [(s.iss.frag, s.curFrag), (j, g)] ∨ s.cur.frags = [(j, g), (s.iss.frag, s.curFrag)]) → s.curFrag.stack = [] → g.stack = [] →
    s.curFrag.held = [] → g.held = [] → g.parent ≠ some j →
    ∃ t h, exec .exit s = .next t ∧ t.cur.frags = [(j, h)] ∧ t.cur.exited = false ∧ t.cur.trapped = false ∧
      h = { g with parent := h.parent, join := h.join, helper := h.helper } ∧
      h.helper = (if (s.reel s.curPly.reel).desc.quad then g.helper ||| s.curFrag.mask else g.helper &&& ~~~s.curFrag.mask) &&&
        quadsOf g.mask &&& ~~~g.mask ∧
      (h.parent, h.join) = (if g.parent = some s.iss.frag then (s.curFrag.parent, none) else (g.parent, g.join)) ∧
      t.cur.s = s.cur.s ∧ t.cur.v = s.cur.v ∧ t.cur.p = s.cur.p ∧ t.cur.fpst = s.cur.fpst ∧
      (∀ k, k ≠ s.iss.strand → t.curPly.strand k = s.curPly.strand k) ∧ SameMemory s t) ∧
  (∀ (s : State) (d : Deferred), s.livePly s.iss.ply = true → s.cur.frags = [(s.iss.frag, s.curFrag)] → s.curFrag.stack = [d] → s.curFrag.held = [] →
    s.curFrag.parent = none →
    ∃ t h, exec .exit s = .next t ∧ t.cur.frags = [(s.iss.frag, h)] ∧ t.cur.exited = false ∧ t.cur.trapped = false ∧
      h.pc = d.pc ∧ h.mask = d.mask ∧ h.bank = d.bank ∧ h.join = none ∧ h.parent = none ∧ h.stack = [] ∧ h.held = [] ∧ h.wait = .none ∧
      h.helper = (if (s.reel s.curPly.reel).desc.quad then d.helper else d.helper &&& ~~~s.curFrag.mask) &&& quadsOf d.mask &&& ~~~d.mask ∧
      t.cur.s = s.cur.s ∧ t.cur.v = s.cur.v ∧ t.cur.p = s.cur.p ∧ t.cur.fpst = s.cur.fpst ∧ SameMemory s t) ∧
  ∀ s : State, s.livePly s.iss.ply = true → s.cur.frags = [(s.iss.frag, s.curFrag)] → s.curFrag.stack = [] → s.curFrag.held = [] →
    ∃ t, exec .exit s = .next t ∧
      t.cur.frags = [] ∧ t.cur.exited = true ∧ t.cur.trapped = false ∧
      t.cur.s = s.cur.s ∧ t.cur.v = s.cur.v ∧ t.cur.p = s.cur.p ∧ t.cur.fpst = s.cur.fpst ∧
      (∀ k, k ≠ s.iss.strand → t.curPly.strand k = s.curPly.strand k) ∧ SameMemory s t ∧
      (t.curPly.strands.all (fun k => k.2.exited) = true → t.curPly.exiting = true ∧ .plyExit s.iss.ply ∈ t.engine)

/-- ABORT (R154): the ply is contained with a record that carries the code and the value, at any level; it is no trap. -/
def Obligations.AbortResults : Prop :=
  ∀ (a : BitVec 8) (c : BitVec 10) (s : State), isSource a → s.livePly s.iss.ply = true →
    ∃ r, exec (.abort a c) s = .next (halt (contain s s.iss.ply r)) ∧ r.severity = 2 ∧ r.markval = sourceOf s a ∧ r.markcode = c.toNat ∧
      r.pc = s.iss.w.toNat ∧ (contain s s.iss.ply r).livePly s.iss.ply = false

/-! ## Memory (R60, R65, R103, R134 to R138, R180 to R193, R236, R343, R373) -/

/-- SLD and SST (R134, R135): an access that passes its checks, is translated and read or may be written completes; one whose address fails a
check of R65 traps with no effect; one whose translation fails, or for whose entry the log has no room, stays at the instruction.
The model's own: what stays at the instruction and when a load takes its bytes (log 17, 19, 28). -/
def Obligations.ScalarMemoryResults : Prop :=
  ∀ (i : Instr) (x : ScalarAccess) (s : State), scalarAccess i = some x → (if x.load then isDest x.d else isSource x.d) → baseOk s x.a →
    (∀ q, checkOne s (baseOf s x.a) x.off x.acc = .error (.trap q) → exec i s = .next (takeTrap s q)) ∧
    ∀ ea, checkOne s (baseOf s x.a) x.off x.acc = .ok ea →
      (x.load = true →
        (∀ p va t b u, translateOne s (boundOf s x.a) x.off ea 0 0 = .ok (p, va, t) → readOne t ea p x.n (ptrPol ea) true = .ok (b, u) →
          exec i s = .next (advance (destOf u x.d (BitVec.ofNat 64 (natLE b)))) ∧ ReadKept s u) ∧
        (∀ t, translateOne s (boundOf s x.a) x.off ea 0 0 = .error (.stay t) → exec i s = .next (halt t))) ∧
      (x.load = false →
        (∀ p va t, translateOne s (boundOf s x.a) x.off ea 1 1 = .ok (p, va, t) → writeHeld t s.iss.ply x.n p = false →
          (∀ v, storeReady t [p] = .ok v → let w := endForTag v s.iss.ply (ptrTag ea)
            ∃ u, exec i s = .next (advance u) ∧
              u = writePlace w (ctxOf w) p va (ptrPol ea) (cellsOf (ptrAddr ea % 128) (bytesLE (sourceOf s x.d).toNat x.n)) ∧ StoreKept s u) ∧
          ∀ v, storeReady t [p] = .error (.stay v) → exec i s = .next (halt v)) ∧
        (∀ t, translateOne s (boundOf s x.a) x.off ea 1 1 = .error (.stay t) → exec i s = .next (halt t)))

/-- SLD and SST in the ply's own scratch: the value loaded, zero-extended; the bytes stored, and every other byte of every memory as before. -/
def Obligations.ScalarScratchResults : Prop :=
  ∀ (i : Instr) (x : ScalarAccess) (s : State) (A : Nat), scalarAccess i = some x → baseOk s x.a →
    inOwnScratch s (baseOf s x.a) x.off x.n A (if x.load then 0 else 1) →
    (x.load = true → isDest x.d →
      exec i s = .next (advance (destOf s x.d (BitVec.ofNat 64 (natLE (Mem.read s.curPly.scratch A x.n)))))) ∧
    (x.load = false → isSource x.d → rangeRead s s.iss.ply s.iss.ply A x.n = false → ∃ u, exec i s = .next (advance u) ∧
      (∀ k, Mem.byte (u.ply s.iss.ply).scratch k =
        if A ≤ k ∧ k < A + x.n then byteOf (sourceOf s x.d) (k - A) else Mem.byte s.curPly.scratch k) ∧
      (∀ q, q ≠ s.iss.ply → (u.ply q).scratch = (s.ply q).scratch) ∧ u.home = s.home ∧ u.hbm = s.hbm ∧ StoreKept s u)

/-- A store to device memory whose log has room is seen by its own ply at the bytes stored and nowhere else, and performs nothing at the
homes (R236): SST, and the lanes of ST and STB of any size but a nibble, of which the last in lane order stands (R182). A walk gives pages whose
frame keeps the low bits (R255).
The model's own: the log as the model keeps it (log 3, 4, 28). -/
def Obligations.DeviceStoreSeen : Prop :=
  (∀ (i : Instr) (x : ScalarAccess) (s t : State) (ea va : W64) (pa : Nat), scalarAccess i = some x → x.load = false → isSource x.d →
    baseOk s x.a → checkOne s (baseOf s x.a) x.off x.acc = .ok ea → ptrTag ea = 0 →
    translateOne s (boundOf s x.a) x.off ea 1 1 = .ok (.hbm pa, va, t) → pa % 128 = ptrAddr ea % 128 → LogRoom t t.curCore 1 →
    ∃ u, exec i s = .next (advance u) ∧
      (∀ j, j < x.n → byteSeen u s.curCore s.iss.ply (pa + j) = byteOf (sourceOf s x.d) j) ∧
      (∀ a, (a < pa ∨ pa + x.n ≤ a) → byteSeen u s.curCore s.iss.ply a = byteSeen t s.curCore s.iss.ply a) ∧
      u.home = t.home ∧ u.hbm = t.hbm ∧ ∀ q, (u.ply q).scratch = (s.ply q).scratch) ∧
  (∀ (i : Instr) (x : LaneStore) (s u v : State) (ats : List LaneAt) (g : Stage2), laneStore s i = some x → ptrTag x.base = 0 →
    checkLanes s (ctxOf s) x.base (storeAcc (sizeBytes x.size)) x.ls = .ok ats → translateLanes s (ctxOf s) x.bound 1 ats = (g, v) →
    (∀ e ∈ g.tos, ∃ pa, e.place = .hbm pa ∧ pa % 128 = ptrAddr e.ea % 128) → LogRoom v v.curCore g.tos.length →
    storeLanes s x.base x.bound (storeAcc (sizeBytes x.size)) x.ls (storeCellsOf s x.size x.d x.nib) = .ok ([], u) →
    (x.size ≠ 5 → ∀ e ∈ g.tos, ∀ pa j, e.place = .hbm pa → j < sizeBytes x.size →
      (∀ h ∈ g.tos, ∀ pb, h.place = .hbm pb → e.lane < h.lane → pa + j < pb ∨ pb + sizeBytes x.size ≤ pa + j) →
      byteSeen u s.curCore s.iss.ply (pa + j) = byteOf (vreg s (if j < 8 then x.d else x.d + 1) e.lane) (j % 8)) ∧
    (∀ a, (∀ e ∈ g.tos, ∀ pa, e.place = .hbm pa → a < pa ∨ pa + sizeBytes x.size ≤ a) →
      byteSeen u s.curCore s.iss.ply a = byteSeen v s.curCore s.iss.ply a) ∧
    u.home = v.home ∧ u.hbm = v.hbm ∧ ∀ q, (u.ply q).scratch = (s.ply q).scratch) ∧
  ∀ (s : State) (v va : Nat) (p : Page), walk s v va = .page p → p.frame % pageBytes p.k = 0 ∧ p.vbase % pageBytes p.k = 0

/-- LD, LD.ACQ, LDB, ST, STB and ST.REL (R182 to R186): the lanes written, the lanes that park, the trap of a lane that fails a check.
The model's own: when loads take their bytes, lanes past a record, helper lanes alone, the publication of a release that has waited (log 17, 28, 29, 80, 84). -/
def Obligations.VectorMemoryResults : Prop :=
  (∀ (i : Instr) (x : LaneLoad) (s : State), laneLoad s i = some x → laneOperandsOk s i →
    (∀ q, loadLanes s x.base x.bound (loadAcc (sizeBytes x.size)) x.ls = .error (.trap q) → exec i s = .next (takeTrap s q)) ∧
    (∀ t, loadLanes s x.base x.bound (loadAcc (sizeBytes x.size)) x.ls = .error (.stay t) → exec i s = .next (halt t)) ∧
    ∀ bs fs u, loadLanes s x.base x.bound (loadAcc (sizeBytes x.size)) x.ls = .ok (bs, fs, u) →
      ReadKept s u ∧
      (fs = [] → exec i s = .next (advance (x.after (writeLoad u x.size x.d x.m bs)))) ∧
      (fs ≠ [] → ∀ t, t = writeLoad u x.size x.d (x.m &&& ~~~(maskOf (fs.map (fun f => f.lane)))) bs →
        exec i s = .next (halt (parkFault t (faultInfo (ctxOf t) 0 fs false) (some (maskOf (fs.map (fun f => f.lane)))))))) ∧
  (∀ (i : Instr) (x : LaneStore) (s : State), laneStore s i = some x → laneOperandsOk s i →
    (∀ q, storeLanes s x.base x.bound (storeAcc (sizeBytes x.size)) x.ls (storeCellsOf s x.size x.d x.nib) = .error (.trap q) →
      exec i s = .next (takeTrap s q)) ∧
    ∀ fs u, storeLanes s x.base x.bound (storeAcc (sizeBytes x.size)) x.ls (storeCellsOf s x.size x.d x.nib) = .ok (fs, u) →
      StoreKept s u ∧ (fs = [] → exec i s = .next (advance u)) ∧
      (fs ≠ [] → exec i s = .next (halt (parkFault u (faultInfo (ctxOf u) 1 fs false) (some (maskOf (fs.map (fun f => f.lane)))))))) ∧
  ∀ (d : BitVec 6) (a : BitVec 8) (o : BitVec 6) (sc : BitVec 3) (z : BitVec 2) (s t v : State) (g : Stage2),
    laneOperandsOk s (.stRel d a o sc z) →
    let n := ordSize z.toNat false
    let ls := byteOffsets s (toPerform s (activeLanes s 0)) o.toNat
    storeTargets s (baseOf s a) (boundOf s a) (storeAcc (sizeBytes n)) ls = .ok (g, t) → g.fails = [] →
    releaseHere (endProtection t s.iss.ply 8) sc.toNat = .ok v →
    let u := storeAll v (baseOf s a) g (storeCellsOf v n d.toNat (fun _ => 0))
    exec (.stRel d a o sc z) s = .next (advance
      (if sc = 0 then u else if t.curFrag.fence.isSome then publish u u.curCore else joinPublication u u.curCore))

/-- Loads of lanes from the ply's own scratch: the register of every lane takes the bytes at its own address, .B, .H and .W with their sign, .D whole, .Q in
a pair, .NB, .NH and .NW with zeros (R184); other lanes and registers, and memory, stay.
The model's own: when loads take their bytes, helper lanes alone (log 28, 29, 84). -/
def Obligations.VectorScratchLoads : Prop :=
  ∀ (i : Instr) (x : LaneLoad) (s : State) (A : Nat → Nat), laneLoad s i = some x → laneOperandsOk s i →
    (∀ e ∈ x.ls, e.pre = none ∧ inOwnScratch s x.base e.off (sizeBytes x.size) (A e.lane) 0) →
    ∃ u, exec i s = .next (advance (x.after u)) ∧ SameButStrand s u ∧ SameMemory s u ∧
      (∀ r l, l < 32 → (inMask x.m l = false ∨ (r ≠ x.d ∧ (x.size ≠ 4 ∨ r ≠ x.d + 1))) → vreg u r l = vreg s r l) ∧
      ∀ e ∈ x.ls, inMask x.m e.lane = true →
        let b := Mem.read s.curPly.scratch (A e.lane) (sizeBytes x.size)
        let n := natLE b
        vreg u x.d e.lane = (match x.size with
          | 0 => (BitVec.ofNat 8 n).signExtend 64
          | 1 => (BitVec.ofNat 16 n).signExtend 64
          | 2 => (BitVec.ofNat 32 n).signExtend 64
          | 4 => BitVec.ofNat 64 (natLE (b.take 8))
          | _ => BitVec.ofNat 64 n) ∧
        (x.size = 4 → vreg u (x.d + 1) e.lane = BitVec.ofNat 64 (natLE (b.drop 8)))

/-- SLR.D and SSC.D (R136, R137): protection ends, the sector is flushed, the operation is performed at its home or bank, and the reservation
is set, or tested and taken. In the ply's own scratch, where nothing is to be flushed: the value, the reservation and the bytes.
The model's own: the order of checks and the end of protection (log 19). -/
def Obligations.ReservationResults : Prop :=
  (∀ (d a : BitVec 8) (o : BitVec 9) (s t v u : State) (ea va : W64) (p : Place) (b : Bytes), isDest d → baseOk s a →
    checkOne s (baseOf s a) (8 * o.toInt) ⟨[0, 2], false, 8, 8, [0, 1, 2]⟩ = .ok ea →
    translateOne ((endProtection s s.iss.ply 10).modCurFrag (fun f => { f with resv := none })) (boundOf s a) (8 * o.toInt) ea 0 0 =
      .ok (p, va, t) →
    flushFor t p = .ok v → directRead (redsFirst v p) p 8 = (b, none, u) →
    exec (.slrD d a o) s = .next (advance (destOf
      (u.modCurFrag (fun f => { f with resv := some { sector := sectorOf p, addr := BitVec.ofNat 64 (ea.toNat / 128 * 128), clock := u.clock } }))
      d (BitVec.ofNat 64 (natLE b))))) ∧
  (∀ (d a : BitVec 8) (b : BitVec 6) (s t v : State) (ea va : W64) (p : Place), isDest d → isSource a →
    checkOne s (sourceOf s a) 0 ⟨[1, 2], true, 8, 8, [0, 1, 2]⟩ = .ok ea →
    translateOne (endProtection s s.iss.ply 10) none 0 ea 1 1 = .ok (p, va, t) → writeHeld t s.iss.ply 8 p = false →
    flushFor t p = .ok v →
    (v.curFrag.resv.map (fun r => r.sector) = some (sectorOf p) →
      exec (.sscD d a b) s = .next (advance (destOf
        ((directWrite (redsFirst v p) p (bytesLE (sreg s b.toNat).toNat 8)).modCurFrag (fun f => { f with resv := none })) d 1))) ∧
    (v.curFrag.resv.map (fun r => r.sector) ≠ some (sectorOf p) →
      exec (.sscD d a b) s = .next (advance (destOf (v.modCurFrag (fun f => { f with resv := none })) d 0)))) ∧
  ∀ (d a : BitVec 8) (o : BitVec 9) (b : BitVec 6) (s : State) (A : Nat), isDest d →
    (baseOk s a → inOwnScratch s (baseOf s a) (8 * o.toInt) 8 A 0 → bit (Tab.get {} s.cur.g 1).ctl 59 = true →
      ∃ u, exec (.slrD d a o) s = .next (advance (destOf u d (BitVec.ofNat 64 (natLE (Mem.read s.curPly.scratch A 8))))) ∧
        u.curFrag.resv.map (fun r => r.sector) = some (.scratch s.iss.ply (A / 128 * 128)) ∧
        (∀ q, (u.ply q).scratch = (s.ply q).scratch) ∧ ReservationsOnly s u) ∧
    (isSource a → inOwnScratch s (sourceOf s a) 0 8 A 1 → bit (Tab.get {} s.cur.g 1).ctl 59 = true →
      rangeRead s s.iss.ply s.iss.ply A 8 = false →
      (s.curFrag.resv.map (fun r => r.sector) = some (.scratch s.iss.ply (A / 128 * 128)) →
        ∃ u, exec (.sscD d a b) s = .next (advance (destOf u d 1)) ∧
          (∀ k, Mem.byte (u.ply s.iss.ply).scratch k =
            if A ≤ k ∧ k < A + 8 then byteOf (sreg s b.toNat) (k - A) else Mem.byte s.curPly.scratch k) ∧
          (∀ q, q ≠ s.iss.ply → (u.ply q).scratch = (s.ply q).scratch) ∧ u.home = s.home ∧ u.curFrag.resv = none ∧ ReservationsOnly s u) ∧
      (s.curFrag.resv.map (fun r => r.sector) ≠ some (.scratch s.iss.ply (A / 128 * 128)) →
        ∃ u, exec (.sscD d a b) s = .next (advance (destOf u d 0)) ∧
          (∀ q, (u.ply q).scratch = (s.ply q).scratch) ∧ u.home = s.home ∧ u.curFrag.resv = none ∧ ReservationsOnly s u))

/-- ATOM, RED and the home router's step (R103 to R105, R187 to R189): each lane's step in ascending lane order; at scratch the old value comes
back and the table of R188 gives the new one; a RED sends its requests, and a request is performed at the home behind the earlier ones of its
strands to common bytes, or merged on its way with another addition.
The model's own: the order of merged requests (log 19, 25, 79). -/
def Obligations.AtomicResults : Prop :=
  (∀ (d : BitVec 6) (a : BitVec 8) (o : BitVec 6) (k : BitVec 5) (s t : State) (tos : List LaneTo), Instr.wellFormed (.atom d a o k) = true →
    o.toNat < 8 * s.cur.blocks → d.toNat < 8 * s.cur.blocks → (isCas k.toNat = true → d.toNat + 1 < 64 ∧ d.toNat + 1 < 8 * s.cur.blocks) →
    baseOk s a → atomLanes s a o.toNat k.toNat = .ok (tos, [], t) → ∀ olds u, atomSteps t k.toNat d.toNat tos = (olds, [], u) →
      exec (.atom d a o k) s = .next (advance (setVecLanes u d.toNat (maskOf (olds.map (fun x => x.1)))
        (fun l => ((olds.find? (fun x => x.1 == l)).map (fun x => x.2)).getD 0))) ∧ ReservationsOnly s u) ∧
  (∀ (d : BitVec 6) (a : BitVec 8) (o : BitVec 6) (k : BitVec 5) (s t : State) (tos : List LaneTo), Instr.wellFormed (.red d a o k) = true →
    o.toNat < 8 * s.cur.blocks → d.toNat < 8 * s.cur.blocks → baseOk s a → atomLanes s a o.toNat k.toNat = .ok (tos, [], t) →
    ∃ u, exec (.red d a o k) s = .next (advance u) ∧ ReservationsOnly s u ∧
      (amoFadd k.toNat = false → ∀ at0 : LaneTo → Nat, (∀ e ∈ tos, e.place = .hbm (at0 e)) →
        u.home = t.home ∧ (∀ q, (u.ply q).scratch = (s.ply q).scratch) ∧
        u.reds.map (fun r => (r.op, r.pa, r.val.toNat, r.va)) = t.reds.map (fun r => (r.op, r.pa, r.val.toNat, r.va)) ++
          tos.map (fun e => (k.toNat, at0 e, (vreg s d.toNat e.lane).toNat % 2 ^ (8 * amoBytes k.toNat), e.va)))) ∧
  (∀ (d : BitVec 6) (a : BitVec 8) (o : BitVec 6) (k : BitVec 5) (s : State) (l A : Nat), l < 32 → k.toNat < 27 →
    toPerform s s.curFrag.mask = laneBit l → o.toNat < 8 * s.cur.blocks → d.toNat < 8 * s.cur.blocks → baseOk s a →
    inOwnScratch s (baseOf s a) (vreg s o.toNat l).toInt (amoBytes k.toNat) A 2 →
    rangeRead s s.iss.ply s.iss.ply A (amoBytes k.toNat) = false →
    let n := amoBytes k.toNat
    let old := natLE (Mem.read s.curPly.scratch A n)
    let new := atomicResult k.toNat old ((vreg s d.toNat l).toNat % 2 ^ (8 * n)) ((vreg s (d.toNat + 1) l).toNat % 2 ^ (8 * n))
    let after (u : State) : Prop := Mem.read (u.ply s.iss.ply).scratch A n = bytesLE new n ∧
      (∀ j, (j < A ∨ A + n ≤ j) → Mem.byte (u.ply s.iss.ply).scratch j = Mem.byte s.curPly.scratch j) ∧
      (∀ q, q ≠ s.iss.ply → (u.ply q).scratch = (s.ply q).scratch) ∧ u.home = s.home
    ((isCas k.toNat = true → d.toNat + 1 < 64 ∧ d.toNat + 1 < 8 * s.cur.blocks) →
      ∃ u, exec (.atom d a o k) s = .next (advance u) ∧ after u ∧
        ∀ r j, j < 32 → vreg u r j = if r = d.toNat ∧ j = l then BitVec.ofNat 64 old else vreg s r j) ∧
    (isCas k.toNat = false → k.toNat ≠ 16 → k.toNat ≠ 17 → ∃ u, exec (.red d a o k) s = .next (advance u) ∧ after u ∧ ReservationsOnly s u)) ∧
  ∀ (id : Nat) (s : State) (r : RedOp), s.reds.find? (fun q => q.id == id) = some r →
    let t := (redsBefore s r).foldl (fun t q => performBehind t q.id s.reds.length) s
    (redMates t r = [] → exec (.homeAtomic id) s = .next (performRed t r)) ∧
    (redMates t r ≠ [] → (∃ q ∈ redMates t r, exec (.homeAtomic id) s = .next (mergeRed t r q)) ∨
      exec (.homeAtomic id) s = .next (performRed { t with draws := t.draws + 1 } r)) ∧
    (amoFadd r.op = false → redsBefore s r = [] → s.flips = [] → homePoisoned s (r.pa / 128) = false → r.pa % amoBytes r.op = 0 → r.op < 27 →
      ∃ u, exec (.homeAtomic id) s = .next u ∧ (∀ q, q ∈ u.reds ↔ q ∈ s.reds ∧ q.id ≠ r.id) ∧ ReservationsOnly s u ∧
        Mem.read u.home r.pa (amoBytes r.op) = bytesLE (atomicResult r.op (natLE (Mem.read s.home r.pa (amoBytes r.op)))
          (r.val.toNat % 2 ^ (8 * amoBytes r.op)) 0) (amoBytes r.op) ∧
        (HomesAgree s → ∀ a, (a < r.pa ∨ r.pa + amoBytes r.op ≤ a) → Mem.byte u.home a = Mem.byte s.home a))

/-- Fences (R190, R241, R243): an acquire is performed on the fragment's core; a release, which ends protection, leaves no ordinary entry of the
core unpublished, and at die scope and wider none at all; one at reel or system scope that is under way ends when it is performed.
The model's own: the log as the model keeps it, what a release waits for (log 4, 17, 80). -/
def Obligations.FenceResults : Prop :=
  ∀ (sc : BitVec 3) (a : BitVec 8) (s : State), isSource a →
    let m := (sourceOf s a).toNat % 16
    let b := coreBay s.curCore
    (canReplay s s.curCore sc.toNat m = true → exec (.fenceAcq sc a) s = .next (advance (acquire s s.curCore sc.toNat m))) ∧
    (canReplay s s.curCore sc.toNat m = false →
      exec (.fenceAcq sc a) s = .next (halt (s.modCurFrag (fun f => { f with wait := .held })))) ∧
    (∀ t, releaseHere (endProtection s s.iss.ply 8) sc.toNat = .error (.stay t) →
      exec (.fenceRel sc a) s = .next (halt t) ∧ exec (.fenceAr sc a) s = .next (halt t)) ∧
    (∀ t, releaseHere (endProtection s s.iss.ply 8) sc.toNat = .ok t →
      exec (.fenceRel sc a) s = .next (advance t) ∧
      (canReplay t t.curCore sc.toNat m = true → exec (.fenceAr sc a) s = .next (advance (acquire t t.curCore sc.toNat m))) ∧
      (canReplay t t.curCore sc.toNat m = false →
        exec (.fenceAr sc a) s = .next (halt (t.modCurFrag (fun f => { f with wait := .held })))) ∧
      ReservationsOnly s t ∧
      (1 ≤ sc.toNat → s.curFrag.fence = none → ∀ e ∈ (t.core s.curCore).log, e.held = true ∨ e.pub.isSome = true) ∧
      (2 ≤ sc.toNat → s.curFrag.fence = none → LogNumbered s →
        (∀ c ∈ bayCores b, ∀ e ∈ (s.core c).log, e.pub = none) → (∀ l ∈ (s.core s.curCore).l1, l.2.pins = []) →
        (∀ f ∈ (s.core s.curCore).fences, ∀ i ∈ f.reqs, i < s.fresh) →
        ∀ e ∈ (t.core s.curCore).log, e.held = true)) ∧
    (s.curFrag.fence = none → (sc = 0 ∨ (sc.toNat < 4 ∧ bayFenced s b = false)) →
      ∃ t, releaseHere (endProtection s s.iss.ply 8) sc.toNat = .ok t) ∧
    ∀ f, s.curFrag.fence = some f → f.met s = true → ∃ t, releaseHere (endProtection s s.iss.ply 8) sc.toNat = .ok t

/-- CMO and RGN (R45, R191 to R193): an empty range and the scratch spaces do nothing; a range in one sector has its operation performed there
at its level, CLEAN waiting while a release under way holds one of its entries back; RGN.OFF ends protection with bit 15, RGN.MARK stores the interval mark.
The model's own: checks before the first sector, the mark of a sector done (log 72). -/
def Obligations.MaintenanceResults : Prop :=
  (∀ (l a : BitVec 8) (b : BitVec 6) (s : State) (i : Instr), isSource a →
    i ∈ [Instr.cmoClean l a b, .cmoInv l a b, .cmoClinv l a b, .cmoPref l a b] →
    let n := (sreg s b.toNat).toNat
    let ptr := sourceOf s a
    (2 ^ 32 < n → exec i s = .next (takeTrap s { cause := 3, detail := 2 })) ∧
    (n ≤ 2 ^ 32 → (n = 0 ∨ bits ptr 60 4 = 1 ∨ bits ptr 60 4 = 2) → exec i s = .next (advance s)) ∧
    ∀ ea p va t, 0 < n → bits ptr 60 4 ≠ 1 → bits ptr 60 4 ≠ 2 → bits ptr 0 57 % 128 + n ≤ 128 → s.curFrag.unfinished = none →
      (l = 2 → bits ptr 60 4 ≠ 4 ∧ bits ptr 60 4 ≠ 5) →
      checkOne s (BitVec.ofNat 64 (ptr.toNat - bits ptr 0 57 % 128)) 0 ⟨[0], false, 128, 128, [0, 3, 4, 5]⟩ = .ok ea →
      translateOne (s.modCurFrag (fun f => { f with unfinished := some 0 })) none 0 ea 0 7 = .ok (p, va, t) →
      let done (u : State) : Host.Outcome State Fault Refusal := .next (advance (u.modCurFrag (fun f => { f with unfinished := some 1 })))
      let c := cleanSector t p l.toNat
      let waits : Host.Outcome State Fault Refusal := .next (halt (c.modCurFrag (fun f => { f with wait := .held })))
      (cleaned c p = true → exec (.cmoClean l a b) s = done c ∧ exec (.cmoClinv l a b) s = done (invSector c p l.toNat)) ∧
      (cleaned c p = false → exec (.cmoClean l a b) s = waits ∧ exec (.cmoClinv l a b) s = waits) ∧
      exec (.cmoInv l a b) s = done (invSector t p l.toNat) ∧
      (∀ u, prefSector t p l.toNat (ptrPol ea) = .ok u → exec (.cmoPref l a b) s = done u) ∧
      ReservationsOnly t c ∧ (∀ q, invSector t p l.toNat = q → q.plies = t.plies)) ∧
  ∀ (a : BitVec 8) (i : BitVec 10) (s : State),
    (s.livePly s.iss.ply = true → ∃ t, exec .rgnOff s = .next (advance t) ∧
      t.curPly.cause = s.curPly.cause ||| 0x80 ∧ t.curPly.prot = false ∧ (s.curPly.prot = true → t.curPly.journal = [] ∧
        ∀ e ∈ (t.core s.curCore).log, e.ply = s.iss.ply → e.held = false) ∧
      ReservationsOnly s t ∧ SameMemory s t) ∧
    (isSource a → exec (.rgnMark a i) s = .next (advance (s.modCurPly (fun y => { y with markCode := i, markVal := sourceOf s a }))))

/-- The operations on memory keep its canonical form (addresses rising, no entry equal to 0, which an unlisted address reads as), the agreement
of clean sectors with HBM (R10), and the numbering of log entries.
The model's own: the canonical form, the agreement of homes and HBM, the numbering (log 3, 4). -/
def Obligations.MemoryCanonical : Prop :=
  let ok (s : State) : Prop := Memory.wf s.home = true ∧ Memory.wf s.hbm = true ∧ Memory.wf s.ws = true ∧
    ∀ p, Memory.wf (s.ply p).scratch = true ∧ Memory.wf (s.ply p).tiles = true
  (∀ s : State, ok s →
    (∀ pa pol b, ok (homeWriteIn s pa pol b)) ∧ (∀ sec pol c po, ok (homeDrain s sec pol c po)) ∧ (∀ sec, ok (l2Clean s sec) ∧ ok (l2Drop s sec)) ∧
    (∀ sec prio, ok (l2Fill s sec prio)) ∧ (∀ pa pol, ok (homeTouch s pa pol)) ∧ (∀ o l, ok (wsWrite s o l)) ∧ (∀ p o b, ok (scrWrite s p o b)) ∧
    (∀ r, ok (performRed s r)) ∧ (∀ c n, ok (drainEntry s c n)) ∧
    ∀ p sp sec va pol cells po, ok (logStore s p sp sec va pol cells po)) ∧
  (∀ s : State, HomesAgree s →
    (∀ pa pol, HomesAgree (homeTouch s pa pol)) ∧ (∀ sec, HomesAgree (l2Clean s sec) ∧ HomesAgree (l2Drop (l2Clean s sec) sec)) ∧
    (∀ pa pol (b : Bytes), pa % 128 + b.length ≤ 128 → HomesAgree (homeWriteIn s pa pol b)) ∧
    ∀ sec pol (c : Tab (Byte × Byte)) po, (∀ e ∈ c, e.1 < 128) → HomesAgree (homeDrain s sec pol c po)) ∧
  ∀ s : State, LogNumbered s →
    (∀ p sp sec va pol cells po, LogNumbered (logStore s p sp sec va pol cells po)) ∧ (∀ c n, LogNumbered (drainEntry s c n)) ∧
    ∀ c, LogNumbered (publish s c)

/-! ## The matrix engine (R59, R76, R99 to R102, R209 to R221) -/

/-- The engine accepts MMA, TLD, TST and TZERO (R209, R210, R215, R218 to R221): the operation is under way in the running batch; TZERO and TLD have
written their tile rows, TST its scratch rows, and nothing else of tiles, scratch or registers has changed.
The model's own: that rows are written and operands copied at acceptance (log 31, 32). -/
def Obligations.TileIssueResults : Prop :=
  let accepted (s u : State) (kind tile : Nat) (a b : W64) (md : Nat) : Prop :=
    ∃ o : TileOp, u.curPly.tileOps = s.curPly.tileOps ++ [o] ∧ o.kind = kind ∧ o.tile = tile ∧ o.a = a ∧ o.b = b ∧ o.md = md ∧
      o.batch = s.curPly.batch.toNat ∧ o.strand = s.iss.strand ∧ o.pc = s.iss.w ∧
      (if kind = 0 then Instr.mmaComplete o.id else .tileOperationComplete o.id) ∈ u.engine
  let idle (s : State) (t : Nat) : Prop := ∀ o ∈ s.curPly.tileOps, t ∉ tilesOf o
  (∀ (t : BitVec 4) (s : State), s.livePly s.iss.ply = true → t.toNat < s.curPly.ntile → idle s t.toNat →
    ∃ u, exec (.tzero t) s = .next (advance u) ∧ accepted s u 3 t.toNat 0 0 0 ∧ ReservationsOnly s u ∧
      (∀ k, Mem.byte u.curPly.tiles k =
        if 65536 * t.toNat ≤ k ∧ k < 65536 * t.toNat + 65536 then 0 else Mem.byte s.curPly.tiles k) ∧
      (∀ q, (u.ply q).scratch = (s.ply q).scratch) ∧ u.home = s.home) ∧
  (∀ (t : BitVec 4) (a b : BitVec 8) (s : State) (n st r0 : Nat) (rows : List (Nat × Nat)), s.livePly s.iss.ply = true → isSource a → isSource b →
    t.toNat < s.curPly.ntile → idle s t.toNat → rowControl (sourceOf s b) = .ok (n, st, r0) → s.flips = [] →
    (tileRows s (sourceOf s a) n st false = .ok rows → (∀ x ∈ rows, (s.ply x.1).scrPoison = []) →
      ∃ u, exec (.tld t a b) s = .next (advance u) ∧ accepted s u 1 t.toNat (sourceOf s a) (sourceOf s b) 0 ∧ ReservationsOnly s u ∧
        (∀ r q o, rows[r]? = some (q, o) → ∀ j, j < 512 →
          Mem.byte u.curPly.tiles (65536 * t.toNat + 512 * (r0 + r) + j) = Mem.byte (s.ply q).scratch (o + j)) ∧
        (∀ k, (k < 65536 * t.toNat + 512 * r0 ∨ 65536 * t.toNat + 512 * (r0 + n) ≤ k) → Mem.byte u.curPly.tiles k = Mem.byte s.curPly.tiles k) ∧
        (∀ q, (u.ply q).scratch = (s.ply q).scratch) ∧ u.home = s.home) ∧
    (tileRows s (sourceOf s a) n st true = .ok rows → (∀ x ∈ rows, rangeRead s s.iss.ply x.1 x.2 512 = false) →
      (∀ x ∈ s.curPly.bad, x.kind ≠ 6) → rows.Pairwise (fun x y => x.1 ≠ y.1 ∨ x.2 + 512 ≤ y.2 ∨ y.2 + 512 ≤ x.2) →
      ∃ u, exec (.tst t a b) s = .next (advance u) ∧ accepted s u 2 t.toNat (sourceOf s a) (sourceOf s b) 0 ∧ ReservationsOnly s u ∧
        (∀ r q o, rows[r]? = some (q, o) → ∀ j, j < 512 →
          Mem.byte (u.ply q).scratch (o + j) = Mem.byte s.curPly.tiles (65536 * t.toNat + 512 * (r0 + r) + j)) ∧
        (∀ q k, (∀ x ∈ rows, x.1 = q → k < x.2 ∨ x.2 + 512 ≤ k) → Mem.byte (u.ply q).scratch k = Mem.byte (s.ply q).scratch k) ∧
        (∀ q, (u.ply q).tiles = (s.ply q).tiles) ∧ u.home = s.home)) ∧
  ∀ (t : BitVec 4) (a b : BitVec 8) (m : BitVec 3) (s : State), s.livePly s.iss.ply = true → isSource a → isSource b →
    let da := matDesc (sourceOf s a)
    let db := matDesc (sourceOf s b)
    matDescOk da false s.curPly.scrSize = true → matDescOk db (!(m.getLsbD 1)) s.curPly.scrSize = true → da.k = db.k →
    pairFormats da.code db.code ≠ none →
    (da.code = 6 → t.toNat % 2 = 0 ∧ t.toNat + 1 < s.curPly.ntile ∧ idle s (t.toNat + 1)) → t.toNat < s.curPly.ntile → idle s t.toNat →
    s.flips = [] → s.curPly.scrPoison = [] →
    ∃ u, exec (.mma t a b m) s = .next (advance u) ∧ accepted s u 0 t.toNat (sourceOf s a) (sourceOf s b) m.toNat ∧ ReservationsOnly s u ∧
      (∀ q, (u.ply q).scratch = (s.ply q).scratch ∧ (u.ply q).tiles = (s.ply q).tiles) ∧ u.home = s.home

/-- MMA_COMPLETE writes every element of the accumulator with the sums of R99 to R102 over the operands as the engine read them, and raises
their flags; TILE_OPERATION_COMPLETE takes the operation out of the engine (R212, R221). MBATCH counts and gives the new count; MWAIT goes on once no operation of a batch up to its operand is under way (R221).
The model's own: that the operands are those of the acceptance, the nv flag, a sum that is zero and inexact (log 31, 32, 33, 88). -/
def Obligations.TileEndResults : Prop :=
  ((∀ (id p : Nat) (o : TileOp) (s : State) (kind : AccKind) (fa fb : MatFmt), s.livePly p = true → tileOpOf s id = some (p, o) →
    (s.core (s.ply p).core).resMx = false → s.flips = [] → (∀ x ∈ (s.ply p).bad, x.kind ≠ 6) →
    pairFormats (matDesc o.a).code (matDesc o.b).code = some kind → matFmt (matDesc o.a).code = some fa → matFmt (matDesc o.b).code = some fb →
    let elem (i j : Nat) : Nat × Flags :=
      mmaElem o.src (matDesc o.a) (matDesc o.b) (o.md.testBit 1) (o.md.testBit 2) fa fb kind
        (if o.md.testBit 0 then natLE (Mem.read (s.ply p).tiles (65536 * o.tile + kind.bytes * (128 * i + j)) kind.bytes) else 0) i j
    ∃ u, exec (.mmaComplete id) s = .next u ∧
      (∀ i j, i < 128 → j < 128 →
        Mem.read (u.ply p).tiles (65536 * o.tile + kind.bytes * (128 * i + j)) kind.bytes = bytesLE (elem i j).1 kind.bytes) ∧
      (∀ k, (k < 65536 * o.tile ∨ 65536 * o.tile + 16384 * kind.bytes ≤ k) → Mem.byte (u.ply p).tiles k = Mem.byte (s.ply p).tiles k) ∧
      (∀ b, b < 6 → (((u.ply p).strand o.strand).fpst.getLsbD b = true ↔
        (((s.ply p).strand o.strand).fpst.getLsbD b = true ∨ ∃ i j, i < 128 ∧ j < 128 ∧ (elem i j).2.getLsbD b = true))) ∧
      (∀ k, ((u.ply p).strand k) = { (s.ply p).strand k with fpst := ((u.ply p).strand k).fpst }) ∧
      (u.ply p).tileOps = (s.ply p).tileOps.filter (fun x => x.id != id) ∧ (u.ply p).scratch = (s.ply p).scratch ∧
      (∀ q, q ≠ p → u.ply q = s.ply q) ∧ u.home = s.home) ∧
  ∀ (id p : Nat) (o : TileOp) (s : State), tileOpOf s id = some (p, o) →
    exec (.tileOperationComplete id) s = .next (s.modPly p (fun y => { y with tileOps := y.tileOps.filter (fun x => x.id != id) }))) ∧
  (∀ (a : BitVec 8) (s : State),
    (isDest a → exec (.mbatch a) s =
      .next (advance (destOf (s.modCurPly (fun y => { y with batch := s.curPly.batch + 1 })) a (s.curPly.batch + 1)))) ∧
    (isSource a → (∀ o ∈ s.curPly.tileOps, (sourceOf s a).toNat < o.batch) → exec (.mwait a) s = .next (advance s)) ∧
    (isSource a → (∃ o ∈ s.curPly.tileOps, o.batch ≤ (sourceOf s a).toNat) →
      exec (.mwait a) s = .next (halt (s.modCurFrag (fun f => { f with wait := .held })))))

/-! ## The intersection unit (R222 to R227, R308 to R316) -/

/-- RAYQ, RAYQ.ANY and VISQ hand their lanes to the bay's unit, where they queue (R222); with no lane they do nothing.
The model's own: the order of its checks (log 34). -/
def Obligations.QueryIssueResults : Prop :=
  (∀ (i : Instr) (fn : Nat) (d a : BitVec 6) (b : BitVec 8) (p : BitVec 3) (s : State) (ea : W64),
    ((i = .rayq d a b p ∧ fn = 0) ∨ (i = .rayqAny d a b p ∧ fn = 1)) → s.livePly s.iss.ply = true → isSource b →
    (∀ r, ((d.toNat ≤ r ∧ r < d.toNat + 4) ∨ (a.toNat ≤ r ∧ r < a.toNat + 5)) → r < 64 ∧ r < 8 * s.cur.blocks) →
    checkOne s (sourceOf s b) 0 ⟨[0], false, 64, 64, [0, 3]⟩ = .ok ea →
    let m := toPerform s (activeLanes s p.toNat)
    (m = 0 → exec i s = .next (advance s)) ∧
    (m ≠ 0 → ∃ u, exec i s = .next (halt u) ∧ QueryHanded s u fn d.toNat a.toNat (sourceOf s b) m [])) ∧
  ∀ (d a : BitVec 6) (b : BitVec 8) (p : BitVec 3) (s t v : State) (ea va : W64) (pl : Place) (desc : Bytes), s.livePly s.iss.ply = true → isSource b →
    (∀ r, (r = d.toNat ∨ r = a.toNat ∨ r = a.toNat + 1) → r < 64 ∧ r < 8 * s.cur.blocks) →
    checkOne s (sourceOf s b) 0 ⟨[0], false, 64, 64, [0]⟩ = .ok ea → translateOne s none 0 ea 0 0 = .ok (pl, va, t) →
    readPlace t (ctxOf t) pl 64 (ptrPol ea) = (.got desc none false, v) → visOk desc = true →
    let m := toPerform s (activeLanes s p.toNat)
    (m = 0 → exec (.visq d a b p) s = .next (advance (endProtection v s.iss.ply 9))) ∧
    (m ≠ 0 → ∃ u, exec (.visq d a b p) s = .next (halt u) ∧ QueryHanded v u 2 d.toNat a.toNat (sourceOf s b) m desc)

/-- INTERSECTION_RESULT writes what the unit gives to the destination registers of the query's lanes and the fragment goes on (R222); an invalid ray is
not traced and gives a miss with status 2 (R223). Over records that keep their formats, RAYQ gives the hit with the least t of all the leaves that its traversal
reaches, ties to the lower instance and then the lower primitive, RAYQ.ANY one of them, and each a miss where none of them counts, in the layout of R224; children
are visited in ascending entry distance, ties to the lower index (R225). VISQ gives 2 for an invalid lane, 1 where zmin is at or before the stored depth
of a tile with a pixel of the box, and else 0; lanes that write 1 add 1 to their counter, those of one slot in one RED.ADD.I64 (R226).
The model's own: the statuses of refused records, the unit's ray tests, a query that never ends (log 34, 35). -/
def Obligations.QueryEndResults : Prop :=
  (∀ (id b : Nat) (q : Query) (s v : State) (es : List (Nat × LaneEnd)), headQuery s id = some (b, q) → q.fn < 3 →
    queryHeld (focus s q.ply q.strand q.frag) q = false →
    (focus s q.ply q.strand q.frag).curPly.resident = true →
    ((focus s q.ply q.strand q.frag).cur.trapped = true → (focus s q.ply q.strand q.frag).cur.trap.frag = q.frag) →
    queryLanes (focus s q.ply q.strand q.frag) q = (es, v) → (∀ e ∈ es, ∃ vs, e.2 = .regs vs none) →
    ∃ u, exec (.intersectionResult id) s = .next (advance u) ∧ u.curFrag.wait = .none ∧
      (∀ r l, l < 32 → (∀ e ∈ es, e.1 ≠ l) → vreg u r l = vreg v r l) ∧
      (∀ r l, l < 32 → (r < q.vd ∨ q.vd + (if q.fn = 2 then 1 else 4) ≤ r) → vreg u r l = vreg v r l) ∧
      (∀ l vs i, l < 32 → es.find? (fun e => e.1 == l) = some (l, .regs vs none) → i < (if q.fn = 2 then 1 else 4) →
        vreg u (q.vd + i) l = vs.getD i 0)) ∧
  (∀ (s : State) (q : Query) (l : Nat), rayInvalid (laneRay s q.va l) (vreg s (q.va + 4) l) = true →
    rayLane s q l = (.regs [0xFFFFFFFF7F800000, 0, 0xFFFFFFFF, 2] none, s)) ∧
  (∀ (s : State) (q : Query) (l : Nat) (rec : Todo → Bytes) (P : State → Prop),
    let ray := laneRay s q.va l
    let ctl := vreg s (q.va + 4) l
    let start : Todo := { root := q.ptr, inst := none, ray := ray, ref := 2 ^ 30 }
    let met (x : Todo) : Prop := Relation.ReflTransGen (visitsNext rec ctl) start x
    let hit (h : Hit) : Prop := ∃ x, met x ∧ x.ref / 2 ^ 30 = 2 ∧ leafHit x ctl (rec x) = some h
    rayInvalid ray ctl = false → P s → ReadsAs P l rec met → (∀ x, met x → visitSound rec x) → (rayLane s q l).1 ≠ .endless →
    (q.fn = 0 → ∃ n, (∃ h, hit h ∧ (rayLane s q l).1 = .regs (hitRegisters h n) none ∧ ∀ g, hit g → betterHit g h = false) ∨
      ((∀ h, ¬ hit h) ∧ (rayLane s q l).1 = .regs (missRegisters n) none)) ∧
    (q.fn = 1 → ∃ n, (∃ h, hit h ∧ (rayLane s q l).1 = .regs (hitRegisters h n) none) ∨
      ((∀ h, ¬ hit h) ∧ (rayLane s q l).1 = .regs (missRegisters n) none))) ∧
  (∀ (ray : List W32) (b : Bytes) (k : Frac), 0 < k.2 →
    let same (x : Frac × Nat) : Bool := leF x.1 k && leF k x.1
    (childOrder (entered ray b)).Perm (entered ray b) ∧ (childOrder (entered ray b)).Pairwise (fun x y => leF x.1 y.1 = true) ∧
      (childOrder (entered ray b)).filter same = (entered ray b).filter same) ∧
  (∀ (s : State) (q : Query) (l : Nat) (depth : Nat → W32) (P : State → Prop), P s →
    let box := vreg s q.va l
    let zmin := w32 (bits (vreg s (q.va + 1) l) 0 32)
    let slot := bits (vreg s (q.va + 1) l) 32 32
    let invalid := bits box 32 16 < bits box 0 16 ∨ bits box 48 16 < bits box 16 16 ∨ (f32 zmin).isNan = true ∨ fieldAt q.desc 0x20 4 ≤ slot
    (invalid → visLane s q l = (.regs [2] none, none, s)) ∧
    (¬ invalid → (∀ x y t, inBox q.desc box x y → P t → ∃ u, P u ∧
        unitRead t l (w64 (fieldAt q.desc 0x10 8)) (4 * tileAt q.desc x y : Nat) 4 = (.got (bytesLE (depth (tileAt q.desc x y)).toNat 4), u)) →
      ((∃ x y, inBox q.desc box x y ∧ f32le zmin (depth (tileAt q.desc x y)) = true) →
        (∀ t, P t → ∃ c u, visCounter t l q.desc slot = (.ok c, u)) → ∃ c u, visLane s q l = (.regs [1] none, some c, u)) ∧
      ((∀ x y, inBox q.desc box x y → f32le zmin (depth (tileAt q.desc x y)) = false) → ∃ u, visLane s q l = (.regs [0] none, none, u)))) ∧
  (∀ l : List (Nat × W64), ((visAdds l).map (fun e => e.1)).Nodup ∧ (∀ c ∈ l, ∃ e ∈ visAdds l, e.1 = c.1) ∧
    ∀ e ∈ visAdds l, e.2.2 = l.countP (fun c => c.1 == e.1)) ∧
  ∀ (s : State) (q : Query), q.fn = 2 → anyStop (visLanes s q).1 = false →
    let t := visFlush (visLanes s q).2.2 (visLanes s q).2.1
    (queryLanes s q).2.reds.map (fun r => (r.op, r.pa, r.val)) =
      t.reds.map (fun r => (r.op, r.pa, r.val)) ++ (visAdds (visLanes s q).2.1).map (fun a => (1, a.1, w64 a.2.2))

/-- EMIT queues at the bay's unit with its lanes (R222); the unit serves it in its turn: protection ends (R45), and it claims the next slots for its
lanes, or stalls in a buffer without room (R227, R314 to R316); a stall that times out gives status 2.
The model's own: a claim for all lanes or none, the order of its checks (log 34, 36). -/
def Obligations.EmitResults : Prop :=
  (∀ (d a : BitVec 6) (b : BitVec 8) (p : BitVec 3) (s : State) (ea : W64), s.livePly s.iss.ply = true → isSource b →
    (∀ r, (r = d.toNat ∨ r = a.toNat ∨ r = a.toNat + 1) → r < 64 ∧ r < 8 * s.cur.blocks) →
    checkOne s (sourceOf s b) 0 ⟨[0, 2], false, 64, 64, [0]⟩ = .ok ea →
    let m := toPerform s (activeLanes s p.toNat)
    (m = 0 → exec (.emit d a b p) s = .next (advance (endProtection s s.iss.ply 9))) ∧
    (m ≠ 0 → ∃ u, exec (.emit d a b p) s = .next (halt u) ∧ QueryHanded s u 3 d.toNat a.toNat ea m [])) ∧
  (∀ (id b pa : Nat) (q : Query) (desc : Bytes) (s t : State), headQuery s id = some (b, q) → q.fn = 3 →
    mayWake (focus s q.ply q.strand q.frag) = true → emitDesc (endProtection (servedBy s b q) q.ply 9) q.ptr = .ok (pa, desc, none, t) → emitOk desc = true →
    let n := (lanesOf q.lanes).length
    (bufferFull desc n →
      ∃ dl, exec (.intersectionResult id) s = .next (halt (t.modCurFrag (fun f => { f with wait := .emit q.vd q.va q.ptr q.lanes dl })))) ∧
    (¬ bufferFull desc n → ∀ es v u, emitLanes t desc (fieldAt desc 0x10 8) (lanesOf q.lanes) = .ok (es, v) →
      emitClaim v q.vd q.va pa q.ptr es (fieldAt desc 0x10 8) = .ok u → exec (.intersectionResult id) s = .next u)) ∧
  ∀ (p k f d a pa dl : Nat) (ea : W64) (m : W32) (desc : Bytes) (po : Option Bool) (s t : State), s.liveFrag p k f = true →
    (s.fragOf p k f).wait = .emit d a ea m (some dl) → dl ≤ s.clock → mayWake (focus s p k f) = true →
    emitDesc (focus s p k f) ea = .ok (pa, desc, po, t) →
    ∃ u, exec (.emitStallTimeout p k f) s = .next (advance u) ∧ u.curFrag.wait = .none ∧
      ∀ r l, l < 32 → vreg u r l = if r = d ∧ inMask m l = true then 0x2FFFFFFFF else vreg t r l

/-- EMIT_STALL_RESUME (R315, R316): a stalled EMIT whose buffer has room claims its slots and its lanes get their index and status; one whose buffer is
still full stays stalled; one that has claimed adds its count to committed in its turn and goes on.
The model's own: a claim for all lanes or none, the commit, what a release needs to begin (log 34, 36, 80). -/
def Obligations.EmitStallEnds : Prop :=
  (∀ (p k f d a pa : Nat) (dl : Option Nat) (ea : W64) (m : W32) (desc : Bytes) (s t : State), s.liveFrag p k f = true →
    (s.fragOf p k f).wait = .emit d a ea m dl → mayWake (focus s p k f) = true →
    emitDesc (endProtection (focus s p k f) p 9) ea = .ok (pa, desc, none, t) → emitOk desc = true →
    (bufferFull desc (lanesOf m).length →
      ∃ x, exec (.emitStallResume p k f) s = .next (halt (t.modCurFrag (fun g => { g with wait := .emit d a ea m x })))) ∧
    (¬ bufferFull desc (lanesOf m).length → ∀ es v w, emitLanes t desc (fieldAt desc 0x10 8) (lanesOf m) = .ok (es, v) → emitReady v es = .ok w →
      v.curFrag.fence = none →
      ∃ u, exec (.emitStallResume p k f) s = .next u ∧ emitClaim v d a pa ea es (fieldAt desc 0x10 8) = .ok u ∧
        (∀ e ∈ es, e.lane < 32 → vreg u d e.lane = BitVec.ofNat 64 (e.st * 2 ^ 32 + e.idx % 2 ^ 32)) ∧
        ∀ r l, l < 32 → (r ≠ d ∨ ∀ e ∈ es, e.lane ≠ l) → vreg u r l = vreg v r l)) ∧
  ∀ (p k f pa i0 n : Nat) (ea va : W64) (s t : State), s.liveFrag p k f = true → (s.fragOf p k f).wait = .emitCommit ea i0 n →
    mayWake (focus s p k f) = true → translateAcc (focus s p k f) (ctxOf (focus s p k f)) none 0 ea 2 0 = (.here (.hbm pa) va, t) →
    t.flips = [] → pa % 64 = 0 → natLE (Mem.read t.home (pa + 0x30) 8) = i0 →
    ∃ u, exec (.emitStallResume p k f) s = .next (advance u) ∧ u.curFrag.wait = .none ∧
      natLE (Mem.read u.home (pa + 0x30) 8) = (i0 + n) % 2 ^ 64 ∧ u.iss.ply = p ∧ u.iss.strand = k ∧ u.iss.frag = f

/-! ## Management (R51, R60, R228 to R232, R259) -/

/-- VACQ, VREL, XBIND and XUNB (R51, R229, R230): blocks granted, refused, waited for or released; a translation register bound, once the answer for a host page is there, or unbound.
The model's own: the wait of VACQ.W (log 17). -/
def Obligations.AllotmentResults : Prop :=
  (∀ (d b : BitVec 8) (s : State), isSource b → isDest d →
    let n := (sourceOf s b).toNat
    let granted := destOf (s.modCur (fun t => { t with blocks := t.blocks + n })) d 1
    (s.cur.blocks + n ≤ 8 → n ≤ freeBlocks s → exec (.vacqW d b) s = .next (advance granted) ∧ exec (.vacqP d b) s = .next (advance granted)) ∧
    (8 < s.cur.blocks + n → exec (.vacqW d b) s = .next (advance (destOf s d 0))) ∧
    (8 < s.cur.blocks + n ∨ freeBlocks s < n → exec (.vacqP d b) s = .next (advance (destOf s d 0))) ∧
    (s.cur.blocks + n ≤ 8 → freeBlocks s < n →
      exec (.vacqW d b) s = .next (halt (s.modCurFrag (fun f => { f with wait := .vacq n d (s.clock + 4096) }))))) ∧
  (∀ (p k f n dl : Nat) (d : BitVec 8) (s : State), s.liveFrag p k f = true → (s.fragOf p k f).wait = .vacq n d dl → isDest d →
    (s.ply p).resident = true → (((s.ply p).strand k).trapped = true → ((s.ply p).strand k).trap.frag = f) →
    let t := (focus s p k f).modCurFrag (fun x => { x with wait := .none })
    (n ≤ freeBlocks (focus s p k f) → t.cur.blocks + n ≤ 8 →
      exec (.vacqWaitEnd p k f) s = .next (advance (destOf (t.modCur (fun u => { u with blocks := u.blocks + n })) d 1))) ∧
    (freeBlocks (focus s p k f) < n → dl ≤ s.clock → exec (.vacqWaitEnd p k f) s = .next (advance (destOf t d 0)))) ∧
  (∀ (b : BitVec 8) (s : State), isSource b →
    let k := Nat.min (sourceOf s b).toNat (s.cur.blocks - baseBlocks s)
    (k = 0 → exec (.vrel b) s = .next (advance s)) ∧
    (k ≠ 0 → stillNamed s (8 * (s.cur.blocks - k)) = false → ∃ u, exec (.vrel b) s = .next (advance u) ∧
      u.cur.blocks = s.cur.blocks - k ∧ (∀ r l, l < 32 → r < 64 → vreg u r l = if r < 8 * (s.cur.blocks - k) then vreg s r l else 0) ∧
      (∀ n, sreg u n = sreg s n) ∧ (∀ q, preg u q = preg s q) ∧ SameMemory s u)) ∧
  ∀ (x b : BitVec 8) (s : State), 224 ≤ x.toNat → x.toNat < 240 →
    let c := ctxOf s
    let base := sreg s b.toNat
    (b.toNat ≤ 190 → (bits base 60 4 = 0 ∨ bits base 60 4 = 4) → bits base 57 3 ≤ 4 →
      (bits base 60 4 = 0 ∨ c.replies.contains (.atsDenied (bits (c.seg 4).base 0 20) (bits base 0 57 / 4096) 0) = true ∨
        (resolveX (clearX s (x.toNat - 224)) c.core c.vdev (c.seg 0) (c.seg 4) base (sreg s (b.toNat + 1))).2.1 = false) →
      ∃ u, exec (.xbind x b) s = .next (advance u) ∧ Tab.has u.cur.x (x.toNat - 224) = true ∧
        (Tab.get {} u.cur.x (x.toNat - 224)).base = base ∧ (Tab.get {} u.cur.x (x.toNat - 224)).limit = sreg s (b.toNat + 1) ∧
        (∀ n, n ≠ x.toNat - 224 → Tab.find n u.cur.x = Tab.find n s.cur.x) ∧ (∀ n, sreg u n = sreg s n) ∧
        (∀ q, (u.ply q).scratch = (s.ply q).scratch ∧ (u.ply q).tiles = (s.ply q).tiles) ∧ u.ws = s.ws ∧
        (HomesAgree s → ∀ k, Mem.byte u.home k = Mem.byte s.home k)) ∧
    ∃ u, exec (.xunb x) s = .next (advance u) ∧ Tab.has u.cur.x (x.toNat - 224) = false ∧
      (∀ n, n ≠ x.toNat - 224 → Tab.find n u.cur.x = Tab.find n s.cur.x) ∧ (∀ n, sreg u n = sreg s n) ∧ SameMemory s u

/-- LAUNCH, SIGADD and SIGSET (R228, R231, R232): a scope below package scope traps; else the release, the packet appended with its status, or one
step on the signal; a signal on which no queue is parked then holds the sum or the value.
The model's own: poison in the packet, one step for the packet and its index (log 37, 40, 47). -/
def Obligations.LaunchAndSignalResults : Prop :=
  (∀ (a b : BitVec 8) (sc : BitVec 3) (s : State) (i : Instr), i ∈ [Instr.launch a b sc, .sigadd a b sc, .sigset a b sc] → sc.toNat < 3 →
    exec i s = .next (takeTrap s { cause := 3, detail := 2 })) ∧
  (∀ (a b : BitVec 8) (sc : BitVec 3) (s t u : State) (ea va : W64) (pa : Nat), 3 ≤ sc.toNat → isSource a → b.toNat ≤ 190 →
    checkOne s (sourceOf s a) 0 ⟨[0], false, 64, 64, [0]⟩ = .ok ea → mgmtRelease s sc = .ok t →
    translateOne t none 0 ea 0 0 = .ok (.hbm pa, va, u) →
    let q := (sreg s b.toNat).toNat
    let v := homeTouch u pa 0
    (128 ≤ q → exec (.launch a b sc) s = .next (advance (setSreg v (b.toNat + 1) 2))) ∧
    (q < 128 → ∀ n w, appendPacket v v.curPly.vdev q (homeRead v pa 64) = .status n w →
      exec (.launch a b sc) s = .next (advance (setSreg w (b.toNat + 1) (BitVec.ofNat 64 n))))) ∧
  (∀ (a b : BitVec 8) (sc : BitVec 3) (s t u : State) (ea va : W64) (pa : Nat), 3 ≤ sc.toNat → isSource a → isSource b →
    mgmtRelease s sc = .ok t → translateOne t none 0 ea 1 1 = .ok (.hbm pa, va, u) →
    (checkOne s (sourceOf s a) 0 ⟨[0, 1], false, 64, 64, [0]⟩ = .ok ea →
      exec (.sigadd a b sc) s = .next (advance (signalStep u pa (sourceOf s b).toNat false))) ∧
    (checkOne s (sourceOf s a) 0 ⟨[1], false, 64, 64, [0]⟩ = .ok ea →
      exec (.sigset a b sc) s = .next (advance (signalStep u pa (sourceOf s b).toNat true)))) ∧
  ∀ (s : State) (pa n : Nat) (set : Bool), s.flips = [] → pa % 64 = 0 → (∀ q ∈ s.queues, q.2.parked ≠ some (BitVec.ofNat 64 pa)) →
    natLE (Mem.read (signalStep s pa n set).home pa 8) = (if set then n else natLE (Mem.read s.home pa 8) + n) % 2 ^ 64

/-! ## Transfers (R194 to R203, R381 to R383, R399) -/

/-- The asynchronous instructions hand a transfer to its engine, with the operands as they stand (R194, R195, R200 to R202).
The model's own: that the transfer starts in an event of its own (log 52). -/
def Obligations.TransferIssueResults : Prop :=
  let handed (s u : State) (k : XKind) (a : W64) (grp : List W64) : Prop :=
    ∃ x : Xfer, u.xfers = s.xfers ++ [x] ∧ x.kind = k ∧ x.a = a ∧ x.grp = grp ∧ x.ply = s.iss.ply ∧ x.strand = s.iss.strand ∧ x.frag = s.iss.frag ∧
      x.core = s.curCore ∧ x.started = false ∧ x.segs = s.cur.g ∧ .transferStart x.id ∈ u.engine ∧ ReservationsOnly s u ∧ SameMemory s u
  let entry (s : State) : Prop := (s.xfers.filter (fun x => x.core == s.curCore && x.holdsEntry)).length < 16
  (∀ (i : Instr) (k : XKind) (a b : BitVec 8) (sc : BitVec 3) (l : BitVec 2) (s : State) (ea : W64),
    ((i = .tcopyLd a b sc l ∧ k = .tcopyLd) ∨ (i = .tcopySt a b sc l ∧ k = .tcopySt) ∨ (i = .tcopyPl a b sc l ∧ k = .tcopyPl)) →
    s.livePly s.iss.ply = true → isSource a → b.toNat ≤ 187 → bits (sourceOf s a) 60 4 ≤ 1 →
    (if k = .tcopyPl then bits (sourceOf s a) 1 6 = 0 else bits (sourceOf s a) 0 7 = 0) →
    (sreg s b.toNat).toNat < 2 ^ 20 → (sreg s b.toNat).toNat % 16 = 0 →
    checkOne s (BitVec.ofNat 64 ((sourceOf s a).toNat / 128 * 128)) 0 ⟨[0], false, 128, 128, [0, 1]⟩ = .ok ea → entry s →
    ∃ u, exec i s = .next (advance u) ∧ handed s u k (sourceOf s a) (groupOf s b 5)) ∧
  (∀ (i : Instr) (k : XKind) (a b : BitVec 8) (sc : BitVec 3) (l : BitVec 2) (m : BitVec 1) (s : State) (ea eb : W64),
    ((i = .bcopy a b sc l ∧ k = .bcopy) ∨ (i = .bfill a b sc m ∧ k = .bfill) ∨ (i = .scopy a b ∧ k = .scopy)) →
    s.livePly s.iss.ply = true → isSource a → b.toNat ≤ 189 →
    let n := (sreg s (b.toNat + 1)).toNat
    let tags := if k = .scopy then [1, 2] else [0, 1, 2, 3, 4, 5]
    (sourceOf s a).toNat % 16 = 0 → (k ≠ .bfill → (sreg s b.toNat).toNat % 16 = 0) → n % 16 = 0 → 16 ≤ n →
    n ≤ (if k = .scopy then 655360 else 2 ^ 32) →
    checkRange s (sourceOf s a) ⟨[1], true, n, 1, if k = .scopy then [1, 2, 3] else tags⟩ = .ok ea →
    (k ≠ .bfill → checkRange s (sreg s b.toNat) ⟨[0], false, n, 1, tags⟩ = .ok eb) → entry s →
    ∃ u, exec i s = .next (advance u) ∧ handed s u k (sourceOf s a) (groupOf s b 3)) ∧
  (∀ (a b : BitVec 8) (s : State) (ea : W64), s.livePly s.iss.ply = true → isSource a → b.toNat ≤ 187 → (sreg s b.toNat).toNat < 27 →
    (sreg s (b.toNat + 3) = 0 ∨ (bits (sreg s (b.toNat + 3)) 60 4 ≤ 1 ∧ (sreg s (b.toNat + 3)).toNat % 16 = 0)) →
    checkOne s (sourceOf s a) 0 ⟨[0, 1], false, amoBytes (sreg s b.toNat).toNat, amoBytes (sreg s b.toNat).toNat, [4, 5]⟩ = .ok ea →
    ∃ u, exec (.ratom a b) s = .next (advance u) ∧ handed s u .ratom (sourceOf s a) (groupOf s b 5)) ∧
  ∀ (a : BitVec 8) (sc : BitVec 3) (l : BitVec 2) (s : State) (ea : W64), s.livePly s.iss.ply = true → isSource a →
    checkOne s (sourceOf s a) 0 ⟨[0], false, 64, 64, [0]⟩ = .ok ea →
    (s.xfers.filter (fun x => x.kind == .coll && coreIo x.core == coreIo s.curCore)).length < 16 →
    ∃ u, exec (.coll a sc l) s = .next (advance u) ∧ handed s u .coll (sourceOf s a) []

/-- The engines' steps (R195 to R203, R381, R382, R399): a transfer starts, moves its next unit and ends after the last; a unit's report is one step on its barrier
object; a fault pauses it; a remote atomic's answer fills its slot, is released and counted; a collective's result goes to its destination as a
transfer's bytes do; one that loses a rank fails; a copy of whole blocks may be performed in the array (R299).
The bytes moved (R71, R72, R198, R200): BCOPY, BFILL and SCOPY take chunk after chunk of the source, or of the pattern, to the same place of the destination;
each element of TCOPY's window goes from its place in the tensor to its place in the skewed rows, or back, and the fill value stands where the
tensor has none; a move's bytes are then the destination's, and no others change.
The model's own: that a unit or a block pair moves in one event, the parts of a collective, the status of a refused answer, the upper half of a
64-bit fill value (log 45, 50, 51, 52, 53, 55, 80, 95). -/
def Obligations.TransferEventResults : Prop :=
  (∀ (id : Nat) (x : Xfer) (s t : State), s.xfer id = some x → x.started = false → x.paused = none → x.pausedPri = none →
    (∀ sc, x.acq = some sc → canReplay s x.core sc 0 = true) →
    t = (match x.acq with
      | some sc => acquire s x.core sc 0
      | none => s) →
    ((x.kind = .bcopy ∨ x.kind = .bfill ∨ x.kind = .scopy) →
      exec (.transferStart id) s = .next (beginXfer t x (bulkUnits x) (x.grp.getD 1 0).toNat [] x.rd x.wr)) ∧
    (x.kind = .ratom → exec (.transferStart id) s = .next (startRatom t x)) ∧
    (∀ b po hb u, xRead t (ctxOfX x) x.a 64 = .ok (b, po, hb, u) → x.kind = .coll → exec (.transferStart id) s = .next (startColl (notePoison u x po hb) x b)) ∧
    (∀ b po hb u, xRead t (ctxOfX x) (BitVec.ofNat 64 (x.a.toNat / 128 * 128)) 128 = .ok (b, po, hb, u) →
      (x.kind = .tcopyLd ∨ x.kind = .tcopySt ∨ x.kind = .tcopyPl) → exec (.transferStart id) s = .next (startTcopy (notePoison u x po hb) x b))) ∧
  (∀ (id : Nat) (x : Xfer) (s t : State), s.xfer id = some x → x.started = true → x.paused = none → x.pausedPri = none → x.done = false →
    (x.kind.copies = true ∨ (x.kind = .coll ∧ x.step = 1)) → mustFollow s x = false →
    (x.units = [] → exec (.transferComplete id) s = .next (endXfer s x)) ∧
    (∀ u us v, x.units = u :: us → arrayPair s x = none → ((x.kind = .bcopy ∨ x.kind = .bfill) → (cutAtBlock u.moves).2 = []) →
      moveUnit s x u = (t, v, none) → exec (.transferComplete id) s = .next (goOnXfer (landUnit t x u) x us)) ∧
    (∀ u us v, x.units = u :: us → arrayPair s x = none → (x.kind = .bcopy ∨ x.kind = .bfill) → (cutAtBlock u.moves).2 ≠ [] →
      moveUnit s x { u with moves := (cutAtBlock u.moves).1 } = (t, v, none) →
      exec (.transferComplete id) s = .next (goOnXfer t x ({ v with moves := (cutAtBlock u.moves).2 } :: us))) ∧
    ∀ pair, arrayPair s x = some pair → moveBlock s x pair = some t →
      exec (.transferComplete id) s = .next
        (goOnXfer ((takeChunks (blockBytes / 16) x.units).2.foldl (fun t u => landUnit t x u) t) x (takeChunks (blockBytes / 16) x.units).1)) ∧
  (∀ (id unit n q o : Nat) (x : Xfer) (s : State), s.xfer id = some x → Tab.find unit x.landed = some n → x.postFailed = false →
    xBarrier s x = some (q, o) → ∃ u, exec (.landingReport id unit) s = .next u ∧ readObj u q o = ((readObj s q o).land n).1) ∧
  (∀ (id : Nat) (x : Xfer) (s : State) (i : FaultInfo), s.xfer id = some x → nextFault s x = some i →
    exec (.transferPause id) s = .next (pauseTransfer s x i)) ∧
  (∀ (id st q o : Nat) (old ea : W64) (x : Xfer) (s : State), s.xfer id = some x → x.kind = .ratom → x.started = true →
    x.step = 0 → x.grp.getD 3 0 ≠ 0 → checkAddr s (ctxOfX x) (x.grp.getD 3 0) 0 ⟨[1], true, 16, 16, [0, 1]⟩ = .ok ea →
    ptrTag ea = 1 → scratchOf s x.ply ea = some (q, o) →
    ∃ u, exec (.ratomReply id old st) s = .next u ∧ u.xfer id = some { x with step := 1 } ∧
      Mem.read (u.ply q).scratch o 16 =
        bytesLE (old.toNat % 2 ^ (8 * amoBytes (x.grp.getD 0 0).toNat)) 8 ++ bytesLE st 4 ++ bytesLE (x.grp.getD 0 0).toNat 4) ∧
  (∀ (id st : Nat) (old : W64) (x : Xfer) (s : State), s.xfer id = some x → x.kind = .ratom → x.started = true →
    let t := s.modPlat (fun p => { p with reqs := p.reqs.filter (fun r => r.ask != .ratom id) })
    (x.step = 1 → ∀ v, releaseFor t (ctxOfX x) scSystem = (v, true) →
      exec (.ratomReply id old st) s = .next ((v.modXfer id (fun y => { y with step := 2 })).later (.ratomReply id old st))) ∧
    (2 ≤ x.step → (x.completion = 0 → exec (.ratomReply id old st) s = .next (t.dropXfer id)) ∧
      (x.completion ≠ 0 → ∀ v, postCounter t (ctxOfX x) x.completion 1 = .done v → exec (.ratomReply id old st) s = .next (v.dropXfer id)))) ∧
  (∀ (id : Nat) (parts : Parts) (x : Xfer) (s t : State) (mine : Bytes) (bad : List Bool), s.xfer id = some x → x.kind = .coll → x.started = true →
    x.step = 0 → x.paused = none →
    ((xReel s x).nrank = 1 ∨ (parts.length = (xReel s x).nrank ∧ ∀ p ∈ parts, collAgree x.lay (p.take 64) = true)) →
    xReadAll s x (BitVec.ofNat 64 (fieldAt x.lay 8 8)) ((collSrc x.lay (xReel s x).nrank + 15) / 16) = .ok (mine, bad, t) →
    let n := (xReel s x).nrank
    let r := (xReel s x).rank
    let out := collResult x.lay ((upFrom 0 n).map (fun k => if k = r then mine else (parts.getD k []).drop 64)) r
    let taint := (upFrom 0 n).map (fun k => if k = r then bad else partTaint (parts.getD k []) (collSrc x.lay n))
    exec (.collectiveComplete id parts) s = .next
      ((((sendParts t x mine bad).modXfer id (fun y => { y with step := 1, total := out.length
                                                                units := collUnits (BitVec.ofNat 64 (fieldAt x.lay 0x10 8)) out (collTaint x.lay r taint) })).modPlat
        (fun p => { p with colls := p.colls.filter (fun c => c.id != id) })).later (.transferComplete id))) ∧
  (∀ (id : Nat) (x : Xfer) (s : State), s.xfer id = some x → x.kind = .coll → x.step = 0 →
    ∃ u, exec (.collectiveLoss id) s = .next u ∧ (∀ y ∈ u.xfers, y.id ≠ id) ∧ ∀ c ∈ u.plat.colls, c.id ≠ id) ∧
  (∀ x : Xfer, (bulkUnits x).flatMap (fun u => u.moves) = (upFrom 0 ((x.grp.getD 1 0).toNat / 16)).map (fun i =>
    let d := x.a + BitVec.ofNat 64 (16 * i)
    if x.kind = .bfill then { src := none, dst := d, bits := 128, fill := (x.grp.getD 0 0).toNat + 2 ^ 64 * (x.grp.getD 0 0).toNat }
    else { src := some (x.grp.getD 0 0 + BitVec.ofNat 64 (16 * i)), dst := d, bits := 128 })) ∧
  (∀ (l : Layout) (g : List W64) (store : Bool) (off : Nat), (windowUnits l g store off).flatMap (fun u => u.moves) =
    (upFrom 0 l.rows).flatMap (fun n => (upFrom 0 (l.rowBytes / 16)).flatMap (fun q => chunkMoves l g store off n q))) ∧
  (∀ (l : Layout) (g : List W64) (off n q e : Nat), 0 < l.es → 128 % l.es = 0 → e < 128 / l.es →
    let here := off + n * l.rowBytes + (if l.skew = 0 then 16 * q else q / 8 * 128 + (q % 8 + n * 2 ^ (l.skew - 1)) % 8 * 16)
    let first := 128 / l.es * q
    let inside (e : Nat) : Prop := rowInside l g n = true ∧ 0 ≤ coordOf g 0 + first + e ∧ coordOf g 0 + first + e < l.dims.getD 0 1
    let lands (a : W64) (b D : Nat) : Prop := a = BitVec.ofNat 64 (2 ^ 60 + (here + D / 8)) ∧ b = D % 8
    let from0 (a : W64) (b : Nat) (bit : Int) : Prop := a = l.base + BitVec.ofInt 64 (bit / 8) ∧ (b : Int) = bit % 8
    let reaches (m : Move) (D : Nat) : Prop := D ≤ l.es * e ∧ l.es * e + l.es ≤ D + m.bits
    (inside e → ∃ m ∈ chunkMoves l g false off n q, ∃ D a, reaches m D ∧ lands m.dst m.dbit D ∧ m.src = some a ∧
      from0 a m.sbit (elemBit l g n (first + e) - (l.es * e - D : Int))) ∧
    (¬ inside e → ∃ m ∈ chunkMoves l g false off n q, ∃ D, reaches m D ∧ lands m.dst m.dbit D ∧ m.src = none ∧
      m.fill / 2 ^ (l.es * e - D) % 2 ^ l.es = l.fill % 2 ^ l.es) ∧
    (∀ m ∈ chunkMoves l g false off n q, ∃ D, lands m.dst m.dbit D ∧ D + m.bits ≤ 128) ∧
    (inside e → ∃ m ∈ chunkMoves l g true off n q, ∃ D a, reaches m D ∧ m.src = some a ∧ lands a m.sbit D ∧
      from0 m.dst m.dbit (elemBit l g n (first + e) - (l.es * e - D : Int))) ∧
    ∀ m ∈ chunkMoves l g true off n q, ∃ lo k : Nat, m.bits = l.es * k ∧ from0 m.dst m.dbit (elemBit l g n (first + lo)) ∧
      ∀ j, lo ≤ j → j < lo + k → inside j) ∧
  ∀ (x : Xfer) (m : Move) (s t v : State) (a va : W64) (k : Nat) (b : Bytes) (po hb : Option W64) (pl : Place), m.src = some a →
    m.sbit = 0 → m.dbit = 0 → m.bits = 8 * k → 0 < k → ptrAddr m.dst % 128 + k ≤ 128 → xRead s (ctxOfX x) a k = .ok (b, po, hb, t) → b.length = k →
    xPlace (notePoison t x po hb) (ctxOfX x) m.dst 1 5 = .ok (pl, va, v) →
    (∀ q o, pl = .scratch q o → o % 128 = ptrAddr m.dst % 128 → v.flips = [] → ∃ u, moveOne s x m = .ok (u, po.isSome) ∧
      (∀ j, Mem.byte (u.ply q).scratch j = if o ≤ j ∧ j < o + k then b.getD (j - o) 0 else Mem.byte (v.ply q).scratch j) ∧
      ∀ p, p ≠ q → (u.ply p).scratch = (v.ply p).scratch) ∧
    ∀ pa, pl = .hbm pa → pa % 128 = ptrAddr m.dst % 128 → (v.ply x.ply).core = x.core → LogRoom v x.core 1 → ∃ u, moveOne s x m = .ok (u, po.isSome) ∧
      (∀ j, j < k → byteSeen u x.core x.ply (pa + j) = b.getD j 0) ∧
      (∀ j, (j < pa ∨ pa + k ≤ j) → byteSeen u x.core x.ply j = byteSeen v x.core x.ply j) ∧ u.home = v.home ∧
      ∀ q, (u.ply q).scratch = (v.ply q).scratch

/-! ## Barriers, waits and commits (R44, R73 to R75, R195, R204 to R208) -/

/-- BINIT, BARR and BEXP perform their step on the object (R73, R204): BARR counts one arrival and gives the phase in which it counted, BEXP adds to
the bytes expected, and the phase completes when both counts are reached, which clears them and counts it; bytes past the expectation overshoot once
every arrival is in (R384). No other byte of scratch changes.
The model's own: arrivals past the expected number (log 49). -/
def Obligations.BarrierObjectResults : Prop :=
  let completed (o : BarObj) : BarObj := { o with phase := (o.phase + 1) % 2 ^ 32, arrived := 0, expbytes := 0, landed := 0 }
  let stepped (s u : State) (x : Nat × Nat) (o : BarObj) : Prop :=
    readObj u x.1 x.2 = o ∧ (∀ k, (k < x.2 ∨ x.2 + 28 ≤ k) → Mem.byte (u.ply x.1).scratch k = Mem.byte (s.ply x.1).scratch k) ∧
      (∀ q, q ≠ x.1 → (u.ply q).scratch = (s.ply q).scratch) ∧ ReservationsOnly s u
  (∀ (a b : BitVec 8) (s : State) (x : Nat × Nat), isSource a → isSource b → needObj s (sourceOf s a) [0, 1] = .ok x →
    rangeRead s s.iss.ply x.1 x.2 32 = false →
    ((sourceOf s b).toNat % 2 ^ 16 ≠ 0 → ∃ u, exec (.binit a b) s = .next (advance u) ∧
      stepped s u x { readObj s x.1 x.2 with expected := (sourceOf s b).toNat % 2 ^ 16, arrived := 0, expbytes := 0, landed := 0, flags := 0 }) ∧
    (let o := readObj s x.1 x.2
     let e := (o.expbytes + (sourceOf s b).toNat) % 2 ^ 64
     ∃ u, exec (.bexp a b) s = .next (advance u) ∧
      (o.arrived = o.expected → e = o.landed → stepped s u x (completed o)) ∧
      (¬ (o.arrived = o.expected ∧ e = o.landed) → stepped s u x { o with expbytes := e }))) ∧
  (∀ (a b : BitVec 8) (s : State), isSource a → isSource b → (sourceOf s b).toNat % 2 ^ 16 = 0 →
    exec (.binit a b) s = .next (takeTrap s { cause := 3, detail := 2 })) ∧
  ∀ (a b : BitVec 8) (sc : BitVec 3) (l : BitVec 1) (s t : State) (x : Nat × Nat), isSource a → isDest b → needObj s (sourceOf s a) [0, 1] = .ok x →
    rangeRead s s.iss.ply x.1 x.2 32 = false → (l = 0 → t = s) → (l = 1 → releaseHere (endProtection s s.iss.ply 8) sc.toNat = .ok t) →
    let o := readObj t x.1 x.2
    ∃ u, exec (.barr a b sc l) s = .next (advance (destOf u b (BitVec.ofNat 64 o.phase))) ∧
      (o.arrived + 1 < o.expected → stepped t u x { o with arrived := o.arrived + 1 }) ∧
      (o.arrived + 1 = o.expected → o.landed < o.expbytes → stepped t u x { o with arrived := o.arrived + 1 }) ∧
      (o.arrived + 1 = o.expected → o.landed = o.expbytes → stepped t u x (completed o)) ∧
      (o.arrived + 1 = o.expected → o.expbytes < o.landed → stepped t u x { completed o with flags := o.flags ||| 2 }) ∧
      (o.expected ≤ o.arrived → stepped t u x { o with flags := o.flags ||| 2 })

/-- BWAIT, BTRY, CTRY and the wakes (R205, R206): what goes on, what parks, what traps, and the results written; CTRY reads again until its counter has
reached the threshold, which ends it with 1, or the 2,048 clocks are over, which a read under way then decides. An acquire that follows has to be able to
take effect (R244), and a wake waits for a strand that is at the trap level in another fragment (R345).
The model's own: when an acquire can take effect, and that a counter once met stays so while it waits (log 79). -/
def Obligations.WaitResults : Prop :=
  (∀ (a b : BitVec 8) (sc : BitVec 3) (l : BitVec 1) (s : State) (x : Nat × Nat), isSource a → isSource b →
    needObj s (sourceOf s a) [0] = .ok x →
    let o := readObj s x.1 x.2
    let ph := (sourceOf s b).toNat % 2 ^ 32
    (o.flags % 2 = 1 → exec (.bwait a b sc l) s = .next (takeTrap s { cause := 9 })) ∧
    (o.flags % 2 = 0 → o.phase = ph → exec (.bwait a b sc l) s =
      .next (halt (s.modCurFrag (fun f => { f with wait := .bwait (sourceOf s a) (BitVec.ofNat 32 ph) (acqOne sc l) })))) ∧
    (o.flags % 2 = 0 → o.phase ≠ ph → (l = 1 → canReplay s s.curCore sc.toNat 0 = true) →
      exec (.bwait a b sc l) s = .next (advance (if l = 1 then acquire s s.curCore sc.toNat 0 else s)))) ∧
  (∀ (a b : BitVec 8) (sc : BitVec 3) (l : BitVec 1) (s : State) (x : Nat × Nat), isSource a → b.toNat ≤ 190 →
    needObj s (sourceOf s a) [0] = .ok x →
    let o := readObj s x.1 x.2
    let ph := (sreg s b.toNat).toNat % 2 ^ 32
    (o.flags % 2 = 1 → exec (.btry a b sc l) s = .next (advance (setSreg s (b.toNat + 1) 2))) ∧
    (o.flags % 2 = 0 → o.phase = ph → exec (.btry a b sc l) s = .next (advance (setSreg s (b.toNat + 1) 0))) ∧
    (o.flags % 2 = 0 → o.phase ≠ ph → (l = 1 → canReplay s s.curCore sc.toNat 0 = true) → exec (.btry a b sc l) s =
      .next (advance (acquireIf (setSreg s (b.toNat + 1) 1) (if l = 1 then some sc.toNat else none))))) ∧
  (∀ (p k f q o : Nat) (obj : W64) (ph : W32) (acq : Option Nat) (s : State), s.liveFrag p k f = true → (s.fragOf p k f).wait = .bwait obj ph acq →
    (s.ply p).resident = true → (((s.ply p).strand k).trapped = true → ((s.ply p).strand k).trap.frag = f) →
    scratchOf s p obj = some (q, o) → acquireReady (focus s p k f) acq = true →
    ((readObj s q o).flags % 2 = 1 →
      exec (.bwaitWake p k f) s = .next (takeTrap ((focus s p k f).modCurFrag (fun x => { x with wait := .none })) { cause := 9 })) ∧
    ((readObj s q o).flags % 2 = 0 → (readObj s q o).phase ≠ ph.toNat →
      exec (.bwaitWake p k f) s = .next (advance ((acquireIf (focus s p k f) acq).modCurFrag (fun x => { x with wait := .none }))))) ∧
  (∀ (a b : BitVec 8) (sc : BitVec 3) (l : BitVec 1) (s t : State) (r : Option Bool), isSource a → b.toNat ≤ 190 →
    tryCounter s (sourceOf s a) (sreg s b.toNat) = .ok (r, t) →
    (r = some true → (l = 1 → canReplay t t.curCore sc.toNat 0 = true) → exec (.ctry a b sc l) s = .next (advance
      ((acquireIf (setSreg t (b.toNat + 1) 1) (if l = 1 then some sc.toNat else none)).modCurFrag (fun f => { f with wait := .none })))) ∧
    (r = some true → l = 1 → canReplay t t.curCore sc.toNat 0 = false → exec (.ctry a b sc l) s = .next (halt (t.modCurFrag (fun f => { f with wait := .held })))) ∧
    (r ≠ some true → ∃ u, exec (.ctry a b sc l) s = .next (halt u) ∧ .ctryReread t.iss.ply t.iss.strand t.iss.frag ∈ u.engine ∧
      u.curFrag.wait = .ctry (sourceOf s a) (sreg s b.toNat) (BitVec.ofNat 8 (b.toNat + 1)) (acqOne sc l) (t.clock + 2048))) ∧
  (∀ (p k f dl : Nat) (ptr thr : W64) (d : BitVec 8) (acq : Option Nat) (s : State), s.liveFrag p k f = true →
    (s.fragOf p k f).wait = .ctry ptr thr d acq dl → mayWake (focus s p k f) = true →
    (∀ t, acquireReady t acq = true → tryCounter (focus s p k f) ptr thr = .ok (some true, t) →
      exec (.ctryReread p k f) s = .next (advance ((acquireIf (setSreg t d.toNat 1) acq).modCurFrag (fun x => { x with wait := .none })))) ∧
    (∀ t, acquireReady t acq = false → tryCounter (focus s p k f) ptr thr = .ok (some true, t) →
      exec (.ctryReread p k f) s = .next (t.modCurFrag (fun x => { x with wait := .ctryMet d acq }))) ∧
    (∀ t, tryCounter (focus s p k f) ptr thr = .ok (some false, t) →
      (s.clock < dl → exec (.ctryReread p k f) s = .next t) ∧
      (dl ≤ s.clock → exec (.ctryReread p k f) s = .next (advance ((setSreg t d.toNat 0).modCurFrag (fun x => { x with wait := .none }))))) ∧
    (∀ t, tryCounter (focus s p k f) ptr thr = .ok (none, t) → exec (.ctryReread p k f) s = .next t) ∧
    (dl ≤ s.clock → readUnderWay s p k f = false → exec (.ctryTimeout p k f) s =
      .next (advance ((setSreg (focus s p k f) d.toNat 0).modCurFrag (fun x => { x with wait := .none })))) ∧
    (dl ≤ s.clock → readUnderWay s p k f = true → exec (.ctryTimeout p k f) s = .next s)) ∧
  ∀ (p k f : Nat) (d : BitVec 8) (acq : Option Nat) (s : State), s.liveFrag p k f = true → (s.fragOf p k f).wait = .ctryMet d acq →
    mayWake (focus s p k f) = true → acquireReady (focus s p k f) acq = true → exec (.ctryReread p k f) s =
      .next (advance ((acquireIf (setSreg (focus s p k f) d.toNat 1) acq).modCurFrag (fun x => { x with wait := .none })))

/-- BAR.PLY and BAR.SKN arrive, or trap (R208); COMMIT, when every strand has arrived and the interval's work is done, ends the interval (R44).
The model's own: that the commit is an event of its own (log 17). -/
def Obligations.PlyBarrierResults : Prop :=
  (∀ (i : Instr) (skein : Bool) (sc : BitVec 3) (l : BitVec 2) (s : State), (i = if skein then .barSkn sc l else .barPly sc l) →
    (s.cur.trapped = true → exec i s = .next (takeTrap s { cause := 5 })) ∧
    (s.cur.trapped = false → skein = true → (s.skein s.curPly.skein).broken = true → exec i s = .next (takeTrap s { cause := 9, detail := 1 })) ∧
    (s.cur.trapped = false → (skein = true → (s.skein s.curPly.skein).broken = false) → skein = true → l ≠ 0 → sc = 0 →
      exec i s = .next (takeTrap s { cause := 3, detail := 2 })) ∧
    (s.cur.trapped = false → (skein = true → (s.skein s.curPly.skein).broken = false ∧ (l = 0 ∨ sc ≠ 0)) →
      (barMismatch s = true → exec i s = .next (takeTrap s { cause := 8 })) ∧
      (barMismatch s = false → exec i s = .next (halt (checkBarriers
        (settle (s.modCurFrag (fun f => { f with wait := .bar skein (acqFlag sc l) (relFlag sc l) })))
        (settle (s.modCurFrag (fun f => { f with wait := .bar skein (acqFlag sc l) (relFlag sc l) }))).curPly.skein))))) ∧
  ∀ (p : Nat) (s : State), barrierMet s p = true → (s.reel (s.ply p).reel).rerun = none → (s.ply p).atSkein = false → workLeft s p = false →
    heldBad (performReds s (fun r => [p].any (fun q => r.ofPly q))) p = none →
    ∃ u, exec (.commit p) s = .next u ∧ (u.ply p).seq = (s.ply p).seq + 1 ∧ (u.ply p).journal = [] ∧ (u.ply p).markCode = 0 ∧
      (u.ply p).markVal = 0 ∧ (u.ply p).repidx = 0 ∧ (u.ply p).relBlocks = [] ∧ (u.ply p).prot = (s.ply p).en ∧
      (∀ e ∈ (u.core (s.ply p).core).log, e.ply = p → e.held = false)

/-! ## Packets (R262, R267 to R273, R283, R285 to R291, R303, R378, R418) -/

/-- The packets of a queue whose head has been read, checked and may start (R271, R273): what each does, and that RIDX advances as it starts; a
head that fails its checks stops the queue; a signal waits for its release; a parked WAIT times out.
The model's own: pointers of tag 5, waits for the host, one step for a signal and the index (log 38, 39, 40, 44). -/
def Obligations.PacketResults : Prop :=
  let begun (t u : State) (q : Nat) : Prop := (u.queue q).ridx = (t.queue q).ridx + 1 ∧
    (u.queue q).state = (if (t.queue q).ridx + 1 < (t.queue q).widx then .ready else .idle) ∧ (u.queue q).parked = none
  (∀ (s t : State) (q : Nat) (b : Bytes), lookHead s q = (t, some b) →
    let v := (t.queue q).vdev
    let ptr := w64 (fieldAt b 8 8)
    (pkType b = 13 → ∃ u, exec (.packetNop q) s = .next u ∧ begun t u q ∧ u.jobs = t.jobs ∧ u.skeins = t.skeins ∧
      ((t.queue q).rdptr = 0 → (t.queue q).mirrors = [] → u.home = t.home)) ∧
    (∀ (set : Bool) x f, pkType b = 1 → fieldAt b 0x18 1 = (if set then 1 else 0) →
      (ccRelease t q v (t.queue q).fence = (x, f, false) →
        exec (if set then .signalSet q else .signalAdd q) s = .next (x.modQueue q (fun x => { x with fence := f }))) ∧
      (ccRelease t q v (t.queue q).fence = (x, f, true) → ∀ y,
        (∀ pa, signalPlace x q v ptr 1 (!set) = (some pa, y) →
          exec (if set then .signalSet q else .signalAdd q) s = .next (advanceIdx (signalStep y pa (fieldAt b 0x10 8) set) q b)) ∧
        (signalPlace x q v ptr 1 (!set) = (none, y) →
          ∃ u, exec (if set then .signalSet q else .signalAdd q) s = .next u ∧ (u.queue q).state = .stopped ∧ (u.queue q).err = 4))) ∧
    (∀ pa y, pkType b = 2 → signalPlace t q v ptr 0 true = (some pa, y) →
      let holds := condHolds (fieldAt b 0x18 1) (natLE (Mem.read y.home pa 8)) (fieldAt b 0x10 8)
      (holds = true → ∃ u, exec (.wait q) s = .next u ∧ begun y u q) ∧
      (holds = false → ∃ u, exec (.wait q) s = .next u ∧ (u.queue q).state = .parked ∧ (u.queue q).parked = some (w64 pa) ∧
        (u.queue q).ridx = (y.queue q).ridx ∧ (u.queue q).waitPkt = b ∧
        (u.queue q).deadline = (if fieldAt b 0x1C 4 = 0 then none else some (y.clock + 940 * fieldAt b 0x1C 4)) ∧ u.home = y.home)) ∧
    (∀ pa y, pkType b = 8 → signalPlace t q v ptr 0 true = (some pa, y) → ∃ u, exec (.cond q) s = .next u ∧ begun y u q ∧
      (u.queue q).skip = if condHolds (fieldAt b 0x18 1) (natLE (Mem.read y.home pa 8)) (fieldAt b 0x10 8) then (y.queue q).skip
        else fieldAt b 0x19 1) ∧
    (pkType b = 4 → (∀ e ∈ (t.vdev v).faults, e.token = ptr → e.written = false) →
      ∃ u, begun t u q ∧ (fieldAt b 0x10 1 = 0 → exec (.replayResume q) s = .next u) ∧ (fieldAt b 0x10 1 = 1 → exec (.replayKill q) s = .next u) ∧
        ReservationsOnly t u) ∧
    (∀ e p k f, pkType b = 4 → liveToken t v ptr = some e → e.who = .frag p k f → t.liveFrag p k f = true →
      (fieldAt b 0x10 1 = 0 → ∃ u, exec (.replayResume q) s = .next u ∧ begun t u q ∧ (u.fragOf p k f).wait = .none ∧
        ∀ g ∈ (u.vdev v).faults, g.token ≠ ptr) ∧
      (fieldAt b 0x10 1 = 1 → ∃ u, exec (.replayKill q) s = .next u ∧ begun t u q ∧ u.livePly p = false)) ∧
    (pkType b = 9 → ∃ u, ∃ g ∈ u.gates, exec (.stage q) s = .next u ∧ g.queue = q ∧ g.stage = true ∧ g.moved = 0 ∧
      g.ranges = [{ src := ptr, bytes := fieldAt b 0x18 8, wsoff := ptrAddr (w64 (fieldAt b 0x10 8)) }] ∧ .stagingGate g.id ∈ u.engine ∧
      (u.queue q).state = .held ∧ (u.queue q).ridx = (t.queue q).ridx) ∧
    (∀ (fill : Bool) x y, pkType b = 10 → fieldAt b 0x20 1 = (if fill then 1 else 0) →
      let src := if fill then none else some (w64 (fieldAt b 0x10 8))
      let e := if fill then Instr.copyFill q else .copy q
      copyReady t q v ptr src (fieldAt b 0x18 8) = .ok x →
      (copyBytes t q v ptr src (fieldAt b 0x10 8) (fieldAt b 0x18 8) = .ok y → exec e s = .next (startAndComplete y q b 0)) ∧
      (∀ a, copyBytes t q v ptr src (fieldAt b 0x10 8) (fieldAt b 0x18 8) = .error (.fail a y) → ∃ z, exec e s = .next (startAndComplete z q b 5))) ∧
    (pkType b = 12 → fieldAt b 8 1 = 1 → ∃ u, exec (.vdevSetEnergyShare q) s = .next u ∧ begun t u q ∧
      (u.vdev v).acct = { (t.vdev v).acct with refill := fieldAt b 0x10 8, cap := fieldAt b 0x18 8 }) ∧
    (pkType b = 12 → fieldAt b 8 1 = 0 →
      ((t.vdev v).wclass < fieldAt b 9 1 → exec (.vdevCollapse q) s = .next (startAndComplete t q b 5)) ∧
      (fieldAt b 9 1 ≤ (t.vdev v).wclass → (∀ x ∈ t.queues, x.1 ≠ q → (t.vdev v).ownsQueue x.1 = true → x.2.state ≠ .ready ∧ x.2.state ≠ .held) →
        (∀ k ∈ t.skeins, (t.reel k.2.reel).vdev ≠ v) → ∃ u, exec (.vdevCollapse q) s = .next u ∧ begun t u q ∧
          (u.vdev v).collapse = .collapsing (fieldAt b 9 1) ∧ .vdevCollapseComplete v ∈ u.engine))) ∧
  (∀ (s t : State) (q : Nat) (b : Bytes) (e : Instr), s.flips = [] → headOpen s q = true →
    ccFetch s q (s.queue q).vdev ((s.queue q).slotPtr (s.queue q).ridx) 64 = .ok (b, t) → packetOk t q b = false →
    e ∈ [Instr.packetNop q, .signalAdd q, .signalSet q, .wait q, .cond q, .replayResume q, .replayKill q, .stage q, .copy q, .copyFill q,
      .vdevSetEnergyShare q, .vdevCollapse q, .dispatch q, .dispatchRole q, .draw q, .ckptSave q, .ckptRestore q, .ckptArmCapture q] →
    ∃ u, exec e s = .next u ∧ (u.queue q).state = .stopped ∧ (u.queue q).err = 4 ∧ (u.queue q).ridx = (t.queue q).ridx) ∧
  ∀ (s : State) (q d : Nat), (s.queue q).state = .parked → (s.queue q).deadline = some d → d ≤ s.clock →
    let b := (s.queue q).waitPkt
    ∃ u, exec (.waitTimeout q) s = .next u ∧ begun s u q ∧ u = waitStatus (advanceIdx s q b) q b (s.queue q).ridx 1

/-! ## Launches, the arbiter and completion (R21, R24, R48, R148, R274 to R279, R282, R284, R306, R317) -/

/-- DISPATCH, DISPATCH.ROLE and DRAW launch their reel or complete with the status of R276; mesh passes, placement, vacating, the exit of a ply,
the completion of a reel and the completion tail.
The model's own: preemption, restored plies, mesh passes, the warm path, saved contexts (log 41, 42, 43, 67, 73, 90). -/
def Obligations.LaunchResults : Prop :=
  (∀ (s t : State) (q : Nat) (b : Bytes), lookHead s q = (t, some b) →
    (pkType b = 5 → (∀ w, warmLaunch t q b = some w → exec (.dispatch q) s = .next w) ∧
      (warmLaunch t q b = none → exec (.dispatch q) s = .next (coldLaunch t q b))) ∧
    (pkType b = 6 → exec (.dispatchRole q) s = .next (coldLaunch t q b)) ∧
    (pkType b = 7 → exec (.draw q) s = .next (coldLaunch t q b))) ∧
  (∀ (t u : State) (q : Nat) (b d0 : Bytes), ccFetch t q (t.queue q).vdev (w64 (fieldAt b 8 8)) 128 = .ok (d0, u) →
    let d := if pkType b = 6 then roleBytes b d0 else d0
    (kdescOk d = false → coldLaunch t q b = refuse u q b 1 false) ∧
    let v := (t.queue q).vdev
    let ptr := w64 (fieldAt b 8 8)
    let x := if pkType b = 5 then
        u.modCmdCore (q / 32) (fun c =>
          let l := c.cache.filter (fun e => !(e.1 == v && e.2.1 == ptr)) ++ [(v, ptr, kdescOf d)]
          { c with cache := l.drop (l.length - 16) })
      else u
    ∀ w r, kdescOk d = true → launchWith x q b (kdescOf d) = .started w r → coldLaunch t q b = w) ∧
  (∀ (s : State) (q st : Nat) (b : Bytes) (said : Bool), ∃ j ∈ (refuse s q b st said).jobs, j.queue = q ∧ j.done = true ∧ j.status = st ∧
    ((refuse s q b st said).queue q).ridx = (s.queue q).ridx + 1 ∧ .completionTail j.id ∈ (refuse s q b st said).engine) ∧
  (∀ (s : State) (q : Nat) (b : Bytes) (d : Kdesc), pkType b = 5 ∨ pkType b = 6 →
    let w := (launchReel s q b d).1
    let r := (launchReel s q b d).2
    Tab.has w.reels r = true ∧ (w.reel r).desc = d ∧ (w.reel r).queue = q ∧ (w.reel r).args = w64 (fieldAt b 0x10 8) ∧
    (w.reel r).nskein = fieldAt b 0x18 4 ∧ (w.reel r).left = fieldAt b 0x18 4 ∧ (w.queue q).ridx = (s.queue q).ridx + 1 ∧ .placement ∈ w.engine ∧
    ∀ i, i < fieldAt b 0x18 4 → ∃ k, Tab.find k w.skeins = some { reel := r, num := i }) ∧
  (∀ (s u : State) (r : Nat) (m : MeshLink) (b : Bytes), Tab.has s.reels r = true → (s.reel r).mesh = some m → m.ended = false →
    m.failed = false → meshBuffer s (s.reel r) = some (b, u) → (meshTail u r b).2 = true → m.next < (s.reel r).nskein →
    ((m.next + 1) * fieldAt b 14 2 ≤ fieldAt b 0x30 8 ∨
      (m.next * fieldAt b 14 2 < meshCovers b ∧ ∀ j ∈ jobsOf s (s.reel r).queue, (s.reel r).job ≤ j.id)) →
    ∃ w, exec (.meshSkeinLaunch r) s = .next w ∧ (w.reel r).mesh = some { m with next := m.next + 1 } ∧ .placement ∈ w.engine ∧
      ∃ k, Tab.find k w.skeins = some { reel := r, num := m.next }) ∧
  (∀ s : State, exec .placement s = .next ((upFrom 0 16).foldl placeDevice s)) ∧
  (∀ (s : State) (v k b : Nat), (deviceOpen (s.vdev v) = false ∨ gateHolds s v = true → placeDevice s v = s) ∧
    (deviceOpen (s.vdev v) = true → gateHolds s v = false → pendingList s v = [k] →
      (accountAllows (s.vdev v) (s.reel (s.skein k).reel).desc.eclass = false → placeDevice s v = s) ∧
      (accountAllows (s.vdev v) (s.reel (s.skein k).reel).desc.eclass = true →
        ((s.skein k).plies = [] → (s.reel (s.skein k).reel).desc.plies ≤ (freeSlots s v (s.reel (s.skein k).reel).desc.plies).length) →
        findBay s k = some b → placeDevice s v = releaseSkein s k b ∧
          ((∀ p ∈ (s.skein k).plies, (s.ply p).ctxBad = false) → ((releaseSkein s k b).skein k).spot = .bay b)))) ∧
  (∀ (s : State) (k p : Nat), Tab.has s.skeins k = true → running (s.skein k) = true → (s.skein k).plies = [p] → s.livePly p = true →
    (s.ply p).skein = k → (s.ply p).resident = true → (s.ply p).exiting = false →
    ((s.ply p).prot = true → (s.ply p).halt = false → ∃ u, exec (.vacate k) s = .next u ∧ u.plies = s.plies ∧ .vacate k ∈ u.engine) ∧
    (((s.ply p).prot = false ∨ ((s.ply p).halt = true ∧ (s.ply p).capture = none)) →
      (workLeft s p = false → bayFenced s (coreBay (s.ply p).core) = false → (s.ply p).moving = none → ∃ u, exec (.vacate k) s = .next u ∧
        (u.ply p).resident = false ∧ (u.ply p).halt = false ∧ (u.skein k).spot = .saved ∧ (u.skein k).front = true ∧ (u.skein k).vacate = none) ∧
      (workLeft s p = true ∨ bayFenced s (coreBay (s.ply p).core) = true → ∃ u, exec (.vacate k) s = .next u ∧ (u.ply p).resident = true ∧
        (u.ply p).halt = true ∧ .vacate k ∈ u.engine)) ∧
    ∀ d, (s.skein k).vacate = some d → d ≤ s.clock → (s.ply p).prot = true → (s.ply p).halt = false →
      exec (.vacateTimeout k) s = .next (vacateRollback s p)) ∧
  (∀ (s : State) (p : Nat), s.livePly p = true → (s.ply p).exiting = true → (s.reel (s.ply p).reel).rerun = none →
    (workLeft s p = true → exec (.plyExit p) s = .next (s.later (.plyExit p))) ∧
    (workLeft s p = false → heldBad s p = none →
      let t := releaseLocal (commitPly s p) (s.ply p).core scPackage
      (doomed t p = true → exec (.plyExit p) s = .next t) ∧
      (doomed t p = false → ∃ u, exec (.plyExit p) s = .next u ∧ u.livePly p = false ∧ .placement ∈ u.engine))) ∧
  (∀ (s : State) (r : Nat), Tab.has s.reels r = true → (s.reel r).left = 0 → (∀ k ∈ s.skeins, k.2.reel ≠ r) → (s.reel r).mesh = none →
    (s.vdev (s.reel r).vdev).stopped = false → ∃ u, exec (.reelComplete r) s = .next u ∧ Tab.has u.reels r = false ∧
      .completionTail (s.reel r).job ∈ u.engine ∧
      ∀ j ∈ u.jobs, j.id = (s.reel r).job → j.done = true ∧ j.status = if (s.reel r).contained then 3 else 0) ∧
  ∀ (s u : State) (id : Nat) (j : Job) (f : Option Fence), s.job id = some j → j.done = true → j.statusPtr = 0 →
    ccRelease (s.modJob id (fun j => { j with statusPtr := 0 })) j.queue j.vdev j.fence = (u, f, true) →
    (j.signal = 0 → ∃ w, exec (.completionTail id) s = .next w ∧ (∀ k ∈ w.jobs, k.id ≠ id)) ∧
    ∀ pa v, j.signal ≠ 0 → signalPlace u j.queue j.vdev j.signal 1 true = (some pa, v) →
      ∃ w, exec (.completionTail id) s = .next w ∧ (∀ k ∈ w.jobs, k.id ≠ id) ∧
        (j.intr = false → w.home = (signalStep v pa j.addend.toNat false).home)

/-! ## Detection and recovery (R112, R138, R238, R343, R348, R351, R352, R354, R358, R365, R392 to R394, R400, R403) -/

/-- Drains, lost reservations, timing replays, rollback, containment, the traps of illegal words and failed fetches, soft errors, the corrected
counts, and the loss or substitution of queue entries, command cores and cores.
The model's own: codes of classes 9 and 11, kinds 16 to 20, ways and rows, timing replays, what a snapshot holds (log 23, 44, 48, 63, 64, 65, 81). -/
def Obligations.RecoveryResults : Prop :=
  (∀ (s : State) (c n : Nat) (e : LogEntry), (s.core c).log.find? (fun g => g.serial == n) = some e →
    (e.held = true ∨ fenced s c n = true → exec (.logDrain c n) s = .next s) ∧
    (e.held = false → fenced s c n = false → drainAfter s c e = [] →
      ∃ u, exec (.logDrain c n) s = .next u ∧ ∀ g, g ∈ (u.core c).log ↔ g ∈ (s.core c).log ∧ g.serial ≠ n ∧
        ∀ r h, e.space = .peer r → blockMate (s.core c).log e = some h → g.serial ≠ h.serial)) ∧
  (∀ (s : State) (p k f : Nat) (r : Resv), (s.fragOf p k f).resv = some r →
    (s.clock < r.clock + 16384 → exec (.reservationExpiry p k f) s = .next s) ∧
    (r.clock + 16384 ≤ s.clock → ∃ u, exec (.reservationExpiry p k f) s = .next u ∧ (u.fragOf p k f).resv = none)) ∧
  (∀ (s : State) (c : Nat), ∃ u, exec (.timingReplay c false) s = .next u ∧ (u.core c).stall = s.clock + 2 ∧ (u.core c).timing = 0 ∧
    (u.core c).counts.timing = (s.core c).counts.timing + 1 ∧ u.plies = s.plies ∧
    ∃ v, exec (.timingReplay c true) s = .next v ∧ (v.core c).stall = s.clock + 2 ∧ (v.core c).late = some (s.clock + 2) ∧ v.plies = s.plies) ∧
  (∀ (s : State) (p k f cls cause : Nat) (lanes : W32) (addr : W64), s.livePly p = true → (s.ply p).prot = true → (s.ply p).repidx < 7 →
    (s.reel (s.ply p).reel).capture = false → (s.skein (s.ply p).skein).vacate = none →
    ∃ u, exec (.rollback ⟨p, k, f⟩ cls cause lanes addr) s = .next u ∧ u.livePly p = true ∧ (u.ply p).repidx = (s.ply p).repidx + 1 ∧
      (u.ply p).prot = true ∧ (u.ply p).exiting = false ∧ (u.ply p).cause = 0 ∧ (u.ply p).journal = [] ∧ (u.ply p).tiles = (s.ply p).snap.tiles ∧
      (u.ply p).bad = (s.ply p).snap.bad ∧ (u.ply p).seq = (s.ply p).seq ∧ (u.ply p).batch = (s.ply p).batch ∧
      (∀ k, let t := Tab.get {} (s.ply p).snap.strands k
        ((u.ply p).strand k).s = t.s ∧ ((u.ply p).strand k).v = t.v ∧ ((u.ply p).strand k).p = t.p ∧ ((u.ply p).strand k).fpst = t.fpst ∧
        ((u.ply p).strand k).blocks = t.blocks ∧ ((u.ply p).strand k).trapBank = t.trapBank) ∧
      ∀ e ∈ (u.core (s.ply p).core).log, e.ply = p → e.held = false) ∧
  (∀ (s : State) (p k f cls cause : Nat) (lanes : W32) (addr : W64), s.livePly p = true →
    (∃ u, exec (.containment ⟨p, k, f⟩ cls cause lanes addr) s = .next u ∧ u.livePly p = false) ∧
    ((s.ply p).prot = false → ∃ u, exec (.rollback ⟨p, k, f⟩ cls cause lanes addr) s = .next u ∧ u.livePly p = false)) ∧
  (∀ (s : State) (p k f : Nat), s.liveFrag p k f = true →
    exec (.illegalEncoding p k f) s = .next (takeTrap (focus s p k f) { cause := 2 }) ∧
    ∀ r, failedFetch (focus s p k f) = some r →
      (∀ a, r.1 = .trap a → exec (.codeFetchFault p k f) s = .next (takeTrap (focus s p k f) { cause := 0x0F, addr := a })) ∧
      ∀ i, r.1 = .park i → exec (.codeFetchFault p k f) s = .next (halt (parkFault r.2 i none))) ∧
  (∀ (s : State) (kind d unit : Nat) (loc : W64) (double : Bool),
    ((kind = 5 ∨ kind = 6) ∧ paExists loc.toNat = true ∨ kind = 7 ∧ loc.toNat < 2 ^ 34 ∨ kind = 14 ∧ unit < 5 ∨ kind = 15 ∧ unit < 128 →
      exec (.softError kind d unit loc double) s =
        .next { s with flips := s.flips ++ [{ kind := kind, die := d, unit := unit, loc := loc, double := double, injected := false }] }) ∧
    (∀ e, d < 8 → unit < 36 → loc.toNat < 1024 → kind = 8 →
      ((s.core (36 * d + unit)).log.filter (fun e => !e.ext))[loc.toNat]? = some e → ∃ u, exec (.softError kind d unit loc double) s = .next u ∧
        u.flips = s.flips ∧ ∃ g ∈ (u.core (36 * d + unit)).log, g.serial = e.serial ∧ g.cells = e.cells ∧ g.bad = (e.bad || double)) ∧
    (kind = 18 → double = true → exec (.softError kind d unit loc double) s = .next (s.urgent (.deviceStop unit 11 7)))) ∧
  (∀ s : State, ∃ u, exec .correctedCountReport s = .next u ∧ u.plat.fixed = 0 ∧ u.plat.flits = 0 ∧ ∀ c, c < 288 →
    (u.core c).counts.timing = 0 ∧ (u.core c).counts.array = 0 ∧
    ((s.core c).counts.timing ≠ 0 → (u.core c).supply = Nat.min 420 ((s.core c).supply + 10)) ∧
    ((s.core c).counts.timing = 0 → (s.core c).counts.quiet < 15 → (u.core c).supply = (s.core c).supply) ∧
    ((s.core c).counts.timing = 0 → 15 ≤ (s.core c).counts.quiet →
      (u.core c).supply ≤ (s.core c).supply ∧ (s.core c).supply - 10 ≤ (u.core c).supply)) ∧
  (∀ (s : State) (q : Nat), q < 128 → ∃ u, exec (.queueTableError q) s = .next u ∧ (u.queue q).state = .stopped ∧
    (u.queue q).err = 3 ∧ (u.queue q).ring = 0 ∧ (u.queue q).ridx = 0 ∧ (u.queue q).shadowR = (s.queue q).shadowR ∧ (u.queue q).spoilt = true) ∧
  (∀ (s : State) (cc : Nat), (s.cmdCore cc).failed = true →
    (s.plat.spareUsed = false → s.pf0.remap.length < 256 → ∃ u, exec (.commandCoreSubstitution cc) s = .next u ∧ (u.cmdCore cc).failed = false ∧
      (u.cmdCore cc).cache = [] ∧ u.plat.spareUsed = true ∧ u.queues = s.queues) ∧
    (s.plat.spareUsed = true → ∃ u, exec (.commandCoreSubstitution cc) s = .next u ∧ ∀ v, v < 16 → (s.vdev v).exist = true →
      (s.vdev v).stopped = false → (∃ q ∈ coreQueues cc, (s.vdev v).ownsQueue q = true) → .deviceStop v 9 9 ∈ u.engine)) ∧
  ∀ (s : State) (c : Nat), (s.core c).retiring = true →
    (baySkeins s (coreBay c) ≠ [] → ∃ u, exec (.coreSubstitution c) s = .next u ∧ .coreSubstitution c ∈ u.engine ∧
      ∀ k ∈ baySkeins s (coreBay c), (u.skein k).vacate.isSome = true) ∧
    (baySkeins s (coreBay c) = [] → worstLane s c = none → (s.die (coreDie c)).sparesUsed < 4 → s.pf0.remap.length < 256 →
      ∃ u, exec (.coreSubstitution c) s = .next u ∧ (u.core c).retiring = false ∧ (u.core c).supply = 350 ∧
        (u.die (coreDie c)).sparesUsed = (s.die (coreDie c)).sparesUsed + 1 ∧ .placement ∈ u.engine) ∧
    (baySkeins s (coreBay c) = [] → worstLane s c = none → 4 ≤ (s.die (coreDie c)).sparesUsed →
      ∃ u, exec (.coreSubstitution c) s = .next u ∧ (u.core c).retired = true ∧ (u.core c).retiring = false)

/-! ## Virtual devices (R262, R278, R281 to R283, R289, R294, R295, R303 to R305, R329, R340 to R342, R404, R405) -/

/-- Invalidations, staging gates, collapse and wake, refresh windows, energy periods, the power and thermal events, stops and resets.
The model's own: what a reset keeps, metered energy, the rings after FLR (log 9, 12, 51, 58). -/
def Obligations.DeviceResults : Prop :=
  (∀ (s : State) (id i : Nat) (j : Job) (e : Instr), s.job id = some j → i ∈ j.todo →
    ((e = .invalTranslation id ∧ i = 0 ∧ ∃ b, j.before = some b ∧ b.met s = true) ∨ (e = .invalCode id ∧ i = 1) ∨ (e = .invalStaged id ∧ i = 2)) →
    ∃ u, exec e s = .next u ∧ (∀ k ∈ u.jobs, k.id = id → i ∉ k.todo) ∧
      (without j.todo i = [] → .completionTail id ∈ u.engine ∧ ∀ k ∈ u.jobs, k.id = id → k.done = true ∧ k.status = 0) ∧
      (i = 1 → ∀ b ∈ (s.vdev j.vdev).bays, ∀ c ∈ bayCores b, (u.core c).entryBuf = []) ∧
      (i = 1 → ∀ c, c < 4 → ∀ x ∈ (u.cmdCore c).cache, x.1 ≠ j.vdev) ∧
      (i = 2 → ∀ x ∈ (u.vdev j.vdev).staged, ¬ (ptrAddr x.src < (invalRange j.packet).2 ∧ (invalRange j.packet).1 < ptrAddr x.src + x.bytes))) ∧
  (∀ (s : State) (id : Nat) (j : Job), s.job id = some j → 0 ∈ j.todo →
    (∀ b, j.before = some b → b.met s = false → exec (.invalTranslation id) s = .next (s.later (.invalTranslation id))) ∧
    (j.before = none → ∃ u, exec (.invalTranslation id) s = .next u ∧
      ((∀ k ∈ u.jobs, k.id = id → 0 ∉ k.todo) ∨ .invalTranslation id ∈ u.engine))) ∧
  (∀ (s : State) (id : Nat) (g : Gate), s.gates.find? (fun h => h.id == id) = some g →
    (g.over = false → (∃ v ∈ gateDevices s g, runningSkeins s v ≠ []) → exec (.stagingGate id) s = .next (s.later (.stagingGate id))) ∧
    (∀ r m l t, g.failed = false → gateNext g.ranges g.moved = some (r, m) → (∀ h ∈ s.gates, id ≤ h.id) →
      (∀ v ∈ gateDevices s g, runningSkeins s v = []) → (∀ d ∈ g.dies, (s.die d).window = false) →
      ccRead s g.queue g.vdev (r.src + w64 m) (Nat.min (r.bytes - m) 262144) = .ok (l, t) →
      ∃ u, exec (.stagingGate id) s = .next u ∧ u.ws = (wsWrite t ((s.vdev g.vdev).wsbase * 2 ^ 26 + r.wsoff + m) l).ws ∧
        ∀ h ∈ u.gates, h.id = id → ∃ h0 ∈ t.gates, h0.id = id ∧ h = { h0 with moved := h0.moved + Nat.min (r.bytes - m) 262144 }) ∧
    (g.vacated = false → g.over = false →
      (s.clock < g.asked + 94000 → exec (.stagingVacateTimeout id) s = .next s) ∧
      (g.asked + 94000 ≤ s.clock → ∃ u, exec (.stagingVacateTimeout id) s = .next u ∧ (∀ h ∈ u.gates, h.id = id → h.vacated = true) ∧
        ∀ v ∈ gateDevices s g, ∀ k ∈ runningSkeins s v, (u.skein k).vacate.isSome = true)) ∧
    (g.over = true → ∃ u, exec (.stagingGateOpen id) s = .next u ∧ (∀ h ∈ u.gates, h.id ≠ id) ∧ .placement ∈ u.engine ∧
      (∀ v ∈ gateDevices s g, ∀ b ∈ (s.vdev v).bays, ∀ c ∈ bayCores b, ∀ l ∈ (u.core c).l1, l.1 % 4 ≠ 1) ∧
      ((s.queue g.queue).state = .held → (g.failed = true ∨ g.stage = true → (u.queue g.queue).ridx = (s.queue g.queue).ridx + 1) ∧
        (g.failed = false → g.stage = false → (u.queue g.queue).state = .ready)))) ∧
  (∀ (s : State) (v c : Nat), ((s.vdev v).collapse = .collapsing c →
      ((∃ j ∈ s.jobs, j.vdev = v) → exec (.vdevCollapseComplete v) s = .next (s.later (.vdevCollapseComplete v))) ∧
      ((∀ j ∈ s.jobs, j.vdev ≠ v) → ∃ u, exec (.vdevCollapseComplete v) s = .next u ∧ (u.vdev v).collapse = .collapsed c ∧
        ∀ b ∈ (s.vdev v).bays, ∀ k ∈ bayCores b, (u.core k).l1 = [] ∧ (u.core k).utlb = [])) ∧
    ((s.vdev v).collapse = .waking c → ∃ u, exec (.wake v) s = .next u ∧ (u.vdev v).collapse = .awake ∧ (u.vdev v).heldIn = [] ∧
      u.inputs = (s.vdev v).heldIn ++ s.inputs ∧ .placement ∈ u.engine)) ∧
  (∀ (s : State) (d : Nat), (windowsOn s d = true → windowPhase s d < 2820 → ∃ u, exec (.refreshWindowOpen d) s = .next u ∧ (u.die d).window = true) ∧
    ((s.die d).window = true → 2820 ≤ windowPhase s d → ∃ u, exec (.refreshWindowClose d) s = .next u ∧ (u.die d).window = false)) ∧
  (∀ (s : State) (v w m n : Nat) (d e : VDev), s.plies = [] → v ≠ w → s.vdevs = [(v, d), (w, e)] → d.exist = true → e.exist = true →
    s.plat.traffic = [(v, m), (w, n)] → ∃ u, exec .energyPeriod s = .next u ∧
    (u.vdev v).energy = d.energy + w64 (portion (Config.sharedEnergy s.draws) m (m + n)) ∧
    (u.vdev w).energy = e.energy + w64 (portion (Config.sharedEnergy s.draws) n (m + n)) ∧ u.plat.traffic = [] ∧
    (u.vdev v).acct = { d.acct with balance := min (d.acct.balance + d.acct.refill) d.acct.cap } ∧ .placement ∈ u.engine) ∧
  (∀ (s : State) (p e whole : Nat),
    let v := (s.ply p).vdev
    let n := portion e (s.ply p).used whole
    ((chargePly s p e whole).ply p).energy = (s.ply p).energy + w64 n ∧ ((chargePly s p e whole).ply p).used = 0 ∧
    ((chargePly s p e whole).vdev v).energy = (s.vdev v).energy + w64 n ∧
    ((chargePly s p e whole).vdev v).acct.balance = (s.vdev v).acct.balance - n) ∧
  (∀ (s : State) (on : Bool), exec (.powerThrottle on) s = .next { s with plat := { s.plat with throttled := on } }) ∧
  (∀ (s : State) (d k : Nat), (k = 0 → ∃ u, exec (.thermalEvent d k) s = .next u ∧ d ∈ u.plat.hot ∧
      u.plat.throttled = s.plat.throttled ∧ u.pf0.precw = s.pf0.precw + 1) ∧
    (1 ≤ k → k ≤ 4 → exec (.thermalEvent d k) s = .next (s.urgent (.packageStop 3))) ∧
    (k = 5 → ∃ u, exec (.thermalEvent d k) s = .next u ∧ d ∉ u.plat.hot ∧ u.plat.throttled = s.plat.throttled ∧ u.plies = s.plies)) ∧
  (∀ (s : State) (v cls cause : Nat), (s.vdev v).exist = true → (s.vdev v).stopped = false → ∃ u, exec (.deviceStop v cls cause) s = .next u ∧
    (u.vdev v).stopped = true ∧ (∀ p, u.livePly p = true → (u.ply p).vdev ≠ v) ∧ (∀ g ∈ u.gates, g.vdev ≠ v) ∧
    ∀ q, q < 128 → (s.vdev v).ownsQueue q = true → (u.queue q).state = .stopped ∧ ((s.queue q).state ≠ .stopped → (u.queue q).err = cause)) ∧
  (∀ (s : State) (cause : Nat), s.plat.stopped = false → ∃ u, exec (.packageStop cause) s = .next u ∧ u.plat.stopped = true ∧ candidates u = [] ∧
    u.pf0.precw = s.pf0.precw + 1 ∧ ∀ v, (s.vdev v).exist = true → (u.vdev v).stopped = true) ∧
  (∀ (s : State) (fn : Nat), 1 ≤ fn → fn ≤ 16 → (s.vdev (fn - 1)).exist = true → ∃ u, exec (.flr fn) s = .next u ∧ (u.vdev (fn - 1)).faults = [] ∧
    (∀ p, u.livePly p = true → (u.ply p).vdev ≠ fn - 1) ∧
    ∀ q, q < 128 → (s.vdev (fn - 1)).ownsQueue q = true → (u.queue q).state = .stopped) ∧
  ∀ s : State, ∃ u, exec .packageReset s = .next u ∧ u.clock = 0 ∧ u.vdevs = [] ∧ u.queues = [] ∧ u.plies = [] ∧ u.skeins = [] ∧ u.jobs = [] ∧
    u.home = [] ∧ u.hbm = [] ∧ u.ws = [] ∧ u.pf0.faddr = 0xFFFF ∧ u.pf0.remap = s.pf0.remap.map (fun e => (e.1, e.2 &&& ~~~2#64)) ∧ u.plat.held = !Config.imagesVerify ∧
    (Config.imagesVerify = false → u.pf0.result = 4)

/-! ## The management function (R266, R281, R292, R300, R301, R305, R330 to R332, R337, R339, R380, R391, R402, R403) -/

/-- The commands (R331): what each answers and does; its end; the registers, the queue table, error injection, the aperture, PCIe configuration.
The model's own: configuration items, the rings after Create, the time of commands, injections, the digest of a report (log 11, 57, 61, 62, 66, 85). -/
def Obligations.ManagementResults : Prop :=
  (∀ (s : State) (c : Command) (v : Nat), s.pf0.busy = some c → c.vdev = v → c.done = false →
    let ended (u : State) (n : Nat) : Prop := u.pf0.busy = some { c with result := n, done := true }
    let only (n : Nat) : State := { s with pf0 := { s.pf0 with busy := some { c with result := n, done := true } } }
    (c.op = 1 → (createOk s v (bufBytes s) = false → exec (.create v) s = .next (only 1)) ∧
      (createOk s v (bufBytes s) = true → ∃ u, exec (.create v) s = .next u ∧ ended u 0 ∧ u.vdev v = vdevOf (bufBytes s) ∧ (u.vdev v).exist = true ∧
        ∀ q ∈ (vdevOf (bufBytes s)).queueList, (u.queue q).vdev = v)) ∧
    ((s.vdev v).exist = false → (c.op = 2 → exec (.destroy v) s = .next (only 3)) ∧ (c.op = 3 → exec (.setAccount v) s = .next (only 3)) ∧
      (c.op = 4 → exec (.writeProcessGroupEntry v) s = .next (only 3)) ∧ (c.op = 5 → exec (.setTranslationRoot v) s = .next (only 3))) ∧
    ((s.vdev v).exist = true →
      (c.op = 2 → ((∃ q ∈ (s.vdev v).queueList, (s.queue q).state.runs = true) → exec (.destroy v) s = .next (only 2)) ∧
        ((∀ q ∈ (s.vdev v).queueList, (s.queue q).state.runs = false) → (∀ k ∈ s.skeins, (s.reel k.2.reel).vdev ≠ v) →
          ∃ u, exec (.destroy v) s = .next u ∧ ended u 0 ∧ (u.vdev v).exist = false ∧ ∀ q ∈ (s.vdev v).queueList, (u.queue q).state = .off)) ∧
      (c.op = 3 → (2 ^ 62 < fieldAt (bufBytes s) 0x10 8 → exec (.setAccount v) s = .next (only 1)) ∧
        (fieldAt (bufBytes s) 0x10 8 ≤ 2 ^ 62 → ∃ u, exec (.setAccount v) s = .next u ∧ ended u 0 ∧ .placement ∈ u.engine ∧
          (u.vdev v).acct = { balance := bufInt (bufBytes s) 0, refill := fieldAt (bufBytes s) 8 8, cap := fieldAt (bufBytes s) 0x10 8,
                              th1 := bufInt (bufBytes s) 0x18, th2 := bufInt (bufBytes s) 0x20, th3 := bufInt (bufBytes s) 0x28 })) ∧
      (c.op = 4 → let i := fieldAt (bufBytes s) 0x10 1
        (64 ≤ i → exec (.writeProcessGroupEntry v) s = .next (only 1)) ∧
        (i < 64 → (∃ r ∈ s.reels, r.2.vdev = v ∧ r.2.pgt = some i) → exec (.writeProcessGroupEntry v) s = .next (only 2)) ∧
        (i < 64 → (∀ r ∈ s.reels, ¬ (r.2.vdev = v ∧ r.2.pgt = some i)) → ∃ u, exec (.writeProcessGroupEntry v) s = .next u ∧ ended u 0 ∧
          Tab.get {} (u.vdev v).pgt i =
            { nrank := fieldAt (bufBytes s) 0 2, rank := fieldAt (bufBytes s) 2 2, map := w64 (fieldAt (bufBytes s) 8 8) })) ∧
      (c.op = 5 → let t := w64 (fieldAt (bufBytes s) 0 8)
        (rootOk (s.vdev v) t = false → exec (.setTranslationRoot v) s = .next (only 1)) ∧
        (rootOk (s.vdev v) t = true → runningSkeins s v ≠ [] → exec (.setTranslationRoot v) s = .next (only 2)) ∧
        (rootOk (s.vdev v) t = true → runningSkeins s v = [] → ∃ u, exec (.setTranslationRoot v) s = .next u ∧ ended u 0 ∧ (u.vdev v).troot = t))) ∧
    (c.op = 6 → ∃ u, exec .attest s = .next u ∧ ended u 0 ∧
      Mem.read u.pf0.report 0 0x440 = reportHead s ((bufBytes s).take 32))) ∧
  (∀ (s : State) (c : Command), s.pf0.busy = some c →
    (c.done = true → c.due ≤ s.clock → exec .commandDone s = .next { s with pf0 := { s.pf0 with result := c.result, busy := none } }) ∧
    ((c.done = false ∨ s.clock < c.due) → exec .commandDone s = .next s)) ∧
  (∀ (s : State) (x : W64), ∃ u, exec (.plimit x) s = .next u ∧ 1000 ≤ u.pf0.plimit ∧ u.pf0.plimit ≤ 4800 ∧
    (1000 ≤ x.toNat % 8192 → x.toNat % 8192 ≤ 4800 → u.pf0.plimit = x.toNat % 8192) ∧ u = { s with pf0 := { s.pf0 with plimit := u.pf0.plimit } }) ∧
  (∀ (s : State) (q : Nat) (x : W64), q < 128 → s.flips = [] →
    ((s.queue q).state.runs = true ∨ x.toNat % 8 ≠ 1 → exec (.queueStateWrite q x) s = .next (wakeOwner s q)) ∧
    ((s.queue q).state.runs = false → x.toNat % 8 = 1 →
      (ringOk (s.queue q) = false → ∃ u, exec (.queueStateWrite q x) s = .next u ∧ (u.queue q).state = .off) ∧
      (ringOk (s.queue q) = true → ∃ u, exec (.queueStateWrite q x) s = .next u ∧ (u.queue q).state = .idle ∧
        (u.queue q).ridx = (if (s.queue q).spoilt then (s.queue q).shadowR else (s.queue q).ridx) ∧ (u.queue q).widx = (u.queue q).ridx ∧
        (u.queue q).skip = 0 ∧ (u.queue q).ring = (s.queue q).ring))) ∧
  (∀ (s : State) (x : W64), s.pf0.arm = false → bits x 8 4 = 6 → paExists s.pf0.inja.toNat = true →
    (ownerOf s 6 (bits x 12 4) (bits x 16 8) s.pf0.inja = none → ∃ u, exec (.injectionArm x) s = .next u ∧ u.pf0.arm = true ∧
      u.pf0.fired = (s.pf0.fired && !(bit x 2)) ∧ u.pf0.recno = s.pf0.recno ∧
      u.flips = s.flips ++ [{ kind := 6, die := bits x 12 4, unit := bits x 16 8, loc := s.pf0.inja, double := bit x 1, injected := true }]) ∧
    ∀ v, ownerOf s 6 (bits x 12 4) (bits x 16 8) s.pf0.inja = some v → (s.vdev v).secure = true →
      ∃ u, exec (.injectionArm x) s = .next u ∧ u.pf0.arm = false ∧ u.flips = s.flips) ∧
  (∀ (s : State) (x : W64), exec (.registerWrite 0x08 x) s = .next { s with pf0 := { s.pf0 with faddr := x.setWidth 16 } } ∧
    exec (.registerWrite 0x30 x) s = .next { s with pf0 := { s.pf0 with inja := x } } ∧
    exec (.registerWrite 0x40 x) s = .next { s with pf0 := { s.pf0 with rwbase := x.toNat / 2 ^ 30, rwvdev := x.toNat % 16 } } ∧
    (∀ k, k < 16 → ∃ u, exec (.registerWrite (0x100 + 8 * k) x) s = .next u ∧ Mem.read u.pf0.buf (8 * k) 8 = bytesLE x.toNat 8 ∧
      ∀ a, (a < 8 * k ∨ 8 * k + 8 ≤ a) → Mem.byte u.pf0.buf a = Mem.byte s.pf0.buf a) ∧
    (∀ q w, q < 128 → w < 8 → w ≠ 5 → s.flips = [] → (s.queue q).state.runs = true → exec (.registerWrite (0x2000 + 64 * q + 8 * w) x) s = .next (wakeOwner s q)) ∧
    (s.plat.held = false → s.pf0.busy = none → ∃ u, exec (.registerWrite 0x10 x) s = .next u ∧ ∃ c : Command, u.pf0.busy = some c ∧
      c.op = x.toNat % 16 ∧ c.vdev = x.toNat / 16 % 16 ∧ s.clock < c.due ∧ c.due ≤ s.clock + 47000000) ∧
    (s.plat.held = false → s.pf0.busy.isSome = true → exec (.registerWrite 0x10 x) s = .next { s with pf0 := { s.pf0 with lost := true } }) ∧
    ∀ o, (o = 0 ∨ o = 0x28 ∨ (0x180 ≤ o ∧ o < 0x2000) ∨ 0x4000 ≤ o) → exec (.registerWrite o x) s = .next s) ∧
  (∀ (s : State) (wr : Bool) (o n : Nat) (d : Bytes), let v := s.vdev s.pf0.rwvdev
    let len := if wr then d.length else n
    (v.exist = false ∨ v.secure = true ∨ 2 ^ 30 < o + len ∨ v.rsvBytes < s.pf0.rwbase * 2 ^ 30 + o + len →
      ∃ u, exec (.apertureAccess wr ⟨o, none⟩ n d) s = .next u ∧ u.pf0.precw = s.pf0.precw + 1 ∧ u.home = s.home ∧
        (wr = false → u.plat.out.getLast? = some (.completerAbort false))) ∧
    (v.exist = true → v.secure = false → o + len ≤ 2 ^ 30 → s.pf0.rwbase * 2 ^ 30 + o + len ≤ v.rsvBytes → v.collapse = .awake → wr = false →
      (v.saves = 0 ∨ s.pf0.rwbase * 2 ^ 30 + o + n ≤ 0xC1000) → s.flips = [] → HomesAgree s → ∃ u, exec (.apertureAccess wr ⟨o, none⟩ n d) s = .next u ∧ u.plat.out = s.plat.out ++ [.readReply false
        ((upFrom (s.pf0.rwbase * 2 ^ 30 + o) n).map (fun i => Mem.byte s.home (v.rsvPa i)))])) ∧
  ∀ (s : State) (fn item : Nat) (x : W64), fn ≤ 16 → ∃ u, exec (.configurationRequest fn item x) s = .next u ∧
    (item = 0 → (Tab.get {} u.plat.fns fn).enabled = x.getLsbD 0) ∧ (item = 1 → (Tab.get {} u.plat.fns fn).pri = x.getLsbD 0) ∧
    (∀ k, k ≠ fn → Tab.get {} u.plat.fns k = Tab.get {} s.plat.fns k) ∧ u.plies = s.plies ∧ u.home = s.home

/-! ## The host ports and the fabric (R201, R249, R262, R264, R267, R286, R305, R327, R332, R335, R337, R380, R395 to R398, R405) -/

/-- Doorbells, BAR2 and host accesses, what the host and peers answer and ask, and the links.
The model's own: the numbers of requests and answers, ATS completions (log 5, 39, 46, 54, 55, 56, 66). -/
def Obligations.InboundResults : Prop :=
  (∀ (s : State) (port : Bool) (q v : Nat) (x : W64), onlyPf0 s = false → q < 128 →
    (s.vdevs = [(v, s.vdev v)] → (s.vdev v).exist = true → (s.vdev v).ownsQueue q = true →
    (s.queue q).vdev = v → (s.vdev v).collapse = .awake → (s.queue q).state.runs = true → (s.queue q).dev = false → s.flips = [] →
    (x.toNat ≤ (s.queue q).widx → exec (.doorbell ⟨port, 0⟩ q ⟨true, some x⟩) s = .next s) ∧
    ((s.queue q).widx < x.toNat → x.toNat - (s.queue q).ridx ≤ (s.queue q).slots →
      ∃ u, exec (.doorbell ⟨port, 0⟩ q ⟨true, some x⟩) s = .next u ∧ (u.queue q).widx = x.toNat ∧ (u.queue q).state ≠ .idle ∧ (u.queue q).ridx = (s.queue q).ridx) ∧
    ((s.queue q).widx < x.toNat → (s.queue q).slots < x.toNat - (s.queue q).ridx →
      ∃ u, exec (.doorbell ⟨port, 0⟩ q ⟨true, some x⟩) s = .next u ∧ (u.queue q).state = .stopped ∧ (u.queue q).err = 5 ∧ (u.queue q).widx = (s.queue q).widx)) ∧
    exec (.doorbell ⟨port, 0⟩ q ⟨true, none⟩) s = .next (s.send (.readReply port (List.replicate 8 0))) ∧
    ((s.vdev v).exist = true → (s.vdev v).secure = true → ∀ w, exec (.doorbell ⟨port, v + 1⟩ q ⟨false, w⟩) s = .next (if w.isSome then s else s.send (.unsupported port)))) ∧
  (∀ (s : State) (port : Bool) (vf o n : Nat) (wr : Bool) (d : Bytes), onlyPf0 s = false →
    ((vf = 0 ∨ (s.vdev (vf - 1)).exist = false ∨ (s.vdev (vf - 1)).stopped = true) →
      exec (.vfBar2Access ⟨port, vf⟩ true wr o n d) s = .next (if wr then s else s.send (.completerAbort port))) ∧
    (vf ≠ 0 → (s.vdev (vf - 1)).exist = true → (s.vdev (vf - 1)).stopped = false → (s.vdev (vf - 1)).secure = true →
      exec (.vfBar2Access ⟨port, vf⟩ false wr o n d) s = .next (if wr then s else s.send (.unsupported port))) ∧
    ∀ l, vf ≠ 0 → (s.vdev (vf - 1)).exist = true → (s.vdev (vf - 1)).stopped = false → (s.vdev (vf - 1)).collapse = .awake →
      (wr = false → o + n ≤ 2 ^ 40 → (inboundPieces s (vf - 1) o 0 0 n (n / 4096 + 2)).1 = some l → s.flips = [] → HomesAgree s →
        ∃ u, exec (.vfBar2Access ⟨port, vf⟩ true wr o n d) s = .next u ∧
          u.plat.out = s.plat.out ++ [.readReply port (l.flatMap (fun x => Mem.read s.home x.1 x.2.2))]) ∧
      (wr = true → o + d.length ≤ 2 ^ 40 → ∀ t, inboundPieces s (vf - 1) o 1 0 d.length (d.length / 4096 + 2) = (some l, t) →
        exec (.vfBar2Access ⟨port, vf⟩ true wr o n d) s = .next (writePieces t l d))) ∧
  (∀ (s : State) (port : Bool) (v pa n : Nat) (d : Bytes), onlyPf0 s = false → (s.vdev v).collapse = .awake →
    ((∀ i, i < n → paExists (pa + i) = true) → s.flips = [] → HomesAgree s →
      ∃ u, exec (.hostRead ⟨port, v⟩ pa n) s = .next u ∧ u.plat.out = s.plat.out ++ [.readReply port (Mem.read s.home pa n)] ∧
        ∀ a, Mem.byte u.home a = Mem.byte s.home a) ∧
    ((∀ i, i < d.length → paExists (pa + i) = true) → (∀ q ∈ s.queues, q.2.state ≠ .parked) →
      ∃ u, exec (.hostWrite v pa d) s = .next u ∧ Mem.read u.home pa d.length = d ∧
        (HomesAgree s → s.flips = [] → ∀ a, (a < pa ∨ pa + d.length ≤ a) → Mem.byte u.home a = Mem.byte s.home a))) ∧
  (∀ (s : State) (id st : Nat) (d : Bytes) (r : Req), s.plat.reqs.find? (fun x => x.id == id) = some r →
    (∀ pa, r.ask = .hostRead pa → d.length = 128 → exec (.hostCompletion id st d) s =
      .next (giveReply (dropReq s id) r.who (if st = 0 then .hostSector id pa d else .hostLost pa))) ∧
    (∀ n, r.ask = .flush n → ∃ u, exec (.hostCompletion id st d) s = .next u ∧ u.plat.hostDone = max s.plat.hostDone n ∧ (∀ x ∈ u.plat.reqs, x.id ≠ id)) ∧
    (∀ pasid page kind c, r.ask = .ats pasid page kind → whoCore s r.who = some c →
      let g := atsPageOf r.vdev pasid page (w64 (natLE (d.take 8)))
      (st = 0 → pagePermits g kind = true → (∀ p k, r.who ≠ .bind p k) → exec (.hostCompletion id st d) s = .next (tlbFill (dropReq s id) c g)) ∧
      (st = 0 → pagePermits g kind = true → ∀ p k, r.who = .bind p k →
        exec (.hostCompletion id st d) s = .next (rebind (tlbFill (dropReq s id) c g) p (·.pending))) ∧
      (st ≠ 0 ∨ pagePermits g kind = false → exec (.hostCompletion id st d) s = .next (giveReply (dropReq s id) r.who (.atsDenied pasid page kind)))) ∧
    (∀ x, r.ask = .ratom x → exec (.hostCompletion id st d) s =
      .next (s.later (.ratomReply x (w64 (natLE (d.take 8))) (if st = 0 then 0 else 3)))) ∧
    (∀ rank off len, r.ask = .peerLoad rank off len →
      exec (.peerResponse id 0 d) s = .next (giveReply (dropReq s id) r.who (.peerData rank off d false)) ∧
      exec (.peerResponse id 1 d) s = .next (giveReply (dropReq s id) r.who (.peerData rank off d true)) ∧
      exec (.peerResponse id 2 d) s = .next (giveReply (dropReq s id) r.who (.peerUnreachable rank off)) ∧
      exec (.peerResponse id 3 d) s = .next (giveReply (dropReq s id) r.who (.peerRefused rank off)) ∧
      (s.clock < r.clock + 65536 → exec (.peerLoadTimeout id) s = .next s) ∧
      (r.clock + 65536 ≤ s.clock → exec (.peerLoadTimeout id) s = .next (giveReply (dropReq s id) r.who (.peerUnreachable rank off)))) ∧
    ∀ rank p own, r.ask = .peerStore rank p own → (∀ q, r.who ≠ .queue q) → exec (.peerResponse id 0 d) s = .next (dropReq s id) ∧
      (s.livePly p = true → ∃ u w, exec (.peerResponse id 2 d) s = .next u ∧ .containment ⟨p, own.who % 32, own.frag⟩ 10 5 0 own.address ∈ u.engine ∧
        exec (.peerResponse id 3 d) s = .next w ∧ .containment ⟨p, own.who % 32, own.frag⟩ 6 9 0 own.address ∈ w.engine)) ∧
  (∀ (s : State) (tag pasid n : Nat) (va : W64), onlyPf0 s = false → s.plat.invals = [] →
    ((∀ v, v < 16 → (s.vdev v).exist = false) → exec (.atsInvalidateRequest tag pasid va n) s = .next (s.send (.atsDone tag))) ∧
    ∀ v, s.vdevs = [(v, s.vdev v)] → v < 16 → (s.vdev v).exist = true →
      let t := invalidate s v true pasid (bits va 0 57 / 4096 * 4096) (roundUp (bits va 0 57 + n) 4096)
      let b := beforeNow t v true pasid (bits va 0 57 / 4096 * 4096) (roundUp (bits va 0 57 + n) 4096)
      (b.met t = true → exec (.atsInvalidateRequest tag pasid va n) s = .next (t.send (.atsDone tag))) ∧
      (b.met t = false → ∃ u, exec (.atsInvalidateRequest tag pasid va n) s = .next u ∧ u.plat.invals = [⟨tag, b⟩] ∧ u.plat.out = t.plat.out)) ∧
  (∀ (s : State) (g : PriGroup), s.plat.groups = [g] → g.sent = true →
    (∀ p k f, g.who = .frag p k f → s.liveFrag p k f = true →
      (∃ u, exec (.prgResponseSuccess g.id) s = .next u ∧ (u.fragOf p k f).wait = .none ∧ u.plat.groups = []) ∧
      ∃ u, exec (.prgResponseInvalid g.id) s = .next u ∧ (∃ t, (u.fragOf p k f).wait = .fault t) ∧ u.plat.groups = []) ∧
    ∃ u, exec (.prgResponseFailure g.fn) s = .next u ∧ u.plat.groups = [] ∧ (Tab.get {} u.plat.fns g.fn).priDead = true) ∧
  (∀ (s : State) (src dst v req kind off len op pol : Nat) (d : Bytes), onlyPf0 s = false → src ≠ s.pf0.faddr.toNat →
    (s.pf0.faddr = 0xFFFF ∨ dst ≠ s.pf0.faddr.toNat → exec (.peerRequest src dst v req kind ⟨off, pol⟩ len op d) s = .next (s.send (.peerReply src req 2 []))) ∧
    (s.pf0.faddr ≠ 0xFFFF → dst = s.pf0.faddr.toNat → (s.vdev v).collapse = .awake → ((s.vdev v).stopped = true ∨ (s.vdev v).xbytes.toNat < off + len) →
      exec (.peerRequest src dst v req kind ⟨off, pol⟩ len op d) s = .next (s.send (.peerReply src req 3 []))) ∧
    ∀ g : Page, s.pf0.faddr ≠ 0xFFFF → dst = s.pf0.faddr.toNat → (s.vdev v).exist = true → (s.vdev v).stopped = false → (s.vdev v).collapse = .awake →
      off + len ≤ (s.vdev v).xbytes.toNat → s.flips = [] →
      let va := (ptrAddr (s.vdev v).xbase + off) % 2 ^ 57
      let pa := Page.phys g va
      let w := walkTouch s v va
      (kind = 0 → translateWalk w v va 0 = .ok g → homePoisoned (homeTouch w pa pol) (pa / 128) = false → ∃ u b, exec (.peerRequest src dst v req kind ⟨off, pol⟩ len op d) s = .next u ∧
        u.plat.out = s.plat.out ++ [.peerReply src req 0 b] ∧ (HomesAgree s → b = Mem.read s.home pa len)) ∧
      (kind = 2 → op < 27 → translateWalk w v va 2 = .ok g → pa % amoBytes op = 0 → ∃ u, exec (.peerRequest src dst v req kind ⟨off, pol⟩ len op d) s = .next u ∧
        (HomesAgree s → u.plat.out = s.plat.out ++ [.peerReply src req 0 (bytesLE (natLE (Mem.read s.home pa (amoBytes op))) 8)] ∧
          Mem.read u.home pa (amoBytes op) = bytesLE (atomicResult op (natLE (Mem.read s.home pa (amoBytes op))) (fieldAt d 0 8 % 2 ^ (8 * amoBytes op))
            (fieldAt d 8 8 % 2 ^ (8 * amoBytes op))) (amoBytes op)))) ∧
  ∀ (s : State) (port lane : Nat) (l : Link), s.plat.links = [l] → l.port = port →
    (l.up = true → (∃ u, exec (.linkReplay port) s = .next u ∧ u.plat.flits = s.plat.flits + 1 ∧ u.plies = s.plies) ∧
      (l.lanes.contains lane = true → 1 < l.lanes.length → ∃ u, exec (.linkRetrain port lane) s = .next u ∧
        u.plat.links = [{ l with inRow := 0, replays := [], lanes := otherHalf l.lanes lane, steps := (l.lanes, lane, s.clock) :: l.steps }] ∧
        u.pf0.precw = s.pf0.precw + 1) ∧
      (l.lanes = [lane] → ∃ u, exec (.linkRetrain port lane) s = .next u ∧ .linkDown port ∈ u.engine) ∧
      (∀ ls x c rest, l.steps = (ls, x, c) :: rest → (s.clock < c + 940000000 → exec (.spareLaneRetrain port) s = .next s) ∧
        (c + 940000000 ≤ s.clock → l.spares < 2 → s.pf0.remap.length < 256 → ∃ u, exec (.spareLaneRetrain port) s = .next u ∧
          u.plat.links = [{ l with lanes := ls, steps := rest, spares := l.spares + 1 }])) ∧
      ∃ u, exec (.linkDown port) s = .next u ∧ (∀ x ∈ u.plat.links, x.up = false) ∧ (∀ r ∈ u.plat.routes, r.2 ≠ some port) ∧
        ∀ r ∈ s.plat.reqs, r.link = some port → (∃ a b c, r.ask = .peerLoad a b c) → ∀ q ∈ u.plat.reqs, q.id ≠ r.id) ∧
    (l.up = false → (s.clock < l.since + 9400000 → exec (.downLinkRetrain port true) s = .next s) ∧
      (l.since + 9400000 ≤ s.clock → l.dead = false → ∃ u, exec (.downLinkRetrain port true) s = .next u ∧
        (∀ x ∈ u.plat.links, x.up = true ∧ x.lost = []) ∧ ∀ i ∈ l.lost, Tab.get none u.plat.routes i = some port))

/-! ## Checkpoints and captures (R288, R406 to R411) -/

/-- CKPT packets whose descriptor and shards keep their limits, captures, re-runs, and the re-test of parked queues. A save goes part by part: the
cleared seal, the shards, the header, the seal, the state, with a release at system scope between (R407).
The model's own: the layout of a capture slot, statuses and the new epoch, the parts of a save (log 59, 60, 73). -/
def Obligations.CheckpointResults : Prop :=
  (∀ (s t u w : State) (q : Nat) (b d lst : Bytes), lookHead s q = (t, some b) → pkType b = 11 →
    let v := (t.queue q).vdev
    let c := ckptOf d
    ccFetch t q v (w64 (fieldAt b 8 8)) 128 = .ok (d, u) →
    (ckptOk d = false → ∀ e ∈ [Instr.ckptSave q, .ckptRestore q, .ckptArmCapture q], exec e s = .next (packetError u q b)) ∧
    (ckptOk d = true → (c.op ≤ 1 → jobsOf u q = []) → ccFetch u q v c.list (32 * c.nshard) = .ok (lst, w) →
      let l := shardsOf lst c.nshard
      let v' := (w.queue q).vdev
      (shardsOk c lst = false → (c.op = 0 → exec (.ckptSave q) s = .next (packetError w q b)) ∧
        (c.op = 1 → exec (.ckptRestore q) s = .next (packetError w q b)) ∧ (c.op = 2 → exec (.ckptArmCapture q) s = .next (packetError w q b))) ∧
      (shardsOk c lst = true →
        (∀ n st x y, c.op = 0 → (w.queue q).save = none → ccFetch w q (w.queue q).vdev c.counter 8 = .ok (n, x) → ccFetch x q (w.queue q).vdev c.state 32 = .ok (st, y) →
          (saveDue c (ckptStateOf st) y.clock (natLE n) = false → exec (.ckptSave q) s = .next (startAndComplete y q b 4)) ∧
          (saveDue c (ckptStateOf st) y.clock (natLE n) = true →
            let k := if (ckptStateOf st).epoch = 0 then 0 else 1 - (ckptStateOf st).slot % 2
            ∀ z r, placesReady y q (w.queue q).vdev (slotAt c k) c.size 1 = .ok z →
              ccWrite y q (w.queue q).vdev (slotAt c k + 0x78) (bytesLE 0 8) = .ok r → exec (.ckptSave q) s = .next (r.modQueue q (fun x =>
                { x with save := some { step := natLE n, epoch := (ckptStateOf st).epoch, slot := k, done := 0, all := [] } })))) ∧
        (∀ (m : SaveRun) (r : State), c.op = 0 → (w.queue q).save = some m → ccLost w q = none →
          let slot := slotAt c m.slot
          let next (all : Bytes) (t : State) : State := t.modQueue q (fun x => { x with save := some { m with done := m.done + 1, all := all } })
          ((m.done = 0 ∨ m.done = l.length + 2 ∨ m.done = l.length + 4) → ∀ f, ccRelease w q v' (w.queue q).fence = (r, f, true) →
            exec (.ckptSave q) s = .next (next m.all (r.modQueue q (fun x => { x with fence := none })))) ∧
          (∀ h d, l[m.done - 1]? = some h → 0 < m.done → copySectors w q v' h.src (slot + BitVec.ofNat 64 h.off) 0 (h.bytes / 128) = .ok (d, r) →
            exec (.ckptSave q) s = .next (next (m.all ++ d) r)) ∧
          (m.done = l.length + 1 → ccWrite w q v' slot (headerBytes 0x4B39434B c m.step m.epoch m.all.length (sha256 m.all)) = .ok r →
            exec (.ckptSave q) s = .next (next m.all r)) ∧
          (m.done = l.length + 3 → ccWrite w q v' (slot + 0x78) (bytesLE (m.epoch ||| 2 ^ 63) 8) = .ok r →
            exec (.ckptSave q) s = .next (next m.all r)) ∧
          (m.done = l.length + 5 → ccWrite w q v' c.state (bytesLE m.step 8 ++ bytesLE (w.clock % 2 ^ 64) 8 ++ bytesLE m.slot 8 ++
            bytesLE (m.epoch + 1) 8) = .ok r → exec (.ckptSave q) s = .next (startAndComplete r q b 0))) ∧
        (∀ g0 g1 x y, c.op = 1 → trySlot w q (w.queue q).vdev c l 0x4B39434B 0 = .ok (g0, x) →
          trySlot x q (w.queue q).vdev c l 0x4B39434B 1 = .ok (g1, y) →
          (chooseSlot c.every g0 g1 = none → exec (.ckptRestore q) s = .next (ckptFails y q b 5)) ∧
          ∀ g z r, chooseSlot c.every g0 g1 = some g → putShards y q (w.queue q).vdev l g.data = .ok z →
            ccWrite { z with draws := z.draws + 1 } q (w.queue q).vdev c.state (bytesLE g.step 8 ++ bytesLE (Config.freeWord z.draws).toNat 8 ++
              bytesLE g.index 8 ++ bytesLE (g.epoch + 1) 8) = .ok r → exec (.ckptRestore q) s = .next (startAndComplete r q b 0)) ∧
        (c.op = 2 → ∃ r, exec (.ckptArmCapture q) s = .next r ∧ (r.queue q).captures = c.every ∧ (r.queue q).capTaken = 0 ∧
          (r.queue q).capDesc = w64 (fieldAt b 8 8) ∧ (r.queue q).ridx = (w.queue q).ridx + 1) ∧
        (∀ x y g h ctx z, c.op = 3 → rerunOf s q = none → trySlot w q (w.queue q).vdev c l 0x4B394341 c.every = .ok (some g, x) →
          ccFetch x q (w.queue q).vdev (slotAt c c.every + w64 captureContextAt) 8 = .ok (h, y) → Tab.find (natLE h) y.captures = some ctx →
          ((y.vdev (w.queue q).vdev).bays.contains (coreBay c.core)) = true → putShards y q (w.queue q).vdev l g.data = .ok z →
          exec (.ckptRerun q) s = .next (startRerun z q b c ctx))))) ∧
  (∀ (s : State) (p : Nat) (k : Captured), s.livePly p = true → (s.ply p).capture = some k →
    (k.desc.length ≠ 128 → ∃ u, exec (.intervalCapture p) s = .next u ∧ (u.ply p).capture = none ∧ (u.ply p).halt = false) ∧
    (k.desc.length = 128 → ckptOk k.desc = true → k.shards.length = (ckptOf k.desc).nshard →
      (∀ t, k.sent = false → writeCapture s (s.ply p).queue (s.ply p).vdev k = .ok t →
        ∃ u, exec (.intervalCapture p) s = .next u ∧ u.home = t.home ∧
          (ccSending t (s.ply p).queue = false → (u.ply p).capture = none ∧ (u.ply p).halt = false) ∧
          (ccSending t (s.ply p).queue = true → (u.ply p).capture = some { k with sent := true } ∧ .intervalCapture p ∈ u.engine)) ∧
      (k.sent = true → ccLost s (s.ply p).queue = none → ccSending s (s.ply p).queue = false →
        ∃ u, exec (.intervalCapture p) s = .next u ∧ u.home = s.home ∧ (u.ply p).capture = none ∧ (u.ply p).halt = false))) ∧
  (∀ (s : State) (q r p : Nat) (x : Reel), rerunOf s q = some (r, p, x) → (s.ply p).resident = true → (s.ply p).prot = false →
    ∃ u, exec (.ckptRerun q) s = .next u ∧ u.livePly p = false ∧ Tab.has u.reels r = false ∧ .completionTail x.job ∈ u.engine) ∧
  ∀ (s u : State) (q cc pa : Nat), s.queues = [(q, s.queue q)] → q / 32 = cc → cc < 4 → (s.queue q).state = .parked →
    signalPlace s q (s.queue q).vdev (w64 (fieldAt (s.queue q).waitPkt 8 8)) 0 true = (some pa, u) →
    let met := condHolds (fieldAt (s.queue q).waitPkt 0x18 1) (natLE (Mem.read u.home pa 8)) (fieldAt (s.queue q).waitPkt 0x10 8)
    (met = true → exec (.parkedRetestTick cc) s = .next (startWait u q 0 (s.queue q).waitPkt)) ∧
    (met = false → exec (.parkedRetestTick cc) s = .next (u.modQueue q (fun x => { x with parked := some (w64 pa) })))

/-! ## The machine (R31, R38, R39, R108 to R113, R338, R342) -/

/-- A step runs the decoded instruction: when a fragment's chain is the one word at its program counter, the word decodes to i and nothing holds
it, the step is exec of i at that state, with the issue opportunity accounted for; a REP runs the word behind it with its fields stepped to the repeat at
which the fragment stands (R119, R120, R146); an illegal word, a failed fetch and a target that does not
qualify become what R112, R343 and R113 say. Events are run by exec too: one from outside first, else an urgent one of the machine.
The model's own: the order of events, one opportunity for a chain, a target whose preceding word cannot be fetched, what a word that waits leaves (log 5, 13, 14, 15, 16, 17, 28, 77, 86, 87). -/
def Obligations.StepRunsDecoded : Prop :=
  (∀ (s : State) (c : Cand), s.inputs = [] → choices s = [.issue c] →
    let f := focus (s.stamp c.ply c.strand) c.ply c.strand c.frag
    let after (r : Host.Outcome State Fault Refusal) : Host.Outcome State Fault Refusal :=
      endStep (match r with
        | .next u => .next (if notIssued s u c then u else account u c)
        | r => r)
    (∀ w, f.curFrag.passed f.iss.w = some w → step s = after (.next (goTo (f.modCurFrag (fun g =>
      { g with ahead := g.ahead.filter (fun x => x.1 != f.iss.w), jumped := decide (w ≠ f.iss.w + 1) })) w))) ∧
    (f.curFrag.passed f.iss.w = none →
    (∀ r, targetStands f = .error r → step s = after (exec (.codeFetchFault c.ply c.strand c.frag) f)) ∧
    (∀ t, targetStands f = .ok (false, t) → step s = after (.next (takeTrap t { cause := 4 }))) ∧
    ∀ t, targetStands f = .ok (true, t) →
      (∀ r, fetchChain t t.iss.w t.curFrag.under 3 = .error r → step s = after (exec (.codeFetchFault c.ply c.strand c.frag) f)) ∧
      ∀ ws x, fetchChain t t.iss.w t.curFrag.under 3 = .ok (ws, x) →
        (chainInstrs ws = none → step s = after (exec (.illegalEncoding c.ply c.strand c.frag) t)) ∧
        (∀ w i, ws = [w] → decodeWord w = .ok (false, i) → (∀ n e k, i ≠ .rep n e k) →
          let u := x.modCurFrag (fun x => { x with jumped := false })
          scoreboardHolds u i = false → lateError u i = none → registerError u i = none → earlyChoices u = [] → u.curFrag.wait = .none →
          step s = after (match exec i u with
            | .next v => .next (leaveWord u v true i)
            | r => r)) ∧
        ∀ w n e k, ws = [w] → decodeWord w = .ok (false, .rep n e k) →
          (x.iss.w.toNat % 3 = 2 → step s = after (exec (.illegalEncoding c.ply c.strand c.frag) t)) ∧
          ∀ v y, x.iss.w.toNat % 3 ≠ 2 → fetchWord x (x.iss.w + 1) false = (.word v, y) →
            (repLegal x.iss.w e v = false → step s = after (exec (.illegalEncoding c.ply c.strand c.frag) t)) ∧
            (repLegal x.iss.w e v = true →
              let u := y.modCurFrag (fun x => { x with jumped := false })
              earlyChoices u = [] → u.curFrag.wait = .none →
              (∀ r, repeatInstr v e k u.curFrag.repPos = .error r → step s = after (.next (takeTrap u { cause := r }))) ∧
              ∀ i, repeatInstr v e k u.curFrag.repPos = .ok i → scoreboardHolds u i = false → lateError u i = none → registerError u i = none →
                step s = after (match exec (.rep n e k) u with
                  | .next m => (match exec i m with
                    | .next m => .next (leaveWord u m true i)
                    | r => r)
                  | r => r)))) ∧
  (∀ (s : State) (e : Instr) (l : List Instr), s.inputs = e :: l →
    (isEvent e = true → step s = endStep (exec e { s with inputs := l })) ∧
    (isEvent e = false → step s = .fault .programWordAsEvent)) ∧
  (∀ (s : State) (e : Instr) (l : List Instr), s.inputs = [] → s.engine = e :: l → isUrgent e = true →
    step s = endStep (exec e { s with engine := l })) ∧
  (∀ (s : State) (c n : Nat) (l : List (Nat × Nat)), s.inputs = [] → s.engine = [] → mustDrain s = (c, n) :: l →
    step s = endStep (exec (.logDrain c n) s)) ∧
  ∀ s : State, s.inputs = [] → choices s = [.tick] → step s = endStep (.next (tick s))

/-- What a package reset leaves (R9, R266, R297, R330, R334, R338, R342): every queue Off, no virtual device, no work, memory and the weight store
cleared, FADDR unset, the power limit at its greatest; and the invariant of StepKeepsHelpers holds.
The model's own: zero memory, verified images, the canonical form, the two invariants (log 1, 2, 3, 4, 9). -/
def Obligations.ResetState : Prop :=
  let s := State.reset
  s.clock = 0 ∧ (∀ q, (s.queue q).state = .off) ∧ (∀ v, (s.vdev v).exist = false) ∧ (∀ p, s.livePly p = false) ∧ s.skeins = [] ∧ s.reels = [] ∧
  s.jobs = [] ∧ s.xfers = [] ∧ s.pf0.faddr = 0xFFFF ∧ s.pf0.busy = none ∧ s.pf0.plimit = 4800 ∧ s.pf0.precw = 0 ∧
  (∀ a, Mem.byte s.home a = 0 ∧ Mem.byte s.hbm a = 0 ∧ Mem.byte s.ws a = 0) ∧ Memory.wf s.home = true ∧ Memory.wf s.hbm = true ∧
  Memory.wf s.ws = true ∧ HomesAgree s ∧ LogNumbered s ∧ HelpersOk s ∧ candidates s = []

/-- R38 as an invariant that every step keeps, whatever state it starts from: a lane is in a helper mask only while its quad holds an active lane
of the fragment, and no lane is active and helper at once.
The model's own: when helper lanes are trimmed (log 69). -/
def Obligations.StepKeepsHelpers : Prop :=
  ∀ s t : State, step s = .next t → HelpersOk t
end

