-- ==== Sys2Proof/Laws/Arith.lean ====
section
/-! SUPPORT. The integer functions on natural numbers, read as functions of bit vectors. -/
namespace Sys2Proof.Machine

@[simp] theorem intVal_signed {n : Nat} (x : BitVec n) : intVal true n x.toNat = x.toInt := by
  simp [intVal]

@[simp] theorem intVal_unsigned {n : Nat} (x : BitVec n) : intVal false n x.toNat = (x.toNat : Int) := by
  simp only [intVal, Bool.false_eq_true, if_false, Nat.mod_eq_of_lt x.isLt]

@[simp] theorem ofNat_intBits (n : Nat) (v : Int) : BitVec.ofNat n (intBits n v) = BitVec.ofInt n v := by
  simp only [intBits, BitVec.ofNat_toNat, BitVec.setWidth_eq]

theorem ofInt_natCast (n m : Nat) : BitVec.ofInt n (m : Int) = BitVec.ofNat n m := BitVec.ofInt_natCast n m

/-- The high half of a signed product. -/
theorem ofNat_iMulHigh_signed {n : Nat} (a b : BitVec n) :
    BitVec.ofNat n (iMulHigh true n a.toNat b.toNat) = BitVec.ofInt n (a.toInt * b.toInt / (2 ^ n : Nat)) := by
  simp only [iMulHigh, intVal_signed, ofNat_intBits]

/-- The high half of an unsigned product. -/
theorem ofNat_iMulHigh_unsigned {n : Nat} (a b : BitVec n) :
    BitVec.ofNat n (iMulHigh false n a.toNat b.toNat) = BitVec.ofNat n (a.toNat * b.toNat / 2 ^ n) := by
  simp only [iMulHigh, intVal_unsigned, ofNat_intBits]
  rw [← ofInt_natCast]
  norm_cast

theorem ofNat_iMin_signed {n : Nat} (a b : BitVec n) :
    BitVec.ofNat n (iMinMax true false n a.toNat b.toNat) = if a.toInt ≤ b.toInt then a else b := by
  simp only [iMinMax, intVal_signed, Bool.false_eq_true, if_false]
  by_cases h : b.toInt < a.toInt
  · simp [h, Int.not_le.2 h]
  · simp [h, Int.not_lt.1 h]

theorem ofNat_iMax_signed {n : Nat} (a b : BitVec n) :
    BitVec.ofNat n (iMinMax true true n a.toNat b.toNat) = if a.toInt ≤ b.toInt then b else a := by
  simp only [iMinMax, intVal_signed, if_true]
  rcases Int.lt_trichotomy a.toInt b.toInt with h | h | h
  · simp [h, Int.le_of_lt h]
  · have : a = b := BitVec.eq_of_toInt_eq h
    simp [this]
  · have h1 : ¬ a.toInt < b.toInt := by omega
    have h2 : ¬ a.toInt ≤ b.toInt := by omega
    simp [h1, h2]

theorem ofNat_iMin_unsigned {n : Nat} (a b : BitVec n) :
    BitVec.ofNat n (iMinMax false false n a.toNat b.toNat) = if a.toNat ≤ b.toNat then a else b := by
  simp only [iMinMax, intVal_unsigned, Bool.false_eq_true, if_false, Int.ofNat_lt]
  by_cases h : b.toNat < a.toNat
  · simp [h, Nat.not_le.2 h]
  · simp [h, Nat.not_lt.1 h]

theorem ofNat_iMax_unsigned {n : Nat} (a b : BitVec n) :
    BitVec.ofNat n (iMinMax false true n a.toNat b.toNat) = if a.toNat ≤ b.toNat then b else a := by
  simp only [iMinMax, intVal_unsigned, if_true, Int.ofNat_lt]
  rcases Nat.lt_trichotomy a.toNat b.toNat with h | h | h
  · simp [h, Nat.le_of_lt h]
  · have : a = b := BitVec.eq_of_toNat_eq h
    simp [this]
  · simp [Nat.not_lt.2 (Nat.le_of_lt h), Nat.not_le.2 h]

theorem toNat_eq_zero {n : Nat} (b : BitVec n) : b.toNat % 2 ^ n = 0 ↔ b = 0 := by
  rw [Nat.mod_eq_of_lt b.isLt]
  constructor
  · intro h; exact BitVec.eq_of_toNat_eq (by simpa using h)
  · intro h; subst h; simp

theorem ofNat_iDiv_signed {n : Nat} (a b : BitVec n) :
    BitVec.ofNat n (iDiv true n a.toNat b.toNat) = if b = 0 then BitVec.allOnes n else BitVec.ofInt n (Int.tdiv a.toInt b.toInt) := by
  simp only [iDiv, toNat_eq_zero, intVal_signed]
  by_cases h : b = 0
  · simp only [h, if_true]
    rw [← BitVec.toNat_allOnes, BitVec.ofNat_toNat, BitVec.setWidth_eq]
  · simp only [h, if_false, ofNat_intBits]

theorem ofNat_iDiv_unsigned {n : Nat} (a b : BitVec n) :
    BitVec.ofNat n (iDiv false n a.toNat b.toNat) = if b = 0 then BitVec.allOnes n else BitVec.ofNat n (a.toNat / b.toNat) := by
  simp only [iDiv, toNat_eq_zero, intVal_unsigned]
  by_cases h : b = 0
  · simp only [h, if_true]
    rw [← BitVec.toNat_allOnes, BitVec.ofNat_toNat, BitVec.setWidth_eq]
  · simp only [h, if_false, ofNat_intBits]
    rw [← ofInt_natCast]; rfl

theorem ofNat_iRem_signed {n : Nat} (a b : BitVec n) :
    BitVec.ofNat n (iRem true n a.toNat b.toNat) = if b = 0 then a else BitVec.ofInt n (Int.tmod a.toInt b.toInt) := by
  simp only [iRem, toNat_eq_zero, intVal_signed]
  by_cases h : b = 0
  · simp only [h, if_true, Nat.mod_eq_of_lt a.isLt, BitVec.ofNat_toNat, BitVec.setWidth_eq]
  · simp only [h, if_false, ofNat_intBits]

theorem ofNat_iRem_unsigned {n : Nat} (a b : BitVec n) :
    BitVec.ofNat n (iRem false n a.toNat b.toNat) = if b = 0 then a else BitVec.ofNat n (a.toNat % b.toNat) := by
  simp only [iRem, toNat_eq_zero, intVal_unsigned]
  by_cases h : b = 0
  · simp only [h, if_true, Nat.mod_eq_of_lt a.isLt, BitVec.ofNat_toNat, BitVec.setWidth_eq]
  · simp only [h, if_false, ofNat_intBits]
    rw [← ofInt_natCast]; rfl

end Sys2Proof.Machine
end

