-- ==== Sys2Proof/Laws/Tab.lean ====
section
/-! SUPPORT. Sparse tables: what a read gives after a write, and that every operation keeps the canonical form. -/
namespace Sys2Proof.Machine

/-! ## Reads after writes -/

theorem Tab.find_put {α : Type} (k i : Nat) (v : α) (t : Tab α) :
    Tab.find i (Tab.put k v t) = if i = k then some v else Tab.find i t := by
  induction t with
  | nil => simp [Tab.put, Tab.find, eq_comm]
  | cons e t ih =>
    obtain ⟨j, u⟩ := e
    by_cases hj : j = k
    · subst hj
      by_cases hi : i = j
      · simp [Tab.put, Tab.find, hi]
      · simp [Tab.put, Tab.find, hi, Ne.symm hi]
    · by_cases hlt : k < j
      · by_cases hi : i = k
        · simp [Tab.put, Tab.find, hj, hlt, hi]
        · simp [Tab.put, Tab.find, hj, hlt, hi, Ne.symm hi]
      · by_cases hi : j = i
        · subst hi; simp [Tab.put, Tab.find, hj, hlt]
        · simp [Tab.put, Tab.find, hj, hlt, hi, ih]

@[simp] theorem Tab.find_put_self {α : Type} (k : Nat) (v : α) (t : Tab α) : Tab.find k (Tab.put k v t) = some v := by
  simp [Tab.find_put]

theorem Tab.find_put_ne {α : Type} {k i : Nat} (h : i ≠ k) (v : α) (t : Tab α) :
    Tab.find i (Tab.put k v t) = Tab.find i t := by
  simp [Tab.find_put, h]

theorem Tab.find_del {α : Type} (k i : Nat) (t : Tab α) : Tab.find i (Tab.del k t) = if i = k then none else Tab.find i t := by
  induction t with
  | nil => simp [Tab.del, Tab.find]
  | cons e t ih =>
    obtain ⟨j, u⟩ := e
    unfold Tab.del at ih ⊢
    by_cases hj : j = k
    · subst hj
      by_cases hi : i = j
      · simp_all
      · simp_all [Tab.find, Ne.symm hi]
    · by_cases hi : i = k
      · simp_all [Tab.find]
      · simp_all [Tab.find]

@[simp] theorem Tab.get_put_self {α : Type} (d : α) (k : Nat) (v : α) (t : Tab α) : Tab.get d (Tab.put k v t) k = v := by
  simp [Tab.get]

theorem Tab.get_put {α : Type} (d : α) (k i : Nat) (v : α) (t : Tab α) :
    Tab.get d (Tab.put k v t) i = if i = k then v else Tab.get d t i := by
  by_cases h : i = k <;> simp [Tab.get, Tab.find_put, h]

theorem Tab.get_put_ne {α : Type} (d : α) {k i : Nat} (h : i ≠ k) (v : α) (t : Tab α) :
    Tab.get d (Tab.put k v t) i = Tab.get d t i := by
  simp [Tab.get_put, h]

/-- Reading after writing: the value written at that index, what was there at every other. -/
theorem Tab.get_set {α : Type} [DecidableEq α] (d : α) (t : Tab α) (k i : Nat) (v : α) :
    Tab.get d (Tab.set d t k v) i = if i = k then v else Tab.get d t i := by
  unfold Tab.set
  by_cases hv : v = d
  · by_cases hi : i = k <;> simp [Tab.get, Tab.find_del, hi, hv]
  · simp [hv, Tab.get_put]

@[simp] theorem Tab.get_set_self {α : Type} [DecidableEq α] (d : α) (t : Tab α) (k : Nat) (v : α) :
    Tab.get d (Tab.set d t k v) k = v := by simp [Tab.get_set]

theorem Tab.get_set_ne {α : Type} [DecidableEq α] (d : α) (t : Tab α) {k i : Nat} (h : i ≠ k) (v : α) :
    Tab.get d (Tab.set d t k v) i = Tab.get d t i := by simp [Tab.get_set, h]

@[simp] theorem Tab.has_put_self {α : Type} (k : Nat) (v : α) (t : Tab α) : Tab.has (Tab.put k v t) k = true := by
  simp [Tab.has]

theorem Tab.has_put_of_has {α : Type} {k i : Nat} {t : Tab α} (h : Tab.has t i = true) (v : α) :
    Tab.has (Tab.put k v t) i = true := by
  by_cases hi : i = k <;> simp_all [Tab.has, Tab.find_put]

/-! ## The canonical form -/

theorem Tab.rising_mono {α : Type} {lo hi : Nat} (h : lo ≤ hi) {t : Tab α} (ht : Tab.rising hi t = true) :
    Tab.rising lo t = true := by
  cases t with
  | nil => rfl
  | cons e t => simp only [Tab.rising, Bool.and_eq_true, decide_eq_true_eq] at ht ⊢; exact ⟨by omega, ht.2⟩

theorem Tab.rising_put {α : Type} (k : Nat) (v : α) (t : Tab α) :
    ∀ lo, lo ≤ k → Tab.rising lo t = true → Tab.rising lo (Tab.put k v t) = true := by
  induction t with
  | nil => intro lo h _; simp [Tab.put, Tab.rising, h]
  | cons e t ih =>
    obtain ⟨j, u⟩ := e
    intro lo h ht
    simp only [Tab.rising, Bool.and_eq_true, decide_eq_true_eq] at ht
    by_cases hj : j = k
    · subst hj; simp [Tab.put, Tab.rising, ht.2, h]
    · by_cases hlt : k < j
      · simp [Tab.put, Tab.rising, hj, hlt, h, ht.2]
      · simp [Tab.put, Tab.rising, hj, hlt, ht.1, ih (j + 1) (by omega) ht.2]

theorem Tab.rising_filter {α : Type} (p : Nat × α → Bool) (t : Tab α) :
    ∀ lo, Tab.rising lo t = true → Tab.rising lo (t.filter p) = true := by
  induction t with
  | nil => intro lo h; exact h
  | cons e t ih =>
    obtain ⟨j, u⟩ := e
    intro lo h
    simp only [Tab.rising, Bool.and_eq_true, decide_eq_true_eq] at h
    by_cases hp : p (j, u) = true
    · simp [hp, Tab.rising, h.1, ih (j + 1) h.2]
    · simp only [List.filter_cons, hp, Bool.false_eq_true, if_false]
      exact Tab.rising_mono (by omega) (ih (j + 1) h.2)

theorem Tab.all_put {α : Type} (p : Nat × α → Bool) (k : Nat) (v : α) (t : Tab α) (hv : p (k, v) = true)
    (ht : t.all p = true) : (Tab.put k v t).all p = true := by
  induction t with
  | nil => simp [Tab.put, hv]
  | cons e t ih =>
    obtain ⟨j, u⟩ := e
    simp only [List.all_cons, Bool.and_eq_true] at ht
    by_cases hj : j = k
    · subst hj; simp only [Tab.put, if_true, List.all_cons, Bool.and_eq_true]; exact ⟨hv, ht.2⟩
    · by_cases hlt : k < j
      · simp only [Tab.put, hj, hlt, if_true, if_false, List.all_cons, Bool.and_eq_true]; exact ⟨hv, ht⟩
      · simp only [Tab.put, hj, hlt, if_false, List.all_cons, Bool.and_eq_true]; exact ⟨ht.1, ih ht.2⟩

theorem Tab.all_filter {α : Type} (p q : Nat × α → Bool) (t : Tab α) (ht : t.all p = true) : (t.filter q).all p = true := by
  simp only [List.all_eq_true, List.mem_filter] at ht ⊢
  exact fun x hx => ht x hx.1

/-- Writing keeps the canonical form. -/
theorem Tab.wf_set {α : Type} [DecidableEq α] (d : α) (t : Tab α) (k : Nat) (v : α) (h : Tab.wf d t = true) :
    Tab.wf d (Tab.set d t k v) = true := by
  simp only [Tab.wf, Bool.and_eq_true] at h ⊢
  unfold Tab.set
  split
  · exact ⟨Tab.rising_filter _ _ _ h.1, Tab.all_filter _ _ _ h.2⟩
  · next hv => exact ⟨Tab.rising_put _ _ _ _ (Nat.zero_le _) h.1, Tab.all_put _ _ _ _ (by simpa using hv) h.2⟩

/-- So does unlisting a range. -/
theorem Tab.wf_delRange {α : Type} [DecidableEq α] (d : α) (t : Tab α) (lo hi : Nat) (h : Tab.wf d t = true) :
    Tab.wf d (Tab.delRange t lo hi) = true := by
  simp only [Tab.wf, Bool.and_eq_true] at h ⊢
  exact ⟨Tab.rising_filter _ _ _ h.1, Tab.all_filter _ _ _ h.2⟩

/-- Every filter of a canonical table is canonical. -/
theorem Tab.wf_filter {α : Type} [DecidableEq α] (d : α) (t : Tab α) (p : Nat × α → Bool) (h : Tab.wf d t = true) :
    Tab.wf d (t.filter p) = true := by
  simp only [Tab.wf, Bool.and_eq_true] at h ⊢
  exact ⟨Tab.rising_filter _ _ _ h.1, Tab.all_filter _ _ _ h.2⟩

/-! ## Memories -/

theorem Memory.wf_put (m : Mem) (a : Nat) (b : Byte) (h : Memory.wf m = true) : Memory.wf (Mem.put m a b) = true :=
  Tab.wf_set _ _ _ _ h

/-- Writing bytes keeps a memory canonical. -/
theorem Memory.wf_write (b : Bytes) : ∀ (m : Mem) (a : Nat), Memory.wf m = true → Memory.wf (Mem.write m a b) = true := by
  induction b with
  | nil => intro m a h; exact h
  | cons x xs ih => intro m a h; exact ih _ _ (Memory.wf_put m a x h)

theorem Memory.wf_delRange (m : Mem) (lo hi : Nat) (h : Memory.wf m = true) : Memory.wf (Tab.delRange m lo hi) = true :=
  Tab.wf_delRange _ _ _ _ h

@[simp] theorem Mem.byte_put (m : Mem) (a i : Nat) (b : Byte) : Mem.byte (Mem.put m a b) i = if i = a then b else Mem.byte m i := by
  simp [Mem.byte, Mem.put, Tab.get_set]

/-- A byte after a write of bytes: the byte written there, or what was there before. -/
theorem Mem.byte_write (b : Bytes) : ∀ (m : Mem) (a i : Nat),
    Mem.byte (Mem.write m a b) i = if a ≤ i ∧ i < a + b.length then b.getD (i - a) 0 else Mem.byte m i := by
  induction b with
  | nil => intro m a i; simp [Mem.write]
  | cons x xs ih =>
    intro m a i
    simp only [Mem.write, ih, Mem.byte_put, List.length_cons]
    by_cases h : i = a
    · subst h; simp
    · by_cases h2 : a + 1 ≤ i ∧ i < a + 1 + xs.length
      · have h3 : a ≤ i ∧ i < a + (xs.length + 1) := by omega
        have h4 : i - a = (i - (a + 1)) + 1 := by omega
        simp [h2, h3, h4]
      · have h3 : ¬ (a ≤ i ∧ i < a + (xs.length + 1)) := by omega
        rw [if_neg h2, if_neg h3, if_neg h]

/-- Outside the bytes written nothing changes. -/
theorem Mem.byte_write_outside (m : Mem) (a i : Nat) (b : Bytes) (h : i < a ∨ a + b.length ≤ i) :
    Mem.byte (Mem.write m a b) i = Mem.byte m i := by
  rw [Mem.byte_write, if_neg (by omega)]

theorem Mem.read_length (m : Mem) (n : Nat) : ∀ a, (Mem.read m a n).length = n := by
  induction n with
  | zero => intro a; rfl
  | succ n ih => intro a; simp [Mem.read, ih]

theorem Mem.read_put_below (m : Mem) (x : Byte) (n : Nat) : ∀ (a c : Nat), c < a → Mem.read (Mem.put m c x) a n = Mem.read m a n := by
  induction n with
  | zero => intro a c _; rfl
  | succ n ih =>
    intro a c h
    have hne : a ≠ c := by omega
    simp [Mem.read, hne, ih (a + 1) c (by omega)]

theorem Mem.byte_write_below (m : Mem) (a c : Nat) (b : Bytes) (h : c < a) : Mem.byte (Mem.write m a b) c = Mem.byte m c :=
  Mem.byte_write_outside m a c b (Or.inl h)

/-- Reading what has just been written gives it. -/
theorem Mem.read_write (b : Bytes) : ∀ (m : Mem) (a : Nat), Mem.read (Mem.write m a b) a b.length = b := by
  induction b with
  | nil => intro m a; rfl
  | cons x xs ih =>
    intro m a
    simp only [List.length_cons, Mem.read, Mem.write]
    rw [ih, Mem.byte_write_below _ _ _ _ (by omega)]
    simp

end Sys2Proof.Machine
end

