-- ==== Sys2Proof/Laws/State.lean ====
section
/-! SUPPORT. What each named update of the state leaves of each field, and what its accessor reads after it. -/
namespace Sys2Proof.Machine

/-! ## Fields that an update does not touch -/

@[simp] theorem State.modPly_clock (s : State) (i : Nat) (f : Ply → Ply) : (s.modPly i f).clock = s.clock := rfl
@[simp] theorem State.modPly_inputs (s : State) (i : Nat) (f : Ply → Ply) : (s.modPly i f).inputs = s.inputs := rfl
@[simp] theorem State.modPly_engine (s : State) (i : Nat) (f : Ply → Ply) : (s.modPly i f).engine = s.engine := rfl
@[simp] theorem State.modPly_draws (s : State) (i : Nat) (f : Ply → Ply) : (s.modPly i f).draws = s.draws := rfl
@[simp] theorem State.modPly_fresh (s : State) (i : Nat) (f : Ply → Ply) : (s.modPly i f).fresh = s.fresh := rfl
@[simp] theorem State.modPly_iss (s : State) (i : Nat) (f : Ply → Ply) : (s.modPly i f).iss = s.iss := rfl
@[simp] theorem State.modPly_turn (s : State) (i : Nat) (f : Ply → Ply) : (s.modPly i f).turn = s.turn := rfl
@[simp] theorem State.modPly_skeins (s : State) (i : Nat) (f : Ply → Ply) : (s.modPly i f).skeins = s.skeins := rfl
@[simp] theorem State.modPly_reels (s : State) (i : Nat) (f : Ply → Ply) : (s.modPly i f).reels = s.reels := rfl
@[simp] theorem State.modPly_jobs (s : State) (i : Nat) (f : Ply → Ply) : (s.modPly i f).jobs = s.jobs := rfl
@[simp] theorem State.modPly_xfers (s : State) (i : Nat) (f : Ply → Ply) : (s.modPly i f).xfers = s.xfers := rfl
@[simp] theorem State.modPly_gates (s : State) (i : Nat) (f : Ply → Ply) : (s.modPly i f).gates = s.gates := rfl
@[simp] theorem State.modPly_cores (s : State) (i : Nat) (f : Ply → Ply) : (s.modPly i f).cores = s.cores := rfl
@[simp] theorem State.modPly_bays (s : State) (i : Nat) (f : Ply → Ply) : (s.modPly i f).bays = s.bays := rfl
@[simp] theorem State.modPly_dies (s : State) (i : Nat) (f : Ply → Ply) : (s.modPly i f).dies = s.dies := rfl
@[simp] theorem State.modPly_home (s : State) (i : Nat) (f : Ply → Ply) : (s.modPly i f).home = s.home := rfl
@[simp] theorem State.modPly_hbm (s : State) (i : Nat) (f : Ply → Ply) : (s.modPly i f).hbm = s.hbm := rfl
@[simp] theorem State.modPly_l2 (s : State) (i : Nat) (f : Ply → Ply) : (s.modPly i f).l2 = s.l2 := rfl
@[simp] theorem State.modPly_homePoison (s : State) (i : Nat) (f : Ply → Ply) : (s.modPly i f).homePoison = s.homePoison := rfl
@[simp] theorem State.modPly_hbmPoison (s : State) (i : Nat) (f : Ply → Ply) : (s.modPly i f).hbmPoison = s.hbmPoison := rfl
@[simp] theorem State.modPly_ws (s : State) (i : Nat) (f : Ply → Ply) : (s.modPly i f).ws = s.ws := rfl
@[simp] theorem State.modPly_wsPoison (s : State) (i : Nat) (f : Ply → Ply) : (s.modPly i f).wsPoison = s.wsPoison := rfl
@[simp] theorem State.modPly_flips (s : State) (i : Nat) (f : Ply → Ply) : (s.modPly i f).flips = s.flips := rfl
@[simp] theorem State.modPly_reds (s : State) (i : Nat) (f : Ply → Ply) : (s.modPly i f).reds = s.reds := rfl
@[simp] theorem State.modPly_captures (s : State) (i : Nat) (f : Ply → Ply) : (s.modPly i f).captures = s.captures := rfl
@[simp] theorem State.modPly_vdevs (s : State) (i : Nat) (f : Ply → Ply) : (s.modPly i f).vdevs = s.vdevs := rfl
@[simp] theorem State.modPly_queues (s : State) (i : Nat) (f : Ply → Ply) : (s.modPly i f).queues = s.queues := rfl
@[simp] theorem State.modPly_pf0 (s : State) (i : Nat) (f : Ply → Ply) : (s.modPly i f).pf0 = s.pf0 := rfl
@[simp] theorem State.modPly_plat (s : State) (i : Nat) (f : Ply → Ply) : (s.modPly i f).plat = s.plat := rfl

@[simp] theorem State.modCore_clock (s : State) (i : Nat) (f : Core → Core) : (s.modCore i f).clock = s.clock := rfl
@[simp] theorem State.modCore_inputs (s : State) (i : Nat) (f : Core → Core) : (s.modCore i f).inputs = s.inputs := rfl
@[simp] theorem State.modCore_engine (s : State) (i : Nat) (f : Core → Core) : (s.modCore i f).engine = s.engine := rfl
@[simp] theorem State.modCore_draws (s : State) (i : Nat) (f : Core → Core) : (s.modCore i f).draws = s.draws := rfl
@[simp] theorem State.modCore_fresh (s : State) (i : Nat) (f : Core → Core) : (s.modCore i f).fresh = s.fresh := rfl
@[simp] theorem State.modCore_iss (s : State) (i : Nat) (f : Core → Core) : (s.modCore i f).iss = s.iss := rfl
@[simp] theorem State.modCore_turn (s : State) (i : Nat) (f : Core → Core) : (s.modCore i f).turn = s.turn := rfl
@[simp] theorem State.modCore_plies (s : State) (i : Nat) (f : Core → Core) : (s.modCore i f).plies = s.plies := rfl
@[simp] theorem State.modCore_skeins (s : State) (i : Nat) (f : Core → Core) : (s.modCore i f).skeins = s.skeins := rfl
@[simp] theorem State.modCore_reels (s : State) (i : Nat) (f : Core → Core) : (s.modCore i f).reels = s.reels := rfl
@[simp] theorem State.modCore_jobs (s : State) (i : Nat) (f : Core → Core) : (s.modCore i f).jobs = s.jobs := rfl
@[simp] theorem State.modCore_xfers (s : State) (i : Nat) (f : Core → Core) : (s.modCore i f).xfers = s.xfers := rfl
@[simp] theorem State.modCore_gates (s : State) (i : Nat) (f : Core → Core) : (s.modCore i f).gates = s.gates := rfl
@[simp] theorem State.modCore_bays (s : State) (i : Nat) (f : Core → Core) : (s.modCore i f).bays = s.bays := rfl
@[simp] theorem State.modCore_dies (s : State) (i : Nat) (f : Core → Core) : (s.modCore i f).dies = s.dies := rfl
@[simp] theorem State.modCore_home (s : State) (i : Nat) (f : Core → Core) : (s.modCore i f).home = s.home := rfl
@[simp] theorem State.modCore_hbm (s : State) (i : Nat) (f : Core → Core) : (s.modCore i f).hbm = s.hbm := rfl
@[simp] theorem State.modCore_l2 (s : State) (i : Nat) (f : Core → Core) : (s.modCore i f).l2 = s.l2 := rfl
@[simp] theorem State.modCore_homePoison (s : State) (i : Nat) (f : Core → Core) : (s.modCore i f).homePoison = s.homePoison := rfl
@[simp] theorem State.modCore_hbmPoison (s : State) (i : Nat) (f : Core → Core) : (s.modCore i f).hbmPoison = s.hbmPoison := rfl
@[simp] theorem State.modCore_ws (s : State) (i : Nat) (f : Core → Core) : (s.modCore i f).ws = s.ws := rfl
@[simp] theorem State.modCore_wsPoison (s : State) (i : Nat) (f : Core → Core) : (s.modCore i f).wsPoison = s.wsPoison := rfl
@[simp] theorem State.modCore_flips (s : State) (i : Nat) (f : Core → Core) : (s.modCore i f).flips = s.flips := rfl
@[simp] theorem State.modCore_reds (s : State) (i : Nat) (f : Core → Core) : (s.modCore i f).reds = s.reds := rfl
@[simp] theorem State.modCore_captures (s : State) (i : Nat) (f : Core → Core) : (s.modCore i f).captures = s.captures := rfl
@[simp] theorem State.modCore_vdevs (s : State) (i : Nat) (f : Core → Core) : (s.modCore i f).vdevs = s.vdevs := rfl
@[simp] theorem State.modCore_queues (s : State) (i : Nat) (f : Core → Core) : (s.modCore i f).queues = s.queues := rfl
@[simp] theorem State.modCore_pf0 (s : State) (i : Nat) (f : Core → Core) : (s.modCore i f).pf0 = s.pf0 := rfl
@[simp] theorem State.modCore_plat (s : State) (i : Nat) (f : Core → Core) : (s.modCore i f).plat = s.plat := rfl

@[simp] theorem State.modBay_clock (s : State) (i : Nat) (f : Bay → Bay) : (s.modBay i f).clock = s.clock := rfl
@[simp] theorem State.modBay_inputs (s : State) (i : Nat) (f : Bay → Bay) : (s.modBay i f).inputs = s.inputs := rfl
@[simp] theorem State.modBay_engine (s : State) (i : Nat) (f : Bay → Bay) : (s.modBay i f).engine = s.engine := rfl
@[simp] theorem State.modBay_draws (s : State) (i : Nat) (f : Bay → Bay) : (s.modBay i f).draws = s.draws := rfl
@[simp] theorem State.modBay_fresh (s : State) (i : Nat) (f : Bay → Bay) : (s.modBay i f).fresh = s.fresh := rfl
@[simp] theorem State.modBay_iss (s : State) (i : Nat) (f : Bay → Bay) : (s.modBay i f).iss = s.iss := rfl
@[simp] theorem State.modBay_turn (s : State) (i : Nat) (f : Bay → Bay) : (s.modBay i f).turn = s.turn := rfl
@[simp] theorem State.modBay_plies (s : State) (i : Nat) (f : Bay → Bay) : (s.modBay i f).plies = s.plies := rfl
@[simp] theorem State.modBay_skeins (s : State) (i : Nat) (f : Bay → Bay) : (s.modBay i f).skeins = s.skeins := rfl
@[simp] theorem State.modBay_reels (s : State) (i : Nat) (f : Bay → Bay) : (s.modBay i f).reels = s.reels := rfl
@[simp] theorem State.modBay_jobs (s : State) (i : Nat) (f : Bay → Bay) : (s.modBay i f).jobs = s.jobs := rfl
@[simp] theorem State.modBay_xfers (s : State) (i : Nat) (f : Bay → Bay) : (s.modBay i f).xfers = s.xfers := rfl
@[simp] theorem State.modBay_gates (s : State) (i : Nat) (f : Bay → Bay) : (s.modBay i f).gates = s.gates := rfl
@[simp] theorem State.modBay_cores (s : State) (i : Nat) (f : Bay → Bay) : (s.modBay i f).cores = s.cores := rfl
@[simp] theorem State.modBay_dies (s : State) (i : Nat) (f : Bay → Bay) : (s.modBay i f).dies = s.dies := rfl
@[simp] theorem State.modBay_home (s : State) (i : Nat) (f : Bay → Bay) : (s.modBay i f).home = s.home := rfl
@[simp] theorem State.modBay_hbm (s : State) (i : Nat) (f : Bay → Bay) : (s.modBay i f).hbm = s.hbm := rfl
@[simp] theorem State.modBay_l2 (s : State) (i : Nat) (f : Bay → Bay) : (s.modBay i f).l2 = s.l2 := rfl
@[simp] theorem State.modBay_homePoison (s : State) (i : Nat) (f : Bay → Bay) : (s.modBay i f).homePoison = s.homePoison := rfl
@[simp] theorem State.modBay_hbmPoison (s : State) (i : Nat) (f : Bay → Bay) : (s.modBay i f).hbmPoison = s.hbmPoison := rfl
@[simp] theorem State.modBay_ws (s : State) (i : Nat) (f : Bay → Bay) : (s.modBay i f).ws = s.ws := rfl
@[simp] theorem State.modBay_wsPoison (s : State) (i : Nat) (f : Bay → Bay) : (s.modBay i f).wsPoison = s.wsPoison := rfl
@[simp] theorem State.modBay_flips (s : State) (i : Nat) (f : Bay → Bay) : (s.modBay i f).flips = s.flips := rfl
@[simp] theorem State.modBay_reds (s : State) (i : Nat) (f : Bay → Bay) : (s.modBay i f).reds = s.reds := rfl
@[simp] theorem State.modBay_captures (s : State) (i : Nat) (f : Bay → Bay) : (s.modBay i f).captures = s.captures := rfl
@[simp] theorem State.modBay_vdevs (s : State) (i : Nat) (f : Bay → Bay) : (s.modBay i f).vdevs = s.vdevs := rfl
@[simp] theorem State.modBay_queues (s : State) (i : Nat) (f : Bay → Bay) : (s.modBay i f).queues = s.queues := rfl
@[simp] theorem State.modBay_pf0 (s : State) (i : Nat) (f : Bay → Bay) : (s.modBay i f).pf0 = s.pf0 := rfl
@[simp] theorem State.modBay_plat (s : State) (i : Nat) (f : Bay → Bay) : (s.modBay i f).plat = s.plat := rfl

@[simp] theorem State.modDie_clock (s : State) (i : Nat) (f : Die → Die) : (s.modDie i f).clock = s.clock := rfl
@[simp] theorem State.modDie_inputs (s : State) (i : Nat) (f : Die → Die) : (s.modDie i f).inputs = s.inputs := rfl
@[simp] theorem State.modDie_engine (s : State) (i : Nat) (f : Die → Die) : (s.modDie i f).engine = s.engine := rfl
@[simp] theorem State.modDie_draws (s : State) (i : Nat) (f : Die → Die) : (s.modDie i f).draws = s.draws := rfl
@[simp] theorem State.modDie_fresh (s : State) (i : Nat) (f : Die → Die) : (s.modDie i f).fresh = s.fresh := rfl
@[simp] theorem State.modDie_iss (s : State) (i : Nat) (f : Die → Die) : (s.modDie i f).iss = s.iss := rfl
@[simp] theorem State.modDie_turn (s : State) (i : Nat) (f : Die → Die) : (s.modDie i f).turn = s.turn := rfl
@[simp] theorem State.modDie_plies (s : State) (i : Nat) (f : Die → Die) : (s.modDie i f).plies = s.plies := rfl
@[simp] theorem State.modDie_skeins (s : State) (i : Nat) (f : Die → Die) : (s.modDie i f).skeins = s.skeins := rfl
@[simp] theorem State.modDie_reels (s : State) (i : Nat) (f : Die → Die) : (s.modDie i f).reels = s.reels := rfl
@[simp] theorem State.modDie_jobs (s : State) (i : Nat) (f : Die → Die) : (s.modDie i f).jobs = s.jobs := rfl
@[simp] theorem State.modDie_xfers (s : State) (i : Nat) (f : Die → Die) : (s.modDie i f).xfers = s.xfers := rfl
@[simp] theorem State.modDie_gates (s : State) (i : Nat) (f : Die → Die) : (s.modDie i f).gates = s.gates := rfl
@[simp] theorem State.modDie_cores (s : State) (i : Nat) (f : Die → Die) : (s.modDie i f).cores = s.cores := rfl
@[simp] theorem State.modDie_bays (s : State) (i : Nat) (f : Die → Die) : (s.modDie i f).bays = s.bays := rfl
@[simp] theorem State.modDie_home (s : State) (i : Nat) (f : Die → Die) : (s.modDie i f).home = s.home := rfl
@[simp] theorem State.modDie_hbm (s : State) (i : Nat) (f : Die → Die) : (s.modDie i f).hbm = s.hbm := rfl
@[simp] theorem State.modDie_l2 (s : State) (i : Nat) (f : Die → Die) : (s.modDie i f).l2 = s.l2 := rfl
@[simp] theorem State.modDie_homePoison (s : State) (i : Nat) (f : Die → Die) : (s.modDie i f).homePoison = s.homePoison := rfl
@[simp] theorem State.modDie_hbmPoison (s : State) (i : Nat) (f : Die → Die) : (s.modDie i f).hbmPoison = s.hbmPoison := rfl
@[simp] theorem State.modDie_ws (s : State) (i : Nat) (f : Die → Die) : (s.modDie i f).ws = s.ws := rfl
@[simp] theorem State.modDie_wsPoison (s : State) (i : Nat) (f : Die → Die) : (s.modDie i f).wsPoison = s.wsPoison := rfl
@[simp] theorem State.modDie_flips (s : State) (i : Nat) (f : Die → Die) : (s.modDie i f).flips = s.flips := rfl
@[simp] theorem State.modDie_reds (s : State) (i : Nat) (f : Die → Die) : (s.modDie i f).reds = s.reds := rfl
@[simp] theorem State.modDie_captures (s : State) (i : Nat) (f : Die → Die) : (s.modDie i f).captures = s.captures := rfl
@[simp] theorem State.modDie_vdevs (s : State) (i : Nat) (f : Die → Die) : (s.modDie i f).vdevs = s.vdevs := rfl
@[simp] theorem State.modDie_queues (s : State) (i : Nat) (f : Die → Die) : (s.modDie i f).queues = s.queues := rfl
@[simp] theorem State.modDie_pf0 (s : State) (i : Nat) (f : Die → Die) : (s.modDie i f).pf0 = s.pf0 := rfl
@[simp] theorem State.modDie_plat (s : State) (i : Nat) (f : Die → Die) : (s.modDie i f).plat = s.plat := rfl

@[simp] theorem State.modVdev_clock (s : State) (i : Nat) (f : VDev → VDev) : (s.modVdev i f).clock = s.clock := rfl
@[simp] theorem State.modVdev_inputs (s : State) (i : Nat) (f : VDev → VDev) : (s.modVdev i f).inputs = s.inputs := rfl
@[simp] theorem State.modVdev_engine (s : State) (i : Nat) (f : VDev → VDev) : (s.modVdev i f).engine = s.engine := rfl
@[simp] theorem State.modVdev_draws (s : State) (i : Nat) (f : VDev → VDev) : (s.modVdev i f).draws = s.draws := rfl
@[simp] theorem State.modVdev_fresh (s : State) (i : Nat) (f : VDev → VDev) : (s.modVdev i f).fresh = s.fresh := rfl
@[simp] theorem State.modVdev_iss (s : State) (i : Nat) (f : VDev → VDev) : (s.modVdev i f).iss = s.iss := rfl
@[simp] theorem State.modVdev_turn (s : State) (i : Nat) (f : VDev → VDev) : (s.modVdev i f).turn = s.turn := rfl
@[simp] theorem State.modVdev_plies (s : State) (i : Nat) (f : VDev → VDev) : (s.modVdev i f).plies = s.plies := rfl
@[simp] theorem State.modVdev_skeins (s : State) (i : Nat) (f : VDev → VDev) : (s.modVdev i f).skeins = s.skeins := rfl
@[simp] theorem State.modVdev_reels (s : State) (i : Nat) (f : VDev → VDev) : (s.modVdev i f).reels = s.reels := rfl
@[simp] theorem State.modVdev_jobs (s : State) (i : Nat) (f : VDev → VDev) : (s.modVdev i f).jobs = s.jobs := rfl
@[simp] theorem State.modVdev_xfers (s : State) (i : Nat) (f : VDev → VDev) : (s.modVdev i f).xfers = s.xfers := rfl
@[simp] theorem State.modVdev_gates (s : State) (i : Nat) (f : VDev → VDev) : (s.modVdev i f).gates = s.gates := rfl
@[simp] theorem State.modVdev_cores (s : State) (i : Nat) (f : VDev → VDev) : (s.modVdev i f).cores = s.cores := rfl
@[simp] theorem State.modVdev_bays (s : State) (i : Nat) (f : VDev → VDev) : (s.modVdev i f).bays = s.bays := rfl
@[simp] theorem State.modVdev_dies (s : State) (i : Nat) (f : VDev → VDev) : (s.modVdev i f).dies = s.dies := rfl
@[simp] theorem State.modVdev_home (s : State) (i : Nat) (f : VDev → VDev) : (s.modVdev i f).home = s.home := rfl
@[simp] theorem State.modVdev_hbm (s : State) (i : Nat) (f : VDev → VDev) : (s.modVdev i f).hbm = s.hbm := rfl
@[simp] theorem State.modVdev_l2 (s : State) (i : Nat) (f : VDev → VDev) : (s.modVdev i f).l2 = s.l2 := rfl
@[simp] theorem State.modVdev_homePoison (s : State) (i : Nat) (f : VDev → VDev) : (s.modVdev i f).homePoison = s.homePoison := rfl
@[simp] theorem State.modVdev_hbmPoison (s : State) (i : Nat) (f : VDev → VDev) : (s.modVdev i f).hbmPoison = s.hbmPoison := rfl
@[simp] theorem State.modVdev_ws (s : State) (i : Nat) (f : VDev → VDev) : (s.modVdev i f).ws = s.ws := rfl
@[simp] theorem State.modVdev_wsPoison (s : State) (i : Nat) (f : VDev → VDev) : (s.modVdev i f).wsPoison = s.wsPoison := rfl
@[simp] theorem State.modVdev_flips (s : State) (i : Nat) (f : VDev → VDev) : (s.modVdev i f).flips = s.flips := rfl
@[simp] theorem State.modVdev_reds (s : State) (i : Nat) (f : VDev → VDev) : (s.modVdev i f).reds = s.reds := rfl
@[simp] theorem State.modVdev_captures (s : State) (i : Nat) (f : VDev → VDev) : (s.modVdev i f).captures = s.captures := rfl
@[simp] theorem State.modVdev_queues (s : State) (i : Nat) (f : VDev → VDev) : (s.modVdev i f).queues = s.queues := rfl
@[simp] theorem State.modVdev_pf0 (s : State) (i : Nat) (f : VDev → VDev) : (s.modVdev i f).pf0 = s.pf0 := rfl
@[simp] theorem State.modVdev_plat (s : State) (i : Nat) (f : VDev → VDev) : (s.modVdev i f).plat = s.plat := rfl

@[simp] theorem State.modQueue_clock (s : State) (i : Nat) (f : Queue → Queue) : (s.modQueue i f).clock = s.clock := rfl
@[simp] theorem State.modQueue_inputs (s : State) (i : Nat) (f : Queue → Queue) : (s.modQueue i f).inputs = s.inputs := rfl
@[simp] theorem State.modQueue_engine (s : State) (i : Nat) (f : Queue → Queue) : (s.modQueue i f).engine = s.engine := rfl
@[simp] theorem State.modQueue_draws (s : State) (i : Nat) (f : Queue → Queue) : (s.modQueue i f).draws = s.draws := rfl
@[simp] theorem State.modQueue_fresh (s : State) (i : Nat) (f : Queue → Queue) : (s.modQueue i f).fresh = s.fresh := rfl
@[simp] theorem State.modQueue_iss (s : State) (i : Nat) (f : Queue → Queue) : (s.modQueue i f).iss = s.iss := rfl
@[simp] theorem State.modQueue_turn (s : State) (i : Nat) (f : Queue → Queue) : (s.modQueue i f).turn = s.turn := rfl
@[simp] theorem State.modQueue_plies (s : State) (i : Nat) (f : Queue → Queue) : (s.modQueue i f).plies = s.plies := rfl
@[simp] theorem State.modQueue_skeins (s : State) (i : Nat) (f : Queue → Queue) : (s.modQueue i f).skeins = s.skeins := rfl
@[simp] theorem State.modQueue_reels (s : State) (i : Nat) (f : Queue → Queue) : (s.modQueue i f).reels = s.reels := rfl
@[simp] theorem State.modQueue_jobs (s : State) (i : Nat) (f : Queue → Queue) : (s.modQueue i f).jobs = s.jobs := rfl
@[simp] theorem State.modQueue_xfers (s : State) (i : Nat) (f : Queue → Queue) : (s.modQueue i f).xfers = s.xfers := rfl
@[simp] theorem State.modQueue_gates (s : State) (i : Nat) (f : Queue → Queue) : (s.modQueue i f).gates = s.gates := rfl
@[simp] theorem State.modQueue_cores (s : State) (i : Nat) (f : Queue → Queue) : (s.modQueue i f).cores = s.cores := rfl
@[simp] theorem State.modQueue_bays (s : State) (i : Nat) (f : Queue → Queue) : (s.modQueue i f).bays = s.bays := rfl
@[simp] theorem State.modQueue_dies (s : State) (i : Nat) (f : Queue → Queue) : (s.modQueue i f).dies = s.dies := rfl
@[simp] theorem State.modQueue_home (s : State) (i : Nat) (f : Queue → Queue) : (s.modQueue i f).home = s.home := rfl
@[simp] theorem State.modQueue_hbm (s : State) (i : Nat) (f : Queue → Queue) : (s.modQueue i f).hbm = s.hbm := rfl
@[simp] theorem State.modQueue_l2 (s : State) (i : Nat) (f : Queue → Queue) : (s.modQueue i f).l2 = s.l2 := rfl
@[simp] theorem State.modQueue_homePoison (s : State) (i : Nat) (f : Queue → Queue) : (s.modQueue i f).homePoison = s.homePoison := rfl
@[simp] theorem State.modQueue_hbmPoison (s : State) (i : Nat) (f : Queue → Queue) : (s.modQueue i f).hbmPoison = s.hbmPoison := rfl
@[simp] theorem State.modQueue_ws (s : State) (i : Nat) (f : Queue → Queue) : (s.modQueue i f).ws = s.ws := rfl
@[simp] theorem State.modQueue_wsPoison (s : State) (i : Nat) (f : Queue → Queue) : (s.modQueue i f).wsPoison = s.wsPoison := rfl
@[simp] theorem State.modQueue_flips (s : State) (i : Nat) (f : Queue → Queue) : (s.modQueue i f).flips = s.flips := rfl
@[simp] theorem State.modQueue_reds (s : State) (i : Nat) (f : Queue → Queue) : (s.modQueue i f).reds = s.reds := rfl
@[simp] theorem State.modQueue_captures (s : State) (i : Nat) (f : Queue → Queue) : (s.modQueue i f).captures = s.captures := rfl
@[simp] theorem State.modQueue_vdevs (s : State) (i : Nat) (f : Queue → Queue) : (s.modQueue i f).vdevs = s.vdevs := rfl
@[simp] theorem State.modQueue_pf0 (s : State) (i : Nat) (f : Queue → Queue) : (s.modQueue i f).pf0 = s.pf0 := rfl
@[simp] theorem State.modQueue_plat (s : State) (i : Nat) (f : Queue → Queue) : (s.modQueue i f).plat = s.plat := rfl

@[simp] theorem State.modSkein_clock (s : State) (i : Nat) (f : Skein → Skein) : (s.modSkein i f).clock = s.clock := rfl
@[simp] theorem State.modSkein_inputs (s : State) (i : Nat) (f : Skein → Skein) : (s.modSkein i f).inputs = s.inputs := rfl
@[simp] theorem State.modSkein_engine (s : State) (i : Nat) (f : Skein → Skein) : (s.modSkein i f).engine = s.engine := rfl
@[simp] theorem State.modSkein_draws (s : State) (i : Nat) (f : Skein → Skein) : (s.modSkein i f).draws = s.draws := rfl
@[simp] theorem State.modSkein_fresh (s : State) (i : Nat) (f : Skein → Skein) : (s.modSkein i f).fresh = s.fresh := rfl
@[simp] theorem State.modSkein_iss (s : State) (i : Nat) (f : Skein → Skein) : (s.modSkein i f).iss = s.iss := rfl
@[simp] theorem State.modSkein_turn (s : State) (i : Nat) (f : Skein → Skein) : (s.modSkein i f).turn = s.turn := rfl
@[simp] theorem State.modSkein_plies (s : State) (i : Nat) (f : Skein → Skein) : (s.modSkein i f).plies = s.plies := rfl
@[simp] theorem State.modSkein_reels (s : State) (i : Nat) (f : Skein → Skein) : (s.modSkein i f).reels = s.reels := rfl
@[simp] theorem State.modSkein_jobs (s : State) (i : Nat) (f : Skein → Skein) : (s.modSkein i f).jobs = s.jobs := rfl
@[simp] theorem State.modSkein_xfers (s : State) (i : Nat) (f : Skein → Skein) : (s.modSkein i f).xfers = s.xfers := rfl
@[simp] theorem State.modSkein_gates (s : State) (i : Nat) (f : Skein → Skein) : (s.modSkein i f).gates = s.gates := rfl
@[simp] theorem State.modSkein_cores (s : State) (i : Nat) (f : Skein → Skein) : (s.modSkein i f).cores = s.cores := rfl
@[simp] theorem State.modSkein_bays (s : State) (i : Nat) (f : Skein → Skein) : (s.modSkein i f).bays = s.bays := rfl
@[simp] theorem State.modSkein_dies (s : State) (i : Nat) (f : Skein → Skein) : (s.modSkein i f).dies = s.dies := rfl
@[simp] theorem State.modSkein_home (s : State) (i : Nat) (f : Skein → Skein) : (s.modSkein i f).home = s.home := rfl
@[simp] theorem State.modSkein_hbm (s : State) (i : Nat) (f : Skein → Skein) : (s.modSkein i f).hbm = s.hbm := rfl
@[simp] theorem State.modSkein_l2 (s : State) (i : Nat) (f : Skein → Skein) : (s.modSkein i f).l2 = s.l2 := rfl
@[simp] theorem State.modSkein_homePoison (s : State) (i : Nat) (f : Skein → Skein) : (s.modSkein i f).homePoison = s.homePoison := rfl
@[simp] theorem State.modSkein_hbmPoison (s : State) (i : Nat) (f : Skein → Skein) : (s.modSkein i f).hbmPoison = s.hbmPoison := rfl
@[simp] theorem State.modSkein_ws (s : State) (i : Nat) (f : Skein → Skein) : (s.modSkein i f).ws = s.ws := rfl
@[simp] theorem State.modSkein_wsPoison (s : State) (i : Nat) (f : Skein → Skein) : (s.modSkein i f).wsPoison = s.wsPoison := rfl
@[simp] theorem State.modSkein_flips (s : State) (i : Nat) (f : Skein → Skein) : (s.modSkein i f).flips = s.flips := rfl
@[simp] theorem State.modSkein_reds (s : State) (i : Nat) (f : Skein → Skein) : (s.modSkein i f).reds = s.reds := rfl
@[simp] theorem State.modSkein_captures (s : State) (i : Nat) (f : Skein → Skein) : (s.modSkein i f).captures = s.captures := rfl
@[simp] theorem State.modSkein_vdevs (s : State) (i : Nat) (f : Skein → Skein) : (s.modSkein i f).vdevs = s.vdevs := rfl
@[simp] theorem State.modSkein_queues (s : State) (i : Nat) (f : Skein → Skein) : (s.modSkein i f).queues = s.queues := rfl
@[simp] theorem State.modSkein_pf0 (s : State) (i : Nat) (f : Skein → Skein) : (s.modSkein i f).pf0 = s.pf0 := rfl
@[simp] theorem State.modSkein_plat (s : State) (i : Nat) (f : Skein → Skein) : (s.modSkein i f).plat = s.plat := rfl

@[simp] theorem State.modReel_clock (s : State) (i : Nat) (f : Reel → Reel) : (s.modReel i f).clock = s.clock := rfl
@[simp] theorem State.modReel_inputs (s : State) (i : Nat) (f : Reel → Reel) : (s.modReel i f).inputs = s.inputs := rfl
@[simp] theorem State.modReel_engine (s : State) (i : Nat) (f : Reel → Reel) : (s.modReel i f).engine = s.engine := rfl
@[simp] theorem State.modReel_draws (s : State) (i : Nat) (f : Reel → Reel) : (s.modReel i f).draws = s.draws := rfl
@[simp] theorem State.modReel_fresh (s : State) (i : Nat) (f : Reel → Reel) : (s.modReel i f).fresh = s.fresh := rfl
@[simp] theorem State.modReel_iss (s : State) (i : Nat) (f : Reel → Reel) : (s.modReel i f).iss = s.iss := rfl
@[simp] theorem State.modReel_turn (s : State) (i : Nat) (f : Reel → Reel) : (s.modReel i f).turn = s.turn := rfl
@[simp] theorem State.modReel_plies (s : State) (i : Nat) (f : Reel → Reel) : (s.modReel i f).plies = s.plies := rfl
@[simp] theorem State.modReel_skeins (s : State) (i : Nat) (f : Reel → Reel) : (s.modReel i f).skeins = s.skeins := rfl
@[simp] theorem State.modReel_jobs (s : State) (i : Nat) (f : Reel → Reel) : (s.modReel i f).jobs = s.jobs := rfl
@[simp] theorem State.modReel_xfers (s : State) (i : Nat) (f : Reel → Reel) : (s.modReel i f).xfers = s.xfers := rfl
@[simp] theorem State.modReel_gates (s : State) (i : Nat) (f : Reel → Reel) : (s.modReel i f).gates = s.gates := rfl
@[simp] theorem State.modReel_cores (s : State) (i : Nat) (f : Reel → Reel) : (s.modReel i f).cores = s.cores := rfl
@[simp] theorem State.modReel_bays (s : State) (i : Nat) (f : Reel → Reel) : (s.modReel i f).bays = s.bays := rfl
@[simp] theorem State.modReel_dies (s : State) (i : Nat) (f : Reel → Reel) : (s.modReel i f).dies = s.dies := rfl
@[simp] theorem State.modReel_home (s : State) (i : Nat) (f : Reel → Reel) : (s.modReel i f).home = s.home := rfl
@[simp] theorem State.modReel_hbm (s : State) (i : Nat) (f : Reel → Reel) : (s.modReel i f).hbm = s.hbm := rfl
@[simp] theorem State.modReel_l2 (s : State) (i : Nat) (f : Reel → Reel) : (s.modReel i f).l2 = s.l2 := rfl
@[simp] theorem State.modReel_homePoison (s : State) (i : Nat) (f : Reel → Reel) : (s.modReel i f).homePoison = s.homePoison := rfl
@[simp] theorem State.modReel_hbmPoison (s : State) (i : Nat) (f : Reel → Reel) : (s.modReel i f).hbmPoison = s.hbmPoison := rfl
@[simp] theorem State.modReel_ws (s : State) (i : Nat) (f : Reel → Reel) : (s.modReel i f).ws = s.ws := rfl
@[simp] theorem State.modReel_wsPoison (s : State) (i : Nat) (f : Reel → Reel) : (s.modReel i f).wsPoison = s.wsPoison := rfl
@[simp] theorem State.modReel_flips (s : State) (i : Nat) (f : Reel → Reel) : (s.modReel i f).flips = s.flips := rfl
@[simp] theorem State.modReel_reds (s : State) (i : Nat) (f : Reel → Reel) : (s.modReel i f).reds = s.reds := rfl
@[simp] theorem State.modReel_captures (s : State) (i : Nat) (f : Reel → Reel) : (s.modReel i f).captures = s.captures := rfl
@[simp] theorem State.modReel_vdevs (s : State) (i : Nat) (f : Reel → Reel) : (s.modReel i f).vdevs = s.vdevs := rfl
@[simp] theorem State.modReel_queues (s : State) (i : Nat) (f : Reel → Reel) : (s.modReel i f).queues = s.queues := rfl
@[simp] theorem State.modReel_pf0 (s : State) (i : Nat) (f : Reel → Reel) : (s.modReel i f).pf0 = s.pf0 := rfl
@[simp] theorem State.modReel_plat (s : State) (i : Nat) (f : Reel → Reel) : (s.modReel i f).plat = s.plat := rfl

@[simp] theorem State.modPlat_clock (s : State) (f : Platform → Platform) : (s.modPlat f).clock = s.clock := rfl
@[simp] theorem State.modPlat_inputs (s : State) (f : Platform → Platform) : (s.modPlat f).inputs = s.inputs := rfl
@[simp] theorem State.modPlat_engine (s : State) (f : Platform → Platform) : (s.modPlat f).engine = s.engine := rfl
@[simp] theorem State.modPlat_draws (s : State) (f : Platform → Platform) : (s.modPlat f).draws = s.draws := rfl
@[simp] theorem State.modPlat_fresh (s : State) (f : Platform → Platform) : (s.modPlat f).fresh = s.fresh := rfl
@[simp] theorem State.modPlat_iss (s : State) (f : Platform → Platform) : (s.modPlat f).iss = s.iss := rfl
@[simp] theorem State.modPlat_turn (s : State) (f : Platform → Platform) : (s.modPlat f).turn = s.turn := rfl
@[simp] theorem State.modPlat_plies (s : State) (f : Platform → Platform) : (s.modPlat f).plies = s.plies := rfl
@[simp] theorem State.modPlat_skeins (s : State) (f : Platform → Platform) : (s.modPlat f).skeins = s.skeins := rfl
@[simp] theorem State.modPlat_reels (s : State) (f : Platform → Platform) : (s.modPlat f).reels = s.reels := rfl
@[simp] theorem State.modPlat_jobs (s : State) (f : Platform → Platform) : (s.modPlat f).jobs = s.jobs := rfl
@[simp] theorem State.modPlat_xfers (s : State) (f : Platform → Platform) : (s.modPlat f).xfers = s.xfers := rfl
@[simp] theorem State.modPlat_gates (s : State) (f : Platform → Platform) : (s.modPlat f).gates = s.gates := rfl
@[simp] theorem State.modPlat_cores (s : State) (f : Platform → Platform) : (s.modPlat f).cores = s.cores := rfl
@[simp] theorem State.modPlat_bays (s : State) (f : Platform → Platform) : (s.modPlat f).bays = s.bays := rfl
@[simp] theorem State.modPlat_dies (s : State) (f : Platform → Platform) : (s.modPlat f).dies = s.dies := rfl
@[simp] theorem State.modPlat_home (s : State) (f : Platform → Platform) : (s.modPlat f).home = s.home := rfl
@[simp] theorem State.modPlat_hbm (s : State) (f : Platform → Platform) : (s.modPlat f).hbm = s.hbm := rfl
@[simp] theorem State.modPlat_l2 (s : State) (f : Platform → Platform) : (s.modPlat f).l2 = s.l2 := rfl
@[simp] theorem State.modPlat_homePoison (s : State) (f : Platform → Platform) : (s.modPlat f).homePoison = s.homePoison := rfl
@[simp] theorem State.modPlat_hbmPoison (s : State) (f : Platform → Platform) : (s.modPlat f).hbmPoison = s.hbmPoison := rfl
@[simp] theorem State.modPlat_ws (s : State) (f : Platform → Platform) : (s.modPlat f).ws = s.ws := rfl
@[simp] theorem State.modPlat_wsPoison (s : State) (f : Platform → Platform) : (s.modPlat f).wsPoison = s.wsPoison := rfl
@[simp] theorem State.modPlat_flips (s : State) (f : Platform → Platform) : (s.modPlat f).flips = s.flips := rfl
@[simp] theorem State.modPlat_reds (s : State) (f : Platform → Platform) : (s.modPlat f).reds = s.reds := rfl
@[simp] theorem State.modPlat_captures (s : State) (f : Platform → Platform) : (s.modPlat f).captures = s.captures := rfl
@[simp] theorem State.modPlat_vdevs (s : State) (f : Platform → Platform) : (s.modPlat f).vdevs = s.vdevs := rfl
@[simp] theorem State.modPlat_queues (s : State) (f : Platform → Platform) : (s.modPlat f).queues = s.queues := rfl
@[simp] theorem State.modPlat_pf0 (s : State) (f : Platform → Platform) : (s.modPlat f).pf0 = s.pf0 := rfl

@[simp] theorem State.modCmdCore_clock (s : State) (i : Nat) (f : CmdCore → CmdCore) : (s.modCmdCore i f).clock = s.clock := rfl
@[simp] theorem State.modCmdCore_inputs (s : State) (i : Nat) (f : CmdCore → CmdCore) : (s.modCmdCore i f).inputs = s.inputs := rfl
@[simp] theorem State.modCmdCore_engine (s : State) (i : Nat) (f : CmdCore → CmdCore) : (s.modCmdCore i f).engine = s.engine := rfl
@[simp] theorem State.modCmdCore_draws (s : State) (i : Nat) (f : CmdCore → CmdCore) : (s.modCmdCore i f).draws = s.draws := rfl
@[simp] theorem State.modCmdCore_fresh (s : State) (i : Nat) (f : CmdCore → CmdCore) : (s.modCmdCore i f).fresh = s.fresh := rfl
@[simp] theorem State.modCmdCore_iss (s : State) (i : Nat) (f : CmdCore → CmdCore) : (s.modCmdCore i f).iss = s.iss := rfl
@[simp] theorem State.modCmdCore_turn (s : State) (i : Nat) (f : CmdCore → CmdCore) : (s.modCmdCore i f).turn = s.turn := rfl
@[simp] theorem State.modCmdCore_plies (s : State) (i : Nat) (f : CmdCore → CmdCore) : (s.modCmdCore i f).plies = s.plies := rfl
@[simp] theorem State.modCmdCore_skeins (s : State) (i : Nat) (f : CmdCore → CmdCore) : (s.modCmdCore i f).skeins = s.skeins := rfl
@[simp] theorem State.modCmdCore_reels (s : State) (i : Nat) (f : CmdCore → CmdCore) : (s.modCmdCore i f).reels = s.reels := rfl
@[simp] theorem State.modCmdCore_jobs (s : State) (i : Nat) (f : CmdCore → CmdCore) : (s.modCmdCore i f).jobs = s.jobs := rfl
@[simp] theorem State.modCmdCore_xfers (s : State) (i : Nat) (f : CmdCore → CmdCore) : (s.modCmdCore i f).xfers = s.xfers := rfl
@[simp] theorem State.modCmdCore_gates (s : State) (i : Nat) (f : CmdCore → CmdCore) : (s.modCmdCore i f).gates = s.gates := rfl
@[simp] theorem State.modCmdCore_cores (s : State) (i : Nat) (f : CmdCore → CmdCore) : (s.modCmdCore i f).cores = s.cores := rfl
@[simp] theorem State.modCmdCore_bays (s : State) (i : Nat) (f : CmdCore → CmdCore) : (s.modCmdCore i f).bays = s.bays := rfl
@[simp] theorem State.modCmdCore_dies (s : State) (i : Nat) (f : CmdCore → CmdCore) : (s.modCmdCore i f).dies = s.dies := rfl
@[simp] theorem State.modCmdCore_home (s : State) (i : Nat) (f : CmdCore → CmdCore) : (s.modCmdCore i f).home = s.home := rfl
@[simp] theorem State.modCmdCore_hbm (s : State) (i : Nat) (f : CmdCore → CmdCore) : (s.modCmdCore i f).hbm = s.hbm := rfl
@[simp] theorem State.modCmdCore_l2 (s : State) (i : Nat) (f : CmdCore → CmdCore) : (s.modCmdCore i f).l2 = s.l2 := rfl
@[simp] theorem State.modCmdCore_homePoison (s : State) (i : Nat) (f : CmdCore → CmdCore) : (s.modCmdCore i f).homePoison = s.homePoison := rfl
@[simp] theorem State.modCmdCore_hbmPoison (s : State) (i : Nat) (f : CmdCore → CmdCore) : (s.modCmdCore i f).hbmPoison = s.hbmPoison := rfl
@[simp] theorem State.modCmdCore_ws (s : State) (i : Nat) (f : CmdCore → CmdCore) : (s.modCmdCore i f).ws = s.ws := rfl
@[simp] theorem State.modCmdCore_wsPoison (s : State) (i : Nat) (f : CmdCore → CmdCore) : (s.modCmdCore i f).wsPoison = s.wsPoison := rfl
@[simp] theorem State.modCmdCore_flips (s : State) (i : Nat) (f : CmdCore → CmdCore) : (s.modCmdCore i f).flips = s.flips := rfl
@[simp] theorem State.modCmdCore_reds (s : State) (i : Nat) (f : CmdCore → CmdCore) : (s.modCmdCore i f).reds = s.reds := rfl
@[simp] theorem State.modCmdCore_captures (s : State) (i : Nat) (f : CmdCore → CmdCore) : (s.modCmdCore i f).captures = s.captures := rfl
@[simp] theorem State.modCmdCore_vdevs (s : State) (i : Nat) (f : CmdCore → CmdCore) : (s.modCmdCore i f).vdevs = s.vdevs := rfl
@[simp] theorem State.modCmdCore_queues (s : State) (i : Nat) (f : CmdCore → CmdCore) : (s.modCmdCore i f).queues = s.queues := rfl
@[simp] theorem State.modCmdCore_pf0 (s : State) (i : Nat) (f : CmdCore → CmdCore) : (s.modCmdCore i f).pf0 = s.pf0 := rfl

@[simp] theorem State.send_clock (s : State) (o : Out) : (s.send o).clock = s.clock := rfl
@[simp] theorem State.send_inputs (s : State) (o : Out) : (s.send o).inputs = s.inputs := rfl
@[simp] theorem State.send_engine (s : State) (o : Out) : (s.send o).engine = s.engine := rfl
@[simp] theorem State.send_draws (s : State) (o : Out) : (s.send o).draws = s.draws := rfl
@[simp] theorem State.send_fresh (s : State) (o : Out) : (s.send o).fresh = s.fresh := rfl
@[simp] theorem State.send_iss (s : State) (o : Out) : (s.send o).iss = s.iss := rfl
@[simp] theorem State.send_turn (s : State) (o : Out) : (s.send o).turn = s.turn := rfl
@[simp] theorem State.send_plies (s : State) (o : Out) : (s.send o).plies = s.plies := rfl
@[simp] theorem State.send_skeins (s : State) (o : Out) : (s.send o).skeins = s.skeins := rfl
@[simp] theorem State.send_reels (s : State) (o : Out) : (s.send o).reels = s.reels := rfl
@[simp] theorem State.send_jobs (s : State) (o : Out) : (s.send o).jobs = s.jobs := rfl
@[simp] theorem State.send_xfers (s : State) (o : Out) : (s.send o).xfers = s.xfers := rfl
@[simp] theorem State.send_gates (s : State) (o : Out) : (s.send o).gates = s.gates := rfl
@[simp] theorem State.send_cores (s : State) (o : Out) : (s.send o).cores = s.cores := rfl
@[simp] theorem State.send_bays (s : State) (o : Out) : (s.send o).bays = s.bays := rfl
@[simp] theorem State.send_dies (s : State) (o : Out) : (s.send o).dies = s.dies := rfl
@[simp] theorem State.send_home (s : State) (o : Out) : (s.send o).home = s.home := rfl
@[simp] theorem State.send_hbm (s : State) (o : Out) : (s.send o).hbm = s.hbm := rfl
@[simp] theorem State.send_l2 (s : State) (o : Out) : (s.send o).l2 = s.l2 := rfl
@[simp] theorem State.send_homePoison (s : State) (o : Out) : (s.send o).homePoison = s.homePoison := rfl
@[simp] theorem State.send_hbmPoison (s : State) (o : Out) : (s.send o).hbmPoison = s.hbmPoison := rfl
@[simp] theorem State.send_ws (s : State) (o : Out) : (s.send o).ws = s.ws := rfl
@[simp] theorem State.send_wsPoison (s : State) (o : Out) : (s.send o).wsPoison = s.wsPoison := rfl
@[simp] theorem State.send_flips (s : State) (o : Out) : (s.send o).flips = s.flips := rfl
@[simp] theorem State.send_reds (s : State) (o : Out) : (s.send o).reds = s.reds := rfl
@[simp] theorem State.send_captures (s : State) (o : Out) : (s.send o).captures = s.captures := rfl
@[simp] theorem State.send_vdevs (s : State) (o : Out) : (s.send o).vdevs = s.vdevs := rfl
@[simp] theorem State.send_queues (s : State) (o : Out) : (s.send o).queues = s.queues := rfl
@[simp] theorem State.send_pf0 (s : State) (o : Out) : (s.send o).pf0 = s.pf0 := rfl

@[simp] theorem State.modPf0_clock (s : State) (f : Pf0 → Pf0) : (s.modPf0 f).clock = s.clock := rfl
@[simp] theorem State.modPf0_inputs (s : State) (f : Pf0 → Pf0) : (s.modPf0 f).inputs = s.inputs := rfl
@[simp] theorem State.modPf0_engine (s : State) (f : Pf0 → Pf0) : (s.modPf0 f).engine = s.engine := rfl
@[simp] theorem State.modPf0_draws (s : State) (f : Pf0 → Pf0) : (s.modPf0 f).draws = s.draws := rfl
@[simp] theorem State.modPf0_fresh (s : State) (f : Pf0 → Pf0) : (s.modPf0 f).fresh = s.fresh := rfl
@[simp] theorem State.modPf0_iss (s : State) (f : Pf0 → Pf0) : (s.modPf0 f).iss = s.iss := rfl
@[simp] theorem State.modPf0_turn (s : State) (f : Pf0 → Pf0) : (s.modPf0 f).turn = s.turn := rfl
@[simp] theorem State.modPf0_plies (s : State) (f : Pf0 → Pf0) : (s.modPf0 f).plies = s.plies := rfl
@[simp] theorem State.modPf0_skeins (s : State) (f : Pf0 → Pf0) : (s.modPf0 f).skeins = s.skeins := rfl
@[simp] theorem State.modPf0_reels (s : State) (f : Pf0 → Pf0) : (s.modPf0 f).reels = s.reels := rfl
@[simp] theorem State.modPf0_jobs (s : State) (f : Pf0 → Pf0) : (s.modPf0 f).jobs = s.jobs := rfl
@[simp] theorem State.modPf0_xfers (s : State) (f : Pf0 → Pf0) : (s.modPf0 f).xfers = s.xfers := rfl
@[simp] theorem State.modPf0_gates (s : State) (f : Pf0 → Pf0) : (s.modPf0 f).gates = s.gates := rfl
@[simp] theorem State.modPf0_cores (s : State) (f : Pf0 → Pf0) : (s.modPf0 f).cores = s.cores := rfl
@[simp] theorem State.modPf0_bays (s : State) (f : Pf0 → Pf0) : (s.modPf0 f).bays = s.bays := rfl
@[simp] theorem State.modPf0_dies (s : State) (f : Pf0 → Pf0) : (s.modPf0 f).dies = s.dies := rfl
@[simp] theorem State.modPf0_home (s : State) (f : Pf0 → Pf0) : (s.modPf0 f).home = s.home := rfl
@[simp] theorem State.modPf0_hbm (s : State) (f : Pf0 → Pf0) : (s.modPf0 f).hbm = s.hbm := rfl
@[simp] theorem State.modPf0_l2 (s : State) (f : Pf0 → Pf0) : (s.modPf0 f).l2 = s.l2 := rfl
@[simp] theorem State.modPf0_homePoison (s : State) (f : Pf0 → Pf0) : (s.modPf0 f).homePoison = s.homePoison := rfl
@[simp] theorem State.modPf0_hbmPoison (s : State) (f : Pf0 → Pf0) : (s.modPf0 f).hbmPoison = s.hbmPoison := rfl
@[simp] theorem State.modPf0_ws (s : State) (f : Pf0 → Pf0) : (s.modPf0 f).ws = s.ws := rfl
@[simp] theorem State.modPf0_wsPoison (s : State) (f : Pf0 → Pf0) : (s.modPf0 f).wsPoison = s.wsPoison := rfl
@[simp] theorem State.modPf0_flips (s : State) (f : Pf0 → Pf0) : (s.modPf0 f).flips = s.flips := rfl
@[simp] theorem State.modPf0_reds (s : State) (f : Pf0 → Pf0) : (s.modPf0 f).reds = s.reds := rfl
@[simp] theorem State.modPf0_captures (s : State) (f : Pf0 → Pf0) : (s.modPf0 f).captures = s.captures := rfl
@[simp] theorem State.modPf0_vdevs (s : State) (f : Pf0 → Pf0) : (s.modPf0 f).vdevs = s.vdevs := rfl
@[simp] theorem State.modPf0_queues (s : State) (f : Pf0 → Pf0) : (s.modPf0 f).queues = s.queues := rfl
@[simp] theorem State.modPf0_plat (s : State) (f : Pf0 → Pf0) : (s.modPf0 f).plat = s.plat := rfl

@[simp] theorem State.bump_clock (s : State) : (s.bump ).clock = s.clock := rfl
@[simp] theorem State.bump_inputs (s : State) : (s.bump ).inputs = s.inputs := rfl
@[simp] theorem State.bump_engine (s : State) : (s.bump ).engine = s.engine := rfl
@[simp] theorem State.bump_draws (s : State) : (s.bump ).draws = s.draws := rfl
@[simp] theorem State.bump_iss (s : State) : (s.bump ).iss = s.iss := rfl
@[simp] theorem State.bump_turn (s : State) : (s.bump ).turn = s.turn := rfl
@[simp] theorem State.bump_plies (s : State) : (s.bump ).plies = s.plies := rfl
@[simp] theorem State.bump_skeins (s : State) : (s.bump ).skeins = s.skeins := rfl
@[simp] theorem State.bump_reels (s : State) : (s.bump ).reels = s.reels := rfl
@[simp] theorem State.bump_jobs (s : State) : (s.bump ).jobs = s.jobs := rfl
@[simp] theorem State.bump_xfers (s : State) : (s.bump ).xfers = s.xfers := rfl
@[simp] theorem State.bump_gates (s : State) : (s.bump ).gates = s.gates := rfl
@[simp] theorem State.bump_cores (s : State) : (s.bump ).cores = s.cores := rfl
@[simp] theorem State.bump_bays (s : State) : (s.bump ).bays = s.bays := rfl
@[simp] theorem State.bump_dies (s : State) : (s.bump ).dies = s.dies := rfl
@[simp] theorem State.bump_home (s : State) : (s.bump ).home = s.home := rfl
@[simp] theorem State.bump_hbm (s : State) : (s.bump ).hbm = s.hbm := rfl
@[simp] theorem State.bump_l2 (s : State) : (s.bump ).l2 = s.l2 := rfl
@[simp] theorem State.bump_homePoison (s : State) : (s.bump ).homePoison = s.homePoison := rfl
@[simp] theorem State.bump_hbmPoison (s : State) : (s.bump ).hbmPoison = s.hbmPoison := rfl
@[simp] theorem State.bump_ws (s : State) : (s.bump ).ws = s.ws := rfl
@[simp] theorem State.bump_wsPoison (s : State) : (s.bump ).wsPoison = s.wsPoison := rfl
@[simp] theorem State.bump_flips (s : State) : (s.bump ).flips = s.flips := rfl
@[simp] theorem State.bump_reds (s : State) : (s.bump ).reds = s.reds := rfl
@[simp] theorem State.bump_captures (s : State) : (s.bump ).captures = s.captures := rfl
@[simp] theorem State.bump_vdevs (s : State) : (s.bump ).vdevs = s.vdevs := rfl
@[simp] theorem State.bump_queues (s : State) : (s.bump ).queues = s.queues := rfl
@[simp] theorem State.bump_pf0 (s : State) : (s.bump ).pf0 = s.pf0 := rfl
@[simp] theorem State.bump_plat (s : State) : (s.bump ).plat = s.plat := rfl

@[simp] theorem State.modStrand_clock (s : State) (i k : Nat) (f : Strand → Strand) : (s.modStrand i k f).clock = s.clock := rfl
@[simp] theorem State.modStrand_inputs (s : State) (i k : Nat) (f : Strand → Strand) : (s.modStrand i k f).inputs = s.inputs := rfl
@[simp] theorem State.modStrand_engine (s : State) (i k : Nat) (f : Strand → Strand) : (s.modStrand i k f).engine = s.engine := rfl
@[simp] theorem State.modStrand_draws (s : State) (i k : Nat) (f : Strand → Strand) : (s.modStrand i k f).draws = s.draws := rfl
@[simp] theorem State.modStrand_fresh (s : State) (i k : Nat) (f : Strand → Strand) : (s.modStrand i k f).fresh = s.fresh := rfl
@[simp] theorem State.modStrand_iss (s : State) (i k : Nat) (f : Strand → Strand) : (s.modStrand i k f).iss = s.iss := rfl
@[simp] theorem State.modStrand_turn (s : State) (i k : Nat) (f : Strand → Strand) : (s.modStrand i k f).turn = s.turn := rfl
@[simp] theorem State.modStrand_skeins (s : State) (i k : Nat) (f : Strand → Strand) : (s.modStrand i k f).skeins = s.skeins := rfl
@[simp] theorem State.modStrand_reels (s : State) (i k : Nat) (f : Strand → Strand) : (s.modStrand i k f).reels = s.reels := rfl
@[simp] theorem State.modStrand_jobs (s : State) (i k : Nat) (f : Strand → Strand) : (s.modStrand i k f).jobs = s.jobs := rfl
@[simp] theorem State.modStrand_xfers (s : State) (i k : Nat) (f : Strand → Strand) : (s.modStrand i k f).xfers = s.xfers := rfl
@[simp] theorem State.modStrand_gates (s : State) (i k : Nat) (f : Strand → Strand) : (s.modStrand i k f).gates = s.gates := rfl
@[simp] theorem State.modStrand_cores (s : State) (i k : Nat) (f : Strand → Strand) : (s.modStrand i k f).cores = s.cores := rfl
@[simp] theorem State.modStrand_bays (s : State) (i k : Nat) (f : Strand → Strand) : (s.modStrand i k f).bays = s.bays := rfl
@[simp] theorem State.modStrand_dies (s : State) (i k : Nat) (f : Strand → Strand) : (s.modStrand i k f).dies = s.dies := rfl
@[simp] theorem State.modStrand_home (s : State) (i k : Nat) (f : Strand → Strand) : (s.modStrand i k f).home = s.home := rfl
@[simp] theorem State.modStrand_hbm (s : State) (i k : Nat) (f : Strand → Strand) : (s.modStrand i k f).hbm = s.hbm := rfl
@[simp] theorem State.modStrand_l2 (s : State) (i k : Nat) (f : Strand → Strand) : (s.modStrand i k f).l2 = s.l2 := rfl
@[simp] theorem State.modStrand_homePoison (s : State) (i k : Nat) (f : Strand → Strand) : (s.modStrand i k f).homePoison = s.homePoison := rfl
@[simp] theorem State.modStrand_hbmPoison (s : State) (i k : Nat) (f : Strand → Strand) : (s.modStrand i k f).hbmPoison = s.hbmPoison := rfl
@[simp] theorem State.modStrand_ws (s : State) (i k : Nat) (f : Strand → Strand) : (s.modStrand i k f).ws = s.ws := rfl
@[simp] theorem State.modStrand_wsPoison (s : State) (i k : Nat) (f : Strand → Strand) : (s.modStrand i k f).wsPoison = s.wsPoison := rfl
@[simp] theorem State.modStrand_flips (s : State) (i k : Nat) (f : Strand → Strand) : (s.modStrand i k f).flips = s.flips := rfl
@[simp] theorem State.modStrand_reds (s : State) (i k : Nat) (f : Strand → Strand) : (s.modStrand i k f).reds = s.reds := rfl
@[simp] theorem State.modStrand_captures (s : State) (i k : Nat) (f : Strand → Strand) : (s.modStrand i k f).captures = s.captures := rfl
@[simp] theorem State.modStrand_vdevs (s : State) (i k : Nat) (f : Strand → Strand) : (s.modStrand i k f).vdevs = s.vdevs := rfl
@[simp] theorem State.modStrand_queues (s : State) (i k : Nat) (f : Strand → Strand) : (s.modStrand i k f).queues = s.queues := rfl
@[simp] theorem State.modStrand_pf0 (s : State) (i k : Nat) (f : Strand → Strand) : (s.modStrand i k f).pf0 = s.pf0 := rfl
@[simp] theorem State.modStrand_plat (s : State) (i k : Nat) (f : Strand → Strand) : (s.modStrand i k f).plat = s.plat := rfl

@[simp] theorem State.modFrag_clock (s : State) (i k n : Nat) (f : Frag → Frag) : (s.modFrag i k n f).clock = s.clock := rfl
@[simp] theorem State.modFrag_inputs (s : State) (i k n : Nat) (f : Frag → Frag) : (s.modFrag i k n f).inputs = s.inputs := rfl
@[simp] theorem State.modFrag_engine (s : State) (i k n : Nat) (f : Frag → Frag) : (s.modFrag i k n f).engine = s.engine := rfl
@[simp] theorem State.modFrag_draws (s : State) (i k n : Nat) (f : Frag → Frag) : (s.modFrag i k n f).draws = s.draws := rfl
@[simp] theorem State.modFrag_fresh (s : State) (i k n : Nat) (f : Frag → Frag) : (s.modFrag i k n f).fresh = s.fresh := rfl
@[simp] theorem State.modFrag_iss (s : State) (i k n : Nat) (f : Frag → Frag) : (s.modFrag i k n f).iss = s.iss := rfl
@[simp] theorem State.modFrag_turn (s : State) (i k n : Nat) (f : Frag → Frag) : (s.modFrag i k n f).turn = s.turn := rfl
@[simp] theorem State.modFrag_skeins (s : State) (i k n : Nat) (f : Frag → Frag) : (s.modFrag i k n f).skeins = s.skeins := rfl
@[simp] theorem State.modFrag_reels (s : State) (i k n : Nat) (f : Frag → Frag) : (s.modFrag i k n f).reels = s.reels := rfl
@[simp] theorem State.modFrag_jobs (s : State) (i k n : Nat) (f : Frag → Frag) : (s.modFrag i k n f).jobs = s.jobs := rfl
@[simp] theorem State.modFrag_xfers (s : State) (i k n : Nat) (f : Frag → Frag) : (s.modFrag i k n f).xfers = s.xfers := rfl
@[simp] theorem State.modFrag_gates (s : State) (i k n : Nat) (f : Frag → Frag) : (s.modFrag i k n f).gates = s.gates := rfl
@[simp] theorem State.modFrag_cores (s : State) (i k n : Nat) (f : Frag → Frag) : (s.modFrag i k n f).cores = s.cores := rfl
@[simp] theorem State.modFrag_bays (s : State) (i k n : Nat) (f : Frag → Frag) : (s.modFrag i k n f).bays = s.bays := rfl
@[simp] theorem State.modFrag_dies (s : State) (i k n : Nat) (f : Frag → Frag) : (s.modFrag i k n f).dies = s.dies := rfl
@[simp] theorem State.modFrag_home (s : State) (i k n : Nat) (f : Frag → Frag) : (s.modFrag i k n f).home = s.home := rfl
@[simp] theorem State.modFrag_hbm (s : State) (i k n : Nat) (f : Frag → Frag) : (s.modFrag i k n f).hbm = s.hbm := rfl
@[simp] theorem State.modFrag_l2 (s : State) (i k n : Nat) (f : Frag → Frag) : (s.modFrag i k n f).l2 = s.l2 := rfl
@[simp] theorem State.modFrag_homePoison (s : State) (i k n : Nat) (f : Frag → Frag) : (s.modFrag i k n f).homePoison = s.homePoison := rfl
@[simp] theorem State.modFrag_hbmPoison (s : State) (i k n : Nat) (f : Frag → Frag) : (s.modFrag i k n f).hbmPoison = s.hbmPoison := rfl
@[simp] theorem State.modFrag_ws (s : State) (i k n : Nat) (f : Frag → Frag) : (s.modFrag i k n f).ws = s.ws := rfl
@[simp] theorem State.modFrag_wsPoison (s : State) (i k n : Nat) (f : Frag → Frag) : (s.modFrag i k n f).wsPoison = s.wsPoison := rfl
@[simp] theorem State.modFrag_flips (s : State) (i k n : Nat) (f : Frag → Frag) : (s.modFrag i k n f).flips = s.flips := rfl
@[simp] theorem State.modFrag_reds (s : State) (i k n : Nat) (f : Frag → Frag) : (s.modFrag i k n f).reds = s.reds := rfl
@[simp] theorem State.modFrag_captures (s : State) (i k n : Nat) (f : Frag → Frag) : (s.modFrag i k n f).captures = s.captures := rfl
@[simp] theorem State.modFrag_vdevs (s : State) (i k n : Nat) (f : Frag → Frag) : (s.modFrag i k n f).vdevs = s.vdevs := rfl
@[simp] theorem State.modFrag_queues (s : State) (i k n : Nat) (f : Frag → Frag) : (s.modFrag i k n f).queues = s.queues := rfl
@[simp] theorem State.modFrag_pf0 (s : State) (i k n : Nat) (f : Frag → Frag) : (s.modFrag i k n f).pf0 = s.pf0 := rfl
@[simp] theorem State.modFrag_plat (s : State) (i k n : Nat) (f : Frag → Frag) : (s.modFrag i k n f).plat = s.plat := rfl

@[simp] theorem State.modCurPly_clock (s : State) (f : Ply → Ply) : (s.modCurPly f).clock = s.clock := rfl
@[simp] theorem State.modCurPly_inputs (s : State) (f : Ply → Ply) : (s.modCurPly f).inputs = s.inputs := rfl
@[simp] theorem State.modCurPly_engine (s : State) (f : Ply → Ply) : (s.modCurPly f).engine = s.engine := rfl
@[simp] theorem State.modCurPly_draws (s : State) (f : Ply → Ply) : (s.modCurPly f).draws = s.draws := rfl
@[simp] theorem State.modCurPly_fresh (s : State) (f : Ply → Ply) : (s.modCurPly f).fresh = s.fresh := rfl
@[simp] theorem State.modCurPly_iss (s : State) (f : Ply → Ply) : (s.modCurPly f).iss = s.iss := rfl
@[simp] theorem State.modCurPly_turn (s : State) (f : Ply → Ply) : (s.modCurPly f).turn = s.turn := rfl
@[simp] theorem State.modCurPly_skeins (s : State) (f : Ply → Ply) : (s.modCurPly f).skeins = s.skeins := rfl
@[simp] theorem State.modCurPly_reels (s : State) (f : Ply → Ply) : (s.modCurPly f).reels = s.reels := rfl
@[simp] theorem State.modCurPly_jobs (s : State) (f : Ply → Ply) : (s.modCurPly f).jobs = s.jobs := rfl
@[simp] theorem State.modCurPly_xfers (s : State) (f : Ply → Ply) : (s.modCurPly f).xfers = s.xfers := rfl
@[simp] theorem State.modCurPly_gates (s : State) (f : Ply → Ply) : (s.modCurPly f).gates = s.gates := rfl
@[simp] theorem State.modCurPly_cores (s : State) (f : Ply → Ply) : (s.modCurPly f).cores = s.cores := rfl
@[simp] theorem State.modCurPly_bays (s : State) (f : Ply → Ply) : (s.modCurPly f).bays = s.bays := rfl
@[simp] theorem State.modCurPly_dies (s : State) (f : Ply → Ply) : (s.modCurPly f).dies = s.dies := rfl
@[simp] theorem State.modCurPly_home (s : State) (f : Ply → Ply) : (s.modCurPly f).home = s.home := rfl
@[simp] theorem State.modCurPly_hbm (s : State) (f : Ply → Ply) : (s.modCurPly f).hbm = s.hbm := rfl
@[simp] theorem State.modCurPly_l2 (s : State) (f : Ply → Ply) : (s.modCurPly f).l2 = s.l2 := rfl
@[simp] theorem State.modCurPly_homePoison (s : State) (f : Ply → Ply) : (s.modCurPly f).homePoison = s.homePoison := rfl
@[simp] theorem State.modCurPly_hbmPoison (s : State) (f : Ply → Ply) : (s.modCurPly f).hbmPoison = s.hbmPoison := rfl
@[simp] theorem State.modCurPly_ws (s : State) (f : Ply → Ply) : (s.modCurPly f).ws = s.ws := rfl
@[simp] theorem State.modCurPly_wsPoison (s : State) (f : Ply → Ply) : (s.modCurPly f).wsPoison = s.wsPoison := rfl
@[simp] theorem State.modCurPly_flips (s : State) (f : Ply → Ply) : (s.modCurPly f).flips = s.flips := rfl
@[simp] theorem State.modCurPly_reds (s : State) (f : Ply → Ply) : (s.modCurPly f).reds = s.reds := rfl
@[simp] theorem State.modCurPly_captures (s : State) (f : Ply → Ply) : (s.modCurPly f).captures = s.captures := rfl
@[simp] theorem State.modCurPly_vdevs (s : State) (f : Ply → Ply) : (s.modCurPly f).vdevs = s.vdevs := rfl
@[simp] theorem State.modCurPly_queues (s : State) (f : Ply → Ply) : (s.modCurPly f).queues = s.queues := rfl
@[simp] theorem State.modCurPly_pf0 (s : State) (f : Ply → Ply) : (s.modCurPly f).pf0 = s.pf0 := rfl
@[simp] theorem State.modCurPly_plat (s : State) (f : Ply → Ply) : (s.modCurPly f).plat = s.plat := rfl

@[simp] theorem State.modCur_clock (s : State) (f : Strand → Strand) : (s.modCur f).clock = s.clock := rfl
@[simp] theorem State.modCur_inputs (s : State) (f : Strand → Strand) : (s.modCur f).inputs = s.inputs := rfl
@[simp] theorem State.modCur_engine (s : State) (f : Strand → Strand) : (s.modCur f).engine = s.engine := rfl
@[simp] theorem State.modCur_draws (s : State) (f : Strand → Strand) : (s.modCur f).draws = s.draws := rfl
@[simp] theorem State.modCur_fresh (s : State) (f : Strand → Strand) : (s.modCur f).fresh = s.fresh := rfl
@[simp] theorem State.modCur_iss (s : State) (f : Strand → Strand) : (s.modCur f).iss = s.iss := rfl
@[simp] theorem State.modCur_turn (s : State) (f : Strand → Strand) : (s.modCur f).turn = s.turn := rfl
@[simp] theorem State.modCur_skeins (s : State) (f : Strand → Strand) : (s.modCur f).skeins = s.skeins := rfl
@[simp] theorem State.modCur_reels (s : State) (f : Strand → Strand) : (s.modCur f).reels = s.reels := rfl
@[simp] theorem State.modCur_jobs (s : State) (f : Strand → Strand) : (s.modCur f).jobs = s.jobs := rfl
@[simp] theorem State.modCur_xfers (s : State) (f : Strand → Strand) : (s.modCur f).xfers = s.xfers := rfl
@[simp] theorem State.modCur_gates (s : State) (f : Strand → Strand) : (s.modCur f).gates = s.gates := rfl
@[simp] theorem State.modCur_cores (s : State) (f : Strand → Strand) : (s.modCur f).cores = s.cores := rfl
@[simp] theorem State.modCur_bays (s : State) (f : Strand → Strand) : (s.modCur f).bays = s.bays := rfl
@[simp] theorem State.modCur_dies (s : State) (f : Strand → Strand) : (s.modCur f).dies = s.dies := rfl
@[simp] theorem State.modCur_home (s : State) (f : Strand → Strand) : (s.modCur f).home = s.home := rfl
@[simp] theorem State.modCur_hbm (s : State) (f : Strand → Strand) : (s.modCur f).hbm = s.hbm := rfl
@[simp] theorem State.modCur_l2 (s : State) (f : Strand → Strand) : (s.modCur f).l2 = s.l2 := rfl
@[simp] theorem State.modCur_homePoison (s : State) (f : Strand → Strand) : (s.modCur f).homePoison = s.homePoison := rfl
@[simp] theorem State.modCur_hbmPoison (s : State) (f : Strand → Strand) : (s.modCur f).hbmPoison = s.hbmPoison := rfl
@[simp] theorem State.modCur_ws (s : State) (f : Strand → Strand) : (s.modCur f).ws = s.ws := rfl
@[simp] theorem State.modCur_wsPoison (s : State) (f : Strand → Strand) : (s.modCur f).wsPoison = s.wsPoison := rfl
@[simp] theorem State.modCur_flips (s : State) (f : Strand → Strand) : (s.modCur f).flips = s.flips := rfl
@[simp] theorem State.modCur_reds (s : State) (f : Strand → Strand) : (s.modCur f).reds = s.reds := rfl
@[simp] theorem State.modCur_captures (s : State) (f : Strand → Strand) : (s.modCur f).captures = s.captures := rfl
@[simp] theorem State.modCur_vdevs (s : State) (f : Strand → Strand) : (s.modCur f).vdevs = s.vdevs := rfl
@[simp] theorem State.modCur_queues (s : State) (f : Strand → Strand) : (s.modCur f).queues = s.queues := rfl
@[simp] theorem State.modCur_pf0 (s : State) (f : Strand → Strand) : (s.modCur f).pf0 = s.pf0 := rfl
@[simp] theorem State.modCur_plat (s : State) (f : Strand → Strand) : (s.modCur f).plat = s.plat := rfl

@[simp] theorem State.modCurFrag_clock (s : State) (f : Frag → Frag) : (s.modCurFrag f).clock = s.clock := rfl
@[simp] theorem State.modCurFrag_inputs (s : State) (f : Frag → Frag) : (s.modCurFrag f).inputs = s.inputs := rfl
@[simp] theorem State.modCurFrag_engine (s : State) (f : Frag → Frag) : (s.modCurFrag f).engine = s.engine := rfl
@[simp] theorem State.modCurFrag_draws (s : State) (f : Frag → Frag) : (s.modCurFrag f).draws = s.draws := rfl
@[simp] theorem State.modCurFrag_fresh (s : State) (f : Frag → Frag) : (s.modCurFrag f).fresh = s.fresh := rfl
@[simp] theorem State.modCurFrag_iss (s : State) (f : Frag → Frag) : (s.modCurFrag f).iss = s.iss := rfl
@[simp] theorem State.modCurFrag_turn (s : State) (f : Frag → Frag) : (s.modCurFrag f).turn = s.turn := rfl
@[simp] theorem State.modCurFrag_skeins (s : State) (f : Frag → Frag) : (s.modCurFrag f).skeins = s.skeins := rfl
@[simp] theorem State.modCurFrag_reels (s : State) (f : Frag → Frag) : (s.modCurFrag f).reels = s.reels := rfl
@[simp] theorem State.modCurFrag_jobs (s : State) (f : Frag → Frag) : (s.modCurFrag f).jobs = s.jobs := rfl
@[simp] theorem State.modCurFrag_xfers (s : State) (f : Frag → Frag) : (s.modCurFrag f).xfers = s.xfers := rfl
@[simp] theorem State.modCurFrag_gates (s : State) (f : Frag → Frag) : (s.modCurFrag f).gates = s.gates := rfl
@[simp] theorem State.modCurFrag_cores (s : State) (f : Frag → Frag) : (s.modCurFrag f).cores = s.cores := rfl
@[simp] theorem State.modCurFrag_bays (s : State) (f : Frag → Frag) : (s.modCurFrag f).bays = s.bays := rfl
@[simp] theorem State.modCurFrag_dies (s : State) (f : Frag → Frag) : (s.modCurFrag f).dies = s.dies := rfl
@[simp] theorem State.modCurFrag_home (s : State) (f : Frag → Frag) : (s.modCurFrag f).home = s.home := rfl
@[simp] theorem State.modCurFrag_hbm (s : State) (f : Frag → Frag) : (s.modCurFrag f).hbm = s.hbm := rfl
@[simp] theorem State.modCurFrag_l2 (s : State) (f : Frag → Frag) : (s.modCurFrag f).l2 = s.l2 := rfl
@[simp] theorem State.modCurFrag_homePoison (s : State) (f : Frag → Frag) : (s.modCurFrag f).homePoison = s.homePoison := rfl
@[simp] theorem State.modCurFrag_hbmPoison (s : State) (f : Frag → Frag) : (s.modCurFrag f).hbmPoison = s.hbmPoison := rfl
@[simp] theorem State.modCurFrag_ws (s : State) (f : Frag → Frag) : (s.modCurFrag f).ws = s.ws := rfl
@[simp] theorem State.modCurFrag_wsPoison (s : State) (f : Frag → Frag) : (s.modCurFrag f).wsPoison = s.wsPoison := rfl
@[simp] theorem State.modCurFrag_flips (s : State) (f : Frag → Frag) : (s.modCurFrag f).flips = s.flips := rfl
@[simp] theorem State.modCurFrag_reds (s : State) (f : Frag → Frag) : (s.modCurFrag f).reds = s.reds := rfl
@[simp] theorem State.modCurFrag_captures (s : State) (f : Frag → Frag) : (s.modCurFrag f).captures = s.captures := rfl
@[simp] theorem State.modCurFrag_vdevs (s : State) (f : Frag → Frag) : (s.modCurFrag f).vdevs = s.vdevs := rfl
@[simp] theorem State.modCurFrag_queues (s : State) (f : Frag → Frag) : (s.modCurFrag f).queues = s.queues := rfl
@[simp] theorem State.modCurFrag_pf0 (s : State) (f : Frag → Frag) : (s.modCurFrag f).pf0 = s.pf0 := rfl
@[simp] theorem State.modCurFrag_plat (s : State) (f : Frag → Frag) : (s.modCurFrag f).plat = s.plat := rfl

@[simp] theorem State.mapFrags_clock (s : State) (f : Nat → Nat → Nat → Frag → Frag) : (s.mapFrags f).clock = s.clock := rfl
@[simp] theorem State.mapFrags_inputs (s : State) (f : Nat → Nat → Nat → Frag → Frag) : (s.mapFrags f).inputs = s.inputs := rfl
@[simp] theorem State.mapFrags_engine (s : State) (f : Nat → Nat → Nat → Frag → Frag) : (s.mapFrags f).engine = s.engine := rfl
@[simp] theorem State.mapFrags_draws (s : State) (f : Nat → Nat → Nat → Frag → Frag) : (s.mapFrags f).draws = s.draws := rfl
@[simp] theorem State.mapFrags_fresh (s : State) (f : Nat → Nat → Nat → Frag → Frag) : (s.mapFrags f).fresh = s.fresh := rfl
@[simp] theorem State.mapFrags_iss (s : State) (f : Nat → Nat → Nat → Frag → Frag) : (s.mapFrags f).iss = s.iss := rfl
@[simp] theorem State.mapFrags_turn (s : State) (f : Nat → Nat → Nat → Frag → Frag) : (s.mapFrags f).turn = s.turn := rfl
@[simp] theorem State.mapFrags_skeins (s : State) (f : Nat → Nat → Nat → Frag → Frag) : (s.mapFrags f).skeins = s.skeins := rfl
@[simp] theorem State.mapFrags_reels (s : State) (f : Nat → Nat → Nat → Frag → Frag) : (s.mapFrags f).reels = s.reels := rfl
@[simp] theorem State.mapFrags_jobs (s : State) (f : Nat → Nat → Nat → Frag → Frag) : (s.mapFrags f).jobs = s.jobs := rfl
@[simp] theorem State.mapFrags_xfers (s : State) (f : Nat → Nat → Nat → Frag → Frag) : (s.mapFrags f).xfers = s.xfers := rfl
@[simp] theorem State.mapFrags_gates (s : State) (f : Nat → Nat → Nat → Frag → Frag) : (s.mapFrags f).gates = s.gates := rfl
@[simp] theorem State.mapFrags_cores (s : State) (f : Nat → Nat → Nat → Frag → Frag) : (s.mapFrags f).cores = s.cores := rfl
@[simp] theorem State.mapFrags_bays (s : State) (f : Nat → Nat → Nat → Frag → Frag) : (s.mapFrags f).bays = s.bays := rfl
@[simp] theorem State.mapFrags_dies (s : State) (f : Nat → Nat → Nat → Frag → Frag) : (s.mapFrags f).dies = s.dies := rfl
@[simp] theorem State.mapFrags_home (s : State) (f : Nat → Nat → Nat → Frag → Frag) : (s.mapFrags f).home = s.home := rfl
@[simp] theorem State.mapFrags_hbm (s : State) (f : Nat → Nat → Nat → Frag → Frag) : (s.mapFrags f).hbm = s.hbm := rfl
@[simp] theorem State.mapFrags_l2 (s : State) (f : Nat → Nat → Nat → Frag → Frag) : (s.mapFrags f).l2 = s.l2 := rfl
@[simp] theorem State.mapFrags_homePoison (s : State) (f : Nat → Nat → Nat → Frag → Frag) : (s.mapFrags f).homePoison = s.homePoison := rfl
@[simp] theorem State.mapFrags_hbmPoison (s : State) (f : Nat → Nat → Nat → Frag → Frag) : (s.mapFrags f).hbmPoison = s.hbmPoison := rfl
@[simp] theorem State.mapFrags_ws (s : State) (f : Nat → Nat → Nat → Frag → Frag) : (s.mapFrags f).ws = s.ws := rfl
@[simp] theorem State.mapFrags_wsPoison (s : State) (f : Nat → Nat → Nat → Frag → Frag) : (s.mapFrags f).wsPoison = s.wsPoison := rfl
@[simp] theorem State.mapFrags_flips (s : State) (f : Nat → Nat → Nat → Frag → Frag) : (s.mapFrags f).flips = s.flips := rfl
@[simp] theorem State.mapFrags_reds (s : State) (f : Nat → Nat → Nat → Frag → Frag) : (s.mapFrags f).reds = s.reds := rfl
@[simp] theorem State.mapFrags_captures (s : State) (f : Nat → Nat → Nat → Frag → Frag) : (s.mapFrags f).captures = s.captures := rfl
@[simp] theorem State.mapFrags_vdevs (s : State) (f : Nat → Nat → Nat → Frag → Frag) : (s.mapFrags f).vdevs = s.vdevs := rfl
@[simp] theorem State.mapFrags_queues (s : State) (f : Nat → Nat → Nat → Frag → Frag) : (s.mapFrags f).queues = s.queues := rfl
@[simp] theorem State.mapFrags_pf0 (s : State) (f : Nat → Nat → Nat → Frag → Frag) : (s.mapFrags f).pf0 = s.pf0 := rfl
@[simp] theorem State.mapFrags_plat (s : State) (f : Nat → Nat → Nat → Frag → Frag) : (s.mapFrags f).plat = s.plat := rfl

@[simp] theorem State.later_clock (s : State) (e : Instr) : (s.later e).clock = s.clock := by unfold State.later; split <;> rfl
@[simp] theorem State.later_inputs (s : State) (e : Instr) : (s.later e).inputs = s.inputs := by unfold State.later; split <;> rfl
@[simp] theorem State.later_draws (s : State) (e : Instr) : (s.later e).draws = s.draws := by unfold State.later; split <;> rfl
@[simp] theorem State.later_fresh (s : State) (e : Instr) : (s.later e).fresh = s.fresh := by unfold State.later; split <;> rfl
@[simp] theorem State.later_iss (s : State) (e : Instr) : (s.later e).iss = s.iss := by unfold State.later; split <;> rfl
@[simp] theorem State.later_turn (s : State) (e : Instr) : (s.later e).turn = s.turn := by unfold State.later; split <;> rfl
@[simp] theorem State.later_plies (s : State) (e : Instr) : (s.later e).plies = s.plies := by unfold State.later; split <;> rfl
@[simp] theorem State.later_skeins (s : State) (e : Instr) : (s.later e).skeins = s.skeins := by unfold State.later; split <;> rfl
@[simp] theorem State.later_reels (s : State) (e : Instr) : (s.later e).reels = s.reels := by unfold State.later; split <;> rfl
@[simp] theorem State.later_jobs (s : State) (e : Instr) : (s.later e).jobs = s.jobs := by unfold State.later; split <;> rfl
@[simp] theorem State.later_xfers (s : State) (e : Instr) : (s.later e).xfers = s.xfers := by unfold State.later; split <;> rfl
@[simp] theorem State.later_gates (s : State) (e : Instr) : (s.later e).gates = s.gates := by unfold State.later; split <;> rfl
@[simp] theorem State.later_cores (s : State) (e : Instr) : (s.later e).cores = s.cores := by unfold State.later; split <;> rfl
@[simp] theorem State.later_bays (s : State) (e : Instr) : (s.later e).bays = s.bays := by unfold State.later; split <;> rfl
@[simp] theorem State.later_dies (s : State) (e : Instr) : (s.later e).dies = s.dies := by unfold State.later; split <;> rfl
@[simp] theorem State.later_home (s : State) (e : Instr) : (s.later e).home = s.home := by unfold State.later; split <;> rfl
@[simp] theorem State.later_hbm (s : State) (e : Instr) : (s.later e).hbm = s.hbm := by unfold State.later; split <;> rfl
@[simp] theorem State.later_l2 (s : State) (e : Instr) : (s.later e).l2 = s.l2 := by unfold State.later; split <;> rfl
@[simp] theorem State.later_homePoison (s : State) (e : Instr) : (s.later e).homePoison = s.homePoison := by unfold State.later; split <;> rfl
@[simp] theorem State.later_hbmPoison (s : State) (e : Instr) : (s.later e).hbmPoison = s.hbmPoison := by unfold State.later; split <;> rfl
@[simp] theorem State.later_ws (s : State) (e : Instr) : (s.later e).ws = s.ws := by unfold State.later; split <;> rfl
@[simp] theorem State.later_wsPoison (s : State) (e : Instr) : (s.later e).wsPoison = s.wsPoison := by unfold State.later; split <;> rfl
@[simp] theorem State.later_flips (s : State) (e : Instr) : (s.later e).flips = s.flips := by unfold State.later; split <;> rfl
@[simp] theorem State.later_reds (s : State) (e : Instr) : (s.later e).reds = s.reds := by unfold State.later; split <;> rfl
@[simp] theorem State.later_captures (s : State) (e : Instr) : (s.later e).captures = s.captures := by unfold State.later; split <;> rfl
@[simp] theorem State.later_vdevs (s : State) (e : Instr) : (s.later e).vdevs = s.vdevs := by unfold State.later; split <;> rfl
@[simp] theorem State.later_queues (s : State) (e : Instr) : (s.later e).queues = s.queues := by unfold State.later; split <;> rfl
@[simp] theorem State.later_pf0 (s : State) (e : Instr) : (s.later e).pf0 = s.pf0 := by unfold State.later; split <;> rfl
@[simp] theorem State.later_plat (s : State) (e : Instr) : (s.later e).plat = s.plat := by unfold State.later; split <;> rfl

@[simp] theorem State.urgent_clock (s : State) (e : Instr) : (s.urgent e).clock = s.clock := rfl
@[simp] theorem State.urgent_inputs (s : State) (e : Instr) : (s.urgent e).inputs = s.inputs := rfl
@[simp] theorem State.urgent_draws (s : State) (e : Instr) : (s.urgent e).draws = s.draws := rfl
@[simp] theorem State.urgent_fresh (s : State) (e : Instr) : (s.urgent e).fresh = s.fresh := rfl
@[simp] theorem State.urgent_iss (s : State) (e : Instr) : (s.urgent e).iss = s.iss := rfl
@[simp] theorem State.urgent_turn (s : State) (e : Instr) : (s.urgent e).turn = s.turn := rfl
@[simp] theorem State.urgent_plies (s : State) (e : Instr) : (s.urgent e).plies = s.plies := rfl
@[simp] theorem State.urgent_skeins (s : State) (e : Instr) : (s.urgent e).skeins = s.skeins := rfl
@[simp] theorem State.urgent_reels (s : State) (e : Instr) : (s.urgent e).reels = s.reels := rfl
@[simp] theorem State.urgent_jobs (s : State) (e : Instr) : (s.urgent e).jobs = s.jobs := rfl
@[simp] theorem State.urgent_xfers (s : State) (e : Instr) : (s.urgent e).xfers = s.xfers := rfl
@[simp] theorem State.urgent_gates (s : State) (e : Instr) : (s.urgent e).gates = s.gates := rfl
@[simp] theorem State.urgent_cores (s : State) (e : Instr) : (s.urgent e).cores = s.cores := rfl
@[simp] theorem State.urgent_bays (s : State) (e : Instr) : (s.urgent e).bays = s.bays := rfl
@[simp] theorem State.urgent_dies (s : State) (e : Instr) : (s.urgent e).dies = s.dies := rfl
@[simp] theorem State.urgent_home (s : State) (e : Instr) : (s.urgent e).home = s.home := rfl
@[simp] theorem State.urgent_hbm (s : State) (e : Instr) : (s.urgent e).hbm = s.hbm := rfl
@[simp] theorem State.urgent_l2 (s : State) (e : Instr) : (s.urgent e).l2 = s.l2 := rfl
@[simp] theorem State.urgent_homePoison (s : State) (e : Instr) : (s.urgent e).homePoison = s.homePoison := rfl
@[simp] theorem State.urgent_hbmPoison (s : State) (e : Instr) : (s.urgent e).hbmPoison = s.hbmPoison := rfl
@[simp] theorem State.urgent_ws (s : State) (e : Instr) : (s.urgent e).ws = s.ws := rfl
@[simp] theorem State.urgent_wsPoison (s : State) (e : Instr) : (s.urgent e).wsPoison = s.wsPoison := rfl
@[simp] theorem State.urgent_flips (s : State) (e : Instr) : (s.urgent e).flips = s.flips := rfl
@[simp] theorem State.urgent_reds (s : State) (e : Instr) : (s.urgent e).reds = s.reds := rfl
@[simp] theorem State.urgent_captures (s : State) (e : Instr) : (s.urgent e).captures = s.captures := rfl
@[simp] theorem State.urgent_vdevs (s : State) (e : Instr) : (s.urgent e).vdevs = s.vdevs := rfl
@[simp] theorem State.urgent_queues (s : State) (e : Instr) : (s.urgent e).queues = s.queues := rfl
@[simp] theorem State.urgent_pf0 (s : State) (e : Instr) : (s.urgent e).pf0 = s.pf0 := rfl
@[simp] theorem State.urgent_plat (s : State) (e : Instr) : (s.urgent e).plat = s.plat := rfl

/-! ## What an accessor reads after its update -/

@[simp] theorem State.ply_modPly (s : State) (i : Nat) (f : Ply → Ply) : (s.modPly i f).ply i = f (s.ply i) := by
  simp [State.ply, State.modPly, State.putPly]

theorem State.ply_modPly_ne (s : State) {i j : Nat} (h : j ≠ i) (f : Ply → Ply) : (s.modPly i f).ply j = s.ply j := by
  simp [State.ply, State.modPly, State.putPly, Tab.get_put, h]

@[simp] theorem State.core_modCore (s : State) (i : Nat) (f : Core → Core) : (s.modCore i f).core i = f (s.core i) := by
  simp [State.core, State.modCore]

@[simp] theorem State.bay_modBay (s : State) (i : Nat) (f : Bay → Bay) : (s.modBay i f).bay i = f (s.bay i) := by
  simp [State.bay, State.modBay]

@[simp] theorem State.die_modDie (s : State) (i : Nat) (f : Die → Die) : (s.modDie i f).die i = f (s.die i) := by
  simp [State.die, State.modDie]

@[simp] theorem State.vdev_modVdev (s : State) (i : Nat) (f : VDev → VDev) : (s.modVdev i f).vdev i = f (s.vdev i) := by
  simp [State.vdev, State.modVdev]

@[simp] theorem State.queue_modQueue (s : State) (i : Nat) (f : Queue → Queue) : (s.modQueue i f).queue i = f (s.queue i) := by
  simp [State.queue, State.modQueue]

@[simp] theorem State.skein_modSkein (s : State) (i : Nat) (f : Skein → Skein) : (s.modSkein i f).skein i = f (s.skein i) := by
  simp [State.skein, State.modSkein]

@[simp] theorem State.reel_modReel (s : State) (i : Nat) (f : Reel → Reel) : (s.modReel i f).reel i = f (s.reel i) := by
  simp [State.reel, State.modReel]

@[simp] theorem State.cmdCore_modCmdCore (s : State) (i : Nat) (f : CmdCore → CmdCore) :
    (s.modCmdCore i f).cmdCore i = f (s.cmdCore i) := by
  simp [State.cmdCore, State.modCmdCore, State.modPlat]

@[simp] theorem Ply.strand_modStrand (p : Ply) (k : Nat) (f : Strand → Strand) : (p.modStrand k f).strand k = f (p.strand k) := by
  simp [Ply.strand, Ply.modStrand]

theorem Ply.strand_modStrand_ne (p : Ply) {k j : Nat} (h : j ≠ k) (f : Strand → Strand) :
    (p.modStrand k f).strand j = p.strand j := by
  simp [Ply.strand, Ply.modStrand, Tab.get_put, h]

@[simp] theorem Strand.fragAt_modFrag (t : Strand) (i : Nat) (f : Frag → Frag) : (t.modFrag i f).fragAt i = f (t.fragAt i) := by
  simp [Strand.fragAt, Strand.modFrag]

theorem Strand.fragAt_modFrag_ne (t : Strand) {i j : Nat} (h : j ≠ i) (f : Frag → Frag) : (t.modFrag i f).fragAt j = t.fragAt j := by
  simp [Strand.fragAt, Strand.modFrag, Tab.get_put, h]

/-! ## The issuing ply, strand and fragment -/

@[simp] theorem State.curPly_modCurPly (s : State) (f : Ply → Ply) : (s.modCurPly f).curPly = f s.curPly := by
  simp [State.curPly, State.modCurPly]

@[simp] theorem State.curPly_modCur (s : State) (f : Strand → Strand) : (s.modCur f).curPly = s.curPly.modStrand s.iss.strand f := by
  simp [State.curPly, State.modCur, State.modStrand]

@[simp] theorem State.cur_modCur (s : State) (f : Strand → Strand) : (s.modCur f).cur = f s.cur := by
  simp [State.cur]

@[simp] theorem State.curFrag_modCurFrag (s : State) (f : Frag → Frag) : (s.modCurFrag f).curFrag = f s.curFrag := by
  simp [State.curFrag, State.modCurFrag, State.modFrag, State.cur, State.curPly, State.modStrand]

@[simp] theorem State.cur_modCurFrag (s : State) (f : Frag → Frag) : (s.modCurFrag f).cur = s.cur.modFrag s.iss.frag f := by
  simp [State.modCurFrag, State.modFrag, State.cur, State.curPly, State.modStrand]

@[simp] theorem State.curPly_modCurFrag (s : State) (f : Frag → Frag) :
    (s.modCurFrag f).curPly = s.curPly.modStrand s.iss.strand (fun t => t.modFrag s.iss.frag f) := by
  simp [State.modCurFrag, State.modFrag, State.curPly, State.modStrand]

end Sys2Proof.Machine
end

