-- ==== Sys2Proof/Laws/Ops.lean ====
section
/-! SUPPORT. What the shared operations on registers, the program counter and traps do, said once each. -/
namespace Sys2Proof.Machine

/-! ## Marks -/

/-- Clearing marks touches only the marks of one ply and the injection. -/
theorem clearBad_eq (s : State) (p : Nat) (hit : Bad → Bool) :
    clearBad s p hit = s ∨ ∃ b a g, clearBad s p hit = (s.modPly p (fun y => { y with bad := b })).modPf0 (fun x => { x with arm := a, fired := g }) := by
  unfold clearBad
  dsimp only
  split
  · exact Or.inl rfl
  · refine Or.inr ⟨(s.ply p).bad.filter (fun b => !(hit b)), ?_⟩
    split
    · exact ⟨false, false, rfl⟩
    · exact ⟨s.pf0.arm, s.pf0.fired, rfl⟩

@[simp] theorem clearBad_iss (s : State) (p : Nat) (hit : Bad → Bool) : (clearBad s p hit).iss = s.iss := by
  rcases clearBad_eq s p hit with h | ⟨_, _, _, h⟩ <;> simp [h]

/-- Clearing marks leaves every strand of every ply as it is. -/
@[simp] theorem clearBad_strands (s : State) (p q : Nat) (hit : Bad → Bool) : ((clearBad s p hit).ply q).strands = (s.ply q).strands := by
  rcases clearBad_eq s p hit with h | ⟨_, _, _, h⟩
  · rw [h]
  rw [h]
  by_cases hq : q = p
  · subst hq; simp [State.ply, State.modPf0, State.modPly, State.putPly]
  · simp [State.ply, State.modPf0, State.modPly, State.putPly, Tab.get_put, hq]

@[simp] theorem clearBad_cur (s : State) (p : Nat) (hit : Bad → Bool) : (clearBad s p hit).cur = s.cur := by
  simp [State.cur, State.curPly, Ply.strand]

@[simp] theorem clearBad_curFrag (s : State) (p : Nat) (hit : Bad → Bool) : (clearBad s p hit).curFrag = s.curFrag := by
  simp [State.curFrag]

/-- Clearing a mark of the bank touches only the fragment's marks and the injection. -/
theorem clearBank_eq (s : State) (n : Nat) :
    clearBank s n = s ∨
      ∃ m a g, clearBank s n = (s.modCurFrag (fun f => { f with marks := m })).modPf0 (fun x => { x with arm := a, fired := g }) := by
  unfold clearBank
  split
  · exact Or.inl rfl
  · refine Or.inr ⟨Tab.del n s.curFrag.marks, ?_⟩
    have hm : s.modCurFrag (fun f => { f with marks := Tab.del n f.marks }) = s.modCurFrag (fun f => { f with marks := Tab.del n s.curFrag.marks }) := rfl
    dsimp only
    rw [hm]
    split
    · exact ⟨false, false, rfl⟩
    · exact ⟨s.pf0.arm, s.pf0.fired, rfl⟩

theorem State.cur_modPf0 (s : State) (f : Pf0 → Pf0) : (s.modPf0 f).cur = s.cur := rfl
theorem State.curFrag_modPf0 (s : State) (f : Pf0 → Pf0) : (s.modPf0 f).curFrag = s.curFrag := rfl

@[simp] theorem clearBank_iss (s : State) (n : Nat) : (clearBank s n).iss = s.iss := by
  rcases clearBank_eq s n with h | ⟨_, _, _, h⟩ <;> simp [h]

/-- The fragment keeps everything but its marks. -/
theorem clearBank_curFrag (s : State) (n : Nat) : ∃ m, (clearBank s n).curFrag = { s.curFrag with marks := m } := by
  rcases clearBank_eq s n with h | ⟨m, a, _, h⟩
  · exact ⟨s.curFrag.marks, by rw [h]⟩
  · exact ⟨m, by rw [h, State.curFrag_modPf0, State.curFrag_modCurFrag]⟩

theorem clearBank_cur (s : State) (n : Nat) : ∃ fr, (clearBank s n).cur = { s.cur with frags := fr } := by
  rcases clearBank_eq s n with h | ⟨m, a, _, h⟩
  · exact ⟨s.cur.frags, by rw [h]⟩
  · exact ⟨_, by rw [h, State.cur_modPf0, State.cur_modCurFrag]; rfl⟩

@[simp] theorem clearBank_trapped (s : State) (n : Nat) : (clearBank s n).cur.trapped = s.cur.trapped := by
  obtain ⟨fr, h⟩ := clearBank_cur s n
  rw [h]; rfl

/-! ## Scalar registers -/

theorem sreg_congr {s t : State} (h : t.cur = s.cur) (hi : t.iss = s.iss) (n : Nat) : sreg t n = sreg s n := by
  simp [sreg, h, State.curFrag, hi]

@[simp] theorem sreg_clearBank (s : State) (d n : Nat) : sreg (clearBank s d) n = sreg s n := by
  obtain ⟨fr, hc⟩ := clearBank_cur s d
  obtain ⟨m, hf⟩ := clearBank_curFrag s d
  have ht : (clearBank s d).cur.trapped = s.cur.trapped := clearBank_trapped s d
  simp only [sreg, ht, hf]
  rw [hc]

@[simp] theorem sreg_clearBad (s : State) (p n : Nat) (hit : Bad → Bool) : sreg (clearBad s p hit) n = sreg s n :=
  sreg_congr (by simp) (by simp) n

/-- A scalar register after a write: the value written, and every other register as it was. -/
theorem sreg_setSreg (s : State) (d n : Nat) (v : W64) : sreg (setSreg s d v) n = if n = d then v else sreg s n := by
  unfold setSreg
  dsimp only
  generalize hs : clearBad s s.iss.ply (scalarMark s.cur s.iss.strand d) = r
  have hr : ∀ n, sreg r n = sreg s n := fun n => by rw [← hs]; simp
  have hrt : r.cur.trapped = s.cur.trapped := by rw [← hs]; simp
  rw [← hr]
  by_cases hd : d < 16
  · by_cases ht : r.cur.trapped = true
    · by_cases hn : n < 16
      · simp only [sreg, hd, hn, if_true]
        simp only [Strand.trapped] at ht ⊢
        simp [ht, Tab.get_set]
      · have : n ≠ d := by omega
        simp only [sreg, hd, ht, hn, if_true, if_false, State.cur_modCur, this]
    · rw [← sreg_clearBank r d n]
      generalize hq : clearBank r d = q
      have hqt : ¬ q.cur.trapped = true := by rw [← hq]; simpa using ht
      by_cases hn : n < 16
      · have h1 : (q.cur.modFrag q.iss.frag (fun f => { f with bank := Tab.set 0 f.bank d v })).trapped = q.cur.trapped := rfl
        simp only [sreg, hd, ht, hqt, hn, if_true, if_false, Bool.false_eq_true, State.cur_modCurFrag, State.curFrag_modCurFrag, h1, Tab.get_set]
      · have : n ≠ d := by omega
        simp only [sreg, hd, ht, hn, if_true, if_false, Bool.false_eq_true, State.cur_modCurFrag, this]
        rfl
  · by_cases hn : n < 16
    · have : n ≠ d := by omega
      simp only [sreg, hd, hn, if_true, if_false, State.cur_modCur, this, State.curFrag, State.modCur_iss]
      rfl
    · simp [sreg, hd, hn, Tab.get_set]

/-! ## Vector and predicate registers -/

theorem Tab.get_foldl_set {α : Type} [DecidableEq α] (d : α) (ls : List Nat) (r : Nat) (f : Nat → α) (hlt : ∀ l ∈ ls, l < 32) :
    ∀ (t : Tab α) (q l : Nat), l < 32 →
      Tab.get d (ls.foldl (fun v l => Tab.set d v (32 * r + l) (f l)) t) (32 * q + l) =
        if q = r ∧ l ∈ ls then f l else Tab.get d t (32 * q + l) := by
  induction ls with
  | nil => intro t q l _; simp
  | cons a ls ih =>
    intro t q l hl
    have ha : a < 32 := hlt a (by simp)
    rw [List.foldl_cons, ih (fun x hx => hlt x (by simp [hx])) _ _ _ hl, Tab.get_set]
    by_cases hq : q = r
    · subst hq
      by_cases hla : l = a
      · subst hla; simp
      · simp [hla]
    · have : ¬ (32 * q + l = 32 * r + a) := by omega
      simp [hq, this]

theorem lanes_lt : ∀ l ∈ lanes, l < 32 := by decide

theorem mem_lanes {l : Nat} : l ∈ lanes ↔ l < 32 := by
  constructor
  · exact lanes_lt l
  · intro h; interval_cases l <;> decide

theorem mem_lanesOf {m : W32} {l : Nat} : l ∈ lanesOf m ↔ l < 32 ∧ inMask m l = true := by
  simp [lanesOf, mem_lanes]

/-- A lane of a vector register after a write of the lanes of a mask. -/
theorem vreg_setVecLanes (s : State) (r q l : Nat) (m : W32) (f : Nat → W64) (hl : l < 32) :
    vreg (setVecLanes s r m f) q l = if q = r ∧ inMask m l = true then f l else vreg s q l := by
  simp only [vreg, setVecLanes, State.cur_modCur, clearBad_cur]
  rw [Tab.get_foldl_set _ _ _ _ (fun l h => (mem_lanesOf.1 h).1) _ _ _ hl]
  simp [mem_lanesOf, hl]

/-- p0 reads all ones whatever is written (R58). -/
@[simp] theorem preg_zero (s : State) : preg s 0 = BitVec.allOnes 32 := rfl

@[simp] theorem setPredLanes_zero (s : State) (m v : W32) : setPredLanes s 0 m v = s := rfl

/-- A predicate register after a write of the bits of a mask. -/
theorem preg_setPredLanes (s : State) {q : Nat} (hq : q ≠ 0) (n : Nat) (m v : W32) :
    preg (setPredLanes s q m v) n = if n = q then (preg s q &&& ~~~m) ||| (v &&& m) else preg s n := by
  have key : ∀ r : State, r.cur = s.cur →
      preg (r.modCur (fun t => { t with p := Tab.set 0 t.p q ((Tab.get 0 t.p q &&& ~~~m) ||| (v &&& m)) })) n =
        if n = q then (preg s q &&& ~~~m) ||| (v &&& m) else preg s n := by
    intro r hr
    unfold preg
    by_cases hn : n = 0
    · subst hn; simp [Ne.symm hq]
    · by_cases h : n = q <;> simp [hq, hn, h, Tab.get_set, hr]
  unfold setPredLanes
  rw [if_neg hq]
  apply key
  split <;> simp

/-! ## Sources and destinations -/

/-- A source field from 0 to 217 has a value. -/
theorem readS_ok (s : State) {f : BitVec 8} (h : f.toNat < 218) :
    readS s f = .ok (if f.toNat < 192 then sreg s f.toNat else special s f.toNat) := by
  unfold readS; dsimp only; split <;> simp_all

theorem readS_bad (s : State) {f : BitVec 8} (h : 218 ≤ f.toNat) : readS s f = .error (illegalOperand 0) := by
  unfold readS
  dsimp only
  rw [if_neg (by omega), if_neg (by omega)]

end Sys2Proof.Machine
end

