-- ==== Sys2Proof/Laws/Frame.lean ====
section
/-! SUPPORT. What register writes and the end of an instruction leave unchanged. -/
namespace Sys2Proof.Machine

theorem Tab.put_put {α : Type} (k : Nat) (u v : α) (t : Tab α) : Tab.put k v (Tab.put k u t) = Tab.put k v t := by
  induction t with
  | nil => simp [Tab.put]
  | cons e t ih =>
    obtain ⟨j, w⟩ := e
    by_cases hj : j = k
    · simp [Tab.put, hj]
    · by_cases hlt : k < j
      · simp [Tab.put, hj, hlt]
      · simp [Tab.put, hj, hlt, ih]

theorem State.modPly_modPly (s : State) (i : Nat) (f g : Ply → Ply) : (s.modPly i f).modPly i g = s.modPly i (fun p => g (f p)) := by
  simp [State.modPly, State.putPly, State.ply, Tab.put_put]

theorem Ply.modStrand_modStrand (p : Ply) (k : Nat) (f g : Strand → Strand) :
    (p.modStrand k f).modStrand k g = p.modStrand k (fun t => g (f t)) := by
  simp [Ply.modStrand, Ply.strand, Tab.put_put]

/-- Two changes of the issuing strand are one. -/
theorem State.modCur_modCur (s : State) (f g : Strand → Strand) : (s.modCur f).modCur g = s.modCur (fun t => g (f t)) := by
  simp [State.modCur, State.modStrand, State.modPly_modPly, Ply.modStrand_modStrand, State.modPly_iss]

theorem State.modCurFrag_eq (s : State) (f : Frag → Frag) : s.modCurFrag f = s.modCur (fun t => t.modFrag s.iss.frag f) := rfl

/-! ## What differs -/

theorem SameButStrand.refl (s : State) : SameButStrand s s := ⟨rfl, rfl, fun _ _ => rfl, rfl, fun _ _ => rfl⟩

theorem SameButStrand.iss {s t : State} (h : SameButStrand s t) : t.iss = s.iss := by rw [h.1]

theorem SameButStrand.trans {r s t : State} (h : SameButStrand r s) (k : SameButStrand s t) : SameButStrand r t := by
  have hi := h.iss
  refine ⟨?_, ?_, ?_, ?_, ?_⟩
  · rw [k.1, h.1]
  · rw [k.2.1, h.2.1]
  · intro q hq; rw [k.2.2.1 q (by rw [hi]; exact hq), h.2.2.1 q hq]
  · rw [k.2.2.2.1, h.2.2.2.1]
  · intro q hq; rw [k.2.2.2.2 q (by rw [hi]; exact hq), h.2.2.2.2 q hq]

theorem SameButStrand.modCur (s : State) (f : Strand → Strand) : SameButStrand s (s.modCur f) := by
  refine ⟨rfl, rfl, ?_, ?_, ?_⟩
  · intro q hq; exact State.ply_modPly_ne s hq _
  · rw [State.curPly_modCur]; rfl
  · intro k hk; rw [State.curPly_modCur]; exact Ply.strand_modStrand_ne _ hk _

theorem SameButStrand.marks (s : State) (f : Ply → Ply) (g : Pf0 → Pf0) (hf : ∀ y, f y = { y with bad := (f y).bad })
    (hg : ∀ x, g x = { x with arm := (g x).arm, fired := (g x).fired }) : SameButStrand s ((s.modPly s.iss.ply f).modPf0 g) := by
  have hp : ((s.modPly s.iss.ply f).modPf0 g).curPly = f s.curPly := State.ply_modPly s s.iss.ply f
  refine ⟨rfl, hg _, fun q hq => State.ply_modPly_ne s hq f, ?_, ?_⟩
  · rw [hp, hf]
  · intro k _; rw [hp, hf]; rfl

theorem SameButStrand.clearBad (s : State) (hit : Bad → Bool) : SameButStrand s (clearBad s s.iss.ply hit) := by
  rcases clearBad_eq s s.iss.ply hit with h | ⟨b, a, _, h⟩
  · rw [h]; exact SameButStrand.refl s
  · rw [h]; exact SameButStrand.marks s _ _ (fun _ => rfl) (fun _ => rfl)

/-- Every memory byte is as before when nothing but the issuing strand differs. -/
theorem SameButStrand.memory {s t : State} (h : SameButStrand s t) : SameMemory s t := by
  have hp : ∀ q, (t.ply q).scratch = (s.ply q).scratch ∧ (t.ply q).tiles = (s.ply q).tiles := by
    intro q
    by_cases hq : q = s.iss.ply
    · subst hq
      have h4 := h.2.2.2.1
      unfold State.curPly at h4
      rw [h.iss] at h4
      rw [h4]; exact ⟨rfl, rfl⟩
    · rw [h.2.2.1 q hq]; exact ⟨rfl, rfl⟩
  refine ⟨?_, ?_, ?_, ?_, ?_⟩
  · intro a; rw [h.1]
  · intro a; rw [h.1]
  · intro a; rw [h.1]
  · intro q a; rw [(hp q).1]
  · intro q a; rw [(hp q).2]

/-! ## The end of an instruction -/

theorem settleOne_eq {t u : Strand} (h : settleOne t = some u) : u = { t with frags := u.frags, ages := u.ages } := by
  have hmod : ∀ (x : Strand) (i : Nat) (f : Frag → Frag), x.modFrag i f = { x with frags := (x.modFrag i f).frags, ages := (x.modFrag i f).ages } :=
    fun _ _ _ => rfl
  have hfill : ∀ (x : Strand) (e : Nat) (l : List Deferred) (g : Option Nat) (k : Bool),
      fillEntry x e l g k = { x with frags := (fillEntry x e l g k).frags, ages := (fillEntry x e l g k).ages } := by
    intro x e l g k
    unfold fillEntry
    dsimp only
    split <;> (try rfl)
    all_goals (split <;> rfl)
  have hfuse : ∀ (a b : Nat) (w : W32), fuse t a b w = { t with frags := (fuse t a b w).frags, ages := (fuse t a b w).ages } := by
    intro a b w; unfold fuse; dsimp only; rw [hfill]
  unfold settleOne at h
  dsimp only at h
  split at h
  · cases h; exact hmod _ _ _
  split at h
  · cases h; exact hmod _ _ _
  split at h
  · cases h; exact hmod _ _ _
  split at h
  · cases h; exact hfuse _ _ _
  split at h
  · cases h; exact hfuse _ _ _
  split at h
  · cases ho : oldestPath t with
    | none => rw [ho] at h; cases h
    | some o => rw [ho] at h; cases h; exact hmod _ _ _
  · cases h

theorem settleAll_eq (n : Nat) : ∀ t, settleAll t n = { t with frags := (settleAll t n).frags, ages := (settleAll t n).ages } := by
  induction n with
  | zero => intro t; rfl
  | succ n ih =>
    intro t
    simp only [settleAll]
    split
    · next u hu => rw [ih u, settleOne_eq hu]
    · rfl

/-- Settling a strand touches its split table only. -/
theorem Strand.settle_eq (t : Strand) : t.settle = { t with frags := t.settle.frags, ages := t.settle.ages } := by
  unfold Strand.settle
  split
  · rfl
  · unfold pruneHelpers; rw [settleAll_eq]

theorem State.modCur_congr (s : State) {f g : Strand → Strand} (h : f s.cur = g s.cur) : s.modCur f = s.modCur g := by
  have key : s.curPly.modStrand s.iss.strand f = s.curPly.modStrand s.iss.strand g := by
    show { s.curPly with strands := Tab.put s.iss.strand (f s.cur) s.curPly.strands } = _
    rw [h]; rfl
  show s.putPly s.iss.ply (s.curPly.modStrand s.iss.strand f) = _
  rw [key]; rfl

/-- A change of the split table alone. -/
theorem State.modCur_split (s : State) {f : Strand → Strand} (h : ∀ t, f t = { t with frags := (f t).frags, ages := (f t).ages }) :
    ∃ fr ag, s.modCur f = s.modCur (fun t => { t with frags := fr, ages := ag }) :=
  ⟨(f s.cur).frags, (f s.cur).ages, State.modCur_congr s (h s.cur)⟩

/-- Going on at an index changes nothing but the split table of the issuing strand. -/
theorem goTo_eq (s : State) (w : W32) : ∃ fr ag, goTo s w = s.modCur (fun t => { t with frags := fr, ages := ag }) := by
  unfold goTo settle
  split
  · rw [State.modCurFrag_eq, State.modCur_modCur]
    exact State.modCur_split s (fun t => Strand.settle_eq _)
  · exact State.modCur_split s (fun t => rfl)

theorem advance_eq (s : State) : ∃ fr ag, advance s = s.modCur (fun t => { t with frags := fr, ages := ag }) := by
  unfold advance
  split
  · split
    · exact State.modCur_split s (fun t => rfl)
    · exact goTo_eq _ _
  · exact goTo_eq _ _

/-- A change of the issuing strand keeps its other parts. -/
theorem advance_cur (s : State) : ∃ fr ag, advance s = s.modCur (fun t => { t with frags := fr, ages := ag }) ∧
    (advance s).cur = { s.cur with frags := fr, ages := ag } := by
  obtain ⟨fr, ag, h⟩ := advance_eq s
  exact ⟨fr, ag, h, by rw [h, State.cur_modCur]⟩

theorem SameButStrand.advance (s : State) : SameButStrand s (advance s) := by
  obtain ⟨fr, ag, h⟩ := advance_eq s
  rw [h]; exact SameButStrand.modCur s _

@[simp] theorem advance_iss (s : State) : (advance s).iss = s.iss := (SameButStrand.advance s).iss

@[simp] theorem vreg_advance (s : State) (r l : Nat) : vreg (advance s) r l = vreg s r l := by
  obtain ⟨fr, ag, _, h⟩ := advance_cur s
  simp [vreg, h]

@[simp] theorem preg_advance (s : State) (q : Nat) : preg (advance s) q = preg s q := by
  obtain ⟨fr, ag, _, h⟩ := advance_cur s
  simp [preg, h]

@[simp] theorem fpst_advance (s : State) : (advance s).cur.fpst = s.cur.fpst := by
  obtain ⟨fr, ag, _, h⟩ := advance_cur s
  simp [h]

/-- The shared scalars are not touched by the end of an instruction. -/
theorem sreg_advance_shared (s : State) (n : Nat) (hn : 16 ≤ n) : sreg (advance s) n = sreg s n := by
  obtain ⟨fr, ag, _, h⟩ := advance_cur s
  simp [sreg, h, Nat.not_lt.2 hn]

/-! ## A fragment alone in its strand -/

theorem settleOne_alone {t : Strand} {i : Nat} {f : Frag} (h : t.frags = [(i, f)]) (hs : f.stack = []) (hh : f.held = [])
    (hj : f.join = none) (hp : f.parent = none) : settleOne t = none := by
  simp [settleOne, h, hs, hh, hj, hp, oldestPath]

theorem settle_alone {t : Strand} {i : Nat} {f : Frag} (h : t.frags = [(i, f)]) (hs : f.stack = []) (hh : f.held = [])
    (hj : f.join = none) (hp : f.parent = none) :
    t.settle = t ∨ t.settle = { t with frags := [(i, { f with helper := f.helper &&& quadsOf f.mask &&& ~~~f.mask })] } := by
  unfold Strand.settle
  split
  · exact Or.inl rfl
  · right
    have : settleAll t 64 = t := by
      show (match settleOne t with
        | some u => settleAll u 63
        | none => t) = t
      rw [settleOne_alone h hs hh hj hp]
    rw [this]
    unfold pruneHelpers
    rw [h]; rfl

/-- The fragment itself after going on alone: its bank is its own, and it stands at the index. -/
theorem goTo_alone (s : State) (w : W32) (h : s.cur.frags = [(s.iss.frag, s.curFrag)]) (hs : s.curFrag.stack = [])
    (hh : s.curFrag.held = []) (hj : s.curFrag.join = none) (hp : s.curFrag.parent = none) :
    (goTo s w).curFrag.bank = s.curFrag.bank ∧ (goTo s w).curFrag.pc = w := by
  have hfr : ∀ f : Frag → Frag, (s.cur.modFrag s.iss.frag f).frags = [(s.iss.frag, f s.curFrag)] := by
    intro f; simp [Strand.modFrag, h, Tab.put, Strand.fragAt, Tab.get, Tab.find]
  unfold goTo settle
  split
  · rw [State.modCurFrag_eq, State.modCur_modCur]
    simp only [State.curFrag, State.cur_modCur, State.modCur_iss]
    rcases settle_alone (hfr (fun f => { (freshFrag f) with pc := w })) hs hh hj hp with e | e
    · rw [e]; simp [Strand.fragAt_modFrag, freshFrag]
    · rw [e]; simp [Strand.fragAt, Tab.get, Tab.find, freshFrag]; rfl
  · rw [State.curFrag_modCurFrag]; exact ⟨rfl, rfl⟩

/-- Alone in its strand, a fragment keeps its scalars when it goes on. -/
theorem sreg_advance_alone (s : State) (h : Alone s) (n : Nat) : sreg (advance s) n = sreg s n := by
  by_cases hn : 16 ≤ n
  · exact sreg_advance_shared s n hn
  · have hlt : n < 16 := by omega
    obtain ⟨fr, ag, _, hc⟩ := advance_cur s
    have ht : (advance s).cur.trapped = s.cur.trapped := by rw [hc]; rfl
    rcases h.2 with htr | ⟨h1, h2, h3, h4, h5⟩
    · simp only [sreg, hlt, if_true, ht, htr]; rw [hc]
    · have hb : (advance s).curFrag.bank = s.curFrag.bank := by
        unfold advance
        split
        · split
          · rw [State.curFrag_modCurFrag]
          · exact (goTo_alone s _ h1 h2 h3 h4 h5).1
        · exact (goTo_alone s _ h1 h2 h3 h4 h5).1
      have htb : (advance s).cur.trapBank = s.cur.trapBank := by rw [hc]
      simp only [sreg, hlt, if_true, ht, htb, hb]

/-- Being alone is not lost by a write of registers. -/
theorem Alone.modCur {s : State} (h : Alone s) {f : Strand → Strand} (hf : (f s.cur).frags = s.cur.frags) (ht : (f s.cur).trap = s.cur.trap) :
    Alone (s.modCur f) := by
  have hF : (s.modCur f).curFrag = s.curFrag := by simp [State.curFrag, Strand.fragAt, hf]
  refine ⟨?_, ?_⟩
  · show Tab.has (Tab.put _ _ _) _ = true
    simp
  · rw [hF, State.cur_modCur, State.modCur_iss, hf]
    have : (f s.cur).trapped = s.cur.trapped := by simp [Strand.trapped, ht]
    rw [this]; exact h.2

theorem livePly_modPly (s : State) (i j : Nat) (f : Ply → Ply) (h : s.livePly j = true) : (s.modPly i f).livePly j = true :=
  Tab.has_put_of_has h _

theorem Alone.clearBad {s : State} (h : Alone s) (hit : Bad → Bool) : Alone (clearBad s s.iss.ply hit) := by
  refine ⟨?_, by simpa using h.2⟩
  rcases clearBad_eq s s.iss.ply hit with e | ⟨b, a, _, e⟩
  · rw [e]; exact h.1
  · rw [e]
    show Tab.has (Tab.put _ _ s.plies) s.iss.ply = true
    exact Tab.has_put_of_has h.1 _

theorem Alone.modCurFrag {s : State} (h : Alone s) {f : Frag → Frag} (h1 : (f s.curFrag).stack = s.curFrag.stack)
    (h2 : (f s.curFrag).held = s.curFrag.held) (h3 : (f s.curFrag).join = s.curFrag.join) (h4 : (f s.curFrag).parent = s.curFrag.parent) :
    Alone (s.modCurFrag f) := by
  refine ⟨livePly_modPly _ _ _ _ h.1, ?_⟩
  rw [State.curFrag_modCurFrag, State.cur_modCurFrag, State.modCurFrag_iss]
  rcases h.2 with h | ⟨e, a, b, c, d⟩
  · exact Or.inl h
  · refine Or.inr ⟨?_, by rw [h1, a], by rw [h2, b], by rw [h3, c], by rw [h4, d]⟩
    simp [Strand.modFrag, e, Tab.put, Strand.fragAt, Tab.get, Tab.find]

theorem Alone.clearBank {s : State} (h : Alone s) (n : Nat) : Alone (clearBank s n) := by
  rcases clearBank_eq s n with e | ⟨m, a, _, e⟩
  · rw [e]; exact h
  · rw [e]; exact h.modCurFrag rfl rfl rfl rfl

theorem Alone.setSreg {s : State} (h : Alone s) (n : Nat) (v : W64) : Alone (setSreg s n v) := by
  have hc := h.clearBad (scalarMark s.cur s.iss.strand n)
  unfold Machine.setSreg
  dsimp only
  split
  · split
    · exact hc.modCur rfl rfl
    · exact (hc.clearBank n).modCurFrag rfl rfl rfl rfl
  · exact hc.modCur rfl rfl

theorem SameButStrand.modCurFrag (s : State) (f : Frag → Frag) : SameButStrand s (s.modCurFrag f) := SameButStrand.modCur s _

theorem SameButStrand.modPf0 (s : State) (f : Pf0 → Pf0) (h : ∀ x, f x = { x with arm := (f x).arm, fired := (f x).fired }) : SameButStrand s (s.modPf0 f) :=
  ⟨rfl, h _, fun _ _ => rfl, rfl, fun _ _ => rfl⟩

theorem SameButStrand.clearBank (s : State) (n : Nat) : SameButStrand s (clearBank s n) := by
  rcases clearBank_eq s n with e | ⟨m, a, _, e⟩
  · rw [e]; exact SameButStrand.refl s
  · rw [e]; exact (SameButStrand.modCurFrag s _).trans (SameButStrand.modPf0 _ _ (fun _ => rfl))

theorem SameButStrand.setSreg (s : State) (n : Nat) (v : W64) : SameButStrand s (setSreg s n v) := by
  have hc := SameButStrand.clearBad s (scalarMark s.cur s.iss.strand n)
  unfold Machine.setSreg
  dsimp only
  refine hc.trans ?_
  split
  · split
    · exact SameButStrand.modCur _ _
    · exact (SameButStrand.clearBank _ n).trans (SameButStrand.modCurFrag _ _)
  · exact SameButStrand.modCur _ _

theorem SameButStrand.setVecLanes (s : State) (r : Nat) (m : W32) (f : Nat → W64) : SameButStrand s (setVecLanes s r m f) :=
  (SameButStrand.clearBad s _).trans (SameButStrand.modCur _ _)

theorem SameButStrand.setPredLanes (s : State) (q : Nat) (m v : W32) : SameButStrand s (setPredLanes s q m v) := by
  unfold Machine.setPredLanes
  split
  · exact SameButStrand.refl s
  · split
    · exact (SameButStrand.clearBad s _).trans (SameButStrand.modCur _ _)
    · exact SameButStrand.modCur _ _

theorem SameButStrand.raise (s : State) (fl : Flags) : SameButStrand s (raise s fl) := SameButStrand.modCur _ _

/-- What a scalar write leaves of the strand. -/
theorem setSreg_cur (s : State) (n : Nat) (v : W64) :
    (setSreg s n v).cur = { s.cur with s := (setSreg s n v).cur.s, frags := (setSreg s n v).cur.frags, trapBank := (setSreg s n v).cur.trapBank } := by
  unfold setSreg
  dsimp only
  split
  · split
    · simp
    · obtain ⟨fr, h⟩ := clearBank_cur (clearBad s s.iss.ply (scalarMark s.cur s.iss.strand n)) n
      rw [State.cur_modCurFrag, h]; simp [Strand.modFrag]
  · simp

theorem setVecLanes_cur (s : State) (r : Nat) (m : W32) (f : Nat → W64) :
    (setVecLanes s r m f).cur = { s.cur with v := (setVecLanes s r m f).cur.v } := by
  simp [setVecLanes]

theorem setPredLanes_cur (s : State) (q : Nat) (m v : W32) : (setPredLanes s q m v).cur = { s.cur with p := (setPredLanes s q m v).cur.p } := by
  unfold setPredLanes
  split
  · rfl
  · split <;> simp

theorem raise_cur (s : State) (fl : Flags) : (raise s fl).cur = { s.cur with fpst := s.cur.fpst ||| fl } := by
  simp [raise]

/-! ## Registers kept, up to the end of the instruction -/

/-- What holds of a state before the instruction ends holds after it. -/
theorem RegistersKept.advance {w : Writes} {s u : State} (h : RegistersKept w s u) (ha : Alone s → Alone u) :
    RegistersKept w s (advance u) := by
  obtain ⟨h1, _, h3, h4, h5, h6, h7, h8⟩ := h
  have hb : SameButStrand s (Machine.advance u) := h1.trans (SameButStrand.advance u)
  obtain ⟨fr, ag, _, hc⟩ := advance_cur u
  refine ⟨hb, hb.memory, ?_, ?_, ?_, ?_, ?_, ?_⟩
  · rw [hc, h3]
  · intro n a b c; rw [sreg_advance_shared u n a, h4 n a b c]
  · intro al n a b; rw [sreg_advance_alone u (ha al), h5 al n a b]
  · intro r l a b; rw [vreg_advance, h6 r l a b]
  · intro q a; rw [preg_advance, h7 q a]
  · intro a; rw [fpst_advance, h8 a]

theorem RegistersKept.refl (w : Writes) (s : State) : RegistersKept w s s :=
  ⟨SameButStrand.refl s, (SameButStrand.refl s).memory, rfl, fun _ _ _ _ => rfl, fun _ _ _ _ => rfl, fun _ _ _ _ => rfl, fun _ _ => rfl, fun _ => rfl⟩

/-- A scalar write keeps every other register. -/
theorem RegistersKept.setSreg (w : Writes) (s : State) (d : Nat) (v : W64) (hw : w.scalar d = true) :
    RegistersKept w s (setSreg s d v) := by
  have hne : ∀ n, w.scalar n = false → n ≠ d := fun n h e => by rw [e, hw] at h; cases h
  have hc := setSreg_cur s d v
  refine ⟨SameButStrand.setSreg s d v, (SameButStrand.setSreg s d v).memory, ?_, ?_, ?_, ?_, ?_, ?_⟩
  · rw [hc]
  · intro n _ _ h; rw [sreg_setSreg, if_neg (hne n h)]
  · intro _ n _ h; rw [sreg_setSreg, if_neg (hne n h)]
  · intro r l _ _; simp only [vreg]; rw [hc]
  · intro q _; simp only [preg]; rw [hc]
  · intro _; rw [hc]

/-- A vector write keeps every other register. -/
theorem RegistersKept.setVecLanes (w : Writes) (s : State) (r : Nat) (m : W32) (f : Nat → W64) (hw : w.vector r = true) :
    RegistersKept w s (setVecLanes s r m f) := by
  have hne : ∀ n, w.vector n = false → n ≠ r := fun n h e => by rw [e, hw] at h; cases h
  have hc := setVecLanes_cur s r m f
  have hs : ∀ n, sreg (Machine.setVecLanes s r m f) n = sreg s n := by
    intro n
    have hi := (SameButStrand.setVecLanes s r m f).iss
    simp only [sreg, State.curFrag, Strand.fragAt, hi]; rw [hc]; rfl
  refine ⟨SameButStrand.setVecLanes s r m f, (SameButStrand.setVecLanes s r m f).memory, ?_, ?_, ?_, ?_, ?_, ?_⟩
  · rw [hc]
  · intro n _ _ _; exact hs n
  · intro _ n _ _; exact hs n
  · intro q l hl h; rw [vreg_setVecLanes s r q l m f hl, if_neg (fun c => hne q h c.1)]
  · intro q _; simp only [preg]; rw [hc]
  · intro _; rw [hc]

/-- Raising flags keeps every other register. -/
theorem RegistersKept.raise (w : Writes) (s : State) (fl : Flags) (hw : w.flags = true) : RegistersKept w s (raise s fl) := by
  have hc := raise_cur s fl
  have hi := (SameButStrand.raise s fl).iss
  have hs : ∀ n, sreg (Machine.raise s fl) n = sreg s n := by
    intro n; simp only [sreg, State.curFrag, Strand.fragAt, hi]; rw [hc]; rfl
  refine ⟨SameButStrand.raise s fl, (SameButStrand.raise s fl).memory, ?_, ?_, ?_, ?_, ?_, ?_⟩
  · rw [hc]
  · intro n _ _ _; exact hs n
  · intro _ n _ _; exact hs n
  · intro r l _ _; simp only [vreg]; rw [hc]
  · intro q _; simp only [preg]; rw [hc]
  · intro h; rw [hw] at h; cases h

theorem RegistersKept.trans {w : Writes} {r s t : State} (h : RegistersKept w r s) (k : RegistersKept w s t) (ha : Alone r → Alone s) :
    RegistersKept w r t := by
  obtain ⟨h1, _, h3, h4, h5, h6, h7, h8⟩ := h
  obtain ⟨k1, _, k3, k4, k5, k6, k7, k8⟩ := k
  refine ⟨h1.trans k1, (h1.trans k1).memory, ?_, ?_, ?_, ?_, ?_, ?_⟩
  · rw [k3, h3]
  · intro n a b c; rw [k4 n a b c, h4 n a b c]
  · intro al n a b; rw [k5 (ha al) n a b, h5 al n a b]
  · intro r l a b; rw [k6 r l a b, h6 r l a b]
  · intro q a; rw [k7 q a, h7 q a]
  · intro a; rw [k8 a, h8 a]

theorem Alone.setVecLanes {s : State} (h : Alone s) (r : Nat) (m : W32) (f : Nat → W64) : Alone (setVecLanes s r m f) :=
  (h.clearBad _).modCur rfl rfl

theorem Alone.raise {s : State} (h : Alone s) (fl : Flags) : Alone (raise s fl) := h.modCur rfl rfl

end Sys2Proof.Machine
end

