-- ==== Sys2Proof/Laws/Lanes.lean ====
section
/-! SUPPORT. Packed elements and the flags that lanes raise. -/
namespace Sys2Proof.Machine

theorem upFrom_eq (n : Nat) : ∀ lo, upFrom lo n = (List.range n).map (fun i => lo + i) := by
  induction n with
  | zero => intro lo; rfl
  | succ n ih =>
    intro lo
    rw [List.range_succ_eq_map, List.map_cons, List.map_map]
    simp only [upFrom, ih, Nat.add_zero, List.cons.injEq, true_and]
    apply List.map_congr_left
    intro i _
    simp only [Function.comp_apply]; omega

theorem packElems_lt {n : Nat} (es : List (BitVec n)) : packElems es < 2 ^ (n * es.length) := by
  induction es with
  | nil => simp [packElems]
  | cons e es ih =>
    have he := e.isLt
    rw [packElems, List.length_cons, Nat.mul_succ, Nat.add_comm (n * es.length), Nat.pow_add]
    calc e.toNat + 2 ^ n * packElems es < 2 ^ n + 2 ^ n * packElems es := by omega
      _ = 2 ^ n * (packElems es + 1) := by ring
      _ ≤ 2 ^ n * 2 ^ (n * es.length) := Nat.mul_le_mul_left _ ih

theorem packElems_digit {n : Nat} (es : List (BitVec n)) : ∀ k (h : k < es.length),
    packElems es / 2 ^ (n * k) % 2 ^ n = es[k].toNat := by
  induction es with
  | nil => intro k h; simp at h
  | cons e es ih =>
    intro k h
    cases k with
    | zero =>
      simp only [Nat.mul_zero, Nat.pow_zero, Nat.div_one, packElems, List.getElem_cons_zero]
      rw [Nat.add_mul_mod_self_left, Nat.mod_eq_of_lt e.isLt]
    | succ k =>
      have hk : k < es.length := by simpa using h
      rw [List.getElem_cons_succ, ← ih k hk, packElems, Nat.mul_succ, Nat.add_comm (n * k), Nat.pow_add, ← Nat.div_div_eq_div_mul]
      rw [Nat.add_mul_div_left _ _ (by positivity), Nat.div_eq_of_lt e.isLt, Nat.zero_add]

/-- Element k of packed elements is the k-th of them. -/
theorem elem_packElems {n : Nat} (es : List (BitVec n)) (hlen : n * es.length ≤ 64) (k : Nat) (h : k < es.length) :
    elem n (w64 (packElems es)) k = es[k] := by
  apply BitVec.eq_of_toNat_eq
  have hlt : packElems es < 2 ^ 64 := Nat.lt_of_lt_of_le (packElems_lt es) (Nat.pow_le_pow_right (by omega) hlen)
  simp only [elem, BitVec.extractLsb'_toNat, w64, BitVec.toNat_ofNat, Nat.mod_eq_of_lt hlt, Nat.shiftRight_eq_div_pow]
  exact packElems_digit es k h

/-- Element k of a lane computed element by element. -/
theorem elem_perElem (n c : Nat) (f : Nat → Nat × Flags) (h : n * c ≤ 64) (k : Nat) (hk : k < c) :
    elem n (perElem n c f).1 k = BitVec.ofNat n (f k).1 := by
  unfold perElem
  dsimp only
  rw [elem_packElems _ (by simpa [upFrom_eq] using h) k (by simpa [upFrom_eq] using hk)]
  simp [upFrom_eq]

theorem getLsbD_foldl_or {α : Type} (g : α → Flags) (b : Nat) (ls : List α) : ∀ a : Flags,
    ((ls.foldl (fun a e => a ||| g e) a).getLsbD b = true ↔ (a.getLsbD b = true ∨ ∃ e ∈ ls, (g e).getLsbD b = true)) := by
  induction ls with
  | nil => intro a; simp
  | cons x xs ih =>
    intro a
    rw [List.foldl_cons, ih]
    simp only [BitVec.getLsbD_or, Bool.or_eq_true, List.mem_cons, exists_eq_or_imp, or_assoc]

/-- The flags of a lane computed element by element. -/
theorem flags_perElem (n c : Nat) (f : Nat → Nat × Flags) (b : Nat) :
    (perElem n c f).2.getLsbD b = true ↔ ∃ k, k < c ∧ (f k).2.getLsbD b = true := by
  unfold perElem
  dsimp only
  rw [getLsbD_foldl_or (fun e : Nat × Flags => e.2)]
  simp [upFrom_eq]

/-- The flags that the lanes of a mask raise. -/
theorem flags_lanesFlags (m : W32) (f : Nat → LaneRes) (b : Nat) :
    (lanesFlags m f).getLsbD b = true ↔ ∃ l, l < 32 ∧ inMask m l = true ∧ (f l).2.getLsbD b = true := by
  unfold lanesFlags
  rw [getLsbD_foldl_or (fun l => (f l).2)]
  simp [mem_lanesOf, and_assoc]

/-- A lane of 64-bit elements is its one element. -/
@[simp] theorem elem_64 (w : W64) : elem 64 w 0 = w := by
  simp [elem]

/-- What a vector result leaves: the lanes, and the flags. -/
theorem vreg_vecResult (s : State) (g d r l : Nat) (f : Nat → LaneRes) (hl : l < 32) :
    vreg (vecResult s g d f) r l = if r = d ∧ inMask (enabledLanes s g) l = true then (f l).1 else vreg s r l := by
  unfold vecResult
  rw [show vreg (raise (setVecLanes s d (enabledLanes s g) (fun l => (f l).1)) (lanesFlags (activeLanes s g) f)) r l =
    vreg (setVecLanes s d (enabledLanes s g) (fun l => (f l).1)) r l from by simp only [vreg]; rw [raise_cur]]
  exact vreg_setVecLanes s d r l _ _ hl

theorem fpst_vecResult (s : State) (g d : Nat) (f : Nat → LaneRes) :
    (vecResult s g d f).cur.fpst = s.cur.fpst ||| lanesFlags (activeLanes s g) f := by
  unfold vecResult
  rw [raise_cur, setVecLanes_cur]

/-- A vector result keeps every register but its destination and the flags. -/
theorem RegistersKept.vecResult (s : State) (g d : Nat) (f : Nat → LaneRes) :
    RegistersKept { vector := fun r => r == d, flags := true } s (vecResult s g d f) :=
  (RegistersKept.setVecLanes _ s d _ _ (by simp)).trans (RegistersKept.raise _ _ _ rfl) (fun h => h.setVecLanes _ _ _)

theorem Alone.vecResult {s : State} (h : Alone s) (g d : Nat) (f : Nat → LaneRes) : Alone (vecResult s g d f) :=
  (h.setVecLanes _ _ _).raise _

/-- A vector operation runs when its registers lie in the allotment; otherwise it stops with the trap of R23. -/
theorem vecOp_ok (s : State) (g d : Nat) (rs : List Nat) (f : Nat → LaneRes) (h : ∀ r ∈ d :: rs, r < 8 * s.cur.blocks) :
    vecOp s g d rs f = .ok (vecResult s g d f) := by
  have : (d :: rs).all (vecIn s) = true := by
    simp only [List.all_eq_true, vecIn, decide_eq_true_eq]; exact h
  unfold vecOp needVecs need
  rw [this]; rfl

theorem vecOp_bad (s : State) (g d : Nat) (rs : List Nat) (f : Nat → LaneRes) (h : ∃ r ∈ d :: rs, 8 * s.cur.blocks ≤ r) :
    vecOp s g d rs f = .error (allotment 0) := by
  have : (d :: rs).all (vecIn s) = false := by
    obtain ⟨r, hr, hb⟩ := h
    rw [List.all_eq_false]
    exact ⟨r, hr, by simp [vecIn, hb]⟩
  unfold vecOp needVecs need
  rw [this]; rfl

theorem vecOp64_ok (s : State) (g d : Nat) (rs : List Nat) (f : Nat → LaneRes) (h : ∀ r ∈ d :: rs, r < 8 * s.cur.blocks)
    (hr : (s.core s.curCore).resFp = false) : vecOp64 s g d rs f = .ok (vecResult s g d f) := by
  have : (d :: rs).all (vecIn s) = true := by
    simp only [List.all_eq_true, vecIn, decide_eq_true_eq]; exact h
  unfold vecOp64 needVecs need residueFp
  rw [this, hr]
  by_cases hm : enabledLanes s g = 0
  · rw [if_pos hm]; rfl
  · rw [if_neg hm]; rfl

/-! ## A vector form as its table gives it -/

theorem vector_done {s : State} {g d n : Nat} {rs : List Nat} {fp : Bool} {v : Nat → Nat → Nat × Flags} {lf : Nat → LaneRes} {e : Eff}
    (he : e = .ok (vecResult s g d lf))
    (hv : ∀ l, l < 32 → ∀ k, k < 64 / n → elem n (lf l).1 k = BitVec.ofNat n (v l k).1)
    (hf : ∀ l, l < 32 → ∀ b, b < 6 → ((lf l).2.getLsbD b = true ↔ ∃ k, k < 64 / n ∧ (v l k).2.getLsbD b = true)) :
    ∃ t, run s e = .next (advance t) ∧ VectorForm.done ⟨d, g, rs, n, fp, v⟩ s t := by
  refine ⟨vecResult s g d lf, by rw [he]; rfl, ?_, ?_, ?_⟩
  · intro l hl hm k hk
    rw [vreg_vecResult s g d d l lf hl, if_pos ⟨rfl, hm⟩]
    exact hv l hl k hk
  · intro r l hl h
    rw [vreg_vecResult s g d r l lf hl, if_neg]
    rintro ⟨a, b⟩
    rcases h with h | h
    · exact h a
    · rw [h] at b; cases b
  · intro b hb
    rw [fpst_vecResult, BitVec.getLsbD_or, Bool.or_eq_true, flags_lanesFlags]
    apply or_congr_right
    constructor
    · rintro ⟨l, hl, hm, h⟩
      obtain ⟨k, hk, h⟩ := (hf l hl b hb).1 h
      exact ⟨l, k, hl, hm, hk, h⟩
    · rintro ⟨l, k, hl, hm, hk, h⟩
      exact ⟨l, hl, hm, (hf l hl b hb).2 ⟨k, hk, h⟩⟩

theorem elements_done {s : State} {g d n : Nat} {rs : List Nat} {fp : Bool} {v : Nat → Nat → Nat × Flags} {e : Eff} {lf : Nat → LaneRes}
    (hn : n * (64 / n) ≤ 64) (he : e = .ok (vecResult s g d lf)) (hlf : ∀ l, lf l = perElem n (64 / n) (v l)) :
    ∃ t, run s e = .next (advance t) ∧ VectorForm.done ⟨d, g, rs, n, fp, v⟩ s t := by
  refine vector_done he (fun l _ k hk => ?_) (fun l _ b _ => ?_)
  · rw [hlf]; exact elem_perElem n _ _ hn k hk
  · rw [hlf]; exact flags_perElem n _ _ b


theorem ofNat_toNat_self {n : Nat} (x : BitVec n) : BitVec.ofNat n x.toNat = x := by simp

/-- integer elements -/
theorem integers_done {s : State} {g d a b n : Nat} {rs : List Nat} {fp : Bool} {op : BitVec n → BitVec n → BitVec n} {f : Nat → Nat → Nat}
    (hn : n * (64 / n) ≤ 64) (ha : ∀ r ∈ [d, a, b], r < 8 * s.cur.blocks) (hop : ∀ x y : BitVec n, BitVec.ofNat n (f x.toNat y.toNat) = op x y) :
    ∃ t, run s (vf2 s g d a b n (plain2 f)) = .next (advance t) ∧ VectorForm.done ⟨d, g, rs, n, fp, bitsOf2 n op s a b⟩ s t := by
  refine vector_done (lf := fun l => el2 n (plain2 f) (vreg s a l) (vreg s b l)) (vecOp_ok s g d [a, b] _ ha) (fun l _ k hk => ?_) (fun l _ bb _ => ?_)
  · rw [el2, elem_perElem n _ _ hn k hk]
    simp only [plain2, bitsOf2, hop, ofNat_toNat_self]
  · rw [el2, flags_perElem]; simp [plain2, bitsOf2]

theorem ofNat_addOp {n : Nat} (x y : BitVec n) : BitVec.ofNat n (addOp n x.toNat y.toNat) = x + y := by
  apply BitVec.eq_of_toNat_eq; simp [addOp, BitVec.toNat_add]
theorem ofNat_subOp {n : Nat} (x y : BitVec n) : BitVec.ofNat n (subOp n x.toNat y.toNat) = x - y := by
  apply BitVec.eq_of_toNat_eq; simp [subOp, BitVec.toNat_sub]; ring_nf
theorem ofNat_mulOp {n : Nat} (x y : BitVec n) : BitVec.ofNat n (mulOp n x.toNat y.toNat) = x * y := by
  apply BitVec.eq_of_toNat_eq; simp [mulOp, BitVec.toNat_mul]
theorem ofNat_negInt {n : Nat} (x : BitVec n) : BitVec.ofNat n (negInt n x.toNat) = -x := by
  apply BitVec.eq_of_toNat_eq; simp [negInt, BitVec.toNat_neg]
theorem ofNat_iAbs {n : Nat} (x : BitVec n) : BitVec.ofNat n (iAbs n x.toNat) = if x.toInt < 0 then -x else x := by
  simp only [iAbs, intVal_signed]
  split
  · rw [ofNat_intBits]; apply BitVec.eq_of_toInt_eq; simp [BitVec.toInt_neg]
  · simp


theorem iClamp_eq_clamp32 (sg : Bool) (v : Int) : iClamp sg 32 v = clamp32 sg v := by
  have h1 : intMin true 32 = -(2 ^ 31) := by decide
  have h2 : intMax true 32 = 2 ^ 31 - 1 := by decide
  have h3 : intMin false 32 = 0 := by decide
  have h4 : intMax false 32 = 2 ^ 32 - 1 := by decide
  cases sg
  · simp only [iClamp, cvtII, if_true, h3, h4, clamp32, Bool.false_eq_true, if_false, intBits]
  · simp only [iClamp, cvtII, if_true, h1, h2, clamp32, intBits]

theorem dotLane_eq (w m : Nat) (hm : 32 / w = m) (st u v : Bool) (s : State) (a b d l : Nat) :
    dotLane w st u v (vreg s a l) (vreg s b l) (vreg s d l) = perElem 32 2 (dotOf w m st u v s a b d l) := by
  unfold dotLane
  dsimp only
  apply congrArg
  funext k
  subst hm
  have hs : (upFrom 0 (32 / w)).foldl (fun (t : Int) j => t + subVal v w (vreg s a l) (32 / w * k + j) * subVal u w (vreg s b l) (32 / w * k + j)) 0 =
    ((List.range (32 / w)).map (fun j => (if v = true then (elem w (vreg s a l) (32 / w * k + j)).toInt else ((elem w (vreg s a l) (32 / w * k + j)).toNat : Int)) * (if u = true then (elem w (vreg s b l) (32 / w * k + j)).toInt else ((elem w (vreg s b l) (32 / w * k + j)).toNat : Int)))).sum := by
    have hsub : ∀ (sg : Bool) (x : W64) (j : Nat), subVal sg w x j = if sg = true then (elem w x j).toInt else ((elem w x j).toNat : Int) := by
      intro sg x j; cases sg <;> simp [subVal]
    simp only [hsub]
    rw [List.sum_eq_foldl, List.foldl_map]
    rw [upFrom_eq]; simp
  dsimp only [dotOf]
  rw [hs]
  cases st
  · simp only [Bool.false_eq_true, if_false, iWrap, intVal_signed, intBits]
  · simp only [if_true, iClamp_eq_clamp32, intVal_signed]

end Sys2Proof.Machine
end

