-- ==== Sys2Proof/Laws/Scalar.lean ====
section
/-! SUPPORT. Scalar instructions: sources, destinations and the functions of the tables. -/
namespace Sys2Proof.Machine

theorem writeS_dest (s : State) (d : BitVec 8) (v : W64) (h : isDest d) : writeS s d v = .ok (destOf s d v) := by
  unfold writeS destOf isDest at *
  dsimp only
  by_cases h1 : d.toNat < 192
  · simp [h1]
  · by_cases h2 : d.toNat = 192
    · simp [h2]
    · have h3 : d.toNat = 208 := by omega
      simp [h3]

theorem readS_source (s : State) (a : BitVec 8) (h : isSource a) : readS s a = .ok (sourceOf s a) := by
  rw [readS_ok s h]; rfl

theorem run_ok (s t : State) : run s (.ok t) = .next (advance t) := rfl

theorem srOp_ok (s : State) (d a : BitVec 8) (b : BitVec 6) (f : W64 → W64 → W64) (ha : isSource a) (hd : isDest d) :
    srOp s d a b f = .ok (destOf s d (f (sourceOf s a) (sreg s b.toNat))) := by
  unfold srOp
  simp only [readS_source s a ha, writeS_dest s d _ hd, bind, Except.bind, readSb6]

theorem srUn_ok (s : State) (d a : BitVec 8) (f : W64 → W64) (ha : isSource a) (hd : isDest d) :
    srUn s d a f = .ok (destOf s d (f (sourceOf s a))) := by
  unfold srUn
  simp only [readS_source s a ha, writeS_dest s d _ hd, bind, Except.bind]


theorem bits_0_6 (y : W64) : bits y 0 6 = y.toNat % 64 := by simp [bits]


theorem popCount_eq_countP (a : W64) : popCount a = (List.range 64).countP (fun k => a.getLsbD k) := by
  have h : ∀ (l : List Nat) (c : Nat), l.foldl (fun c i => c + b2n (a.getLsbD i)) c = c + l.countP (fun k => a.getLsbD k) := by
    intro l; induction l with
    | nil => simp
    | cons x xs ih => intro c; rw [List.foldl_cons, ih, List.countP_cons]; cases a.getLsbD x <;> simp [b2n] ; omega
  have := h (upFrom 0 64) 0
  rw [Nat.zero_add] at this
  exact this

theorem ctz_eq_findIdx (a : W64) : ctz a = (List.range 64).findIdx (fun k => a.getLsbD k) := by
  have h : ∀ (n i : Nat), ctzFrom a i n = (upFrom i n).findIdx (fun k => a.getLsbD k) := by
    intro n; induction n with
    | zero => intro i; rfl
    | succ n ih => intro i; simp only [ctzFrom, upFrom, List.findIdx_cons, ih]; cases a.getLsbD i <;> simp; omega
  exact h 64 0

theorem scalarCond_eq (k : Nat) (x y : W64) : scalarCond k x y = conditionHolds k x y := by
  unfold scalarCond conditionHolds; split <;> simp [bne, BEq.beq]

theorem b2w_eq (b : Bool) : b2w b = oneIf (b = true) := rfl

theorem rotateRight_eq (x : W64) (n : BitVec 6) : x.rotateRight n.toNat = (x >>> n.toNat) ||| (x <<< (64 - n.toNat)) := by
  have := n.isLt
  rw [BitVec.rotateRight_def]; rw [Nat.mod_eq_of_lt (by omega)]

theorem clz_eq_findIdx (a : W64) : clz a = (List.range 64).findIdx (fun k => a.getLsbD (63 - k)) := by
  unfold clz
  by_cases h : a.toNat = 0
  · have h0 : a = 0 := BitVec.eq_of_toNat_eq (by simpa using h)
    subst h0; symm; simp only [h, if_true]; rw [List.findIdx_eq_length_of_false (by simp)]; simp
  · simp only [h, if_false]
    symm
    have hlt : Nat.log2 a.toNat < 64 := (Nat.log2_lt h).2 a.isLt
    rw [List.findIdx_eq (by simp; omega)]
    constructor
    · simp only [List.getElem_range]
      rw [show 63 - (64 - 1 - Nat.log2 a.toNat) = Nat.log2 a.toNat by omega]
      rw [BitVec.getLsbD]
      exact Nat.testBit_log2 h
    · intro j hj
      simp only [List.getElem_range]
      rw [BitVec.getLsbD]
      apply Nat.testBit_lt_two_pow
      exact (Nat.log2_lt h).1 (by omega)


theorem run_srOp {s : State} {d a : BitVec 8} {b : BitVec 6} {f g : W64 → W64 → W64} (ha : isSource a) (hd : isDest d) (h : ∀ x y, f x y = g x y) :
    run s (srOp s d a b f) = .next (advance (destOf s d (g (sourceOf s a) (sreg s b.toNat)))) := by
  rw [srOp_ok s d a b f ha hd, run_ok, h]
theorem run_srUn {s : State} {d a : BitVec 8} {f g : W64 → W64} (ha : isSource a) (hd : isDest d) (h : ∀ x, f x = g x) :
    run s (srUn s d a f) = .next (advance (destOf s d (g (sourceOf s a)))) := by
  rw [srUn_ok s d a f ha hd, run_ok, h]

end Sys2Proof.Machine
end

