-- ==== Sys2Proof/Tests/Slice0.lean ====
section
/-! SUPPORT. Tests: words that the spec writes out, ill-formed terms, single steps with results worked out in the spec or by hand from its
rules, and for every statement with hypotheses a state that meets them. -/
namespace Sys2Proof.Tests
set_option Elab.async false
open Sys2Proof Sys2Proof.Machine

/-! ## Words written out in the spec, one or more for every family -/

/-- R147, R148, R150, R190 and R193: pipe S. -/
theorem test_words_system :
    decodeWord 0x00000000 = .ok (false, .nop) ∧ decodeWord 0x00040000 = .ok (false, .exit) ∧ decodeWord 0x00100000 = .ok (false, .tret) ∧
    decodeWord 0x73128000 = .ok (false, .fenceAr 1 40) ∧ decodeWord 0x72AC0000 = .ok (false, .fenceRel 2 192) ∧
    decodeWord 0x74021458 = .ok (false, .cmoClean 1 10 11) ∧ decodeWord 0x7604A007 = .ok (false, .rgnMark 40 7) ∧
    decodeWord 0x76000000 = .ok (false, .rgnOff) := by decide +kernel
/-- R134, R141, R144 and the worked programs of R322 to R324: scalars, branches, REP. -/
theorem test_words_scalar :
    decodeWord 0x200651FE = .ok (false, .sstW 3 40 (-2)) ∧ decodeWord 0x1611FFFF = .ok (false, .sli 8 (-1)) ∧
    decodeWord 0x18327F00 = .ok (false, .shin 25 0x7F00) ∧ decodeWord 0x044A4937 = .ok (false, .ssel 37 36 38) ∧
    decodeWord 0x2E017E00 = .ok (false, .jr 191) ∧ decodeWord 0x28600FFB = .ok (false, .bCnd 0 6 0 (-5)) ∧
    decodeWord 0x3001EFFD = .ok (false, .loop 0 30 (-3)) ∧ decodeWord 0x3400007C = .ok (false, .jset 0x7C) ∧
    decodeWord 0x3210004B = .ok (false, .brvSplit 0 1 0x4B) ∧ decodeWord 0x36160000 = .ok (false, .rep 2 6 0) := by decide +kernel
/-- R163, R166 to R168, R174 to R178 and the heads of the families of pipe V. -/
theorem test_words_vector :
    decodeWord 0x40404183 = .ok (false, .vfmaF64 8 2 3 0) ∧ decodeWord 0x40528ADC = .ok (false, .vsubnF64 10 20 21 5) ∧
    decodeWord 0x4208218F = .ok (false, .vrintF32x2 1 1 3 0) ∧ decodeWord 0x4430C38B = .ok (false, .vf16Fma 6 6 7 0 1) ∧
    decodeWord 0x50608A08 = .ok (false, .vcvt 12 4 20 0 1 0) ∧ decodeWord 0x5068C080 = .ok (false, .vcvt 13 6 1 0 0 0) ∧
    decodeWord 0x52A2AB07 = .ok (false, .vdot4I8 20 21 22 0 1 1 1) ∧ decodeWord 0x5E17FFFF = .ok (false, .vmovi 2 (-1)) ∧
    decodeWord 0x583C3001 = .ok (false, .vredAddF64 30 6 0) ∧ decodeWord 0x58445007 = .ok (false, .vredMaxF64 34 10 0) ∧
    decodeWord 0x583E0310 = .ok (false, .vballot 31 3) ∧ decodeWord 0x5C394340 = .ok (false, .vget 7 40 13) ∧
    decodeWord 0x6100C120 = .ok (false, .pfroms 4 9) ∧ decodeWord 0x4E420400 = .ok (false, .vcmp 1 2 1 0 0 0) := by decide +kernel
/-- R184, R185, R187, R189 and the programs: memory. -/
theorem test_words_memory :
    decodeWord 0x6250608C = .ok (false, .ld 10 12 4 3 0) ∧ decodeWord 0x6438A069 = .ok (false, .st 7 20 3 2 1) ∧
    decodeWord 0x6488BA41 = .ok (false, .st 17 23 18 0 1) ∧ decodeWord 0x6610A024 = .ok (false, .ldAcq 2 20 1 1 0) ∧
    decodeWord 0x6848F029 = .ok (false, .stRel 9 30 1 2 1) ∧ decodeWord 0x6E608041 = .ok (false, .atom 12 16 2 1) ∧
    decodeWord 0x702F10D5 = .ok (false, .red 5 226 6 21) := by decide +kernel
/-- R198, R204 to R208, R220, R221, R222, R228 to R231: the engines, the matrix unit, the intersection unit and management. -/
theorem test_words_engines :
    decodeWord 0x78018200 = .ok (false, .tcopyLd 12 16 0 0) ∧ decodeWord 0x78656400 = .ok (false, .bcopy 43 32 0 0) ∧
    decodeWord 0x78A30500 = .ok (false, .ratom 24 40) ∧ decodeWord 0x7A010120 = .ok (false, .binit 8 9) ∧
    decodeWord 0x7A410140 = .ok (false, .bexp 8 10) ∧ decodeWord 0x7A2103C0 = .ok (false, .barr 8 30 0 0) ∧
    decodeWord 0x7A6103C0 = .ok (false, .bwait 8 30 0 0) ∧ decodeWord 0x7AC0000D = .ok (false, .barPly 3 1) := by decide +kernel
theorem test_words_units :
    decodeWord 0x388282A1 = .ok (false, .mma 4 20 21 1) ∧ decodeWord 0x3A614160 = .ok (false, .tld 3 10 11) ∧
    decodeWord 0x3A000002 = .ok (false, .tzero 0) ∧ decodeWord 0x3A050003 = .ok (false, .mbatch 40) ∧
    decodeWord 0x3A03E004 = .ok (false, .mwait 31) ∧ decodeWord 0x3CA14504 = .ok (false, .rayq 20 10 40 1) ∧
    decodeWord 0x3E03C3E0 = .ok (false, .vacqW 30 31) ∧ decodeWord 0x3E7C6280 = .ok (false, .xbind 227 20) ∧
    decodeWord 0x3E9C6000 = .ok (false, .xunb 227) ∧ decodeWord 0x3EA1418D = .ok (false, .launch 10 12 3) := by decide +kernel
/-- Bit 31 chains a word to the next (R108); words of no meaning are refused by name (R115, R116, R117). -/
theorem test_words_refused :
    decodeWord 0x80000000 = .ok (true, .nop) ∧ decodeWord 0x00000001 = .error .nonzeroField ∧
    decodeWord 0x7C000000 = .error .reservedMajor ∧ decodeWord 0x6100E120 = .error .reservedFunction := by decide +kernel

/-! ## Ill-formed terms, one for each check of WellFormed -/

theorem test_illformed_conditions :
    (Instr.scmp 1 2 3 7).wellFormed = false ∧ (Instr.scmpi 1 2 7 0).wellFormed = false ∧ (Instr.bCnd 0 7 1 0).wellFormed = false ∧
    (Instr.bCnd 0 6 1 0).wellFormed = false ∧ (Instr.vcmp 1 2 3 0 6 0).wellFormed = false := by decide
theorem test_illformed_conversions :
    (Instr.vcvt 1 2 45 0 0 0).wellFormed = false ∧ (Instr.vcvt 1 2 0 0 1 0).wellFormed = false ∧ (Instr.vcvt 1 2 36 0 0 1).wellFormed = false := by decide
theorem test_illformed_memory :
    (Instr.st 1 2 3 6 0).wellFormed = false ∧ (Instr.ldb 1 2 3 0 3 0).wellFormed = false ∧ (Instr.stb 1 2 3 0 3 0).wellFormed = false ∧
    (Instr.stb 1 2 3 6 0 0).wellFormed = false ∧ (Instr.atom 1 2 3 27).wellFormed = false ∧ (Instr.red 1 2 3 16).wellFormed = false ∧
    (Instr.cmoClean 3 1 2).wellFormed = false ∧ (Instr.ldAcq 1 2 3 6 0).wellFormed = false ∧ (Instr.fenceRel 7 1).wellFormed = false := by decide
theorem test_illformed_scopes :
    (Instr.launch 1 2 6).wellFormed = false ∧ (Instr.tcopyLd 1 2 1 0).wellFormed = false ∧ (Instr.bwait 1 2 6 1).wellFormed = false ∧
    (Instr.barPly 1 0).wellFormed = false ∧ (Instr.commit 0).wellFormed = false := by decide

/-! ## Single steps, with results that the spec works out or that follow by hand from its tables -/

/-- A page of 128 MiB at address 0 that permits everything. -/
def page : Page := { k := 15, r := true, w := true, a := true, x := true }
/-- The one fragment of a one-strand ply about to issue at word 0, with 32 lanes, 8 blocks and that page in its core's TLB. -/
def base : State := { focus (State.reset.withFetchWord 32 0) 0 0 0 with cores := [(0, { utlb := [page] })] }
def withS (n : Nat) (v : W64) (s : State) : State := setSreg s n v
def withV (r l : Nat) (v : W64) (s : State) : State := setVecLanes s r (laneBit l) (fun _ => v)
def withMask (m : W32) (s : State) : State := s.modCurFrag (fun f => { f with mask := m })
def trapped (s : State) : State := s.modCur (fun t => { t with trap := { t.trap with on := true } })
/-- The outcome is a next state with this property. -/
def gives (r : Res) (f : State → Bool) : Bool :=
  match r with
  | .next t => f t
  | _ => false

/-- R130: sums wrap; the signed minimum over -1 gives the minimum (R85); SHIN of R122's example. -/
theorem test_scalar_results :
    gives (exec (.sadd 5 6 7) (withS 6 0xFFFFFFFFFFFFFFFF (withS 7 2 base))) (fun t => sreg t 5 == 1) = true ∧
    gives (exec (.sdiv 5 6 7) (withS 6 0x8000000000000000 (withS 7 0xFFFFFFFFFFFFFFFF base))) (fun t => sreg t 5 == 0x8000000000000000) = true ∧
    gives (exec (.shin 8 16) (withS 8 0 base)) (fun t => sreg t 8 == 16) = true ∧
    gives (exec (.shin 8 0) (withS 8 0x200000 base)) (fun t => sreg t 8 == 0x4000000000) = true ∧
    gives (exec (.sli 8 (-1)) base) (fun t => sreg t 8 == 0xFFFFFFFFFFFFFFFF) = true := by decide +kernel
/-- R131 and R52: conditions, and writes to %zero, to a read-only special and to a number that names nothing. -/
theorem test_scalar_fields :
    gives (exec (.scmp 5 6 7 2) (withS 6 0x8000000000000000 base)) (fun t => sreg t 5 == 1) = true ∧
    gives (exec (.scmp 5 6 7 4) (withS 6 0x8000000000000000 base)) (fun t => sreg t 5 == 0) = true ∧
    gives (exec (.sli 192 1) base) (fun t => t.curFrag.pc == 1) = true ∧
    gives (exec (.sli 193 1) base) (fun t => t.cur.trapped && t.cur.trapinfo == 3) = true ∧
    gives (exec (.sadd 5 218 7) base) (fun t => t.cur.trapped && t.cur.trapinfo == 3) = true := by decide +kernel
/-- R133 and R174: 1.0 + 2^-60 is inexact; 2^53 + 1 + 1 in lane order stays 2^53. -/
theorem test_scalar_floating :
    gives (exec (.sfadd 5 6 7) (withS 6 0x3FF0000000000000 (withS 7 0x3C30000000000000 base)))
      (fun t => sreg t 5 == 0x3FF0000000000000 && t.cur.fpst == 0x10) = true ∧
    gives (exec (.vredAddF64 30 6 0) (withMask 7 (withV 6 0 0x4340000000000000 (withV 6 1 0x3FF0000000000000 (withV 6 2 0x3FF0000000000000 base)))))
      (fun t => sreg t 30 == 0x4340000000000000) = true := by decide +kernel
/-- R167's example: four e4m3 bytes in one lane. -/
theorem test_conversion_example :
    gives (exec (.vcvt 12 4 20 0 1 0) (withMask 1 (withV 4 0 0x7FC00000BE99999A base)))
      (fun t => vreg t 12 0 == 0x7FAA && t.cur.fpst == 0x10) = true ∧
    gives (exec (.vcvt 12 3 20 0 1 0) (withMask 1 (withV 12 0 0x7FAA (withV 3 0 0x43FA00003F800000 base))))
      (fun t => vreg t 12 0 == 0x7FAA7E38 && t.cur.fpst == 0x30) = true := by decide +kernel
/-- R30 and R157: an FMA in the enabled lane; a lane outside the mask keeps its value. -/
theorem test_vector_results :
    gives (exec (.vfmaF64 8 2 3 0) (withMask 1 (withV 2 0 0x4000000000000000 (withV 3 0 0x4008000000000000 (withV 8 0 0x3FF0000000000000 (withV 8 1 5 base))))))
      (fun t => vreg t 8 0 == 0x401C000000000000 && vreg t 8 1 == 5) = true ∧
    gives (exec (.vaddI32x2 8 2 3 0) (withMask 1 (withV 2 0 0xFFFFFFFF80000000 (withV 3 0 0x0000000180000000 base)))) (fun t => vreg t 8 0 == 0) = true ∧
    gives (exec (.vshflUp 8 2 3 0) (withV 2 3 9 (withV 3 5 2 base))) (fun t => vreg t 8 5 == 9) = true := by decide +kernel
/-- R175, R177, R178: votes, single lanes and predicates. -/
theorem test_lanes_and_predicates :
    gives (exec (.vballot 31 0) (withMask 0xF0F0 base)) (fun t => sreg t 31 == 0xF0F0) = true ∧
    gives (exec (.vput 5 9 20) (withMask 0xFFFF (withS 9 7 base))) (fun t => vreg t 5 20 == 0) = true ∧
    gives (exec (.vget 5 40 20) (withMask 0xFFFF (withV 5 20 7 base))) (fun t => sreg t 40 == 7) = true ∧
    gives (exec (.pfroms 4 9) (withMask 0xF (withS 9 0xFA base))) (fun t => preg t 4 == 0xA) = true ∧
    gives (exec (.vcmp 1 2 3 0 2 0) (withMask 3 (withV 2 1 0xFFFFFFFFFFFFFFFF base))) (fun t => preg t 1 == 2) = true := by decide +kernel
/-- R140, R142, R143: a branch to an offset from its own word, the last turn of a loop, a split into entry 1. -/
theorem test_control :
    gives (exec (.bCnd 0 1 6 4) (withS 6 1 base)) (fun t => t.curFrag.pc == 4) = true ∧
    gives (exec (.loop 0 30 3) (withS 30 1 base)) (fun t => sreg t 30 == 0 && t.curFrag.pc == 1) = true ∧
    gives (exec (.brvSplit 0 1 3) (base.modCur (fun t => { t with p := [(1, 3)] })))
      (fun t => (t.cur.fragAt 1).mask == 3 && (t.cur.fragAt 1).pc == 3 && t.curFrag.mask == 0xFFFFFFFC && t.curFrag.pc == 1) = true := by decide +kernel
/-- R149, R150, R152, R344: TRAP 5 at word 0, and the return from it. -/
theorem test_trap_and_return :
    gives (exec (.trap 9 5) (withS 9 77 base)) (fun t => t.cur.trapped && t.cur.trapinfo == 0x1400001 && t.cur.trapaddr == 77 && t.cur.trap.retIdx == 1) = true ∧
    gives (exec (.swr 9 0) (withS 9 77 (trapped base))) (fun t => t.cur.trap.retIdx == 77) = true ∧
    gives (exec .tret (withS 9 77 (trapped base))) (fun t => !t.cur.trapped && t.curFrag.pc == 0) = true ∧
    gives (exec .tret base) (fun t => t.cur.trapped && t.cur.trapinfo == 5) = true := by decide +kernel
/-- R134, R184: little-endian words of scratch and of device memory, sign- and zero-extension. -/
theorem test_memory :
    gives (exec (.sstW 3 40 (-2)) (withS 3 0x1122334455667788 (withS 40 0x1000000000000010 base)))
      (fun t => Mem.read t.curPly.scratch 8 4 == [0x88, 0x77, 0x66, 0x55]) = true ∧
    gives (exec (.sldW 3 40 0) (withS 40 0x1000000000000008 (base.modCurPly (fun y => { y with scratch := [(8, 0x80), (11, 0xFF)] }))))
      (fun t => sreg t 3 == 0xFF000080) = true ∧
    gives (exec (.sstD 3 40 0) (withS 3 7 (withS 40 0x2000 base))) (fun t => byteSeen t 0 0 0x2000 == 7 && Mem.byte t.home 0x2000 == 0) = true ∧
    gives (exec (.sldD 3 40 0) (withS 40 4 base)) (fun t => t.cur.trapped) = true := by decide +kernel
/-- R187's example: the olds come back in ascending lane order. -/
theorem test_atomic_example :
    gives (exec (.atom 12 16 2 1) (withMask 0xF (withS 16 0x1000000000000000 (withV 12 0 1 (withV 12 1 2 (withV 12 2 3 (withV 12 3 4
        (base.modCurPly (fun y => { y with scratch := [(0, 10)] })))))))))
      (fun t => [0, 1, 2, 3].map (vreg t 12) == [10, 11, 13, 16] && Mem.byte t.curPly.scratch 0 == 20) = true := by decide +kernel
/-- R136, R137: a reservation taken and spent. -/
theorem test_reservation :
    gives (exec (.slrD 3 40 0) (withS 40 0x1000000000000000 base)) (fun t => t.curFrag.resv.isSome && gives (exec (.sscD 5 40 7) (withS 7 9 t))
      (fun u => sreg u 5 == 1 && u.curFrag.resv == none && Mem.byte u.curPly.scratch 0 == 9)) = true ∧
    gives (exec (.sscD 5 40 7) (withS 5 3 (withS 40 0x1000000000000000 base))) (fun t => sreg t 5 == 0 && Mem.byte t.curPly.scratch 0 == 0) = true := by decide +kernel
/-- R73, R204, R205: one expected arrival completes the phase; a wait for the phase before it goes on. -/
theorem test_barrier_object :
    gives (exec (.binit 8 9) (withS 8 0x1000000000000000 (withS 9 1 base))) (fun t => gives (exec (.barr 8 30 0 0) t)
      (fun u => sreg u 30 == 0 && (readObj u 0 0).phase == 1 && gives (exec (.bwait 8 30 0 0) u) (fun v => v.curFrag.wait == .none))) = true ∧
    gives (exec (.bwait 8 30 0 0) (withS 8 0x1000000000000000 base)) (fun v => v.curFrag.wait != .none) = true := by decide +kernel
/-- R51, R229: blocks beyond the eight of a strand are refused at once; a release of more than there is to release leaves the launch's. -/
theorem test_allotment :
    gives (exec (.vacqW 30 31) (withS 31 1 base)) (fun t => sreg t 30 == 0 && t.cur.blocks == 8) = true ∧
    gives (exec (.vrel 31) (withS 31 9 base)) (fun t => t.cur.blocks == 8) = true := by decide +kernel
/-- R221, R210: the batch counter starts from 0; an accepted operation is under way. -/
theorem test_tiles :
    gives (exec (.mbatch 40) base) (fun t => sreg t 40 == 1) = true ∧
    gives (exec (.tzero 1) base) (fun t => t.curPly.tileOps.length == 1 && t.curFrag.pc == 1) = true := by decide +kernel
/-- FIPS 180's value for "abc", for the hash that an attestation report holds (R339). -/
theorem test_sha256 :
    sha256 [0x61, 0x62, 0x63] =
      [0xBA, 0x78, 0x16, 0xBF, 0x8F, 0x01, 0xCF, 0xEA, 0x41, 0x41, 0x40, 0xDE, 0x5D, 0xAE, 0x22, 0x23,
       0xB0, 0x03, 0x61, 0xA3, 0x96, 0x17, 0x7A, 0x9C, 0xB4, 0x10, 0xFF, 0x61, 0xF2, 0x00, 0x15, 0xAD] := by decide +kernel

/-! ## For each statement with hypotheses, states and operands that meet them -/

def isOk {ε α : Type} (r : Except ε α) (f : α → Bool) : Bool :=
  match r with
  | .ok x => f x
  | .error _ => false
def isErr {ε α : Type} (r : Except ε α) (f : ε → Bool) : Bool :=
  match r with
  | .ok _ => false
  | .error x => f x
def isSome' {α : Type} (o : Option α) (f : α → Bool) : Bool :=
  match o with
  | some x => f x
  | none => false

/-- EncodeDecode, OperandTraps, ScalarResults, ScalarFrame: SHIN at the last register and at %zero, a reserved special, a reserved rounding code. -/
theorem met_scalar :
    ((∃ x, scalarForm (.shin 192 0x1FFFF) = some x ∧ isSource x.a ∧ isDest x.d) ∧ (Instr.shin 192 0x1FFFF).wellFormed = true ∧
      isEvent (.shin 192 0x1FFFF) = false ∧ (192 : BitVec 8).toNat ≤ 192) ∧
    (∃ x, scalarForm (.sadd 208 217 63) = some x ∧ isSource x.a ∧ isDest x.d) ∧ (∃ x, scalarForm (.sadd 5 218 7) = some x ∧ ¬ isSource x.a) ∧
    (∃ x, scalarForm (.sadd 193 5 7) = some x ∧ ¬ isDest x.d) ∧ 192 < (208 : BitVec 8).toNat ∧
    (Instr.vrintF64 1 2 5 0).wellFormed = true ∧ badRounding (.vrintF64 1 2 5 0) = true ∧
    gives (exec (.shin 192 0x1FFFF) base) (fun _ => true) = true := by
  refine ⟨⟨⟨_, rfl, ?_⟩, ?_⟩, ⟨_, rfl, ?_⟩, ⟨_, rfl, ?_⟩, ⟨_, rfl, ?_⟩, ?_⟩ <;> first | (unfold isSource; unfold isDest; decide) | (unfold isSource; decide) | (unfold isDest; decide) | decide +kernel
/-- OperandTraps: a register beyond the allotment; VectorFloatResults to VectorConversionResults and VectorFrame: the last register of eight blocks. -/
theorem met_vector :
    isSome' (vectorForm base (.vaddF64 63 0 1 0)) (fun x => decide (∀ r ∈ x.d :: x.regs, r < 8 * base.cur.blocks)) = true ∧
    isSome' (floatForm base (.vfmasF64 8 2 217 7)) (fun _ => true) = true ∧ isSome' (integerForm base (.vaddsatnI32x2 8 2 3 0)) (fun _ => true) = true ∧
    isSome' (logicForm base (.vbcst 8 217 0)) (fun _ => true) = true ∧ isSome' (convertForm base (.vcvt 12 3 20 0 1 0)) (fun _ => true) = true ∧
    (Instr.vcvt 12 3 20 0 1 0).wellFormed = true ∧ badRounding (.vcvt 12 3 20 0 1 0) = false ∧ (base.core base.curCore).resFp = false ∧
    isSome' (vectorForm (base.modCur (fun t => { t with blocks := 7 })) (.vaddF64 56 0 1 0)) (fun x => x.d == 56) = true := by decide +kernel
/-- ScalarFloatResults, ReduceAndVoteResults, LaneFrames. -/
theorem met_lanes :
    isSome' (scalarFloatForm (.scvti 5 6 4)) (fun x => decide (x.a.toNat < 218) && decide (x.d.toNat ≤ 192)) = true ∧ badRounding (.scvti 5 6 4) = false ∧
    isSome' (reduceForm (.vredMaxF64 208 63 0)) (fun x => x.fp64 && decide (x.a < 8 * base.cur.blocks)) = true ∧
    isSome' (voteForm base (.vget 63 5 31)) (fun x => x.1 == 5) = true ∧ isSome' (predForm base (.pfroms 7 217)) (fun x => x.1 == 7) = true ∧
    gives (exec (.vredMaxF64 5 63 0) base) (fun _ => true) = true ∧ gives (exec (.pfroms 7 217) base) (fun _ => true) = true ∧
    gives (exec (.vget 63 5 31) base) (fun _ => true) = true ∧ gives (exec (.scvti 5 6 4) base) (fun _ => true) = true := by decide +kernel
/-- ScanResults, SingleLanes, PredicateResults, CompareResults and their frames. -/
theorem met_single_lanes :
    gives (exec (.vscanAddI64 63 63 7) base) (fun _ => true) = true ∧ gives (exec (.vscanAddF64 63 63 7) base) (fun _ => true) = true ∧
    gives (exec (.vput 63 217 31) base) (fun _ => true) = true ∧ (63 : BitVec 6).toNat < 8 * base.cur.blocks ∧
    Instr.wellFormed (.vcmp 6 2 63 0 5 2) = true ∧ (6 : BitVec 3).toNat + cmpCount 2 ≤ 8 ∧
    gives (exec (.vcmp 6 2 63 0 5 2) base) (fun _ => true) = true := by decide +kernel
/-- BranchResults: a taken branch to word 0, one below it, JR's greatest index and one past it, the operands that trap. -/
theorem met_branches :
    isSome' (branchForm base (.bCnd 0 6 218 0)) (fun x => x.taken && decide (0 ≤ (base.iss.w.toNat : Int) + x.d)) = true ∧
    isSome' (branchForm base (.bCnd 0 6 218 (-1))) (fun x => x.taken && decide ((base.iss.w.toNat : Int) + x.d < 0)) = true ∧
    isSome' (branchForm (withS 5 0xFFFFFFFF base) (.jr 5)) (fun x => x.taken && decide ((sourceOf (withS 5 0xFFFFFFFF base) 5).toNat < 2 ^ 32)) = true ∧
    2 ^ 32 ≤ (sourceOf (withS 5 0x100000000 base) 5).toNat ∧ isSome' (branchForm base (.loop 0 191 1)) (fun x => x.taken) = true ∧
    192 ≤ (192 : BitVec 8).toNat ∧ gives (exec (.call 0 5) base) (fun _ => true) = true := by decide +kernel
/-- SplitResults and JoinSetResults: an empty side, a free entry, a full table with room and without on the stack, the trap level, targets that
qualify and that do not. -/
def splitting (n : Nat) : State :=
  base.modCur (fun t => { t with p := [(1, 3)], frags := (List.range n).map (fun k => (k, if k = 0 then base.curFrag else { mask := 1 })) })
def illTarget (s : State) : State := { s with home := Mem.write s.home 12 [0, 0, 0, 0x80] }
theorem met_splits :
    (splitSets (base.modCur (fun t => { t with p := [(1, 0)] })) 0 false).1.1 = 0 ∧ (splitSets (splitting 1) 3 false).1.1 ≠ 0 ∧
    (splitSets (splitting 1) 3 true).2.1 ≠ 0 ∧ (splitSets (splitting 1) 0xFFFFFFFF false).2.1 = 0 ∧
    isOk (beginsChain (splitting 1) 4) (fun x => x.1) = true ∧ isOk (beginsChain (illTarget (splitting 1)) 4) (fun x => !x.1) = true ∧
    (splitting 1).cur.trapped = false ∧ (trapped (splitting 1)).cur.trapped = true ∧ Tab.has (splitting 3).cur.frags 3 = false ∧
    Tab.has (splitting 4).cur.frags 3 = true ∧ (splitting 4).curFrag.stack.length < 8 ∧
    8 ≤ ((splitting 4).modCurFrag (fun f => { f with stack := List.replicate 8 ⟨0, 1, 0, none, [], [], 0⟩ })).curFrag.stack.length ∧
    isOk (beginsChain base 0) (fun x => x.1) = true ∧ (base.iss.w.toNat : Int) + (-1) < 0 := by decide +kernel
/-- TrapEntry, TrapReturn, ExitResults, AbortResults, SystemRegisters. -/
theorem met_system :
    base.cur.trapped = false ∧ (base.reel base.curPly.reel).rerun = none ∧ base.livePly base.iss.ply = true ∧
    base.cur.frags = [(base.iss.frag, base.curFrag)] ∧ base.curFrag.stack = [] ∧ base.curFrag.held = [] ∧ base.curFrag.join = none ∧
    base.curFrag.parent = none ∧ (trapped base).cur.trapped = true ∧ (trapped base).cur.frags = [((trapped base).iss.frag, (trapped base).curFrag)] := by decide +kernel
def limits (v : W64) : State := withS 190 0 (withS 191 v (trapped base))
theorem met_system_registers :
    (7 : BitVec 10).toNat < 8 ∧ 8 ≤ (8 : BitVec 10).toNat ∧ (190 : BitVec 8).toNat ≤ 190 ∧ 190 < (191 : BitVec 8).toNat ∧
    segNarrows ((base.vdev 0).launchSeg 7) ⟨sreg (limits 0) 190, sreg (limits 0) 191⟩ = true ∧
    segNarrows ((base.vdev 0).launchSeg 7) ⟨sreg (limits 1) 190, sreg (limits 1) 191⟩ = false ∧
    gives (exec (.segld 190 7) (limits 0)) (fun t => t.curFrag.pc == 1) = true := by decide +kernel
/-- OperandTraps: a special no scalar may name, as source and destination of SFADD, VPUT and VGET, of VSOP, VBCST and PFROMS, of a reduction and a vote. -/
theorem met_operand_traps :
    ([Instr.sfadd 5 218 7, .sfadd 193 5 7, .vaddsF64 8 2 218 0, .vbcst 8 218 0, .pfroms 4 218, .vput 5 218 3, .vget 5 193 3, .vredMaxF64 193 5 0,
      .vballot 193 3].all (fun i => gives (exec i base) (fun t => t.cur.trapped && t.cur.trapinfo == 3))) = true ∧
    ([Instr.vput 63 5 3, .vget 63 5 3, .vredMaxF64 5 63 0].all (fun i => gives (exec i (base.modCur (fun t => { t with blocks := 7 })))
      (fun t => t.cur.trapped && t.cur.trapinfo == 6))) = true ∧ isSome' (scalarFloatForm (.sfadd 193 5 7)) (fun x => x.d == 193) = true ∧
    badRounding (.sfadd 193 5 7) = false ∧ isSome' (reduceForm (.vredMaxF64 193 5 0)) (fun x => x.fp64) = true ∧
    isSome' (voteForm base (.vballot 193 3)) (fun x => x.1 == 193) = true ∧ voteRegs (.vballot 193 3) = [] := by decide +kernel
/-- CompareResults: a comparison that is true and quiet; a quiet NaN, which raises nv under an ordered condition and not under equality. -/
theorem met_compare :
    gives (exec (.vcmp 1 2 3 0 2 2) (withMask 3 (withV 2 1 0xBFF0000000000000 base))) (fun t => preg t 1 == 2 && t.cur.fpst == 0) = true ∧
    elementsCompare 2 2 0 0xBFF0000000000000 0 = true ∧ compareRaises 2 2 0 0x7FF8000000000000 0 = true ∧ compareRaises 2 0 0 0x7FF8000000000000 0 = false ∧
    gives (exec (.vcmp 1 2 3 0 2 2) (withMask 3 (withV 2 1 0x7FF8000000000000 base))) (fun t => preg t 1 == 0 && t.cur.fpst.getLsbD 0) = true ∧
    gives (exec (.vcmp 1 2 3 0 0 2) (withMask 3 (withV 2 1 0x7FF8000000000000 base))) (fun t => preg t 1 == 1 && t.cur.fpst == 0) = true := by decide +kernel
/-- JoinSetResults: a child at its join with its parent; two siblings; a child whose parent goes on elsewhere; a path deferred; lanes held. -/
def child (parent : Nat) (join pc mask : W32) (age : Nat) : Frag := { pc := pc, mask := mask, join := some join, parent := some parent, age := age }
def families : List Strand :=
  [{ frags := [(0, { pc := 5, mask := 1 }), (1, child 0 5 5 2 1)] }, { frags := [(0, { pc := 1 }), (1, child 0 5 5 1 1), (2, child 0 5 5 2 2)] },
   { frags := [(0, { pc := 1, mask := 1 }), (1, child 0 5 5 2 1), (2, child 1 9 7 4 2)] },
   { frags := [(0, { pc := 5, mask := 1, stack := [⟨9, 2, 0, some 5, [], [], 0⟩] })] },
   { frags := [(0, { pc := 5, mask := 2, held := [⟨5, 1, 0, [], [], false⟩] })] }]
theorem met_joins :
    families.map (fun t => t.settle.frags.map (fun f => (f.1, f.2.pc, f.2.mask, f.2.parent))) =
      [[(0, 5, 3, none)], [(0, 1, 0, none), (1, 5, 3, some 0)], [(0, 1, 1, none), (1, 5, 2, some 0), (2, 7, 4, some 0)], [(0, 9, 2, none)], [(0, 5, 3, none)]] ∧
    families.all (fun t => !t.trapped) = true ∧ (5 : W32) ≠ 1 ∧ (9 : W32) ≠ 5 := by decide +kernel
/-- PlainSystemResults: a repeat that is not the last, and the last; R120's example (fields vd and va of VADDS.F64, by 1); a field that leaves its range. -/
def repeating (pos : Nat) : State := let s := base.modCurFrag (fun f => { f with repPos := pos }); { s with iss := { s.iss with rep := some (2, 6, 0) } }
theorem met_repeats :
    (repeating 0).iss.rep = some (2, 6, 0) ∧ (repeating 1).curFrag.repPos < 2 ∧ 2 ≤ (repeating 2).curFrag.repPos ∧
    (advance (repeating 2)).curFrag.pc = 2 ∧ (advance (repeating 1)).curFrag.repPos = 2 ∧
    SteppedBy 0x5A208288 0x5A28A288 (steppedFields 0x5A208288 6) (repStep 0 * 1) ∧ decodeWord 0x5A28A288 = .ok (false, .vaddsF64 5 5 20 2) ∧
    repeatInstr 0x5A208288 6 0 1 = .ok (.vaddsF64 5 5 20 2) ∧
    (∃ x ∈ steppedFields 0x5BF88288 6, ((bits (0x5BF88288 : W32) x.1 x.2 : Nat) : Int) + repStep 0 * 1 < 0 ∨ (2 : Int) ^ x.2 ≤ (bits (0x5BF88288 : W32) x.1 x.2 : Nat) + repStep 0 * 1) := by
  refine ⟨?_, ?_, ?_, ?_, ?_, ⟨?_, ?_⟩, ?_, ?_, ?_⟩ <;> decide +kernel
/-- ExitResults: beside another fragment, which is a child of the one that exits or is not; with a path deferred. -/
def beside (parent : Option Nat) : State :=
  base.modCur (fun t => { t with frags := [(0, { base.curFrag with mask := 1 }), (1, { mask := 2, pc := 7, parent := parent, join := parent.map (fun _ => 9) })] })
def deferring : State := base.modCurFrag (fun f => { f with mask := 1, stack := [⟨9, 2, 0, some 5, [], [], 0⟩] })
theorem met_exits :
    (beside none).livePly (beside none).iss.ply = true ∧ (beside none).cur.frags = [((beside none).iss.frag, (beside none).curFrag), (1, { mask := 2, pc := 7 })] ∧
    (beside (some 0)).curFrag.stack = [] ∧ (beside (some 0)).curFrag.held = [] ∧ (beside (some 0)).iss.frag = 0 ∧
    gives (exec .exit (beside (some 0))) (fun t => t.cur.frags == [(1, { mask := 2, pc := 7 })]) = true ∧
    gives (exec .exit (beside none)) (fun t => t.cur.frags == [(1, { mask := 2, pc := 7 })]) = true ∧
    deferring.cur.frags = [(deferring.iss.frag, deferring.curFrag)] ∧ deferring.curFrag.parent = none ∧ deferring.curFrag.held = [] ∧
    gives (exec .exit deferring) (fun t => t.cur.frags.map (fun f => (f.1, f.2.pc, f.2.mask)) == [(0, 9, 2)]) = true := by decide +kernel

/-- The issuing core's log is empty; its numbers are its own. -/
theorem base_log_room (n : Nat) (h : n ≤ 1024) (s : State) (hs : ∀ c, (s.core c).log = []) : LogRoom s s.curCore n := by
  refine ⟨fun c => by rw [hs c]; simp, ?_⟩
  unfold logCount; rw [hs]; simpa [Config.logEntries] using h
theorem base_core_log (c : Nat) : (base.core c).log = [] := by
  show ((Tab.get {} [(0, { utlb := [page] })] c : Core)).log = []
  unfold Tab.get Tab.find Tab.find
  split <;> rename_i h <;> split at h
  all_goals simp_all
  all_goals (subst h; rfl)
/-- Scratch pointers at offsets 0x3F8 and 0x3FC, the last doubleword and word of 1,024 bytes, a misaligned one, and device memory with and without
a page. -/
def at1 (v : W64) : State := withS 40 v base
theorem met_scalar_memory :
    isOk (checkOne (at1 0x1000000000000000) 0x1000000000000000 0x3F8 ⟨[0], false, 8, 8, [0, 1, 2, 3, 4, 5]⟩) (fun ea =>
      isOk (translateOne (at1 0x1000000000000000) none 0x3F8 ea 0 0) (fun x => isOk (readOne x.2.2 ea x.1 8 (ptrPol ea) true) (fun _ => true))) = true ∧
    isErr (checkOne base 0x1000000000000000 0x400 ⟨[0], false, 8, 8, [0, 1]⟩) (fun e => match e with
      | .trap q => q.cause == 0x0B
      | _ => false) = true ∧
    isOk (checkOne base 0x8000000 0 ⟨[1], true, 8, 8, [0, 1]⟩) (fun ea => isErr (translateOne base none 0 ea 1 1) (fun e => match e with
      | .stay _ => true
      | _ => false)) = true ∧
    isOk (checkOne base 0x2000 0 ⟨[1], true, 8, 8, [0, 1]⟩) (fun ea => isOk (translateOne base none 0 ea 1 1) (fun x =>
      x.1 == .hbm 0x2000 && !(writeHeld x.2.2 base.iss.ply 8 x.1))) = true := by decide +kernel
/-- ScalarScratchResults, VectorScratchLoads, ReservationResults, AtomicResults: the last doubleword of the scratch. -/
theorem met_scratch :
    inOwnScratch base 0x1000000000000000 0x3F8 8 0x3F8 0 ∧ inOwnScratch base 0x1000000000000000 0x3F8 8 0x3F8 1 ∧
    inOwnScratch base 0x1000000000000000 0x3F8 8 0x3F8 2 ∧ rangeRead base base.iss.ply base.iss.ply 0x3F8 8 = false ∧
    bit (Tab.get {} base.cur.g 1).ctl 59 = true := by unfold inOwnScratch; decide +kernel
theorem met_base_fields :
    baseOk base 217 ∧ baseOk (base.modCur (fun t => { t with x := [(15, {})] })) 239 ∧ isSource 217 ∧ isDest 208 := by
  unfold baseOk isSource isDest; decide +kernel
/-- DeviceStoreSeen: a scalar store and a lane store, each with room in the log, and a walk that finds a page. -/
theorem met_device_store : LogRoom base base.curCore 32 := base_log_room 32 (by decide) base base_core_log
theorem met_device_lanes :
    isOk (checkLanes base (ctxOf base) 0x2000 (storeAcc 4) (byteOffsets base 1 2)) (fun ats =>
      (translateLanes base (ctxOf base) none 1 ats).1.tos.all (fun e => e.place == .hbm 0x2000)) = true ∧
    isOk (storeLanes base 0x2000 none (storeAcc 4) (byteOffsets base 1 2) (storeCellsOf base 2 3 (fun _ => 0))) (fun x => x.1 == []) = true := by decide +kernel
/-- VectorMemoryResults: loads and stores that complete, trap and park; ST.REL. -/
def lanes (v : W64) : State := withMask 3 (withV 2 1 8 (withS 40 v base))
theorem met_vector_memory :
    isSome' (laneLoad (lanes 0x2000) (.ld 4 40 2 3 0)) (fun x => isOk (loadLanes (lanes 0x2000) x.base x.bound (loadAcc 8) x.ls) (fun r => r.2.1 == [])) = true ∧
    isSome' (laneLoad (lanes 4) (.ld 4 40 2 3 0)) (fun x => isErr (loadLanes (lanes 4) x.base x.bound (loadAcc 8) x.ls) (fun e => match e with
      | .trap q => q.cause == 0x0C && q.lanes == 3
      | _ => false)) = true ∧
    isSome' (laneLoad (lanes 0x7FFFFF8) (.ld 4 40 2 3 0)) (fun x => isOk (loadLanes (lanes 0x7FFFFF8) x.base x.bound (loadAcc 8) x.ls)
      (fun r => r.2.1.length == 1)) = true ∧
    isSome' (laneStore (lanes 0x7FFFFF8) (.st 4 40 2 3 0)) (fun x => isOk (storeLanes (lanes 0x7FFFFF8) x.base x.bound (storeAcc 8) x.ls
      (storeCellsOf (lanes 0x7FFFFF8) x.size x.d x.nib)) (fun r => r.1.length == 1)) = true := by decide +kernel
theorem met_base_operand (a : BitVec 8) (h : some (217 : BitVec 8) = some a) : baseOk base a :=
  Option.some.inj h ▸ .inl (by unfold isSource; decide)
theorem met_lane_registers (l : List Nat) (h : l.all (fun r => decide (r < 64) && decide (r < 8 * base.cur.blocks)) = true) :
    ∀ r ∈ l, r < 64 ∧ r < 8 * base.cur.blocks := by simpa using h
theorem met_vector_operands : laneOperandsOk base (.ld 4 217 63 3 0) ∧ laneOperandsOk base (.st 62 217 63 4 0) ∧ laneOperandsOk base (.ldAcq 4 217 63 1 0) :=
  ⟨⟨met_base_operand, met_lane_registers _ (by decide +kernel), fun _ _ _ _ _ h => by simp at h⟩,
   ⟨met_base_operand, met_lane_registers _ (by decide +kernel), fun _ _ _ _ _ h => by simp at h⟩,
   ⟨met_base_operand, met_lane_registers _ (by decide +kernel), fun _ _ _ _ _ h => by
      simp only [Instr.ldAcq.injEq] at h; obtain ⟨-, -, -, rfl, -⟩ := h; decide +kernel⟩⟩
theorem met_store_release :
    isOk (checkLanes (lanes 0x2000) (ctxOf (lanes 0x2000)) 0x2000 (storeAcc 8) (byteOffsets (lanes 0x2000) 3 2)) (fun _ => true) = true ∧
    isOk (storeTargets (endProtection (lanes 0x2000) (lanes 0x2000).iss.ply 8) 0x2000 none (storeAcc 8) (byteOffsets (lanes 0x2000) 3 2)) (fun x =>
      x.1.fails == [] && isOk (releaseHere x.2 5) (fun _ => true)) = true := by decide +kernel
/-- ReservationResults, AtomicResults: the operations at a home, and requests under way. -/
def red1 (op : Nat) : RedOp := { id := 7, ply := 0, strand := 0, frag := 0, reel := 0, op := op, pa := 0x2000, val := 5, va := 0x2000 }
theorem met_atomics :
    isOk (checkOne (at1 0x2000) 0x2000 0 ⟨[0, 2], false, 8, 8, [0, 1, 2]⟩) (fun ea =>
      isOk (translateOne ((endProtection (at1 0x2000) 0 10).modCurFrag (fun f => { f with resv := none })) none 0 ea 0 0) (fun x => x.1 == .hbm 0x2000 &&
        isOk (flushFor x.2.2 x.1) (fun v => (directRead (redsFirst v x.1) x.1 8).2.1.isNone))) = true ∧
    isOk (checkOne (at1 0x2000) 0x2000 0 ⟨[1, 2], true, 8, 8, [0, 1, 2]⟩) (fun ea =>
      isOk (translateOne (endProtection (at1 0x2000) 0 10) none 0 ea 1 1) (fun x => !(writeHeld x.2.2 0 8 x.1) && isOk (flushFor x.2.2 x.1) (fun _ => true))) = true ∧
    redMates { base with reds := [red1 21] } (red1 21) = [] ∧ redMates { base with reds := [red1 21, { red1 21 with id := 8 }] } (red1 21) ≠ [] ∧
    redsBefore { base with reds := [red1 0] } (red1 0) = [] ∧
    isOk (atomLanes (withMask 1 (at1 0x2000)) 40 2 26) (fun x => x.2.1 == [] && (atomSteps x.2.2 26 4 x.1).2.1 == []) = true ∧
    isOk (atomLanes (withMask 1 (at1 0x2000)) 40 2 25) (fun x => x.2.1 == []) = true ∧ Instr.wellFormed (.atom 4 40 2 26) = true ∧
    Instr.wellFormed (.red 4 40 2 25) = true ∧ toPerform (withMask 0x80000000 base) 0x80000000 = laneBit 31 ∧
    ({ base with reds := [red1 21] }.reds.find? (fun q => q.id == 7)) = some (red1 21) ∧ amoFadd 21 = true ∧ amoFadd 0 = false ∧
    homePoisoned base (0x2000 / 128) = false ∧ 0x2000 % amoBytes 25 = 0 := by decide +kernel
/-- FenceResults: a release that is held by a flush of the host port, and ones that are not; an acquire that waits; a release that has waited. -/
def hostSender : State := base.modPlat (fun p => { p with hostOut := 1 })
def entry0 (held : Bool) : LogEntry :=
  { serial := 4, ply := 0, vdev := 0, space := .dev, sector := 64, vaddr := 0x2000, policy := 0, cells := [(0, (1, 255))], held := held, pub := none, created := 0,
    touched := 0, ext := false, poison := false, bad := false }
def logged (held : Bool) : State := base.modCore 0 (fun c => { c with log := [entry0 held] })
def fencing : State := base.modCore 0 (fun c => { c with fences := [⟨0, [], 1⟩], log := [{ entry0 false with pub := some 1 }] })
theorem met_fences :
    isErr (releaseHere (endProtection hostSender 0 8) 5) (fun e => match e with
      | .stay _ => true
      | _ => false) = true ∧
    isOk (releaseHere (endProtection base 0 8) 5) (fun _ => true) = true ∧ isOk (releaseHere (endProtection hostSender 0 8) 3) (fun _ => true) = true ∧
    canReplay base 0 1 0 = true ∧ canReplay fencing 0 1 0 = false ∧ bayFenced base 0 = false ∧ base.curFrag.fence = none ∧
    Fence.met base ⟨0, [], 0⟩ = true ∧ ∀ f ∈ (base.core 0).fences, ∀ i ∈ f.reqs, i < base.fresh := by decide +kernel
/-- MaintenanceResults: sizes around 2^32, scratch, one sector. -/
theorem met_maintenance :
    2 ^ 32 < (sreg (withS 11 0x100000001 base) 11).toNat ∧ (sreg (withS 11 0x100000000 base) 11).toNat ≤ 2 ^ 32 ∧ bits (0x1000000000000000 : W64) 60 4 = 1 ∧
    bits (0x2040 : W64) 0 57 % 128 + 64 ≤ 128 ∧ base.curFrag.unfinished = none ∧
    isOk (checkOne base 0x2000 0 ⟨[0], false, 128, 128, [0, 3, 4, 5]⟩) (fun ea =>
      isOk (translateOne (base.modCurFrag (fun f => { f with unfinished := some 0 })) none 0 ea 0 0) (fun x =>
        isOk (prefSector x.2.2 x.1 2 (ptrPol ea)) (fun _ => true))) = true := by decide +kernel
/-- MemoryCanonical: reset memory has the form, agrees and is numbered. -/
theorem met_canonical :
    (Memory.wf base.home = true ∧ Memory.wf base.hbm = true ∧ Memory.wf base.ws = true) ∧ (HomesAgree State.reset ∧ LogNumbered State.reset) :=
  ⟨by decide +kernel, fun _ _ => rfl, fun _ => ⟨List.nodup_nil, fun _ h => nomatch h⟩⟩
/-- TileIssueResults: idle tiles, row controls and rows within the scratch, descriptors of a format pair that exists. -/
def tiled : State := base.modCurPly (fun y => { y with scrSize := 655360, ntile := 16 })
def mmaDesc (off k code stride : Nat) : W64 := w64 (off + 2 ^ 20 * k + 2 ^ 24 * code + 2 ^ 28 * stride)
def mDesc (code planes k : Nat) : W64 := w64 (planes * 2 ^ 20 + code * 2 ^ 26 + k * 2 ^ 32)
theorem met_tiles :
    tiled.livePly tiled.iss.ply = true ∧ (15 : BitVec 4).toNat < tiled.curPly.ntile ∧ tiled.curPly.tileOps = [] ∧
    isOk (rowControl (w64 127)) (fun r => r == (1, 512, 127) && isOk (tileRows tiled 0x1000000000000000 1 512 false) (fun l => l == [(0, 0)])) = true ∧
    isOk (rowControl (w64 (127 * 256))) (fun r => r == (128, 512, 0)) = true ∧
    isOk (tileRows tiled 0x1000000000000000 2 512 true) (fun l => l == [(0, 0), (0, 512)]) = true ∧
    matDescOk (matDesc (mDesc 6 53 32)) false tiled.curPly.scrSize = true ∧ matDescOk (matDesc (mDesc 6 53 32)) true tiled.curPly.scrSize = true ∧
    pairFormats 6 6 = some .f64 ∧ matDescOk (matDesc (mDesc 8 8 32)) true tiled.curPly.scrSize = true ∧ pairFormats 7 8 = some .i32 := by decide +kernel
/-- TileEndResults. -/
def tileOp (k : Nat) : TileOp := { id := 5, strand := 0, kind := k, tile := 1, a := mDesc 5 24 32, b := mDesc 5 24 32, md := 1, batch := 3, src := [], pc := 0, frag := 0 }
def atEngine (k : Nat) : State := base.modCurPly (fun y => { y with tileOps := [tileOp k] })
theorem met_tile_ends :
    tileOpOf (atEngine 0) 5 = some (0, tileOp 0) ∧ pairFormats (matDesc (tileOp 0).a).code (matDesc (tileOp 0).b).code = some .f32 ∧
    (matFmt (matDesc (tileOp 0).a).code).isSome = true ∧ (base.core 0).resMx = false ∧ (atEngine 0).livePly 0 = true ∧
    tileOpOf (atEngine 3) 5 = some (0, tileOp 3) ∧ (2 : W64).toNat < (tileOp 0).batch ∧ (tileOp 0).batch ≤ (3 : W64).toNat := by decide +kernel
/-- QueryIssueResults and QueryEndResults: with lanes and without; a descriptor that keeps R312; a query at the head of its bay. -/
def visDesc : Bytes := patchBytes (patchBytes (patchBytes (bytesLE 0 64) 8 [1, 0, 1, 0, 3]) 0x10 (bytesLE 0x3000 8)) 0x20 [1]
def query1 (fn : Nat) : Query := { id := 5, ply := 0, strand := 0, frag := 0, fn := fn, vd := 4, va := 8, ptr := 0x2000, lanes := 1, w := 0 }
def queried (fn : Nat) : State := withV 12 0 0xFFFFFFFFFFFFFFFF { base with bays := [(0, { queries := [query1 fn] })] }
theorem met_queries :
    isOk (checkOne base 0x2000 0 ⟨[0], false, 64, 64, [0, 3]⟩) (fun _ => true) = true ∧ toPerform base (activeLanes base 0) ≠ 0 ∧
    toPerform base (activeLanes (base.modCur (fun t => { t with p := [(1, 0)] })) 1) = 0 ∧ visOk visDesc = true ∧
    isOk (translateOne { base with home := Mem.write base.home 0x2000 visDesc } none 0 0x2000 0 0) (fun x =>
      match (readPlace x.2.2 (ctxOf x.2.2) x.1 64 0).1 with
      | .got d none false => d == visDesc
      | _ => false) = true ∧
    headQuery (queried 0) 5 = some (0, query1 0) ∧ rayInvalid (laneRay (queried 0) 8 0) (vreg (queried 0) 12 0) = true ∧
    (queryLanes (focus (queried 0) 0 0 0) (query1 0)).1.all (fun e => match e.2 with
      | .regs _ none => true
      | _ => false) = true := by decide +kernel
/-- EmitResults: a ring with room and without, a fragment past its claim, a stall whose time is over. -/
def emitBuf (cap head : Nat) : Bytes :=
  patchBytes (patchBytes (patchBytes (patchBytes (bytesLE 0 64) 0 (bytesLE 0x3000 8)) 8 (bytesLE cap 4)) 14 [1]) 0x10 (bytesLE head 8)
def emitting (cap head : Nat) : State := withMask 1 { base with home := Mem.write base.home 0x2000 (emitBuf cap head) }
def emitWait (w : Wait) : State := { (emitting 32 0).modCurFrag (fun f => { f with wait := w }) with clock := 9 }
def claims (s : State) : Bool :=
  isOk (emitDesc s 0x2000) (fun x => emitOk x.2.1 && x.2.2.1 == none && isOk (emitLanes x.2.2.2 x.2.1 0 [0]) (fun y =>
    isOk (emitReady y.2 y.1) (fun _ => y.2.curFrag.fence == none) && isOk (emitClaim y.2 4 8 x.1 0x2000 y.1 0) (fun _ => true)))
def stalls (s : State) : Bool :=
  isOk (emitDesc s 0x2000) (fun x => emitOk x.2.1 && x.2.2.1 == none && fieldAt x.2.1 12 1 == 0 &&
    decide ((fieldAt x.2.1 8 4 : Int) - 1 < (fieldAt x.2.1 0x10 8 : Int) - fieldAt x.2.1 0x18 8))
def emitQuery : Query := { query1 3 with ptr := 0x2000 }
def emitHead (head : Nat) : State := { emitting 32 head with bays := [(0, { queries := [emitQuery] })] }
theorem met_emits :
    isOk (checkOne (emitting 32 0) 0x2000 0 ⟨[0, 2], false, 64, 64, [0]⟩) (fun ea => ea == 0x2000) = true ∧
    headQuery (emitHead 0) 5 = some (0, emitQuery) ∧ emitQuery.fn = 3 ∧ mayWake (focus (emitHead 0) 0 0 0) = true ∧
    claims (servedBy (emitHead 0) 0 emitQuery) = true ∧ stalls (servedBy (emitHead 32) 0 emitQuery) = true ∧
    isOk (emitDesc (focus (emitWait (.emit 4 8 0x2000 1 (some 9))) 0 0 0) 0x2000) (fun _ => true) = true := by decide +kernel
/-- EmitStallEnds: a stalled EMIT with room and without, one past its claim whose turn has come. -/
def stalled (head : Nat) : State := (emitting 32 head).modCurFrag (fun f => { f with wait := .emit 4 8 0x2000 1 none })
theorem met_emit_stalls :
    (stalled 0).liveFrag 0 0 0 = true ∧ ((stalled 0).fragOf 0 0 0).wait = .emit 4 8 0x2000 1 none ∧ mayWake (focus (stalled 0) 0 0 0) = true ∧
    claims (focus (stalled 0) 0 0 0) = true ∧ stalls (focus (stalled 32) 0 0 0) = true ∧
    (emitWait (.emitCommit 0x2000 0 1)).liveFrag 0 0 0 = true ∧ mayWake (focus (emitWait (.emitCommit 0x2000 0 1)) 0 0 0) = true ∧
    (match translateAcc (focus (emitWait (.emitCommit 0x2000 0 1)) 0 0 0) (ctxOf (focus (emitWait (.emitCommit 0x2000 0 1)) 0 0 0)) none 0 0x2000 2 0 with
      | (.here (.hbm pa) _, t) => pa == 0x2000 && t.flips == [] && natLE (Mem.read t.home (pa + 0x30) 8) == 0
      | _ => false) = true := by decide +kernel
/-- AllotmentResults: blocks granted up to the eighth, waited for, refused; a release; registers x0 and x15 bound at both spaces. -/
def allot (b : Nat) (others : Nat) : State :=
  base.modCurPly (fun y => { y with strands := [(0, { y.strand 0 with blocks := b })] ++ (upFrom 1 7).map (fun k => (4 * k, { blocks := others })) })
def crowded : State := { allot 1 8 with plies := (allot 1 8).plies ++ [(1, { strands := [(0, { blocks := 1 })] })] }
theorem met_allotment :
    (allot 7 0).cur.blocks + 1 ≤ 8 ∧ 1 ≤ freeBlocks (allot 7 0) ∧ 8 < (allot 8 0).cur.blocks + 1 ∧
    (crowded.modCurFrag (fun f => { f with wait := .vacq 7 5 0 })).liveFrag 0 0 0 = true ∧
    stillNamed (base.modCur (fun t => { t with blocks := 8 })) 56 = false ∧ 224 ≤ (239 : BitVec 8).toNat ∧ (239 : BitVec 8).toNat < 240 ∧
    bits (sreg (withS 190 0x4800000000000000 base) 190) 60 4 = 4 ∧ bits (sreg (withS 190 0x4800000000000000 base) 190) 57 3 ≤ 4 ∧
    ((ctxOf (base.modCurFrag (fun f => { f with replies := [.atsDenied 0 0 0] }))).replies.contains (.atsDenied 0 0 0) ∧ bits ((ctxOf base).seg 4).base 0 20 = 0) ∧
    (resolveX (clearX { base with cores := [(0, { utlb := [{ page with host := true }] })] } 15) 0 0 ((ctxOf base).seg 0) ((ctxOf base).seg 4)
      0x4000000000000000 0x1000).2.1 = false := by decide +kernel
theorem met_allotment_waits : freeBlocks crowded < 7 ∧ crowded.cur.blocks + 7 ≤ 8 ∧ 8 < (allot 2 0).cur.blocks + 7 ∧
    gives (exec (.vrel 5) ((withS 5 1 base).modCur (fun t => { t with blocks := 9 }))) (fun _ => true) = true := by decide +kernel
/-- LaunchAndSignalResults. -/
theorem met_launches :
    isOk (checkOne (at1 0x2000) 0x2000 0 ⟨[0], false, 64, 64, [0]⟩) (fun ea => isOk (mgmtRelease (at1 0x2000) 3) (fun t =>
      isOk (translateOne t none 0 ea 0 0) (fun x => x.1 == .hbm 0x2000 &&
        (match appendPacket (homeTouch x.2.2 0x2000 0) 0 127 (homeRead x.2.2 0x2000 64) with
          | .status 2 _ => true
          | _ => false)))) = true ∧
    isOk (checkOne (at1 0x2000) 0x2000 0 ⟨[0, 1], false, 64, 64, [0]⟩) (fun ea => isOk (mgmtRelease (at1 0x2000) 5) (fun t =>
      isOk (translateOne t none 0 ea 1 1) (fun x => x.1 == .hbm 0x2000))) = true ∧
    isOk (checkOne (at1 0x2000) 0x2000 0 ⟨[1], false, 64, 64, [0]⟩) (fun _ => true) = true ∧ (2 : BitVec 3).toNat < 3 ∧ base.queues = [] ∧ base.flips = [] := by
  decide +kernel
/-- TransferIssueResults: the records and ranges of each kind at the ends of their limits. -/
def moving (a b n : W64) : State := withS 40 a (withS 32 b (withS 33 n (withS 34 0 base)))
theorem met_transfer_issue :
    isOk (checkOne base 0x2000 0 ⟨[0], false, 128, 128, [0, 1]⟩) (fun _ => true) = true ∧
    isOk (checkRange (moving 0x2000 0x10000000000003F0 16) 0x2000 ⟨[1], true, 16, 1, [0, 1, 2, 3, 4, 5]⟩) (fun _ => true) = true ∧
    isOk (checkRange (moving 0x2000 0x10000000000003F0 16) 0x10000000000003F0 ⟨[0], false, 16, 1, [0, 1, 2, 3, 4, 5]⟩) (fun _ => true) = true ∧
    isOk (checkRange base 0x1000000000000000 ⟨[1], true, 1024, 1, [1, 2, 3]⟩) (fun _ => true) = true ∧
    isOk (checkRange base 0x2000 ⟨[0], false, 2 ^ 32, 1, [0, 1, 2, 3, 4, 5]⟩) (fun _ => true) = true ∧
    isOk (checkOne base 0x4000000000000008 0 ⟨[0, 1], false, 8, 8, [4, 5]⟩) (fun _ => true) = true ∧
    (base.xfers.filter (fun x => x.core == base.curCore && x.holdsEntry)).length < 16 ∧ base.livePly base.iss.ply = true := by decide +kernel
/-- TransferEventResults: a copy about to start, about to end, paused by a page that is not there, with a unit to report; a remote atomic and a
collective of one rank about to be answered. -/
def xfer1 (k : XKind) (started : Bool) : Xfer := { id := 5, kind := k, a := 0x2000, grp := [0x10000000000003F0, 16, 0], started := started, segs := base.cur.g }
def withX (x : Xfer) : State := { base with xfers := [x] }
def oneMove (d : W64) : List ReportUnit := [{ num := 0, moves := [{ src := some 0x1000000000000000, dst := d, bits := 128 }], bytes := 16 }]
theorem met_transfer_events :
    (withX (xfer1 .bcopy false)).xfer 5 = some (xfer1 .bcopy false) ∧
    isOk (xRead (withX (xfer1 .coll false)) (ctxOfX (xfer1 .coll false)) 0x2000 64) (fun _ => true) = true ∧
    isOk (xRead (withX (xfer1 .tcopyLd false)) (ctxOfX (xfer1 .tcopyLd false)) 0x2000 128) (fun _ => true) = true ∧
    mustFollow (withX { xfer1 .bcopy true with units := oneMove 0x2000 }) (xfer1 .bcopy true) = false ∧
    (moveUnit (withX { xfer1 .bcopy true with units := oneMove 0x2000 }) { xfer1 .bcopy true with units := oneMove 0x2000 } ((oneMove 0x2000).headD { num := 0, moves := [], bytes := 0 })).2.2 = none ∧
    (nextFault (withX { xfer1 .bcopy true with units := oneMove 0x8000000 }) { xfer1 .bcopy true with units := oneMove 0x8000000 }).isSome = true ∧
    xBarrier (withX { xfer1 .bcopy true with grp := [0, 16, 0x1000000000000000] }) { xfer1 .bcopy true with grp := [0, 16, 0x1000000000000000] } = some (0, 0) := by
  decide +kernel

def filling : Xfer := { xfer1 .bfill true with a := 0x100000, grp := [7, 2 ^ 20, 0], arr := true, units := [{ num := 0, moves := [{ src := none, dst := 0x100000, bits := 128 }], bytes := 2 ^ 20 }] }
theorem met_array_pairs :
    arrayPair (withX filling) filling = some (none, 0x100000) ∧ (moveBlock (withX filling) filling (none, 0x100000)).isSome = true ∧
    arrayPair (withX { filling with arr := false }) { filling with arr := false } = none ∧ mustFollow (withX filling) filling = false := by decide +kernel
theorem met_ratom_phases :
    (releaseFor (withX { xfer1 .ratom true with step := 1 }) (ctxOfX (xfer1 .ratom true)) scSystem).2 = true ∧
    ({ xfer1 .ratom true with step := 2, grp := [0, 1, 0, 0, 0x2000] } : Xfer).completion ≠ 0 ∧
    (match postCounter (withX (xfer1 .ratom true)) (ctxOfX (xfer1 .ratom true)) 0x2000 1 with
      | .done _ => true
      | _ => false) = true ∧ ({ xfer1 .ratom true with step := 2 } : Xfer).completion = 0 ∧
    (∀ sc, some 1 = some sc → canReplay base 0 sc 0 = true) := by
  refine ⟨?_, ?_, ?_, ?_, fun sc h => Option.some.inj h ▸ ?_⟩ <;> decide +kernel
def coll1 : Xfer := { xfer1 .coll true with lay := patchBytes (patchBytes (bytesLE 0 64) 8 (bytesLE 0x2000 8)) 0x10 (bytesLE 0x3000 8) }
theorem met_transfer_answers :
    isOk (checkAddr (withX { xfer1 .ratom true with grp := [0, 1, 0, 0x10000000000003F0, 0] }) (ctxOfX (xfer1 .ratom true)) 0x10000000000003F0 0
      ⟨[1], true, 16, 16, [0, 1]⟩) (fun ea => ptrTag ea == 1 && scratchOf base 0 ea == some (0, 0x3F0)) = true ∧
    (xReel (withX coll1) coll1).nrank = 1 ∧
    isOk (xReadAll (withX coll1) coll1 0x2000 ((collSrc coll1.lay 1 + 15) / 16)) (fun r =>
      (collUnits 0x3000 (collResult coll1.lay [r.1] 0) (collTaint coll1.lay 0 [r.2.1])).length == 0) = true := by
  decide +kernel
/-- BarrierObjectResults, WaitResults, PlyBarrierResults: an object in the last 32 bytes of the scratch, whole and broken, in either phase. -/
def objAt (phase flags : Nat) : State :=
  withS 8 0x10000000000003E0 (base.modCurPly (fun y => { y with scratch := Mem.write y.scratch 0x3E0 (bytesLE phase 4 ++ bytesLE 0 20 ++ bytesLE flags 8) }))
def objOf (s : State) : BarObj := readObj s 0 0x3E0
theorem met_barrier_objects :
    isOk (needObj (objAt 0 0) 0x10000000000003E0 [0, 1]) (fun x => x == (0, 0x3E0)) = true ∧ rangeRead (objAt 0 0) 0 0 0x3E0 32 = false ∧
    isOk (releaseHere (endProtection (objAt 0 0) 0 8) 1) (fun _ => true) = true ∧ (0x10000 : W64).toNat % 2 ^ 16 = 0 ∧ (0xFFFF : W64).toNat % 2 ^ 16 ≠ 0 := by
  decide +kernel
/-- Logs that the list of cores shows to be empty. -/
theorem no_log (s : State) (h : s.cores.all (fun c => c.2.log == []) = true) (c : Nat) : (s.core c).log = [] := by
  have key : ∀ l : Tab Core, l.all (fun c => c.2.log == []) = true → (Tab.get {} l c : Core).log = [] := by
    intro l
    induction l with
    | nil => exact fun _ => rfl
    | cons x l ih =>
      intro h
      simp only [List.all_cons, Bool.and_eq_true, beq_iff_eq] at h
      have ih := ih h.2
      unfold Tab.get at ih ⊢
      rw [Tab.find]
      by_cases e : x.1 = c
      · simp [e, h.1]
      · simpa [e] using ih
  exact key _ h
/-- TransferEventResults: chunks up to a block's beginning and past it; a chunk of TCOPY's window with elements inside and outside the tensor; a move
into scratch and one into device memory, each with the read and the place that its clause asks for. -/
def chunkTo (d : W64) : Move := { src := some 0x2000, dst := d, bits := 128 }
def narrow : Layout := { base := 0x2000, fmt := 12, rank := 1, edge := 0, skew := 0, planes := 0, round := 0, sat := false, fill := 7,
                         dims := [1, 1, 1, 1, 1], strides := [0, 0, 0, 0, 0], wins := [2, 1, 1, 1, 1] }
def moveParts (m : Move) (k : Nat) (f : Place → State → Bool) : Bool :=
  let x := xfer1 .bcopy true
  isOk (xRead (withX x) (ctxOfX x) ((m.src).getD 0) k) (fun r => r.1.length == k &&
    isOk (xPlace (notePoison r.2.2.2 x r.2.1 r.2.2.1) (ctxOfX x) m.dst 1 5) (fun y => f y.1 y.2.2))
theorem met_moves :
    (cutAtBlock [chunkTo 0xFFFF0]).2 = [] ∧ (cutAtBlock [chunkTo 0xFFFF0, chunkTo 0x100000]).2 ≠ [] ∧
    (0 < narrow.es ∧ 128 % narrow.es = 0 ∧ 128 / narrow.es = 2) ∧
    (rowInside narrow [0, 0, 0] 0 = true ∧ 0 ≤ coordOf [0, 0, 0] 0 + 0 ∧ coordOf [0, 0, 0] 0 + 0 < narrow.dims.getD 0 1) ∧
    ¬ coordOf [0, 0, 0] 0 + 1 < narrow.dims.getD 0 1 ∧
    chunkMoves narrow [0, 0, 0] false 0 0 0 = [{ src := some 0x2000, dst := 0x1000000000000000, bits := 64 },
      { src := none, fill := 7, dst := 0x1000000000000008, bits := 64 }] ∧
    chunkMoves narrow [0, 0, 0] true 0 0 0 = [{ src := some 0x1000000000000000, dst := 0x2000, bits := 64 }] ∧
    moveParts { src := some 0x2000, dst := 0x10000000000003F0, bits := 128 } 16 (fun p t => p == .scratch 0 0x3F0 && t.flips == []) = true ∧
    moveParts { src := some 0x10000000000003F0, dst := 0x2000, bits := 128 } 16 (fun p t => p == .hbm 0x2000 && (t.ply 0).core == (xfer1 .bcopy true).core &&
      t.cores.all (fun c => c.2.log == [])) = true ∧
    (∀ v : State, v.cores.all (fun c => c.2.log == []) = true → ∀ n, n ≤ 1024 → LogNumbered v ∧ logCount (v.core 0) + n ≤ Config.logEntries) := by
  refine ⟨?_, ?_, ?_, ?_, ?_, ?_, ?_, ?_, ?_, fun v h n hn => ⟨fun c => by rw [no_log v h c]; simp, by unfold logCount; rw [no_log v h]; simpa [Config.logEntries] using hn⟩⟩ <;>
    decide +kernel
/-- TransferEventResults: a collective that is given up before it lands. -/
theorem met_collective_loss : (withX coll1).xfer 5 = some coll1 ∧ coll1.kind = .coll ∧ coll1.step = 0 ∧ coll1.paused = none := by decide +kernel
/-- BarrierObjectResults: arrivals short of, at and past the number expected; bytes short of, at and past what is expected; BEXP that completes. -/
def objWith (o : BarObj) : State := withS 8 0x10000000000003E0 (base.modCurPly (fun y => { y with scratch := Mem.write y.scratch 0x3E0 o.bytes }))
def counted (o o' : BarObj) (t : State) : Bool := readObj t 0 0x3E0 == o' && sreg t 30 == w64 o.phase
theorem met_barrier_steps :
    readObj (objWith ⟨1, 2, 0, 16, 0, 0⟩) 0 0x3E0 = ⟨1, 2, 0, 16, 0, 0⟩ ∧ gives (exec (.barr 8 30 0 0) (objWith ⟨1, 2, 0, 16, 0, 0⟩)) (counted ⟨1, 2, 0, 16, 0, 0⟩ ⟨1, 2, 1, 16, 0, 0⟩) = true ∧
    gives (exec (.barr 8 30 0 0) (objWith ⟨1, 2, 1, 16, 0, 0⟩)) (counted ⟨1, 2, 1, 16, 0, 0⟩ ⟨1, 2, 2, 16, 0, 0⟩) = true ∧ gives (exec (.barr 8 30 0 0) (objWith ⟨0xFFFFFFFF, 2, 1, 16, 16, 0⟩)) (counted ⟨0xFFFFFFFF, 2, 1, 16, 16, 0⟩ ⟨0, 2, 0, 0, 0, 0⟩) = true ∧
    gives (exec (.barr 8 30 0 0) (objWith ⟨1, 2, 1, 16, 17, 0⟩)) (counted ⟨1, 2, 1, 16, 17, 0⟩ ⟨2, 2, 0, 0, 0, 2⟩) = true ∧ gives (exec (.barr 8 30 0 0) (objWith ⟨1, 2, 2, 16, 0, 0⟩)) (counted ⟨1, 2, 2, 16, 0, 0⟩ ⟨1, 2, 2, 16, 0, 2⟩) = true ∧
    gives (exec (.bexp 8 9) (withS 9 16 (objWith ⟨1, 2, 2, 0, 16, 0⟩))) (fun t => readObj t 0 0x3E0 == ⟨2, 2, 0, 0, 0, 0⟩) = true ∧
    gives (exec (.bexp 8 9) (withS 9 16 (objWith ⟨1, 2, 1, 0, 16, 0⟩))) (fun t => readObj t 0 0x3E0 == ⟨1, 2, 1, 16, 16, 0⟩) = true := by decide +kernel
/-- WaitResults: a wait of CTRY whose counter has not been reached before and at its deadline, whose acquire cannot take effect, whose read is under
way, and one that was met. -/
def hostPage (s : State) : State := { s with cores := [(0, { utlb := [page, { page with host := true }] })] }
def ctrying (w : Wait) (clock : Nat) (s : State) : State := { s.modCurFrag (fun f => { f with wait := w }) with clock := clock }
def ctryWait (thr : W64) : Wait := .ctry 0x2000 thr 5 (some 1) 9
theorem met_ctry_waits :
    ((ctrying (ctryWait 1) 8 base).fragOf 0 0 0).wait = ctryWait 1 ∧ (ctrying (ctryWait 1) 8 base).liveFrag 0 0 0 = true ∧
    mayWake (focus (ctrying (ctryWait 1) 8 base) 0 0 0) = true ∧
    isOk (tryCounter (focus (ctrying (ctryWait 1) 8 base) 0 0 0) 0x2000 1) (fun x => x.1 == some false) = true ∧
    isOk (tryCounter (focus (ctrying (ctryWait 0) 8 base) 0 0 0) 0x2000 0) (fun x => x.1 == some true && acquireReady x.2 (some 1)) = true ∧
    isOk (tryCounter (focus (ctrying (ctryWait 0) 8 fencing) 0 0 0) 0x2000 0) (fun x => x.1 == some true && !(acquireReady x.2 (some 1))) = true ∧
    isOk (tryCounter fencing 0x2000 0) (fun x => x.1 == some true && !(canReplay x.2 x.2.curCore 1 0)) = true ∧
    isOk (tryCounter (hostPage (withS 40 0x4000000000001000 base)) 0x4000000000001000 0) (fun x => x.1 == none && readUnderWay x.2 0 0 0) = true ∧
    readUnderWay (ctrying (ctryWait 1) 9 base) 0 0 0 = false ∧ ((ctrying (.ctryMet 5 (some 1)) 9 base).fragOf 0 0 0).wait = .ctryMet 5 (some 1) ∧
    acquireReady (focus (ctrying (.ctryMet 5 (some 1)) 9 base) 0 0 0) (some 1) = true := by decide +kernel
/-- QueryEndResults: a valid ray over a hierarchy whose root has no children, and a query of visibility over one tile, each in a state that the unit's reads
leave as it is (their sectors are in the core's L1). -/
def seen (a : Nat) (b : Bytes) : State :=
  { base with cores := [(0, { utlb := [page], l1 := [(l1Key 0 (a / 128), { data := Mem.write [] 0 b })] })], plat := {} }
def node0 : Bytes := patchBytes (bytesLE 0 128) 0x70 [1]
def rayed : State := withV 10 0 0x3F800000 (seen 0x2000 node0)
def rayStart : Todo := { root := 0x2000, inst := none, ray := laneRay rayed 8 0, ref := 2 ^ 30 }
theorem met_rays :
    rayInvalid (laneRay rayed 8 0) (vreg rayed 12 0) = false ∧
    (let met (x : Todo) : Prop := Relation.ReflTransGen (visitsNext (fun _ => node0) (vreg rayed 12 0)) rayStart x
     ReadsAs (fun t => t = rayed) 0 (fun _ => node0) met ∧ ∀ x, met x → visitSound (fun _ => node0) x) ∧
    (match (rayLane rayed (query1 0) 0).1 with
      | .regs vs none => vs == missRegisters 1
      | _ => false) = true := by
  have only : ∀ x, Relation.ReflTransGen (visitsNext (fun _ => node0) (vreg rayed 12 0)) rayStart x → x = rayStart := by
    intro x h
    induction h with
    | refl => rfl
    | tail _ h ih =>
      subst ih
      rcases h with ⟨-, c, hc, -⟩ | ⟨h, -, -⟩
      · have : entered rayStart.ray node0 = [] := by decide +kernel
        rw [this] at hc; exact nomatch hc
      · exact absurd h (by decide +kernel)
  refine ⟨by decide +kernel, ⟨fun x t hx ht => ?_, fun x hx => ?_⟩, by decide +kernel⟩
  · subst ht; rw [only x hx]; exact ⟨rayed, rfl, by decide +kernel⟩
  · rw [only x hx]; exact ⟨by decide +kernel, .inl ⟨by decide +kernel, by decide +kernel⟩⟩
def visDesc1 : Bytes := patchBytes visDesc 0x18 (bytesLE 0x4000 8)
def visQuery : Query := { query1 2 with desc := visDesc1 }
def visible : State := seen 0x3000 (bytesLE 0 4)
theorem met_visibility :
    (∀ x y t, inBox visDesc1 (vreg visible 8 0) x y → t = visible → ∃ u, u = visible ∧
      unitRead t 0 (w64 (fieldAt visDesc1 0x10 8)) (4 * tileAt visDesc1 x y : Nat) 4 = (.got (bytesLE 0 4), u)) ∧
    (∃ x y, inBox visDesc1 (vreg visible 8 0) x y) ∧ isOk (visCounter visible 0 visDesc1 0).1 (fun _ => true) = true ∧
    (match visLane visible visQuery 0 with
      | (.regs [1] none, some _, _) => true
      | _ => false) = true ∧
    (match visLane (withV 9 0 0x3F800000 visible) visQuery 0 with
      | (.regs [0] none, none, _) => true
      | _ => false) = true ∧
    (match visLane (withV 9 0 0x100000000 visible) visQuery 0 with
      | (.regs [2] none, none, _) => true
      | _ => false) = true ∧ anyStop (visLanes visible visQuery).1 = false := by
  refine ⟨fun x y t h ht => ⟨visible, rfl, ?_⟩, ⟨0, 0, by unfold inBox; decide +kernel⟩, by decide +kernel, by decide +kernel, by decide +kernel, by decide +kernel, by decide +kernel⟩
  subst ht
  have hw : fieldAt visDesc1 8 2 = 1 := by decide +kernel
  have hh : fieldAt visDesc1 10 2 = 1 := by decide +kernel
  obtain ⟨-, -, -, -, h1, h2⟩ := h
  rw [hw] at h1; rw [hh] at h2
  obtain rfl : x = 0 := by omega
  obtain rfl : y = 0 := by omega
  decide +kernel
theorem met_waits :
    (objOf (objAt 0 1)).flags % 2 = 1 ∧ (objOf (objAt 0xFFFFFFFF 2)).flags % 2 = 0 ∧ (objOf (objAt 0xFFFFFFFF 2)).phase = (0xFFFFFFFF : W64).toNat % 2 ^ 32 ∧
    isOk (needObj (objAt 0 0) 0x10000000000003E0 [0]) (fun x => x == (0, 0x3E0)) = true ∧
    scratchOf (objAt 0 0) 0 0x10000000000003E0 = some (0, 0x3E0) ∧
    (((objAt 0 0).modCurFrag (fun f => { f with wait := .bwait 0x10000000000003E0 1 none })).fragOf 0 0 0).wait = .bwait 0x10000000000003E0 1 none ∧
    isOk (tryCounter base 0x2000 0) (fun x => x.1 == some true) = true ∧ isOk (tryCounter base 0x2000 1) (fun x => x.1 == some false) = true ∧
    (base.ply 0).resident = true ∧ acquireReady (focus base 0 0 0) (some 1) = true ∧ mayWake (focus base 0 0 0) = true ∧ canReplay base 0 1 0 = true ∧
    isOk (tryCounter (focus (base.modCurFrag (fun f => { f with wait := .ctry 0x2000 0 5 none 0 })) 0 0 0) 0x2000 0) (fun x => x.1 == some true) = true := by
  decide +kernel
def barred (skein : Bool) : State := base.modCurFrag (fun f => { f with wait := .bar skein none none })
theorem met_ply_barriers :
    barMismatch base = false ∧ (base.skein base.curPly.skein).broken = false ∧
    barMismatch (base.modCur (fun t => { t with frags := [(0, base.curFrag), (1, { mask := 1, pc := 5, wait := .bar false none none })] })) = true ∧
    barrierMet (barred false) 0 = true ∧ ((barred false).ply 0).atSkein = false ∧ workLeft (barred false) 0 = false ∧
    heldBad (performReds (barred false) (fun r => [0].any (fun q => r.ofPly q))) 0 = none ∧ ((barred false).reel ((barred false).ply 0).reel).rerun = none := by decide +kernel

/-! ### The command complex -/

def pkt (ty : Nat) (fields : List (Nat × Nat × Nat)) : Bytes := fields.foldl (fun b f => patchBytes b f.1 (bytesLE f.2.1 f.2.2)) (bytesLE ty 64)
/-- Device 0 with bay 0, queue 0 and 1 GiB, the last 64 MiB of it reserved and holding a table of one page of 128 MiB at address 0. -/
def vdev0 : VDev := { exist := true, bays0 := 1, qmask0 := 1, hbmsize := 1, rsvsize := 1, wssize := 1, wclass := 1, troot := 0x80000A003C000000, lslots := 4 }
def table0 : Mem := Mem.write [] (0x3C000000 + 128 * 236) (bytesLE 0xF01 8 ++ bytesLE 0x7800000000000000 8)
def queue0 : Queue := { ring := 0x10000, state := .ready, widx := 1 }
/-- A packet at the head of queue 0, and other bytes in memory. -/
def desk (b : Bytes) (more : List (Nat × Bytes)) : State :=
  { State.reset with vdevs := [(0, vdev0)], queues := [(0, queue0)],
                     home := more.foldl (fun m x => Mem.write m x.1 x.2) (Mem.write table0 0x10000 b) }
def headed (s : State) (ty : Nat) (f : State → Bytes → Bool) : Bool :=
  match lookHead s 0 with
  | (t, some b) => pkType b == ty && f t b
  | _ => false
/-- PacketResults: each type at the head. -/
theorem met_packets_signals :
    headed (desk (pkt 13 []) []) 13 (fun t _ => (t.queue 0).rdptr == 0) = true ∧
    headed (desk (pkt 1 [(8, 0x2000, 8), (0x10, 1, 8)]) []) 1 (fun t _ => (ccRelease t 0 0 none).2.2 && (signalPlace (ccRelease t 0 0 none).1 0 0 0x2000 1 true).1 == some 0x2000) = true ∧
    headed (desk (pkt 1 [(8, 0x8000000, 8), (0x18, 1, 1)]) []) 1 (fun t _ => (signalPlace (ccRelease t 0 0 none).1 0 0 0x8000000 1 false).1 == none) = true ∧
    headed ((desk (pkt 1 [(8, 0x2000, 8)]) []).modPlat (fun p => { p with hostOut := 1 })) 1 (fun t _ => !(ccRelease t 0 0 none).2.2) = true ∧
    headed (desk (pkt 2 [(8, 0x2000, 8)]) []) 2 (fun t b => (signalPlace t 0 0 0x2000 0 true).1 == some 0x2000 && condHolds (fieldAt b 0x18 1) 0 (fieldAt b 0x10 8)) = true ∧
    headed (desk (pkt 2 [(8, 0x2000, 8), (0x10, 1, 8), (0x1C, 1, 4)]) []) 2 (fun _ b => !(condHolds (fieldAt b 0x18 1) 0 (fieldAt b 0x10 8))) = true ∧
    headed (desk (pkt 8 [(8, 0x2000, 8), (0x10, 1, 8), (0x19, 255, 1)]) []) 8 (fun t _ => (signalPlace t 0 0 0x2000 0 true).1 == some 0x2000) = true := by decide +kernel
def tokenEntry : FaultEntry := { token := 9, who := .frag 0 0 0, vdev := 0, bytes := [], pages := [], written := true }
def parkedDesk (k : Nat) : State :=
  { desk (pkt 4 [(8, 9, 8), (0x10, k, 1)]) [] with vdevs := [(0, { vdev0 with faults := [tokenEntry] })], plies := base.plies, reels := base.reels, skeins := base.skeins }
theorem met_packets_replay :
    headed (desk (pkt 4 [(8, 9, 8)]) []) 4 (fun t _ => (t.vdev 0).faults == []) = true ∧
    headed (parkedDesk 1) 4 (fun t _ => liveToken t 0 9 == some tokenEntry && t.liveFrag 0 0 0) = true ∧
    headed (desk (pkt 9 [(8, 0x2000, 8), (0x10, 3 * 2 ^ 60 + 2 ^ 26 - 128, 8), (0x18, 128, 8)]) []) 9 (fun _ _ => true) = true ∧
    headed (desk (pkt 10 [(8, 0x2000, 8), (0x10, 0x3000, 8), (0x18, 16, 8)]) []) 10 (fun t _ =>
      isOk (copyReady t 0 0 0x2000 (some 0x3000) 16) (fun _ => true) && isOk (copyBytes t 0 0 0x2000 (some 0x3000) 0x3000 16) (fun _ => true)) = true ∧
    headed (desk (pkt 10 [(8, 0x8000000, 8), (0x18, 16, 8), (0x20, 1, 1)]) []) 10 (fun t _ =>
      isErr (copyBytes t 0 0 0x8000000 none 0 16) (fun e => match e with
        | .fail _ _ => true
        | _ => false)) = true := by decide +kernel
theorem met_packets_devices :
    headed (desk (pkt 12 [(8, 1, 1), (9, 3, 1), (0x18, 2 ^ 62, 8)]) []) 12 (fun _ _ => true) = true ∧
    headed (desk (pkt 12 [(9, 2, 1)]) []) 12 (fun t _ => decide ((t.vdev 0).wclass < 2)) = true ∧
    headed (desk (pkt 12 [(9, 1, 1)]) []) 12 (fun t _ => t.queues.length == 1 && t.skeins == []) = true ∧
    headOpen (desk (pkt 14 []) []) 0 = true ∧ isOk (ccFetch (desk (pkt 14 []) []) 0 0 0x10000 64) (fun x => !(packetOk x.2 0 x.1)) = true ∧
    (({ desk [] [] with queues := [(0, { queue0 with state := .parked, deadline := some 0 })] }).queue 0).deadline = some 0 := by decide +kernel
/-- LaunchResults: a descriptor that keeps R21 and one that does not; a launch; a mesh pass; placement; vacating; exits and completions. -/
def kdesc0 : Bytes := patchBytes (patchBytes (patchBytes (patchBytes (bytesLE 0x4B394B44 128) 4 [1]) 0x1C (bytesLE 1024 4)) 0x20 [1, 0, 8]) 0x24 [1]
def dispatching (d : Bytes) : State := desk (pkt 5 [(8, 0x2000, 8), (0x18, 1, 4), (0x1C, 0xFFFF, 2)]) [(0x2000, d)]
theorem met_launch_packets :
    headed (dispatching kdesc0) 5 (fun t b => warmLaunch t 0 b == none && isOk (ccFetch t 0 0 0x2000 128) (fun x => kdescOk x.1 && pkType b == 5 &&
      (match launchWith x.2 0 b (kdescOf x.1) with
        | .started _ _ => true
        | _ => false))) = true ∧
    headed (dispatching []) 5 (fun t _ => isOk (ccFetch t 0 0 0x2000 128) (fun x => !(kdescOk x.1))) = true ∧
    headed (desk (pkt 6 [(8, 0x2000, 8), (0x18, 1, 4), (0x1C, 63, 2)]) []) 6 (fun _ _ => true) = true ∧
    headed { desk (pkt 7 [(8, 0x2000, 8), (0x18, 1, 4), (0x1C, 0xFFFF, 2)]) [] with queues := [(0, { queue0 with cls := 3 })] } 7 (fun _ _ => true) = true := by
  decide +kernel
def placing : State := { desk [] [] with reels := [(0, { desc := { plies := 1, nstr0 := 1, vblk0 := 8 }, nskein := 1, left := 1 })], skeins := [(0, {})] }
theorem met_placement :
    deviceOpen (placing.vdev 0) = true ∧ gateHolds placing 0 = false ∧ pendingList placing 0 = [0] ∧ accountAllows (placing.vdev 0) 3 = true ∧
    accountAllows { vdev0 with acct := { balance := -1 } } 1 = false ∧ findBay placing 0 = some 0 ∧ (freeSlots placing 0 1).length ≥ 1 ∧
    deviceOpen { vdev0 with stopped := true } = false := by decide +kernel
def running1 : State := { base with skeins := [(0, { plies := [0], spot := .bay 0, vacate := some 0 })] }
theorem met_vacate :
    Tab.has running1.skeins 0 = true ∧ running (running1.skein 0) = true ∧ (running1.skein 0).plies = [0] ∧ running1.livePly 0 = true ∧
    (running1.ply 0).skein = 0 ∧ (running1.ply 0).resident = true ∧ (running1.ply 0).exiting = false ∧ (running1.ply 0).prot = false ∧ workLeft running1 0 = false ∧
    ((running1.modCurPly (fun y => { y with prot := true })).ply 0).prot = true ∧ heldBad running1 0 = none ∧
    workLeft (atEngine 0) 0 = true ∧ doomed (releaseLocal (commitPly running1 0) (running1.ply 0).core scPackage) 0 = false := by decide +kernel
/-- A ply about to exit whose log entry holds an error not yet found (R371). -/
def badEntry : LogEntry := { entry0 false with bad := true }
def spoiled : State := running1.modCore 0 (fun c => { c with log := [badEntry] })
theorem met_exit_spoiled : workLeft spoiled 0 = false ∧ heldBad spoiled 0 = none ∧
    doomed (releaseLocal (commitPly spoiled 0) (spoiled.ply 0).core scPackage) 0 = true := by decide +kernel
def job1 : Job := { id := 5, vdev := 0, queue := 0, index := 0, cookie := 0, intr := false, signal := 0x2000, addend := 1, statusPtr := 0, status := 0, packet := [], todo := [0, 1, 2], done := true }
theorem met_completions :
    Tab.has { desk [] [] with reels := [(3, { job := 5 })] }.reels 3 = true ∧ ({ desk [] [] with jobs := [job1] }.job 5) = some job1 ∧
    (ccRelease ({ desk [] [] with jobs := [job1] }) 0 0 none).2.2 = true ∧ (signalPlace (desk [] []) 0 0 0x2000 1 true).1 = some 0x2000 ∧
    ({ desk [] [] with jobs := [{ job1 with signal := 0 }] }.job 5).isSome = true := by decide +kernel
def meshBuf : Bytes := patchBytes (patchBytes (patchBytes (bytesLE 0 64) 8 (bytesLE 2 4)) 12 [0, 0, 1]) 0x30 (bytesLE 1 8)
def meshed : State := { desk [] [(0x3000, meshBuf)] with reels := [(3, { mesh := some { buf := 0x3000, next := 0 }, nskein := 1 })] }
theorem met_mesh :
    isSome' (meshBuffer meshed (meshed.reel 3)) (fun x => decide (0 * fieldAt x.1 14 2 < meshCovers x.1) && decide ((0 + 1) * fieldAt x.1 14 2 ≤ fieldAt x.1 0x30 8)) = true := by
  decide +kernel
/-- RecoveryResults. -/
def protectedPly : State := base.modCurPly (fun y => { y with prot := true, en := true, repidx := 6 })
theorem met_recovery :
    ((logged true).core 0).log.find? (fun g => g.serial == 4) = some (entry0 true) ∧ ((logged false).core 0).log.find? (fun g => g.serial == 4) = some (entry0 false) ∧
    base.pliesOn 0 = [(0, base.ply 0)] ∧ protectedPly.livePly 0 = true ∧ (protectedPly.ply 0).prot = true ∧ (protectedPly.ply 0).repidx < 7 ∧
    (protectedPly.reel (protectedPly.ply 0).reel).capture = false ∧ (protectedPly.skein (protectedPly.ply 0).skein).vacate = none ∧ base.liveFrag 0 0 0 = true ∧
    drainAfter (logged false) 0 (entry0 false) = [] ∧ fenced (logged false) 0 4 = false ∧ fenced (fencing) 0 4 = true ∧
    isSome' (failedFetch (focus (base.modCurFrag (fun f => { f with pc := 0x2000000 })) 0 0 0)) (fun r => match r.1 with
      | .park _ => true
      | _ => false) = true ∧
    isSome' (failedFetch (focus (base.modCurFrag (fun f => { f with under := true, pc := 0xFFFFFFFF })) 0 0 0)) (fun r => match r.1 with
      | .trap _ => true
      | _ => false) = true := by decide +kernel
def reserved (c : Nat) : State := { base.modCurFrag (fun f => { f with resv := some { sector := .hbm 0x2000, addr := 0x2000, clock := 0 } }) with clock := c }
theorem met_recovery_units :
    ((reserved 16384).fragOf 0 0 0).resv.isSome = true ∧ paExists 0 = true ∧ (2 ^ 34 - 1) < 2 ^ 34 ∧ Tab.has (base.modCore 0 (fun c => { c with counts := { timing := 1 } })).cores 0 = true ∧
    ((desk [] []).queue 0).state.runs = true ∧ (({ base with plat := { base.plat with cores := [(3, { failed := true })] } }).cmdCore 3).failed = true ∧
    ((base.modCore 5 (fun c => { c with retiring := true })).core 5).retiring = true ∧ baySkeins base 0 = [0] ∧ baySkeins base 1 = [] ∧
    worstLane base 5 = none ∧ (base.die 0).sparesUsed < 4 ∧ 4 ≤ ((base.modDie 0 (fun d => { d with sparesUsed := 4 })).die 0).sparesUsed := by decide +kernel
/-- DeviceResults: jobs, gates, collapses, windows, stops. -/
def gate1 (moved : Nat) : Gate := { id := 5, queue := 0, vdev := 0, dies := [0], ranges := [{ src := 0x2000, bytes := 128, wsoff := 0 }], moved := moved, asked := 0, stage := true }
def gated (moved clock : Nat) : State := { desk [] [] with gates := [gate1 moved], queues := [(0, { queue0 with state := .held })], clock := clock }
theorem met_gates :
    ({ desk [] [] with jobs := [job1] }.job 5) = some job1 ∧ 2 ∈ job1.todo ∧ 0 ∈ job1.todo ∧ job1.before = none ∧
    Before.met (desk [] []) ⟨[5], [4]⟩ = true ∧ Before.met (logged false) ⟨[], [4]⟩ = false ∧ (gated 0 0).gates.find? (fun h => h.id == 5) = some (gate1 0) ∧
    (gate1 0).over = false ∧ (gate1 128).over = true ∧ gateNext (gate1 0).ranges 0 = some ({ src := 0x2000, bytes := 128, wsoff := 0 }, 0) ∧
    isOk (ccRead (gated 0 0) 0 0 0x2000 128) (fun _ => true) = true ∧ gateDevices (gated 0 0) (gate1 0) = [0] ∧ runningSkeins (gated 0 0) 0 = [] ∧
    runningSkeins running1 0 = [0] ∧ (gated 0 93999).clock < 94000 ∧ 94000 ≤ (gated 0 94000).clock ∧ ((gated 0 0).die 0).window = false := by decide +kernel
def deskWith (v : VDev) : State := { desk [] [] with vdevs := [(0, v)] }
theorem met_devices :
    ((deskWith { vdev0 with collapse := .collapsing 1 }).vdev 0).collapse = .collapsing 1 ∧ ((deskWith { vdev0 with collapse := .waking 1 }).vdev 0).collapse = .waking 1 ∧
    windowsOn (desk [] []) 0 = true ∧ windowPhase (desk [] []) 0 < 2820 ∧
    (2820 ≤ windowPhase { desk [] [] with clock := 2820, dies := [(0, { window := true })] } 0) ∧ (desk [] []).plies = [] ∧ vdev0.exist = true ∧ vdev0.stopped = false ∧
    (let s : State := { deskWith vdev0 with vdevs := [(0, vdev0), (1, vdev0)], plat := { traffic := [(0, 1), (1, 2)] } }
     s.plies = [] ∧ (0 : Nat) ≠ 1 ∧ s.plat.traffic = [(0, 1), (1, 2)]) ∧ (desk [] []).plat.stopped = false ∧ vdev0.ownsQueue 0 = true := by decide +kernel
/-- ManagementResults: each command with a record, account, entry and root that keep their limits and that do not. -/
def record0 : Bytes :=
  patchBytes (patchBytes (patchBytes (patchBytes (patchBytes (patchBytes (bytesLE 1 128) 0x10 [1]) 0x22 [2]) 0x24 [1]) 0x2D [1, 1, 0, 16]) 0x38 (bytesLE 0x80000A007C000000 8)) 0x40 (bytesLE 0x10000 8)
def record1 : Bytes := patchBytes record0 0x2E [1]
def commanded (op : Nat) (buf : Bytes) (s : State) : State := { s with pf0 := { s.pf0 with busy := some { op := op, vdev := 0, due := 0 }, buf := Mem.write [] 0 buf } }
theorem met_commands :
    createOk (commanded 1 (patchBytes (patchBytes record0 0x2E [1, 0]) 0x30 [16, 0]) State.reset) 0
      (bufBytes (commanded 1 (patchBytes (patchBytes record0 0x2E [1, 0]) 0x30 [16, 0]) State.reset)) = true ∧
    createOk (commanded 1 [] State.reset) 0 (bufBytes (commanded 1 [] State.reset)) = false ∧ (State.reset.vdev 0).exist = false ∧
    fieldAt (bufBytes (commanded 3 (bytesLE 0 16 ++ bytesLE (2 ^ 62) 8) (desk [] []))) 0x10 8 ≤ 2 ^ 62 ∧
    2 ^ 62 < fieldAt (bufBytes (commanded 3 (bytesLE 0 16 ++ bytesLE (2 ^ 62 + 1) 8) (desk [] []))) 0x10 8 ∧
    fieldAt (bufBytes (commanded 4 (bytesLE 0 16 ++ [63]) (desk [] []))) 0x10 1 < 64 ∧ 64 ≤ fieldAt (bufBytes (commanded 4 (bytesLE 0 16 ++ [64]) (desk [] []))) 0x10 1 ∧
    rootOk ((desk [] []).vdev 0) 0x80000A003C000000 = true ∧ rootOk ((desk [] []).vdev 0) 0 = false ∧
    (∃ q ∈ ((desk [] []).vdev 0).queueList, ((desk [] []).queue q).state.runs = true) ∧ runningSkeins (desk [] []) 0 = [] := by decide +kernel
theorem met_registers :
    ringOk queue0 = true ∧ ringOk { queue0 with ring := 0x10010 } = false ∧ (desk [] []).pf0.arm = false ∧ bits (0x600 : W64) 8 4 = 6 ∧ paExists 0x2000 = true ∧
    ownerOf State.reset 6 0 0 0x2000 = none ∧ ownerOf (deskWith { vdev0 with secure := true }) 6 0 0 0x2000 = some 0 ∧ State.reset.plat.held = false ∧
    State.reset.pf0.busy = none ∧ ((deskWith { vdev0 with collapse := .awake }).vdev 0).rsvBytes = 2 ^ 26 ∧ 0 * 2 ^ 30 + (2 ^ 26 - 4) + 4 ≤ 2 ^ 26 ∧
    ({ queue0 with state := .off }).state.runs = false := by decide +kernel
/-- InboundResults: doorbells at and past the ring's size, BAR2 and host accesses, answers, invalidations, page request groups, peers, links. -/
theorem met_doorbells :
    onlyPf0 (desk [] []) = false ∧ (desk [] []).flips = [] ∧ ((deskWith { vdev0 with secure := true }).vdev 0).secure = true ∧
    (desk [] []).vdevs = [(0, (desk [] []).vdev 0)] ∧ ((desk [] []).vdev 0).collapse = .awake ∧ ((desk [] []).queue 0).dev = false ∧
    (16 : W64).toNat - ((desk [] []).queue 0).ridx ≤ ((desk [] []).queue 0).slots ∧ ((desk [] []).queue 0).slots < (17 : W64).toNat - ((desk [] []).queue 0).ridx ∧
    (inboundPieces (desk [] []) 0 0x1FF8 0 0 16 2).1.isSome = true ∧ (inboundPieces (desk [] []) 0 0x1FF8 1 0 16 2).1.isSome = true ∧
    (List.range 16).all (fun i => paExists (0x2000 + i)) = true ∧ (desk [] []).queues.all (fun q => q.2.state != .parked) = true := by decide +kernel
def asked (a : Ask) : State := { base with plat := { base.plat with reqs := [{ id := 5, who := .frag 0 0 0, vdev := 0, ask := a, link := none, clock := 0 }] } }
theorem met_answers :
    ((asked (.hostRead 0)).plat.reqs.find? (fun x => x.id == 5)).isSome = true ∧ whoCore (asked (.ats 0 2 0)) (.frag 0 0 0) = some 0 ∧
    pagePermits (atsPageOf 0 0 2 (w64 (natLE (bytesLE 0x2003 8)))) 1 = true ∧ pagePermits (atsPageOf 0 0 2 0) 1 = false ∧
    ({ asked (.peerLoad 1 0 8) with clock := 65535 }).clock < 0 + 65536 ∧ (asked (.peerStore 1 0 { address := 0x2000 })).livePly 0 = true ∧
    whoCore (asked (.ats 0 2 0)) (.bind 0 0) = some 0 ∧ (asked (.flush 3)).plat.invals = [] ∧
    (beforeNow (invalidate base 0 true 0 0 4096) 0 true 0 0 4096).met (invalidate base 0 true 0 0 4096) = true ∧
    (beforeNow (invalidate (asked (.hostRead 0)) 0 true 0 0 4096) 0 true 0 0 4096).met (invalidate (asked (.hostRead 0)) 0 true 0 0 4096) = false ∧
    (upFrom 0 16).all (fun v => !((State.reset.vdev v).exist)) = true ∧ base.vdevs = [(0, base.vdev 0)] := by decide +kernel
def group1 : PriGroup := { id := 5, who := .frag 0 0 0, vdev := 0, fn := 1, pages := [2], lanes := 1, kind := 0, addr := 0x2000, sent := true }
def peered : State := { desk [] [] with vdevs := [(0, { vdev0 with xbytes := 0x10000 })], pf0 := { faddr := 3 } }
def link1 : Link := { port := 2, width := 4, lanes := [0, 1], steps := [([0, 1, 2, 3], 3, 0)] }
def linked (l : Link) (c : Nat) : State := { State.reset with plat := { links := [l] }, clock := c }
theorem met_fabric :
    ({ base with plat := { base.plat with groups := [group1] } }).plat.groups = [group1] ∧ base.liveFrag 0 0 0 = true ∧ peered.pf0.faddr ≠ 0xFFFF ∧
    onlyPf0 peered = false ∧ 4 ≠ peered.pf0.faddr.toNat ∧ 3 = peered.pf0.faddr.toNat ∧
    0xFFF8 + 8 ≤ (peered.vdev 0).xbytes.toNat ∧ (peered.vdev 0).xbytes.toNat < 0xFFF9 + 8 ∧
    (match translateWalk (walkTouch peered 0 0xFFF8) 0 0xFFF8 2 with
      | .ok g => decide (Page.phys g 0xFFF8 % 8 = 0) && pagePermits g 0
      | _ => false) = true ∧ homePoisoned (homeTouch (walkTouch peered 0 0xFFF8) 0xFFF8 0) (0xFFF8 / 128) = false ∧ peered.flips = [] ∧
    (linked link1 940000000).plat.links = [link1] ∧ link1.lanes.contains 1 = true ∧ 1 < link1.lanes.length ∧ 0 + 940000000 ≤ (linked link1 940000000).clock ∧
    link1.spares < 2 := by decide +kernel
/-- CheckpointResults: descriptors and shards that keep R406 and that do not; a save that is due, and a restore from the slot that it wrote; a
capture written to its slot, and its re-run. -/
def ckptDesc (op every : Nat) : Bytes :=
  patchBytes (patchBytes (patchBytes (patchBytes (patchBytes (patchBytes (patchBytes (bytesLE op 128) 2 [1]) 0x10 (bytesLE 0x2400 8)) 0x18 (bytesLE every 8))
    0x20 (bytesLE 0x2500 8)) 0x28 (bytesLE 0x8000 8)) 0x30 (bytesLE 8192 8)) 0x38 (bytesLE 0x2600 8)
def shard0 (off : Nat) : Bytes := bytesLE 0x2800 8 ++ bytesLE 128 8 ++ bytesLE off 8 ++ bytesLE 0 8
def ckptDesk (op every off : Nat) : State := desk (pkt 11 [(8, 0x2000, 8)]) [(0x2000, ckptDesc op every), (0x2500, shard0 off), (0x2800, [7])]
theorem met_checkpoints :
    headed (ckptDesk 0 0 4096) 11 (fun t _ => isOk (ccFetch t 0 0 0x2000 128) (fun x => ckptOk x.1 && jobsOf x.2 0 == [] &&
      isOk (ccFetch x.2 0 0 (ckptOf x.1).list 32) (fun y => shardsOk (ckptOf x.1) y.1 && saveDue (ckptOf x.1) (ckptStateOf (bytesLE 0 32)) 0 0 &&
        !(saveDue (ckptOf x.1) (ckptStateOf (bytesLE 0 24 ++ bytesLE 1 8)) 0 0)))) = true ∧
    headed (ckptDesk 2 16 4095) 11 (fun t _ => isOk (ccFetch t 0 0 0x2000 128) (fun x => ckptOk x.1 &&
      isOk (ccFetch x.2 0 0 (ckptOf x.1).list 32) (fun y => !(shardsOk (ckptOf x.1) y.1)))) = true ∧
    headed (ckptDesk 2 17 4096) 11 (fun t _ => isOk (ccFetch t 0 0 0x2000 128) (fun x => !(ckptOk x.1))) = true ∧
    headed (ckptDesk 2 16 8064) 11 (fun t _ => isOk (ccFetch t 0 0 0x2000 128) (fun x => ckptOk x.1 &&
      isOk (ccFetch x.2 0 0 (ckptOf x.1).list 32) (fun y => shardsOk (ckptOf x.1) y.1))) = true := by decide +kernel
def ck0 (op : Nat) : Ckpt := ckptOf (ckptDesc op (if op = 1 then 2 ^ 64 - 1 else 0))
/-- A save before each of its parts: the release, the shard, the release, the header, the release, the seal, the state. -/
def saving (done : Nat) (all : Bytes) : State :=
  { ckptDesk 0 0 4096 with queues := [(0, { queue0 with save := some ⟨5, 0, 0, done, all⟩ })] }
def allParts : Nat → State → Except CcStop State
  | 0, s => .ok s
  | n + 1, s => match (s.queue 0).save with
    | some m => (saveStep s 0 0 (ck0 0) (shardsOf (shard0 4096) 1) [] m).bind (allParts n)
    | none => .ok s
theorem met_save_parts :
    headed (saving 0 []) 11 (fun t _ => (t.queue 0).save == some ⟨5, 0, 0, 0, []⟩ && (ccLost t 0).isNone && (ccRelease t 0 0 (t.queue 0).fence).2.2) = true ∧
    isOk (copySectors (saving 1 []) 0 0 0x2800 (slotAt (ck0 0) 0 + 4096) 0 1) (fun x => x.1.length == 128) = true ∧
    isOk (ccWrite (saving 3 []) 0 0 (slotAt (ck0 0) 0) (bytesLE 0 120)) (fun _ => true) = true ∧
    isOk (ccWrite (saving 5 []) 0 0 (slotAt (ck0 0) 0 + 0x78) (bytesLE (2 ^ 63) 8)) (fun _ => true) = true ∧
    isOk (ccWrite (saving 7 []) 0 0 (ck0 0).state (bytesLE 0 32)) (fun _ => true) = true := by decide +kernel
theorem met_save_and_restore :
    isOk (placesReady (ckptDesk 0 0 4096) 0 0 (slotAt (ck0 0) 0) 8192 1) (fun z =>
      isOk ((beginSave z 0 0 (ck0 0) ⟨5, 0, 0, 0, []⟩).bind (allParts 6)) (fun r =>
        isOk (trySlot r 0 0 (ck0 1) (shardsOf (shard0 4096) 1) 0x4B39434B 0) (fun g0 =>
          isOk (trySlot g0.2 0 0 (ck0 1) (shardsOf (shard0 4096) 1) 0x4B39434B 1) (fun g1 =>
            isSome' (chooseSlot (ck0 1).every g0.1 g1.1) (fun g => g.step == 5 && isOk (putShards g1.2 0 0 (shardsOf (shard0 4096) 1) g.data) (fun _ => true)) &&
            chooseSlot (ck0 1).every none g1.1 == none)))) = true := by decide +kernel
def captured1 : Captured := { number := 3, record := bytesLE 1 64, ctx := 9, shards := [(4096, bytesLE 7 128)], desc := ckptDesc 2 16, index := 0 }
theorem met_captures :
    (base.modCurPly (fun y => { y with capture := some captured1 })).livePly 0 = true ∧ captured1.desc.length = 128 ∧ ckptOk captured1.desc = true ∧
    captured1.shards.length = (ckptOf captured1.desc).nshard := by decide +kernel
def rerunning : State := { base with reels := [(0, { queue := 0, rerun := some { slots := 0x8000, size := 8192, index := 0, core := 0 } })] }
theorem met_reruns :
    (rerunOf rerunning 0).isSome = true ∧ (rerunning.ply 0).resident = true ∧ (rerunning.ply 0).prot = false ∧ rerunOf (desk [] []) 0 = none ∧
    (signalPlace { desk [] [] with queues := [(0, { queue0 with state := .parked, waitPkt := pkt 2 [(8, 0x2000, 8)] })] } 0 0
      (w64 (fieldAt (pkt 2 [(8, 0x2000, 8)]) 8 8)) 0 true).1 = some 0x2000 := by decide +kernel
/-- StepRunsDecoded: the first step after reset with a word placed; a word that is refused; targets that qualify, that do not, and whose word before
cannot be fetched; a word performed early; entries that must drain; events. -/
def first (w : Nat) : State := { State.reset.withFetchWord 32 w with plat := {} }
def jumpTo (s : State) (w : W32) : State := focus (s.modFrag 0 0 0 (fun f => { f with jumped := true, pc := w })) 0 0 0
theorem met_steps :
    (first 0x1611FFFF).inputs = [] ∧ (first 0x1611FFFF).engine = [] ∧
    (match choices (first 0x1611FFFF) with
      | [.issue c] =>
          let f := focus ((first 0x1611FFFF).stamp c.ply c.strand) c.ply c.strand c.frag
          f.curFrag.passed f.iss.w == none && isOk (targetStands f) (fun y => y.1 &&
          isOk (fetchChain y.2 0 false 3) (fun x =>
            let u := x.2.modCurFrag (fun f => { f with jumped := false })
            x.1 == [0x1611FFFF] && !(scoreboardHolds u (.sli 8 (-1))) && lateError u (.sli 8 (-1)) == none &&
            registerError u (.sli 8 (-1)) == none && (earlyChoices u).isEmpty && u.curFrag.wait == .none))
      | _ => false) = true ∧
    chainInstrs [0x7C000000] = none ∧ isOk (targetStands (jumpTo (first 0) 1)) (fun x => x.1) = true ∧
    isOk (targetStands (jumpTo (first 0x80000000) 1)) (fun x => !x.1) = true ∧ isErr (targetStands (jumpTo (first 0) 0x2000003)) (fun _ => true) = true ∧
    choices { State.reset with plat := {} } = [.tick] ∧ mustDrain { logged false with clock := 2048 } = [(0, 4)] ∧ base.engine = [] ∧ isEvent (.powerThrottle true) = true ∧ isEvent .nop = false ∧ isUrgent (.deviceStop 0 9 9) = true := by
  decide +kernel
theorem met_step_helpers : gives (step (first 0x1611FFFF)) (fun t => sreg (focus t 0 0 0) 8 == 0xFFFFFFFFFFFFFFFF && t.turn == 1) = true := by decide +kernel
/-- LaunchResults: plies to save that are halted, and that a release of their bay holds; a mesh reel whose tail can be written. -/
theorem met_vacate_halted :
    ((running1.modCurPly (fun y => { y with prot := true, halt := true })).ply 0).halt = true ∧ (running1.ply 0).capture = none ∧ (running1.ply 0).moving = none ∧
    (running1.ply 0).halt = false ∧ bayFenced running1 (coreBay (running1.ply 0).core) = false ∧
    bayFenced { running1 with cores := fencing.cores } (coreBay (running1.ply 0).core) = true ∧
    isSome' (meshBuffer meshed (meshed.reel 3)) (fun x => (meshTail x.2 3 x.1).2) = true ∧
    isSome' (meshed.reel 3).mesh (fun m => !m.failed && !m.ended && decide (m.next < (meshed.reel 3).nskein)) = true := by decide +kernel
/-- RecoveryResults: two entries of one block of a peer, and one with no mate; an entry of the log an error strikes; the last places of kinds 14 and 15. -/
def peerEntry (n sec : Nat) : LogEntry := { entry0 false with serial := n, space := .peer 1, sector := sec }
theorem met_recovery_places :
    isSome' (blockMate [peerEntry 4 64, peerEntry 5 65] (peerEntry 4 64)) (fun h => h.serial == 5) = true ∧
    blockMate [peerEntry 4 64, peerEntry 5 66] (peerEntry 4 64) = none ∧
    ((logged false).core (36 * 0 + 0)).log.filter (fun e => !e.ext) = [entry0 false] ∧ (4 < 5 ∧ 127 < 128) := by decide +kernel
/-- CheckpointResults: a capture whose parts have been sent, and one whose writes to a peer are under way. -/
theorem met_capture_sent :
    ccSending base 0 = false ∧ (ccLost base 0).isNone = true ∧
    ccSending (base.modPlat (fun p => { p with reqs := [{ id := 5, who := .queue 0, vdev := 0, ask := .peerStore 1 0 { address := 0x2000 }, link := none, clock := 0 }] })) 0 = true ∧
    ({ captured1 with sent := true } : Captured).sent = true ∧ captured1.sent = false := by decide +kernel
/-- MaintenanceResults: a sector whose entries have drained, and one of whose entries a release under way holds back. -/
theorem met_cleaned :
    cleaned (cleanSector base (.hbm 0x2000) 1) (.hbm 0x2000) = true ∧ cleaned (cleanSector (logged false) (.hbm 0x2000) 1) (.hbm 0x2000) = true ∧
    cleaned (cleanSector fencing (.hbm 0x2000) 1) (.hbm 0x2000) = false := by decide +kernel
/-- StepRunsDecoded: a word that has issued already; a REP over a word it may repeat, at a repeat in range and at one that is not, over one that it may
not, and in the last place of a group of three. -/
def repeats (v : W32) (pos : Nat) : State :=
  let s : State := { first 0x36160000 with home := Mem.write (first 0x36160000).home 4 (bytesLE v.toNat 4) }
  focus (s.modFrag 0 0 0 (fun f => { f with repPos := pos })) 0 0 0
theorem met_step_repeats :
    ({ ahead := [(3, 4)] } : Frag).passed 3 = some 4 ∧ chainInstrs [0x36160000] = some [.rep 2 6 0] ∧
    (match fetchWord (repeats 0x5A208288 1) 1 false with
      | (.word v, y) => v == 0x5A208288 && repLegal 0 6 v && (earlyChoices (y.modCurFrag (fun x => { x with jumped := false }))).isEmpty && y.curFrag.wait == .none
      | _ => false) = true ∧
    repeatInstr 0x5A208288 6 0 1 = .ok (.vaddsF64 5 5 20 2) ∧ repeatInstr 0x5BF88288 6 0 1 = .error 3 ∧
    scoreboardHolds (repeats 0x5A208288 1) (.vaddsF64 5 5 20 2) = false ∧ lateError (repeats 0x5A208288 1) (.vaddsF64 5 5 20 2) = none ∧
    registerError (repeats 0x5A208288 1) (.vaddsF64 5 5 20 2) = none ∧ repLegal 0 6 0x00000000 = false ∧ repLegal 2 6 0x5A208288 = false ∧
    gives (step (first 0x36160000)) (fun t => (focus t 0 0 0).cur.trapped && (focus t 0 0 0).cur.trapinfo == 2) = true ∧
    gives (step { first 0x36160000 with home := (repeats 0x5A208288 0).home }) (fun t => (focus t 0 0 0).curFrag.repPos == 1 &&
      (focus t 0 0 0).curFrag.pc == 0 && !(focus t 0 0 0).cur.trapped) = true := by decide +kernel

end Sys2Proof.Tests
end

section
/-! PROOF. The decoder and the encoder are inverse to each other (R108, R114 to R118). A format of R114 is a list of fields, so a word
is a given packing exactly when each of its fields holds the packed value. Both directions rest on that: what a decoder answers is
made of the fields of its word, and the word of an instruction has the fields that its decoder tests. -/
namespace Sys2Proof
open Machine

/-! ## Fields of a word -/

/-- A field is two shorter fields, the upper before the lower. -/
theorem fld_eq_append_iff (w : W32) (lo : Nat) {n m : Nat} (x : BitVec n) (y : BitVec m) :
    fld w lo (n + m) = x ++ y ↔ fld w (lo + m) n = x ∧ fld w lo m = y := by
  rw [fld, ← BitVec.extractLsb'_append_extractLsb'_eq_extractLsb' rfl]
  constructor
  · intro h
    have hx := congrArg (BitVec.extractLsb' m n) h
    have hy := congrArg (BitVec.extractLsb' 0 m) h
    simp only [BitVec.extractLsb'_append_eq_left, BitVec.extractLsb'_append_eq_right] at hx hy
    exact ⟨hx, hy⟩
  · rintro ⟨rfl, rfl⟩
    rfl

/-- The same for a field whose value is not written as two parts. -/
theorem fld_eq_iff_parts (w : W32) (lo : Nat) {n m : Nat} (z : BitVec (n + m)) :
    fld w lo (n + m) = z ↔ fld w (lo + m) n = z.extractLsb' m n ∧ fld w lo m = z.extractLsb' 0 m := by
  rw [← fld_eq_append_iff, BitVec.extractLsb'_append_extractLsb'_eq_extractLsb' (Nat.zero_add m).symm, BitVec.extractLsb'_eq_self]

/-- The function field of VDOT is four fields of one bit. -/
theorem fld_eq_append_bits_iff (w : W32) (f s u v : BitVec 1) :
    fld w 0 4 = f ++ s ++ u ++ v ↔ fld w 3 1 = f ∧ fld w 2 1 = s ∧ fld w 1 1 = u ∧ fld w 0 1 = v := by
  show fld w 0 (1 + 1 + 1 + 1) = _ ↔ _
  simp only [fld_eq_append_iff, and_assoc]

theorem eq_word_iff_fld (v w : W32) : v = w ↔ fld w 0 32 = v := by
  rw [fld, BitVec.extractLsb'_eq_self, eq_comm]

/-! ## Words by format (R114): a word is a packing exactly when its fields are the packed values -/

theorem packY_eq_iff {c : BitVec 1} {maj : BitVec 6} {fn7 : BitVec 7} {sa8 : BitVec 8} {imm10 : BitVec 10} {w : W32} :
    packY c maj fn7 sa8 imm10 = w ↔
      fld w 31 1 = c ∧ fld w 25 6 = maj ∧ fld w 18 7 = fn7 ∧ fld w 10 8 = sa8 ∧ fld w 0 10 = imm10 := by
  rw [eq_word_iff_fld]
  show fld w 0 (1 + 6 + 7 + 8 + 10) = c ++ maj ++ fn7 ++ sa8 ++ imm10 ↔ _
  simp only [fld_eq_append_iff, and_assoc]

theorem packSR_eq_iff {c : BitVec 1} {maj sb6 : BitVec 6} {sd8 sa8 : BitVec 8} {fn3 : BitVec 3} {w : W32} :
    packSR c maj sd8 sa8 sb6 fn3 = w ↔
      fld w 31 1 = c ∧ fld w 25 6 = maj ∧ fld w 17 8 = sd8 ∧ fld w 9 8 = sa8 ∧ fld w 3 6 = sb6 ∧ fld w 0 3 = fn3 := by
  rw [eq_word_iff_fld]
  show fld w 0 (1 + 6 + 8 + 8 + 6 + 3) = c ++ maj ++ sd8 ++ sa8 ++ sb6 ++ fn3 ↔ _
  simp only [fld_eq_append_iff, and_assoc]

theorem packSI_eq_iff {c : BitVec 1} {maj : BitVec 6} {sd8 sa8 : BitVec 8} {imm9 : BitVec 9} {w : W32} :
    packSI c maj sd8 sa8 imm9 = w ↔
      fld w 31 1 = c ∧ fld w 25 6 = maj ∧ fld w 17 8 = sd8 ∧ fld w 9 8 = sa8 ∧ fld w 0 9 = imm9 := by
  rw [eq_word_iff_fld]
  show fld w 0 (1 + 6 + 8 + 8 + 9) = c ++ maj ++ sd8 ++ sa8 ++ imm9 ↔ _
  simp only [fld_eq_append_iff, and_assoc]

theorem packSL_eq_iff {c : BitVec 1} {maj : BitVec 6} {sd8 : BitVec 8} {imm17 : BitVec 17} {w : W32} :
    packSL c maj sd8 imm17 = w ↔
      fld w 31 1 = c ∧ fld w 25 6 = maj ∧ fld w 17 8 = sd8 ∧ fld w 0 17 = imm17 := by
  rw [eq_word_iff_fld]
  show fld w 0 (1 + 6 + 8 + 17) = c ++ maj ++ sd8 ++ imm17 ↔ _
  simp only [fld_eq_append_iff, and_assoc]

theorem packSM_eq_iff {c : BitVec 1} {maj : BitVec 6} {sd8 sa8 : BitVec 8} {off9 : BitVec 9} {w : W32} :
    packSM c maj sd8 sa8 off9 = w ↔
      fld w 31 1 = c ∧ fld w 25 6 = maj ∧ fld w 17 8 = sd8 ∧ fld w 9 8 = sa8 ∧ fld w 0 9 = off9 := by
  rw [eq_word_iff_fld]
  show fld w 0 (1 + 6 + 8 + 8 + 9) = c ++ maj ++ sd8 ++ sa8 ++ off9 ↔ _
  simp only [fld_eq_append_iff, and_assoc]

theorem packBR_eq_iff {c : BitVec 1} {maj : BitVec 6} {h2 : BitVec 2} {cnd3 : BitVec 3} {sa8 : BitVec 8} {off12 : BitVec 12} {w : W32} :
    packBR c maj h2 cnd3 sa8 off12 = w ↔
      fld w 31 1 = c ∧ fld w 25 6 = maj ∧ fld w 23 2 = h2 ∧ fld w 20 3 = cnd3 ∧ fld w 12 8 = sa8 ∧ fld w 0 12 = off12 := by
  rw [eq_word_iff_fld]
  show fld w 0 (1 + 6 + 2 + 3 + 8 + 12) = c ++ maj ++ h2 ++ cnd3 ++ sa8 ++ off12 ↔ _
  simp only [fld_eq_append_iff, and_assoc]

theorem packJL_eq_iff {c : BitVec 1} {maj : BitVec 6} {h2 : BitVec 2} {off23 : BitVec 23} {w : W32} :
    packJL c maj h2 off23 = w ↔
      fld w 31 1 = c ∧ fld w 25 6 = maj ∧ fld w 23 2 = h2 ∧ fld w 0 23 = off23 := by
  rw [eq_word_iff_fld]
  show fld w 0 (1 + 6 + 2 + 23) = c ++ maj ++ h2 ++ off23 ↔ _
  simp only [fld_eq_append_iff, and_assoc]

theorem packBV_eq_iff {c : BitVec 1} {maj : BitVec 6} {h2 : BitVec 2} {pq3 md3 : BitVec 3} {off17 : BitVec 17} {w : W32} :
    packBV c maj h2 pq3 md3 off17 = w ↔
      fld w 31 1 = c ∧ fld w 25 6 = maj ∧ fld w 23 2 = h2 ∧ fld w 20 3 = pq3 ∧ fld w 17 3 = md3 ∧ fld w 0 17 = off17 := by
  rw [eq_word_iff_fld]
  show fld w 0 (1 + 6 + 2 + 3 + 3 + 17) = c ++ maj ++ h2 ++ pq3 ++ md3 ++ off17 ↔ _
  simp only [fld_eq_append_iff, and_assoc]

theorem packRP_eq_iff {c : BitVec 1} {maj cnt6 : BitVec 6} {se3 : BitVec 3} {step2 : BitVec 2} {z : BitVec 14} {w : W32} :
    packRP c maj cnt6 se3 step2 z = w ↔
      fld w 31 1 = c ∧ fld w 25 6 = maj ∧ fld w 19 6 = cnt6 ∧ fld w 16 3 = se3 ∧ fld w 14 2 = step2 ∧ fld w 0 14 = z := by
  rw [eq_word_iff_fld]
  show fld w 0 (1 + 6 + 6 + 3 + 2 + 14) = c ++ maj ++ cnt6 ++ se3 ++ step2 ++ z ↔ _
  simp only [fld_eq_append_iff, and_assoc]

theorem packMX_eq_iff {c : BitVec 1} {maj : BitVec 6} {td4 : BitVec 4} {sa8 sb8 : BitVec 8} {md5 : BitVec 5} {w : W32} :
    packMX c maj td4 sa8 sb8 md5 = w ↔
      fld w 31 1 = c ∧ fld w 25 6 = maj ∧ fld w 21 4 = td4 ∧ fld w 13 8 = sa8 ∧ fld w 5 8 = sb8 ∧ fld w 0 5 = md5 := by
  rw [eq_word_iff_fld]
  show fld w 0 (1 + 6 + 4 + 8 + 8 + 5) = c ++ maj ++ td4 ++ sa8 ++ sb8 ++ md5 ↔ _
  simp only [fld_eq_append_iff, and_assoc]

theorem packAS_eq_iff {c : BitVec 1} {maj : BitVec 6} {fn4 : BitVec 4} {sa8 sb8 : BitVec 8} {sc3 : BitVec 3} {fl2 : BitVec 2} {w : W32} :
    packAS c maj fn4 sa8 sb8 sc3 fl2 = w ↔
      fld w 31 1 = c ∧ fld w 25 6 = maj ∧ fld w 21 4 = fn4 ∧ fld w 13 8 = sa8 ∧ fld w 5 8 = sb8 ∧ fld w 2 3 = sc3 ∧ fld w 0 2 = fl2 := by
  rw [eq_word_iff_fld]
  show fld w 0 (1 + 6 + 4 + 8 + 8 + 3 + 2) = c ++ maj ++ fn4 ++ sa8 ++ sb8 ++ sc3 ++ fl2 ↔ _
  simp only [fld_eq_append_iff, and_assoc]

theorem packVR_eq_iff {c : BitVec 1} {maj vd6 va6 vb6 : BitVec 6} {pg3 : BitVec 3} {fn4 : BitVec 4} {w : W32} :
    packVR c maj vd6 va6 vb6 pg3 fn4 = w ↔
      fld w 31 1 = c ∧ fld w 25 6 = maj ∧ fld w 19 6 = vd6 ∧ fld w 13 6 = va6 ∧ fld w 7 6 = vb6 ∧ fld w 4 3 = pg3 ∧ fld w 0 4 = fn4 := by
  rw [eq_word_iff_fld]
  show fld w 0 (1 + 6 + 6 + 6 + 6 + 3 + 4) = c ++ maj ++ vd6 ++ va6 ++ vb6 ++ pg3 ++ fn4 ↔ _
  simp only [fld_eq_append_iff, and_assoc]

theorem packVS_eq_iff {c : BitVec 1} {maj vd6 va6 : BitVec 6} {sb8 : BitVec 8} {pg3 : BitVec 3} {fn2 : BitVec 2} {w : W32} :
    packVS c maj vd6 va6 sb8 pg3 fn2 = w ↔
      fld w 31 1 = c ∧ fld w 25 6 = maj ∧ fld w 19 6 = vd6 ∧ fld w 13 6 = va6 ∧ fld w 5 8 = sb8 ∧ fld w 2 3 = pg3 ∧ fld w 0 2 = fn2 := by
  rw [eq_word_iff_fld]
  show fld w 0 (1 + 6 + 6 + 6 + 8 + 3 + 2) = c ++ maj ++ vd6 ++ va6 ++ sb8 ++ pg3 ++ fn2 ↔ _
  simp only [fld_eq_append_iff, and_assoc]

theorem packVP_eq_iff {c : BitVec 1} {maj va6 vb6 : BitVec 6} {pd3 pg3 ty3 : BitVec 3} {cond4 : BitVec 4} {w : W32} :
    packVP c maj pd3 va6 vb6 pg3 cond4 ty3 = w ↔
      fld w 31 1 = c ∧ fld w 25 6 = maj ∧ fld w 22 3 = pd3 ∧ fld w 16 6 = va6 ∧
        fld w 10 6 = vb6 ∧ fld w 7 3 = pg3 ∧ fld w 3 4 = cond4 ∧ fld w 0 3 = ty3 := by
  rw [eq_word_iff_fld]
  show fld w 0 (1 + 6 + 3 + 6 + 6 + 3 + 4 + 3) = c ++ maj ++ pd3 ++ va6 ++ vb6 ++ pg3 ++ cond4 ++ ty3 ↔ _
  simp only [fld_eq_append_iff, and_assoc]

theorem packVL_eq_iff {c dir : BitVec 1} {maj v6 : BitVec 6} {s8 : BitVec 8} {lane5 z : BitVec 5} {w : W32} :
    packVL c maj v6 s8 lane5 dir z = w ↔
      fld w 31 1 = c ∧ fld w 25 6 = maj ∧ fld w 19 6 = v6 ∧ fld w 11 8 = s8 ∧ fld w 6 5 = lane5 ∧ fld w 5 1 = dir ∧ fld w 0 5 = z := by
  rw [eq_word_iff_fld]
  show fld w 0 (1 + 6 + 6 + 8 + 5 + 1 + 5) = c ++ maj ++ v6 ++ s8 ++ lane5 ++ dir ++ z ↔ _
  simp only [fld_eq_append_iff, and_assoc]

theorem packVI_eq_iff {c : BitVec 1} {maj vd6 : BitVec 6} {simm19 : BitVec 19} {w : W32} :
    packVI c maj vd6 simm19 = w ↔
      fld w 31 1 = c ∧ fld w 25 6 = maj ∧ fld w 19 6 = vd6 ∧ fld w 0 19 = simm19 := by
  rw [eq_word_iff_fld]
  show fld w 0 (1 + 6 + 6 + 19) = c ++ maj ++ vd6 ++ simm19 ↔ _
  simp only [fld_eq_append_iff, and_assoc]

theorem packVX_eq_iff {c : BitVec 1} {maj va6 : BitVec 6} {sd8 fn8 : BitVec 8} {pg3 : BitVec 3} {w : W32} :
    packVX c maj sd8 va6 pg3 fn8 = w ↔
      fld w 31 1 = c ∧ fld w 25 6 = maj ∧ fld w 17 8 = sd8 ∧ fld w 11 6 = va6 ∧ fld w 8 3 = pg3 ∧ fld w 0 8 = fn8 := by
  rw [eq_word_iff_fld]
  show fld w 0 (1 + 6 + 8 + 6 + 3 + 8) = c ++ maj ++ sd8 ++ va6 ++ pg3 ++ fn8 ↔ _
  simp only [fld_eq_append_iff, and_assoc]

theorem packPL_eq_iff {c : BitVec 1} {maj : BitVec 6} {pd3 pa3 pb3 fn3 : BitVec 3} {sa8 : BitVec 8} {z : BitVec 5} {w : W32} :
    packPL c maj pd3 pa3 pb3 fn3 sa8 z = w ↔
      fld w 31 1 = c ∧ fld w 25 6 = maj ∧ fld w 22 3 = pd3 ∧ fld w 19 3 = pa3 ∧
        fld w 16 3 = pb3 ∧ fld w 13 3 = fn3 ∧ fld w 5 8 = sa8 ∧ fld w 0 5 = z := by
  rw [eq_word_iff_fld]
  show fld w 0 (1 + 6 + 3 + 3 + 3 + 3 + 8 + 5) = c ++ maj ++ pd3 ++ pa3 ++ pb3 ++ fn3 ++ sa8 ++ z ↔ _
  simp only [fld_eq_append_iff, and_assoc]

theorem packM_eq_iff {c : BitVec 1} {maj vd6 vo6 : BitVec 6} {sa8 : BitVec 8} {sz3 : BitVec 3} {pg2 : BitVec 2} {w : W32} :
    packM c maj vd6 sa8 vo6 sz3 pg2 = w ↔
      fld w 31 1 = c ∧ fld w 25 6 = maj ∧ fld w 19 6 = vd6 ∧ fld w 11 8 = sa8 ∧ fld w 5 6 = vo6 ∧ fld w 2 3 = sz3 ∧ fld w 0 2 = pg2 := by
  rw [eq_word_iff_fld]
  show fld w 0 (1 + 6 + 6 + 8 + 6 + 3 + 2) = c ++ maj ++ vd6 ++ sa8 ++ vo6 ++ sz3 ++ pg2 ↔ _
  simp only [fld_eq_append_iff, and_assoc]

theorem packMO_eq_iff {c : BitVec 1} {maj vd6 vo6 : BitVec 6} {sa8 : BitVec 8} {sc3 : BitVec 3} {sz2 : BitVec 2} {w : W32} :
    packMO c maj vd6 sa8 vo6 sc3 sz2 = w ↔
      fld w 31 1 = c ∧ fld w 25 6 = maj ∧ fld w 19 6 = vd6 ∧ fld w 11 8 = sa8 ∧ fld w 5 6 = vo6 ∧ fld w 2 3 = sc3 ∧ fld w 0 2 = sz2 := by
  rw [eq_word_iff_fld]
  show fld w 0 (1 + 6 + 6 + 8 + 6 + 3 + 2) = c ++ maj ++ vd6 ++ sa8 ++ vo6 ++ sc3 ++ sz2 ↔ _
  simp only [fld_eq_append_iff, and_assoc]

theorem packMB_eq_iff {c : BitVec 1} {maj vd6 vo6 : BitVec 6} {rq5 : BitVec 5} {sz3 pg3 : BitVec 3} {bm2 : BitVec 2} {w : W32} :
    packMB c maj vd6 rq5 vo6 sz3 bm2 pg3 = w ↔
      fld w 31 1 = c ∧ fld w 25 6 = maj ∧ fld w 19 6 = vd6 ∧ fld w 14 5 = rq5 ∧
        fld w 8 6 = vo6 ∧ fld w 5 3 = sz3 ∧ fld w 3 2 = bm2 ∧ fld w 0 3 = pg3 := by
  rw [eq_word_iff_fld]
  show fld w 0 (1 + 6 + 6 + 5 + 6 + 3 + 2 + 3) = c ++ maj ++ vd6 ++ rq5 ++ vo6 ++ sz3 ++ bm2 ++ pg3 ↔ _
  simp only [fld_eq_append_iff, and_assoc]

theorem packMA_eq_iff {c : BitVec 1} {maj vd6 vo6 : BitVec 6} {sa8 : BitVec 8} {op5 : BitVec 5} {w : W32} :
    packMA c maj vd6 sa8 vo6 op5 = w ↔
      fld w 31 1 = c ∧ fld w 25 6 = maj ∧ fld w 19 6 = vd6 ∧ fld w 11 8 = sa8 ∧ fld w 5 6 = vo6 ∧ fld w 0 5 = op5 := by
  rw [eq_word_iff_fld]
  show fld w 0 (1 + 6 + 6 + 8 + 6 + 5) = c ++ maj ++ vd6 ++ sa8 ++ vo6 ++ op5 ↔ _
  simp only [fld_eq_append_iff, and_assoc]

theorem packF_eq_iff {c : BitVec 1} {maj : BitVec 6} {kind2 : BitVec 2} {sc3 : BitVec 3} {sa8 : BitVec 8} {z : BitVec 12} {w : W32} :
    packF c maj kind2 sc3 sa8 z = w ↔
      fld w 31 1 = c ∧ fld w 25 6 = maj ∧ fld w 23 2 = kind2 ∧ fld w 20 3 = sc3 ∧ fld w 12 8 = sa8 ∧ fld w 0 12 = z := by
  rw [eq_word_iff_fld]
  show fld w 0 (1 + 6 + 2 + 3 + 8 + 12) = c ++ maj ++ kind2 ++ sc3 ++ sa8 ++ z ↔ _
  simp only [fld_eq_append_iff, and_assoc]

/-! ## The decoder by major opcode (R116) -/

/-- The decoders of the major opcodes, from 0x00 on. -/
noncomputable def decoders : List (W32 → Except DecodeError Instr) :=
  [decMaj00, decMaj01, decMaj02, decMaj03, decMaj04, decMaj05, decMaj06, decMaj07, decMaj08, decMaj09, decMaj0A, decMaj0B, decMaj0C, decMaj0D,
    decMaj0E, decMaj0F, decMaj10, decMaj11, decMaj12, decMaj13, decMaj14, decMaj15, decMaj16, decMaj17, decMaj18, decMaj19, decMaj1A, decMaj1B,
    decMaj1C, decMaj1D, decMaj1E, decMaj1F, decMaj20, decMaj21, decMaj22, decMaj23, decMaj24, decMaj25, decMaj26, decMaj27, decMaj28, decMaj29,
    decMaj2A, decMaj2B, decMaj2C, decMaj2D, decMaj2E, decMaj2F, decMaj30, decMaj31, decMaj32, decMaj33, decMaj34, decMaj35, decMaj36, decMaj37,
    decMaj38, decMaj39, decMaj3A, decMaj3B, decMaj3C, decMaj3D]

theorem decodeRaw_eq_of_major {w : W32} {m : BitVec 6} {dec : W32 → Except DecodeError Instr} (hm : fld w 25 6 = m)
    (hd : decoders[m.toNat]? = some dec) : decodeRaw w = dec w := by
  subst hm
  have hlt : (fld w 25 6).toNat < 62 := (List.getElem?_eq_some_iff.1 hd).1
  unfold decodeRaw
  interval_cases (fld w 25 6).toNat <;> exact congrFun (Option.some.inj hd) w

theorem decodeRaw_reserved {w : W32} (h : 62 ≤ (fld w 25 6).toNat) : decodeRaw w = .error .reservedMajor := by
  unfold decodeRaw
  split
  case h_63 => rfl
  all_goals omega

/-- Every major opcode is reserved or belongs to one format (R114, R116). -/
theorem major_format : ∀ m : BitVec 6, 62 ≤ m.toNat ∨
      (m = 0#6 ∨ m = 59#6) ∨
      (m = 1#6 ∨ m = 2#6 ∨ m = 3#6 ∨ m = 4#6 ∨ m = 17#6 ∨ m = 19#6 ∨ m = 23#6 ∨ m = 58#6) ∨
      (m = 5#6 ∨ m = 6#6 ∨ m = 7#6 ∨ m = 8#6 ∨ m = 9#6 ∨ m = 10#6) ∨
      (m = 11#6 ∨ m = 12#6) ∨
      (m = 13#6 ∨ m = 14#6 ∨ m = 15#6 ∨ m = 16#6 ∨ m = 18#6) ∨
      (m = 20#6 ∨ m = 24#6) ∨
      (m = 21#6 ∨ m = 22#6 ∨ m = 26#6) ∨
      m = 25#6 ∨
      m = 27#6 ∨
      (m = 28#6 ∨ m = 29#6) ∨
      (m = 30#6 ∨ m = 45#6) ∨
      (m = 31#6 ∨ m = 60#6 ∨ m = 61#6) ∨
      (m = 32#6 ∨ m = 33#6 ∨ m = 34#6) ∨
      (m = 35#6 ∨ m = 36#6 ∨ m = 37#6) ∨
      (m = 38#6 ∨ m = 40#6 ∨ m = 41#6 ∨ m = 42#6 ∨ m = 43#6) ∨
      m = 39#6 ∨
      m = 44#6 ∨
      m = 46#6 ∨
      m = 47#6 ∨
      m = 48#6 ∨
      (m = 49#6 ∨ m = 50#6) ∨
      (m = 51#6 ∨ m = 52#6) ∨
      (m = 53#6 ∨ m = 54#6) ∨
      (m = 55#6 ∨ m = 56#6) ∨
      m = 57#6 := by
  decide

/-! ## From words to instructions and back -/

/-- An instruction that a decoder answers has the word as its encoding. -/
def ReEncodes (w : W32) (r : Except DecodeError Instr) : Prop :=
  ∀ i, r = .ok i → encodeBits (fld w 31 1) i = w

theorem reEncodes_ok {w : W32} {i : Instr} (h : encodeBits (fld w 31 1) i = w) : ReEncodes w (.ok i) := by
  rintro _ ⟨⟩
  exact h

theorem reEncodes_error (w : W32) (e : DecodeError) : ReEncodes w (.error e) := by
  rintro _ ⟨⟩

/-- A decoder is a chain of tests; what an answer rests on is the test before it alone. -/
theorem reEncodes_ite {w : W32} {p : Prop} [Decidable p] {r t : Except DecodeError Instr} (hr : p → ReEncodes w r)
    (ht : ReEncodes w t) : ReEncodes w (if p then r else t) := by
  split
  case isTrue h => exact hr h
  case isFalse => exact ht

/-! One lemma for each format: the decoders of its majors are taken apart into their answers, and an answer is packed again from the
fields that it names, the major opcode and the fields that the tests before it fix. -/

theorem reEncodes_Y {w : W32} {m : BitVec 6} (hm : fld w 25 6 = m)
    (h : m = 0#6 ∨ m = 59#6) :
    ReEncodes w (decodeRaw w) := by
  rcases h with rfl | rfl <;> rw [decodeRaw_eq_of_major hm rfl]
  all_goals simp only [decMaj00, decMaj3B]
  all_goals repeat' refine reEncodes_ite (fun _ => ?_) ?_
  any_goals exact reEncodes_error _ _
  all_goals exact reEncodes_ok (packY_eq_iff.2 (by simp_all [fld_eq_append_iff (n := 7) (m := 3)]))

theorem reEncodes_SR {w : W32} {m : BitVec 6} (hm : fld w 25 6 = m)
    (h : m = 1#6 ∨ m = 2#6 ∨ m = 3#6 ∨ m = 4#6 ∨ m = 17#6 ∨ m = 19#6 ∨ m = 23#6 ∨ m = 58#6) :
    ReEncodes w (decodeRaw w) := by
  rcases h with rfl | rfl | rfl | rfl | rfl | rfl | rfl | rfl <;> rw [decodeRaw_eq_of_major hm rfl]
  all_goals simp only [decMaj01, decMaj02, decMaj03, decMaj04, decMaj11, decMaj13, decMaj17, decMaj3A]
  all_goals repeat' refine reEncodes_ite (fun _ => ?_) ?_
  any_goals exact reEncodes_error _ _
  all_goals exact reEncodes_ok (packSR_eq_iff.2 (by simp_all [fld_eq_append_iff (n := 3) (m := 3)]))

theorem reEncodes_SI {w : W32} {m : BitVec 6} (hm : fld w 25 6 = m)
    (h : m = 5#6 ∨ m = 6#6 ∨ m = 7#6 ∨ m = 8#6 ∨ m = 9#6 ∨ m = 10#6) :
    ReEncodes w (decodeRaw w) := by
  rcases h with rfl | rfl | rfl | rfl | rfl | rfl <;> rw [decodeRaw_eq_of_major hm rfl]
  all_goals simp only [decMaj05, decMaj06, decMaj07, decMaj08, decMaj09, decMaj0A]
  all_goals repeat' refine reEncodes_ite (fun _ => ?_) ?_
  any_goals exact reEncodes_error _ _
  all_goals exact reEncodes_ok (packSI_eq_iff.2 (by simp_all [fld_eq_append_iff (n := 3) (m := 6)]))

theorem reEncodes_SL {w : W32} {m : BitVec 6} (hm : fld w 25 6 = m)
    (h : m = 11#6 ∨ m = 12#6) :
    ReEncodes w (decodeRaw w) := by
  rcases h with rfl | rfl <;> rw [decodeRaw_eq_of_major hm rfl]
  all_goals simp only [decMaj0B, decMaj0C]
  all_goals exact reEncodes_ok (packSL_eq_iff.2 (by simp_all))

theorem reEncodes_SM {w : W32} {m : BitVec 6} (hm : fld w 25 6 = m)
    (h : m = 13#6 ∨ m = 14#6 ∨ m = 15#6 ∨ m = 16#6 ∨ m = 18#6) :
    ReEncodes w (decodeRaw w) := by
  rcases h with rfl | rfl | rfl | rfl | rfl <;> rw [decodeRaw_eq_of_major hm rfl]
  all_goals simp only [decMaj0D, decMaj0E, decMaj0F, decMaj10, decMaj12]
  all_goals exact reEncodes_ok (packSM_eq_iff.2 (by simp_all))

theorem reEncodes_BR {w : W32} {m : BitVec 6} (hm : fld w 25 6 = m)
    (h : m = 20#6 ∨ m = 24#6) :
    ReEncodes w (decodeRaw w) := by
  rcases h with rfl | rfl <;> rw [decodeRaw_eq_of_major hm rfl]
  all_goals simp only [decMaj14, decMaj18]
  all_goals repeat' refine reEncodes_ite (fun _ => ?_) ?_
  any_goals exact reEncodes_error _ _
  all_goals exact reEncodes_ok (packBR_eq_iff.2 (by simp_all))

theorem reEncodes_JL {w : W32} {m : BitVec 6} (hm : fld w 25 6 = m)
    (h : m = 21#6 ∨ m = 22#6 ∨ m = 26#6) :
    ReEncodes w (decodeRaw w) := by
  rcases h with rfl | rfl | rfl <;> rw [decodeRaw_eq_of_major hm rfl]
  all_goals simp only [decMaj15, decMaj16, decMaj1A]
  all_goals repeat' refine reEncodes_ite (fun _ => ?_) ?_
  any_goals exact reEncodes_error _ _
  all_goals exact reEncodes_ok (packJL_eq_iff.2 (by simp_all))

theorem reEncodes_BV {w : W32} (hm : fld w 25 6 = 25#6) : ReEncodes w (decodeRaw w) := by
  rw [decodeRaw_eq_of_major hm rfl]
  simp only [decMaj19]
  repeat' refine reEncodes_ite (fun _ => ?_) ?_
  any_goals exact reEncodes_error _ _
  all_goals exact reEncodes_ok (packBV_eq_iff.2 (by simp_all))

theorem reEncodes_RP {w : W32} (hm : fld w 25 6 = 27#6) : ReEncodes w (decodeRaw w) := by
  rw [decodeRaw_eq_of_major hm rfl]
  simp only [decMaj1B]
  repeat' refine reEncodes_ite (fun _ => ?_) ?_
  any_goals exact reEncodes_error _ _
  all_goals exact reEncodes_ok (packRP_eq_iff.2 (by simp_all))

theorem reEncodes_MX {w : W32} {m : BitVec 6} (hm : fld w 25 6 = m)
    (h : m = 28#6 ∨ m = 29#6) :
    ReEncodes w (decodeRaw w) := by
  rcases h with rfl | rfl <;> rw [decodeRaw_eq_of_major hm rfl]
  all_goals simp only [decMaj1C, decMaj1D]
  all_goals repeat' refine reEncodes_ite (fun _ => ?_) ?_
  any_goals exact reEncodes_error _ _
  all_goals exact reEncodes_ok (packMX_eq_iff.2 (by simp_all [fld_eq_append_iff (n := 2) (m := 3), fld_eq_iff_parts (n := 2) (m := 3)]))

theorem reEncodes_VS {w : W32} {m : BitVec 6} (hm : fld w 25 6 = m)
    (h : m = 30#6 ∨ m = 45#6) :
    ReEncodes w (decodeRaw w) := by
  rcases h with rfl | rfl <;> rw [decodeRaw_eq_of_major hm rfl]
  all_goals simp only [decMaj1E, decMaj2D]
  all_goals repeat' refine reEncodes_ite (fun _ => ?_) ?_
  any_goals exact reEncodes_error _ _
  all_goals exact reEncodes_ok (packVS_eq_iff.2 (by simp_all))

theorem reEncodes_AS {w : W32} {m : BitVec 6} (hm : fld w 25 6 = m)
    (h : m = 31#6 ∨ m = 60#6 ∨ m = 61#6) :
    ReEncodes w (decodeRaw w) := by
  rcases h with rfl | rfl | rfl <;> rw [decodeRaw_eq_of_major hm rfl]
  all_goals simp only [decMaj1F, decMaj3C, decMaj3D]
  all_goals repeat' refine reEncodes_ite (fun _ => ?_) ?_
  any_goals exact reEncodes_error _ _
  all_goals exact reEncodes_ok (packAS_eq_iff.2 (by simp_all [fld_eq_append_iff (n := 1) (m := 1)]))

theorem reEncodes_VR_float {w : W32} {m : BitVec 6} (hm : fld w 25 6 = m)
    (h : m = 32#6 ∨ m = 33#6 ∨ m = 34#6) :
    ReEncodes w (decodeRaw w) := by
  rcases h with rfl | rfl | rfl <;> rw [decodeRaw_eq_of_major hm rfl]
  all_goals simp only [decMaj20, decMaj21, decMaj22]
  all_goals repeat' refine reEncodes_ite (fun _ => ?_) ?_
  any_goals exact reEncodes_error _ _
  all_goals exact reEncodes_ok (packVR_eq_iff.2 (by simp_all [fld_eq_append_iff (n := 3) (m := 3), fld_eq_append_iff (n := 1) (m := 3)]))

theorem reEncodes_VR_integer {w : W32} {m : BitVec 6} (hm : fld w 25 6 = m)
    (h : m = 35#6 ∨ m = 36#6 ∨ m = 37#6) :
    ReEncodes w (decodeRaw w) := by
  rcases h with rfl | rfl | rfl <;> rw [decodeRaw_eq_of_major hm rfl]
  all_goals simp only [decMaj23, decMaj24, decMaj25]
  all_goals repeat' refine reEncodes_ite (fun _ => ?_) ?_
  any_goals exact reEncodes_error _ _
  all_goals exact reEncodes_ok (packVR_eq_iff.2 (by simp_all))

theorem reEncodes_VR_other {w : W32} {m : BitVec 6} (hm : fld w 25 6 = m)
    (h : m = 38#6 ∨ m = 40#6 ∨ m = 41#6 ∨ m = 42#6 ∨ m = 43#6) :
    ReEncodes w (decodeRaw w) := by
  rcases h with rfl | rfl | rfl | rfl | rfl <;> rw [decodeRaw_eq_of_major hm rfl]
  all_goals simp only [decMaj26, decMaj28, decMaj29, decMaj2A, decMaj2B]
  all_goals repeat' refine reEncodes_ite (fun _ => ?_) ?_
  any_goals exact reEncodes_error _ _
  all_goals exact reEncodes_ok (packVR_eq_iff.2 (by simp_all [fld_eq_append_iff (n := 1) (m := 3), fld_eq_append_bits_iff]))

theorem reEncodes_VP {w : W32} (hm : fld w 25 6 = 39#6) : ReEncodes w (decodeRaw w) := by
  rw [decodeRaw_eq_of_major hm rfl]
  simp only [decMaj27]
  exact reEncodes_ok (packVP_eq_iff.2 (by simp_all))

theorem reEncodes_VX {w : W32} (hm : fld w 25 6 = 44#6) : ReEncodes w (decodeRaw w) := by
  rw [decodeRaw_eq_of_major hm rfl]
  simp only [decMaj2C]
  repeat' refine reEncodes_ite (fun _ => ?_) ?_
  any_goals exact reEncodes_error _ _
  all_goals exact reEncodes_ok (packVX_eq_iff.2 (by simp_all))

theorem reEncodes_VL {w : W32} (hm : fld w 25 6 = 46#6) : ReEncodes w (decodeRaw w) := by
  rw [decodeRaw_eq_of_major hm rfl]
  simp only [decMaj2E]
  repeat' refine reEncodes_ite (fun _ => ?_) ?_
  any_goals exact reEncodes_error _ _
  all_goals exact reEncodes_ok (packVL_eq_iff.2 (by simp_all))

theorem reEncodes_VI {w : W32} (hm : fld w 25 6 = 47#6) : ReEncodes w (decodeRaw w) := by
  rw [decodeRaw_eq_of_major hm rfl]
  simp only [decMaj2F]
  exact reEncodes_ok (packVI_eq_iff.2 (by simp_all))

theorem reEncodes_PL {w : W32} (hm : fld w 25 6 = 48#6) : ReEncodes w (decodeRaw w) := by
  rw [decodeRaw_eq_of_major hm rfl]
  simp only [decMaj30]
  repeat' refine reEncodes_ite (fun _ => ?_) ?_
  any_goals exact reEncodes_error _ _
  all_goals exact reEncodes_ok (packPL_eq_iff.2 (by simp_all))

theorem reEncodes_M {w : W32} {m : BitVec 6} (hm : fld w 25 6 = m)
    (h : m = 49#6 ∨ m = 50#6) :
    ReEncodes w (decodeRaw w) := by
  rcases h with rfl | rfl <;> rw [decodeRaw_eq_of_major hm rfl]
  all_goals simp only [decMaj31, decMaj32]
  all_goals exact reEncodes_ok (packM_eq_iff.2 (by simp_all))

theorem reEncodes_MO {w : W32} {m : BitVec 6} (hm : fld w 25 6 = m)
    (h : m = 51#6 ∨ m = 52#6) :
    ReEncodes w (decodeRaw w) := by
  rcases h with rfl | rfl <;> rw [decodeRaw_eq_of_major hm rfl]
  all_goals simp only [decMaj33, decMaj34]
  all_goals exact reEncodes_ok (packMO_eq_iff.2 (by simp_all))

theorem reEncodes_MB {w : W32} {m : BitVec 6} (hm : fld w 25 6 = m)
    (h : m = 53#6 ∨ m = 54#6) :
    ReEncodes w (decodeRaw w) := by
  rcases h with rfl | rfl <;> rw [decodeRaw_eq_of_major hm rfl]
  all_goals simp only [decMaj35, decMaj36]
  all_goals exact reEncodes_ok (packMB_eq_iff.2 (by simp_all))

theorem reEncodes_MA {w : W32} {m : BitVec 6} (hm : fld w 25 6 = m)
    (h : m = 55#6 ∨ m = 56#6) :
    ReEncodes w (decodeRaw w) := by
  rcases h with rfl | rfl <;> rw [decodeRaw_eq_of_major hm rfl]
  all_goals simp only [decMaj37, decMaj38]
  all_goals exact reEncodes_ok (packMA_eq_iff.2 (by simp_all))

theorem reEncodes_F {w : W32} (hm : fld w 25 6 = 57#6) : ReEncodes w (decodeRaw w) := by
  rw [decodeRaw_eq_of_major hm rfl]
  simp only [decMaj39]
  repeat' refine reEncodes_ite (fun _ => ?_) ?_
  any_goals exact reEncodes_error _ _
  all_goals exact reEncodes_ok (packF_eq_iff.2 (by simp_all))

/-- What the decoder answers for a word has the word as its encoding. -/
theorem reEncodes_decodeRaw (w : W32) : ReEncodes w (decodeRaw w) := by
  rcases major_format (fld w 25 6) with h | h | h | h | h | h | h | h | h | h | h | h | h | h | h | h | h | h | h | h | h | h | h | h | h | h
  · rw [decodeRaw_reserved h]
    exact reEncodes_error _ _
  · exact reEncodes_Y rfl h
  · exact reEncodes_SR rfl h
  · exact reEncodes_SI rfl h
  · exact reEncodes_SL rfl h
  · exact reEncodes_SM rfl h
  · exact reEncodes_BR rfl h
  · exact reEncodes_JL rfl h
  · exact reEncodes_BV h
  · exact reEncodes_RP h
  · exact reEncodes_MX rfl h
  · exact reEncodes_VS rfl h
  · exact reEncodes_AS rfl h
  · exact reEncodes_VR_float rfl h
  · exact reEncodes_VR_integer rfl h
  · exact reEncodes_VR_other rfl h
  · exact reEncodes_VP h
  · exact reEncodes_VX h
  · exact reEncodes_VL h
  · exact reEncodes_VI h
  · exact reEncodes_PL h
  · exact reEncodes_M rfl h
  · exact reEncodes_MO rfl h
  · exact reEncodes_MB rfl h
  · exact reEncodes_MA rfl h
  · exact reEncodes_F h

/-! ## From instructions to words and back -/

/-- Every word of an instruction decodes to it, and holds the chain bit it was given. -/
def Decodes (i : Instr) : Prop :=
  ∀ c w, encodeBits c i = w → decodeRaw w = .ok i ∧ fld w 31 1 = c

/-- It is enough that a word with the instruction's fields (P) decodes to it. -/
theorem decodes_of_fields {i : Instr} {maj : BitVec 6} {dec : W32 → Except DecodeError Instr} {P : W32 → Prop}
    (hw : ∀ c w, encodeBits c i = w ↔ fld w 31 1 = c ∧ fld w 25 6 = maj ∧ P w)
    (hm : decoders[maj.toNat]? = some dec) (hd : ∀ w, P w → dec w = .ok i) : Decodes i := by
  intro c w h
  obtain ⟨hc, hf, hP⟩ := (hw c w).1 h
  exact ⟨(decodeRaw_eq_of_major hf hm).trans (hd w hP), hc⟩

/-- The steps of the part, by major opcode: an event has the reserved word, every other step is decoded from its words. -/
theorem encodesReserved_or_decodes (i : Instr) : (∀ c, encodeBits c i = 0x7C000000#32) ∨ Decodes i := by
  cases i with
  | nop | exit | yield | trap | tret | srd | swr | segld | segrd | abort =>
    exact Or.inr (decodes_of_fields (fun _ _ => packY_eq_iff) rfl fun w h => by
      simp_all [decMaj00, fld_eq_append_iff (n := 7) (m := 3)])
  | rgnOff | rgnMark =>
    exact Or.inr (decodes_of_fields (fun _ _ => packY_eq_iff) rfl fun w h => by
      simp [decMaj3B, h])
  | sadd | ssub | sand | sor | sxor | sshl | sshr | ssra | smul | smulh | smulhn | smin | smax | sminn | smaxn | ssel | sdiv | sdivn | srem | sremn
  | spopc | sclz | sctz | sbrev | scmp | sscD | jr | cmoClean | cmoInv | cmoClinv | cmoPref =>
    exact Or.inr (decodes_of_fields (fun _ _ => packSR_eq_iff) rfl fun w h => by
      simp [decMaj01, decMaj02, decMaj03, decMaj04, decMaj13, decMaj17, decMaj3A, h])
  | sfadd | sfsub | sfmul | sfdiv | sfmin | sfmax | scvtf | scvti =>
    exact Or.inr (decodes_of_fields (fun _ _ => packSR_eq_iff) rfl fun w h => by
      simp_all [decMaj11, fld_eq_append_iff (n := 3) (m := 3)])
  | saddi | sandi | sori | sxori =>
    exact Or.inr (decodes_of_fields (fun _ _ => packSI_eq_iff) rfl fun w h => by
      simp [decMaj05, decMaj06, decMaj07, decMaj08, h])
  | sshli | sshri | ssrai | srori | scmpi =>
    exact Or.inr (decodes_of_fields (fun _ _ => packSI_eq_iff) rfl fun w h => by
      simp_all [decMaj09, decMaj0A, fld_eq_append_iff (n := 3) (m := 6)])
  | sli | shin =>
    exact Or.inr (decodes_of_fields (fun _ _ => packSL_eq_iff) rfl fun w h => by
      simp [decMaj0B, decMaj0C, h])
  | sldD | sldW | sstD | sstW | slrD =>
    exact Or.inr (decodes_of_fields (fun _ _ => packSM_eq_iff) rfl fun w h => by
      simp [decMaj0D, decMaj0E, decMaj0F, decMaj10, decMaj12, h])
  | bCnd | loop =>
    exact Or.inr (decodes_of_fields (fun _ _ => packBR_eq_iff) rfl fun w h => by
      simp [decMaj14, decMaj18, h])
  | j | call | jset =>
    exact Or.inr (decodes_of_fields (fun _ _ => packJL_eq_iff) rfl fun w h => by
      simp [decMaj15, decMaj16, decMaj1A, h])
  | brvSplit | brvAll | brvNone | brvQsplit | brvUni =>
    exact Or.inr (decodes_of_fields (fun _ _ => packBV_eq_iff) rfl fun w h => by
      simp [decMaj19, h])
  | rep =>
    exact Or.inr (decodes_of_fields (fun _ _ => packRP_eq_iff) rfl fun w h => by
      simp [decMaj1B, h])
  | mma =>
    exact Or.inr (decodes_of_fields (fun _ _ => packMX_eq_iff) rfl fun w h => by
      simp_all [decMaj1C, fld_eq_append_iff (n := 2) (m := 3)])
  | tld | tst | tzero | mbatch | mwait =>
    exact Or.inr (decodes_of_fields (fun _ _ => packMX_eq_iff) rfl fun w h => by
      simp_all [decMaj1D, fld_eq_iff_parts (n := 2) (m := 3)])
  | rayq | rayqAny | visq | emit | vaddsF64 | vmulsF64 | vfmasF64 | vbcst =>
    exact Or.inr (decodes_of_fields (fun _ _ => packVS_eq_iff) rfl fun w h => by
      simp [decMaj1E, decMaj2D, h])
  | vacqW | vacqP | vrel | xbind | xunb | launch | sigadd | sigset =>
    exact Or.inr (decodes_of_fields (fun _ _ => packAS_eq_iff) rfl fun w h => by
      simp [decMaj1F, h])
  | tcopyLd | tcopySt | tcopyPl | bcopy | bfill | ratom | coll | scopy | binit | barr | bexp | bwait | btry | ctry | barPly | barSkn =>
    exact Or.inr (decodes_of_fields (fun _ _ => packAS_eq_iff) rfl fun w h => by
      simp_all [decMaj3C, decMaj3D, fld_eq_append_iff (n := 1) (m := 1)])
  | vaddF64 | vsubF64 | vmulF64 | vfmaF64 | vfmsF64 | vfnmaF64 | vminF64 | vmaxF64 | vdivF64 | vsqrtF64 | vabsF64 | vnegF64 | vsubnF64 | vclassF64 |
  vcpsgnF64 | vrintF64 =>
    exact Or.inr (decodes_of_fields (fun _ _ => packVR_eq_iff) rfl fun w h => by
      simp_all [decMaj20, fld_eq_append_iff (n := 3) (m := 3)])
  | vaddF32x2 | vsubF32x2 | vmulF32x2 | vfmaF32x2 | vfmsF32x2 | vfnmaF32x2 | vminF32x2 | vmaxF32x2 | vdivF32x2 | vsqrtF32x2 | vabsF32x2 | vnegF32x2
  | vclassF32x2 | vcpsgnF32x2 | vrintF32x2 =>
    exact Or.inr (decodes_of_fields (fun _ _ => packVR_eq_iff) rfl fun w h => by
      simp_all [decMaj21, fld_eq_append_iff (n := 3) (m := 3)])
  | vf16Add | vf16Sub | vf16Mul | vf16Fma | vf16Min | vf16Max | vf16Abs | vf16Neg =>
    exact Or.inr (decodes_of_fields (fun _ _ => packVR_eq_iff) rfl fun w h => by
      simp_all [decMaj22, fld_eq_append_iff (n := 1) (m := 3)])
  | vaddI32x2 | vsubI32x2 | vmulI32x2 | vmulhI32x2 | vmulhnI32x2 | vminI32x2 | vmaxI32x2 | vminnI32x2 | vmaxnI32x2 | vabsI32x2 | vnegI32x2 |
  vaddsatI32x2 | vsubsatI32x2 | vaddsatnI32x2 | vsubsatnI32x2 =>
    exact Or.inr (decodes_of_fields (fun _ _ => packVR_eq_iff) rfl fun w h => by
      simp [decMaj23, h])
  | vaddI64 | vsubI64 | vmulI64 | vmulhI64 | vmulhnI64 | vminI64 | vmaxI64 | vminnI64 | vmaxnI64 | vdivI64 | vdivnI64 | vremI64 | vremnI64 | vabsI64
  | vnegI64 =>
    exact Or.inr (decodes_of_fields (fun _ _ => packVR_eq_iff) rfl fun w h => by
      simp [decMaj24, h])
  | vand | vor | vxor | vandn | vnot | vshl | vshr | vsra | vrotl | vshl32x2 | vshr32x2 | vsra32x2 | vpopc | vclz | vbrev | vbfx =>
    exact Or.inr (decodes_of_fields (fun _ _ => packVR_eq_iff) rfl fun w h => by
      simp [decMaj25, h])
  | vmov | vsel | vpk32 | vhi32 | vlo32 | vid | vqid =>
    exact Or.inr (decodes_of_fields (fun _ _ => packVR_eq_iff) rfl fun w h => by
      simp [decMaj26, h])
  | vcvt =>
    exact Or.inr (decodes_of_fields (fun _ _ => packVR_eq_iff) rfl fun w h => by
      simp_all [decMaj28, fld_eq_append_iff (n := 1) (m := 3)])
  | vdot4I8 | vdot8I4 =>
    exact Or.inr (decodes_of_fields (fun _ _ => packVR_eq_iff) rfl fun w h => by
      simp_all [decMaj29, fld_eq_append_bits_iff])
  | vrcpF32x2 | vrsqF32x2 | vexp2F32x2 | vlog2F32x2 | vsinF32x2 | vcosF32x2 | vtanhF32x2 | vrcpF64a | vrsqF64a =>
    exact Or.inr (decodes_of_fields (fun _ _ => packVR_eq_iff) rfl fun w h => by
      simp [decMaj2A, h])
  | vshflIdx | vshflUp | vshflDn | vshflXor | vqswapH | vqswapV | vqswapD | vqbc | vqdxF32x2 | vqdyF32x2 | vqdxF64 | vqdyF64 | vscanAddI64 |
  vscanAddF64 =>
    exact Or.inr (decodes_of_fields (fun _ _ => packVR_eq_iff) rfl fun w h => by
      simp [decMaj2B, h])
  | vcmp =>
    exact Or.inr (decodes_of_fields (fun _ _ => packVP_eq_iff) rfl fun w h => by
      simp [decMaj27, h])
  | vredAddI64 | vredAddF64 | vredMinI64 | vredMaxI64 | vredMinnN64 | vredMaxnN64 | vredMinF64 | vredMaxF64 | vredAnd | vredOr | vredXor | vballot |
  vany | vall | vfirst =>
    exact Or.inr (decodes_of_fields (fun _ _ => packVX_eq_iff) rfl fun w h => by
      simp [decMaj2C, h])
  | vget | vput =>
    exact Or.inr (decodes_of_fields (fun _ _ => packVL_eq_iff) rfl fun w h => by
      simp [decMaj2E, h])
  | vmovi =>
    exact Or.inr (decodes_of_fields (fun _ _ => packVI_eq_iff) rfl fun w h => by
      simp [decMaj2F, h])
  | pand | por | pxor | pandn | pnot | pmov | pfroms =>
    exact Or.inr (decodes_of_fields (fun _ _ => packPL_eq_iff) rfl fun w h => by
      simp [decMaj30, h])
  | ld | st =>
    exact Or.inr (decodes_of_fields (fun _ _ => packM_eq_iff) rfl fun w h => by
      simp [decMaj31, decMaj32, h])
  | ldAcq | stRel =>
    exact Or.inr (decodes_of_fields (fun _ _ => packMO_eq_iff) rfl fun w h => by
      simp [decMaj33, decMaj34, h])
  | ldb | stb =>
    exact Or.inr (decodes_of_fields (fun _ _ => packMB_eq_iff) rfl fun w h => by
      simp [decMaj35, decMaj36, h])
  | atom | red =>
    exact Or.inr (decodes_of_fields (fun _ _ => packMA_eq_iff) rfl fun w h => by
      simp [decMaj37, decMaj38, h])
  | fenceAcq | fenceRel | fenceAr =>
    exact Or.inr (decodes_of_fields (fun _ _ => packF_eq_iff) rfl fun w h => by
      simp [decMaj39, h])
  | _ => exact Or.inl fun _ => rfl

theorem decodes_of_not_isEvent {i : Instr} (h : isEvent i = false) : Decodes i := by
  rcases encodesReserved_or_decodes i with hr | hd
  · rw [isEvent, encode, hr] at h
    exact absurd h (by decide)
  · exact hd

theorem not_isEvent_of_decodeRaw {w : W32} {i : Instr} (h : decodeRaw w = .ok i) : isEvent i = false := by
  rcases encodesReserved_or_decodes i with hr | hd
  · have hw := reEncodes_decodeRaw w i h
    rw [hr] at hw
    rw [← hw, decodeRaw_reserved (by decide)] at h
    cases h
  · by_contra he
    have hm : majorOf (encode false i) = 62 := by simpa [isEvent] using he
    have hi := (hd _ _ (rfl : _ = encode false i)).1
    rw [decodeRaw_reserved (Nat.le_of_eq hm.symm)] at hi
    cases hi

/-! ## The chain bit and the reserved codes -/

theorem decodeWord_eq_ok_iff {w : W32} {c : Bool} {i : Instr} :
    decodeWord w = .ok (c, i) ↔ decodeRaw w = .ok i ∧ i.wellFormed = true ∧ (fld w 31 1 == 1#1) = c := by
  unfold decodeWord
  cases decodeRaw w with
  | error e => simp
  | ok j =>
    by_cases hj : j.wellFormed = true
    · simp only [hj, if_true, Except.ok.injEq, Prod.mk.injEq]
      constructor
      · rintro ⟨hc, rfl⟩
        exact ⟨rfl, hj, hc⟩
      · rintro ⟨rfl, -, hc⟩
        exact ⟨hc, rfl⟩
    · constructor
      · intro h
        simp [hj] at h
      · rintro ⟨⟨⟩, hi, -⟩
        exact absurd hi hj

theorem chainBit_eq_iff (b : BitVec 1) (c : Bool) : (b == 1#1) = c ↔ (if c then 1#1 else 0#1) = b := by
  revert b c
  decide

/-- Settles O1: the word of an instruction has the fields that its decoder tests, and what a decoder answers is packed from the
fields of its word. -/
theorem encodeDecode : Obligations.EncodeDecode := by
  unfold Obligations.EncodeDecode
  constructor
  · intro c i hwf hev
    obtain ⟨hi, hc⟩ := decodes_of_not_isEvent hev _ _ (rfl : _ = encode c i)
    exact decodeWord_eq_ok_iff.2 ⟨hi, hwf, (chainBit_eq_iff _ _).2 hc.symm⟩
  · intro w c i h
    obtain ⟨hi, hwf, hc⟩ := decodeWord_eq_ok_iff.1 h
    refine ⟨hwf, not_isEvent_of_decodeRaw hi, ?_⟩
    rw [encode, (chainBit_eq_iff _ _).1 hc]
    exact reEncodes_decodeRaw w i hi

end Sys2Proof
end

section
/-! PROOF. What every operation on memory keeps: the canonical form of the memories, the agreement of clean sectors with HBM, and the
numbering of log entries. Two relations between the state before and after say so, and both compose. -/
namespace Sys2Proof.Machine

/-! ## Tables and memories -/

theorem Tab.get_del {α : Type} (d : α) (k i : Nat) (t : Tab α) : Tab.get d (Tab.del k t) i = if i = k then d else Tab.get d t i := by
  by_cases h : i = k <;> simp [Tab.get, Tab.find_del, h]

theorem Tab.find_map {α β : Type} (F : Nat × α → β) (i : Nat) (t : Tab α) :
    Tab.find i (t.map (fun e => (e.1, F e))) = (Tab.find i t).map (fun v => F (i, v)) := by
  induction t with
  | nil => rfl
  | cons e t ih =>
    obtain ⟨j, v⟩ := e
    by_cases h : j = i
    · subst h
      simp [Tab.find]
    · simp [Tab.find, h, ih]

/-- What a map leaves of every entry reads as before. -/
theorem Tab.proj_get_map {α γ : Type} (g : α → γ) {F : Nat × α → α} (h : ∀ e, g (F e) = g e.2) (d : α) (t : Tab α) (i : Nat) :
    g (Tab.get d (t.map (fun e => (e.1, F e))) i) = g (Tab.get d t i) := by
  unfold Tab.get
  rw [Tab.find_map]
  cases Tab.find i t with
  | none => rfl
  | some v => exact h (i, v)

theorem Mem.getD_read (m : Mem) (n : Nat) : ∀ a i, i < n → (Mem.read m a n).getD i 0 = Mem.byte m (a + i) := by
  induction n with
  | zero => intro a i h; exact absurd h (Nat.not_lt_zero i)
  | succ n ih =>
    intro a i h
    cases i with
    | zero => simp [Mem.read]
    | succ i =>
      have := ih (a + 1) i (by omega)
      simpa [Mem.read, Nat.add_assoc, Nat.add_comm 1] using this

/-- A sector copied from one memory into another. -/
theorem Mem.byte_copySector (m n : Mem) (sec a : Nat) :
    Mem.byte (Mem.write m (sec * 128) (Mem.read n (sec * 128) 128)) a = if a / 128 = sec then Mem.byte n a else Mem.byte m a := by
  rw [Mem.byte_write, Mem.read_length]
  by_cases h : a / 128 = sec
  · rw [if_pos (by omega), if_pos h, Mem.getD_read _ _ _ _ (by omega)]
    congr 1
    omega
  · rw [if_neg (by omega), if_neg h]

theorem Memory.wf_mergeCells (base : Nat) (c : Tab (Byte × Byte)) : ∀ m : Mem, Memory.wf m = true → Memory.wf (mergeCells m base c) = true := by
  induction c with
  | nil => intro m h; exact h
  | cons e c ih => intro m h; exact ih _ (Memory.wf_put _ _ _ h)

theorem Mem.byte_mergeCells_outside (base a : Nat) (c : Tab (Byte × Byte)) (h : ∀ e ∈ c, a ≠ base + e.1) :
    ∀ m : Mem, Mem.byte (mergeCells m base c) a = Mem.byte m a := by
  induction c with
  | nil => intro m; rfl
  | cons e c ih =>
    intro m
    have hc : Mem.byte (mergeCells m base (e :: c)) a = _ := ih (fun x hx => h x (List.mem_cons_of_mem _ hx)) _
    rw [hc, Mem.byte_put, if_neg (h e List.mem_cons_self)]

/-! ## The two relations -/

/-- Every memory of the state is canonical. -/
def Canonical (s : State) : Prop :=
  Memory.wf s.home = true ∧ Memory.wf s.hbm = true ∧ Memory.wf s.ws = true ∧
    ∀ p, Memory.wf (s.ply p).scratch = true ∧ Memory.wf (s.ply p).tiles = true

/-- The numbers of the entries of a core's log. -/
def logSerials (s : State) (c : Nat) : List Nat := (s.core c).log.map (fun e => e.serial)

/-- The home of a sector holds bytes that HBM may not hold. -/
def dirtyAt (s : State) (sec : Nat) : Bool := (Tab.get {} s.l2 sec).dirty

/-- A sector, unless it is dirty, reads at its home as in HBM. -/
def SectorAgrees (s : State) (sec : Nat) : Prop :=
  dirtyAt s sec = false → ∀ a, a / 128 = sec → Mem.byte s.home a = Mem.byte s.hbm a

theorem homesAgree_iff (s : State) : HomesAgree s ↔ ∀ sec, SectorAgrees s sec := by
  constructor
  · rintro h sec hd a rfl
    exact h a hd
  · intro h a hd
    exact h (a / 128) hd a rfl

/-- Canonical memories stay canonical, and logs take no new numbers. -/
structure FormKept (s t : State) : Prop where
  home : Memory.wf s.home = true → Memory.wf t.home = true
  hbm : Memory.wf s.hbm = true → Memory.wf t.hbm = true
  ws : Memory.wf s.ws = true → Memory.wf t.ws = true
  scratch : ∀ p, Memory.wf (s.ply p).scratch = true → Memory.wf (t.ply p).scratch = true
  tiles : ∀ p, Memory.wf (s.ply p).tiles = true → Memory.wf (t.ply p).tiles = true
  fresh : s.fresh ≤ t.fresh
  serials : ∀ c, (logSerials t c).Sublist (logSerials s c)

/-- Beyond that, clean sectors stay clean, and sectors that agree with HBM go on agreeing. -/
structure HomesKept (s t : State) : Prop extends FormKept s t where
  clean : ∀ sec, dirtyAt s sec = false → dirtyAt t sec = false
  agrees : ∀ sec, SectorAgrees s sec → SectorAgrees t sec

theorem FormKept.canonical {s t : State} (h : FormKept s t) (hs : Canonical s) : Canonical t := by
  obtain ⟨hhome, hhbm, hws, hply⟩ := hs
  exact ⟨h.home hhome, h.hbm hhbm, h.ws hws, fun p => ⟨h.scratch p (hply p).1, h.tiles p (hply p).2⟩⟩

theorem FormKept.logNumbered {s t : State} (h : FormKept s t) (hs : LogNumbered s) : LogNumbered t := by
  intro c
  obtain ⟨hnodup, hlt⟩ := hs c
  refine ⟨(h.serials c).nodup hnodup, fun e he => ?_⟩
  obtain ⟨g, hg, hge⟩ := List.mem_map.1 ((h.serials c).subset (List.mem_map_of_mem he))
  have hgs := hlt g hg
  have hfresh := h.fresh
  omega

theorem HomesKept.homesAgree {s t : State} (h : HomesKept s t) (hs : HomesAgree s) : HomesAgree t :=
  (homesAgree_iff t).2 fun sec => h.agrees sec ((homesAgree_iff s).1 hs sec)

theorem FormKept.refl (s : State) : FormKept s s := ⟨id, id, id, fun _ => id, fun _ => id, Nat.le_refl _, fun _ => List.Sublist.refl _⟩

theorem FormKept.trans {s t u : State} (h : FormKept s t) (k : FormKept t u) : FormKept s u where
  home := k.home ∘ h.home
  hbm := k.hbm ∘ h.hbm
  ws := k.ws ∘ h.ws
  scratch p := k.scratch p ∘ h.scratch p
  tiles p := k.tiles p ∘ h.tiles p
  fresh := Nat.le_trans h.fresh k.fresh
  serials c := (k.serials c).trans (h.serials c)

theorem FormKept.foldl {α : Type} {f : State → α → State} (h : ∀ s x, FormKept s (f s x)) (l : List α) :
    ∀ s, FormKept s (l.foldl f s) := by
  induction l with
  | nil => exact FormKept.refl
  | cons x l ih => exact fun s => (h s x).trans (ih _)

theorem HomesKept.refl (s : State) : HomesKept s s := ⟨FormKept.refl s, fun _ => id, fun _ => id⟩

theorem HomesKept.trans {s t u : State} (h : HomesKept s t) (k : HomesKept t u) : HomesKept s u :=
  ⟨h.toFormKept.trans k.toFormKept, fun sec => k.clean sec ∘ h.clean sec, fun sec => k.agrees sec ∘ h.agrees sec⟩

theorem HomesKept.foldl {α : Type} {f : State → α → State} (h : ∀ s x, HomesKept s (f s x)) (l : List α) :
    ∀ s, HomesKept s (l.foldl f s) := by
  induction l with
  | nil => exact HomesKept.refl
  | cons x l ih => exact fun s => (h s x).trans (ih _)

/-! ## Updates of other parts of the state -/

/-- The parts of the state that the invariants speak of. -/
def State.kept (s : State) : Mem × Mem × Tab L2Sector × Mem × Tab Ply × Tab Core × Nat :=
  (s.home, s.hbm, s.l2, s.ws, s.plies, s.cores, s.fresh)

theorem HomesKept.of_kept {s t : State} (h : t.kept = s.kept := by rfl) : HomesKept s t := by
  simp only [State.kept, Prod.mk.injEq] at h
  obtain ⟨hhome, hhbm, hl2, hws, hplies, hcores, hfresh⟩ := h
  constructor
  · constructor <;> simp [hhome, hhbm, hws, hfresh, State.ply, hplies, logSerials, State.core, hcores]
  · simp [dirtyAt, hl2]
  · simp [SectorAgrees, dirtyAt, hl2, hhome, hhbm]

theorem FormKept.of_kept {s t : State} (h : t.kept = s.kept := by rfl) : FormKept s t := (HomesKept.of_kept h).toFormKept

@[simp] theorem kept_modPf0 (s : State) (f : Pf0 → Pf0) : (s.modPf0 f).kept = s.kept := rfl
@[simp] theorem kept_modPlat (s : State) (f : Platform → Platform) : (s.modPlat f).kept = s.kept := rfl
@[simp] theorem kept_modDie (s : State) (d : Nat) (f : Die → Die) : (s.modDie d f).kept = s.kept := rfl
@[simp] theorem kept_modBay (s : State) (b : Nat) (f : Bay → Bay) : (s.modBay b f).kept = s.kept := rfl
@[simp] theorem kept_modVdev (s : State) (v : Nat) (f : VDev → VDev) : (s.modVdev v f).kept = s.kept := rfl
@[simp] theorem kept_modReel (s : State) (r : Nat) (f : Reel → Reel) : (s.modReel r f).kept = s.kept := rfl
@[simp] theorem kept_send (s : State) (o : Out) : (s.send o).kept = s.kept := rfl
@[simp] theorem kept_urgent (s : State) (e : Instr) : (s.urgent e).kept = s.kept := rfl
@[simp] theorem kept_later (s : State) (e : Instr) : (s.later e).kept = s.kept := by simp [State.kept]
@[simp] theorem kept_fireInjection (s : State) (cls cause : Nat) : (fireInjection s cls cause).kept = s.kept := rfl

@[simp] theorem kept_noteInjection (s : State) (r : ErrRec) (n : Nat) : (noteInjection s r n).kept = s.kept := by
  unfold noteInjection
  split
  · split <;> rfl
  · rfl

@[simp] theorem kept_writePackageRecord (s : State) (r : ErrRec) (about : Option Nat) : (writePackageRecord s r about).kept = s.kept := by
  simp [writePackageRecord]

@[simp] theorem kept_addRemapAt (s : State) (kind die place spare : Nat) (pend : Bool) :
    (addRemapAt s kind die place spare pend).1.kept = s.kept := by
  unfold addRemapAt
  dsimp only
  split <;> rfl

@[simp] theorem kept_addRemap (s : State) (kind die place spare : Nat) : (addRemap s kind die place spare).1.kept = s.kept :=
  kept_addRemapAt s kind die place spare false

@[simp] theorem kept_noteDouble (s : State) (d kind place n : Nat) : (noteDouble s d kind place n).1.kept = s.kept := by
  unfold noteDouble
  dsimp only
  split <;> rfl

@[simp] theorem kept_countFixed (s : State) (d : Nat) : (countFixed s d).kept = s.kept := rfl

@[simp] theorem kept_dropFlips (s : State) (hit : Flip → Bool) : (dropFlips s hit).kept = s.kept := by
  unfold dropFlips
  dsimp only
  split <;> rfl

theorem kept_takeFlip {s t : State} {hit : Flip → Bool} {what : Flip → Nat × Nat} {f : Flip} (h : takeFlip s hit what = some (f, t)) :
    t.kept = s.kept := by
  unfold takeFlip at h
  split at h
  · simp only [Option.some.injEq, Prod.mk.injEq] at h
    rw [← h.2]
    split <;> rfl
  · cases h

@[simp] theorem kept_countHome (s : State) (pa : Nat) : (countHome s pa).kept = s.kept := by
  unfold countHome
  split <;> rfl

@[simp] theorem kept_doubleInRow (s : State) (d kind row : Nat) : (doubleInRow s d kind row).kept = s.kept := by
  unfold doubleInRow
  dsimp only
  generalize (if kind = 4 then Config.hbmSpareRows d else 64) = spares
  split
  · rfl
  · split
    · split
      all_goals
        next t h =>
        have ht := congrArg (fun r => r.1.kept) h
        simpa using ht.symm
    · simp

/-! ## Updates of the tables of plies and cores -/

theorem State.ply_modPly_eq (s : State) (i p : Nat) (f : Ply → Ply) : (s.modPly i f).ply p = if p = i then f (s.ply p) else s.ply p := by
  by_cases h : p = i
  · subst h; simp
  · simp [h, State.ply_modPly_ne]

theorem State.core_modCore_eq (s : State) (i c : Nat) (f : Core → Core) : (s.modCore i f).core c = if c = i then f (s.core c) else s.core c := by
  by_cases h : c = i
  · subst h; simp
  · simp [h, State.core, State.modCore, Tab.get_set]

/-- Plies may change in all but their scratch and tiles. -/
theorem HomesKept.of_plies (s : State) (l : Tab Ply) (hscr : ∀ p, (Tab.get {} l p).scratch = (s.ply p).scratch)
    (htile : ∀ p, (Tab.get {} l p).tiles = (s.ply p).tiles) : HomesKept s { s with plies := l } :=
  ⟨{ FormKept.refl s with
      scratch := fun p h => (congrArg Memory.wf (hscr p)).trans h
      tiles := fun p h => (congrArg Memory.wf (htile p)).trans h }, fun _ => id, fun _ => id⟩

theorem homesKept_mapFrags (s : State) (f : Nat → Nat → Nat → Frag → Frag) : HomesKept s (s.mapFrags f) :=
  .of_plies s _ (Tab.proj_get_map Ply.scratch (by intro _; rfl) {} s.plies) (Tab.proj_get_map Ply.tiles (by intro _; rfl) {} s.plies)

theorem homesKept_loseReservations (s : State) (p : Place) : HomesKept s (loseReservations s p) := homesKept_mapFrags s _

theorem formKept_modPly (s : State) (i : Nat) (f : Ply → Ply)
    (hscr : Memory.wf (s.ply i).scratch = true → Memory.wf (f (s.ply i)).scratch = true)
    (htile : (f (s.ply i)).tiles = (s.ply i).tiles) : FormKept s (s.modPly i f) :=
  { FormKept.refl s with
    scratch := fun p h => by
      rw [State.ply_modPly_eq]
      split
      · next hp => subst hp; exact hscr h
      · exact h
    tiles := fun p h => by
      rw [State.ply_modPly_eq]
      split
      · next hp => subst hp; rw [htile]; exact h
      · exact h }

/-- An update of a ply that leaves its scratch and tiles. -/
theorem formKept_modPly_memory (s : State) (p : Nat) {f : Ply → Ply} (hscr : (f (s.ply p)).scratch = (s.ply p).scratch := by rfl)
    (htile : (f (s.ply p)).tiles = (s.ply p).tiles := by rfl) : FormKept s (s.modPly p f) :=
  formKept_modPly s p f (fun h => (congrArg Memory.wf hscr).trans h) htile

theorem formKept_modCore (s : State) (i : Nat) (f : Core → Core)
    (h : ((f (s.core i)).log.map (fun e => e.serial)).Sublist ((s.core i).log.map (fun e => e.serial))) : FormKept s (s.modCore i f) :=
  { FormKept.refl s with
    serials := fun c => by
      unfold logSerials
      rw [State.core_modCore_eq]
      split
      · next hc => subst hc; exact h
      · exact List.Sublist.refl _ }

/-- An update that leaves the core's log as it is. -/
theorem formKept_modCore_log (s : State) (i : Nat) {f : Core → Core} (h : (f (s.core i)).log = (s.core i).log := by rfl) :
    FormKept s (s.modCore i f) :=
  formKept_modCore s i f (by rw [h])

theorem serials_map {F : LogEntry → LogEntry} (h : ∀ e, (F e).serial = e.serial) (l : List LogEntry) :
    (l.map F).map (fun e => e.serial) = l.map (fun e => e.serial) := by
  simp [h]

/-- An update that maps the core's log without a change of numbers. -/
theorem formKept_modCore_mapLog (s : State) (i : Nat) {f : Core → Core} {F : LogEntry → LogEntry}
    (hf : (f (s.core i)).log = (s.core i).log.map F) (hF : ∀ e, (F e).serial = e.serial) : FormKept s (s.modCore i f) :=
  formKept_modCore s i f (by rw [hf, serials_map hF])

theorem formKept_bump (s : State) : FormKept s s.bump := { FormKept.refl s with fresh := Nat.le_succ _ }

end Sys2Proof.Machine
end

section
/-! PROOF. The home slices (R10, R365, R400): filling, cleaning and dropping sectors keeps every sector's agreement with HBM; a write at a
home breaks it for its own sector only, until that sector is marked dirty or written through. -/
namespace Sys2Proof.Machine

/-! ## The bytes of one memory change -/

theorem formKept_home (s : State) {m : Mem} (h : Memory.wf s.home = true → Memory.wf m = true) : FormKept s { s with home := m } :=
  { FormKept.refl s with home := h }

theorem formKept_hbm (s : State) {m : Mem} (t : Tab Bool) (l : Tab L2Sector) (h : Memory.wf s.hbm = true → Memory.wf m = true) :
    FormKept s { s with hbm := m, hbmPoison := t, l2 := l } :=
  { FormKept.refl s with hbm := h }

/-! ## Sectors leave and enter L2 -/

/-- A step that leaves one sector clean, with the same bytes at its home and in HBM, and every other sector as it was. -/
theorem homesKept_of_sector {s t : State} (sec : Nat) (hform : FormKept s t)
    (hl2 : ∀ x, dirtyAt t x = if x = sec then false else dirtyAt s x)
    (hcopy : ∀ a, a / 128 = sec → Mem.byte t.home a = Mem.byte t.hbm a)
    (hother : ∀ a, a / 128 ≠ sec → Mem.byte t.home a = Mem.byte s.home a ∧ Mem.byte t.hbm a = Mem.byte s.hbm a) : HomesKept s t := by
  refine ⟨hform, fun x hx => by simp [hl2, hx], fun x hx hd a ha => ?_⟩
  by_cases hsec : a / 128 = sec
  · exact hcopy a hsec
  · have hclean : dirtyAt s x = false := by rwa [hl2, if_neg (ha ▸ hsec)] at hd
    rw [(hother a hsec).1, (hother a hsec).2]
    exact hx hclean a ha

theorem homesKept_writeBack (s : State) (sec : Nat) : HomesKept s (writeBack s sec) := by
  unfold writeBack
  split
  · split
    · refine homesKept_of_sector sec (formKept_hbm s _ _ (Memory.wf_write _ _ _)) (fun x => ?_) (fun a ha => ?_) (fun a ha => ⟨rfl, ?_⟩)
      · simp only [dirtyAt, Tab.get_put]
        split <;> rfl
      · simp only [Mem.byte_copySector, if_pos ha]
      · simp only [Mem.byte_copySector, if_neg ha]
    · exact .refl s
  · exact .refl s

theorem homesKept_l2Drop (s : State) (sec : Nat) : HomesKept s (l2Drop s sec) := by
  unfold l2Drop
  split
  · refine homesKept_of_sector sec { FormKept.refl s with home := Memory.wf_write _ _ _ } (fun x => ?_) (fun a ha => ?_)
      (fun a ha => ⟨?_, rfl⟩)
    · simp only [dirtyAt, Tab.get_del]
      split <;> rfl
    · simp only [Mem.byte_copySector, if_pos ha]
    · simp only [Mem.byte_copySector, if_neg ha]
  · exact .refl s

/-- List a sector anew, as dirty or as clean as it was. -/
theorem homesKept_putL2 (s : State) (sec : Nat) (l : L2Sector) (h : l.dirty = dirtyAt s sec) :
    HomesKept s { s with l2 := Tab.put sec l s.l2 } := by
  have hdirty : ∀ x, dirtyAt { s with l2 := Tab.put sec l s.l2 } x = dirtyAt s x := by
    intro x
    simp only [dirtyAt, Tab.get_put]
    split
    · next hx => rw [hx]; exact h
    · rfl
  exact ⟨{ FormKept.refl s with }, fun x hx => (hdirty x).trans hx, fun x hx hd => hx ((hdirty x).symm.trans hd)⟩

/-! ## Errors of a sector, and what they retire (R365, R400) -/

theorem homesKept_detectL2 (s : State) (sec : Nat) : HomesKept s (detectL2 s sec).1 := by
  unfold detectL2
  split
  · exact .refl s
  · split
    · exact .refl s
    · next f t ht =>
      have hst : HomesKept s t := .of_kept (kept_takeFlip ht)
      dsimp only
      split
      · exact hst.trans (.of_kept (kept_countFixed t _))
      · split
        · exact hst.trans .of_kept
        · exact (hst.trans (homesKept_l2Drop t sec)).trans (.of_kept (kept_modDie _ _ _))

theorem homesKept_l2Leave (s : State) (sec : Nat) : HomesKept s (l2Leave s sec) :=
  ((homesKept_detectL2 s sec).trans (homesKept_writeBack _ sec)).trans (homesKept_l2Drop _ sec)

theorem homesKept_retireWay (s : State) (sl way : Nat) : HomesKept s (retireWay s sl way) := by
  unfold retireWay
  dsimp only
  refine (HomesKept.foldl homesKept_l2Leave ((slicePresent s sl).filter (fun e => Config.l2Way e % 32 == way)) s).trans (.of_kept ?_)
  split
  · simp
  · split <;> simp

theorem homesKept_doubleInWay (s : State) (sec : Nat) : HomesKept s (doubleInWay s sec) := by
  unfold doubleInWay
  have hnote := HomesKept.of_kept (kept_noteDouble s (paSlice (sec * 128) / 32) 3 (paSlice (sec * 128) % 32 * 32 + Config.l2Way sec % 32) 4)
  dsimp only
  split
  · exact hnote.trans (homesKept_retireWay _ _ _)
  · exact hnote

/-- The errors of a sector in L2, and what they retire. -/
theorem homesKept_detectL2_doubleInWay (s : State) (sec : Nat) :
    HomesKept s (if (detectL2 s sec).2 then doubleInWay (detectL2 s sec).1 sec else (detectL2 s sec).1) := by
  split
  · exact (homesKept_detectL2 s sec).trans (homesKept_doubleInWay _ sec)
  · exact homesKept_detectL2 s sec

theorem homesKept_l2Clean (s : State) (sec : Nat) : HomesKept s (l2Clean s sec) :=
  (homesKept_detectL2_doubleInWay s sec).trans (homesKept_writeBack _ sec)

theorem homesKept_detectHome (s : State) (sec : Nat) : HomesKept s (detectHome s sec) := by
  unfold detectHome
  dsimp only
  refine (homesKept_detectL2_doubleInWay s sec).trans ?_
  generalize (if (detectL2 s sec).2 then doubleInWay (detectL2 s sec).1 sec else (detectL2 s sec).1) = r
  split
  · exact .refl r
  · split
    · next f t ht =>
      have hrt : HomesKept r t := .of_kept (kept_takeFlip ht)
      split
      · exact hrt.trans (.of_kept (kept_countFixed t _))
      · exact hrt.trans (.of_kept (kept_doubleInRow _ _ _ _))
    · exact .refl r

/-! ## Reads at the homes -/

theorem homesKept_l2Fill (s : State) (sec prio : Nat) : HomesKept s (l2Fill s sec prio) := by
  unfold l2Fill
  split
  · next l hl => exact homesKept_putL2 s sec _ (by simp [dirtyAt, Tab.get, hl])
  · next hnone =>
    have hclean : dirtyAt s sec = false := by simp [dirtyAt, Tab.get, hnone]
    have hput : ∀ t hit, HomesKept s t →
        HomesKept s { dropFlips t hit with l2 := Tab.put sec { dirty := false, prio := prio } (dropFlips t hit).l2 } := by
      intro t hit ht
      have hdrop := ht.trans (.of_kept (kept_dropFlips t hit))
      exact hdrop.trans (homesKept_putL2 _ sec _ (hdrop.clean sec hclean).symm)
    apply hput
    split
    · exact .refl s
    · split
      · next v _ => exact ((homesKept_l2Clean s v).trans (homesKept_l2Drop _ v)).trans .of_kept
      · exact .refl s

theorem homesKept_homeTouch (s : State) (pa pol : Nat) : HomesKept s (homeTouch s pa pol) := by
  unfold homeTouch
  have hread := (HomesKept.of_kept (kept_countHome s pa)).trans (homesKept_detectHome _ (pa / 128))
  dsimp only
  split
  · exact hread
  · exact hread.trans (homesKept_l2Fill _ _ _)

theorem homesKept_readUnder (s : State) (sec : Nat) (whole : Bool) : HomesKept s (readUnder s sec whole) := by
  unfold readUnder
  split
  · exact .refl s
  · exact homesKept_detectHome s sec

/-! ## Writes at the homes -/

/-- What a write counts, and what of the sector's poison and flips a whole one clears. -/
def clearWritten (s : State) (sec : Nat) (whole : Bool) : State :=
  if whole then
    dropFlips { countHome s (sec * 128) with homePoison := Tab.del sec (countHome s (sec * 128)).homePoison }
      (fun f => (f.kind == 5 || f.kind == 6) && f.loc.toNat / 128 == sec)
  else countHome s (sec * 128)

/-- Mark a sector that has been written dirty, or write it through for policy 011. -/
def markWritten (s : State) (sec pol : Nat) : State :=
  if pol == 3 then
    { s with hbm := Mem.write s.hbm (sec * 128) (Mem.read s.home (sec * 128) 128)
             hbmPoison := Tab.set false s.hbmPoison sec (homePoisoned s sec) }
  else
    { l2Fill s sec (policyPrio pol) with
      l2 := Tab.put sec { dirty := true, prio := policyPrio pol } (l2Fill s sec (policyPrio pol)).l2 }

theorem homeWrote_eq (s : State) (sec pol : Nat) (whole : Bool) :
    homeWrote s sec pol whole = loseReservations (markWritten (clearWritten s sec whole) sec pol) (.hbm (sec * 128)) := rfl

theorem kept_clearWritten (s : State) (sec : Nat) (whole : Bool) : (clearWritten s sec whole).kept = s.kept := by
  unfold clearWritten
  split
  · rw [kept_dropFlips]
    exact kept_countHome s _
  · exact kept_countHome s _

theorem formKept_markWritten (s : State) (sec pol : Nat) : FormKept s (markWritten s sec pol) := by
  unfold markWritten
  split
  · exact formKept_hbm s _ _ (Memory.wf_write _ _ _)
  · exact (homesKept_l2Fill s sec (policyPrio pol)).toFormKept.trans { FormKept.refl _ with }

/-- Marking a sector makes up for its own disagreement: every other one must agree. -/
theorem markWritten_homesAgree {s : State} {sec : Nat} (pol : Nat) (h : ∀ x, x ≠ sec → SectorAgrees s x) :
    HomesAgree (markWritten s sec pol) := by
  refine (homesAgree_iff _).2 fun x hd a ha => ?_
  unfold markWritten at hd ⊢
  split at hd
  · next hpol =>
    simp only [hpol, if_true, Mem.byte_copySector]
    split
    · rfl
    · next hne => exact h x (fun hx => hne (ha.trans hx)) hd a ha
  · next hpol =>
    by_cases hx : x = sec
    · simp [dirtyAt, hx] at hd
    · rw [if_neg hpol]
      exact (homesKept_l2Fill s sec _).agrees x (h x hx) (by simpa [dirtyAt, Tab.get_put, hx] using hd) a ha

theorem formKept_homeWrote (s : State) (sec pol : Nat) (whole : Bool) : FormKept s (homeWrote s sec pol whole) := by
  rw [homeWrote_eq]
  exact ((FormKept.of_kept (kept_clearWritten s sec whole)).trans (formKept_markWritten _ sec pol)).trans
    (homesKept_loseReservations _ _).toFormKept

theorem homeWrote_homesAgree {s : State} {sec : Nat} (pol : Nat) (whole : Bool) (h : ∀ x, x ≠ sec → SectorAgrees s x) :
    HomesAgree (homeWrote s sec pol whole) := by
  rw [homeWrote_eq]
  exact (homesKept_loseReservations _ _).homesAgree
    (markWritten_homesAgree pol fun x hx => (HomesKept.of_kept (kept_clearWritten s sec whole)).agrees x (h x hx))

/-- A change of the bytes of one sector at its home leaves the agreement of the others. -/
theorem agrees_of_home_eq {s : State} (hs : HomesAgree s) {sec : Nat} {m : Mem} (hm : ∀ a, a / 128 ≠ sec → Mem.byte m a = Mem.byte s.home a) :
    ∀ x, x ≠ sec → SectorAgrees { s with home := m } x := by
  rintro x hx hd a rfl
  exact (hm a hx).trans (hs a hd)

theorem formKept_homeWriteIn (s : State) (pa pol : Nat) (b : Bytes) : FormKept s (homeWriteIn s pa pol b) := by
  unfold homeWriteIn
  exact ((homesKept_readUnder s _ _).toFormKept.trans (formKept_home _ (Memory.wf_write b _ pa))).trans (formKept_homeWrote _ _ _ _)

theorem homeWriteIn_homesAgree {s : State} (hs : HomesAgree s) (pa pol : Nat) {b : Bytes} (hb : pa % 128 + b.length ≤ 128) :
    HomesAgree (homeWriteIn s pa pol b) := by
  unfold homeWriteIn
  refine homeWrote_homesAgree pol _ (agrees_of_home_eq ((homesKept_readUnder s _ _).homesAgree hs) fun a ha => ?_)
  exact Mem.byte_write_outside _ _ _ _ (by omega)

theorem formKept_homeWriteAll (pol fuel : Nat) : ∀ (s : State) (pa : Nat) (b : Bytes), FormKept s (homeWriteAll s pa pol b fuel) := by
  induction fuel with
  | zero => exact fun s _ _ => .refl s
  | succ fuel ih =>
    intro s pa b
    unfold homeWriteAll
    split
    · exact .refl s
    · exact (formKept_homeWriteIn s pa pol _).trans (ih _ _ _)

theorem formKept_homeWrite (s : State) (pa : Nat) (b : Bytes) : FormKept s (homeWrite s pa b) := formKept_homeWriteAll 0 _ s pa b

/-! ## Drains at the homes -/

/-- The bytes of a log entry at its home, before the poison that comes with them. -/
def drainCells (s : State) (sec pol : Nat) (c : Tab (Byte × Byte)) : State :=
  homeWrote { readUnder s sec (cellsWhole c) with home := mergeCells (readUnder s sec (cellsWhole c)).home (sec * 128) c } sec pol (cellsWhole c)

/-- The poison of a log entry changes no byte. -/
theorem homesKept_drainCells_homeDrain (s : State) (sec pol : Nat) (c : Tab (Byte × Byte)) (poison : Bool) :
    HomesKept (drainCells s sec pol c) (homeDrain s sec pol c poison) := by
  cases poison with
  | false => exact .refl _
  | true =>
    by_cases hpol : pol = 3
    · exact .of_kept (by simp [homeDrain, hpol]; rfl)
    · exact .of_kept (by simp [homeDrain, hpol]; rfl)

theorem formKept_homeDrain (s : State) (sec pol : Nat) (c : Tab (Byte × Byte)) (poison : Bool) :
    FormKept s (homeDrain s sec pol c poison) := by
  refine FormKept.trans ?_ (homesKept_drainCells_homeDrain s sec pol c poison).toFormKept
  unfold drainCells
  exact ((homesKept_readUnder s _ _).toFormKept.trans (formKept_home _ (Memory.wf_mergeCells _ c _))).trans (formKept_homeWrote _ _ _ _)

theorem homeDrain_homesAgree {s : State} (hs : HomesAgree s) (sec pol : Nat) {c : Tab (Byte × Byte)} (poison : Bool)
    (hc : ∀ e ∈ c, e.1 < 128) : HomesAgree (homeDrain s sec pol c poison) := by
  refine (homesKept_drainCells_homeDrain s sec pol c poison).homesAgree ?_
  unfold drainCells
  refine homeWrote_homesAgree pol _ (agrees_of_home_eq ((homesKept_readUnder s _ _).homesAgree hs) fun a ha => ?_)
  refine Mem.byte_mergeCells_outside _ _ _ (fun e he => ?_) _
  have hlt := hc e he
  omega

end Sys2Proof.Machine
end

section
/-! PROOF. Store logs: drains (R238), REDs (R105) and publications (R240) keep memories canonical and give a log no new number; a store
(R236, R237) appends one that has not been given out. -/
namespace Sys2Proof.Machine

/-! ## Records and consumed errors -/

theorem formKept_writeRecord (s : State) (r : ErrRec) : FormKept s (writeRecord s r) := by
  unfold writeRecord
  dsimp only
  split
  · exact .refl s
  · split
    · exact .of_kept (by rw [kept_noteInjection, kept_modVdev])
    · refine FormKept.trans ?_ (.of_kept (kept_send _ _))
      refine FormKept.trans ?_ (.of_kept (kept_modVdev _ _ _))
      refine FormKept.trans (FormKept.trans (.of_kept ?_) (formKept_homeWrite _ _ _)) (formKept_homeWrite _ _ _)
      rw [kept_noteInjection, kept_modVdev]

theorem kept_containLater (s : State) (p k cls cause : Nat) (lanes : W32) (addr : W64) :
    (containLater s p k cls cause lanes addr).kept = s.kept := by
  unfold containLater
  split
  · exact kept_urgent s _
  · rfl

theorem formKept_failedStore (s : State) (p cls cause : Nat) (owner : ErrRec) : FormKept s (failedStore s p cls cause owner) := by
  unfold failedStore
  split
  · exact .of_kept (kept_urgent s _)
  · exact formKept_writeRecord s _

theorem formKept_seeEntry (s : State) (c : Nat) (e : LogEntry) : FormKept s (seeEntry s c e) := by
  unfold seeEntry
  split
  · exact .refl s
  · refine FormKept.trans (.of_kept ?_) (formKept_modCore_mapLog _ c rfl (fun g => ?_))
    · split
      · exact kept_fireInjection s _ _
      · rfl
    · split <;> rfl

/-- An entry is read, and an error found in it treated. -/
theorem formKept_seeEntry_entryError (s : State) (c : Nat) (e : LogEntry) :
    FormKept s (if e.bad then entryError (seeEntry s c e) e else seeEntry s c e) := by
  split
  · exact (formKept_seeEntry s c e).trans (formKept_failedStore _ _ _ _ _)
  · exact formKept_seeEntry s c e

/-! ## Requests to the host and to peers -/

theorem homesKept_touchBuckets (v : VDev) (vn k vpn h n : Nat) : ∀ (s : State) (j : Nat), HomesKept s (touchBuckets s v vn k vpn h j n).1 := by
  induction n with
  | zero => exact fun s _ => .refl s
  | succ n ih =>
    intro s j
    unfold touchBuckets
    dsimp only
    split
    · exact (homesKept_homeTouch s _ 0).trans (ih _ _)
    · exact homesKept_homeTouch s _ 0

theorem homesKept_touchSizes (v : VDev) (vn va k : Nat) : ∀ s : State, HomesKept s (touchSizes s v vn va k) := by
  induction k with
  | zero => exact .refl
  | succ k ih =>
    intro s
    unfold touchSizes
    dsimp only
    split
    · split
      · exact homesKept_touchBuckets _ _ _ _ _ _ s 0
      · exact (homesKept_touchBuckets _ _ _ _ _ _ s 0).trans (ih _)
    · exact ih s

theorem homesKept_walkTouch (s : State) (vn va : Nat) : HomesKept s (walkTouch s vn va) := homesKept_touchSizes _ vn va 16 s

theorem homesKept_touchRank (s : State) (reel rank : Nat) : HomesKept s (touchRank s reel rank) := by
  unfold touchRank
  dsimp only
  split
  · exact .refl s
  · split
    · exact (homesKept_walkTouch s _ _).trans (homesKept_homeTouch _ _ 0)
    · exact homesKept_walkTouch s _ _

theorem formKept_ask (s : State) (who : Who) (vdev : Nat) (a : Ask) (link : Option Nat) : FormKept s (ask s who vdev a link) :=
  (FormKept.of_kept (kept_modPlat s _)).trans (formKept_bump _)

theorem kept_wakeDevice (s : State) (v : Nat) : (wakeDevice s v).kept = s.kept := by
  unfold wakeDevice
  split <;> simp

theorem kept_holdInbound {s t : State} {v : Nat} {e : Instr} (h : holdInbound s v e = some t) : t.kept = s.kept := by
  unfold holdInbound at h
  split at h
  · rw [← Option.some.inj h, kept_wakeDevice, kept_modVdev]
  · cases h

theorem formKept_sendPeerStore (s : State) (c : Nat) (e : LogEntry) (mate : Option LogEntry) (rank : Nat) :
    FormKept s (sendPeerStore s c e mate rank) := by
  unfold sendPeerStore
  dsimp only
  have htouch : FormKept s (touchRank (countFor s e.vdev) (s.ply e.ply).reel rank) :=
    (FormKept.of_kept (kept_modPlat s _)).trans (homesKept_touchRank _ _ _).toFormKept
  refine htouch.trans ?_
  generalize touchRank (countFor s e.vdev) (s.ply e.ply).reel rank = r
  split
  · exact formKept_failedStore r _ _ _ _
  · split
    · split
      · next t ht => exact (FormKept.of_kept (kept_holdInbound ht)).trans (formKept_ask _ _ _ _ _)
      · split
        · split
          · exact (homesKept_walkTouch r _ _).toFormKept.trans (FormKept.foldl (fun _ _ => formKept_homeDrain _ _ _ _ _) _ _)
          · exact (homesKept_walkTouch r _ _).toFormKept.trans (formKept_failedStore _ _ _ _ _)
        · exact formKept_failedStore r _ _ _ _
    · split
      · exact formKept_failedStore r _ _ _ _
      · exact (FormKept.of_kept (kept_send r _)).trans (formKept_ask _ _ _ _ _)

/-! ## REDs (R105) -/

theorem formKept_dropL1 (s : State) (c key : Nat) : FormKept s (dropL1 s c key) := by
  unfold dropL1
  dsimp only
  have hdropped : FormKept s (if key % 4 = 2 then s.modCore c (fun x => { x with dropped := s.fresh }) else s) := by
    split
    · exact formKept_modCore_log s c
    · exact .refl s
  refine hdropped.trans ?_
  generalize (if key % 4 = 2 then s.modCore c (fun x => { x with dropped := s.fresh }) else s) = r
  split
  · split
    · exact formKept_modCore_log r c
    · exact .refl r
  · exact .refl r

theorem formKept_updateL1 (s : State) (c pa n : Nat) : FormKept s (updateL1 s c pa n) := by
  unfold updateL1
  dsimp only
  split
  · exact .refl s
  · split
    · exact formKept_dropL1 s c _
    · exact formKept_modCore_log s c

theorem formKept_droppedRed (s : State) (o : RedOwner) : FormKept s (droppedRed s o) := by
  unfold droppedRed
  dsimp only
  split
  · exact .of_kept (kept_containLater s _ _ _ _ _ _)
  · exact (formKept_writeRecord s _).trans (.of_kept (kept_modReel _ _ _))

theorem formKept_performRed (s : State) (r : RedOp) : FormKept s (performRed s r) := by
  unfold performRed
  dsimp only
  have hgone : FormKept s { s with reds := s.reds.filter (fun q => q.id != r.id) } := .of_kept
  refine (hgone.trans (homesKept_homeTouch _ r.pa 0).toFormKept).trans ?_
  split
  · exact FormKept.foldl formKept_droppedRed _ _
  · refine (formKept_homeWriteIn _ _ _ _).trans (FormKept.foldl (fun t o => ?_) _ _)
    split
    · exact formKept_updateL1 t _ _ _
    · exact .refl t

theorem formKept_performReds (s : State) (pick : RedOp → Bool) : FormKept s (performReds s pick) :=
  FormKept.foldl formKept_performRed _ s

/-! ## Drains (R238) -/

theorem formKept_unpin (s : State) (c serial : Nat) : FormKept s (unpin s c serial) :=
  { FormKept.refl s with
    serials := fun d => by
      have hlog : ((unpin s c serial).core d).log = (s.core d).log := Tab.proj_get_map Core.log (by intro _; rfl) {} s.cores d
      rw [logSerials, hlog]
      exact List.Sublist.refl _ }

theorem log_addMark (x : Core) (key : Nat) : (addMark x key).log = x.log := by
  unfold addMark
  split
  · rfl
  · split <;> rfl

theorem formKept_xfers (s : State) (l : List Xfer) : FormKept s { s with xfers := l } := .of_kept

theorem formKept_forgetReads (s : State) (c : Nat) (e : LogEntry) : FormKept s (forgetReads s c e) := by
  unfold forgetReads
  dsimp only
  split
  · exact .refl s
  · refine FormKept.trans ?_ (formKept_xfers _ _)
    exact (FormKept.of_kept (kept_modPlat s _)).trans (homesKept_mapFrags _ _).toFormKept

/-- Entries are read and taken out of their log. -/
theorem formKept_takeEntries (s : State) (c : Nat) (es : List LogEntry) :
    FormKept s ((es.foldl (fun s g => if g.bad then entryError (seeEntry s c g) g else seeEntry s c g) s).modCore c
      (fun x => { x with log := x.log.filter (fun g => es.all (fun h => g.serial != h.serial)) })) := by
  refine FormKept.trans ?_ (formKept_modCore _ c _ (List.filter_sublist.map _))
  exact FormKept.foldl (fun t g => formKept_seeEntry_entryError t c g) es s

/-- Nothing of an entry stays behind that has gone from its log. -/
theorem formKept_entryGone (s : State) (c : Nat) (g : LogEntry) :
    FormKept s (dropL1 (unpin (forgetReads s c g) c g.serial) c g.key) :=
  ((formKept_forgetReads s c g).trans (formKept_unpin _ _ _)).trans (formKept_dropL1 _ _ _)

theorem formKept_drainRaw (s : State) (c : Nat) (e : LogEntry) : FormKept s (drainRaw s c e) := by
  unfold drainRaw
  dsimp only
  refine FormKept.trans ?_ (FormKept.foldl (fun t g => ?_) _ _)
  · cases e.space with
    | dev => exact ((formKept_takeEntries s c _).trans (formKept_performReds _ _)).trans (formKept_homeDrain _ _ _ _ _)
    | host pasid => exact (formKept_takeEntries s c _).trans .of_kept
    | peer rank => exact (formKept_takeEntries s c _).trans (formKept_sendPeerStore _ _ _ _ _)
  · split
    · exact (formKept_entryGone t c g).trans (formKept_modCore_log _ c (log_addMark _ _))
    · exact formKept_entryGone t c g

theorem formKept_drainBehind (fuel : Nat) : ∀ (s : State) (c serial : Nat), FormKept s (drainBehind s c serial fuel) := by
  induction fuel with
  | zero => exact fun s _ _ => .refl s
  | succ fuel ih =>
    intro s c serial
    unfold drainBehind
    split
    · exact .refl s
    · split
      · exact .refl s
      · next e _ _ =>
        have hfirst := FormKept.foldl (fun t (x : Nat × LogEntry) => ih t x.1 x.2.serial) (drainAfter s c e) s
        dsimp only
        split
        · exact hfirst
        · split
          · exact hfirst.trans (formKept_drainRaw _ _ _)
          · exact hfirst

theorem formKept_drainEntry (s : State) (c serial : Nat) : FormKept s (drainEntry s c serial) := formKept_drainBehind 64 s c serial

/-! ## Publication (R240) -/

/-- Merging entries drops numbers of the earlier ones. -/
theorem serials_compact (log : List LogEntry) (pick : LogEntry → Bool) :
    ((compact log pick).map (fun e => e.serial)).Sublist (log.map (fun e => e.serial)) := by
  unfold compact
  induction log using List.reverseRecOn with
  | nil => exact .refl _
  | append_singleton log e ih =>
    rw [List.foldl_append, List.foldl_cons, List.foldl_nil]
    generalize List.foldl _ [] log = out at ih ⊢
    split
    · split
      · simpa using (List.filter_sublist.map _).trans ih
      · simpa using ih
    · simpa using ih

theorem formKept_numberEntries (s : State) (c n : Nat) : FormKept s (numberEntries s c n).1 := by
  unfold numberEntries
  dsimp only
  refine ((FormKept.foldl (fun t e => formKept_seeEntry_entryError t c e) _ s).trans (formKept_modCore _ c _ ?_)).trans
    (FormKept.foldl (fun t e => .of_kept (kept_later t _)) _ _)
  rw [serials_map (fun e => by split <;> rfl)]
  exact serials_compact _ _

theorem kept_boundRecords (s : State) (b : Nat) : (boundRecords s b).kept = s.kept := by
  unfold boundRecords
  dsimp only
  split <;> rfl

theorem formKept_publish (s : State) (c : Nat) : FormKept s (publish s c) := by
  unfold publish
  dsimp only
  refine (FormKept.foldl (fun t (u : LogEntry) => formKept_drainEntry t c u.serial) (overtaken s c) s).trans ?_
  refine FormKept.trans ?_ (.of_kept (kept_boundRecords _ _))
  refine FormKept.trans ?_ (.of_kept (kept_modBay _ _ _))
  refine FormKept.trans ?_ (formKept_modCore_log _ c)
  exact formKept_numberEntries _ c _

/-! ## Stores (R236, R237) -/

/-- An entry with the next number joins a log. -/
theorem LogNumbered.append {s : State} (h : LogNumbered s) (c : Nat) {e : LogEntry} (he : e.serial = s.fresh) :
    LogNumbered (s.modCore c (fun x => { x with log := x.log ++ [e] })).bump := by
  intro d
  obtain ⟨hnodup, hlt⟩ := h d
  have hcore : (s.modCore c (fun x => { x with log := x.log ++ [e] })).bump.core d =
      if d = c then { s.core d with log := (s.core d).log ++ [e] } else s.core d :=
    State.core_modCore_eq s c d (fun x => { x with log := x.log ++ [e] })
  rw [hcore]
  split
  · constructor
    · rw [List.map_append, List.map_singleton, ← List.concat_eq_append]
      refine hnodup.concat fun hmem => ?_
      obtain ⟨g, hg, hge⟩ := List.mem_map.1 hmem
      have := hlt g hg
      omega
    · intro g hg
      rcases List.mem_append.1 hg with hg | hg
      · exact Nat.lt_succ_of_lt (hlt g hg)
      · rw [List.mem_singleton.1 hg, he]
        exact Nat.lt_succ_self _
  · exact ⟨hnodup, fun g hg => Nat.lt_succ_of_lt (hlt g hg)⟩

theorem Canonical.of_memory {s t : State} (h : Canonical s) (hhome : t.home = s.home) (hhbm : t.hbm = s.hbm) (hws : t.ws = s.ws)
    (hplies : t.plies = s.plies) : Canonical t := by
  simpa [Canonical, State.ply, hhome, hhbm, hws, hplies] using h

theorem appendEntry_logNumbered {s : State} (h : LogNumbered s) (p : Nat) (space : LogSpace) (sec : Nat) (vaddr : W64) (pol : Nat)
    (cells : Tab (Byte × Byte)) (poison : Bool) : LogNumbered (appendEntry s p space sec vaddr pol cells poison) := by
  unfold appendEntry
  exact ((FormKept.of_kept (kept_dropFlips s _)).logNumbered h).append _ rfl

theorem appendEntry_canonical {s : State} (h : Canonical s) (p : Nat) (space : LogSpace) (sec : Nat) (vaddr : W64) (pol : Nat)
    (cells : Tab (Byte × Byte)) (poison : Bool) : Canonical (appendEntry s p space sec vaddr pol cells poison) := by
  unfold appendEntry
  exact ((FormKept.of_kept (kept_dropFlips s _)).canonical h).of_memory rfl rfl rfl rfl

/-- A store joins the youngest entry for its sector, whose number stays, or appends one. -/
theorem logStore_cases (s : State) (p : Nat) (space : LogSpace) (sec : Nat) (vaddr : W64) (pol : Nat) (cells : Tab (Byte × Byte))
    (poison : Bool) :
    FormKept s (logStore s p space sec vaddr pol cells poison) ∨
      logStore s p space sec vaddr pol cells poison = appendEntry s p space sec vaddr pol cells poison := by
  unfold logStore
  dsimp only
  split
  · split
    · exact .inl (formKept_modCore_mapLog s _ rfl (fun g => by split <;> rfl))
    · exact .inr rfl
  · exact .inr rfl

theorem logStore_canonical {s : State} (h : Canonical s) (p : Nat) (space : LogSpace) (sec : Nat) (vaddr : W64) (pol : Nat)
    (cells : Tab (Byte × Byte)) (poison : Bool) : Canonical (logStore s p space sec vaddr pol cells poison) := by
  rcases logStore_cases s p space sec vaddr pol cells poison with hkept | happend
  · exact hkept.canonical h
  · rw [happend]
    exact appendEntry_canonical h p space sec vaddr pol cells poison

theorem logStore_logNumbered {s : State} (h : LogNumbered s) (p : Nat) (space : LogSpace) (sec : Nat) (vaddr : W64) (pol : Nat)
    (cells : Tab (Byte × Byte)) (poison : Bool) : LogNumbered (logStore s p space sec vaddr pol cells poison) := by
  rcases logStore_cases s p space sec vaddr pol cells poison with hkept | happend
  · exact hkept.logNumbered h
  · rw [happend]
    exact appendEntry_logNumbered h p space sec vaddr pol cells poison

end Sys2Proof.Machine
end

section
/-! PROOF. Scratch with its journal (R43) and the weight store keep their canonical form. -/
namespace Sys2Proof.Machine

/-! ## Loss of protection (R45) -/

theorem formKept_freeJournal (s : State) (p : Nat) : FormKept s (freeJournal s p) := by
  unfold freeJournal
  refine FormKept.trans (.of_kept ?_) (formKept_modPly_memory _ p)
  split <;> rfl

theorem formKept_unhold (s : State) (p : Nat) : FormKept s (unhold s p) :=
  formKept_modCore_mapLog s _ rfl (fun e => by split <;> rfl)

theorem formKept_urgent_if (s : State) (b : Prop) [Decidable b] (e : Instr) : FormKept s (if b then s.urgent e else s) := by
  split
  · exact .of_kept
  · exact .refl s

theorem formKept_endProtection (s : State) (p n : Nat) : FormKept s (endProtection s p n) := by
  unfold endProtection
  dsimp only
  split
  · exact .refl s
  · have hcause : FormKept s (s.modPly p (fun y => { y with cause := y.cause ||| (1#8 <<< (n - 8)) })) := formKept_modPly_memory s p
    refine hcause.trans ?_
    by_cases hprot : (s.ply p).prot = true
    · rw [if_pos hprot]
      refine FormKept.trans ?_ (formKept_unhold _ p)
      refine FormKept.trans ?_ (formKept_modPly_memory _ p)
      exact (formKept_urgent_if _ _ _).trans (formKept_freeJournal _ p)
    · rw [if_neg hprot]
      exact formKept_urgent_if _ _ _

/-! ## Scratch (R26, R43) -/

theorem formKept_detectScratch (s : State) (p sec : Nat) : FormKept s (detectScratch s p sec) := by
  unfold detectScratch
  dsimp only
  split
  · next f t ht =>
    have hst : FormKept s t := .of_kept (kept_takeFlip ht)
    split
    · exact hst.trans (formKept_modPly_memory t p)
    · exact hst.trans (formKept_modCore_log t _)
  · exact .refl s

theorem formKept_journalGranule (s : State) (p g : Nat) : FormKept s (journalGranule s p g) := by
  unfold journalGranule
  dsimp only
  split
  · exact .refl s
  · split
    · exact (FormKept.of_kept (kept_dropFlips s _)).trans (formKept_modPly_memory _ p)
    · exact formKept_endProtection s p 14

theorem kept_wakeWaiters (s : State) (p off n : Nat) : (wakeWaiters s p off n).kept = s.kept := by
  unfold wakeWaiters
  refine List.foldlRecOn (motive := fun t : State => t.kept = s.kept) _ _ rfl fun t ht f _ => ?_
  split
  · split
    · split
      · rw [kept_later, ht]
      · exact ht
    · exact ht
  · exact ht

theorem formKept_scrWriteIn (s : State) (p off : Nat) (b : Bytes) : FormKept s (scrWriteIn s p off b) := by
  unfold scrWriteIn
  dsimp only
  refine FormKept.trans ?_ (((formKept_journalGranule _ p _).trans (formKept_modPly _ p _ (Memory.wf_write b _ off) rfl)).trans
    ((homesKept_loseReservations _ _).toFormKept.trans (.of_kept (kept_wakeWaiters _ _ _ _))))
  split
  · exact .of_kept (kept_dropFlips s _)
  · exact formKept_detectScratch s p _

theorem formKept_scrWriteAll (p fuel : Nat) : ∀ (s : State) (off : Nat) (b : Bytes), FormKept s (scrWriteAll s p off b fuel) := by
  induction fuel with
  | zero => exact fun s _ _ => .refl s
  | succ fuel ih =>
    intro s off b
    unfold scrWriteAll
    split
    · exact .refl s
    · exact (formKept_scrWriteIn s p off _).trans (ih _ _ _)

theorem formKept_scrWrite (s : State) (p off : Nat) (b : Bytes) : FormKept s (scrWrite s p off b) := formKept_scrWriteAll p _ s off b

/-! ## The weight store -/

theorem formKept_wsWrite (l : List (Bytes × Bool)) : ∀ (s : State) (o : Nat), FormKept s (wsWrite s o l) := by
  induction l with
  | nil => exact fun s _ => .refl s
  | cons x l ih =>
    intro s o
    obtain ⟨b, bad⟩ := x
    have hbytes : FormKept s { s with ws := Mem.write s.ws o b, wsPoison := Tab.set false s.wsPoison (o / 128) bad } :=
      { FormKept.refl s with ws := Memory.wf_write b _ o }
    exact (hbytes.trans (.of_kept (kept_dropFlips _ _))).trans (ih _ _)

end Sys2Proof.Machine
end

section
/-! PROOF. The operations on memory keep the canonical form, the agreement with HBM and the numbering of log entries. -/
namespace Sys2Proof
open Machine

/-- Settles O37: every operation is a composition of steps that keep the canonical form and the numbering; those at the homes keep the
agreement of each sector, and a write disturbs its own sector only, which it marks dirty or writes through. -/
theorem memoryCanonical : Obligations.MemoryCanonical := by
  unfold Obligations.MemoryCanonical
  dsimp only
  refine ⟨fun s (hs : Canonical s) => ?canonical, fun s hs => ?agree, fun s hs => ?numbered⟩
  case canonical =>
    exact ⟨fun pa pol b => (formKept_homeWriteIn s pa pol b).canonical hs,
      fun sec pol c po => (formKept_homeDrain s sec pol c po).canonical hs,
      fun sec => ⟨(homesKept_l2Clean s sec).canonical hs, (homesKept_l2Drop s sec).canonical hs⟩,
      fun sec prio => (homesKept_l2Fill s sec prio).canonical hs,
      fun pa pol => (homesKept_homeTouch s pa pol).canonical hs,
      fun o l => (formKept_wsWrite l s o).canonical hs,
      fun p o b => (formKept_scrWrite s p o b).canonical hs,
      fun r => (formKept_performRed s r).canonical hs,
      fun c n => (formKept_drainEntry s c n).canonical hs,
      fun p sp sec va pol cells po => logStore_canonical hs p sp sec va pol cells po⟩
  case agree =>
    exact ⟨fun pa pol => (homesKept_homeTouch s pa pol).homesAgree hs,
      fun sec => ⟨(homesKept_l2Clean s sec).homesAgree hs,
        ((homesKept_l2Clean s sec).trans (homesKept_l2Drop _ sec)).homesAgree hs⟩,
      fun pa pol b hb => homeWriteIn_homesAgree hs pa pol hb,
      fun sec pol c po hc => homeDrain_homesAgree hs sec pol po hc⟩
  case numbered =>
    exact ⟨fun p sp sec va pol cells po => logStore_logNumbered hs p sp sec va pol cells po,
      fun c n => (formKept_drainEntry s c n).logNumbered hs,
      fun c => (formKept_publish s c).logNumbered hs⟩

end Sys2Proof
end

section
/-! PROOF. Every step ends with helper lanes trimmed to the quads of their fragment's active lanes (R38). -/
namespace Sys2Proof.Machine

theorem inMask_laneBit (j l : Nat) : inMask (laneBit j) l = (decide (l < 32) && decide (l = j)) := by
  simp only [inMask, laneBit, BitVec.getLsbD_shiftLeft, BitVec.getLsbD_one]
  by_cases h : l = j
  · simp [h]
  · have : ¬ (j ≤ l ∧ l - j = 0) := by omega
    by_cases hj : l < j <;> simp [h, hj]
    omega

theorem inMask_or (m n : W32) (l : Nat) : inMask (m ||| n) l = (inMask m l || inMask n l) := BitVec.getLsbD_or
theorem inMask_and (m n : W32) (l : Nat) : inMask (m &&& n) l = (inMask m l && inMask n l) := BitVec.getLsbD_and
theorem inMask_not (m : W32) {l : Nat} (h : l < 32) : inMask (~~~m) l = !inMask m l := by simp [inMask, h]

theorem lt_of_inMask {m : W32} {l : Nat} (h : inMask m l = true) : l < 32 := BitVec.lt_of_getLsbD h

theorem inMask_foldl_laneBit (ls : List Nat) (l : Nat) : ∀ m : W32,
    inMask (ls.foldl (fun m l => m ||| laneBit l) m) l = (inMask m l || (decide (l < 32) && decide (l ∈ ls))) := by
  induction ls with
  | nil => intro m; simp
  | cons j ls ih =>
    intro m
    rw [List.foldl_cons, ih, inMask_or, inMask_laneBit, Bool.or_assoc, ← Bool.and_or_distrib_left]
    simp [List.mem_cons]

theorem inMask_maskOf {ls : List Nat} {l : Nat} : inMask (maskOf ls) l = true ↔ l < 32 ∧ l ∈ ls := by
  rw [maskOf, inMask_foldl_laneBit]
  simp [inMask]

/-- The quads of a mask: the lanes whose quad holds a lane of the mask. -/
theorem inMask_quadsOf {m : W32} {l : Nat} :
    inMask (quadsOf m) l = true ↔ l < 32 ∧ ∃ j, j < 4 ∧ inMask m (4 * (l / 4) + j) = true := by
  rw [quadsOf, inMask_maskOf]
  simp [mem_lanes, upFrom_eq]

theorem helper_pruned {h m : W32} {l : Nat} (hl : inMask (h &&& quadsOf m &&& ~~~m) l = true) :
    inMask m l = false ∧ ∃ j, j < 4 ∧ inMask m (4 * (l / 4) + j) = true := by
  have hlt := lt_of_inMask hl
  simp only [inMask_and, inMask_not m hlt, Bool.and_eq_true, Bool.not_eq_true'] at hl
  obtain ⟨⟨-, hquad⟩, hm⟩ := hl
  exact ⟨hm, (inMask_quadsOf.1 hquad).2⟩

theorem helpersOk_trimHelpers (s : State) : HelpersOk (trimHelpers s) := by
  intro y hy t ht f hf l hl
  obtain ⟨p, -, rfl⟩ := List.mem_map.1 hy
  obtain ⟨k, -, rfl⟩ := List.mem_map.1 ht
  obtain ⟨g, -, rfl⟩ := List.mem_map.1 hf
  exact helper_pruned hl

theorem endStep_eq_next {r : Res} {t : State} (h : endStep r = .next t) : ∃ u, r = .next u ∧ t = trimHelpers u := by
  cases r with
  | next u => exact ⟨u, rfl, (Host.Outcome.next.inj h).symm⟩
  | fault _ => cases h
  | refused _ => cases h

/-- A next state of a step is one whose helper lanes have been trimmed. -/
theorem step_eq_next {s t : State} (h : step s = .next t) : ∃ u, t = trimHelpers u := by
  unfold step stepWith at h
  split at h
  · split at h
    · obtain ⟨u, -, ht⟩ := endStep_eq_next h
      exact ⟨u, ht⟩
    · cases h
  · obtain ⟨u, -, ht⟩ := endStep_eq_next h
    exact ⟨u, ht⟩

/-- Settles O60: whatever a step does, it ends by trimming every helper mask. -/
theorem stepKeepsHelpers : Obligations.StepKeepsHelpers := by
  unfold Obligations.StepKeepsHelpers
  intro s t h
  obtain ⟨u, rfl⟩ := step_eq_next h
  exact helpersOk_trimHelpers u

end Sys2Proof.Machine
end

section
/-! PROOF. Vector instructions that work lane by lane (R155 to R172, R176). Each runs one vector operation with the destination, guard and
registers of its form; what it computes, what it keeps and where it traps follow from that alone. -/
namespace Sys2Proof.Machine

/-! ## A form as one vector operation -/

/-- The operation on lane results that a form runs: under the FP64 residue check or not (R347). -/
def VectorForm.eff (x : VectorForm) (s : State) (lf : Nat → LaneRes) : Eff :=
  if x.fp64 then vecOp64 s x.guard x.d x.regs lf else vecOp s x.guard x.d x.regs lf

/-- Lane results hold elements of width n with these values and raise their flags. -/
def LanesGive (n : Nat) (v : Nat → Nat → Nat × Flags) (lf : Nat → LaneRes) : Prop :=
  ∀ l, l < 32 → (∀ k, k < 64 / n → elem n (lf l).1 k = BitVec.ofNat n (v l k).1) ∧
    ∀ b, (lf l).2.getLsbD b = true ↔ ∃ k, k < 64 / n ∧ (v l k).2.getLsbD b = true

/-- A meaning runs the form's operation. -/
inductive VectorForm.Computes (x : VectorForm) (s : State) (r : Res) : Prop
  | intro (lf : Nat → LaneRes) (runs : r = run s (x.eff s lf)) (gives : LanesGive x.width x.value lf)

theorem VectorForm.eff_ok {x : VectorForm} {s : State} {lf : Nat → LaneRes} (h : ∀ r, r ∈ x.d :: x.regs → r < 8 * s.cur.blocks)
    (hr : x.fp64 = true → (s.core s.curCore).resFp = false) : x.eff s lf = .ok (vecResult s x.guard x.d lf) := by
  unfold VectorForm.eff
  split
  · next hfp => exact vecOp64_ok s _ _ _ lf h (hr hfp)
  · exact vecOp_ok s _ _ _ lf h

theorem vecOp64_bad (s : State) (g d : Nat) (rs : List Nat) (f : Nat → LaneRes) (h : ∃ r ∈ d :: rs, 8 * s.cur.blocks ≤ r) :
    vecOp64 s g d rs f = .error (allotment 0) := by
  have : (d :: rs).all (vecIn s) = false := by
    obtain ⟨r, hr, hb⟩ := h
    rw [List.all_eq_false]
    exact ⟨r, hr, by simp [vecIn, hb]⟩
  unfold vecOp64 needVecs need
  rw [this]
  rfl

theorem VectorForm.eff_bad {x : VectorForm} {s : State} {lf : Nat → LaneRes} (h : ∃ r ∈ x.d :: x.regs, 8 * s.cur.blocks ≤ r) :
    x.eff s lf = .error (allotment 0) := by
  unfold VectorForm.eff
  split
  · exact vecOp64_bad s _ _ _ lf h
  · exact vecOp_bad s _ _ _ lf h

/-- A form that can run leaves a vector result. -/
theorem VectorForm.Computes.result {x : VectorForm} {s : State} {r : Res} (hx : x.Computes s r)
    (h : ∀ r, r ∈ x.d :: x.regs → r < 8 * s.cur.blocks) (hr : x.fp64 = true → (s.core s.curCore).resFp = false) :
    ∃ lf, r = .next (advance (vecResult s x.guard x.d lf)) ∧ LanesGive x.width x.value lf := by
  obtain ⟨lf, he, hlf⟩ := hx
  exact ⟨lf, by rw [he, VectorForm.eff_ok h hr]; rfl, hlf⟩

theorem VectorForm.Computes.done {x : VectorForm} {s : State} {r : Res} (hx : x.Computes s r)
    (h : ∀ r, r ∈ x.d :: x.regs → r < 8 * s.cur.blocks) (hr : x.fp64 = true → (s.core s.curCore).resFp = false) :
    ∃ t, r = .next (advance t) ∧ x.done s t := by
  obtain ⟨lf, he, hlf⟩ := hx
  rw [he]
  exact vector_done (VectorForm.eff_ok h hr) (fun l hl => (hlf l hl).1) (fun l hl b _ => (hlf l hl).2 b)

theorem VectorForm.Computes.trap {x : VectorForm} {s : State} {r : Res} (hx : x.Computes s r)
    (h : ∃ r ∈ x.d :: x.regs, 8 * s.cur.blocks ≤ r) : r = .next (takeTrap s { cause := 6 }) := by
  obtain ⟨lf, he, -⟩ := hx
  rw [he, VectorForm.eff_bad h]
  rfl

/-! ## Steps of an effect -/

theorem need_bind {c : Bool} (h : c = true) (e : Stop) (k : Eff) : (do need c e; k) = k := by
  rw [h]
  rfl

theorem need_bind_stop {c : Bool} (h : c = false) (e : Stop) (k : Eff) : (do need c e; k) = .error e := by
  rw [h]
  rfl

theorem readS_bind (s : State) {a : BitVec 8} (h : isSource a) (k : W64 → Eff) : (do let v ← readS s a; k v) = k (sourceOf s a) := by
  rw [readS_source s a h]
  rfl

theorem readS_bind_stop (s : State) {a : BitVec 8} (h : ¬ isSource a) (k : W64 → Eff) :
    (do let v ← readS s a; k v) = .error (illegalOperand 0) := by
  rw [readS_bad s (Nat.le_of_not_lt h)]
  rfl

theorem roundingOk {r : BitVec 3} (h : decide (5 ≤ r.toNat) = false) : decide (r.toNat < 5) = true := by
  simpa using h

/-! ## The shapes of forms -/

/-- Lanes computed element by element. -/
theorem lanesGive_perElem (n : Nat) (v : Nat → Nat → Nat × Flags) : LanesGive n v (fun l => perElem n (64 / n) (v l)) := fun l _ =>
  ⟨fun k hk => elem_perElem n _ (v l) (Nat.mul_div_le 64 n) k hk, fun b => flags_perElem n _ (v l) b⟩

/-- Elements of 64 bits: one in each lane. -/
theorem lanesGive_of_first {v : Nat → Nat → Nat × Flags} {lf : Nat → LaneRes}
    (h : ∀ l, (lf l).1 = BitVec.ofNat 64 (v l 0).1 ∧ (lf l).2 = (v l 0).2) : LanesGive 64 v lf := by
  refine fun l _ => ⟨fun k hk => ?_, fun b => ?_⟩
  · obtain rfl : k = 0 := by omega
    rw [elem_64, (h l).1]
  · rw [(h l).2]
    refine ⟨fun hb => ⟨0, by decide, hb⟩, fun ⟨k, hk, hb⟩ => ?_⟩
    obtain rfl : k = 0 := by omega
    exact hb

/-- Whole lanes, with their flags. -/
theorem lanesGive_wholeLane (f : Nat → LaneRes) : LanesGive 64 (wholeLane f) f :=
  lanesGive_of_first fun l => ⟨by simp [wholeLane], rfl⟩

theorem lanesGive_pure64 (f : Nat → W64) : LanesGive 64 (laneValue f) (fun l => pure64 (f l)) := lanesGive_wholeLane fun l => pure64 (f l)

/-- A lane of one element computed by itself. -/
theorem lanesGive_perElem_one {v : Nat → Nat × Flags} {f : Nat → Nat → Nat × Flags} (h : ∀ l, f l 0 = v l) :
    LanesGive 64 (fun l _ => v l) (fun l => perElem 64 1 (f l)) := by
  refine lanesGive_of_first fun l => ?_
  rw [← h l]
  exact ⟨(elem_64 _).symm.trans (elem_perElem 64 1 (f l) (by decide) 0 (by decide)), by simp [perElem, upFrom]⟩

/-- Elements computed without flags. -/
theorem lanesGive_plain {n : Nat} {f : Nat → Nat → Nat} {op : Nat → Nat → BitVec n} (h : ∀ l k, BitVec.ofNat n (f l k) = op l k) :
    LanesGive n (fun l k => ((op l k).toNat, 0)) (fun l => perElem n (64 / n) (fun k => (f l k, 0))) := by
  intro l hl
  obtain ⟨helem, hflag⟩ := lanesGive_perElem n (fun l k => (f l k, 0)) l hl
  refine ⟨fun k hk => ?_, hflag⟩
  rw [helem k hk, h, ofNat_toNat_self]

/-- Elements of 32 bits shifted each by its own amount. -/
theorem lanesGive_shift32 (f : BitVec 32 → Nat → BitVec 32) (a b : Nat → W64) :
    LanesGive 32 (fun l k => ((f (elem 32 (a l) k) ((elem 32 (b l) k).toNat % 32)).toNat, 0)) (fun l => pure64 (shift32 f (a l) (b l))) := by
  refine fun l _ => ⟨fun k (hk : k < 2) => ?_, fun b => by simp [pure64]⟩
  simp only [ofNat_toNat_self, pure64, shift32]
  rw [elem_packElems _ (by simp [upFrom]) k (by simpa [upFrom] using hk)]
  simp [upFrom_eq, bits]

section
variable (s : State) (g d a b n : Nat)

theorem computes_vf1 (f : Nat → Nat × Flags) :
    VectorForm.Computes ⟨d, g, [a], n, false, numOf1 n f s a⟩ s (run s (vf1 s g d a n f)) :=
  ⟨_, rfl, lanesGive_perElem n (numOf1 n f s a)⟩

theorem computes_vf2 (f : Nat → Nat → Nat × Flags) :
    VectorForm.Computes ⟨d, g, [a, b], n, false, numOf2 n f s a b⟩ s (run s (vf2 s g d a b n f)) :=
  ⟨_, rfl, lanesGive_perElem n (numOf2 n f s a b)⟩

theorem computes_vf3 (f : Nat → Nat → Nat → Nat × Flags) :
    VectorForm.Computes ⟨d, g, [a, b], n, false, numOf3 n f s a b d⟩ s (run s (vf3 s g d a b n f)) :=
  ⟨_, rfl, lanesGive_perElem n (numOf3 n f s a b d)⟩

theorem computes_vd1 (f : Nat → Nat × Flags) :
    VectorForm.Computes ⟨d, g, [a], 64, true, numOf1 64 f s a⟩ s (run s (vd1 s g d a f)) :=
  ⟨_, rfl, lanesGive_perElem 64 (numOf1 64 f s a)⟩

theorem computes_vd2 (f : Nat → Nat → Nat × Flags) :
    VectorForm.Computes ⟨d, g, [a, b], 64, true, numOf2 64 f s a b⟩ s (run s (vd2 s g d a b f)) :=
  ⟨_, rfl, lanesGive_perElem 64 (numOf2 64 f s a b)⟩

theorem computes_vd3 (f : Nat → Nat → Nat → Nat × Flags) :
    VectorForm.Computes ⟨d, g, [a, b], 64, true, numOf3 64 f s a b d⟩ s (run s (vd3 s g d a b f)) :=
  ⟨_, rfl, lanesGive_perElem 64 (numOf3 64 f s a b d)⟩

theorem computes_quad (f : Fmt) (q : Nat → Nat × Nat) :
    VectorForm.Computes ⟨d, g, [a], n, false, fun l k => fSub f (elem n (vreg s a (q l).1) k).toNat (elem n (vreg s a (q l).2) k).toNat⟩ s
      (run s (vecOp s g d [a] (fun l => quadDiff s a n f (q l).1 (q l).2))) :=
  ⟨_, rfl, lanesGive_perElem n _⟩

theorem computes_vs2 {c : BitVec 8} (hc : isSource c) (f : Nat → Nat → Nat × Flags) :
    VectorForm.Computes ⟨d, g, [a], 64, true, fun l _ => f (vreg s a l).toNat (sourceOf s c).toNat⟩ s
      (run s (do let v ← readS s c; vecOp64 s g d [a] (fun l => el2 64 f (vreg s a l) v))) :=
  ⟨_, congrArg (run s) (readS_bind s hc _), lanesGive_perElem_one fun l => by rw [elem_64, elem_64]⟩

theorem computes_vs3 {c : BitVec 8} (hc : isSource c) (f : Nat → Nat → Nat → Nat × Flags) :
    VectorForm.Computes ⟨d, g, [a], 64, true, fun l _ => f (vreg s a l).toNat (sourceOf s c).toNat (vreg s d l).toNat⟩ s
      (run s (do let v ← readS s c; vecOp64 s g d [a] (fun l => el3 64 f (vreg s a l) v (vreg s d l)))) :=
  ⟨_, congrArg (run s) (readS_bind s hc _), lanesGive_perElem_one fun l => by rw [elem_64, elem_64, elem_64]⟩

theorem computes_integer2 {f : Nat → Nat → Nat} {op : BitVec n → BitVec n → BitVec n}
    (h : ∀ x y : BitVec n, BitVec.ofNat n (f x.toNat y.toNat) = op x y) :
    VectorForm.Computes ⟨d, g, [a, b], n, false, bitsOf2 n op s a b⟩ s (run s (vf2 s g d a b n (plain2 f))) :=
  ⟨_, rfl, lanesGive_plain fun _ _ => h _ _⟩

theorem computes_integer1 {f : Nat → Nat} {op : BitVec n → BitVec n} (h : ∀ x : BitVec n, BitVec.ofNat n (f x.toNat) = op x) :
    VectorForm.Computes ⟨d, g, [a], n, false, bitsOf1 n op s a⟩ s (run s (vf1 s g d a n (plain1 f))) :=
  ⟨_, rfl, lanesGive_plain fun _ _ => h _⟩

theorem computes_clamp (signed : Bool) {f : Nat → Nat → Nat × Flags} {op : BitVec 32 → BitVec 32 → Int}
    (h : ∀ x y : BitVec 32, f x.toNat y.toNat = iClamp signed 32 (op x y)) :
    VectorForm.Computes ⟨d, g, [a, b], 32, false, clampOf signed op s a b⟩ s (run s (vf2 s g d a b 32 f)) := by
  have hv : clampOf signed op s a b = numOf2 32 f s a b := by
    funext l k
    rw [clampOf, numOf2, h, iClamp_eq_clamp32]
  rw [hv]
  exact computes_vf2 ..

theorem computes_vw2 {f op : W64 → W64 → W64} (h : ∀ x y, f x y = op x y) :
    VectorForm.Computes ⟨d, g, [a, b], 64, false, bitsOf2 64 op s a b⟩ s (run s (vw2 s g d a b f)) :=
  ⟨_, rfl, lanesGive_of_first fun l => ⟨by simp [pure64, bitsOf2, h], rfl⟩⟩

theorem computes_vw1 {f op : W64 → W64} (h : ∀ x, f x = op x) :
    VectorForm.Computes ⟨d, g, [a], 64, false, bitsOf1 64 op s a⟩ s (run s (vw1 s g d a f)) :=
  ⟨_, rfl, lanesGive_of_first fun l => ⟨by simp [pure64, bitsOf1, h], rfl⟩⟩

theorem computes_shift32 (f : BitVec 32 → Nat → BitVec 32) :
    VectorForm.Computes ⟨d, g, [a, b], 32, false, bitsOf2 32 (fun x y => f x (y.toNat % 32)) s a b⟩ s (run s (vw2 s g d a b (shift32 f))) :=
  ⟨_, rfl, lanesGive_shift32 f (vreg s a) (vreg s b)⟩

theorem computes_laneValue (rs : List Nat) {f op : Nat → W64} (h : ∀ l, f l = op l) :
    VectorForm.Computes ⟨d, g, rs, 64, false, laneValue op⟩ s (run s (vecOp s g d rs (fun l => pure64 (f l)))) :=
  ⟨_, rfl, lanesGive_of_first fun l => ⟨by simp [pure64, laneValue, h], rfl⟩⟩

theorem computes_shuffle (rs : List Nat) {src lane : Nat → Nat} (h : ∀ l, src l = lane l) :
    VectorForm.Computes ⟨d, g, a :: rs, 64, false, laneValue (fun l => vreg s a (lane l))⟩ s (run s (shuffle s g d a rs src)) :=
  computes_laneValue s g d (a :: rs) fun l => congrArg (vreg s a) (h l)

theorem computes_wholeLane (rs : List Nat) (f : Nat → LaneRes) :
    VectorForm.Computes ⟨d, g, rs, 64, false, wholeLane f⟩ s (run s (vecOp s g d rs f)) := ⟨f, rfl, lanesGive_wholeLane f⟩

theorem computes_dot (w m : Nat) (hm : 32 / w = m) (st u v : Bool) :
    VectorForm.Computes ⟨d, g, [a, b], 32, false, dotOf w m st u v s a b d⟩ s
      (run s (vecOp s g d [a, b] (fun l => dotLane w st u v (vreg s a l) (vreg s b l) (vreg s d l)))) := by
  simp only [dotLane_eq w m hm]
  exact ⟨_, rfl, lanesGive_perElem 32 _⟩

end

theorem VectorForm.Computes.need {x : VectorForm} {s : State} {e : Eff} (hx : x.Computes s (run s e)) {c : Bool} (h : c = true) (q : Stop) :
    x.Computes s (run s (do need c q; e)) := by
  rw [need_bind h]
  exact hx

/-! ## Elements whose rows are written otherwise -/

theorem bits_0_5 (y : W64) : bits y 0 5 = y.toNat % 32 := by simp [bits]
theorem bits_0_2 (y : W64) : bits y 0 2 = y.toNat % 4 := by simp [bits]

theorem packHalves_eq (x y : W64) : w64 (bits y 0 32 * 2 ^ 32 + bits x 0 32) = (y.setWidth 32 ++ x.setWidth 32 : BitVec (32 + 32)) := by
  apply BitVec.eq_of_toNat_eq
  have hx : x.toNat % 2 ^ 32 < 2 ^ 32 := Nat.mod_lt _ (by decide)
  have hy : y.toNat % 2 ^ 32 < 2 ^ 32 := Nat.mod_lt _ (by decide)
  rw [w64, BitVec.toNat_ofNat, BitVec.toNat_append, ← Nat.shiftLeft_add_eq_or_of_lt (BitVec.isLt _), Nat.shiftLeft_eq, BitVec.toNat_setWidth,
    BitVec.toNat_setWidth]
  simp only [bits, Nat.shiftRight_zero]
  exact Nat.mod_eq_of_lt (by omega)

theorem bitField_eq (x y : W64) :
    bitField x y = BitVec.ofNat 64 ((x >>> (y.toNat % 64)).toNat % 2 ^ (min (y.toNat / 256 % 128) 64)) := by
  have hn : bits y 8 7 = y.toNat / 256 % 128 := by simp [bits, Nat.shiftRight_eq_div_pow]
  rw [bitField, bits_0_6, hn, BitVec.toNat_ushiftRight]
  rfl

theorem highHalf_eq (x : W64) : w64 (bits x 32 32) = x >>> 32 := by
  apply BitVec.eq_of_toNat_eq
  simp [w64, bits]
  omega

theorem lowHalf_eq (x : W64) : w64 (bits x 0 32) = (x.setWidth 32).setWidth 64 := by
  apply BitVec.eq_of_toNat_eq
  simp [w64, bits]

/-! ## The tables, row by row -/

theorem floatForm_computes {i : Instr} {s : State} {x : VectorForm} (h : floatForm s i = some x) (hround : badRounding i = false)
    (hsrc : ∀ b, scalarSource i = some b → isSource b) : x.Computes s (exec i s) := by
  unfold floatForm at h
  split at h <;> cases h
  iterate 4 exact computes_vd2 ..
  iterate 3 exact computes_vd3 ..
  iterate 3 exact computes_vd2 ..
  iterate 4 exact computes_vd1 ..
  · exact (computes_vd1 ..).need (roundingOk hround) _
  iterate 4 exact computes_vf2 ..
  iterate 3 exact computes_vf3 ..
  iterate 3 exact computes_vf2 ..
  iterate 4 exact computes_vf1 ..
  · exact (computes_vf1 ..).need (roundingOk hround) _
  · exact computes_vd2 ..
  iterate 3 exact computes_vf2 ..
  · exact computes_vf3 ..
  iterate 2 exact computes_vf2 ..
  iterate 2 exact computes_vf1 ..
  iterate 2 exact computes_quad _ _ _ _ _ _ quadX
  iterate 2 exact computes_quad _ _ _ _ _ _ quadY
  iterate 2 exact computes_vs2 _ _ _ _ (hsrc _ rfl) _
  · exact computes_vs3 _ _ _ _ (hsrc _ rfl) _

theorem integerForm_computes {i : Instr} {s : State} {x : VectorForm} (h : integerForm s i = some x) : x.Computes s (exec i s) := by
  unfold integerForm at h
  split at h <;> cases h
  · exact computes_integer2 _ _ _ _ _ _ ofNat_addOp
  · exact computes_integer2 _ _ _ _ _ _ ofNat_subOp
  · exact computes_integer2 _ _ _ _ _ _ ofNat_mulOp
  · exact computes_integer2 _ _ _ _ _ _ ofNat_iMulHigh_signed
  · exact computes_integer2 _ _ _ _ _ _ ofNat_iMulHigh_unsigned
  · exact computes_integer2 _ _ _ _ _ _ ofNat_iMin_signed
  · exact computes_integer2 _ _ _ _ _ _ ofNat_iMax_signed
  · exact computes_integer2 _ _ _ _ _ _ ofNat_iMin_unsigned
  · exact computes_integer2 _ _ _ _ _ _ ofNat_iMax_unsigned
  · exact computes_integer1 _ _ _ _ _ ofNat_iAbs
  · exact computes_integer1 _ _ _ _ _ ofNat_negInt
  · exact computes_integer2 _ _ _ _ _ _ ofNat_addOp
  · exact computes_integer2 _ _ _ _ _ _ ofNat_subOp
  · exact computes_integer2 _ _ _ _ _ _ ofNat_mulOp
  · exact computes_integer2 _ _ _ _ _ _ ofNat_iMulHigh_signed
  · exact computes_integer2 _ _ _ _ _ _ ofNat_iMulHigh_unsigned
  · exact computes_integer2 _ _ _ _ _ _ ofNat_iMin_signed
  · exact computes_integer2 _ _ _ _ _ _ ofNat_iMax_signed
  · exact computes_integer2 _ _ _ _ _ _ ofNat_iMin_unsigned
  · exact computes_integer2 _ _ _ _ _ _ ofNat_iMax_unsigned
  · exact computes_integer2 _ _ _ _ _ _ ofNat_iDiv_signed
  · exact computes_integer2 _ _ _ _ _ _ ofNat_iDiv_unsigned
  · exact computes_integer2 _ _ _ _ _ _ ofNat_iRem_signed
  · exact computes_integer2 _ _ _ _ _ _ ofNat_iRem_unsigned
  · exact computes_integer1 _ _ _ _ _ ofNat_iAbs
  · exact computes_integer1 _ _ _ _ _ ofNat_negInt
  · exact computes_clamp _ _ _ _ _ true fun x y => by rw [satAdd, intVal_signed, intVal_signed]
  · exact computes_clamp _ _ _ _ _ true fun x y => by rw [satSub, intVal_signed, intVal_signed]
  · exact computes_clamp _ _ _ _ _ false fun x y => by rw [satAdd, intVal_unsigned, intVal_unsigned]
  · exact computes_clamp _ _ _ _ _ false fun x y => by rw [satSub, intVal_unsigned, intVal_unsigned]

theorem logicForm_computes {i : Instr} {s : State} {x : VectorForm} (h : logicForm s i = some x)
    (hsrc : ∀ b, scalarSource i = some b → isSource b) : x.Computes s (exec i s) := by
  unfold logicForm at h
  split at h <;> cases h
  iterate 4 exact computes_vw2 _ _ _ _ _ fun _ _ => rfl
  iterate 4 exact computes_vw2 _ _ _ _ _ fun x y => by rw [bits_0_6]
  · exact computes_vw2 _ _ _ _ _ bitField_eq
  · exact computes_vw2 _ _ _ _ _ packHalves_eq
  · exact computes_shift32 _ _ _ _ _ fun x n => x <<< n
  · exact computes_shift32 _ _ _ _ _ fun x n => x >>> n
  · exact computes_shift32 _ _ _ _ _ fun x n => x.sshiftRight n
  · exact computes_vw1 _ _ _ _ fun _ => rfl
  · exact computes_vw1 _ _ _ _ fun x => by rw [popCount_eq_countP]; rfl
  · exact computes_vw1 _ _ _ _ fun x => by rw [clz_eq_findIdx]; rfl
  iterate 2 exact computes_vw1 _ _ _ _ fun _ => rfl
  · exact computes_vw1 _ _ _ _ highHalf_eq
  · exact computes_vw1 _ _ _ _ lowHalf_eq
  iterate 2 exact computes_laneValue _ _ _ _ fun _ => rfl
  · exact computes_laneValue _ _ _ _ fun l => by rw [Nat.add_comm]; rfl
  · exact computes_laneValue _ _ _ _ fun _ => rfl
  · have hb := hsrc _ rfl
    exact ⟨_, congrArg (run s) (readS_bind s hb _), lanesGive_pure64 _⟩
  · exact computes_shuffle _ _ _ _ _ fun l => bits_0_5 _
  · exact computes_shuffle _ _ _ _ _ fun l => by rw [laneArg, bits_0_5]
  · exact computes_shuffle _ _ _ _ _ fun l => by rw [laneArg, bits_0_5]
  · exact computes_shuffle _ _ _ _ _ fun l => by rw [laneArg, bits_0_5]; rfl
  iterate 3 exact computes_shuffle _ _ _ _ _ fun _ => rfl
  · exact computes_shuffle _ _ _ _ _ fun l => by rw [bits_0_2]

theorem convertForm_computes {i : Instr} {s : State} {x : VectorForm} (h : convertForm s i = some x) (hwf : i.wellFormed = true)
    (hround : badRounding i = false) : x.Computes s (exec i s) := by
  unfold convertForm at h
  split at h <;> cases h
  · exact ((computes_wholeLane ..).need (roundingOk hround) _).need hwf _
  · exact computes_dot _ _ _ _ _ 8 4 rfl ..
  · exact computes_dot _ _ _ _ _ 4 8 rfl ..
  iterate 9 exact computes_vf1 ..

theorem vectorForm_computes {i : Instr} {s : State} {x : VectorForm} (h : vectorForm s i = some x) (hwf : i.wellFormed = true)
    (hround : badRounding i = false) (hsrc : ∀ b, scalarSource i = some b → isSource b) : x.Computes s (exec i s) := by
  simp only [vectorForm, Option.or_eq_some_iff] at h
  rcases h with h | ⟨-, h | ⟨-, h | ⟨-, h⟩⟩⟩
  · exact floatForm_computes h hround hsrc
  · exact integerForm_computes h
  · exact logicForm_computes h hsrc
  · exact convertForm_computes h hwf hround

theorem VectorForm.Computes.done_of_ready {i : Instr} {s : State} {x : VectorForm} (hx : x.Computes s (exec i s)) (h : x.ready s i) :
    ∃ t, exec i s = .next (advance t) ∧ x.done s t := by
  obtain ⟨-, -, -, hregs, hres⟩ := h
  exact hx.done hregs hres

/-- Settles O7: every row of R157, R159, R172 and R176 is a vector operation on elements. -/
theorem vectorFloatResults : Obligations.VectorFloatResults := by
  unfold Obligations.VectorFloatResults
  intro i s x hx h
  have ⟨_, hround, hsrc, _⟩ := h
  exact (floatForm_computes hx hround hsrc).done_of_ready h

/-- Settles O8: the integer functions of the rows are those of R85 and R160. -/
theorem vectorIntegerResults : Obligations.VectorIntegerResults := by
  unfold Obligations.VectorIntegerResults
  intro i s x hx h
  exact (integerForm_computes hx).done_of_ready h

/-- Settles O9: the rows of R161 to R163, R171 and R176 move or combine whole lanes. -/
theorem vectorLogicResults : Obligations.VectorLogicResults := by
  unfold Obligations.VectorLogicResults
  intro i s x hx h
  have ⟨_, _, hsrc, _⟩ := h
  exact (logicForm_computes hx hsrc).done_of_ready h

/-- Settles O10: the rows of R166 to R170, once their codes are legal. -/
theorem vectorConversionResults : Obligations.VectorConversionResults := by
  unfold Obligations.VectorConversionResults
  intro i s x hx h
  have ⟨hwf, hround, _⟩ := h
  exact (convertForm_computes hx hwf hround).done_of_ready h

/-- Settles O11: a vector result writes lanes of its destination and flags, whatever the lanes compute. -/
theorem vectorFrame : Obligations.VectorFrame := by
  unfold Obligations.VectorFrame
  intro i s t x hx ⟨hwf, hround, hsrc, hregs, hres⟩ ht
  obtain ⟨lf, he, -⟩ := (vectorForm_computes hx hwf hround hsrc).result hregs hres
  obtain rfl : advance (vecResult s x.guard x.d lf) = t := Host.Outcome.next.inj (he.symm.trans ht)
  exact (RegistersKept.vecResult s x.guard x.d lf).advance fun h => h.vecResult ..

end Sys2Proof.Machine
end

section
/-! PROOF. Operands that trap (R23, R52, R81): the operand is read or checked before the instruction has any effect. -/
namespace Sys2Proof.Machine

/-! ## Steps of an effect that stop -/

theorem run_stop (s : State) (q : TrapReq) : run s (.error (.trap q)) = .next (takeTrap s q) := rfl

theorem writeS_stop (s : State) {d : BitVec 8} (h : ¬ isDest d) (v : W64) : writeS s d v = .error (illegalOperand 0) := by
  obtain ⟨hlt, heq⟩ : 192 < d.toNat ∧ d.toNat ≠ 208 := by simpa [isDest] using h
  unfold writeS
  dsimp only
  rw [if_neg (by omega), if_neg (by omega), if_neg heq]

theorem isSource_of_isDest {d : BitVec 8} (h : isDest d) : isSource d := by
  unfold isDest at h
  unfold isSource
  omega

theorem srOp_stop (s : State) {d a : BitVec 8} (h : ¬ isSource a ∨ ¬ isDest d) (b : BitVec 6) (f : W64 → W64 → W64) :
    srOp s d a b f = .error (illegalOperand 0) := by
  unfold srOp
  by_cases ha : isSource a
  · rw [readS_bind s ha, writeS_stop s (h.resolve_left (not_not_intro ha))]
  · rw [readS_bind_stop s ha]

theorem srUn_stop (s : State) {d a : BitVec 8} (h : ¬ isSource a ∨ ¬ isDest d) (f : W64 → W64) :
    srUn s d a f = .error (illegalOperand 0) := by
  unfold srUn
  by_cases ha : isSource a
  · rw [readS_bind s ha, writeS_stop s (h.resolve_left (not_not_intro ha))]
  · rw [readS_bind_stop s ha]

/-- SSEL reads its destination first. -/
theorem ssel_stop (s : State) {d a : BitVec 8} (h : ¬ isSource a ∨ ¬ isDest d) (b : BitVec 6) (f : W64 → W64 → W64 → W64) :
    (do let c ← readS s d; srOp s d a b (f c)) = .error (illegalOperand 0) := by
  by_cases hd : isSource d
  · rw [readS_bind s hd, srOp_stop s h]
  · rw [readS_bind_stop s hd]

theorem isSource_zero : isSource 192 := by
  unfold isSource
  decide

/-! ## The tables, row by row -/

theorem scalarForm_stop {i : Instr} {s : State} {x : ScalarForm} (hx : scalarForm i = some x)
    (h : ¬ isSource x.a ∨ ¬ isDest x.d ∨ ∃ d n, i = .shin d n ∧ 192 < d.toNat) :
    exec i s = .next (takeTrap s { cause := 3 }) := by
  have hone : (∀ d n, i ≠ .shin d n) → ¬ isSource x.a ∨ ¬ isDest x.d := by
    intro hi
    rcases h with ha | hd | ⟨d, n, rfl, -⟩
    · exact .inl ha
    · exact .inr hd
    · exact absurd rfl (hi d n)
  unfold scalarForm at hx
  split at hx <;> cases hx
  iterate 15 exact congrArg (run s) (srOp_stop s (hone nofun) _ _)
  · exact congrArg (run s) (ssel_stop s (hone nofun) _ fun c x y => if c = 0 then y else x)
  iterate 4 exact congrArg (run s) (srOp_stop s (hone nofun) _ _)
  iterate 4 exact congrArg (run s) (srUn_stop s (hone nofun) _)
  · exact congrArg (run s) (srOp_stop s (hone nofun) _ _)
  iterate 9 exact congrArg (run s) (srUn_stop s (hone nofun) _)
  · exact congrArg (run s) (writeS_stop s ((hone nofun).resolve_left (not_not_intro isSource_zero)) _)
  · next d n =>
    have hd : ¬ d.toNat ≤ 192 := by
      rcases h with ha | hd | ⟨d', n', heq, hlt⟩
      · exact absurd isSource_zero ha
      · exact fun hle => hd (.inl hle)
      · cases heq
        exact Nat.not_le.2 hlt
    exact congrArg (run s) (need_bind_stop (decide_eq_false hd) _ _)

theorem badRounding_stop {i : Instr} (s : State) (hwf : i.wellFormed = true) (h : badRounding i = true) :
    exec i s = .next (takeTrap s { cause := 3, detail := 1 }) := by
  have hcode : ∀ {r : BitVec 3}, decide (5 ≤ r.toNat) = true → decide (r.toNat < 5) = false := by
    intro r hr
    simpa using hr
  unfold badRounding at h
  split at h
  iterate 2 exact congrArg (run s) (need_bind_stop (hcode h) _ _)
  · exact congrArg (run s) ((need_bind hwf _ _).trans (need_bind_stop (hcode h) _ _))
  iterate 2 exact congrArg (run s) (need_bind_stop (hcode h) _ _)
  · cases h

theorem needVecs_bind (s : State) {rs : List Nat} (h : ∀ r ∈ rs, r < 8 * s.cur.blocks) (k : Eff) : (do needVecs s rs; k) = k :=
  need_bind (List.all_eq_true.2 fun r hr => decide_eq_true (h r hr)) _ _

theorem needVecs_bind_stop (s : State) {rs : List Nat} (h : ∃ r ∈ rs, 8 * s.cur.blocks ≤ r) (k : Eff) :
    (do needVecs s rs; k) = .error (allotment 0) := by
  obtain ⟨r, hr, hle⟩ := h
  exact need_bind_stop (List.all_eq_false.2 ⟨r, hr, by simpa [vecIn] using hle⟩) _ _

theorem residueFp_bind (s : State) (h : (s.core s.curCore).resFp = false) (m : W32) (k : Eff) : (do residueFp s m; k) = k := by
  unfold residueFp
  rw [if_neg (by simp [h])]
  rfl

theorem scalarResult_stop (s : State) {d : BitVec 8} (h : ¬ isDest d) (r : LaneRes) : scalarResult s d r = .error (illegalOperand 0) := by
  unfold scalarResult
  rw [writeS_stop s h]
  rfl

theorem sfOp_stop (s : State) (hres : (s.core s.curCore).resFp = false) {d a : BitVec 8} (h : ¬ isSource a ∨ ¬ isDest d) (b : BitVec 6)
    (f : Nat → Nat → Nat × Flags) : sfOp s d a b f = .error (illegalOperand 0) := by
  unfold sfOp
  by_cases ha : isSource a
  · rw [readS_bind s ha, residueFp_bind s hres, scalarResult_stop s (h.resolve_left (not_not_intro ha))]
  · rw [readS_bind_stop s ha]

theorem sfCvt_stop (s : State) (hres : (s.core s.curCore).resFp = false) {d a : BitVec 8} {r : BitVec 3} (hr : decide (5 ≤ r.toNat) = false)
    (h : ¬ isSource a ∨ ¬ isDest d) (f : Nat → W64 → Nat × Flags) : sfCvt s d a r f = .error (illegalOperand 0) := by
  unfold sfCvt needRound
  rw [need_bind (roundingOk hr)]
  by_cases ha : isSource a
  · rw [readS_bind s ha, residueFp_bind s hres, scalarResult_stop s (h.resolve_left (not_not_intro ha))]
  · rw [readS_bind_stop s ha]

theorem scalarFloatForm_stop {i : Instr} {x : ScalarFloatForm} {s : State} (hx : scalarFloatForm i = some x) (hround : badRounding i = false)
    (hres : (s.core s.curCore).resFp = false) (h : ¬ isSource x.a ∨ ¬ isDest x.d) : exec i s = .next (takeTrap s { cause := 3 }) := by
  unfold scalarFloatForm at hx
  split at hx <;> cases hx
  iterate 6 exact congrArg (run s) (sfOp_stop s hres h _ _)
  iterate 2 exact congrArg (run s) (sfCvt_stop s hres hround h _)

theorem scalarSource_stop {i : Instr} {b : BitVec 8} (s : State) (hx : scalarSource i = some b ∨ predSource i = some b) (h : ¬ isSource b) :
    exec i s = .next (takeTrap s { cause := 3 }) := by
  rcases hx with hx | hx
  · unfold scalarSource at hx
    split at hx <;> cases hx
    iterate 4 exact congrArg (run s) (readS_bind_stop s h _)
  · unfold predSource at hx
    split at hx <;> cases hx
    exact congrArg (run s) (readS_bind_stop s h _)

/-- A reduction that its operands let run ends in the write of its scalar. -/
theorem vred_eq (s : State) (d : BitVec 8) {a : Nat} (g : Nat) {fp : Bool} (ident : W64) (f : W64 → W64 → LaneRes) (ha : a < 8 * s.cur.blocks)
    (hres : fp = true → (s.core s.curCore).resFp = false) :
    vred s d a g fp ident f = scalarResult s d (reduce ident f ((lanesOf (activeLanes s g)).map (vreg s a))) := by
  unfold vred
  rw [needVecs_bind s (by simpa using ha)]
  cases fp with
  | false => rfl
  | true => exact residueFp_bind s (hres rfl) _ _

theorem vred_stop (s : State) (d : BitVec 8) {a : Nat} (g : Nat) (fp : Bool) (ident : W64) (f : W64 → W64 → LaneRes) (ha : 8 * s.cur.blocks ≤ a) :
    vred s d a g fp ident f = .error (allotment 0) := needVecs_bind_stop s ⟨a, List.mem_singleton_self a, ha⟩ _

/-- Each row of R174 is one reduction. -/
theorem reduceForm_runs {i : Instr} {x : ReduceForm} (s : State) (hx : reduceForm i = some x) :
    ∃ ident f, exec i s = run s (vred s x.d x.a x.guard x.fp64 ident f) := by
  unfold reduceForm at hx
  split at hx <;> cases hx
  all_goals exact ⟨_, _, rfl⟩

theorem voteForm_stop {i : Instr} {s : State} {d : BitVec 8} {v : W64} (hx : voteForm s i = some (d, v)) (hregs : voteRegs i = [])
    (h : ¬ isDest d) : exec i s = .next (takeTrap s { cause := 3 }) := by
  unfold voteForm at hx
  dsimp only at hx
  split at hx <;> cases hx
  iterate 4 exact congrArg (run s) (writeS_stop s h _)
  cases hregs

/-- Settles O5: the operands are read, and the allotment checked, before the effect. -/
theorem operandTraps : Obligations.OperandTraps := by
  unfold Obligations.OperandTraps
  refine ⟨fun i x s => scalarForm_stop, fun i s => badRounding_stop s, fun i s x hx hwf hround hsrc => ?vector,
    fun i x s => scalarFloatForm_stop, fun i b s => scalarSource_stop s, fun v a n s => ⟨?vput, ?vget, ?beyond⟩,
    fun i x s hx hres => ?reduce, fun i s d v => voteForm_stop⟩
  case vector => exact (vectorForm_computes hx hwf hround hsrc).trap
  case vput => exact fun h => congrArg (run s) (readS_bind_stop s h _)
  case vget =>
    intro hv ha
    exact congrArg (run s) ((needVecs_bind s (by simpa using hv) _).trans (writeS_stop s ha _))
  case beyond =>
    intro hv
    have hmem : ∃ r ∈ [v.toNat], 8 * s.cur.blocks ≤ r := ⟨_, List.mem_singleton_self _, hv⟩
    exact ⟨congrArg (run s) (needVecs_bind_stop s hmem _),
      fun ha => (congrArg (run s) (readS_bind s ha _)).trans (congrArg (run s) (needVecs_bind_stop s hmem _))⟩
  case reduce =>
    obtain ⟨ident, f, he⟩ := reduceForm_runs s hx
    rw [he]
    exact ⟨fun ha => congrArg (run s) (vred_stop s _ _ _ _ _ ha),
      fun ha hd => congrArg (run s) ((vred_eq s _ _ _ _ ha hres).trans (scalarResult_stop s hd _))⟩

end Sys2Proof.Machine
end

section
/-! PROOF. The scans (R173): the sum at a lane folds the values of the enabled lanes up to it. -/
namespace Sys2Proof.Machine

theorem lanes_eq_range : lanes = List.range 32 := by
  rw [lanes, upFrom_eq]
  simp

theorem lanesOf_sorted (m : W32) : (lanesOf m).Pairwise (· < ·) := by
  unfold lanesOf
  rw [lanes_eq_range]
  exact (List.pairwise_lt_range).filter _

theorem laneValues_eq (s : State) (a : Nat) (m : W32) (pick : Nat → Bool) :
    laneValues s a m pick = ((lanesOf m).filter pick).map (vreg s a) := by
  unfold laneValues lanesOf
  rw [lanes_eq_range, List.filter_filter]
  simp only [Bool.and_comm]

theorem laneValues_all (s : State) (a : Nat) (m : W32) : laneValues s a m (fun _ => true) = (lanesOf m).map (vreg s a) := by
  simp [laneValues_eq]

/-! ## Folds, one value further -/

theorem combined_snoc (ident : W64) (f : W64 → W64 → W64 × Flags) {vs : List W64} (hne : vs ≠ []) (v : W64) :
    combined ident f (vs ++ [v]) =
      ((f (combined ident f vs).1 v).1, (combined ident f vs).2 ||| (f (combined ident f vs).1 v).2) := by
  cases vs with
  | nil => exact absurd rfl hne
  | cons u us => simp [combined]

theorem combined_pure64_add (vs : List W64) : combined 0 (fun x y => pure64 (x + y)) vs = (vs.sum, 0) := by
  induction vs using List.reverseRecOn with
  | nil => rfl
  | append_singleton us v ih =>
    by_cases hne : us = []
    · subst hne
      simp [combined]
    · rw [combined_snoc 0 _ hne, ih]
      simp [pure64]

/-- The sum that a scan carries on from, after the values of the lanes before. -/
def scanAcc (add : W64 → W64 → LaneRes) (vs : List W64) : Option W64 := if vs = [] then none else some (combined 0 add vs).1

/-- One step of a scan goes from the fold of the values before to the fold with the next one. -/
theorem scanSums_cons (s : State) (a : Nat) (add : W64 → W64 → LaneRes) (vs : List W64) (l : Nat) (ls : List Nat) :
    ∃ r : LaneRes, scanSums s a add (scanAcc add vs) (l :: ls) = (l, r) :: scanSums s a add (scanAcc add (vs ++ [vreg s a l])) ls ∧
      r.1 = (combined 0 add (vs ++ [vreg s a l])).1 ∧ (combined 0 add vs).2 ||| r.2 = (combined 0 add (vs ++ [vreg s a l])).2 := by
  by_cases hne : vs = []
  · subst hne
    exact ⟨(vreg s a l, 0), by simp [scanSums, scanAcc, combined], rfl, by simp [combined]⟩
  · rw [combined_snoc 0 add hne]
    exact ⟨add (combined 0 add vs).1 (vreg s a l), by simp only [scanSums, scanAcc, if_neg hne, if_neg (List.append_ne_nil_of_left_ne_nil hne _), combined_snoc 0 add hne], rfl, rfl⟩

theorem Tab.get_cons {α : Type} (d : α) (j k : Nat) (v : α) (t : Tab α) : Tab.get d ((j, v) :: t) k = if j = k then v else Tab.get d t k := by
  by_cases h : j = k <;> simp [Tab.get, Tab.find, h]

/-- The sum that a scan gives a lane. -/
theorem get_scanSums (s : State) (a : Nat) (add : W64 → W64 → LaneRes) {l : Nat} (ls : List Nat) (hs : ls.Pairwise (· < ·)) (hl : l ∈ ls)
    (vs : List W64) : (Tab.get (0, 0) (scanSums s a add (scanAcc add vs) ls) l).1 =
      (combined 0 add (vs ++ (ls.filter (fun m => decide (m ≤ l))).map (vreg s a))).1 := by
  induction ls generalizing vs with
  | nil => simp at hl
  | cons x xs ih =>
    obtain ⟨hx, hxs⟩ := List.pairwise_cons.1 hs
    obtain ⟨r, hstep, hval, -⟩ := scanSums_cons s a add vs x xs
    rw [hstep, Tab.get_cons]
    rcases List.mem_cons.1 hl with rfl | hmem
    · have hnone : xs.filter (fun m => decide (m ≤ l)) = [] := by
        simpa [List.filter_eq_nil_iff] using hx
      simp [hval, hnone]
    · have hlt := hx l hmem
      rw [if_neg (Nat.ne_of_lt hlt), ih hxs hmem]
      simp [hlt.le]

/-- The flags that a scan raises. -/
theorem flags_scanSums (s : State) (a : Nat) (add : W64 → W64 → LaneRes) (ls : List Nat) (vs : List W64) :
    (scanSums s a add (scanAcc add vs) ls).foldl (fun f r => f ||| r.2.2) (combined 0 add vs).2 =
      (combined 0 add (vs ++ ls.map (vreg s a))).2 := by
  induction ls generalizing vs with
  | nil => simp [scanSums]
  | cons x xs ih =>
    obtain ⟨r, hstep, -, hflags⟩ := scanSums_cons s a add vs x xs
    rw [hstep, List.foldl_cons, hflags, ih]
    simp

/-! ## What a scan leaves -/

theorem vreg_scanWrite (s : State) (d r l : Nat) (m : W32) (rs : List (Nat × LaneRes)) (hl : l < 32) :
    vreg (scanWrite s d m.toNat rs) r l = if r = d ∧ inMask m l = true then (Tab.get (0, 0) rs l).1 else vreg s r l := by
  refine Eq.trans ?_ (vreg_setVecLanes s d r l m (fun k => (Tab.get (0, 0) rs k).1) hl)
  simp only [vreg, scanWrite, raise_cur, BitVec.ofNat_toNat, BitVec.setWidth_eq]

theorem fpst_scanWrite (s : State) (d m : Nat) (rs : List (Nat × LaneRes)) :
    (scanWrite s d m rs).cur.fpst = s.cur.fpst ||| rs.foldl (fun f r => f ||| r.2.2) 0 := by
  rw [scanWrite, raise_cur, setVecLanes_cur]

/-- The sums of a whole scan, written. -/
theorem scanWrite_scanSums (s : State) (d a : Nat) (m : W32) (add : W64 → W64 → LaneRes) :
    (scanWrite s d m.toNat (scanSums s a add none (lanesOf m))).cur.fpst =
        s.cur.fpst ||| (combined 0 add (laneValues s a m (fun _ => true))).2 ∧
      ∀ r l, l < 32 → vreg (scanWrite s d m.toNat (scanSums s a add none (lanesOf m))) r l =
        if r = d ∧ inMask m l = true then (combined 0 add (laneValues s a m (fun k => decide (k ≤ l)))).1 else vreg s r l := by
  refine ⟨?_, fun r l hl => ?_⟩
  · rw [fpst_scanWrite, laneValues_all]
    exact congrArg (s.cur.fpst ||| ·) (flags_scanSums s a add (lanesOf m) [])
  · rw [vreg_scanWrite s d r l m _ hl, laneValues_eq]
    refine ite_congr rfl (fun h => ?_) (fun _ => rfl)
    exact get_scanSums s a add _ (lanesOf_sorted m) (mem_lanesOf.2 ⟨hl, h.2⟩) []

theorem decodeWord_vscan {c : BitVec 1} {d a b : BitVec 6} {p : BitVec 3} {n : BitVec 4} {i : Instr} (hwf : i.wellFormed = true)
    (hd : ∀ w, fld w 19 6 = d → fld w 13 6 = a → fld w 7 6 = b → fld w 4 3 = p → fld w 0 4 = n →
      decMaj2B w = if b = 0 then .ok i else .error .nonzeroField) :
    decodeWord (packVR c 43#6 d a b p n) = if b = 0 then .ok (c == 1#1, i) else .error .nonzeroField := by
  obtain ⟨hc, hmaj, h19, h13, h7, h4, h0⟩ := packVR_eq_iff.1 (Eq.refl (packVR c 43#6 d a b p n))
  unfold decodeWord
  rw [decodeRaw_eq_of_major hmaj rfl, hd _ h19 h13 h7 h4 h0, hc]
  by_cases hb : b = 0
  · simp only [hb, if_true, hwf]
  · simp only [hb, if_false]

/-- Settles O14: both scans run to the write of the sums of a fold over the lanes, one value further with each lane. -/
theorem scanResults : Obligations.ScanResults := by
  unfold Obligations.ScanResults
  refine ⟨fun d a p s hd ha => ?_, fun c d a b p => ?_⟩
  · have hin : ∀ r ∈ [d.toNat, a.toNat], r < 8 * s.cur.blocks := by simp [hd, ha]
    refine ⟨⟨_, congrArg (run s) (needVecs_bind s hin _), ?_, ?_⟩,
      fun hres => ⟨_, congrArg (run s) ((needVecs_bind s hin _).trans (residueFp_bind s hres _ _)), ?_⟩⟩
    all_goals obtain ⟨hflags, hlanes⟩ := scanWrite_scanSums s d.toNat a.toNat (activeLanes s p.toNat) (fun x y => pure64 (x + y))
    · rw [hflags, combined_pure64_add]
      exact BitVec.or_zero
    · simpa only [combined_pure64_add] using hlanes
    · exact scanWrite_scanSums s d.toNat a.toNat (activeLanes s p.toNat) addF64
  · exact ⟨decodeWord_vscan rfl fun w h19 h13 h7 h4 h0 => by simp [decMaj2B, h19, h13, h7, h4, h0],
      decodeWord_vscan rfl fun w h19 h13 h7 h4 h0 => by simp [decMaj2B, h19, h13, h7, h4, h0]⟩

end Sys2Proof.Machine
end

section
/-! PROOF. Where a fragment goes on, the targets that an instruction checks (R113, R144), and the splits (R32, R36, R143). -/
namespace Sys2Proof.Machine

theorem State.modCurFrag_modCurFrag (s : State) (f g : Frag → Frag) : (s.modCurFrag f).modCurFrag g = s.modCurFrag (fun x => g (f x)) := by
  rw [State.modCurFrag_eq, State.modCurFrag_eq, State.modCur_modCur]
  exact State.modCur_congr s (by simp [Strand.modFrag, Strand.fragAt, Tab.put_put])

theorem goTo_eq_goesOnAt (s : State) (w : W32) : goTo s w = goesOnAt s w false := rfl

theorem jump_eq_goesOnAt (s : State) (w : W32) : jump s w = goesOnAt s w true := by
  unfold jump goTo goesOnAt
  rw [State.modCurFrag_modCurFrag]
  rfl

/-! ## Targets that are checked as the instruction issues -/

theorem needTarget_under {s : State} {d : Int} (h : (s.iss.w.toNat : Int) + d < 0) : needTarget s d = .error illegalTarget :=
  if_pos (decide_eq_true h)

theorem needTarget_of_beginsChain {s : State} {d : Int} {b : Bool} {r : State} (h : 0 ≤ (s.iss.w.toNat : Int) + d)
    (hb : beginsChain s (indexPlus s d) = .ok (b, r)) : needTarget s d = if b then .ok r else .error illegalTarget := by
  have hunder : ¬ targetUnder s.iss.w d = true := by simpa [targetUnder] using h
  unfold needTarget
  rw [if_neg hunder, show target s.iss.w d = indexPlus s d from rfl, hb]
  cases b <;> rfl

/-! ## Splits -/

/-- The sides of a split as the model's paths. -/
def pathsOf (x : (W32 × W32) × (W32 × W32)) : Path × Path := (⟨x.1.1, x.1.2⟩, ⟨x.2.1, x.2.2⟩)

theorem splitForm_runs {i : Instr} {q : BitVec 3} {d : Int} {quad : Bool} (s : State) (h : splitForm i = some (q, d, quad)) :
    exec i s = runTo s (splitTo s (pathsOf (splitSets s (preg s q.toNat) quad)) d) := by
  have hsplit : pathsOf (splitSets s (preg s q.toNat) false) = splitPaths s.curFrag (preg s q.toNat) := by
    simp [pathsOf, splitSets, splitPaths]
  unfold splitForm at h
  split at h <;> cases h
  · rw [hsplit]
    rfl
  · rfl

section
variable (s : State) (ps : Path × Path) (d : Int)

/-- No lane takes the branch: there is no split (R32). -/
theorem splitTo_none (h : ps.1.mask = 0) :
    splitTo s ps d = .ok (goTo (s.modCurFrag (fun f => { f with pendJoin := none })) (s.iss.w + 1)) := if_pos h

theorem splitTo_badTarget (h : ps.1.mask ≠ 0) {e : Stop} (ht : needTarget s d = .error e) : splitTo s ps d = .error e := by
  unfold splitTo
  rw [if_neg h, ht]
  rfl

variable {r : State}

/-- Every lane takes the branch: there is no split (R32). -/
theorem splitTo_all (h : ps.1.mask ≠ 0) (ht : needTarget s d = .ok r) (h2 : ps.2.mask = 0) :
    splitTo s ps d = .ok (jump (r.modCurFrag (fun f => { f with pendJoin := none })) (target r.iss.w d)) := by
  unfold splitTo
  rw [if_neg h, ht]
  exact if_pos h2

theorem splitTo_trapped (h : ps.1.mask ≠ 0) (ht : needTarget s d = .ok r) (h2 : ps.2.mask ≠ 0) (hl : s.cur.trapped = true) :
    splitTo s ps d = .error (.trap { cause := 7, detail := 1 }) := by
  unfold splitTo
  rw [if_neg h, ht]
  exact (if_neg h2).trans (if_pos hl)

/-- The rest path of a split goes on in the fragment itself. -/
def restPath (p : Path) (f : Frag) : Frag := { f with pendJoin := none, mask := p.mask, helper := p.helper }

/-- A free entry takes the taken path (R32). -/
def splitFree (s r : State) (ps : Path × Path) (d : Int) (e : Nat) : State :=
  (r.modCurFrag (fun f => { restPath ps.2 f with resv := none })).modCur (fun u =>
    { u with frags := Tab.put e { pc := target r.iss.w d, mask := ps.1.mask, helper := ps.1.helper, join := s.curFrag.pendJoin,
                                  parent := some r.iss.frag, bank := s.curFrag.bank, marks := s.curFrag.marks, age := s.cur.ages } u.frags
             ages := u.ages + 1 })

theorem splitTo_free (h : ps.1.mask ≠ 0) (ht : needTarget s d = .ok r) (h2 : ps.2.mask ≠ 0) (hl : s.cur.trapped = false) {e : Nat}
    (he : freeEntryOf s.cur = some e) : splitTo s ps d = .ok (goTo (splitFree s r ps d e) (r.iss.w + 1)) := by
  unfold splitTo splitFree
  rw [if_neg h, ht]
  refine (if_neg h2).trans ((if_neg (by simp [hl])).trans ?_)
  simp only [he, State.modCurFrag_modCurFrag]
  rfl

theorem splitTo_stackFull (h : ps.1.mask ≠ 0) (ht : needTarget s d = .ok r) (h2 : ps.2.mask ≠ 0) (hl : s.cur.trapped = false)
    (he : freeEntryOf s.cur = none) (hs : 8 ≤ s.curFrag.stack.length) : splitTo s ps d = .error (.trap { cause := 7, detail := 0 }) := by
  unfold splitTo
  rw [if_neg h, ht]
  refine (if_neg h2).trans ((if_neg (by simp [hl])).trans ?_)
  simp only [he]
  exact if_pos hs

/-- With no free entry the taken path is deferred (R32). -/
def splitDeferred (s r : State) (ps : Path × Path) (d : Int) : State :=
  (r.modCurFrag (fun f =>
    { restPath ps.2 f with stack := { pc := target r.iss.w d, mask := ps.1.mask, helper := ps.1.helper, join := s.curFrag.pendJoin,
                                      bank := s.curFrag.bank, marks := s.curFrag.marks, age := s.cur.ages } :: f.stack })).modCur (fun u =>
    { u with ages := u.ages + 1 })

theorem splitTo_deferred (h : ps.1.mask ≠ 0) (ht : needTarget s d = .ok r) (h2 : ps.2.mask ≠ 0) (hl : s.cur.trapped = false)
    (he : freeEntryOf s.cur = none) (hs : s.curFrag.stack.length < 8) :
    splitTo s ps d = .ok (goTo (splitDeferred s r ps d) (r.iss.w + 1)) := by
  unfold splitTo splitDeferred
  rw [if_neg h, ht]
  refine (if_neg h2).trans ((if_neg (by simp [hl])).trans ?_)
  simp only [he, State.modCurFrag_modCurFrag]
  exact if_neg (Nat.not_le.2 hs)

end

theorem freeEntryOf_lowest {t : Strand} {e : Nat} (hlow : ∀ k, k < e → Tab.has t.frags k = true) (he : e < 4) (hfree : Tab.has t.frags e = false) :
    freeEntryOf t = some e := by
  unfold freeEntryOf
  interval_cases e <;> simp [hlow, hfree]

theorem freeEntryOf_full {t : Strand} (h : ∀ k, k < 4 → Tab.has t.frags k = true) : freeEntryOf t = none := by
  simp [freeEntryOf, h]

/-- Settles O20: splitTo takes the branch that the sides, the target and the split table call for. -/
theorem splitResults : Obligations.SplitResults := by
  unfold Obligations.SplitResults
  intro i s q d quad hi taken rest
  rw [splitForm_runs s hi]
  refine ⟨fun h0 => ?none, fun h0 hunder => ?under, fun b r h0 htgt hb => ?_⟩
  case none => exact congrArg (runTo s) (splitTo_none s (pathsOf (taken, rest)) d h0)
  case under => exact congrArg (runTo s) (splitTo_badTarget s (pathsOf (taken, rest)) d h0 (needTarget_under hunder))
  have hneed := needTarget_of_beginsChain htgt hb
  refine ⟨fun hf => ?illegal, fun ht h2 => ?all, fun ht h2 hl => ?trapped, fun ht h2 hl e hlow he4 hfree => ?free,
    fun ht h2 hl hfull => ⟨fun hs => ?stackFull, fun hs => ?deferred⟩⟩
  all_goals subst b
  case illegal => exact congrArg (runTo s) (splitTo_badTarget s (pathsOf (taken, rest)) d h0 hneed)
  case all =>
    refine (congrArg (runTo s) (splitTo_all s (pathsOf (taken, rest)) d h0 hneed h2)).trans ?_
    rw [jump_eq_goesOnAt]
    rfl
  case trapped => exact congrArg (runTo s) (splitTo_trapped s (pathsOf (taken, rest)) d h0 hneed h2 hl)
  case free =>
    refine ⟨splitFree s r (pathsOf (taken, rest)) d e,
      congrArg (runTo s) (splitTo_free s (pathsOf (taken, rest)) d h0 hneed h2 hl (freeEntryOf_lowest hlow he4 hfree)), ?_, fun hne => ?_⟩
    · simp [splitFree, Strand.fragAt, pathsOf, indexPlus, target]
    · simp [splitFree, State.curFrag, Strand.fragAt, Strand.modFrag, Tab.get_put, Ne.symm hne, restPath, pathsOf]
  case stackFull => exact congrArg (runTo s) (splitTo_stackFull s (pathsOf (taken, rest)) d h0 hneed h2 hl (freeEntryOf_full hfull) hs)
  case deferred =>
    refine ⟨splitDeferred s r (pathsOf (taken, rest)) d,
      congrArg (runTo s) (splitTo_deferred s (pathsOf (taken, rest)) d h0 hneed h2 hl (freeEntryOf_full hfull) hs), ?_⟩
    simp [splitDeferred, State.curFrag, Strand.fragAt, Strand.modFrag, restPath, pathsOf, indexPlus, target]

end Sys2Proof.Machine
end

section
/-! PROOF. JSET and the joins (R33 to R35): which rule settles a strand of few fragments first, what it makes of them, and that none
applies to what it leaves. -/
namespace Sys2Proof.Machine

theorem settleAll_of_none {t : Strand} (h : settleOne t = none) (n : Nat) : settleAll t n = t := by
  cases n with
  | zero => rfl
  | succ n => rw [settleAll, h]

theorem settle_of_none {t : Strand} (hl : t.trapped = false) (h : settleOne t = none) : t.settle = pruneHelpers t := by
  rw [Strand.settle, hl, settleAll_of_none h]
  rfl

theorem settleAll_of_stuck {t : Strand} (h : settleOne t = none ∨ settleOne t = some t) (n : Nat) : settleAll t n = t := by
  rcases h with h | h
  · exact settleAll_of_none h n
  · induction n with
    | zero => rfl
    | succ n ih => rw [settleAll, h]; exact ih

theorem settle_of_one {t u : Strand} (hl : t.trapped = false) (h : settleOne t = some u) (hu : settleOne u = none ∨ settleOne u = some u) :
    t.settle = pruneHelpers u := by
  rw [Strand.settle, hl, settleAll, h]
  exact congrArg pruneHelpers (settleAll_of_stuck hu 63)

/-- The lookup of a strand whose fragments are listed. -/
theorem fragAt_of_frags {t : Strand} {fs : Tab Frag} (h : t.frags = fs) (i : Nat) : t.fragAt i = Tab.get {} fs i := by rw [Strand.fragAt, h]

theorem Tab.has_cons {α : Type} (j k : Nat) (v : α) (t : Tab α) : Tab.has ((j, v) :: t) k = (decide (j = k) || Tab.has t k) := by
  by_cases h : j = k <;> simp [Tab.has, Tab.find, h]

/-- A fragment after its helper lanes are trimmed. -/
def pruned (f : Frag) : Frag := { f with helper := f.helper &&& quadsOf f.mask &&& ~~~f.mask }

theorem fragAt_pruneHelpers (t : Strand) (i : Nat) : (pruneHelpers t).fragAt i = pruned (t.fragAt i) := by
  have hfind : Tab.find i (pruneHelpers t).frags = (Tab.find i t.frags).map pruned := Tab.find_map (fun f => pruned f.2) i t.frags
  unfold Strand.fragAt Tab.get
  rw [hfind]
  cases Tab.find i t.frags <;> simp [pruned]

theorem fragAt_alone {t : Strand} {i : Nat} {f : Frag} (hf : t.frags = [(i, f)]) : t.fragAt i = f := by
  simp [fragAt_of_frags hf, Tab.get_cons]

theorem joined_pruneHelpers {t : Strand} {i : Nat} {f : Frag} (h : t.fragAt i = f) {pc mask helper : W32} {bank : Tab W64} (hpc : f.pc = pc)
    (hmask : f.mask = mask) (hhelper : f.helper = helper) (hbank : f.bank = bank) : Joined (pruneHelpers t) i pc mask helper bank := by
  subst hpc hmask hhelper hbank
  unfold Joined
  rw [fragAt_pruneHelpers, h]
  exact ⟨rfl, rfl, rfl, rfl⟩

/-! ## Fusing fragments with no path deferred -/

/-- What fragments without deferred paths or held lanes fuse into. -/
def fused (x y : Frag) (A : W32) : Frag :=
  { x with pc := A, mask := x.mask ||| y.mask, helper := x.helper ||| y.helper,
           bank := if lowestLane x.mask ≤ lowestLane y.mask then x.bank else y.bank,
           marks := if lowestLane x.mask ≤ lowestLane y.mask then x.marks else y.marks,
           stack := [], held := [], resv := none, wait := .none, unfinished := none, replies := [], fence := none, ahead := [], begun := false }

theorem oldestPath_none {t : Strand} (h : ∀ f ∈ t.frags, f.2.stack = []) : oldestPath t = none := by
  have : t.frags.flatMap (fun f => f.2.stack.map (fun d => (f.1, d))) = [] := by
    rw [List.flatMap_eq_nil_iff]
    intro f hf
    rw [h f hf]
    rfl
  rw [oldestPath, this]
  rfl

theorem fillEntry_nothing {t : Strand} (h : ∀ f ∈ t.frags, f.2.stack = []) (e : Nat) (heir : Option Nat) (keep : Bool) :
    fillEntry t e [] heir keep = t := by
  unfold fillEntry
  rw [oldestPath_none h]
  rfl

theorem fuse_frags {t : Strand} {a b : Nat} {x y : Frag} (A : W32) {fs : Tab Frag} (hx : t.fragAt a = x) (hy : t.fragAt b = y)
    (hxs : x.stack = []) (hys : y.stack = []) (hxh : x.held = []) (hyh : y.held = [])
    (hfs : (Tab.put a (fused x y A) (Tab.del b t.frags)).map
      (fun g => if g.2.parent == some b then (g.1, { g.2 with parent := some a }) else g) = fs)
    (hno : ∀ f ∈ fs, f.2.stack = []) : fuse t a b A = { t with frags := fs } := by
  subst hfs
  have hf : fused x y A = { x with
      pc := A, mask := x.mask ||| y.mask, helper := x.helper ||| y.helper, bank := if lowerMask x.mask y.mask then x.bank else y.bank,
      marks := if lowerMask x.mask y.mask then x.marks else y.marks, stack := (x.stack ++ y.stack).take 8, held := x.held ++ y.held, resv := none,
      wait := .none, unfinished := none, replies := [], fence := none, ahead := [], begun := false } := by
    simp [fused, lowerMask, hxs, hys, hxh, hyh]
  have hleft : (x.stack ++ y.stack).drop 8 = [] := by simp [hxs, hys]
  simp only [fuse, hx, hy, ← hf, hleft]
  exact fillEntry_nothing hno b (some a) true

/-! ## A fragment and its child -/

/-- A strand of two fragments: a, which stands at the index A, and its child b, which joins it there. -/
structure ParentAndChild (t : Strand) (a b : Nat) (x y : Frag) (A : W32) : Prop where
  ne : a ≠ b
  frags : t.frags = [(a, x), (b, y)]
  childParent : y.parent = some a
  childJoin : y.join = some A
  pc : x.pc = A
  join : x.join = none
  parent : x.parent = none
  stack : x.stack = []
  childStack : y.stack = []
  held : x.held = []
  childHeld : y.held = []

section
variable {t : Strand} {a b : Nat} {x y : Frag} {A : W32} (c : ParentAndChild t a b x y A)
include c

theorem ParentAndChild.settleOne_here (h : y.pc = A) : settleOne t = some (fuse t a b A) := by
  simp [settleOne, waiting, fragAt_of_frags c.frags, Tab.has_cons, Tab.get_cons, c.frags, c.childParent, c.childJoin, c.pc, c.join, c.parent, c.stack,
    c.childStack, c.held, c.childHeld, h]

theorem ParentAndChild.settleOne_elsewhere (h : y.pc ≠ A) : settleOne t = none := by
  simp [settleOne, waiting, fragAt_of_frags c.frags, Tab.has_cons, Tab.get_cons, c.frags, c.childParent, c.childJoin, c.pc, c.join, c.parent, c.stack,
    c.childStack, c.held, c.childHeld, h, c.ne, c.ne.symm]

theorem ParentAndChild.fuse_eq : fuse t a b A = { t with frags := [(a, fused x y A)] } := by
  refine fuse_frags A (by simp [fragAt_of_frags c.frags, Tab.get_cons]) (by simp [fragAt_of_frags c.frags, Tab.get_cons, c.ne]) c.stack c.childStack
    c.held c.childHeld ?_ (by simp [fused])
  simp [c.frags, Tab.del, c.ne, Tab.put, fused, c.parent]

end

/-! ## Two children of a fragment that waits elsewhere -/

/-- Two children a and b of fragment r, in either order: both stand at the index A where they join, a the older; r stands elsewhere. -/
structure Siblings (t : Strand) (r a b : Nat) (z x y : Frag) (A : W32) : Prop where
  lt : r < a
  lt' : r < b
  ne : a ≠ b
  frags : t.frags = [(r, z), (a, x), (b, y)] ∨ t.frags = [(r, z), (b, y), (a, x)]
  parentOf : x.parent = some r
  parentOf' : y.parent = some r
  joinOf : x.join = some A
  joinOf' : y.join = some A
  pcOf : x.pc = A
  pcOf' : y.pc = A
  pc : z.pc ≠ A
  join : z.join = none
  parent : z.parent = none
  older : x.age < y.age
  stack : z.stack = []
  stackOf : x.stack = []
  stackOf' : y.stack = []
  held : z.held = []
  heldOf : x.held = []
  heldOf' : y.held = []

section
variable {t : Strand} {r a b : Nat} {z x y : Frag} {A : W32} (c : Siblings t r a b z x y A)
include c

theorem Siblings.settleOne_eq : settleOne t = some (fuse t a b A) := by
  have hsym := c.pc.symm
  rcases c.frags with hf | hf
  · simp [settleOne, waiting, fragAt_of_frags hf, Tab.has_cons, Tab.get_cons, hf, c.parentOf, c.parentOf', c.joinOf, c.joinOf', c.pcOf, c.pcOf', c.join,
      c.parent, c.stack, c.stackOf, c.stackOf', c.held, c.heldOf, c.heldOf', hsym, c.older.le, c.ne.symm]
  · simp [settleOne, waiting, fragAt_of_frags hf, Tab.has_cons, Tab.get_cons, hf, c.parentOf, c.parentOf', c.joinOf, c.joinOf', c.pcOf, c.pcOf', c.join,
      c.parent, c.stack, c.stackOf, c.stackOf', c.held, c.heldOf, c.heldOf', hsym, c.older, c.older.le, c.ne.symm]

theorem Siblings.fuse_eq : fuse t a b A = { t with frags := [(r, z), (a, fused x y A)] } := by
  have hlook : t.fragAt a = x ∧ t.fragAt b = y := by
    rcases c.frags with hf | hf <;> simp [fragAt_of_frags hf, Tab.get_cons, c.ne, c.ne.symm, c.lt.ne, c.lt'.ne]
  refine fuse_frags A hlook.1 hlook.2 c.stackOf c.stackOf' c.heldOf c.heldOf' ?_ (by simp [fused, c.stack])
  have hdel : Tab.del b t.frags = [(r, z), (a, x)] := by
    rcases c.frags with hf | hf <;> simp [hf, Tab.del, c.ne, c.lt'.ne]
  simp [hdel, Tab.put, c.lt.ne, Nat.not_lt.2 c.lt.le, fused, c.parentOf, c.parent, c.lt'.ne]

/-- The fused child waits for the parent alone. -/
theorem Siblings.settleOne_fused : settleOne { t with frags := [(r, z), (a, fused x y A)] } = none := by
  have hsym := c.pc.symm
  simp [settleOne, waiting, Strand.fragAt, Tab.has_cons, Tab.get_cons, fused, Frag.atBar, c.parentOf, c.joinOf, c.join, c.parent, c.stack, c.held, hsym,
    c.lt.ne]

end

/-! ## A child whose parent waits elsewhere -/

/-- The child i is released from its join and becomes a child of j (R34). -/
def releaseTo (t : Strand) (i j : Nat) : Strand := t.modFrag i (fun x => { x with join := none, parent := some j })

/-- Fragment r, its child a, which waits at the index A, and the child b of a, which joins at another index. -/
structure ParentWaits (t : Strand) (r a b : Nat) (z x y : Frag) (A B : W32) : Prop where
  ne : r ≠ a
  ne' : r ≠ b
  neKids : a ≠ b
  frags : t.frags = [(r, z), (a, x), (b, y)]
  parentOf : x.parent = some r
  parentOf' : y.parent = some a
  joinOf : x.join = some A
  pcOf : x.pc = A
  pc : z.pc ≠ A
  joinOf' : y.join = some B
  other : B ≠ A
  join : z.join = none
  parent : z.parent = none
  stack : z.stack = []
  stackOf : x.stack = []
  stackOf' : y.stack = []
  held : z.held = []
  heldOf : x.held = []
  heldOf' : y.held = []

section
variable {t : Strand} {r a b : Nat} {z x y : Frag} {A B : W32} (c : ParentWaits t r a b z x y A B)
include c

theorem ParentWaits.settleOne_eq : settleOne t = some (releaseTo t b r) := by
  have hpc := c.pc.symm
  have hB := c.other.symm
  simp [settleOne, waiting, fragAt_of_frags c.frags, Tab.has_cons, Tab.get_cons, c.frags, c.parentOf, c.parentOf', c.joinOf, c.joinOf', c.pcOf, c.join,
    c.parent, c.stack, c.stackOf, c.stackOf', c.held, c.heldOf, c.heldOf', hpc, hB, c.ne, c.ne.symm, releaseTo]

/-- A released child is released once: where the list of fragments is out of order the rule finds it again and changes nothing. -/
theorem ParentWaits.settleOne_released : settleOne (releaseTo t b r) = none ∨ settleOne (releaseTo t b r) = some (releaseTo t b r) := by
  have hpc := c.pc.symm
  have hB := c.other.symm
  have hu : releaseTo t b r = { t with frags := Tab.put b { y with join := none, parent := some r } [(r, z), (a, x), (b, y)] } := by
    simp [releaseTo, Strand.modFrag, fragAt_of_frags c.frags, Tab.get_cons, c.frags, c.ne', c.neKids]
  rw [hu]
  by_cases hbr : b < r
  · right
    simp [settleOne, waiting, Strand.fragAt, Strand.modFrag, Tab.put, hbr, Tab.has_cons, Tab.get_cons, c.parentOf, c.parentOf', c.joinOf, c.joinOf',
      c.pcOf, c.join, c.parent, c.stack, c.stackOf, c.stackOf', c.held, c.heldOf, c.heldOf', hpc, hB, c.ne, c.ne.symm, c.ne', c.ne'.symm,
      c.neKids.symm]
  · by_cases hba : b < a
    · right
      simp [settleOne, waiting, Strand.fragAt, Strand.modFrag, Tab.put, hbr, hba, Tab.has_cons, Tab.get_cons, c.parentOf, c.parentOf', c.joinOf,
        c.joinOf', c.pcOf, c.join, c.parent, c.stack, c.stackOf, c.stackOf', c.held, c.heldOf, c.heldOf', hpc, hB, c.ne, c.ne.symm, c.ne', c.neKids,
        c.neKids.symm]
    · left
      simp [settleOne, waiting, Strand.fragAt, Tab.put, hbr, hba, Tab.has_cons, Tab.get_cons, c.parentOf, c.joinOf, c.pcOf, c.join, c.parent, c.stack,
        c.stackOf, c.stackOf', c.held, c.heldOf, c.heldOf', c.pc, hpc, c.ne, c.ne.symm, c.ne', c.neKids]

end

/-! ## A fragment alone, with a path deferred or lanes held -/

theorem settleOne_takes_path {t : Strand} {i : Nat} {f : Frag} {d : Deferred} (hf : t.frags = [(i, f)]) (hh : f.held = []) (hs : f.stack = [d])
    (hd : d.join = some f.pc) (hw : f.wait = .none) : settleOne t = some (takePath t i false) := by
  simp [settleOne, hf, hh, hs, hd, hw]

/-- A fragment that holds lanes at another index goes on alone. -/
theorem settleOne_holding {t : Strand} {i : Nat} {f : Frag} {h : HeldLanes} (hf : t.frags = [(i, f)]) (hs : f.stack = []) (hh : f.held = [h])
    (ha : h.addr ≠ f.pc) (hj : f.join = none) (hp : f.parent = none) : settleOne t = none := by
  simp [settleOne, hf, hs, hh, ha, hj, hp, oldestPath]

theorem settleOne_rejoins {t : Strand} {i : Nat} {f : Frag} {h : HeldLanes} (hf : t.frags = [(i, f)]) (hh : f.held = [h]) (ha : h.addr = f.pc)
    (hb : h.bar = false) (hw : f.wait = .none) : settleOne t = some (rejoin t i) := by
  simp [settleOne, hf, hh, ha, hb, hw, Frag.atBar]

theorem modFrag_alone {t : Strand} {i : Nat} {f : Frag} (hf : t.frags = [(i, f)]) (g : Frag → Frag) :
    t.modFrag i g = { t with frags := [(i, g f)] } := by
  simp [Strand.modFrag, fragAt_of_frags hf, hf, Tab.put, Tab.get_cons]

theorem jset_runs {o : BitVec 23} {s : State} {b : Bool} {r : State} (h : 0 ≤ (s.iss.w.toNat : Int) + o.toInt)
    (hb : beginsChain s (indexPlus s o.toInt) = .ok (b, r)) :
    exec (.jset o) s = run s (do
      let t ← (if b then .ok r else .error illegalTarget)
      .ok (t.modCurFrag (fun f => { f with pendJoin := some (target s.iss.w o.toInt) }))) := by
  rw [← needTarget_of_beginsChain h hb]
  rfl

/-- Settles O21: in each case one rule applies to the strand and none to what it leaves. -/
theorem joinSetResults : Obligations.JoinSetResults := by
  unfold Obligations.JoinSetResults
  refine ⟨?child, ?siblings, ?released, ?path, ?held, ?jset⟩
  case child =>
    intro t a b x y A hl hab hf hyp hyj hpc hj hp hs hs' hh hh'
    have c : ParentAndChild t a b x y A := ⟨hab, hf, hyp, hyj, hpc, hj, hp, hs, hs', hh, hh'⟩
    refine ⟨fun h => ?_, fun h => settle_of_none hl (c.settleOne_elsewhere h)⟩
    have hone := c.settleOne_here h
    rw [c.fuse_eq] at hone
    rw [settle_of_one hl hone (.inl (settleOne_alone rfl rfl rfl hj hp))]
    exact ⟨pruned (fused x y A), rfl, joined_pruneHelpers (fragAt_alone rfl) rfl rfl rfl rfl⟩
  case siblings =>
    intro t r a b z x y A hl hra hrb hab hf hxp hyp hxj hyj hxpc hypc hzpc hzj hzp hage hs hs' hs'' hh hh' hh''
    have c : Siblings t r a b z x y A := ⟨hra, hrb, hab, hf, hxp, hyp, hxj, hyj, hxpc, hypc, hzpc, hzj, hzp, hage, hs, hs', hs'', hh, hh', hh''⟩
    have hone := c.settleOne_eq
    rw [c.fuse_eq] at hone
    rw [settle_of_one hl hone (.inl c.settleOne_fused)]
    have hat : { t with frags := [(r, z), (a, fused x y A)] }.fragAt a = fused x y A := by simp [Strand.fragAt, Tab.get_cons, hra.ne]
    exact ⟨pruned z, pruned (fused x y A), rfl, joined_pruneHelpers hat rfl rfl rfl rfl⟩
  case released =>
    intro t r a b z x y A B hl hra hrb hab hf hxp hyp hxj hxpc hzpc hyj hBA hzj hzp hs hs' hs'' hh hh' hh''
    have c : ParentWaits t r a b z x y A B := ⟨hra, hrb, hab, hf, hxp, hyp, hxj, hxpc, hzpc, hyj, hBA, hzj, hzp, hs, hs', hs'', hh, hh', hh''⟩
    rw [settle_of_one hl c.settleOne_eq c.settleOne_released, fragAt_pruneHelpers, fragAt_pruneHelpers]
    simp [releaseTo, Strand.modFrag, Strand.fragAt, Tab.get_put, hf, Tab.get_cons, hra, hrb, hab, hxpc, pruned]
  case path =>
    intro t i f d hl hf hj hp hw hh hs hd hpc
    have hone := settleOne_takes_path hf hh hs hd hw
    rw [takePath, modFrag_alone hf] at hone
    simp only [hs, hh] at hone
    rw [settle_of_one hl hone (.inl (settleOne_holding rfl rfl rfl hpc.symm hj hp)), fragAt_pruneHelpers, fragAt_alone rfl]
    exact ⟨joined_pruneHelpers (fragAt_alone rfl) rfl rfl rfl rfl, rfl, _, rfl, rfl, rfl, rfl, rfl⟩
  case held =>
    intro t i f h hl hf hj hp hw hs hh ha hb
    have hone := settleOne_rejoins hf hh ha hb hw
    rw [rejoin, modFrag_alone hf] at hone
    simp only [hh, lowerMask, decide_eq_true_eq] at hone
    rw [settle_of_one hl hone (.inl (settleOne_alone rfl hs rfl hj hp)), fragAt_pruneHelpers, fragAt_alone rfl]
    refine ⟨?_, rfl⟩
    apply joined_pruneHelpers (fragAt_alone rfl) <;> rfl
  case jset =>
    intro o s
    refine ⟨fun h => ?_, fun b r h hb => ?_⟩
    · show run s (needTarget s o.toInt >>= _) = _
      rw [needTarget_under h]
      rfl
    · rw [jset_runs h hb]
      cases b
      · exact ⟨fun _ => rfl, nofun⟩
      · exact ⟨nofun, fun _ => rfl⟩

end Sys2Proof.Machine
end

section
/-! PROOF. NOP, YIELD and the repeats of a word (R40, R120, R145, R146): fields of a word that are stepped one by one. -/
namespace Sys2Proof.Machine

/-! ## Fields of a word -/

theorem testBit_bits (v : W32) (lo n i : Nat) : (bits v lo n).testBit i = (decide (i < n) && v.getLsbD (lo + i)) := by
  rw [bits, Nat.testBit_mod_two_pow, Nat.testBit_shiftRight, BitVec.testBit_toNat]

theorem bits_congr {u v : W32} {lo n : Nat} (h : ∀ j, lo ≤ j → j < lo + n → u.getLsbD j = v.getLsbD j) : bits u lo n = bits v lo n := by
  apply Nat.eq_of_testBit_eq
  intro i
  rw [testBit_bits, testBit_bits]
  by_cases hi : i < n
  · rw [h (lo + i) (Nat.le_add_right _ _) (by omega)]
  · simp [hi]

theorem bits_lt (v : W32) (lo n : Nat) : bits v lo n < 2 ^ n := Nat.mod_lt _ (Nat.two_pow_pos n)

theorem getLsbD_setField (v : W32) {lo n x j : Nat} (hx : x < 2 ^ n) (hj : j < 32) :
    (setField v lo n x).getLsbD j = if lo ≤ j ∧ j < lo + n then x.testBit (j - lo) else v.getLsbD j := by
  have hlo : v.toNat % 2 ^ lo < 2 ^ lo := Nat.mod_lt _ (Nat.two_pow_pos lo)
  have hv : v.toNat = 2 ^ lo * (2 ^ n * (v.toNat / 2 ^ lo / 2 ^ n) + bits v lo n) + v.toNat % 2 ^ lo := by
    rw [bits, Nat.shiftRight_eq_div_pow, Nat.div_add_mod, Nat.div_add_mod]
  have hset : v.toNat - bits v lo n * 2 ^ lo + x * 2 ^ lo = 2 ^ lo * (2 ^ n * (v.toNat / 2 ^ lo / 2 ^ n) + x) + v.toNat % 2 ^ lo := by
    rw [Nat.mul_comm _ (2 ^ lo), Nat.mul_comm x]
    rw [Nat.mul_add] at hv ⊢
    omega
  have hold : v.getLsbD j = (2 ^ lo * (2 ^ n * (v.toNat / 2 ^ lo / 2 ^ n) + bits v lo n) + v.toNat % 2 ^ lo).testBit j := by
    rw [← hv, BitVec.testBit_toNat]
  rw [hold, setField, w32, BitVec.getLsbD_ofNat, hset, Nat.testBit_two_pow_mul_add _ hlo, Nat.testBit_two_pow_mul_add _ hlo,
    Nat.testBit_two_pow_mul_add _ hx, Nat.testBit_two_pow_mul_add _ (bits_lt v lo n)]
  by_cases h1 : j < lo
  · simp [hj, h1, Nat.not_le.2 h1]
  · by_cases h2 : j < lo + n
    · simp [hj, h1, h2, Nat.le_of_not_lt h1, show j - lo < n by omega]
    · simp [hj, h1, h2, show ¬ j - lo < n by omega]

theorem bits_setField_same (v : W32) {lo n x : Nat} (hx : x < 2 ^ n) (hlt : lo + n ≤ 32) : bits (setField v lo n x) lo n = x := by
  apply Nat.eq_of_testBit_eq
  intro i
  rw [testBit_bits]
  by_cases hi : i < n
  · rw [getLsbD_setField v hx (by omega)]
    simp [hi]
  · simp [hi, Nat.testBit_lt_two_pow (hx.trans_le (Nat.pow_le_pow_right (by decide) (Nat.le_of_not_lt hi)))]

/-- Two fields, as lowest bit and width, with no bit in common. -/
def Apart (x y : Nat × Nat) : Prop := x.1 + x.2 ≤ y.1 ∨ y.1 + y.2 ≤ x.1

/-- Fields of a word, no two with a bit in common. -/
def FieldsApart (fs : List (Nat × Nat)) : Prop := fs.Pairwise Apart ∧ ∀ x ∈ fs, x.1 + x.2 ≤ 32

theorem fieldsApart_cons {x : Nat × Nat} {fs : List (Nat × Nat)} (h : FieldsApart (x :: fs)) :
    (∀ y ∈ fs, Apart x y) ∧ x.1 + x.2 ≤ 32 ∧ FieldsApart fs := by
  obtain ⟨hpair, hlt⟩ := h
  obtain ⟨hx, hfs⟩ := List.pairwise_cons.1 hpair
  exact ⟨hx, hlt x List.mem_cons_self, hfs, fun y hy => hlt y (List.mem_cons_of_mem x hy)⟩

theorem bits_setField_apart (v : W32) {x y : Nat × Nat} {k : Nat} (hk : k < 2 ^ x.2) (h : Apart x y) (hy : y.1 + y.2 ≤ 32) :
    bits (setField v x.1 x.2 k) y.1 y.2 = bits v y.1 y.2 := by
  refine bits_congr fun j hj hj' => ?_
  rw [getLsbD_setField v hk (by omega), if_neg]
  rcases h with h | h <;> omega

/-! ## Stepping them -/

/-- Step fields of a word one after another. -/
def stepAll (v : W32) (fs : List (Nat × Nat)) (d : Int) : Option W32 := fs.foldlM (fun u x => stepField u x.1 x.2 d) v

/-- The step of a field stays in its range. -/
def InRange (v : W32) (x : Nat × Nat) (d : Int) : Prop := 0 ≤ ((bits v x.1 x.2 : Nat) : Int) + d ∧ ((bits v x.1 x.2 : Nat) : Int) + d < (2 : Int) ^ x.2

theorem stepField_of_inRange {v : W32} {x : Nat × Nat} {d : Int} (h : InRange v x d) :
    stepField v x.1 x.2 d = some (setField v x.1 x.2 (((bits v x.1 x.2 : Nat) : Int) + d).toNat) ∧
      (((bits v x.1 x.2 : Nat) : Int) + d).toNat < 2 ^ x.2 := by
  obtain ⟨h0, h1⟩ := h
  refine ⟨if_neg (by omega), ?_⟩
  zify
  rw [Int.toNat_of_nonneg h0]
  exact h1

theorem stepField_of_not_inRange {v : W32} {x : Nat × Nat} {d : Int} (h : ¬ InRange v x d) : stepField v x.1 x.2 d = none := by
  refine if_pos ?_
  unfold InRange at h
  omega

theorem stepAll_out {fs : List (Nat × Nat)} {d : Int} (hfs : FieldsApart fs) {v : W32} (h : ∃ x ∈ fs, ¬ InRange v x d) : stepAll v fs d = none := by
  induction fs generalizing v with
  | nil => simp at h
  | cons y fs ih =>
    obtain ⟨hy, -, hrest⟩ := fieldsApart_cons hfs
    obtain ⟨x, hx, hout⟩ := h
    by_cases hin : InRange v y d
    · obtain ⟨hstep, hlt⟩ := stepField_of_inRange hin
      rcases List.mem_cons.1 hx with rfl | hmem
      · exact absurd hin hout
      · rw [stepAll, List.foldlM_cons, hstep]
        refine ih hrest ⟨x, hmem, ?_⟩
        rw [InRange, bits_setField_apart v hlt (hy x hmem) (hrest.2 x hmem)]
        exact hout
    · rw [stepAll, List.foldlM_cons, stepField_of_not_inRange hin]
      rfl

theorem stepAll_in {fs : List (Nat × Nat)} {d : Int} (hfs : FieldsApart fs) {v : W32} (h : ∀ x ∈ fs, InRange v x d) :
    ∃ u, stepAll v fs d = some u ∧ SteppedBy v u fs d := by
  induction fs generalizing v with
  | nil => exact ⟨v, rfl, by simp [SteppedBy]⟩
  | cons x fs ih =>
    obtain ⟨hx, hxlt, hrest⟩ := fieldsApart_cons hfs
    obtain ⟨hstep, hlt⟩ := stepField_of_inRange (h x List.mem_cons_self)
    have hkept := fun y hy => bits_setField_apart v hlt (hx y hy) (hrest.2 y hy)
    obtain ⟨u, hu, hfields, hothers⟩ := ih hrest (v := setField v x.1 x.2 (((bits v x.1 x.2 : Nat) : Int) + d).toNat) fun y hy => by
      rw [InRange, hkept y hy]
      exact h y (List.mem_cons_of_mem x hy)
    refine ⟨u, by rw [stepAll, List.foldlM_cons, hstep]; exact hu, fun y hy => ?_, fun j hj hout => ?_⟩
    · rcases List.mem_cons.1 hy with rfl | hmem
      · have hsame : bits u y.1 y.2 = bits (setField v y.1 y.2 (((bits v y.1 y.2 : Nat) : Int) + d).toNat) y.1 y.2 :=
          bits_congr fun j hj hj' => hothers j (by omega) fun z hz => by
            rcases hx z hz with hz | hz <;> omega
        rw [hsame, bits_setField_same v hlt hxlt, Int.toNat_of_nonneg (h y List.mem_cons_self).1]
      · rw [hfields y hmem, hkept y hmem]
    · rw [hothers j hj fun y hy => hout y (List.mem_cons_of_mem x hy), getLsbD_setField v hlt hj, if_neg]
      have := hout x List.mem_cons_self
      omega

theorem SteppedBy.inRange {v u : W32} {fs : List (Nat × Nat)} {d : Int} (h : SteppedBy v u fs d) {x : Nat × Nat} (hx : x ∈ fs) : InRange v x d := by
  rw [InRange, ← h.1 x hx]
  exact ⟨Int.natCast_nonneg _, by exact_mod_cast bits_lt u x.1 x.2⟩

/-- The stepped fields and the rest determine the word. -/
theorem SteppedBy.unique {v u w : W32} {fs : List (Nat × Nat)} {d : Int} (hu : SteppedBy v u fs d) (hw : SteppedBy v w fs d) : u = w := by
  refine BitVec.eq_of_getLsbD_eq fun j hj => ?_
  by_cases hin : ∃ x ∈ fs, x.1 ≤ j ∧ j < x.1 + x.2
  · obtain ⟨x, hx, hlo, hhi⟩ := hin
    have hb : bits u x.1 x.2 = bits w x.1 x.2 := by
      have := (hu.1 x hx).trans (hw.1 x hx).symm
      omega
    have htest := congrArg (fun n => n.testBit (j - x.1)) hb
    simpa [testBit_bits, show j - x.1 < x.2 by omega, Nat.add_sub_cancel' hlo] using htest
  · have hout : ∀ x ∈ fs, j < x.1 ∨ x.1 + x.2 ≤ j := by
      intro x hx
      by_contra hcon
      exact hin ⟨x, hx, by omega⟩
    rw [hu.2 j hj hout, hw.2 j hj hout]

theorem stepAll_of_steppedBy {v u : W32} {fs : List (Nat × Nat)} {d : Int} (hfs : FieldsApart fs) (h : SteppedBy v u fs d) :
    stepAll v fs d = some u := by
  obtain ⟨w, hw, hstep⟩ := stepAll_in hfs fun x hx => h.inRange hx
  rw [hw, hstep.unique h]

/-! ## The fields of a repeated word -/

theorem majorOf_eq (v : W32) : majorOf v = v.toNat / 2 ^ 25 % 64 := by
  simp [majorOf, fld, Nat.shiftRight_eq_div_pow]

theorem stepOf_eq (k : BitVec 2) : stepOf k = repStep k := by
  revert k
  decide

theorem fieldsApart_stepFields (maj : Nat) : FieldsApart (stepFields maj) := by
  unfold stepFields FieldsApart Apart
  split
  · decide
  · split <;> decide

theorem length_stepFields (maj : Nat) : (stepFields maj).length ≤ [2, 1, 0].length := by
  unfold stepFields
  split
  · decide
  · split <;> decide

theorem steppedFields_eq (v : W32) (e : BitVec 3) :
    steppedFields v e = (((stepFields (majorOf v)).zip [2, 1, 0]).filter (fun x => bit e x.2)).map (fun x => x.1) := by
  rw [majorOf_eq]
  rfl

theorem fieldsApart_steppedFields (v : W32) (e : BitVec 3) : FieldsApart (steppedFields v e) := by
  obtain ⟨hpair, hlt⟩ := fieldsApart_stepFields (majorOf v)
  have hsub : (steppedFields v e).Sublist (stepFields (majorOf v)) := by
    rw [steppedFields_eq]
    refine (List.filter_sublist.map _).trans ?_
    rw [List.map_fst_zip (length_stepFields _)]
  exact ⟨hpair.sublist hsub, fun x hx => hlt x (hsub.subset hx)⟩

theorem repeatInstr_eq (v : W32) (e : BitVec 3) (k : BitVec 2) (i : Nat) :
    repeatInstr v e k i = match stepAll v (steppedFields v e) (repStep k * i) with
      | none => .error 3
      | some u => match wordInstr u with
        | some j => .ok j
        | none => .error 2 := by
  rw [steppedFields_eq, ← stepOf_eq, stepAll, List.foldlM_map]
  rfl

/-- A change of the issuing fragment that keeps its bank keeps every register. -/
theorem RegistersKept.modCurFrag (w : Writes) (s : State) {f : Frag → Frag} (h : (f s.curFrag).bank = s.curFrag.bank) :
    RegistersKept w s (s.modCurFrag f) := by
  have hcur := State.cur_modCurFrag s f
  have hs : ∀ n, sreg (s.modCurFrag f) n = sreg s n := by
    intro n
    simp only [sreg, State.curFrag_modCurFrag, h, hcur]
    rfl
  refine ⟨SameButStrand.modCurFrag s f, (SameButStrand.modCurFrag s f).memory, ?_, fun n _ _ _ => hs n, fun _ n _ _ => hs n, fun r l _ _ => ?_,
    fun q _ => ?_, fun _ => ?_⟩
  · rw [hcur]
    rfl
  · simp only [vreg, hcur]
    rfl
  · simp only [preg, hcur]
    rfl
  · rw [hcur]
    rfl

/-- Settles O22: the fields of a repeated word lie apart, so that stepping them one by one gives the one word that R120 names. -/
theorem plainSystemResults : Obligations.PlainSystemResults := by
  unfold Obligations.PlainSystemResults
  refine ⟨fun s n e k hrep => ⟨fun h => ?_, fun h => ?_⟩, fun v u e k i c j => ⟨fun hstep hdec => ?_, fun hout => ?_⟩,
    fun s => ⟨rfl, (RegistersKept.refl {} s).advance fun h => h, ?_, fun n e k => ⟨_, rfl, rfl, rfl⟩⟩⟩
  · simp [advance, hrep, h]
  · simp [advance, hrep, Nat.not_lt.2 h, goTo_eq_goesOnAt]
  · simp [repeatInstr_eq, stepAll_of_steppedBy (fieldsApart_steppedFields v e) hstep, wordInstr, hdec]
  · have hnone : stepAll v (steppedFields v e) (repStep k * i) = none := by
      refine stepAll_out (fieldsApart_steppedFields v e) ?_
      obtain ⟨x, hx, hr⟩ := hout
      exact ⟨x, hx, fun hin => by unfold InRange at hin; omega⟩
    rw [repeatInstr_eq, hnone]
  · exact ⟨_, rfl, by simp, RegistersKept.modCurFrag {} s rfl⟩

end Sys2Proof.Machine
end

section
/-! PROOF. EXIT (R148): what becomes of the strand's fragments, and what follows for the ply. -/
namespace Sys2Proof.Machine

/-! ## What follows an exit -/

theorem mem_later (s : State) (e : Instr) : e ∈ (s.later e).engine := by
  unfold State.later
  split
  · next h => simpa using h
  · simp

theorem later_eq (s : State) (e : Instr) : ∃ es, s.later e = { s with engine := es } := by
  unfold State.later
  split
  · exact ⟨s.engine, rfl⟩
  · exact ⟨_, rfl⟩

theorem checkBarrier_eq (s : State) (p : Nat) : ∃ es, checkBarrier s p = { s with engine := es } := by
  unfold checkBarrier
  split
  · exact later_eq s _
  · exact ⟨s.engine, rfl⟩

/-- Checking barriers schedules events and nothing else. -/
theorem checkBarriers_eq (s : State) (k : Nat) : ∃ es, checkBarriers s k = { s with engine := es } := by
  have key : ∀ (ps : List Nat) (es : List Instr),
      ∃ fs, ps.foldl (fun s q => if s.livePly q then checkBarrier s q else s) { s with engine := es } = { s with engine := fs } := by
    intro ps
    induction ps with
    | nil => exact fun es => ⟨es, rfl⟩
    | cons p ps ih =>
      intro es
      rw [List.foldl_cons]
      split
      · obtain ⟨fs, hfs⟩ := checkBarrier_eq { s with engine := es } p
        rw [hfs]
        exact ih fs
      · exact ih es
  exact key _ s.engine

/-- A strand with at most one fragment has none at another barrier instruction. -/
theorem strayBarrier_none {t : Strand} (h : t.frags = [] ∨ ∃ e, t.frags = [e]) : strayBarrier t = none := by
  unfold strayBarrier
  refine if_pos ?_
  rcases h with h | ⟨e, h⟩ <;> simp [h]

/-- The ply exits (R148 step 4). -/
def exitingPly (y : Ply) : Ply := { y with exiting := true }

theorem trapStray_none {u : State} (h : strayBarrier u.cur = none) : trapStray u u.iss.ply u.iss.strand = u := by
  unfold trapStray
  rw [show (u.ply u.iss.ply).strand u.iss.strand = u.cur from rfl, h]

theorem afterExit_last {u : State} (h : strayBarrier u.cur = none) (hall : u.curPly.strands.all (fun k => k.2.exited) = true) :
    ∃ es, .plyExit u.iss.ply ∈ es ∧ afterExit u u.iss.ply = { u.modCurPly exitingPly with engine := es } := by
  have he : afterExit u u.iss.ply = (checkBarriers (u.modCurPly exitingPly) u.curPly.skein).later (.plyExit u.iss.ply) := by
    unfold afterExit
    rw [trapStray_none h]
    exact if_pos hall
  obtain ⟨es, hes⟩ := checkBarriers_eq (u.modCurPly exitingPly) u.curPly.skein
  rw [he, hes]
  obtain ⟨fs, hfs⟩ := later_eq { u.modCurPly exitingPly with engine := es } (.plyExit u.iss.ply)
  have hmem := mem_later { u.modCurPly exitingPly with engine := es } (.plyExit u.iss.ply)
  rw [hfs] at hmem ⊢
  exact ⟨fs, hmem, rfl⟩

theorem afterExit_notLast {u : State} (h : strayBarrier u.cur = none) (hall : u.curPly.strands.all (fun k => k.2.exited) = false) :
    ∃ es, afterExit u u.iss.ply = { u with engine := es } := by
  have he : afterExit u u.iss.ply = checkBarriers u u.curPly.skein := by
    unfold afterExit
    rw [trapStray_none h]
    exact if_neg (fun hex => absurd (hex.symm.trans hall) (by decide))
  rw [he]
  exact checkBarriers_eq u _

theorem sameMemory_exitingPly {s u : State} (h : SameMemory s u) (es : List Instr) : SameMemory s { u.modCurPly exitingPly with engine := es } := by
  obtain ⟨hhome, hhbm, hws, hscr, htiles⟩ := h
  have hply : ∀ q, ((u.modCurPly exitingPly).ply q).scratch = (u.ply q).scratch ∧ ((u.modCurPly exitingPly).ply q).tiles = (u.ply q).tiles := by
    intro q
    rw [State.modCurPly, State.ply_modPly_eq]
    split <;> exact ⟨rfl, rfl⟩
  exact ⟨hhome, hhbm, hws, fun q a => (congrArg (Mem.byte · a) (hply q).1).trans (hscr q a),
    fun q a => (congrArg (Mem.byte · a) (hply q).2).trans (htiles q a)⟩

/-- What an exit leaves of everything but the strand's fragments. -/
theorem exit_leaves {s u : State} (hu : SameButStrand s u) (h : strayBarrier u.cur = none) :
    ∃ t, halt (afterExit u s.iss.ply) = t ∧ t.cur = u.cur ∧ (∀ k, k ≠ s.iss.strand → t.curPly.strand k = s.curPly.strand k) ∧ SameMemory s t ∧
      (t.curPly.strands.all (fun k => k.2.exited) = true → t.curPly.exiting = true ∧ .plyExit s.iss.ply ∈ t.engine) := by
  refine ⟨_, rfl, ?_⟩
  rw [← hu.iss]
  have hother : ∀ k, k ≠ u.iss.strand → u.curPly.strand k = s.curPly.strand k := by
    rw [hu.iss]
    exact hu.2.2.2.2
  cases hall : u.curPly.strands.all (fun k => k.2.exited) with
  | true =>
    obtain ⟨es, hes, he⟩ := afterExit_last h hall
    rw [he]
    have hcp : (halt { u.modCurPly exitingPly with engine := es }).curPly = exitingPly u.curPly := State.ply_modPly u u.iss.ply exitingPly
    have hk : ∀ k, (halt { u.modCurPly exitingPly with engine := es }).curPly.strand k = u.curPly.strand k := by
      rw [hcp]
      exact fun k => rfl
    exact ⟨hk u.iss.strand, fun k hne => (hk k).trans (hother k hne), sameMemory_exitingPly hu.memory es, fun _ => ⟨congrArg Ply.exiting hcp, hes⟩⟩
  | false =>
    obtain ⟨es, he⟩ := afterExit_notLast h hall
    rw [he]
    exact ⟨rfl, hother, hu.memory, fun hex => absurd (hex.symm.trans hall) (by decide)⟩

/-! ## The fragments that an exit leaves -/

/-- A strand at the normal level with these fragments. -/
def leftWith (t : Strand) (fs : Tab Frag) : Strand := { t with trap := { t.trap with on := false }, frags := fs }

theorem exitFragment_eq {t u : Strand} {i : Nat} {quad : Bool}
    (h : vacateEntry (leaveLanes { t with trap := { t.trap with on := false } } i quad) i = u) (hl : u.trapped = false) (hn : settleOne u = none) :
    exitFragment t i quad = { pruneHelpers u with exited := u.frags.isEmpty } := by
  unfold exitFragment
  simp only [h, settle_of_none hl hn]
  simp [pruneHelpers]

/-- An entry that holds nothing is vacated. -/
theorem vacateEntry_empty {u : Strand} {i : Nat} {f : Frag} (hf : u.fragAt i = f) (hs : f.stack = []) (hh : f.held = []) {fs : Tab Frag}
    (hfs : (Tab.del i u.frags).map (fun g => if g.2.parent == some i then (g.1, { g.2 with parent := f.parent, join := none }) else g) = fs)
    (hno : ∀ g ∈ fs, g.2.stack = []) : vacateEntry u i = { u with frags := fs } := by
  subst hfs
  unfold vacateEntry
  rw [hf]
  simp only [hh, hs]
  exact fillEntry_nothing hno i f.parent false

section
variable {t : Strand} {i : Nat} {f : Frag} (quad : Bool)

/-- The last fragment leaves none. -/
theorem exitFragment_last (hf : t.frags = [(i, f)]) (hs : f.stack = []) (hh : f.held = []) :
    exitFragment t i quad = { leftWith t [] with exited := true } := by
  have hleft : vacateEntry (leaveLanes { t with trap := { t.trap with on := false } } i quad) i = leftWith t [] := by
    cases quad with
    | true => exact vacateEntry_empty (f := f) (by simp [leaveLanes, Strand.fragAt, hf, Tab.get_cons]) hs hh (by simp [leaveLanes, hf, Tab.del]) (by simp)
    | false =>
      exact vacateEntry_empty (f := { f with helper := f.helper &&& ~~~f.mask }) (by simp [leaveLanes, Strand.fragAt, hf, Tab.get_cons, hs, hh]) hs hh
        (by simp [leaveLanes, hf, Tab.del]) (by simp)
  rw [exitFragment_eq hleft rfl (by simp [settleOne, leftWith])]
  rfl

/-- The fragment that a deferred path becomes in the entry of an exiting fragment (R35). -/
def pathFrag (t : Strand) (d : Deferred) (helper : W32) : Frag :=
  { pc := d.pc, mask := d.mask, helper := helper, bank := d.bank, marks := d.marks, age := t.ages }

theorem exitFragment_deferred (hf : t.frags = [(i, f)]) {d : Deferred} (hs : f.stack = [d]) (hh : f.held = []) (hp : f.parent = none) :
    exitFragment t i quad =
      { leftWith t [(i, pruned (pathFrag t d (if quad then d.helper else d.helper &&& ~~~f.mask)))] with ages := t.ages + 1, exited := false } := by
  have hleft : vacateEntry (leaveLanes { t with trap := { t.trap with on := false } } i quad) i =
      { leftWith t [(i, pathFrag t d (if quad then d.helper else d.helper &&& ~~~f.mask))] with ages := t.ages + 1 } := by
    cases quad <;>
      simp [vacateEntry, leaveLanes, Strand.fragAt, Tab.get_cons, Tab.del, Tab.put, hf, hs, hh, hp, fillEntry, oldestPath, leftWith, pathFrag]
  rw [exitFragment_eq hleft rfl (settleOne_alone rfl rfl rfl rfl rfl)]
  rfl

/-- The other fragment of the strand when fragment i with lanes m and parent p exits: its lanes and its place in the tree of fragments. -/
def besideExit (g : Frag) (i : Nat) (m : W32) (p : Option Nat) (quad : Bool) : Frag :=
  { g with helper := if quad then g.helper ||| (m &&& quadsOf g.mask &&& ~~~g.mask) else g.helper &&& ~~~m
           parent := if g.parent = some i then p else g.parent
           join := if g.parent = some i then none else g.join }

/-- A fragment alone in its strand waits for no other. -/
theorem settleOne_only {j : Nat} {g : Frag} (hf : t.frags = [(j, g)]) (hs : g.stack = []) (hh : g.held = []) (hp : g.parent = some j → g.join = none) :
    settleOne t = none := by
  cases hg : g.parent with
  | none => simp [settleOne, hf, hs, hh, hg, oldestPath]
  | some p =>
    by_cases hj : p = j
    · subst hj
      simp [settleOne, hf, hs, hh, hg, hp hg, oldestPath]
    · cases hjoin : g.join <;>
        simp [settleOne, hf, hs, hh, hg, hjoin, hj, Ne.symm hj, Tab.has, Tab.find, oldestPath]

theorem exitFragment_beside {j : Nat} {g : Frag} (hne : j ≠ i) (hf : t.frags = [(i, f), (j, g)] ∨ t.frags = [(j, g), (i, f)]) (hs : f.stack = [])
    (hs' : g.stack = []) (hh : f.held = []) (hh' : g.held = []) (hp : g.parent ≠ some j) :
    exitFragment t i quad = { leftWith t [(j, pruned (besideExit g i f.mask f.parent quad))] with exited := false } := by
  have hleft : vacateEntry (leaveLanes { t with trap := { t.trap with on := false } } i quad) i =
      leftWith t [(j, besideExit g i f.mask f.parent quad)] := by
    have hstack : ∀ x ∈ [(j, besideExit g i f.mask f.parent quad)], x.2.stack = [] := by simp [besideExit, hs']
    cases quad with
    | true =>
      refine vacateEntry_empty (f := f) ?_ hs hh ?_ hstack
      · rcases hf with hf | hf <;> simp [leaveLanes, Strand.fragAt, hf, Tab.get_cons, hne]
      · by_cases hpar : g.parent = some i <;> rcases hf with hf | hf <;>
          simp [leaveLanes, Strand.fragAt, hf, Tab.get_cons, Tab.del, hne, hpar, besideExit]
    | false =>
      refine vacateEntry_empty (f := { f with helper := f.helper &&& ~~~f.mask }) ?_ hs hh ?_ hstack
      · rcases hf with hf | hf <;> simp [leaveLanes, Strand.fragAt, hf, Tab.get_cons, hne, hs, hh]
      · by_cases hpar : g.parent = some i <;> rcases hf with hf | hf <;>
          simp [leaveLanes, Strand.fragAt, hf, Tab.get_cons, Tab.del, hne, hpar, besideExit, hs', hh']
  rw [exitFragment_eq hleft rfl (settleOne_only rfl hs' hh' fun h => ?_)]
  · rfl
  · simp only [besideExit] at h ⊢
    split at h
    · next hi => exact if_pos hi
    · exact absurd h hp

end

theorem exec_exit (s : State) :
    exec .exit s = .next (halt (afterExit (s.modCur (fun t => exitFragment t s.iss.frag (s.reel s.curPly.reel).desc.quad)) s.iss.ply)) := rfl

theorem besideExit_helper {g : Frag} {i : Nat} {m : W32} {p : Option Nat} {quad : Bool} :
    (pruned (besideExit g i m p quad)).helper = (if quad then g.helper ||| m else g.helper &&& ~~~m) &&& quadsOf g.mask &&& ~~~g.mask := by
  cases quad with
  | false => rfl
  | true =>
    show (g.helper ||| (m &&& quadsOf g.mask &&& ~~~g.mask)) &&& quadsOf g.mask &&& ~~~g.mask = (g.helper ||| m) &&& quadsOf g.mask &&& ~~~g.mask
    ext l hl
    simp only [BitVec.getElem_and, BitVec.getElem_or, BitVec.getElem_not]
    cases g.helper[l] <;> cases m[l] <;> cases (quadsOf g.mask)[l] <;> cases g.mask[l] <;> rfl

/-- The exit of a fragment whose strand is left with at most one: what the state holds then. -/
theorem exit_left {s : State} {u : Strand} (hu : exitFragment s.cur s.iss.frag (s.reel s.curPly.reel).desc.quad = u)
    (h : u.frags = [] ∨ ∃ e, u.frags = [e]) :
    ∃ t, exec .exit s = .next t ∧ t.cur = u ∧ (∀ k, k ≠ s.iss.strand → t.curPly.strand k = s.curPly.strand k) ∧ SameMemory s t ∧
      (t.curPly.strands.all (fun k => k.2.exited) = true → t.curPly.exiting = true ∧ .plyExit s.iss.ply ∈ t.engine) := by
  have hcur : (s.modCur (fun t => exitFragment t s.iss.frag (s.reel s.curPly.reel).desc.quad)).cur = u := (State.cur_modCur s _).trans hu
  obtain ⟨t, ht, htcur, hrest⟩ := exit_leaves (SameButStrand.modCur s (fun t => exitFragment t s.iss.frag (s.reel s.curPly.reel).desc.quad))
    (strayBarrier_none (by rw [hcur]; exact h))
  exact ⟨t, by rw [exec_exit, ht], htcur.trans hcur, hrest⟩

/-- Settles O26: what EXIT makes of the strand in each case, and the ply's exit behind the last strand. -/
theorem exitResults : Obligations.ExitResults := by
  unfold Obligations.ExitResults
  refine ⟨fun s j g _ hne hf hs hs' hh hh' hp => ?beside, fun s d _ hf hs hh hp => ?deferred, fun s _ hf hs hh => ?last⟩
  case beside =>
    obtain ⟨t, ht, hcur, hother, hmem, -⟩ := exit_left (exitFragment_beside _ hne hf hs hs' hh hh' hp) (.inr ⟨_, rfl⟩)
    refine ⟨t, _, ht, by rw [hcur]; rfl, by rw [hcur], by rw [hcur]; rfl, rfl, besideExit_helper, ?_, ?_⟩
    · simp only [pruned, besideExit]
      split <;> rfl
    · rw [hcur]
      exact ⟨rfl, rfl, rfl, rfl, hother, hmem⟩
  case deferred =>
    obtain ⟨t, ht, hcur, -, hmem, -⟩ := exit_left (exitFragment_deferred _ hf hs hh hp) (.inr ⟨_, rfl⟩)
    refine ⟨t, _, ht, by rw [hcur]; rfl, by rw [hcur], by rw [hcur]; rfl, rfl, rfl, rfl, rfl, rfl, rfl, rfl, rfl, rfl, ?_⟩
    rw [hcur]
    exact ⟨rfl, rfl, rfl, rfl, hmem⟩
  case last =>
    obtain ⟨t, ht, hcur, hother, hmem, hexit⟩ := exit_left (exitFragment_last _ hf hs hh) (.inl rfl)
    refine ⟨t, ht, ?_⟩
    rw [hcur]
    exact ⟨rfl, rfl, rfl, rfl, rfl, rfl, rfl, hother, hmem, hexit⟩

end Sys2Proof.Machine
end

section
/-! PROOF. A write at a scratch bank (R26, R43): which bytes it changes, and what it leaves. -/
namespace Sys2Proof.Machine

/-- All is as before but scratch, its bookkeeping, reservations and what follows for the journal: what a store at a scratch bank keeps. -/
structure BankKept (s u : State) : Prop where
  resv : ReservationsOnly s u
  tiles : ∀ q, (u.ply q).tiles = (s.ply q).tiles
  iss : u.iss = s.iss
  ws : u.ws = s.ws
  skeins : u.skeins = s.skeins
  reels : u.reels = s.reels
  jobs : u.jobs = s.jobs
  xfers : u.xfers = s.xfers
  queues : u.queues = s.queues
  clock : u.clock = s.clock
  home : u.home = s.home
  hbm : u.hbm = s.hbm

theorem BankKept.storeKept {s u : State} (h : BankKept s u) : StoreKept s u :=
  ⟨h.resv, h.tiles, h.iss, h.ws, h.skeins, fun _ => h.reels, h.jobs, congrArg (List.map _) h.xfers, h.queues, h.clock⟩

theorem ReservationsOnly.refl (s : State) : ReservationsOnly s s := fun _ _ => ⟨rfl, fun _ => rfl⟩

theorem ReservationsOnly.trans {s t u : State} (h : ReservationsOnly s t) (k : ReservationsOnly t u) : ReservationsOnly s u := fun q i => by
  obtain ⟨hs, hf⟩ := h q i
  obtain ⟨ks, kf⟩ := k q i
  exact ⟨by rw [ks, hs], fun f => by rw [kf, hf]⟩

theorem BankKept.refl (s : State) : BankKept s s := ⟨.refl s, fun _ => rfl, rfl, rfl, rfl, rfl, rfl, rfl, rfl, rfl, rfl, rfl⟩

theorem BankKept.trans {s t u : State} (h : BankKept s t) (k : BankKept t u) : BankKept s u :=
  ⟨h.resv.trans k.resv, fun q => (k.tiles q).trans (h.tiles q), k.iss.trans h.iss, k.ws.trans h.ws, k.skeins.trans h.skeins, k.reels.trans h.reels,
    k.jobs.trans h.jobs, k.xfers.trans h.xfers, k.queues.trans h.queues, k.clock.trans h.clock, k.home.trans h.home, k.hbm.trans h.hbm⟩

/-- A change outside plies and memories. -/
theorem BankKept.of_plies {s u : State} (hp : u.plies = s.plies) (iss : u.iss = s.iss) (ws : u.ws = s.ws) (skeins : u.skeins = s.skeins)
    (reels : u.reels = s.reels) (jobs : u.jobs = s.jobs) (xfers : u.xfers = s.xfers) (queues : u.queues = s.queues) (clock : u.clock = s.clock)
    (home : u.home = s.home) (hbm : u.hbm = s.hbm) : BankKept s u := by
  have hply : ∀ q, u.ply q = s.ply q := fun q => by rw [State.ply, State.ply, hp]
  refine ⟨fun q k => ?_, fun q => by rw [hply], iss, ws, skeins, reels, jobs, xfers, queues, clock, home, hbm⟩
  unfold State.fragOf
  rw [hply]
  exact ⟨rfl, fun _ => rfl⟩

/-- A change of a ply that keeps its strands and tiles. -/
theorem BankKept.modPly (s : State) (p : Nat) {f : Ply → Ply} (hs : ∀ y, (f y).strands = y.strands) (ht : ∀ y, (f y).tiles = y.tiles) :
    BankKept s (s.modPly p f) := by
  have hply : ∀ q, ((s.modPly p f).ply q).strands = (s.ply q).strands ∧ ((s.modPly p f).ply q).tiles = (s.ply q).tiles := by
    intro q
    rw [State.ply_modPly_eq]
    split
    · exact ⟨hs _, ht _⟩
    · exact ⟨rfl, rfl⟩
  refine ⟨fun q k => ?_, fun q => (hply q).2, rfl, rfl, rfl, rfl, rfl, rfl, rfl, rfl, rfl, rfl⟩
  unfold State.fragOf Ply.strand
  rw [(hply q).1]
  exact ⟨rfl, fun _ => rfl⟩

/-! ## A map over all fragments -/

theorem ply_mapFrags (s : State) (g : Nat → Nat → Nat → Frag → Frag) (q : Nat) :
    (s.mapFrags g).ply q = { s.ply q with strands := (s.ply q).strands.map (fun t =>
      (t.1, { t.2 with frags := t.2.frags.map (fun f => (f.1, g q t.1 f.1 f.2)) })) } := by
  unfold State.ply State.mapFrags Tab.get
  dsimp only
  rw [Tab.find_map]
  cases Tab.find q s.plies <;> rfl

theorem strand_mapFrags (s : State) (g : Nat → Nat → Nat → Frag → Frag) (q k : Nat) :
    ((s.mapFrags g).ply q).strand k = { (s.ply q).strand k with frags := ((s.ply q).strand k).frags.map (fun f => (f.1, g q k f.1 f.2)) } := by
  rw [ply_mapFrags]
  unfold Ply.strand Tab.get
  dsimp only
  rw [Tab.find_map]
  cases Tab.find k (s.ply q).strands <;> rfl

theorem fragOf_mapFrags (s : State) (g : Nat → Nat → Nat → Frag → Frag) (q k f : Nat) :
    (s.mapFrags g).fragOf q k f = s.fragOf q k f ∨ (s.mapFrags g).fragOf q k f = g q k f (s.fragOf q k f) := by
  unfold State.fragOf
  rw [strand_mapFrags]
  unfold Strand.fragAt Tab.get
  dsimp only
  rw [Tab.find_map]
  cases Tab.find f ((s.ply q).strand k).frags with
  | none => exact .inl rfl
  | some x => exact .inr rfl

theorem BankKept.loseReservations (s : State) (p : Place) : BankKept s (loseReservations s p) := by
  refine ⟨fun q k => ⟨?_, fun f => ?_⟩, fun q => ?_, rfl, rfl, rfl, rfl, rfl, rfl, rfl, rfl, rfl, rfl⟩
  · unfold Machine.loseReservations
    rw [strand_mapFrags]
  · unfold Machine.loseReservations
    rcases fragOf_mapFrags s _ q k f with h | h
    · rw [h]
    · rw [h]
      split
      · split <;> rfl
      · rfl
  · unfold Machine.loseReservations
    rw [ply_mapFrags]

theorem scratch_loseReservations (s : State) (p : Place) (q : Nat) : ((loseReservations s p).ply q).scratch = (s.ply q).scratch := by
  unfold loseReservations
  rw [ply_mapFrags]

/-! ## The parts of a write -/

/-- A state alike but for what a write at a bank leaves, scratch as before. -/
def BankSame (s u : State) : Prop := BankKept s u ∧ ∀ q, (u.ply q).scratch = (s.ply q).scratch

theorem BankSame.refl (s : State) : BankSame s s := ⟨.refl s, fun _ => rfl⟩

theorem BankSame.trans {s t u : State} (h : BankSame s t) (k : BankSame t u) : BankSame s u :=
  ⟨h.1.trans k.1, fun q => (k.2 q).trans (h.2 q)⟩

theorem BankSame.of_plies {s u : State} (hp : u.plies = s.plies) (h : BankKept s u) : BankSame s u :=
  ⟨h, fun q => by rw [State.ply, State.ply, hp]⟩

theorem BankSame.modPly (s : State) (p : Nat) {f : Ply → Ply} (hs : ∀ y, (f y).strands = y.strands) (ht : ∀ y, (f y).tiles = y.tiles)
    (hm : ∀ y, (f y).scratch = y.scratch) : BankSame s (s.modPly p f) := by
  refine ⟨.modPly s p hs ht, fun q => ?_⟩
  rw [State.ply_modPly_eq]
  split
  · exact hm _
  · rfl

theorem bankSame_disarm (s : State) : BankSame s (disarm s) := .of_plies rfl (.of_plies rfl rfl rfl rfl rfl rfl rfl rfl rfl rfl rfl)

theorem bankSame_dropFlips (s : State) (hit : Flip → Bool) : BankSame s (dropFlips s hit) := by
  have hflips : ∀ t : State, BankSame t { t with flips := t.flips.filter (fun f => !(hit f)) } :=
    fun t => .of_plies rfl (.of_plies rfl rfl rfl rfl rfl rfl rfl rfl rfl rfl rfl)
  unfold dropFlips
  dsimp only
  split
  · exact (bankSame_disarm s).trans (hflips _)
  · exact hflips s

theorem bankSame_later (s : State) (e : Instr) : BankSame s (s.later e) := by
  obtain ⟨es, h⟩ := later_eq s e
  rw [h]
  exact .of_plies rfl (.of_plies rfl rfl rfl rfl rfl rfl rfl rfl rfl rfl rfl)

theorem bankSame_wakeWaiters (s : State) (p off n : Nat) : BankSame s (wakeWaiters s p off n) := by
  unfold wakeWaiters
  refine List.foldlRecOn (motive := fun t : State => BankSame s t) _ _ (.refl s) fun t ht f _ => ?_
  split
  · split
    · split
      · exact ht.trans (bankSame_later t _)
      · exact ht
    · exact ht
  · exact ht

theorem bankSame_freeJournal (s : State) (p : Nat) : BankSame s (freeJournal s p) := by
  unfold freeJournal
  refine BankSame.trans ?_ (.modPly _ p (by intro _; rfl) (by intro _; rfl) (by intro _; rfl))
  split
  · exact bankSame_disarm s
  · exact .refl s

theorem bankSame_endProtection (s : State) (p n : Nat) : BankSame s (endProtection s p n) := by
  have hcause : BankSame s (s.modPly p (fun y => { y with cause := y.cause ||| (1#8 <<< (n - 8)) })) :=
    .modPly s p (by intro _; rfl) (by intro _; rfl) (by intro _; rfl)
  have hprot : ∀ t : State, BankSame t (t.modPly p (fun y => { y with prot := false })) := fun t =>
    .modPly t p (by intro _; rfl) (by intro _; rfl) (by intro _; rfl)
  have hurgent : ∀ (t : State) (e : Instr), BankSame t (t.urgent e) := fun t e => .of_plies rfl (.of_plies rfl rfl rfl rfl rfl rfl rfl rfl rfl rfl rfl)
  have hunhold : ∀ t : State, BankSame t (unhold t p) := fun t => .of_plies rfl (.of_plies rfl rfl rfl rfl rfl rfl rfl rfl rfl rfl rfl)
  unfold endProtection
  split
  · exact .refl s
  · dsimp only
    refine hcause.trans ?_
    split <;> split
    · exact (((hurgent _ _).trans (bankSame_freeJournal _ p)).trans (hprot _)).trans (hunhold _)
    · exact ((bankSame_freeJournal _ p).trans (hprot _)).trans (hunhold _)
    · exact hurgent _ _
    · exact .refl _

theorem bankSame_journalGranule (s : State) (p g : Nat) : BankSame s (journalGranule s p g) := by
  unfold journalGranule
  dsimp only
  split
  · exact .refl s
  · split
    · exact BankSame.trans (bankSame_dropFlips s _) (.modPly _ p (by intro _; rfl) (by intro _; rfl) (by intro _; rfl))
    · exact bankSame_endProtection s p 14

theorem detectScratch_noFlips {s : State} (h : s.flips = []) (p sec : Nat) : detectScratch s p sec = s := by
  simp [detectScratch, takeFlip, h]

/-! ## A write within one sector -/

theorem scrWriteIn_kept {s : State} (h : s.flips = []) (p off : Nat) (b : Bytes) :
    BankKept s (scrWriteIn s p off b) ∧
      ∀ q, ((scrWriteIn s p off b).ply q).scratch = if q = p then Mem.write (s.ply q).scratch off b else (s.ply q).scratch := by
  have hfirst : BankSame s (journalGranule (if coversSector off b.length (off / 128) && !((s.ply p).prot) then
      dropFlips s (flipInScratch (s.ply p) (off / 128)) else detectScratch s p (off / 128)) p (off / 128)) := by
    refine BankSame.trans ?_ (bankSame_journalGranule _ p _)
    split
    · exact bankSame_dropFlips s _
    · rw [detectScratch_noFlips h]
      exact .refl s
  unfold scrWriteIn
  dsimp only
  generalize journalGranule _ p _ = t at hfirst
  refine ⟨hfirst.1.trans (BankKept.trans (BankKept.trans (.modPly t p ?_ ?_) (.loseReservations _ _)) (bankSame_wakeWaiters _ _ _ _).1), fun q => ?_⟩
  · exact fun _ => rfl
  · exact fun _ => rfl
  rw [(bankSame_wakeWaiters _ _ _ _).2, scratch_loseReservations, State.ply_modPly_eq]
  split
  · rw [← hfirst.2 q]
  · exact hfirst.2 q

theorem scrWrite_oneSector {s : State} {p off : Nat} {b : Bytes} (hb : b ≠ []) (hlt : off % 128 + b.length ≤ 128) :
    scrWrite s p off b = scrWriteIn s p off b := by
  have htake : b.take (128 - off % 128) = b := List.take_of_length_le (by omega)
  have hdrop : b.drop (128 - off % 128) = [] := List.drop_eq_nil_of_le (by omega)
  unfold scrWrite
  rw [scrWriteAll, if_neg hb]
  dsimp only
  rw [htake, hdrop]
  exact if_pos rfl

/-! ## The cells of a store -/

theorem mergeByte_whole (x v : Byte) : mergeByte x v 0xFF = v := by
  rw [mergeByte, show (0xFF : Byte) = BitVec.allOnes 8 from rfl, BitVec.and_allOnes]
  simp

theorem merge_cellsOf (o : Nat) (b : Bytes) (old : Nat → Byte) : (cellsOf o b).map (fun e => mergeByte (old e.1) e.2.1 e.2.2) = b := by
  unfold cellsOf
  rw [List.map_map]
  have hfst : ((fun e : Nat × Byte × Byte => mergeByte (old e.1) e.2.1 e.2.2) ∘ fun e : Byte × Nat => (e.2, e.1, 0xFF#8)) = Prod.fst := by
    funext e
    exact mergeByte_whole _ _
  rw [hfst]
  exact List.map_fst_zip (by simp [upFrom_eq])

/-- A store of bytes within one sector at a bank is a write of those bytes. -/
theorem writePlace_scratch {s : State} (c : Ctx) {q o : Nat} (va : W64) (pol : Nat) {b : Bytes} (hb : b ≠ []) :
    writePlace s c (.scratch q o) va pol (cellsOf (o % 128) b) = scrWrite s q o b := by
  have hhead : ((cellsOf (o % 128) b).head?.map (·.1)).getD 0 = o % 128 := by
    cases b with
    | nil => exact absurd rfl hb
    | cons x xs => simp [cellsOf, upFrom]
  unfold writePlace writePlaceP
  dsimp only
  rw [hhead, show o / 128 * 128 + o % 128 = o by omega, merge_cellsOf (o % 128) b fun k => Mem.byte (s.ply q).scratch (o / 128 * 128 + k)]
  rfl

theorem getD_bytesLE (n : Nat) : ∀ v i, i < n → (bytesLE v n).getD i 0 = BitVec.ofNat 8 (v / 256 ^ i) := by
  induction n with
  | zero => exact fun v i h => absurd h (Nat.not_lt_zero i)
  | succ n ih =>
    intro v i h
    cases i with
    | zero => simp [bytesLE]
    | succ i =>
      rw [bytesLE, List.getD_cons_succ, ih _ _ (by omega), Nat.div_div_eq_div_mul, ← Nat.pow_succ']

theorem length_bytesLE (n : Nat) : ∀ v, (bytesLE v n).length = n := by
  induction n with
  | zero => exact fun _ => rfl
  | succ n ih => exact fun v => by simp [bytesLE, ih]

theorem getD_bytesLE_word (v : W64) {n i : Nat} (h : i < n) : (bytesLE v.toNat n).getD i 0 = byteOf v i := by
  rw [getD_bytesLE n _ _ h, byteOf]
  apply BitVec.eq_of_toNat_eq
  simp [Nat.shiftRight_eq_div_pow, Nat.pow_mul]

end Sys2Proof.Machine
end

section
/-! PROOF. Accesses of the ply's own scratch (R26, R63, R65): the checks pass, nothing is translated, and the bytes are those of the bank. -/
namespace Sys2Proof.Machine

/-- The effective address of an offset in the ply's own scratch. -/
def scratchEa (A : Nat) : W64 := w64 (2 ^ 60 + A)

theorem bits_scratchEa {A : Nat} (h : A < 2 ^ 20) :
    bits (scratchEa A) 60 4 = 1 ∧ bits (scratchEa A) 0 20 = A ∧ ptrAddr (scratchEa A) = A := by
  simp only [scratchEa, w64, ptrAddr, bits, BitVec.toNat_ofNat, Nat.shiftRight_eq_div_pow]
  omega

/-- The access an instruction makes with permission bit k, of n bytes at their own alignment. -/
def scratchAcc (n k : Nat) (tags : List Nat) : Acc := ⟨[k], k == 1, n, n, tags⟩

section
variable {s : State} {base : W64} {off : Int} {n A k : Nat} (h : inOwnScratch s base off n A k)
include h

theorem offset_lt_own : A < 2 ^ 20 := by
  obtain ⟨-, -, -, -, -, -, -, hA, -, -⟩ := h
  exact hA

theorem scratchOf_own : scratchOf s s.iss.ply (scratchEa A) = some (s.iss.ply, A) := by
  obtain ⟨htag, haddr, -⟩ := bits_scratchEa (offset_lt_own h)
  have hlive := h.1
  simp [scratchOf, htag, haddr, hlive]

theorem checkAddr_own {tags : List Nat} (ht : 1 ∈ tags) :
    checkAddr s (ctxOf s) base off (scratchAcc n k tags) = .ok (scratchEa A) := by
  have hscr := scratchOf_own h
  obtain ⟨hlive, -, htag, hpol, hoff, halign, hsize, hA, hperm, -⟩ := h
  have hseg : checkSegment s (ctxOf s) 1 A (scratchAcc n k tags) = .ok () := by
    have hbit : bit ((ctxOf s).seg 1).ctl (permBit k) = true := hperm
    have hea : w64 (1 * 2 ^ 60 + A) = scratchEa A := by simp [scratchEa]
    have hply : scratchOf s (ctxOf s).ply (scratchEa A) = some (s.iss.ply, A) := hscr
    have hlt : A + n ≤ (s.ply s.iss.ply).scrSize := hsize
    simp only [checkSegment, scratchAcc, List.find?_cons, hbit, Bool.not_true, List.find?_nil, hea, hply, hlt, true_or, if_true]
  have hsum : (ptrAddr base : Int) + off = A := hoff
  have htag' : ptrTag base = 1 := htag
  have hpol' : ptrPol base = 0 := hpol
  have hbound : ¬ ((A : Int) < 0 ∨ ((2 ^ tagBits 1 : Nat) : Int) ≤ A) := by
    simp only [tagBits]
    omega
  have hfit : A % (scratchAcc n k tags).align = 0 := halign
  unfold checkAddr
  simp only [htag', hpol', hsum, Int.toNat_natCast]
  rw [if_neg hbound]
  simp [hfit, hseg, scratchEa, show 1 ∈ (scratchAcc n k tags).tags from ht]

theorem translateAcc_own (x : Option XReg) (o : Int) (kind lane : Nat) :
    translateAcc s (ctxOf s) x o (scratchEa A) kind lane = (.here (.scratch s.iss.ply A) (scratchEa A), s) := by
  have hscr : scratchOf s (ctxOf s).ply (scratchEa A) = some (s.iss.ply, A) := scratchOf_own h
  have htag : ptrTag (scratchEa A) = 1 := (bits_scratchEa (offset_lt_own h)).1
  unfold translateAcc
  simp only [htag, hscr]

theorem oneSector_own (hn : n = 1 ∨ n = 2 ∨ n = 4 ∨ n = 8 ∨ n = 16) : A % 128 + n ≤ 128 := by
  obtain ⟨-, -, -, -, -, halign, -⟩ := h
  rcases hn with rfl | rfl | rfl | rfl | rfl <;> omega

theorem readPlace_own (hn : n = 1 ∨ n = 2 ∨ n = 4 ∨ n = 8 ∨ n = 16) (pol : Nat) :
    readPlace s (ctxOf s) (.scratch s.iss.ply A) n pol = (.got (Mem.read s.curPly.scratch A n) none false, s) := by
  have hsec := oneSector_own h hn
  obtain ⟨-, hflips, -, -, -, -, -, -, -, hpoison⟩ := h
  have hpoisoned : scrPoisoned s s.iss.ply A n = none := by
    have hone : (A % 128 + n + 127) / 128 = 1 := by omega
    have hno : Tab.has (s.ply s.iss.ply).scrPoison (A / 128) = false := hpoison
    simp [scrPoisoned, hone, upFrom, hno]
  unfold readPlace
  simp only [detectScratch_noFlips hflips, hpoisoned]
  rfl

end

/-! ## SLD and SST -/

theorem ok_bind {α β : Type} (a : α) (k : α → Except Stop β) : (do let x ← .ok a; k x) = k a := rfl

theorem readBase_ok {s : State} {f : BitVec 8} (h : baseOk s f) : readBase s f = .ok (baseOf s f, boundOf s f) := by
  unfold readBase baseOf boundOf
  dsimp only
  by_cases hx : 224 ≤ f.toNat ∧ f.toNat < 240
  · have hhas : Tab.has s.cur.x (f.toNat - 224) = true := by
      rcases h with hs | ⟨-, -, hhas⟩
      · unfold isSource at hs
        omega
      · exact hhas
    rw [if_pos hx, if_pos hx, if_pos hx]
    unfold Tab.has at hhas
    unfold Tab.get
    cases hf : Tab.find (f.toNat - 224) s.cur.x with
    | none => simp [hf] at hhas
    | some r => rfl
  · rw [if_neg hx, if_neg hx, if_neg hx]
    have hs : isSource f := by
      rcases h with hs | ⟨hlo, hhi, -⟩
      · exact hs
      · exact absurd ⟨hlo, hhi⟩ hx
    rw [readS_source s f hs]
    rfl

section
variable {s : State} {base : W64} {off : Int} {n A k : Nat}

theorem checkOne_own (h : inOwnScratch s base off n A k) {tags : List Nat} (ht : 1 ∈ tags) :
    checkOne s base off (scratchAcc n k tags) = .ok (scratchEa A) := by
  unfold checkOne
  rw [checkAddr_own h ht]

theorem translateOne_own (h : inOwnScratch s base off n A k) (x : Option XReg) (o : Int) (kind fkind : Nat) :
    translateOne s x o (scratchEa A) kind fkind = .ok (.scratch s.iss.ply A, scratchEa A, s) := by
  unfold translateOne
  simp only [translateAcc_own h]

theorem readOne_own (h : inOwnScratch s base off n A k) (hn : n = 1 ∨ n = 2 ∨ n = 4 ∨ n = 8 ∨ n = 16) (ea : W64) (pol : Nat) (accept : Bool) :
    readOne s ea (.scratch s.iss.ply A) n pol accept = .ok (Mem.read s.curPly.scratch A n, s) := by
  unfold readOne
  simp only [readPlace_own h hn]
  rfl

theorem scalarLoad_own {d a : BitVec 8} {o : BitVec 9} (h : inOwnScratch s (baseOf s a) (o.toInt * n) n A 0) (hn : n = 4 ∨ n = 8)
    (ha : baseOk s a) (hd : isDest d) : scalarLoad s d a o n = .ok (destOf s d (BitVec.ofNat 64 (natLE (Mem.read s.curPly.scratch A n)))) := by
  have hcheck : checkOne s (baseOf s a) (o.toInt * n) ⟨[0], false, n, n, scalarTags⟩ = .ok (scratchEa A) :=
    checkOne_own h (tags := scalarTags) (by decide)
  have hdest : decide (d.toNat ≤ 192 ∨ d.toNat = 208) = true := decide_eq_true hd
  unfold scalarLoad
  rw [need_bind hdest]
  simp only [readBase_ok ha, hcheck, translateOne_own h, readOne_own h (show n = 1 ∨ n = 2 ∨ n = 4 ∨ n = 8 ∨ n = 16 by omega), ok_bind]
  exact writeS_dest s d _ hd

theorem scalarStore_own {d a : BitVec 8} {o : BitVec 9} (h : inOwnScratch s (baseOf s a) (o.toInt * n) n A 1) (hn : n = 4 ∨ n = 8)
    (ha : baseOk s a) (hd : isSource d) (hr : rangeRead s s.iss.ply s.iss.ply A n = false) :
    scalarStore s d a o n = .ok (scrWriteIn s s.iss.ply A (bytesLE (sourceOf s d).toNat n)) := by
  have hcheck : checkOne s (baseOf s a) (o.toInt * n) ⟨[1], true, n, n, scalarTags⟩ = .ok (scratchEa A) :=
    checkOne_own h (tags := scalarTags) (by decide)
  have hheld : writeHeld s s.iss.ply n (.scratch s.iss.ply A) = false := hr
  have hready : storeReady s [.scratch s.iss.ply A] = .ok s := rfl
  obtain ⟨htag, -, haddr⟩ := bits_scratchEa (offset_lt_own h)
  have hend : endForTag s s.iss.ply (ptrTag (scratchEa A)) = s := by
    rw [show ptrTag (scratchEa A) = 1 from htag]
    rfl
  have hlen := length_bytesLE n (sourceOf s d).toNat
  have hne : bytesLE (sourceOf s d).toNat n ≠ [] := by
    rw [← List.length_pos_iff, hlen]
    omega
  unfold scalarStore
  rw [readS_bind s hd]
  simp only [readBase_ok ha, hcheck, translateOne_own h, hheld, hready, hend, haddr, ok_bind]
  rw [writePlace_scratch _ _ _ hne, scrWrite_oneSector hne (by rw [hlen]; exact oneSector_own h (by omega))]
  rfl

end

/-- What a store in the ply's own scratch leaves. -/
theorem scalarStore_leaves {s : State} (hf : s.flips = []) (A : Nat) (v : W64) (n : Nat) :
    (∀ k, Mem.byte ((scrWriteIn s s.iss.ply A (bytesLE v.toNat n)).ply s.iss.ply).scratch k =
      if A ≤ k ∧ k < A + n then byteOf v (k - A) else Mem.byte s.curPly.scratch k) ∧
    (∀ q, q ≠ s.iss.ply → ((scrWriteIn s s.iss.ply A (bytesLE v.toNat n)).ply q).scratch = (s.ply q).scratch) ∧
    BankKept s (scrWriteIn s s.iss.ply A (bytesLE v.toNat n)) := by
  obtain ⟨hkept, hscr⟩ := scrWriteIn_kept hf s.iss.ply A (bytesLE v.toNat n)
  refine ⟨fun k => ?_, fun q hq => by rw [hscr, if_neg hq], hkept⟩
  rw [hscr, if_pos rfl, Mem.byte_write, length_bytesLE]
  refine ite_congr rfl (fun hk => getD_bytesLE_word v ?_) fun _ => rfl
  omega

/-- Settles O29: the access passes its checks, goes to the bank, and reads or writes its bytes there. -/
theorem scalarScratchResults : Obligations.ScalarScratchResults := by
  unfold Obligations.ScalarScratchResults
  intro i x s A hx hbase hown
  have hflips : s.flips = [] := hown.2.1
  unfold scalarAccess at hx
  split at hx <;> cases hx
  all_goals
    rw [Int.mul_comm] at hown
    refine ⟨fun hl hd => ?_, fun hl hd hr => ?_⟩
  · exact congrArg (run s) (scalarLoad_own hown (.inr rfl) hbase hd)
  · cases hl
  · exact congrArg (run s) (scalarLoad_own hown (.inl rfl) hbase hd)
  · cases hl
  · cases hl
  · obtain ⟨hbytes, hother, hkept⟩ := scalarStore_leaves hflips A (sourceOf s _) 8
    exact ⟨_, congrArg (run s) (scalarStore_own hown (.inr rfl) hbase hd hr), hbytes, hother, hkept.home, hkept.hbm, hkept.storeKept⟩
  · cases hl
  · obtain ⟨hbytes, hother, hkept⟩ := scalarStore_leaves hflips A (sourceOf s _) 4
    exact ⟨_, congrArg (run s) (scalarStore_own hown (.inl rfl) hbase hd hr), hbytes, hother, hkept.home, hkept.hbm, hkept.storeKept⟩

end Sys2Proof.Machine
end

section
/-! PROOF. Loads of lanes (R182, R184 to R186): what the instructions run, and the bytes that lanes in the ply's own scratch take. -/
namespace Sys2Proof.Machine

/-! ## What the instructions run -/

theorem needPair_ok {s : State} {sz o : Nat} {d : BitVec 6} (h : ∀ r, r ∈ o :: sizeRegs sz d.toNat → r < 64 ∧ r < 8 * s.cur.blocks) (k : Eff) :
    (do needPair sz d; needVecs s (o :: sizeRegs sz d.toNat); k) = k := by
  have hpair : (!(sz == 4 && d == 63)) = true := by
    by_cases hs : sz = 4
    · have hd := (h (d.toNat + 1) (by simp [sizeRegs, hs])).1
      have hne : d ≠ 63#6 := by
        rintro rfl
        exact absurd hd (by decide)
      simp [hne]
    · simp [hs]
  unfold needPair
  rw [need_bind hpair, needVecs_bind s fun r hr => (h r hr).2]

theorem laneLoad_runs {i : Instr} {x : LaneLoad} {s : State} (hx : laneLoad s i = some x) (hops : laneOperandsOk s i) :
    exec i s = run s (do let t ← vecLoad s x.size x.d x.m x.base x.bound x.ls; .ok (x.after t)) := by
  obtain ⟨hbase, hregs, hacq⟩ := hops
  have hid : ∀ e : Eff, e = (do let t ← e; .ok t) := fun e => by cases e <;> rfl
  unfold laneLoad at hx
  split at hx
  case h_1 d a o z p =>
    cases hx
    refine congrArg (run s) ((needPair_ok (o := o.toNat) hregs _).trans ?_)
    rw [readBase_ok (hbase a rfl)]
    exact hid _
  case h_2 d a o sc z =>
    cases hx
    refine congrArg (run s) ((needPair_ok (o := o.toNat) hregs _).trans ?_)
    rw [readBase_ok (hbase a rfl)]
    exact need_bind (hacq d a o sc z rfl) _ _
  case h_3 d q o z b p =>
    split at hx
    · next r hr =>
      cases hx
      refine congrArg (run s) ((needPair_ok (o := o.toNat) hregs _).trans ?_)
      rw [hr]
      exact hid _
    · cases hx
  case h_4 => cases hx

/-! ## Lanes in the ply's own scratch -/

theorem checkLanes_ok {s : State} {c : Ctx} {base : W64} {acc : Acc} {ls : List LaneOff} {f : LaneOff → W64}
    (h : ∀ e ∈ ls, checkLane s c base acc e = .ok (f e)) : checkLanes s c base acc ls = .ok (ls.map (fun e => ⟨e.lane, e.off, f e⟩)) := by
  unfold checkLanes
  dsimp only
  split
  · next x xs hx =>
    have hmem : x ∈ x :: xs := List.mem_cons_self
    rw [← hx, List.mem_filterMap] at hmem
    obtain ⟨e, he, hsome⟩ := hmem
    rw [h e he] at hsome
    cases hsome
  · refine congrArg Except.ok ?_
    rw [← List.filterMap_eq_map]
    exact List.filterMap_congr fun e he => by rw [h e he]; rfl

/-- A lane of the own scratch, translated. -/
def scratchTo (s : State) (A : Nat → Nat) (e : LaneOff) : LaneTo :=
  { lane := e.lane, ea := scratchEa (A e.lane), place := .scratch s.iss.ply (A e.lane), va := scratchEa (A e.lane) }

/-- What a lane of the own scratch reads. -/
def scratchGot (s : State) (A : Nat → Nat) (n : Nat) (e : LaneOff) : LaneTo × Rd :=
  (scratchTo s A e, .got (Mem.read s.curPly.scratch (A e.lane) n) none false)

section
variable {s : State} {base : W64} {n : Nat} {A : Nat → Nat} {ls : List LaneOff} (h : ∀ e ∈ ls, inOwnScratch s base e.off n (A e.lane) 0)
include h

theorem translateLanes_own (x : Option XReg) (kind : Nat) :
    translateLanes s (ctxOf s) x kind (ls.map (fun e => ⟨e.lane, e.off, scratchEa (A e.lane)⟩)) =
      ({ tos := ls.map (scratchTo s A), fails := [], waits := false }, s) := by
  unfold translateLanes
  induction ls using List.reverseRecOn with
  | nil => rfl
  | append_singleton ls e ih =>
    rw [List.map_append, List.foldl_append, ih fun g hg => h g (List.mem_append_left _ hg)]
    simp [translateAcc_own (h e (by simp)), scratchTo]

theorem readLanes_own (hn : n = 1 ∨ n = 2 ∨ n = 4 ∨ n = 8 ∨ n = 16) (pol : Nat) :
    readLanes s (ctxOf s) n pol (ls.map (scratchTo s A)) = (ls.map (scratchGot s A n), s) := by
  unfold readLanes
  induction ls using List.reverseRecOn with
  | nil => rfl
  | append_singleton ls e ih =>
    rw [List.map_append, List.foldl_append, ih fun g hg => h g (List.mem_append_left _ hg)]
    simp [scratchTo, readPlace_own (h e (by simp)) hn, scratchGot]

theorem loadLanes_own (hpre : ∀ e ∈ ls, e.pre = none) (hn : n = 1 ∨ n = 2 ∨ n = 4 ∨ n = 8 ∨ n = 16) (x : Option XReg) :
    loadLanes s base x (loadAcc n) ls = .ok (ls.map (fun e => (e.lane, Mem.read s.curPly.scratch (A e.lane) n)), [], s) := by
  have hcheck : checkLanes s (ctxOf s) base (loadAcc n) ls = .ok (ls.map (fun e => ⟨e.lane, e.off, scratchEa (A e.lane)⟩)) := by
    refine checkLanes_ok fun e he => ?_
    unfold checkLane
    rw [hpre e he]
    exact checkAddr_own (h e he) (tags := [0, 1, 2, 3, 4, 5, 6]) (by decide)
  have herrors : loadErrors (ls.map (scratchGot s A n)) (curAccepts s) = [] := by
    simp [loadErrors, scratchGot]
  have hwait : anyWait (ls.map (scratchGot s A n)) = false := by
    simp [anyWait, scratchGot]
  have htook : acceptedLanes (ls.map (scratchGot s A n)) = [] := by
    simp [acceptedLanes, scratchGot]
  have hread : readLanes s (ctxOf s) (loadAcc n).bytes (ptrPol base) (ls.map (scratchTo s A)) = (ls.map (scratchGot s A n), s) :=
    readLanes_own h hn _
  have hbytes : laneBytes (ls.map (scratchGot s A n)) (loadAcc n).bytes = ls.map (fun e => (e.lane, Mem.read s.curPly.scratch (A e.lane) n)) := by
    simp [laneBytes, scratchGot, scratchTo]
  unfold loadLanes
  simp only [hcheck, translateLanes_own h, hread, hwait, herrors, htook, hbytes, joinErrors, ok_bind]
  rfl

theorem vecLoad_own {sz d : Nat} (hsz : n = sizeBytes sz) (hpre : ∀ e ∈ ls, e.pre = none) (m : W32) (x : Option XReg) :
    vecLoad s sz d m base x ls = .ok (writeLoad s sz d m (ls.map (fun e => (e.lane, Mem.read s.curPly.scratch (A e.lane) n)))) := by
  have hn : n = 1 ∨ n = 2 ∨ n = 4 ∨ n = 8 ∨ n = 16 := by
    rw [hsz]
    unfold sizeBytes
    split <;> simp
  have hmask : m &&& ~~~(maskOf (([] : List LaneFault).map (·.lane))) = m := by
    rw [show ~~~(maskOf (([] : List LaneFault).map (·.lane))) = BitVec.allOnes 32 from rfl, BitVec.and_allOnes]
  unfold vecLoad
  rw [← hsz]
  simp only [loadLanes_own h hpre hn, ok_bind, hmask]
  rfl

end

/-! ## The registers that a load writes -/

theorem lanePart_own {ls : List LaneOff} {e : LaneOff} (he : e ∈ ls) (sz part : Nat) (b : Nat → Bytes) :
    lanePart sz part (ls.map (fun e => (e.lane, b e.lane))) e.lane =
      loadValue sz (if sz = 4 then ((b e.lane).drop (8 * part)).take 8 else b e.lane) := by
  have hfind : (ls.map (fun e => (e.lane, b e.lane))).find? (fun x => x.1 == e.lane) = some (e.lane, b e.lane) := by
    cases hf : (ls.map (fun e => (e.lane, b e.lane))).find? (fun x => x.1 == e.lane) with
    | none => exact absurd (List.find?_eq_none.1 hf (e.lane, b e.lane) (List.mem_map.2 ⟨e, he, rfl⟩)) (by simp)
    | some y =>
      obtain ⟨g, -, rfl⟩ := List.mem_map.1 (List.mem_of_find?_eq_some hf)
      have hg : g.lane = e.lane := by simpa using List.find?_some hf
      rw [hg]
  unfold lanePart
  rw [hfind]

theorem writeLoad_frame (s : State) (sz d : Nat) (m : W32) (bs : List (Nat × Bytes)) : SameButStrand s (writeLoad s sz d m bs) := by
  unfold writeLoad
  split
  · exact (SameButStrand.setVecLanes s d m _).trans (SameButStrand.setVecLanes _ (d + 1) m _)
  · exact SameButStrand.setVecLanes s d m _

theorem vreg_writeLoad (s : State) (sz d r l : Nat) (m : W32) (bs : List (Nat × Bytes)) (hl : l < 32) :
    vreg (writeLoad s sz d m bs) r l = if sz = 4 ∧ r = d + 1 ∧ inMask m l = true then lanePart sz 1 bs l
      else if r = d ∧ inMask m l = true then lanePart sz 0 bs l else vreg s r l := by
  unfold writeLoad
  by_cases hs : sz = 4
  · rw [if_pos hs, vreg_setVecLanes _ _ _ _ _ _ hl, vreg_setVecLanes _ _ _ _ _ _ hl]
    simp [hs]
  · rw [if_neg hs, vreg_setVecLanes _ _ _ _ _ _ hl]
    simp [hs]

/-- Settles O32: every lane's address passes its checks and is read at the bank; the load writes what the size code makes of the bytes. -/
theorem vectorScratchLoads : Obligations.VectorScratchLoads := by
  unfold Obligations.VectorScratchLoads
  intro i x s A hx hops hown
  refine ⟨writeLoad s x.size x.d x.m (x.ls.map (fun e => (e.lane, Mem.read s.curPly.scratch (A e.lane) (sizeBytes x.size)))), ?_,
    writeLoad_frame s _ _ _ _, (writeLoad_frame s _ _ _ _).memory, fun r l hl hr => ?_, fun e he hm => ?_⟩
  · rw [laneLoad_runs hx hops, vecLoad_own (fun e he => (hown e he).2) rfl (fun e he => (hown e he).1)]
    rfl
  · rw [vreg_writeLoad _ _ _ _ _ _ _ hl, if_neg, if_neg]
    · rintro ⟨hd, hin⟩
      rcases hr with hout | ⟨hne, -⟩
      · exact absurd (hout.symm.trans hin) (by decide)
      · exact hne hd
    · rintro ⟨hs, hd, hin⟩
      rcases hr with hout | ⟨-, hne⟩
      · exact absurd (hout.symm.trans hin) (by decide)
      · exact hne.elim (fun h => h hs) (fun h => h hd)
  · have hl := lt_of_inMask hm
    refine ⟨?_, fun hs => ?_⟩
    · rw [vreg_writeLoad _ _ _ _ _ _ _ hl, if_neg (by omega), if_pos ⟨rfl, hm⟩,
        lanePart_own he _ _ fun l => Mem.read s.curPly.scratch (A l) (sizeBytes x.size)]
      generalize x.size = sz
      match sz with
      | 0 | 1 | 2 | 3 | 4 => simp [loadValue, w64, sext64]
      | _ + 5 => simp [loadValue, w64]
    · have hlen : (Mem.read s.curPly.scratch (A e.lane) (sizeBytes x.size)).length = 16 := by rw [Mem.read_length, hs]; rfl
      rw [vreg_writeLoad _ _ _ _ _ _ _ hl, if_pos ⟨hs, rfl, hm⟩,
        lanePart_own he _ _ fun l => Mem.read s.curPly.scratch (A l) (sizeBytes x.size), if_pos hs, List.take_of_length_le (by simp [hlen])]
      rw [hs]
      rfl

end Sys2Proof.Machine
end

section
/-! PROOF. Reads at the homes (R10, R365) and table walks (R258) leave the tables of work: plies, skeins, jobs,
cores, reels, queues, the events to come, and which fragment issues. -/
namespace Sys2Proof.Machine

/-- The tables of the work under way. -/
def State.work (s : State) : Tab Ply × Tab Skein × List Job × Tab Core × Tab Reel × Tab Queue × List Instr × Issue :=
  (s.plies, s.skeins, s.jobs, s.cores, s.reels, s.queues, s.engine, s.iss)

theorem State.work_eq {s t : State} (h : t.work = s.work) : t.plies = s.plies ∧ t.skeins = s.skeins ∧ t.jobs = s.jobs ∧ t.cores = s.cores ∧
    t.reels = s.reels ∧ t.queues = s.queues ∧ t.engine = s.engine := by
  simp only [State.work, Prod.mk.injEq] at h
  obtain ⟨hplies, hskeins, hjobs, hcores, hreels, hqueues, hengine, -⟩ := h
  exact ⟨hplies, hskeins, hjobs, hcores, hreels, hqueues, hengine⟩

theorem State.work_iss {s t : State} (h : t.work = s.work) : t.iss = s.iss := congrArg (·.2.2.2.2.2.2.2) h

theorem work_foldl {α : Type} {f : State → α → State} (h : ∀ s x, (f s x).work = s.work) (l : List α) : ∀ s, (l.foldl f s).work = s.work := by
  induction l with
  | nil => exact fun _ => rfl
  | cons x l ih => exact fun s => (ih _).trans (h s x)

@[simp] theorem work_modPf0 (s : State) (f : Pf0 → Pf0) : (s.modPf0 f).work = s.work := rfl
@[simp] theorem work_modPlat (s : State) (f : Platform → Platform) : (s.modPlat f).work = s.work := rfl
@[simp] theorem work_modDie (s : State) (d : Nat) (f : Die → Die) : (s.modDie d f).work = s.work := rfl
@[simp] theorem work_modVdev (s : State) (v : Nat) (f : VDev → VDev) : (s.modVdev v f).work = s.work := rfl
@[simp] theorem work_modBay (s : State) (b : Nat) (f : Bay → Bay) : (s.modBay b f).work = s.work := rfl
@[simp] theorem work_send (s : State) (o : Out) : (s.send o).work = s.work := rfl
@[simp] theorem work_fireInjection (s : State) (cls cause : Nat) : (fireInjection s cls cause).work = s.work := rfl

/-! ## Notes of errors -/

@[simp] theorem work_noteInjection (s : State) (r : ErrRec) (n : Nat) : (noteInjection s r n).work = s.work := by
  unfold noteInjection
  split
  · split <;> rfl
  · rfl

@[simp] theorem work_writePackageRecord (s : State) (r : ErrRec) (about : Option Nat) : (writePackageRecord s r about).work = s.work :=
  work_noteInjection s r _

@[simp] theorem work_addRemapAt (s : State) (kind die place spare : Nat) (pend : Bool) :
    (addRemapAt s kind die place spare pend).1.work = s.work := by
  unfold addRemapAt
  dsimp only
  split <;> rfl

@[simp] theorem work_addRemap (s : State) (kind die place spare : Nat) : (addRemap s kind die place spare).1.work = s.work :=
  work_addRemapAt s kind die place spare false

@[simp] theorem work_noteDouble (s : State) (d kind place n : Nat) : (noteDouble s d kind place n).1.work = s.work := by
  unfold noteDouble
  dsimp only
  split <;> rfl

@[simp] theorem work_dropFlips (s : State) (hit : Flip → Bool) : (dropFlips s hit).work = s.work := by
  unfold dropFlips
  dsimp only
  split <;> rfl

theorem work_takeFlip {s t : State} {hit : Flip → Bool} {what : Flip → Nat × Nat} {f : Flip} (h : takeFlip s hit what = some (f, t)) :
    t.work = s.work := by
  unfold takeFlip at h
  split at h
  · simp only [Option.some.injEq, Prod.mk.injEq] at h
    rw [← h.2]
    split <;> rfl
  · cases h

@[simp] theorem work_countHome (s : State) (pa : Nat) : (countHome s pa).work = s.work := by
  unfold countHome
  split <;> rfl

@[simp] theorem work_doubleInRow (s : State) (d kind row : Nat) : (doubleInRow s d kind row).work = s.work := by
  unfold doubleInRow
  dsimp only
  generalize (if kind = 4 then Config.hbmSpareRows d else 64) = spares
  split
  · rfl
  · split
    · split
      all_goals
        next t h =>
        have ht := congrArg (fun r => r.1.work) h
        simpa using ht.symm
    · simp

@[simp] theorem work_countFixed (s : State) (d : Nat) : (countFixed s d).work = s.work := rfl

/-! ## Sectors are found, filled and dropped -/

@[simp] theorem work_writeBack (s : State) (sec : Nat) : (writeBack s sec).work = s.work := by
  unfold writeBack
  split
  · split <;> rfl
  · rfl

@[simp] theorem work_l2Drop (s : State) (sec : Nat) : (l2Drop s sec).work = s.work := by
  unfold l2Drop
  split <;> rfl

@[simp] theorem work_detectL2 (s : State) (sec : Nat) : (detectL2 s sec).1.work = s.work := by
  unfold detectL2
  split
  · rfl
  · split
    · rfl
    · next f t ht =>
      have hst := work_takeFlip ht
      dsimp only
      split
      · exact hst
      · split
        · exact hst
        · exact (work_l2Drop t sec).trans hst

@[simp] theorem work_retireWay (s : State) (sl way : Nat) : (retireWay s sl way).work = s.work := by
  have hfold := work_foldl (f := l2Leave) (fun s sec => by simp [l2Leave]) ((slicePresent s sl).filter (fun e => Config.l2Way e % 32 == way)) s
  unfold retireWay
  dsimp only
  refine Eq.trans ?_ hfold
  split
  · simp
  · split <;> simp

@[simp] theorem work_doubleInWay (s : State) (sec : Nat) : (doubleInWay s sec).work = s.work := by
  unfold doubleInWay
  dsimp only
  split <;> simp

@[simp] theorem work_detectL2_doubleInWay (s : State) (sec : Nat) :
    (if (detectL2 s sec).2 then doubleInWay (detectL2 s sec).1 sec else (detectL2 s sec).1).work = s.work := by
  split <;> simp

@[simp] theorem work_l2Clean (s : State) (sec : Nat) : (l2Clean s sec).work = s.work := by
  unfold l2Clean
  rw [work_writeBack]
  exact work_detectL2_doubleInWay s sec

@[simp] theorem work_detectHome (s : State) (sec : Nat) : (detectHome s sec).work = s.work := by
  unfold detectHome
  dsimp only
  refine Eq.trans ?_ (work_detectL2_doubleInWay s sec)
  generalize (if (detectL2 s sec).2 then doubleInWay (detectL2 s sec).1 sec else (detectL2 s sec).1) = r
  split
  · rfl
  · split
    · next f t ht =>
      have hrt := work_takeFlip ht
      split
      · exact hrt
      · exact (work_doubleInRow _ _ _ _).trans hrt
    · rfl

@[simp] theorem work_l2Fill (s : State) (sec prio : Nat) : (l2Fill s sec prio).work = s.work := by
  unfold l2Fill
  split
  · rfl
  · dsimp only
    refine (work_dropFlips _ _).trans ?_
    split
    · rfl
    · split
      · exact (work_l2Drop _ _).trans (work_l2Clean _ _)
      · rfl

@[simp] theorem work_homeTouch (s : State) (pa pol : Nat) : (homeTouch s pa pol).work = s.work := by
  unfold homeTouch
  dsimp only
  split <;> simp

@[simp] theorem work_readUnder (s : State) (sec : Nat) (whole : Bool) : (readUnder s sec whole).work = s.work := by
  unfold readUnder
  split <;> simp

theorem work_markWritten (s : State) (sec pol : Nat) : (markWritten s sec pol).work = s.work := by
  unfold markWritten
  split
  · rfl
  · exact work_l2Fill s sec _

theorem work_clearWritten (s : State) (sec : Nat) (whole : Bool) : (clearWritten s sec whole).work = s.work := by
  unfold clearWritten
  split
  · exact (work_dropFlips _ _).trans (work_countHome s _)
  · exact work_countHome s _

/-! ## Table walks -/

theorem work_touchBuckets (v : VDev) (vn k vpn h n : Nat) : ∀ (s : State) (j : Nat), (touchBuckets s v vn k vpn h j n).1.work = s.work := by
  induction n with
  | zero => exact fun _ _ => rfl
  | succ n ih =>
    intro s j
    unfold touchBuckets
    dsimp only
    split
    · rw [ih, work_homeTouch]
    · exact work_homeTouch s _ 0

theorem work_touchSizes (v : VDev) (vn va k : Nat) : ∀ s : State, (touchSizes s v vn va k).work = s.work := by
  induction k with
  | zero => exact fun _ => rfl
  | succ k ih =>
    intro s
    unfold touchSizes
    dsimp only
    split
    · split
      · exact work_touchBuckets _ _ _ _ _ _ s 0
      · rw [ih, work_touchBuckets]
    · exact ih s

@[simp] theorem work_walkTouch (s : State) (vn va : Nat) : (walkTouch s vn va).work = s.work := work_touchSizes _ vn va 16 s

@[simp] theorem work_touchRank (s : State) (reel rank : Nat) : (touchRank s reel rank).work = s.work := by
  unfold touchRank
  dsimp only
  split
  · rfl
  · split <;> simp

end Sys2Proof.Machine
end

section
/-! PROOF. Drains (R238): of plies they change reservations and the answers that fragments keep alone (R138, R182), and logs only lose entries. -/
namespace Sys2Proof.Machine

/-- Plies change in their strands alone, and reels where an error ends them; skeins, jobs and read indices stay; no event is lost; an entry of a log is
one of before, as far as its ply and its standing go. -/
structure StrandsOnly (s u : State) : Prop where
  ply : ∀ q, u.ply q = { s.ply q with strands := (u.ply q).strands }
  skeins : u.skeins = s.skeins
  jobs : u.jobs = s.jobs
  reel : ∀ r, u.reel r = { s.reel r with contained := (u.reel r).contained }
  hasReel : ∀ r, Tab.has s.reels r = true → Tab.has u.reels r = true
  ridx : ∀ q, (u.queue q).ridx = (s.queue q).ridx
  engine : ∀ e ∈ s.engine, e ∈ u.engine
  log : ∀ c, ∀ e ∈ (u.core c).log, ∃ g ∈ (s.core c).log, g.ply = e.ply ∧ g.held = e.held

/-- Of strands, reservations and kept answers alone change too. -/
structure DrainKept (s u : State) : Prop extends StrandsOnly s u where
  resv : ReservationsOnly s u

/-! ## The relations -/

theorem StrandsOnly.refl (s : State) : StrandsOnly s s :=
  ⟨fun _ => rfl, rfl, rfl, fun _ => rfl, fun _ => id, fun _ => rfl, fun _ => id, fun _ e he => ⟨e, he, rfl, rfl⟩⟩

theorem StrandsOnly.trans {s t u : State} (h : StrandsOnly s t) (k : StrandsOnly t u) : StrandsOnly s u := by
  refine ⟨fun q => by rw [k.ply, h.ply], k.skeins.trans h.skeins, k.jobs.trans h.jobs, fun r => by rw [k.reel, h.reel], fun r => k.hasReel r ∘ h.hasReel r,
    fun q => (k.ridx q).trans (h.ridx q), fun e => k.engine e ∘ h.engine e, fun c e he => ?_⟩
  obtain ⟨f, hf, hply, hheld⟩ := k.log c e he
  obtain ⟨g, hg, hply', hheld'⟩ := h.log c f hf
  exact ⟨g, hg, hply'.trans hply, hheld'.trans hheld⟩

theorem StrandsOnly.foldl {α : Type} {f : State → α → State} (h : ∀ s x, StrandsOnly s (f s x)) (l : List α) :
    ∀ s, StrandsOnly s (l.foldl f s) := by
  induction l with
  | nil => exact StrandsOnly.refl
  | cons x l ih => exact fun s => (h s x).trans (ih _)

theorem DrainKept.refl (s : State) : DrainKept s s := ⟨.refl s, .refl s⟩

theorem DrainKept.trans {s t u : State} (h : DrainKept s t) (k : DrainKept t u) : DrainKept s u :=
  ⟨h.toStrandsOnly.trans k.toStrandsOnly, h.resv.trans k.resv⟩

theorem DrainKept.foldl {α : Type} {f : State → α → State} (h : ∀ s x, DrainKept s (f s x)) (l : List α) :
    ∀ s, DrainKept s (l.foldl f s) := by
  induction l with
  | nil => exact DrainKept.refl
  | cons x l ih => exact fun s => (h s x).trans (ih _)

theorem ReservationsOnly.of_plies {s t : State} (h : t.plies = s.plies) : ReservationsOnly s t := by
  have hply : ∀ q, t.ply q = s.ply q := fun q => by rw [State.ply, State.ply, h]
  refine fun q k => ?_
  unfold State.fragOf
  rw [hply]
  exact ⟨rfl, fun _ => rfl⟩

theorem DrainKept.of_work {s t : State} (h : t.work = s.work) : DrainKept s t := by
  obtain ⟨hplies, hskeins, hjobs, hcores, hreels, hqueues, hengine⟩ := State.work_eq h
  refine ⟨⟨fun q => by rw [State.ply, State.ply, hplies], hskeins, hjobs, fun r => ?_, fun r => by rw [hreels]; exact id,
    fun q => by rw [State.queue, State.queue, hqueues], fun e => by rw [hengine]; exact id, fun c e he => ⟨e, by rwa [State.core, ← hcores], rfl, rfl⟩⟩,
    .of_plies hplies⟩
  rw [State.reel, State.reel, hreels]

/-- Cores change, but for the plies and the standing of their logs' entries. -/
theorem DrainKept.of_cores {s : State} {l : Tab Core}
    (hlog : ∀ c, ∀ e ∈ (Tab.get {} l c).log, ∃ g ∈ (s.core c).log, g.ply = e.ply ∧ g.held = e.held) : DrainKept s { s with cores := l } :=
  ⟨⟨fun _ => rfl, rfl, rfl, fun _ => rfl, fun _ => id, fun _ => rfl, fun _ => id, hlog⟩, .of_plies rfl⟩

theorem DrainKept.of_events {s : State} {l : List Instr} (h : ∀ e ∈ s.engine, e ∈ l) : DrainKept s { s with engine := l } :=
  ⟨⟨fun _ => rfl, rfl, rfl, fun _ => rfl, fun _ => id, fun _ => rfl, h, fun _ e he => ⟨e, he, rfl, rfl⟩⟩, .of_plies rfl⟩

theorem DrainKept.later (s : State) (e : Instr) : DrainKept s (s.later e) := by
  unfold State.later
  split
  · exact .refl s
  · exact .of_events fun f hf => List.mem_append_left _ hf

theorem DrainKept.urgent (s : State) (e : Instr) : DrainKept s (s.urgent e) := by
  refine .of_events fun f hf => ?_
  by_cases h : f = e
  · exact h ▸ List.mem_cons_self
  · exact List.mem_cons_of_mem _ ((List.mem_erase_of_ne h).2 hf)

/-- Another fragment becomes the issuing one. -/
theorem DrainKept.of_iss (s : State) (x : Issue) : DrainKept s { s with iss := x } :=
  ⟨⟨fun _ => rfl, rfl, rfl, fun _ => rfl, fun _ => id, fun _ => rfl, fun _ => id, fun _ e he => ⟨e, he, rfl, rfl⟩⟩, .of_plies rfl⟩

/-- An error ends a reel. -/
theorem DrainKept.contained (s : State) (r : Nat) : DrainKept s (s.modReel r (fun x => { x with contained := true })) := by
  have hreel : ∀ k, (s.modReel r (fun x => { x with contained := true })).reel k = if k = r then { s.reel r with contained := true } else s.reel k :=
    fun k => Tab.get_put _ r k _ s.reels
  refine ⟨⟨fun _ => rfl, rfl, rfl, fun k => ?_, fun k hk => ?_, fun _ => rfl, fun _ => id, fun _ e he => ⟨e, he, rfl, rfl⟩⟩, .of_plies rfl⟩
  · rw [hreel]
    split
    · next h => rw [h]
    · rfl
  · exact Tab.has_put_of_has hk _

/-- A core's log changes within its own entries. -/
theorem DrainKept.modCore (s : State) (c : Nat) {f : Core → Core}
    (h : ∀ e ∈ (f (s.core c)).log, ∃ g ∈ (s.core c).log, g.ply = e.ply ∧ g.held = e.held) : DrainKept s (s.modCore c f) := by
  refine .of_cores fun d e he => ?_
  change e ∈ ((s.modCore c f).core d).log at he
  rw [State.core_modCore_eq] at he
  split at he
  · next hd =>
    subst hd
    exact h e he
  · exact ⟨e, he, rfl, rfl⟩

/-- A change of a core outside its log. -/
theorem DrainKept.modCore_log (s : State) (c : Nat) {f : Core → Core} (h : (f (s.core c)).log = (s.core c).log) : DrainKept s (s.modCore c f) :=
  .modCore s c fun e he => ⟨e, h ▸ he, rfl, rfl⟩

theorem DrainKept.mapFrags (s : State) {g : Nat → Nat → Nat → Frag → Frag}
    (h : ∀ p k i f, g p k i f = { f with resv := (g p k i f).resv, replies := (g p k i f).replies }) : DrainKept s (s.mapFrags g) := by
  refine ⟨⟨fun q => ?_, rfl, rfl, fun _ => rfl, fun _ => id, fun _ => rfl, fun _ => id, fun _ e he => ⟨e, he, rfl, rfl⟩⟩, fun q k => ⟨?_, fun f => ?_⟩⟩
  · rw [ply_mapFrags]
  · rw [strand_mapFrags]
  · rcases fragOf_mapFrags s g q k f with hf | hf
    · rw [hf]
    · rw [hf]
      exact h _ _ _ _

theorem drainKept_loseReservations (s : State) (p : Place) : DrainKept s (loseReservations s p) := by
  refine .mapFrags s fun q k i f => ?_
  split
  · split <;> rfl
  · rfl

/-! ## Writes at the homes -/

theorem drainKept_homeWrote (s : State) (sec pol : Nat) (whole : Bool) : DrainKept s (homeWrote s sec pol whole) := by
  rw [homeWrote_eq]
  exact (DrainKept.of_work ((work_markWritten _ _ _).trans (work_clearWritten _ _ _))).trans (drainKept_loseReservations _ _)

theorem drainKept_homeWriteIn (s : State) (pa pol : Nat) (b : Bytes) : DrainKept s (homeWriteIn s pa pol b) := by
  unfold homeWriteIn
  dsimp only
  refine DrainKept.trans (.of_work ?_) (drainKept_homeWrote _ _ _ _)
  exact work_readUnder s _ _

theorem drainKept_homeWriteAll (pol fuel : Nat) : ∀ (s : State) (pa : Nat) (b : Bytes), DrainKept s (homeWriteAll s pa pol b fuel) := by
  induction fuel with
  | zero => exact fun s _ _ => .refl s
  | succ fuel ih =>
    intro s pa b
    unfold homeWriteAll
    split
    · exact .refl s
    · exact (drainKept_homeWriteIn s pa pol _).trans (ih _ _ _)

theorem drainKept_homeWrite (s : State) (pa : Nat) (b : Bytes) : DrainKept s (homeWrite s pa b) := drainKept_homeWriteAll 0 _ s pa b

theorem drainKept_homeDrain (s : State) (sec pol : Nat) (c : Tab (Byte × Byte)) (poison : Bool) :
    DrainKept s (homeDrain s sec pol c poison) := by
  have hcells : DrainKept s (drainCells s sec pol c) := by
    unfold drainCells
    refine DrainKept.trans (.of_work ?_) (drainKept_homeWrote _ _ _ _)
    exact work_readUnder s _ _
  refine hcells.trans (.of_work ?_)
  unfold homeDrain drainCells
  dsimp only
  split
  · split <;> rfl
  · rfl

/-! ## Records and requests -/

theorem drainKept_twoWrites (s : State) (a a' : Nat) (b b' : Bytes) (v : Nat) (g : VDev → VDev) :
    DrainKept s (msixVdev ((homeWrite (homeWrite s a b) a' b').modVdev v g) v 0) :=
  ((drainKept_homeWrite s a b).trans (drainKept_homeWrite (homeWrite s a b) a' b')).trans (.of_work rfl)

theorem drainKept_writeRecord (s : State) (r : ErrRec) : DrainKept s (writeRecord s r) := by
  have hnote : ∀ n, DrainKept s (noteInjection (s.modVdev r.vdev (fun v => { v with recNo := v.recNo + 1 })) r n) := fun n =>
    .of_work ((work_noteInjection _ _ _).trans (work_modVdev _ _ _))
  unfold writeRecord
  dsimp only
  split
  · exact .refl s
  · split
    · exact hnote _
    · exact (hnote _).trans (drainKept_twoWrites _ _ _ _ _ _ _)

theorem drainKept_failedStore (s : State) (p cls cause : Nat) (owner : ErrRec) : DrainKept s (failedStore s p cls cause owner) := by
  unfold failedStore
  split
  · exact .urgent s _
  · exact drainKept_writeRecord s _

theorem drainKept_seeEntry (s : State) (c : Nat) (e : LogEntry) : DrainKept s (seeEntry s c e) := by
  have hmark : ∀ (r : State) (k : Counts → Counts), DrainKept r (r.modCore c (fun x => { x with counts := k x.counts, log := x.log.map (fun g =>
      if g.serial == e.serial then { g with single := false, injected := false } else g) })) := by
    refine fun r k => .modCore r c fun g hg => ?_
    obtain ⟨h, hh, rfl⟩ := List.mem_map.1 hg
    refine ⟨h, hh, ?_⟩
    split <;> exact ⟨rfl, rfl⟩
  have hfire : DrainKept s (if e.injected then fireInjection s 6 (if e.bad then 5 else 1) else s) := by
    split
    · exact .of_work (work_fireInjection _ _ _)
    · exact .refl s
  unfold seeEntry
  split
  · exact .refl s
  · exact hfire.trans (hmark _ (fun n => if e.single then { n with array := n.array + 1 } else n))

theorem drainKept_wakeDevice (s : State) (v : Nat) : DrainKept s (wakeDevice s v) := by
  have hvdev : ∀ f, DrainKept s (s.modVdev v f) := fun f => .of_work (work_modVdev s v f)
  unfold wakeDevice
  split
  · exact (hvdev _).trans (.later _ _)
  · exact (hvdev _).trans (.later _ _)
  · exact .refl s

theorem drainKept_holdInbound {s t : State} {v : Nat} {e : Instr} (h : holdInbound s v e = some t) : DrainKept s t := by
  unfold holdInbound at h
  split at h
  · rw [← Option.some.inj h]
    exact (DrainKept.of_work (work_modVdev s v _)).trans (drainKept_wakeDevice _ v)
  · cases h

theorem drainKept_containLater (s : State) (p k cls cause : Nat) (lanes : W32) (addr : W64) :
    DrainKept s (containLater s p k cls cause lanes addr) := by
  unfold containLater
  split
  · exact .urgent s _
  · exact .refl s

theorem drainKept_sendPeerStore (s : State) (c : Nat) (e : LogEntry) (mate : Option LogEntry) (rank : Nat) :
    DrainKept s (sendPeerStore s c e mate rank) := by
  have htouch : DrainKept s (touchRank (countFor s e.vdev) (s.ply e.ply).reel rank) := .of_work (work_touchRank _ _ _)
  unfold sendPeerStore
  dsimp only
  refine htouch.trans ?_
  generalize touchRank (countFor s e.vdev) (s.ply e.ply).reel rank = r
  split
  · exact drainKept_failedStore r _ _ _ _
  · split
    · split
      · next t ht =>
        have hask : DrainKept r t := drainKept_holdInbound ht
        exact hask.trans (.of_work rfl)
      · split
        · split
          · exact (DrainKept.of_work (work_walkTouch r _ _)).trans (DrainKept.foldl (fun _ _ => drainKept_homeDrain _ _ _ _ _) _ _)
          · exact (DrainKept.of_work (work_walkTouch r _ _)).trans (drainKept_failedStore _ _ _ _ _)
        · exact drainKept_failedStore r _ _ _ _
    · split
      · exact drainKept_failedStore r _ _ _ _
      · exact .of_work rfl

/-! ## L1 sectors -/

theorem drainKept_dropL1 (s : State) (c key : Nat) : DrainKept s (dropL1 s c key) := by
  have hdropped : DrainKept s (if key % 4 = 2 then s.modCore c (fun x => { x with dropped := s.fresh }) else s) := by
    split
    · exact .modCore_log s c rfl
    · exact .refl s
  unfold dropL1
  dsimp only
  generalize (if key % 4 = 2 then s.modCore c (fun x => { x with dropped := s.fresh }) else s) = r at hdropped
  split
  · split
    · exact hdropped.trans (.modCore_log r c rfl)
    · exact hdropped
  · exact hdropped

theorem drainKept_updateL1 (s : State) (c pa n : Nat) : DrainKept s (updateL1 s c pa n) := by
  unfold updateL1
  dsimp only
  split
  · exact .refl s
  · split
    · exact drainKept_dropL1 s c _
    · exact .modCore_log s c rfl

theorem drainKept_unpin (s : State) (c serial : Nat) : DrainKept s (unpin s c serial) := by
  have hlog : ∀ d, ((unpin s c serial).core d).log = (s.core d).log := fun d => Tab.proj_get_map Core.log (by intro _; rfl) {} s.cores d
  exact .of_cores fun d e he => ⟨e, hlog d ▸ he, rfl, rfl⟩

/-! ## REDs -/

theorem drainKept_droppedRed (s : State) (o : RedOwner) : DrainKept s (droppedRed s o) := by
  unfold droppedRed
  dsimp only
  split
  · exact drainKept_containLater s _ _ _ _ _ _
  · exact (drainKept_writeRecord s _).trans (.contained _ _)

theorem drainKept_performRed (s : State) (r : RedOp) : DrainKept s (performRed s r) := by
  have htouch : DrainKept s (homeTouch { s with reds := s.reds.filter (fun q => q.id != r.id) } r.pa 0) := .of_work (work_homeTouch _ _ _)
  unfold performRed
  dsimp only
  refine htouch.trans ?_
  split
  · exact DrainKept.foldl drainKept_droppedRed _ _
  · refine (drainKept_homeWriteIn _ _ _ _).trans (DrainKept.foldl (fun t o => ?_) _ _)
    split
    · exact drainKept_updateL1 t _ _ _
    · exact .refl t

theorem drainKept_performReds (s : State) (pick : RedOp → Bool) : DrainKept s (performReds s pick) :=
  DrainKept.foldl drainKept_performRed _ s

/-! ## Drains -/

theorem drainKept_forgetReads (s : State) (c : Nat) (e : LogEntry) : DrainKept s (forgetReads s c e) := by
  unfold forgetReads
  dsimp only
  split
  · exact .refl s
  · generalize hr : s.modPlat _ = r
    have hsr : DrainKept s r := .of_work (by rw [← hr]; rfl)
    refine hsr.trans ?_
    generalize hm : r.mapFrags _ = m
    have hrm : DrainKept r m := by
      rw [← hm]
      refine .mapFrags r fun p k i f => ?_
      split <;> rfl
    exact hrm.trans (.of_work rfl)

/-- Entries leave a core's log. -/
theorem DrainKept.filterLog (s : State) (c : Nat) (keep : LogEntry → Bool) :
    DrainKept s (s.modCore c (fun x => { x with log := x.log.filter keep })) :=
  .modCore s c fun e he => ⟨e, (List.mem_filter.1 he).1, rfl, rfl⟩

/-- The error of an entry is seen, and follows. -/
theorem drainKept_entryError (s : State) (c : Nat) (e : LogEntry) :
    DrainKept s (if e.bad then entryError (seeEntry s c e) e else seeEntry s c e) := by
  split
  · exact (drainKept_seeEntry s c e).trans (drainKept_failedStore _ _ _ _ _)
  · exact drainKept_seeEntry s c e

theorem drainKept_takeEntries (s : State) (c : Nat) (es : List LogEntry) (keep : LogEntry → Bool) :
    DrainKept s ((es.foldl (fun s g => if g.bad then entryError (seeEntry s c g) g else seeEntry s c g) s).modCore c
      (fun x => { x with log := x.log.filter keep })) :=
  (DrainKept.foldl (fun t g => drainKept_entryError t c g) es s).trans (.filterLog _ c keep)

theorem drainKept_drainRaw (s : State) (c : Nat) (e : LogEntry) : DrainKept s (drainRaw s c e) := by
  have hgone : ∀ (t : State) (g : LogEntry), DrainKept t (dropL1 (unpin (forgetReads t c g) c g.serial) c g.key) := fun t g =>
    ((drainKept_forgetReads t c g).trans (drainKept_unpin _ c _)).trans (drainKept_dropL1 _ _ _)
  unfold drainRaw
  dsimp only
  refine DrainKept.trans ?_ (DrainKept.foldl (fun t g => ?_) _ _)
  · cases e.space with
    | dev => exact ((drainKept_takeEntries s c _ _).trans (drainKept_performReds _ _)).trans (drainKept_homeDrain _ _ _ _ _)
    | host pasid => exact (drainKept_takeEntries s c _ _).trans (.of_work rfl)
    | peer rank => exact (drainKept_takeEntries s c _ _).trans (drainKept_sendPeerStore _ _ _ _ _)
  · split
    · exact (hgone t g).trans (.modCore_log _ c (log_addMark _ _))
    · exact hgone t g

theorem drainKept_drainBehind (fuel : Nat) : ∀ (s : State) (c serial : Nat), DrainKept s (drainBehind s c serial fuel) := by
  induction fuel with
  | zero => exact fun s _ _ => .refl s
  | succ fuel ih =>
    intro s c serial
    unfold drainBehind
    split
    · exact .refl s
    · split
      · exact .refl s
      · next e _ _ =>
        have hfirst := DrainKept.foldl (fun t (x : Nat × LogEntry) => ih t x.1 x.2.serial) (drainAfter s c e) s
        dsimp only
        split
        · exact hfirst
        · split
          · exact hfirst.trans (drainKept_drainRaw _ _ _)
          · exact hfirst

theorem drainKept_drainEntry (s : State) (c serial : Nat) : DrainKept s (drainEntry s c serial) := drainKept_drainBehind 64 s c serial

theorem drainKept_drainWhere (s : State) (c : Nat) (pick : LogEntry → Bool) : DrainKept s (drainWhere s c pick) :=
  DrainKept.foldl (f := fun u (e : LogEntry) => drainEntry u c e.serial) (fun u e => drainKept_drainEntry u c e.serial) _ s

end Sys2Proof.Machine
end

section
/-! PROOF. CMO and the interval controls (R191 to R193, log 72). -/
namespace Sys2Proof.Machine

theorem run_ok_eq (s t : State) : run s (.ok t) = .next (advance t) := rfl

theorem run_hold (s t : State) : run s (.error (hold t)) = .next (halt (t.modCurFrag (fun f => { f with wait := .held }))) := rfl

/-! ## The check of a sector -/

/-- Outside the scratch spaces a check reads segment, rank count and skein alone. -/
theorem checkAddr_congr {s t : State} {c d : Ctx} {base : W64} (h1 : ptrTag base ≠ 1) (h2 : ptrTag base ≠ 2) (hreels : t.reels = s.reels)
    (hsegs : d.segs = c.segs) (hreel : (t.ply d.ply).reel = (s.ply c.ply).reel) (off : Int) (acc : Acc) :
    checkAddr t d base off acc = checkAddr s c base off acc := by
  have hrank : t.reel (t.ply d.ply).reel = s.reel (s.ply c.ply).reel := by rw [State.reel, State.reel, hreels, hreel]
  have hsegment : ∀ n, checkSegment t d (ptrTag base) n acc = checkSegment s c (ptrTag base) n acc := fun n => by
    simp [checkSegment, h1, h2, Ctx.seg, hsegs]
  simp only [checkAddr, hrank, hsegment, h2, false_and, if_false]

theorem checkOne_modCurFrag {s : State} {base : W64} (h1 : ptrTag base ≠ 1) (h2 : ptrTag base ≠ 2) (f : Frag → Frag) (off : Int) (acc : Acc) :
    checkOne (s.modCurFrag f) base off acc = checkOne s base off acc := by
  have hsegs : (ctxOf (s.modCurFrag f)).segs = (ctxOf s).segs := by simp [ctxOf, Strand.modFrag]
  have hreel : ((s.modCurFrag f).ply (ctxOf (s.modCurFrag f)).ply).reel = (s.ply (ctxOf s).ply).reel := by
    change (s.modCurFrag f).curPly.reel = s.curPly.reel
    rw [State.curPly_modCurFrag]
    rfl
  have haddr : checkAddr (s.modCurFrag f) (ctxOf (s.modCurFrag f)) base off acc = checkAddr s (ctxOf s) base off acc :=
    checkAddr_congr (s := s) (t := s.modCurFrag f) h1 h2 rfl hsegs hreel off acc
  unfold checkOne
  rw [haddr]

/-! ## A range in one sector -/


/-- The sector in which a pointer lies. -/
def sectorBase (ptr : W64) : W64 := w64 (ptr.toNat - ptrAddr ptr % 128)

theorem ptrTag_sectorBase (ptr : W64) : ptrTag (sectorBase ptr) = ptrTag ptr := by
  have hlt := ptr.isLt
  simp only [sectorBase, ptrTag, ptrAddr, bits, Nat.shiftRight_eq_div_pow, w64, BitVec.toNat_ofNat]
  omega

theorem cmo_large (s : State) (op : CmoOp) (l : BitVec 8) {a : BitVec 8} {b : BitVec 6} (ha : isSource a) (h : 2 ^ 32 < (sreg s b.toNat).toNat) :
    cmo s op l a b = .error (illegalOperand 2) := by
  unfold cmo
  rw [readS_bind s ha]
  exact need_bind_stop (decide_eq_false (Nat.not_le_of_lt h)) _ _

theorem cmo_nothing (s : State) (op : CmoOp) (l : BitVec 8) {a : BitVec 8} {b : BitVec 6} (ha : isSource a) (h : (sreg s b.toNat).toNat ≤ 2 ^ 32)
    (hnone : (sreg s b.toNat).toNat = 0 ∨ ptrTag (sourceOf s a) = 1 ∨ ptrTag (sourceOf s a) = 2) : cmo s op l a b = .ok s := by
  unfold cmo
  rw [readS_bind s ha]
  exact (need_bind (decide_eq_true h) _ _).trans (if_pos hnone)

/-- The fragment at the first sector of a range. -/
def atFirst (s : State) : State := s.modCurFrag (fun f => { f with unfinished := some (w32 0) })

/-- A CMO whose range lies in one sector. -/
theorem cmo_oneSector {s t : State} {l a : BitVec 8} {b : BitVec 6} {ea va : W64} {p : Place} (op : CmoOp) (ha : isSource a)
    (hn : 0 < (sreg s b.toNat).toNat) (h1 : ptrTag (sourceOf s a) ≠ 1) (h2 : ptrTag (sourceOf s a) ≠ 2)
    (hone : ptrAddr (sourceOf s a) % 128 + (sreg s b.toNat).toNat ≤ 128) (hfresh : s.curFrag.unfinished = none)
    (hmem : l = 2 → ptrTag (sourceOf s a) ≠ 4 ∧ ptrTag (sourceOf s a) ≠ 5)
    (hcheck : cmoCheck s (sectorBase (sourceOf s a)) 0 = .ok ea) (hplace : translateOne (atFirst s) none 0 ea 0 7 = .ok (p, va, t)) :
    cmo s op l a b = (cmoSector t op p l.toNat (ptrPol ea)).map (fun u => u.modCurFrag (fun f => { f with unfinished := some (w32 1) })) := by
  have hsmall : decide ((readSb6 s b).toNat ≤ 2 ^ 32) = true := decide_eq_true (by simp only [readSb6]; omega)
  have hsome : ¬ ((readSb6 s b).toNat = 0 ∨ ptrTag (sourceOf s a) = 1 ∨ ptrTag (sourceOf s a) = 2) := by simp only [readSb6]; omega
  have hcount : (ptrAddr (sourceOf s a) % 128 + (readSb6 s b).toNat + 127) / 128 = 1 := by simp only [readSb6]; omega
  have hdone : (s.curFrag.unfinished.getD 0).toNat = 0 := by rw [hfresh]; rfl
  have htag := ptrTag_sectorBase (sourceOf s a)
  have hcheck' : cmoCheck (atFirst s) (sectorBase (sourceOf s a)) 0 = .ok ea :=
    (checkOne_modCurFrag (by rwa [htag]) (by rwa [htag]) _ _ _).trans hcheck
  have hchecks : cmoChecks s (sectorBase (sourceOf s a)) 0 1 = .ok () := by
    simp only [cmoChecks, hcheck]
  have hsectors : cmoSectors s op (sectorBase (sourceOf s a)) l.toNat 0 1 = cmoSector t op p l.toNat (ptrPol ea) := by
    unfold atFirst at hcheck' hplace
    simp only [cmoSectors, hcheck', Nat.mul_zero, Nat.cast_zero, hplace]
    cases cmoSector t op p l.toNat (ptrPol ea) <;> rfl
  have hwait : ∀ u, cmoWait u (ptrTag (sourceOf s a)) l.toNat = .ok u := fun u => by
    refine if_neg fun h => ?_
    have := hmem (BitVec.eq_of_toNat_eq h.1)
    omega
  unfold cmo
  rw [readS_bind s ha]
  dsimp only
  rw [need_bind hsmall, if_neg hsome, hcount, hdone]
  generalize hst : w64 _ = base
  obtain rfl : base = sectorBase (sourceOf s a) := hst.symm
  rw [Nat.sub_zero, hchecks, hsectors]
  simp only [hwait, ite_self]
  cases cmoSector t op p l.toNat (ptrPol ea) <;> (split <;> rfl)

/-! ## A sector at its caches -/

theorem reservations_cleanSector (s : State) (p : Place) (level : Nat) : ReservationsOnly s (cleanSector s p level) := by
  have hdrain : DrainKept s (drainWhere s s.curCore (entryAt p)) := drainKept_drainWhere s _ _
  unfold cleanSector
  cases p with
  | hbm pa =>
    dsimp only
    split
    · exact hdrain.resv
    · exact (hdrain.trans (.of_work (work_l2Clean _ _))).resv
  | _ => exact hdrain.resv

theorem plies_dropL1 (s : State) (c key : Nat) : (dropL1 s c key).plies = s.plies := by
  have hdropped : (if key % 4 = 2 then s.modCore c (fun x => { x with dropped := s.fresh }) else s).plies = s.plies := by
    split <;> rfl
  unfold dropL1
  dsimp only
  generalize (if key % 4 = 2 then s.modCore c (fun x => { x with dropped := s.fresh }) else s) = r at hdropped
  split
  · split
    · exact hdropped
    · exact hdropped
  · exact hdropped

theorem plies_invSector (s : State) (p : Place) (level : Nat) : (invSector s p level).plies = s.plies := by
  unfold invSector
  cases p with
  | hbm pa =>
    dsimp only
    split
    · exact plies_dropL1 s _ _
    · exact (State.work_eq ((work_l2Drop _ _).trans (work_l2Clean _ _))).1.trans (plies_dropL1 s _ _)
  | _ => exact plies_dropL1 s _ _

/-! ## The end of protection -/

theorem ply_freeJournal (s : State) (p : Nat) : (freeJournal s p).ply p = { s.ply p with journal := [] } := by
  unfold freeJournal
  rw [State.ply_modPly_eq, if_pos rfl]
  split <;> rfl

theorem ply_unhold (s : State) (p q : Nat) : (unhold s p).ply q = s.ply q := rfl

/-- The end of protection of a live ply: its cause bit, then, when it was protected, its journal and its held entries. -/
theorem endProtection_live {s : State} {p : Nat} (h : s.livePly p = true) (n : Nat) :
    ∃ u, u.ply p = { s.ply p with cause := (s.ply p).cause ||| (1#8 <<< (n - 8)) } ∧
      endProtection s p n = if (s.ply p).prot then unhold ((freeJournal u p).modPly p (fun y => { y with prot := false })) p else u := by
  have hcause := (s.ply_modPly_eq p p (fun y => { y with cause := y.cause ||| (1#8 <<< (n - 8)) })).trans (if_pos rfl)
  unfold endProtection
  rw [if_neg (show ¬ (!s.livePly p) = true by simp [h])]
  refine ⟨_, ?_, rfl⟩
  split <;> exact hcause

theorem ply_endProtection {s : State} {p : Nat} (h : s.livePly p = true) (n : Nat) :
    ((endProtection s p n).ply p).cause = (s.ply p).cause ||| (1#8 <<< (n - 8)) ∧ ((endProtection s p n).ply p).prot = false ∧
      ((s.ply p).prot = true → ((endProtection s p n).ply p).journal = []) := by
  obtain ⟨u, hu, heq⟩ := endProtection_live h n
  have hfree : ((freeJournal u p).modPly p (fun y => { y with prot := false })).ply p = { u.ply p with journal := [], prot := false } := by
    rw [State.ply_modPly_eq, if_pos rfl, ply_freeJournal]
  rw [heq]
  split
  · rw [ply_unhold, hfree, hu]
    exact ⟨rfl, rfl, fun _ => rfl⟩
  · next hp =>
    rw [hu]
    exact ⟨rfl, Bool.eq_false_of_not_eq_true hp, fun h => absurd h hp⟩

theorem mem_log_endProtection {s : State} {p : Nat} (h : s.livePly p = true) (hp : (s.ply p).prot = true) (n : Nat) {e : LogEntry}
    (he : e ∈ ((endProtection s p n).core (s.ply p).core).log) (hply : e.ply = p) : e.held = false := by
  obtain ⟨u, hu, heq⟩ := endProtection_live h n
  have hcore : (((freeJournal u p).modPly p (fun y => { y with prot := false })).ply p).core = (s.ply p).core := by
    rw [State.ply_modPly_eq, if_pos rfl, ply_freeJournal, hu]
  rw [heq, if_pos hp, unhold, hcore, State.core_modCore_eq, if_pos rfl] at he
  obtain ⟨g, -, rfl⟩ := List.mem_map.1 he
  by_cases hg : g.ply = p
  · simp [hg]
  · simp [hg] at hply

/-- Settles O36: an empty range and the scratch spaces leave `cmo` at once; a range in one sector comes down to `cmoSector` there (`cmo_oneSector`);
the interval controls are `endProtection` and the mark. -/
theorem maintenanceResults : Obligations.MaintenanceResults := by
  unfold Obligations.MaintenanceResults
  refine ⟨fun l a b s i ha hi => ?_, fun a i s => ⟨fun hlive => ?_, fun ha => ?_⟩⟩
  · have hrun : ∃ op, exec i s = run s (cmo s op l a b) := by
      simp only [List.mem_cons, List.not_mem_nil, or_false] at hi
      obtain rfl | rfl | rfl | rfl := hi
      exacts [⟨_, rfl⟩, ⟨_, rfl⟩, ⟨_, rfl⟩, ⟨_, rfl⟩]
    obtain ⟨op, hop⟩ := hrun
    refine ⟨fun hbig => ?_, fun hsmall hnone => ?_, fun ea p va t hn h1 h2 hone hfresh hmem hcheck hplace => ?_⟩
    · rw [hop, cmo_large s op l ha hbig]
      exact run_stop s _
    · rw [hop, cmo_nothing s op l ha hsmall hnone, run_ok_eq]
    · have hcmo := fun op => cmo_oneSector op ha hn h1 h2 hone hfresh hmem hcheck hplace
      have hok : ∀ {op u}, cmoSector t op p l.toNat (ptrPol ea) = .ok u →
          run s (cmo s op l a b) = .next (advance (u.modCurFrag (fun f => { f with unfinished := some 1 }))) := fun {op u} h => by
        rw [hcmo op, h]
        rfl
      have hheld : ∀ {op u}, cmoSector t op p l.toNat (ptrPol ea) = .error (hold u) →
          run s (cmo s op l a b) = .next (halt (u.modCurFrag (fun f => { f with wait := .held }))) := fun {op u} h => by
        rw [hcmo op, h]
        rfl
      exact ⟨fun h => ⟨hok (if_pos h), hok (if_pos h)⟩,
        fun h => ⟨hheld (if_neg (Bool.not_eq_true _ ▸ h)), hheld (if_neg (Bool.not_eq_true _ ▸ h))⟩,
        hok rfl, fun u h => hok h, reservations_cleanSector t p _, fun q h => h ▸ plies_invSector t p _⟩
  · obtain ⟨hcause, hprot, hjournal⟩ := ply_endProtection hlive 15
    obtain ⟨hkept, hscratch⟩ := bankSame_endProtection s s.iss.ply 15
    have hiss : (endProtection s s.iss.ply 15).iss = s.iss := hkept.iss
    refine ⟨endProtection s s.iss.ply 15, rfl, ?_, ?_, fun hp => ⟨?_, fun e he hply => mem_log_endProtection hlive hp 15 he hply⟩, hkept.resv, ?_⟩
    · rw [State.curPly, hiss]
      exact hcause
    · rw [State.curPly, hiss]
      exact hprot
    · rw [State.curPly, hiss]
      exact hjournal hp
    · exact ⟨fun a => by rw [hkept.home], fun a => by rw [hkept.hbm], fun a => by rw [hkept.ws], fun q a => by rw [hscratch],
        fun q a => by rw [hkept.tiles]⟩
  · exact congrArg (run s) (readS_bind s ha _)

end Sys2Proof.Machine
end

section
/-! PROOF. VACQ.W's end in a state whose table of plies does not rise (log 3): ending the wait lists the ply a second time. -/
namespace Sys2Proof.Machine

/-- Ply 3, listed behind ply 5, waits for one block, while its intervals keep 32 blocks of the partition. -/
def waitingBehind : State := { State.reset with
  plies := [(5, {}), (3, { strands := [(0, { frags := [(0, { wait := .vacq 1 192 0 })] })], relBlocks := [(0, 32)] })] }

/-- The blocks of strand 0 of ply 3 after a step. -/
def blocksAfter (r : Res) : Nat :=
  match r with
  | .next u => ((u.ply 3).strand 0).blocks
  | _ => 0

theorem freeBlocks_waitingBehind : freeBlocks (focus waitingBehind 3 0 0) = 32 := by decide +kernel

/-- The block is refused: the ply's 32 blocks are counted twice once it is listed twice. -/
theorem blocksAfter_waitingBehind : blocksAfter (exec (.vacqWaitEnd 3 0 0) waitingBehind) = 0 := by decide +kernel

theorem blocksAfter_granted :
    blocksAfter (.next (advance (destOf (((focus waitingBehind 3 0 0).modCurFrag (fun x => { x with wait := .none })).modCur
      (fun u => { u with blocks := u.blocks + 1 })) 192 1))) = 1 := by decide +kernel

/-- Refutes O44: in `waitingBehind` one block is free and within the strand's eight, but VACQ_WAIT_END counts the free blocks after it has ended the
wait, which lists the ply again in front of ply 5, and refuses. The statement assumes no rising table of plies. -/
theorem not_allotmentResults : ¬ Obligations.AllotmentResults := by
  unfold Obligations.AllotmentResults
  rintro ⟨-, hwait, -⟩
  have hends := hwait 3 0 0 1 0 192 waitingBehind (by decide +kernel) (by decide +kernel) (Or.inl (by decide)) (by decide +kernel) (by decide +kernel)
  have hfree : 1 ≤ freeBlocks (focus waitingBehind 3 0 0) := by rw [freeBlocks_waitingBehind]; decide
  have hgranted := hends.1 hfree (by decide +kernel)
  have hblocks := blocksAfter_waitingBehind
  rw [hgranted, blocksAfter_granted] at hblocks
  exact absurd hblocks (by decide)

end Sys2Proof.Machine
end

section
/-! PROOF. Releases and acquires (R240 to R244): of plies they change strands alone, and logs gain no entry. -/
namespace Sys2Proof.Machine

/-! ## Publication -/

/-- Merging keeps the ply and the standing of each entry that is left. -/
theorem compact_from {log : List LogEntry} {pick : LogEntry → Bool} {e : LogEntry} (he : e ∈ compact log pick) :
    ∃ g ∈ log, g.ply = e.ply ∧ g.held = e.held := by
  unfold compact at he
  induction log using List.reverseRecOn generalizing e with
  | nil => cases he
  | append_singleton log x ih =>
    have hold : ∀ {f : LogEntry}, (∃ g ∈ log, g.ply = f.ply ∧ g.held = f.held) → ∃ g ∈ log ++ [x], g.ply = f.ply ∧ g.held = f.held := by
      rintro f ⟨g, hg, h⟩
      exact ⟨g, List.mem_append_left _ hg, h⟩
    have hnew : ∃ g ∈ log ++ [x], g.ply = x.ply ∧ g.held = x.held := ⟨x, by simp, rfl, rfl⟩
    rw [List.foldl_append, List.foldl_cons, List.foldl_nil] at he
    generalize List.foldl _ [] log = out at ih he
    split at he
    · split at he
      · rcases List.mem_append.1 he with h | h
        · exact hold (ih (List.mem_filter.1 h).1)
        · rw [List.mem_singleton.1 h]
          exact hnew
      · rcases List.mem_append.1 he with h | h
        · exact hold (ih h)
        · rw [List.mem_singleton.1 h]
          exact hnew
    · rcases List.mem_append.1 he with h | h
      · exact hold (ih h)
      · rw [List.mem_singleton.1 h]
        exact hnew

theorem drainKept_numberEntries (s : State) (c n : Nat) : DrainKept s (numberEntries s c n).1 := by
  unfold numberEntries
  dsimp only
  refine ((DrainKept.foldl (fun t e => drainKept_entryError t c e) _ s).trans (.modCore _ c fun e he => ?_)).trans
    (DrainKept.foldl (fun t e => .later t _) _ _)
  obtain ⟨g, hg, rfl⟩ := List.mem_map.1 he
  obtain ⟨h, hh, hply, hheld⟩ := compact_from hg
  refine ⟨h, hh, ?_⟩
  split <;> exact ⟨hply, hheld⟩

theorem work_boundRecords (s : State) (b : Nat) : (boundRecords s b).work = s.work := by
  unfold boundRecords
  dsimp only
  split <;> rfl

theorem drainKept_publish (s : State) (c : Nat) : DrainKept s (publish s c) := by
  unfold publish
  dsimp only
  refine (DrainKept.foldl (fun t (u : LogEntry) => drainKept_drainEntry t c u.serial) (overtaken s c) s).trans ?_
  refine DrainKept.trans ?_ (.of_work (work_boundRecords _ _))
  refine DrainKept.trans ?_ (.of_work (work_modBay _ _ _))
  exact (drainKept_numberEntries _ c _).trans (.modCore_log _ c rfl)

theorem drainKept_releaseLocal (s : State) (c sc : Nat) : DrainKept s (releaseLocal s c sc) := by
  have hreds : DrainKept s (performReds s (fun r => r.ofBay s (coreBay c))) := drainKept_performReds s _
  have hpublish := hreds.trans (drainKept_publish _ c)
  unfold releaseLocal
  dsimp only
  split
  · exact hreds
  · split
    · exact hpublish
    · exact hpublish.trans (DrainKept.foldl (fun t (x : Nat × LogEntry) => drainKept_drainEntry t x.1 x.2.serial) _ _)

/-! ## Replays -/

theorem drainKept_emptyL1 (s : State) (c : Nat) : DrainKept s (emptyL1 s c) := by
  have hpins : ∀ (t : State) (l : Nat × L1Sector), DrainKept t (drainPins t c l.1) := fun t l =>
    DrainKept.foldl (f := fun u (x : Nat × Nat) => drainEntry u x.1 x.2) (fun u x => drainKept_drainEntry u x.1 x.2) _ t
  unfold emptyL1
  exact (DrainKept.foldl hpins _ s).trans (.modCore_log _ c rfl)

theorem drainKept_evictL1 (s : State) (c : Nat) : DrainKept s (evictL1 s c) := by
  unfold evictL1
  dsimp only
  split
  · exact .refl s
  · split
    · next x _ =>
      exact DrainKept.trans (t := s.modCore c (fun k => { k with l1 := Tab.del x.1 k.l1 })) (.modCore_log s c rfl) (.of_work rfl)
    · exact .refl s

theorem drainKept_pinEntry (s : State) (reader c : Nat) (e : LogEntry) : DrainKept s (pinEntry s reader c e) := by
  unfold pinEntry
  split
  · exact .modCore_log s reader rfl
  · dsimp only
    split
    · exact (drainKept_evictL1 s reader).trans (drainKept_drainEntry _ c _)
    · exact (drainKept_evictL1 s reader).trans (.modCore_log _ reader rfl)

theorem drainKept_leaveL1 (s : State) (c key : Nat) : DrainKept s (leaveL1 s c key) := by
  unfold leaveL1 drainPins
  exact (DrainKept.foldl (f := fun u (x : Nat × Nat) => drainEntry u x.1 x.2) (fun u x => drainKept_drainEntry u x.1 x.2) _ s).trans
    (drainKept_dropL1 _ c key)

theorem drainKept_replayItem (s : State) (reader c : Nat) (i : Option Nat × Nat) : DrainKept s (replayItem s reader c i) := by
  have holder : ∀ e, DrainKept s (drainOlder s reader e) := fun e =>
    DrainKept.foldl (f := fun u (g : LogEntry) => drainEntry u reader g.serial) (fun u g => drainKept_drainEntry u reader g.serial) _ s
  unfold replayItem
  split
  · split
    · split
      · exact .refl s
      · dsimp only
        split
        · exact ((holder _).trans (drainKept_seeEntry _ c _)).trans (drainKept_pinEntry _ reader c _)
        · exact (holder _).trans (drainKept_leaveL1 _ reader _)
    · exact drainKept_leaveL1 s reader _
  · exact drainKept_leaveL1 s reader _

theorem drainKept_replayOne (s : State) (reader : Nat) (r : Publication) : DrainKept s (replayOne s reader r) := by
  have hitems := DrainKept.foldl (fun t i => drainKept_replayItem t reader r.core i) r.items s
  unfold replayOne
  dsimp only
  refine DrainKept.trans ?_ (.modCore_log _ reader rfl)
  split
  · exact hitems.trans (drainKept_emptyL1 _ reader)
  · exact hitems

theorem drainKept_acquire (s : State) (c sc mask : Nat) : DrainKept s (acquire s c sc mask) := by
  unfold acquire
  split
  · exact .refl s
  · split
    · unfold nearReplay pruneRecords
      exact (DrainKept.foldl (fun t r => drainKept_replayOne t c r) _ s).trans (.of_work (work_modBay _ _ _))
    · exact drainKept_emptyL1 s c

/-! ## Releases that wait -/

/-- A change of a ply's strands. -/
theorem StrandsOnly.modPly (s : State) (p : Nat) {f : Ply → Ply} (h : ∀ y, f y = { y with strands := (f y).strands }) :
    StrandsOnly s (s.modPly p f) := by
  refine ⟨fun q => ?_, rfl, rfl, fun _ => rfl, fun _ => id, fun _ => rfl, fun _ => id, fun _ e he => ⟨e, he, rfl, rfl⟩⟩
  rw [State.ply_modPly_eq]
  split
  · exact h _
  · rfl

theorem StrandsOnly.modStrand (s : State) (p k : Nat) (f : Strand → Strand) : StrandsOnly s (s.modStrand p k f) :=
  .modPly s p fun _ => rfl

theorem strandsOnly_setFence (s : State) (c : Ctx) (f : Option Fence) : StrandsOnly s (setFence s c f) := by
  unfold setFence
  split
  · exact .modStrand s _ _ _
  · exact DrainKept.toStrandsOnly (.of_work rfl)
  · exact .refl s

theorem work_askFlush (s : State) (w : Who) (v n : Nat) : (askFlush s w v n).work = s.work := by
  unfold askFlush
  split <;> rfl

theorem strandsOnly_releaseFor (s : State) (c : Ctx) (sc : Nat) : StrandsOnly s (releaseFor s c sc).1 := by
  have hlocal := (drainKept_releaseLocal s c.core sc).toStrandsOnly
  unfold releaseFor
  split
  · exact .refl s
  · split
    · exact .refl s
    · dsimp only
      split
      · exact hlocal
      · refine (hlocal.trans ?_).trans (strandsOnly_setFence _ c _)
        exact ((DrainKept.of_work (work_askFlush _ _ _ _)).trans (.modCore_log _ c.core rfl)).toStrandsOnly

end Sys2Proof.Machine
end

section
/-! PROOF. BAR.PLY and BAR.SKN, and the commit that ends an interval (R44, R208). -/
namespace Sys2Proof.Machine

/-! ## Arrival -/

/-- A barrier instruction that traps. -/
theorem runTo_trap (s : State) (q : TrapReq) : runTo s (.error (.trap q)) = .next (takeTrap s q) := rfl

theorem barrierAt_trapped {s : State} (skein : Bool) (sc : BitVec 3) (l : BitVec 2) (h : s.cur.trapped = true) :
    barrierAt s skein sc l = .next (takeTrap s { cause := 5 }) := by
  unfold barrierAt
  rw [need_bind_stop (by simp [h])]
  exact runTo_trap s _

theorem barrierAt_broken {s : State} (sc : BitVec 3) (l : BitVec 2) (h : s.cur.trapped = false) (hb : (s.skein s.curPly.skein).broken = true) :
    barrierAt s true sc l = .next (takeTrap s { cause := 9, detail := 1 }) := by
  unfold barrierAt
  rw [need_bind (by simp [h]), need_bind_stop (by simp [hb])]
  exact runTo_trap s _

theorem barrierAt_scope {s : State} (l : BitVec 2) (h : s.cur.trapped = false) (hb : (s.skein s.curPly.skein).broken = false) (hl : l ≠ 0) :
    barrierAt s true 0 l = .next (takeTrap s { cause := 3, detail := 2 }) := by
  unfold barrierAt
  rw [need_bind (by simp [h]), need_bind (by simp [hb]), need_bind_stop (by simpa using hl)]
  exact runTo_trap s _

/-- What lets a fragment arrive. -/
def mayArrive (s : State) (skein : Bool) (sc : BitVec 3) (l : BitVec 2) : Prop :=
  s.cur.trapped = false ∧ (skein = true → (s.skein s.curPly.skein).broken = false ∧ (l = 0 ∨ sc ≠ 0))

theorem barrierAt_mayArrive {s : State} {skein : Bool} {sc : BitVec 3} {l : BitVec 2} (h : mayArrive s skein sc l) :
    barrierAt s skein sc l = runTo s (do
      need (!(barMismatch s)) (.trap { cause := 8 })
      let t := settle (s.modCurFrag (fun f => { f with wait := .bar skein (acqFlag sc l) (relFlag sc l) }))
      .ok (halt (checkBarriers t t.curPly.skein))) := by
  obtain ⟨htrapped, hskein⟩ := h
  have hbroken : (!(skein && (s.skein s.curPly.skein).broken)) = true := by
    cases skein with
    | false => rfl
    | true => simp [(hskein rfl).1]
  have hscope : (!(skein && l != 0 && sc == 0)) = true := by
    cases skein with
    | false => rfl
    | true => simpa using (hskein rfl).2
  unfold barrierAt
  rw [need_bind (by simp [htrapped]), need_bind hbroken, need_bind hscope]

theorem barrierAt_mismatch {s : State} {skein : Bool} {sc : BitVec 3} {l : BitVec 2} (h : mayArrive s skein sc l) (hm : barMismatch s = true) :
    barrierAt s skein sc l = .next (takeTrap s { cause := 8 }) := by
  rw [barrierAt_mayArrive h, need_bind_stop (by simp [hm])]
  exact runTo_trap s _

theorem barrierAt_arrives {s : State} {skein : Bool} {sc : BitVec 3} {l : BitVec 2} (h : mayArrive s skein sc l) (hm : barMismatch s = false) :
    barrierAt s skein sc l = .next (halt (checkBarriers
      (settle (s.modCurFrag (fun f => { f with wait := .bar skein (acqFlag sc l) (relFlag sc l) })))
      (settle (s.modCurFrag (fun f => { f with wait := .bar skein (acqFlag sc l) (relFlag sc l) }))).curPly.skein)) := by
  rw [barrierAt_mayArrive h, need_bind (by simp [hm])]
  rfl

theorem exec_barrier {i : Instr} {skein : Bool} {sc : BitVec 3} {l : BitVec 2} (h : i = if skein then .barSkn sc l else .barPly sc l) (s : State) :
    exec i s = barrierAt s skein sc l := by
  subst h
  cases skein <;> rfl

/-! ## What the steps behind a commit keep of its interval -/

/-- Of plies, strands and what a saved context changes alone may be new; an entry of a log is one of before, as far as its ply and its standing go. -/
structure IntervalKept (s u : State) : Prop where
  ply : ∀ q, u.ply q = { s.ply q with strands := (u.ply q).strands, resident := (u.ply q).resident, halt := (u.ply q).halt, used := (u.ply q).used }
  log : ∀ c, ∀ e ∈ (u.core c).log, ∃ g ∈ (s.core c).log, g.ply = e.ply ∧ g.held = e.held

theorem IntervalKept.trans {s t u : State} (h : IntervalKept s t) (k : IntervalKept t u) : IntervalKept s u := by
  refine ⟨fun q => by rw [k.ply, h.ply], fun c e he => ?_⟩
  obtain ⟨f, hf, hply, hheld⟩ := k.log c e he
  obtain ⟨g, hg, hply', hheld'⟩ := h.log c f hf
  exact ⟨g, hg, hply'.trans hply, hheld'.trans hheld⟩

theorem StrandsOnly.intervalKept {s u : State} (h : StrandsOnly s u) : IntervalKept s u := ⟨fun q => by rw [h.ply], h.log⟩

theorem IntervalKept.later (s : State) (e : Instr) : IntervalKept s (s.later e) := (DrainKept.later s e).toStrandsOnly.intervalKept

theorem IntervalKept.of_work {s u : State} (h : u.work = s.work) : IntervalKept s u := (DrainKept.of_work h).toStrandsOnly.intervalKept

theorem IntervalKept.modPly (s : State) (p : Nat) {f : Ply → Ply}
    (h : ∀ y, f y = { y with strands := (f y).strands, resident := (f y).resident, halt := (f y).halt, used := (f y).used }) :
    IntervalKept s (s.modPly p f) := by
  refine ⟨fun q => ?_, fun _ e he => ⟨e, he, rfl, rfl⟩⟩
  rw [State.ply_modPly_eq]
  split
  · exact h _
  · rfl

/-! ## Passing a barrier -/

theorem strandsOnly_passBarrier (s : State) (p : Nat) : StrandsOnly s (passBarrier s p) := by
  unfold passBarrier
  exact (StrandsOnly.foldl (fun t (x : Nat × Strand) => StrandsOnly.modStrand t p x.1 _) _ s).trans (.modPly _ p fun _ => rfl)

theorem strandsOnly_passRelease (s : State) (p k f : Nat) : StrandsOnly s (passRelease s p k f) := by
  unfold passRelease
  split
  · next sc acq _ =>
    have hfocus : StrandsOnly s (focus s p k f) := DrainKept.toStrandsOnly (.of_iss s _)
    have hrelease := hfocus.trans (strandsOnly_releaseFor _ (ctxOf (focus s p k f)) sc)
    have hback : ∀ t : State, StrandsOnly t { t with iss := s.iss } := fun t => DrainKept.toStrandsOnly (.of_iss t _)
    dsimp only
    split
    · exact .refl s
    · split
      · exact (hrelease.trans (hback _)).trans (.modStrand _ p k _)
      · exact hrelease.trans (hback _)
  · exact .refl s

theorem strandsOnly_passAcquire (s : State) (p k f : Nat) : StrandsOnly s (passAcquire s p k f) := by
  unfold passAcquire
  split
  · dsimp only
    split
    · exact .refl s
    · exact (drainKept_acquire s _ _ 0).toStrandsOnly.trans (.modStrand _ p k _)
  · exact .refl s

theorem strandsOnly_passOn (s : State) (ps : List Nat) : StrandsOnly s (passOn s ps) := by
  unfold passOn
  exact (StrandsOnly.foldl (fun t (x : Nat × Nat × Nat) => strandsOnly_passRelease t x.1 x.2.1 x.2.2) _ s).trans
    (StrandsOnly.foldl (fun t (x : Nat × Nat × Nat) => strandsOnly_passAcquire t x.1 x.2.1 x.2.2) _ _)

/-! ## Saving a context -/

theorem intervalKept_settleVacate (s : State) (k : Nat) : IntervalKept s (settleVacate s k) := by
  unfold settleVacate
  split
  · exact StrandsOnly.intervalKept (.refl s)
  · have hskein : ∀ f, IntervalKept s (s.modSkein k f) := fun f => ⟨fun _ => rfl, fun _ e he => ⟨e, he, rfl, rfl⟩⟩
    exact (hskein _).trans (.later _ _)

theorem intervalKept_saveContext (s : State) (p : Nat) : IntervalKept s (saveContext s p) := by
  unfold saveContext
  dsimp only
  refine IntervalKept.trans ?_ (intervalKept_settleVacate _ _)
  refine IntervalKept.trans ?_ (.modPly _ p fun _ => rfl)
  exact (drainKept_releaseLocal s _ _).toStrandsOnly.intervalKept.trans (.of_work (work_modVdev _ _ _))

theorem intervalKept_saveIfAsked (s : State) (p : Nat) : IntervalKept s (saveIfAsked s p) := by
  unfold saveIfAsked
  split
  · split
    · exact intervalKept_saveContext s p
    · exact (IntervalKept.modPly s p fun _ => rfl).trans (.later _ _)
  · exact StrandsOnly.intervalKept (.refl s)

/-! ## The commit -/

theorem commitPly_ply (s : State) (p : Nat) :
    (commitPly s p).ply p = { s.ply p with
      journal := [], relBlocks := [], markCode := 0, markVal := 0, seq := (s.ply p).seq + 1, cause := 0, prot := (s.ply p).en, repidx := 0,
      snap := snapshotOf { s.ply p with journal := [] } } := by
  unfold commitPly
  dsimp only
  rw [State.ply_modPly_eq, if_pos rfl, ply_freeJournal, ply_unhold]

theorem commitPly_log {s : State} {p : Nat} {e : LogEntry} (he : e ∈ ((commitPly s p).core (s.ply p).core).log) (hply : e.ply = p) :
    e.held = false := by
  have hcore : ∀ c, (commitPly s p).core c = (unhold s p).core c := by
    intro c
    unfold commitPly freeJournal
    dsimp only
    split <;> rfl
  rw [hcore, unhold, State.core_modCore_eq, if_pos rfl] at he
  obtain ⟨g, -, rfl⟩ := List.mem_map.1 he
  by_cases hg : g.ply = p
  · simp [hg]
  · simp [hg] at hply

/-- The state in which the commit of a ply alone ends. -/
def committed (s : State) (p : Nat) : State :=
  saveIfAsked (passOn (commitPly (passBarrier (performReds s (fun r => [p].any (fun q => r.ofPly q))) p) p) [p]) p

theorem exec_commit {s : State} {p : Nat} (hmet : barrierMet s p = true) (hrerun : (s.reel (s.ply p).reel).rerun = none)
    (hply : (s.ply p).atSkein = false) (hwork : workLeft s p = false)
    (hheld : heldBad (performReds s (fun r => [p].any (fun q => r.ofPly q))) p = none) : exec (.commit p) s = .next (committed s p) := by
  have hplies : barrierPlies s p = [p] := if_neg (by simp [hply])
  change execCommit p s = _
  unfold execCommit committed
  rw [if_neg (show ¬ (!(barrierMet s p)) = true by simp [hmet]), if_neg (show ¬ (s.reel (s.ply p).reel).rerun.isSome = true by simp [hrerun])]
  dsimp only
  rw [hplies, if_neg (show ¬ [p].any (workLeft s) = true by simp [hwork]), List.findSome?_cons, hheld]
  simp only [Option.map_none, List.findSome?_nil, commitAll, List.foldl_cons, List.foldl_nil]

/-- Settles O50: the traps of a barrier instruction stand in its order, and the commit's interval is what `commitPly` leaves, for the steps behind it
(passing, releases, acquires, a saved context) change strands and standing alone. -/
theorem plyBarrierResults : Obligations.PlyBarrierResults := by
  unfold Obligations.PlyBarrierResults
  refine ⟨fun i skein sc l s hi => ?_, fun p s hmet hrerun hply hwork hheld => ?_⟩
  · rw [exec_barrier hi s]
    refine ⟨barrierAt_trapped skein sc l, fun ht hs hb => ?_, fun ht hb hs hl hsc => ?_, fun ht hb => ?_⟩
    · exact hs ▸ barrierAt_broken sc l ht hb
    · subst hs hsc
      exact barrierAt_scope l ht (hb rfl) hl
    · exact ⟨barrierAt_mismatch ⟨ht, hb⟩, barrierAt_arrives ⟨ht, hb⟩⟩
  · refine ⟨committed s p, exec_commit hmet hrerun hply hwork hheld, ?_⟩
    have hbefore := (drainKept_performReds s (fun r => [p].any (fun q => r.ofPly q))).toStrandsOnly.trans (strandsOnly_passBarrier _ p)
    unfold committed
    generalize passBarrier (performReds s _) p = t at hbefore ⊢
    have hafter := (strandsOnly_passOn (commitPly t p) [p]).intervalKept.trans (intervalKept_saveIfAsked _ p)
    generalize saveIfAsked _ p = u at hafter ⊢
    have hcore : (s.ply p).core = (t.ply p).core := by rw [hbefore.ply]
    have hseq : (s.ply p).seq = (t.ply p).seq ∧ (s.ply p).en = (t.ply p).en := by
      rw [hbefore.ply]
      exact ⟨rfl, rfl⟩
    rw [hafter.ply, commitPly_ply, hcore, hseq.1, hseq.2]
    refine ⟨rfl, rfl, rfl, rfl, rfl, rfl, rfl, fun e he hep => ?_⟩
    obtain ⟨g, hg, hgp, hgh⟩ := hafter.log _ e he
    exact hgh ▸ commitPly_log hg (hgp.trans hep)

end Sys2Proof.Machine
end

section
/-! PROOF. The accesses of the command complex (R418), its releases (R241) and the advance of a queue (R268): tables of work stay, whatever an
access meets. -/
namespace Sys2Proof.Machine

/-! ## Accesses -/

/-- The state that an access leads to, as it succeeds, waits or fails, keeps the tables of work. -/
def AccessKept {α : Type} (get : α → State) (s : State) (r : Except CcStop α) : Prop :=
  match r with
  | .ok x => StrandsOnly s (get x)
  | .error (.wait t) => StrandsOnly s t
  | .error (.fail _ t) => StrandsOnly s t

theorem AccessKept.after {α : Type} {get : α → State} {s t : State} {r : Except CcStop α} (h : StrandsOnly s t) (k : AccessKept get t r) :
    AccessKept get s r := by
  match r, k with
  | .ok _, k => exact h.trans k
  | .error (.wait _), k => exact h.trans k
  | .error (.fail _ _), k => exact h.trans k

theorem AccessKept.bind {α β : Type} {get : α → State} {get' : β → State} {s : State} {r : Except CcStop α} {k : α → Except CcStop β}
    (h : AccessKept get s r) (hk : ∀ x, AccessKept get' (get x) (k x)) : AccessKept get' s (r >>= k) := by
  match r, h with
  | .ok x, h => exact .after h (hk x)
  | .error (.wait _), h => exact h
  | .error (.fail _ _), h => exact h

theorem AccessKept.foldlM {α β : Type} {get : β → State} {f : β → α → Except CcStop β} (h : ∀ b x, AccessKept get (get b) (f b x)) (l : List α) :
    ∀ b, AccessKept get (get b) (l.foldlM f b) := by
  induction l with
  | nil => exact fun b => StrandsOnly.refl (get b)
  | cons x l ih =>
    intro b
    rw [List.foldlM_cons]
    exact (h b x).bind ih

theorem StrandsOnly.of_work {s t : State} (h : t.work = s.work) : StrandsOnly s t := (DrainKept.of_work h).toStrandsOnly

/-- A change of a queue beside its read index. -/
theorem StrandsOnly.modQueue (s : State) (q : Nat) {f : Queue → Queue} (h : ∀ x, (f x).ridx = x.ridx) : StrandsOnly s (s.modQueue q f) := by
  refine ⟨fun _ => rfl, rfl, rfl, fun _ => rfl, fun _ => id, fun k => ?_, fun _ => id, fun _ e he => ⟨e, he, rfl, rfl⟩⟩
  have hqueue : (s.modQueue q f).queue k = if k = q then f (s.queue q) else s.queue k := Tab.get_set _ _ _ _ _
  rw [hqueue]
  split
  · next hk => rw [h, hk]
  · rfl

@[simp] theorem work_bump (s : State) : s.bump.work = s.work := rfl

@[simp] theorem work_ask (s : State) (w : Who) (v : Nat) (a : Ask) (l : Option Nat) : (ask s w v a l).work = s.work :=
  (work_bump _).trans (work_modPlat s _)

@[simp] theorem work_countFor (s : State) (v : Nat) : (countFor s v).work = s.work := work_modPlat s _

theorem work_ccAsk (s : State) (q v : Nat) (a : Ask) (o : Nat → Out) : (ccAsk s q v a o).work = s.work := by
  unfold ccAsk
  split <;> rfl

theorem work_ccRank (s : State) (v rank : Nat) : (ccRank s v rank).2.work = s.work := by
  unfold ccRank
  split
  · rfl
  · dsimp only
    split <;> simp

theorem accessKept_ccPlace (s : State) (q v : Nat) (ptr : W64) (kind : Nat) : AccessKept Prod.snd s (ccPlace s q v ptr kind) := by
  have hwalk : ∀ (t : State) n a, StrandsOnly t (walkTouch t n a) := fun t n a => .of_work (work_walkTouch t n a)
  unfold ccPlace
  dsimp only
  split
  · exact StrandsOnly.refl s
  · split
    · split
      · exact hwalk s _ _
      · exact hwalk s _ _
    · split
      · exact StrandsOnly.refl s
      · split
        · exact .modQueue s q fun _ => rfl
        · exact .of_work (work_ccAsk s q v _ _)
    · have hrank := work_ccRank s v (ptrAddr ptr / 2 ^ 46)
      split
      · next t ht => exact .of_work (by rwa [ht] at hrank)
      · next f d t ht =>
        have hst : StrandsOnly s t := .of_work (by rwa [ht] at hrank)
        split
        · exact hst
        · split
          · exact hst
          · split
            · exact hst.trans (drainKept_wakeDevice t d).toStrandsOnly
            · split
              · exact hst.trans (hwalk t _ _)
              · exact hst.trans (hwalk t _ _)
    · exact StrandsOnly.refl s

theorem work_ccRoute (s : State) (v rank : Nat) : (ccRoute s v rank).2.work = s.work := by
  have hrank := work_ccRank s v rank
  unfold ccRoute
  split
  · next h => rwa [h] at hrank
  · next h => rwa [h] at hrank

theorem accessKept_ccReadPeer (s : State) (q v rank o n : Nat) (addr : W64) :
    AccessKept (fun x => x.2.2) s (ccReadPeer s q v rank o n addr) := by
  have hroute := work_ccRoute s v rank
  have hdrop : ∀ r, StrandsOnly s (s.modQueue q (fun x => { x with replies := x.replies.filter (· ≠ r) })) := fun r => .modQueue s q fun _ => rfl
  unfold ccReadPeer
  dsimp only
  split
  · exact StrandsOnly.refl s
  · split
    · exact hdrop _
    · split
      · exact hdrop _
      · split
        · exact StrandsOnly.refl s
        · split
          · next t ht => exact .of_work (by rwa [ht] at hroute)
          · next l f d t ht =>
            have hst : StrandsOnly s t := .of_work (by rwa [ht] at hroute)
            exact hst.trans (.of_work (by simp))

theorem accessKept_ccReadAt (s : State) (q v : Nat) (p : Place) (n : Nat) (addr : W64) :
    AccessKept (fun x => x.2.2) s (ccReadAt s q v p n addr) := by
  unfold ccReadAt
  split
  · exact .of_work (work_homeTouch s _ 0)
  · dsimp only
    split
    · exact StrandsOnly.refl s
    · split
      · exact .modQueue s q fun _ => rfl
      · exact .of_work (work_ccAsk s q v _ _)
  · exact accessKept_ccReadPeer s q v _ _ n addr
  · exact StrandsOnly.refl s

theorem accessKept_ccRead (s : State) (q v : Nat) (ptr : W64) (n : Nat) : AccessKept Prod.snd s (ccRead s q v ptr n) := by
  unfold ccRead
  refine AccessKept.foldlM (get := Prod.snd) (fun r x => ?_) _ ([], s)
  refine (accessKept_ccPlace r.2 q v _ 0).bind fun y => (accessKept_ccReadAt y.2 q v y.1 x.2 _).bind fun z => ?_
  exact StrandsOnly.refl _

theorem accessKept_ccFetch (s : State) (q v : Nat) (ptr : W64) (n : Nat) : AccessKept Prod.snd s (ccFetch s q v ptr n) := by
  unfold ccFetch
  refine (accessKept_ccRead s q v ptr n).bind fun x => ?_
  dsimp only
  split <;> exact StrandsOnly.refl x.2

theorem accessKept_ccWritePeer (s : State) (q v rank sector : Nat) (cells : Tab (Byte × Byte)) (poison : Bool) (addr : W64) :
    AccessKept id s (ccWritePeer s q v rank sector cells poison addr) := by
  have hroute := work_ccRoute s v rank
  unfold ccWritePeer
  split
  · next t ht => exact .of_work (by rwa [ht] at hroute)
  · next l f d t ht =>
    have hst : StrandsOnly s t := .of_work (by rwa [ht] at hroute)
    exact hst.trans (.of_work (by simp))

theorem accessKept_ccWriteP (s : State) (q v : Nat) (ptr : W64) (b : Bytes) (poison : Bool) : AccessKept id s (ccWriteP s q v ptr b poison) := by
  unfold ccWriteP
  refine AccessKept.foldlM (get := id) (fun t x => ?_) _ s
  refine (accessKept_ccPlace t q v _ 1).bind fun y => ?_
  dsimp only
  split
  · exact (StrandsOnly.of_work (work_homeTouch y.2 _ 0)).trans (drainKept_homeDrain _ _ _ _ _).toStrandsOnly
  · exact .of_work rfl
  · exact accessKept_ccWritePeer y.2 q v _ _ _ _ _
  · exact StrandsOnly.refl _

/-! ## Releases and the mirrors of the read index -/

theorem strandsOnly_ccRelease (s : State) (q v : Nat) (f : Option Fence) : StrandsOnly s (ccRelease s q v f).1 := by
  have hpublished : ∀ (t : State) b, StrandsOnly t (drainPublished t b (t.bay b).pubs) := fun t b =>
    StrandsOnly.foldl (fun t (x : Nat × LogEntry) => (drainKept_drainEntry t x.1 x.2.serial).toStrandsOnly) _ t
  unfold ccRelease
  split
  · split <;> exact StrandsOnly.refl s
  · have hreds := (drainKept_performReds s (fun r => r.owners.any (fun o => (s.reel o.reel).vdev == v))).toStrandsOnly
    dsimp only
    generalize performReds s _ = t at hreds ⊢
    have hdrain := hreds.trans (StrandsOnly.foldl hpublished (t.vdev v).bays t)
    generalize List.foldl _ t _ = u at hdrain ⊢
    split
    · exact hdrain
    · split
      · exact hdrain.trans (.of_work (work_askFlush _ _ _ _))
      · exact hdrain.trans (.of_work (work_askFlush _ _ _ _))

theorem strandsOnly_queueRecordOf (s : State) (q v cause : Nat) (addr : W64) (detail idx : Nat) (cookie : W32) :
    StrandsOnly s (queueRecordOf s q v cause addr detail idx cookie) := (drainKept_writeRecord s _).toStrandsOnly

theorem strandsOnly_writeMirrors (q n : Nat) : ∀ s, StrandsOnly s (writeMirrors s q n) := by
  have hput : ∀ (t : State) (l : List Mirror), StrandsOnly t (t.modQueue q (fun x => { x with mirrors := l })) := fun t l => .modQueue t q fun _ => rfl
  induction n with
  | zero => exact StrandsOnly.refl
  | succ n ih =>
    intro s
    unfold writeMirrors
    dsimp only
    split
    · exact .refl s
    · next m rest _ =>
      have hrelease : StrandsOnly s (if m.free then (s, none, true) else ccRelease s q m.vdev m.fence).1 := by
        split
        · exact .refl s
        · exact strandsOnly_ccRelease s q _ _
      generalize (if m.free then (s, none, true) else ccRelease s q m.vdev m.fence) = r at hrelease ⊢
      obtain ⟨t, f, done⟩ := r
      cases done with
      | false => exact hrelease.trans (hput t _)
      | true =>
        have hwrite := accessKept_ccWriteP t q m.vdev m.ptr (bytesLE (m.index + 1) 8) false
        dsimp only
        change AccessKept id t (ccWrite t q m.vdev m.ptr (bytesLE (m.index + 1) 8)) at hwrite
        generalize ccWrite t q m.vdev m.ptr (bytesLE (m.index + 1) 8) = w at hwrite ⊢
        match w, hwrite with
        | .ok u, h => exact ((hrelease.trans h).trans (hput u _)).trans (ih _)
        | .error (.wait u), h => exact (hrelease.trans h).trans (hput u _)
        | .error (.fail a u), h => exact (((hrelease.trans h).trans (hput u _)).trans (strandsOnly_queueRecordOf _ _ _ _ _ _ _ _)).trans (ih _)

theorem strandsOnly_mirrorIdx (s : State) (q : Nat) : StrandsOnly s (mirrorIdx s q) := strandsOnly_writeMirrors q _ s

end Sys2Proof.Machine
end

section
/-! PROOF. Launches (R21, R275 to R278, R306, R317): the descriptor, a refusal, the reel and its skeins, a mesh pass. -/
namespace Sys2Proof.Machine

/-! ## The head packet -/

theorem onHead_of {s t : State} {q : Nat} {b : Bytes} (h : lookHead s q = (t, some b)) {want : Bytes → Bool} (hw : want b = true)
    (act : State → Bytes → State) : onHead q want act s = .next (act t b) := by
  unfold onHead
  rw [h]
  exact congrArg Host.Outcome.next (if_pos hw)

theorem isKind_of {ty : Nat} {b : Bytes} (h : pkType b = ty) : isKind ty b = true := beq_iff_eq.2 h

theorem exec_dispatch {s t : State} {q : Nat} {b : Bytes} (h : lookHead s q = (t, some b)) (hb : pkType b = 5) :
    exec (.dispatch q) s = .next ((warmLaunch t q b).getD (coldLaunch t q b)) := onHead_of h (isKind_of hb) _

/-! ## Descriptors (R21) -/

/-- The command core keeps the descriptor that a DISPATCH has read (R284). -/
def cacheDescriptor (u : State) (t : State) (q : Nat) (b d : Bytes) : State :=
  if pkType b = 5 then
    u.modCmdCore (q / 32) (fun c =>
      let l := c.cache.filter (fun e => !(e.1 == (t.queue q).vdev && e.2.1 == w64 (fieldAt b 8 8))) ++
        [((t.queue q).vdev, w64 (fieldAt b 8 8), kdescOf d)]
      { c with cache := l.drop (l.length - 16) })
  else u

theorem coldLaunch_bad {t u : State} {q : Nat} {b d0 : Bytes} (h : ccFetch t q (t.queue q).vdev (w64 (fieldAt b 8 8)) 128 = .ok (d0, u))
    (hbad : kdescOk (if pkType b = 6 then roleBytes b d0 else d0) = false) : coldLaunch t q b = refuse u q b 1 false := by
  unfold coldLaunch
  simp only [h, hbad, Bool.not_false, if_true]

theorem coldLaunch_started {t u : State} {q : Nat} {b d0 d : Bytes} (h : ccFetch t q (t.queue q).vdev (w64 (fieldAt b 8 8)) 128 = .ok (d0, u))
    (hd : (if pkType b = 6 then roleBytes b d0 else d0) = d) (hok : kdescOk d = true) {w : State} {r : Nat}
    (hw : launchWith (cacheDescriptor u t q b d) q b (kdescOf d) = .started w r) : coldLaunch t q b = w := by
  unfold cacheDescriptor at hw
  unfold coldLaunch
  simp only [h, hd, hok, Bool.not_true, Bool.false_eq_true, if_false, hw]

/-! ## A queue advances (R268) -/

theorem advanceIdx_eq (s : State) (q : Nat) (b : Bytes) :
    ∃ f : Queue → Queue, (∀ x, (f x).ridx = x.ridx + 1) ∧ StrandsOnly (s.modQueue q f) (advanceIdx s q b) :=
  ⟨_, fun _ => rfl, strandsOnly_mirrorIdx _ q⟩

/-- The advance of a queue keeps skeins, jobs, reels but for errors, and events. -/
theorem advanceIdx_kept (s : State) (q : Nat) (b : Bytes) :
    (advanceIdx s q b).skeins = s.skeins ∧ (advanceIdx s q b).jobs = s.jobs ∧ ((advanceIdx s q b).queue q).ridx = (s.queue q).ridx + 1 ∧
    (∀ r, (advanceIdx s q b).reel r = { s.reel r with contained := ((advanceIdx s q b).reel r).contained }) ∧
    (∀ r, Tab.has s.reels r = true → Tab.has (advanceIdx s q b).reels r = true) ∧ ∀ e ∈ s.engine, e ∈ (advanceIdx s q b).engine := by
  obtain ⟨f, hf, h⟩ := advanceIdx_eq s q b
  refine ⟨h.skeins, h.jobs, ?_, h.reel, h.hasReel, h.engine⟩
  rw [h.ridx, State.queue_modQueue, hf]

/-! ## A refusal (R276) -/

theorem completeJob_jobs (t : State) (id st : Nat) :
    (completeJob t id st).jobs = t.jobs.map (fun j => if j.id == id then { j with done := true, status := st } else j) := by
  unfold completeJob
  obtain ⟨es, hes⟩ := later_eq (t.modJob id (fun j => { j with done := true, status := st })) (.completionTail id)
  rw [hes]
  rfl

theorem completeJob_queue (t : State) (id st q : Nat) : (completeJob t id st).queue q = t.queue q := by
  unfold completeJob
  obtain ⟨es, hes⟩ := later_eq (t.modJob id (fun j => { j with done := true, status := st })) (.completionTail id)
  rw [hes]
  rfl

theorem startAndComplete_done (s : State) (q : Nat) (b : Bytes) (st : Nat) :
    ∃ j ∈ (startAndComplete s q b st).jobs, j.queue = q ∧ j.done = true ∧ j.status = st ∧
      ((startAndComplete s q b st).queue q).ridx = (s.queue q).ridx + 1 ∧ .completionTail j.id ∈ (startAndComplete s q b st).engine := by
  obtain ⟨-, hjobs, hridx, -⟩ := advanceIdx_kept (newJob s q b []).2 q b
  have hlast : (newJob s q b []).1 ∈ (advanceIdx (newJob s q b []).2 q b).jobs := by
    rw [hjobs]
    exact List.mem_append_right _ (List.mem_singleton.2 rfl)
  unfold startAndComplete
  dsimp only
  generalize advanceIdx (newJob s q b []).2 q b = t at hridx hlast ⊢
  refine ⟨{ (newJob s q b []).1 with done := true, status := st }, ?_, rfl, rfl, rfl, ?_, mem_later _ _⟩
  · rw [completeJob_jobs]
    exact List.mem_map.2 ⟨_, hlast, if_pos (beq_self_eq_true _)⟩
  · rw [completeJob_queue]
    exact hridx

theorem refuse_done (s : State) (q st : Nat) (b : Bytes) (said : Bool) :
    ∃ j ∈ (refuse s q b st said).jobs, j.queue = q ∧ j.done = true ∧ j.status = st ∧
      ((refuse s q b st said).queue q).ridx = (s.queue q).ridx + 1 ∧ .completionTail j.id ∈ (refuse s q b st said).engine := by
  have hrecord : ((if said then s else queueRecord s q 8 0 0 (s.queue q).ridx (pkCookie b)).queue q).ridx = (s.queue q).ridx := by
    split
    · rfl
    · exact (strandsOnly_queueRecordOf s _ _ _ _ _ _ _).ridx q
  unfold refuse
  dsimp only
  generalize (if said then s else queueRecord s q 8 0 0 (s.queue q).ridx (pkCookie b)) = t at hrecord ⊢
  rw [← hrecord]
  exact startAndComplete_done t q b st

/-! ## The reel of a packet and its skeins -/

/-- One more skein of a reel. -/
def addSkein (r : Nat) (s : State) (i : Nat) : State := { s with skeins := Tab.put s.fresh { reel := r, num := i } s.skeins }.bump

theorem addSkeins_kept (r : Nat) (l : List Nat) : ∀ s : State, (l.foldl (addSkein r) s).reels = s.reels ∧ (l.foldl (addSkein r) s).queues = s.queues ∧
    ∀ k, k < s.fresh → Tab.find k (l.foldl (addSkein r) s).skeins = Tab.find k s.skeins := by
  induction l with
  | nil => exact fun s => ⟨rfl, rfl, fun _ _ => rfl⟩
  | cons i l ih =>
    intro s
    obtain ⟨hreels, hqueues, hskeins⟩ := ih (addSkein r s i)
    refine ⟨hreels, hqueues, fun k hk => ?_⟩
    rw [List.foldl_cons, hskeins k (Nat.lt_succ_of_lt hk)]
    exact Tab.find_put_ne (Nat.ne_of_lt hk) _ _

theorem addSkeins_find (r : Nat) (l : List Nat) : ∀ (s : State), ∀ i ∈ l,
    ∃ k, Tab.find k (l.foldl (addSkein r) s).skeins = some { reel := r, num := i } := by
  induction l with
  | nil => exact fun _ i hi => absurd hi List.not_mem_nil
  | cons j l ih =>
    intro s i hi
    rcases List.mem_cons.1 hi with rfl | hi
    · refine ⟨s.fresh, ?_⟩
      rw [List.foldl_cons, (addSkeins_kept r l _).2.2 s.fresh (Nat.lt_succ_self _)]
      exact Tab.find_put_self _ _ _
    · exact ih _ i hi

theorem mem_upFrom_zero {n i : Nat} (h : i < n) : i ∈ upFrom 0 n := by
  rw [upFrom_eq]
  exact List.mem_map.2 ⟨i, List.mem_range.2 h, Nat.zero_add i⟩

/-- The reel of a packet that is not a linked DRAW. -/
def launchedReel (s : State) (q : Nat) (b : Bytes) (d : Kdesc) : Reel :=
  let x := s.queue q
  let pgt := fieldAt b 0x1C 2
  let e : PgEntry := Tab.get {} (s.vdev x.vdev).pgt pgt
  let one := pkType b == 7 || pgt == 0xFFFF
  { job := s.fresh, vdev := x.vdev, queue := q, cookie := pkCookie b, desc := d, args := w64 (fieldAt b 0x10 8), nskein := fieldAt b 0x18 4,
    rank := if one then 0 else e.rank, nrank := if one then 1 else e.nrank, map := if one then 0 else e.map, pgt := if one then none else some pgt,
    cls := x.cls, left := fieldAt b 0x18 4, mesh := none, order := s.fresh + 1, capture := decide (x.capTaken < x.captures) }

/-- The tables with a packet's job and reel. -/
def withReel (s : State) (q : Nat) (b : Bytes) (d : Kdesc) : State :=
  { (newJob s q b []).2 with reels := Tab.put (s.fresh + 1) (launchedReel s q b d) s.reels }.bump

theorem launchReel_eq (s : State) (q : Nat) (b : Bytes) (d : Kdesc) (h : pkType b ≠ 7) :
    launchReel s q b d =
      (advanceIdx (((upFrom 0 (fieldAt b 0x18 4)).foldl (addSkein (s.fresh + 1)) (withReel s q b d)).later .placement) q b, s.fresh + 1) := by
  have hlinked : (pkType b == 7 && fieldAt b 0x1E 1 == 1 && fieldAt b 0x20 8 != 0) = false := by simp [h]
  unfold launchReel
  dsimp only
  rw [hlinked]
  rfl

theorem launchReel_kept (s : State) (q : Nat) (b : Bytes) (d : Kdesc) (h : pkType b ≠ 7) :
    let w := (launchReel s q b d).1
    let r := (launchReel s q b d).2
    Tab.has w.reels r = true ∧ (w.reel r).desc = d ∧ (w.reel r).queue = q ∧ (w.reel r).args = w64 (fieldAt b 0x10 8) ∧
    (w.reel r).nskein = fieldAt b 0x18 4 ∧ (w.reel r).left = fieldAt b 0x18 4 ∧ (w.queue q).ridx = (s.queue q).ridx + 1 ∧ .placement ∈ w.engine ∧
    ∀ i, i < fieldAt b 0x18 4 → ∃ k, Tab.find k w.skeins = some { reel := r, num := i } := by
  rw [launchReel_eq s q b d h]
  dsimp only
  have hkept := addSkeins_kept (s.fresh + 1) (upFrom 0 (fieldAt b 0x18 4)) (withReel s q b d)
  have hfind := addSkeins_find (s.fresh + 1) (upFrom 0 (fieldAt b 0x18 4)) (withReel s q b d)
  generalize (upFrom 0 (fieldAt b 0x18 4)).foldl (addSkein (s.fresh + 1)) _ = t at hkept hfind ⊢
  obtain ⟨hreels, hqueues, -⟩ := hkept
  have hlater := mem_later t .placement
  obtain ⟨es, hes⟩ := later_eq t .placement
  rw [hes] at hlater ⊢
  obtain ⟨hskeins, -, hridx, hreel, hhas, hengine⟩ := advanceIdx_kept { t with engine := es } q b
  have hnew : ({ t with engine := es } : State).reel (s.fresh + 1) = launchedReel s q b d := by
    change Tab.get {} t.reels (s.fresh + 1) = _
    rw [hreels]
    exact Tab.get_put_self _ _ _ _
  have hlisted : Tab.has t.reels (s.fresh + 1) = true := by
    rw [hreels]
    exact Tab.has_put_self _ _ _
  refine ⟨hhas _ hlisted, ?_, ?_, ?_, ?_, ?_, ?_, hengine _ hlater, fun i hi => ?_⟩
  iterate 5
    · rw [hreel, hnew]
      rfl
  · rw [hridx]
    change (Tab.get {} t.queues q).ridx + 1 = _
    rw [hqueues]
    rfl
  · obtain ⟨k, hk⟩ := hfind i (mem_upFrom_zero hi)
    exact ⟨k, by rw [hskeins]; exact hk⟩

/-! ## A mesh pass (R317) -/

theorem strandsOnly_meshBuffer {s u : State} {x : Reel} {b : Bytes} (h : meshBuffer s x = some (b, u)) : StrandsOnly s u := by
  unfold meshBuffer at h
  split at h
  · cases h
  · next m _ =>
    have hfetch := accessKept_ccFetch s x.queue x.vdev m.buf 64
    split at h
    · next r hr =>
      rw [hr] at hfetch
      rw [Option.some.inj h] at hfetch
      exact hfetch
    · cases h

theorem strandsOnly_ccWrite {s u : State} {q v : Nat} {ptr : W64} {b : Bytes} (h : ccWrite s q v ptr b = .ok u) : StrandsOnly s u := by
  have hwrite := accessKept_ccWriteP s q v ptr b false
  unfold ccWrite at h
  rw [h] at hwrite
  exact hwrite

theorem strandsOnly_meshTail (s : State) (r : Nat) (b : Bytes) : StrandsOnly s (meshTail s r b).1 := by
  unfold meshTail
  dsimp only
  split
  · exact .refl s
  · next m _ =>
    split
    · exact .refl s
    · split
      · next u hu => exact strandsOnly_ccWrite hu
      · exact .refl s

/-- The next skein of a linked DRAW. -/
def meshNext (v : State) (r : Nat) (m : MeshLink) : State :=
  (((addSkein r v m.next).modReel r (fun x => { x with mesh := some { m with next := m.next + 1 } })).later .placement).later (.meshSkeinLaunch r)

theorem exec_meshSkeinLaunch {s u : State} {r : Nat} {m : MeshLink} {b : Bytes} (hhas : Tab.has s.reels r = true) (hm : (s.reel r).mesh = some m)
    (hended : m.ended = false) (hfailed : m.failed = false) (hbuf : meshBuffer s (s.reel r) = some (b, u)) (htail : (meshTail u r b).2 = true)
    (hnext : m.next < (s.reel r).nskein)
    (hgo : (m.next + 1) * fieldAt b 14 2 ≤ fieldAt b 0x30 8 ∨
      (m.next * fieldAt b 14 2 < meshCovers b ∧ ∀ j ∈ jobsOf s (s.reel r).queue, (s.reel r).job ≤ j.id)) :
    exec (.meshSkeinLaunch r) s = .next (meshNext (meshTail u r b).1 r m) := by
  obtain ⟨buf, next, ended, failed⟩ := m
  obtain rfl : ended = false := hended
  obtain rfl : failed = false := hfailed
  have hjobs : (meshTail u r b).1.jobs = s.jobs := (strandsOnly_meshTail u r b).jobs.trans (strandsOnly_meshBuffer hbuf).jobs
  generalize hv : meshTail u r b = v at htail hjobs
  obtain ⟨v, ok⟩ := v
  obtain rfl : ok = true := htail
  have hcond : next < (s.reel r).nskein ∧ ((next + 1) * fieldAt b 14 2 ≤ fieldAt b 0x30 8 ∨ (next * fieldAt b 14 2 < meshCovers b ∧
      (!((jobsOf v (s.reel r).queue).any (fun j => decide (j.id < (s.reel r).job)))) = true)) := by
    refine ⟨hnext, hgo.imp id fun ⟨hcovers, hearlier⟩ => ⟨hcovers, ?_⟩⟩
    have hsame : jobsOf v (s.reel r).queue = jobsOf s (s.reel r).queue := congrArg (List.filter _) hjobs
    rw [hsame, Bool.not_eq_true', List.any_eq_false]
    intro j hj
    simpa using hearlier j hj
  change execMeshSkeinLaunch r s = _
  unfold execMeshSkeinLaunch
  simp only [hm, hhas, hbuf, Option.map_some, hv, Bool.not_true, Bool.or_self, Bool.false_eq_true, if_false]
  rw [if_pos hcond]
  rfl

theorem meshNext_kept (v : State) (r : Nat) (m : MeshLink) :
    ((meshNext v r m).reel r).mesh = some { m with next := m.next + 1 } ∧ .placement ∈ (meshNext v r m).engine ∧
      ∃ k, Tab.find k (meshNext v r m).skeins = some { reel := r, num := m.next } := by
  unfold meshNext
  have hreel : ∀ (t : State) e k, (t.later e).reel k = t.reel k := fun t e k => by
    obtain ⟨es, h⟩ := later_eq t e
    rw [h]
    rfl
  have hskeins : ∀ (t : State) e, (t.later e).skeins = t.skeins := fun t e => by
    obtain ⟨es, h⟩ := later_eq t e
    rw [h]
  refine ⟨?_, (DrainKept.later _ _).engine _ (mem_later _ _), v.fresh, ?_⟩
  · rw [hreel, hreel, State.reel_modReel]
  · rw [hskeins, hskeins]
    exact Tab.find_put_self _ _ _

end Sys2Proof.Machine
end

section
/-! PROOF. Placement, vacating, exits and completions (R24, R48, R148, R274, R277 to R279). -/
namespace Sys2Proof.Machine

theorem skeins_foldl {α : Type} {f : State → α → State} (h : ∀ s x, (f s x).skeins = s.skeins) (l : List α) :
    ∀ s, (l.foldl f s).skeins = s.skeins := by
  induction l with
  | nil => exact fun _ => rfl
  | cons x l ih => exact fun s => (ih _).trans (h s x)

theorem ply_later (s : State) (e : Instr) (q : Nat) : (s.later e).ply q = s.ply q := by
  obtain ⟨es, h⟩ := later_eq s e
  rw [h]
  rfl

theorem skein_later (s : State) (e : Instr) (k : Nat) : (s.later e).skein k = s.skein k := by
  obtain ⟨es, h⟩ := later_eq s e
  rw [h]
  rfl

/-! ## Releasing a skein (R277) -/

theorem skeins_resolveX (s : State) (c vn : Nat) (g0 g4 : Seg) (base limit : W64) : (resolveX s c vn g0 g4 base limit).2.2.skeins = s.skeins := by
  have hlookup : ∀ host pasid va, (lookup s c vn host pasid va).2.skeins = s.skeins := by
    intro host pasid va
    have hwalk := (State.work_eq (work_walkTouch s vn va)).2.1
    unfold lookup
    split
    · rfl
    · split
      · rfl
      · split
        · rfl
        · dsimp only
          split
          · exact hwalk
          · exact hwalk
  have hread : ∀ host pasid va w t, lookup s c vn host pasid va = (w, t) → t.skeins = s.skeins := fun host pasid va w t h => by
    have := hlookup host pasid va
    rwa [h] at this
  unfold resolveX
  dsimp only
  generalize (bits base 60 4 == 4) = host
  cases host
  all_goals
    simp only [Bool.false_eq_true, if_false, if_true]
    split
    · next h =>
      split <;> exact hread _ _ _ _ _ h
    · next h => exact hread _ _ _ _ _ h

theorem skeins_rebindOne (s : State) (p k i : Nat) (x : XReg) : (rebindOne s p k i x).skeins = s.skeins := by
  unfold rebindOne
  dsimp only
  split
  · exact skeins_resolveX s _ _ _ _ _ _
  · exact skeins_resolveX s _ _ _ _ _ _

theorem skeins_rebindAll (s : State) (p : Nat) : (rebindAll s p).skeins = s.skeins := by
  unfold rebindAll rebind
  refine skeins_foldl (fun t x => skeins_foldl (fun u y => ?_) _ t) _ s
  split
  · exact skeins_rebindOne u p _ _ _
  · rfl

/-- One more ply of a skein. -/
def addPly (k reel : Nat) (slots : List Nat) (s : State) (i : Nat) : State :=
  ({ s with plies := Tab.put s.fresh { newPly s reel k i with slot := slots.getD i 0 } s.plies }.bump).modSkein k
    (fun x => { x with plies := x.plies ++ [s.fresh] })

theorem hasSkein_addPlies (k reel : Nat) (slots l : List Nat) : ∀ s : State, Tab.has s.skeins k = true →
    Tab.has (l.foldl (addPly k reel slots) s).skeins k = true := by
  induction l with
  | nil => exact fun _ h => h
  | cons i l ih => exact fun s _ => ih _ (Tab.has_put_self _ _ _)

theorem foldl_dropDamaged {s : State} {l : List Nat} (h : ∀ p ∈ l, (s.ply p).ctxBad = false) : l.foldl dropDamaged s = s := by
  induction l with
  | nil => rfl
  | cons p l ih =>
    have hp : dropDamaged s p = s := if_neg (by simp [h p List.mem_cons_self])
    rw [List.foldl_cons, hp]
    exact ih fun q hq => h q (List.mem_cons_of_mem _ hq)

/-- A skein to be released has its plies: new ones, or those of before that can be restored. -/
def peopled (s : State) (k : Nat) : State :=
  if (s.skein k).plies = [] then
    (upFrom 0 (s.reel (s.skein k).reel).desc.plies).foldl (addPly k (s.skein k).reel (freeSlots s (s.reel (s.skein k).reel).vdev
      (s.reel (s.skein k).reel).desc.plies)) s
  else (s.skein k).plies.foldl dropDamaged s

theorem hasSkein_peopled {s : State} {k : Nat} (hhas : Tab.has s.skeins k = true) (hctx : ∀ p ∈ (s.skein k).plies, (s.ply p).ctxBad = false) :
    Tab.has (peopled s k).skeins k = true := by
  unfold peopled
  split
  · exact hasSkein_addPlies _ _ _ _ s hhas
  · rw [foldl_dropDamaged hctx]
    exact hhas

/-- Seating plies changes no skein. -/
theorem skeins_releaseSkein {s : State} {k : Nat} (b : Nat) (h : Tab.has (peopled s k).skeins k = true) :
    (releaseSkein s k b).skeins = ((peopled s k).modSkein k (fun x => { x with spot := .bay b, front := false, wants := none })).skeins := by
  unfold releaseSkein
  dsimp only
  refine (skeins_foldl (fun t p => ?_) _ _).trans ?_
  · exact skeins_rebindAll _ p
  change (if Tab.has (peopled s k).skeins k = true then
    (peopled s k).modSkein k (fun x => { x with spot := .bay b, front := false, wants := none }) else peopled s k).skeins = _
  rw [if_pos h]

theorem spot_releaseSkein {s : State} {k : Nat} (b : Nat) (hhas : Tab.has s.skeins k = true) (hctx : ∀ p ∈ (s.skein k).plies, (s.ply p).ctxBad = false) :
    ((releaseSkein s k b).skein k).spot = .bay b := by
  rw [State.skein, skeins_releaseSkein b (hasSkein_peopled hhas hctx)]
  exact congrArg Skein.spot (Tab.get_put_self _ _ _ _)

theorem mem_insertList {s : State} {x y : Nat × Skein} {l : List (Nat × Skein)} (h : y ∈ insertList s x l) : y = x ∨ y ∈ l := by
  induction l with
  | nil => exact .inl (List.mem_singleton.1 h)
  | cons z l ih =>
    unfold insertList at h
    split at h
    · rcases List.mem_cons.1 h with rfl | h
      · exact .inr List.mem_cons_self
      · exact (ih h).imp id (List.mem_cons_of_mem _)
    · exact List.mem_cons.1 h

theorem Tab.has_of_mem {α : Type} {t : Tab α} {k : Nat} {v : α} (h : (k, v) ∈ t) : Tab.has t k = true := by
  induction t with
  | nil => cases h
  | cons x t ih =>
    obtain ⟨j, u⟩ := x
    rw [Tab.has_cons]
    rcases List.mem_cons.1 h with h | h
    · simp [(Prod.mk.inj h).1]
    · simp [ih h]

theorem has_of_pending {s : State} {v k : Nat} (h : k ∈ pendingList s v) : Tab.has s.skeins k = true := by
  have hfold : ∀ (l m : List (Nat × Skein)), ∀ x ∈ l.foldl (fun m x => insertList s x m) m, x ∈ l ∨ x ∈ m := by
    intro l
    induction l with
    | nil => exact fun m x hx => .inr hx
    | cons y l ih =>
      intro m x hx
      rcases ih _ x hx with h | h
      · exact .inl (List.mem_cons_of_mem _ h)
      · rcases mem_insertList h with rfl | h
        · exact .inl List.mem_cons_self
        · exact .inr h
  unfold pendingList at h
  obtain ⟨⟨j, x⟩, hx, rfl⟩ := List.mem_map.1 h
  rcases hfold _ _ _ hx with h | h
  · exact Tab.has_of_mem (List.mem_filter.1 h).1
  · cases h

/-! ## Placing (R279) -/

theorem placeDevice_closed {s : State} {v : Nat} (h : deviceOpen (s.vdev v) = false ∨ gateHolds s v = true) : placeDevice s v = s :=
  if_pos (by rcases h with h | h <;> simp [h])

theorem placeDevice_one {s : State} {v k : Nat} (hopen : deviceOpen (s.vdev v) = true) (hgate : gateHolds s v = false) (hlist : pendingList s v = [k]) :
    ∃ head, placeDevice s v = placeOne s v k head := by
  unfold placeDevice
  rw [if_neg (by simp [hopen, hgate]), hlist]
  exact ⟨_, rfl⟩

theorem placeOne_refused {s : State} {v k : Nat} (h : accountAllows (s.vdev v) (s.reel (s.skein k).reel).desc.eclass = false) (head : Bool) :
    placeOne s v k head = s :=
  if_pos (by simp [h])

theorem placeOne_placed {s : State} {v k b : Nat} (h : accountAllows (s.vdev v) (s.reel (s.skein k).reel).desc.eclass = true)
    (hslots : (s.skein k).plies = [] → (s.reel (s.skein k).reel).desc.plies ≤ (freeSlots s v (s.reel (s.skein k).reel).desc.plies).length)
    (hbay : findBay s k = some b) (head : Bool) : placeOne s v k head = releaseSkein s k b := by
  unfold placeOne
  dsimp only
  rw [if_neg (by simp [h]), if_neg (fun hc => Nat.not_lt_of_le (hslots hc.1) hc.2), hbay]

/-! ## Vacating (R48) -/

/-- A skein that is asked to vacate. -/
def asked (s : State) (k : Nat) : State :=
  if (s.skein k).vacate.isSome then s else s.modSkein k (fun x => { x with vacate := some (s.clock + 65536) })

theorem asked_skein (s : State) (k : Nat) :
    (asked s k).plies = s.plies ∧ ((asked s k).skein k).plies = (s.skein k).plies ∧ ((asked s k).skein k).spot = (s.skein k).spot ∧
      (Tab.has s.skeins k = true → Tab.has (asked s k).skeins k = true) ∧ (asked s k).cores = s.cores ∧ (asked s k).plat = s.plat ∧
      (asked s k).xfers = s.xfers ∧ (asked s k).bays = s.bays := by
  unfold asked
  split
  · exact ⟨rfl, rfl, rfl, id, rfl, rfl, rfl, rfl⟩
  · refine ⟨rfl, ?_, ?_, fun h => Tab.has_put_of_has h _, rfl, rfl, rfl, rfl⟩
    · rw [State.skein_modSkein]
    · rw [State.skein_modSkein]

/-- What VACATE does with one ply of its skein. -/
def vacateOne (s : State) (p : Nat) : State :=
  if !s.livePly p || !(s.ply p).resident || runsOn (s.ply p) || (s.ply p).exiting then s
  else
    let s := s.modPly p (fun y => { y with halt := true })
    if workLeft s p || !(canSave s p) then s else saveContext s p

theorem exec_vacate {s : State} {k p : Nat} (hhas : Tab.has s.skeins k = true) (hrun : running (s.skein k) = true) (hplies : (s.skein k).plies = [p]) :
    exec (.vacate k) s = .next (if running ((vacateOne (asked s k) p).skein k) && Tab.has (vacateOne (asked s k) p).skeins k then
      (vacateOne (asked s k) p).later (.vacate k) else vacateOne (asked s k) p) := by
  have hlist : ((asked s k).skein k).plies = [p] := (asked_skein s k).2.1.trans hplies
  change execVacate k s = _
  unfold execVacate
  rw [if_neg (show ¬ (!(Tab.has s.skeins k) || !(running (s.skein k))) = true by simp [hhas, hrun])]
  change Host.Outcome.next (if running ((((asked s k).skein k).plies.foldl vacateOne (asked s k)).skein k) &&
    Tab.has (((asked s k).skein k).plies.foldl vacateOne (asked s k)).skeins k then (((asked s k).skein k).plies.foldl vacateOne (asked s k)).later (.vacate k)
    else ((asked s k).skein k).plies.foldl vacateOne (asked s k)) = _
  rw [hlist]
  rfl

/-- A ply alone in its skein is saved: it leaves its core, and the skein waits in front of its class. -/
theorem saveContext_alone {s : State} {k p : Nat} (hskein : (s.ply p).skein = k) (hplies : (s.skein k).plies = [p]) :
    ((saveContext s p).ply p).resident = false ∧ ((saveContext s p).ply p).halt = false ∧ ((saveContext s p).skein k).spot = .saved ∧
      ((saveContext s p).skein k).front = true ∧ ((saveContext s p).skein k).vacate = none := by
  have hrelease := drainKept_releaseLocal s (s.ply p).core scPackage
  have hskeins : (releaseLocal s (s.ply p).core scPackage).skein k = s.skein k := by
    rw [State.skein, hrelease.skeins]
    rfl
  unfold saveContext
  dsimp only
  rw [hskein]
  generalize releaseLocal s (s.ply p).core scPackage = t at hskeins ⊢
  generalize hm : (t.modVdev _ _).modPly p _ = m
  have hply : (m.ply p).resident = false ∧ (m.ply p).halt = false := by
    rw [← hm, State.ply_modPly_eq, if_pos rfl]
    exact ⟨rfl, rfl⟩
  have hlist : (m.skein k).plies = [p] := by
    rw [← hplies, ← hskeins, ← hm]
    rfl
  have hsettle : settleVacate m k = (m.modSkein k (fun x => { x with spot := .saved, vacate := none, front := true })).later .placement := by
    unfold settleVacate
    rw [hlist]
    exact if_neg (by simp [hply.1])
  rw [hsettle, ply_later, skein_later, State.skein_modSkein]
  exact ⟨hply.1, hply.2, rfl, rfl, rfl⟩

/-! ## What a ply that stops has left to do -/

theorem workLeft_congr {s t : State} {p : Nat} (hply : ∃ f : Bool, t.ply p = { s.ply p with halt := f }) (hxfers : t.xfers = s.xfers)
    (hbays : t.bays = s.bays) : workLeft t p = workLeft s p := by
  obtain ⟨f, hply⟩ := hply
  unfold workLeft
  rw [hply, hxfers, hbays]

theorem canSave_congr {s t : State} {p : Nat} (hply : ∃ f : Bool, t.ply p = { s.ply p with halt := f }) (hcores : t.cores = s.cores)
    (hplat : t.plat = s.plat) : canSave t p = canSave s p := by
  obtain ⟨f, hply⟩ := hply
  have hmet : ∀ g : Fence, g.met t = g.met s := fun g => by rw [Fence.met, Fence.met, hplat]
  unfold canSave bayFenced State.core
  simp only [hply, hcores, hmet]

theorem vacateOne_runsOn {s : State} {p : Nat} (h : runsOn (s.ply p) = true) : vacateOne s p = s := if_pos (by simp [h])

/-- A ply that does not run on stops; it is saved when its work is done and its entries can all be performed. -/
theorem vacateOne_stops {s : State} {p : Nat} (hlive : s.livePly p = true) (hres : (s.ply p).resident = true) (hexit : (s.ply p).exiting = false)
    (hruns : runsOn (s.ply p) = false) :
    vacateOne s p = if workLeft s p || !(canSave s p) then s.modPly p (fun y => { y with halt := true })
      else saveContext (s.modPly p (fun y => { y with halt := true })) p := by
  have hply : ∃ f : Bool, (s.modPly p (fun y => { y with halt := true })).ply p = { s.ply p with halt := f } := ⟨true, by simp⟩
  have hwork := workLeft_congr hply rfl rfl
  have hsave := canSave_congr hply rfl rfl
  unfold vacateOne
  rw [if_neg (by simp [hlive, hres, hexit, hruns])]
  dsimp only
  rw [hwork, hsave]

theorem workLeft_asked (s : State) (k p : Nat) : workLeft (asked s k) p = workLeft s p := by
  obtain ⟨hplies, -, -, -, hcores, hplat, hxfers, hbays⟩ := asked_skein s k
  exact workLeft_congr ⟨(s.ply p).halt, by rw [State.ply, hplies]; rfl⟩ hxfers hbays

theorem canSave_asked (s : State) (k p : Nat) : canSave (asked s k) p = canSave s p := by
  obtain ⟨hplies, -, -, -, hcores, hplat, -, -⟩ := asked_skein s k
  exact canSave_congr ⟨(s.ply p).halt, by rw [State.ply, hplies]; rfl⟩ hcores hplat

/-- A ply alone in its running skein. -/
structure Lone (s : State) (k p : Nat) : Prop where
  has : Tab.has s.skeins k = true
  run : running (s.skein k) = true
  plies : (s.skein k).plies = [p]
  live : s.livePly p = true
  skein : (s.ply p).skein = k
  resident : (s.ply p).resident = true
  exiting : (s.ply p).exiting = false

theorem Lone.asked {s : State} {k p : Nat} (h : Lone s k p) : Lone (asked s k) k p := by
  obtain ⟨hplies, hlist, hspot, hhas, -⟩ := asked_skein s k
  have hply : (Machine.asked s k).ply p = s.ply p := by rw [State.ply, State.ply, hplies]
  refine ⟨hhas h.has, ?_, hlist.trans h.plies, ?_, ?_, ?_, ?_⟩
  · have hrun := h.run
    unfold running at hrun ⊢
    rwa [hspot]
  · rw [State.livePly, hplies]
    exact h.live
  · rw [hply, h.skein]
  · rw [hply, h.resident]
  · rw [hply, h.exiting]

theorem vacate_runsOn {s : State} {k p : Nat} (h : Lone s k p) (hruns : runsOn (s.ply p) = true) :
    ∃ u, exec (.vacate k) s = .next u ∧ u.plies = s.plies ∧ .vacate k ∈ u.engine := by
  have hplies := (asked_skein s k).1
  have hply : (asked s k).ply p = s.ply p := by rw [State.ply, State.ply, hplies]
  have hone : vacateOne (asked s k) p = asked s k := vacateOne_runsOn (by rw [hply, hruns])
  refine ⟨(asked s k).later (.vacate k), ?_, ?_, mem_later _ _⟩
  · rw [exec_vacate h.has h.run h.plies, hone, h.asked.run, h.asked.has]
    rfl
  · obtain ⟨es, hes⟩ := later_eq (asked s k) (.vacate k)
    rw [hes]
    exact hplies

theorem vacate_stops {s : State} {k p : Nat} (h : Lone s k p) (hruns : runsOn (s.ply p) = false) :
    (workLeft s p = false → canSave s p = true → ∃ u, exec (.vacate k) s = .next u ∧
      (u.ply p).resident = false ∧ (u.ply p).halt = false ∧ (u.skein k).spot = .saved ∧ (u.skein k).front = true ∧ (u.skein k).vacate = none) ∧
    (workLeft s p = true ∨ canSave s p = false → ∃ u, exec (.vacate k) s = .next u ∧ (u.ply p).resident = true ∧ (u.ply p).halt = true ∧
      .vacate k ∈ u.engine) := by
  have hasked := h.asked
  have hply : (asked s k).ply p = s.ply p := by rw [State.ply, State.ply, (asked_skein s k).1]
  have hone := vacateOne_stops hasked.live hasked.resident hasked.exiting (by rw [hply, hruns])
  rw [workLeft_asked, canSave_asked] at hone
  have hexec := exec_vacate h.has h.run h.plies
  have hmod := (asked s k).ply_modPly_eq p p (fun y => { y with halt := true })
  rw [if_pos rfl] at hmod
  refine ⟨fun hwork hsave => ?_, fun hleft => ?_⟩
  · rw [if_neg (by simp [hwork, hsave])] at hone
    obtain ⟨hres, hhalt, hspot, hfront, hvacate⟩ := saveContext_alone (s := (asked s k).modPly p (fun y => { y with halt := true })) (k := k) (p := p)
      (by rw [hmod]; exact hasked.skein) hasked.plies
    refine ⟨vacateOne (asked s k) p, ?_, hone ▸ hres, hone ▸ hhalt, hone ▸ hspot, hone ▸ hfront, hone ▸ hvacate⟩
    rw [hexec]
    refine congrArg Host.Outcome.next (if_neg ?_)
    rw [hone, running, hspot]
    exact Bool.false_ne_true
  · rw [if_pos (by rcases hleft with h | h <;> simp [h])] at hone
    refine ⟨(vacateOne (asked s k) p).later (.vacate k), ?_, ?_, ?_, mem_later _ _⟩
    · rw [hexec]
      refine congrArg Host.Outcome.next (if_pos ?_)
      rw [hone]
      exact Bool.and_eq_true_iff.2 ⟨hasked.run, hasked.has⟩
    · rw [ply_later, hone, hmod]
      exact hasked.resident
    · rw [ply_later, hone, hmod]

theorem vacateTimeout_rollback {s : State} {k p d : Nat} (h : Lone s k p) (hd : (s.skein k).vacate = some d) (hclock : d ≤ s.clock)
    (hruns : runsOn (s.ply p) = true) : exec (.vacateTimeout k) s = .next (vacateRollback s p) := by
  change execVacateTimeout k s = _
  unfold execVacateTimeout
  rw [hd]
  dsimp only
  rw [if_neg (Nat.not_lt_of_le hclock), h.plies]
  exact congrArg Host.Outcome.next (if_pos (by simp [h.live, h.resident, hruns, h.exiting]))

/-! ## Exit and completion (R148, R278) -/

theorem plies_later (s : State) (e : Instr) : (s.later e).plies = s.plies := by
  obtain ⟨es, h⟩ := later_eq s e
  rw [h]

theorem plies_settleVacate (s : State) (k : Nat) : (settleVacate s k).plies = s.plies := by
  unfold settleVacate
  split
  · rfl
  · exact plies_later _ _

theorem plies_removePly (s : State) (p : Nat) : (removePly s p).plies = Tab.del p s.plies := by
  have hsigned : (signEntries s p).plies = s.plies := rfl
  unfold removePly
  dsimp only [State.modReel]
  simp only [apply_ite State.plies, plies_later, plies_settleVacate, ite_self, hsigned]

theorem removePly_gone (s : State) (p : Nat) : (removePly s p).livePly p = false ∧ .placement ∈ (removePly s p).engine := by
  refine ⟨?_, mem_later _ _⟩
  rw [State.livePly, plies_removePly, Tab.has, Tab.find_del, if_pos rfl]
  rfl

theorem exec_plyExit {s : State} {p : Nat} (hlive : s.livePly p = true) (hexit : (s.ply p).exiting = true) (hrerun : (s.reel (s.ply p).reel).rerun = none) :
    (workLeft s p = true → exec (.plyExit p) s = .next (s.later (.plyExit p))) ∧
    (workLeft s p = false → heldBad s p = none →
      exec (.plyExit p) s = .next (if doomed (releaseLocal (commitPly s p) (s.ply p).core scPackage) p then
        releaseLocal (commitPly s p) (s.ply p).core scPackage else removePly (releaseLocal (commitPly s p) (s.ply p).core scPackage) p)) := by
  have hgo : ¬ (!(s.livePly p) || !((s.ply p).exiting)) = true := by simp [hlive, hexit]
  have hfresh : ¬ (s.reel (s.ply p).reel).rerun.isSome = true := by simp [hrerun]
  change (_ → execPlyExit p s = _) ∧ (_ → _ → execPlyExit p s = _)
  unfold execPlyExit
  rw [if_neg hgo, if_neg hfresh]
  refine ⟨fun hwork => by rw [if_pos hwork], fun hwork hheld => ?_⟩
  rw [if_neg (by rw [hwork]; exact Bool.false_ne_true), hheld]

theorem reelComplete_completes {s : State} {r : Nat} (hhas : Tab.has s.reels r = true) (hleft : (s.reel r).left = 0) (hskeins : ∀ k ∈ s.skeins, k.2.reel ≠ r)
    (hmesh : (s.reel r).mesh = none) (hstopped : (s.vdev (s.reel r).vdev).stopped = false) :
    exec (.reelComplete r) s = .next (completeJob { s with reels := Tab.del r s.reels } (s.reel r).job (if (s.reel r).contained then 3 else 0)) := by
  have hlast : meshLast s r = (s, false) := by
    unfold meshLast
    rw [hmesh]
  have hnone : s.skeins.any (fun k => k.2.reel == r) = false := by
    rw [List.any_eq_false]
    exact fun k hk => by simpa using hskeins k hk
  change execReelComplete r s = _
  unfold execReelComplete
  dsimp only
  rw [if_neg (by simp [hhas, hleft, hnone]), hlast]
  dsimp only
  rw [if_neg (by rw [show (State.vdev { s with reels := Tab.del r s.reels } (s.reel r).vdev).stopped = false from hstopped]; exact Bool.false_ne_true)]
  rfl

theorem completeJob_reels (t : State) (id st : Nat) : (completeJob t id st).reels = t.reels := by
  unfold completeJob
  obtain ⟨es, hes⟩ := later_eq (t.modJob id (fun j => { j with done := true, status := st })) (.completionTail id)
  rw [hes]
  rfl

/-- The state in which a job's signal has been given. -/
def signalled (u : State) (j : Job) : State :=
  if j.signal = 0 then u
  else
    match signalPlace u j.queue j.vdev j.signal 1 true with
    | (none, u) => queueRecordOf u j.queue j.vdev 10 j.signal 9 j.index j.cookie
    | (some pa, u) => signalStep u pa j.addend.toNat false

theorem exec_completionTail {s u : State} {id : Nat} {j : Job} {f : Option Fence} (hjob : s.job id = some j) (hdone : j.done = true) (hptr : j.statusPtr = 0)
    (hrelease : ccRelease (s.modJob id (fun j => { j with statusPtr := 0 })) j.queue j.vdev j.fence = (u, f, true)) :
    exec (.completionTail id) s = .next { notice (signalled u j) j.queue j with
      jobs := (notice (signalled u j) j.queue j).jobs.filter (fun k => k.id != id) } := by
  change execCompletionTail id s = _
  unfold execCompletionTail
  rw [hjob]
  dsimp only
  rw [if_neg (by simp [hdone]), if_pos hptr]
  dsimp only
  rw [hrelease]
  rfl

theorem filter_ids (l : List Job) (id : Nat) : ∀ k ∈ l.filter (fun k => k.id != id), k.id ≠ id := fun k hk => by
  simpa using (List.mem_filter.1 hk).2

theorem notice_silent (s : State) (q : Nat) {j : Job} (h : j.intr = false) : notice s q j = s := if_pos (by simp [h])

/-- Settles O52: each event of the arbiter and of the command core, from the lemma about it: heads and descriptors, refusals, reels, mesh passes,
placement, vacating, exits and completions. -/
theorem launchResults : Obligations.LaunchResults := by
  unfold Obligations.LaunchResults
  refine ⟨fun s t q b hhead => ⟨fun hb => ?_, fun hb => onHead_of hhead (isKind_of hb) _, fun hb => onHead_of hhead (isKind_of hb) _⟩,
    fun t u q b d0 hfetch => ⟨coldLaunch_bad hfetch, fun w r hok hw => coldLaunch_started hfetch rfl hok hw⟩,
    fun s q st b said => refuse_done s q st b said, fun s q b d hb => launchReel_kept s q b d (by omega),
    fun s u r m b hhas hm hended hfailed hbuf htail hnext hgo => ⟨_, exec_meshSkeinLaunch hhas hm hended hfailed hbuf htail hnext hgo, meshNext_kept _ r m⟩,
    fun _ => rfl, fun s v k b => ⟨placeDevice_closed, fun hopen hgate hlist => ?_⟩,
    fun s k p hhas hrun hplies hlive hskein hres hexit => ?_, fun s p hlive hexit hrerun => ?_,
    fun s r hhas hleft hskeins hmesh hstopped => ?_, fun s u id j f hjob hdone hptr hrelease => ?_⟩
  · rw [exec_dispatch hhead hb]
    exact ⟨fun w hw => by rw [hw]; rfl, fun hw => by rw [hw]; rfl⟩
  · obtain ⟨head, hplace⟩ := placeDevice_one hopen hgate hlist
    rw [hplace]
    exact ⟨fun haccount => placeOne_refused haccount head, fun haccount hslots hbay =>
      ⟨placeOne_placed haccount hslots hbay head, spot_releaseSkein b (has_of_pending (hlist ▸ List.mem_singleton.2 rfl))⟩⟩
  · have hlone : Lone s k p := ⟨hhas, hrun, hplies, hlive, hskein, hres, hexit⟩
    refine ⟨fun hprot hhalt => vacate_runsOn hlone (by simp [runsOn, hprot, hhalt]), fun hstops => ?_,
      fun d hd hclock hprot hhalt => vacateTimeout_rollback hlone hd hclock (by simp [runsOn, hprot, hhalt])⟩
    have hruns : runsOn (s.ply p) = false := by
      rcases hstops with hprot | ⟨hhalt, hcapture⟩
      · simp [runsOn, hprot]
      · simp [runsOn, hhalt, hcapture]
    obtain ⟨hsaved, hleft⟩ := vacate_stops hlone hruns
    exact ⟨fun hwork hfenced hmoving => hsaved hwork (by simp [canSave, hfenced, hmoving]),
      fun h => hleft (h.imp id fun hfenced => by simp [canSave, hfenced])⟩
  · obtain ⟨hwait, hgo⟩ := exec_plyExit hlive hexit hrerun
    refine ⟨hwait, fun hwork hheld => ⟨fun hdoomed => ?_, fun hdoomed => ?_⟩⟩
    · rw [hgo hwork hheld, if_pos hdoomed]
    · exact ⟨_, (hgo hwork hheld).trans (by rw [if_neg (by rw [hdoomed]; exact Bool.false_ne_true)]), removePly_gone _ p⟩
  · refine ⟨_, reelComplete_completes hhas hleft hskeins hmesh hstopped, ?_, mem_later _ _, fun j hj hid => ?_⟩
    · rw [completeJob_reels, Tab.has, Tab.find_del, if_pos rfl]
      rfl
    · rw [completeJob_jobs] at hj
      obtain ⟨i, -, rfl⟩ := List.mem_map.1 hj
      by_cases hi : i.id = (s.reel r).job
      · simp [hi]
      · simp [hi] at hid
  · have hexec := exec_completionTail hjob hdone hptr hrelease
    refine ⟨fun _ => ⟨_, hexec, filter_ids _ id⟩, fun pa v hsignal hplace => ⟨_, hexec, filter_ids _ id, fun hintr => ?_⟩⟩
    rw [notice_silent _ _ hintr, signalled, if_neg hsignal, hplace]

end Sys2Proof.Machine
end

section
/-! PROOF. A step carries out the one choice there is; a fragment whose chain is one word runs that word (R39, R108 to R113, R119, R120, R146). -/
namespace Sys2Proof.Machine

/-! ## Fetching code (R107, R108) -/

/-- What the fetch of code leaves alone: every ply, and which fragment issues. -/
structure CodeRead (s t : State) : Prop where
  plies : t.plies = s.plies
  iss : t.iss = s.iss

theorem CodeRead.refl (s : State) : CodeRead s s := ⟨rfl, rfl⟩

theorem CodeRead.trans {s t u : State} (h : CodeRead s t) (k : CodeRead t u) : CodeRead s u := ⟨k.plies.trans h.plies, k.iss.trans h.iss⟩

theorem CodeRead.of_work {s t : State} (h : t.work = s.work) : CodeRead s t := ⟨(State.work_eq h).1, State.work_iss h⟩

theorem CodeRead.curFrag {s t : State} (h : CodeRead s t) : t.curFrag = s.curFrag := by
  rw [State.curFrag, State.cur, State.curPly, State.ply, h.plies, h.iss]
  rfl

theorem codeRead_lookup (s : State) (c vn : Nat) (host : Bool) (pasid va : Nat) : CodeRead s (lookup s c vn host pasid va).2 := by
  have hwalk : CodeRead s (walkTouch s vn va) := .of_work (work_walkTouch s vn va)
  unfold lookup
  split
  · exact .refl s
  · split
    · exact ⟨rfl, rfl⟩
    · split
      · exact .refl s
      · dsimp only
        split
        · exact hwalk.trans ⟨rfl, rfl⟩
        · exact hwalk

theorem codeRead_translateDev (s : State) (c vn va kind : Nat) (world : Bool) : CodeRead s (translateDev s c vn va kind world).2 := by
  have h := codeRead_lookup s c vn false 0 va
  unfold translateDev
  split
  all_goals
    next heq =>
    rw [heq] at h
    exact h

theorem codeRead_fetchAt (s : State) (c vdev a pa : Nat) : CodeRead s (fetchAt s c vdev a pa).2 := by
  unfold fetchAt
  dsimp only
  split
  · split
    · exact .refl s
    · split <;> exact ⟨rfl, rfl⟩
  · exact (CodeRead.of_work (work_homeTouch s pa 0)).trans ⟨rfl, rfl⟩

theorem codeRead_fetchWord (s : State) (w : W32) (under : Bool) : CodeRead s (fetchWord s w under).2 := by
  unfold fetchWord
  dsimp only
  split
  · exact .refl s
  · split
    · exact .refl s
    · next ea _ _ =>
      have h := codeRead_translateDev s (ctxOf s).core (ctxOf s).vdev (ptrAddr ea) 3 (bit ((ctxOf s).seg 0).ctl 60)
      split
      · next heq =>
        rw [heq] at h
        exact h.trans (codeRead_fetchAt _ _ _ _ _)
      all_goals
        next heq =>
        rw [heq] at h
        exact h

theorem codeRead_of_fetchWord {s t : State} {w : W32} {under : Bool} {r : Fetched} (h : fetchWord s w under = (r, t)) : CodeRead s t := by
  have hread := codeRead_fetchWord s w under
  rwa [h] at hread

theorem codeRead_of_fetchChain {under : Bool} (n : Nat) : ∀ {s t : State} {w : W32} {ws : List W32},
    fetchChain s w under n = .ok (ws, t) → CodeRead s t := by
  induction n with
  | zero =>
    intro s t w ws h
    obtain ⟨-, rfl⟩ : [] = ws ∧ s = t := by simpa [fetchChain] using h
    exact .refl s
  | succ n ih =>
    intro s t w ws h
    unfold fetchChain at h
    split at h
    · next hword =>
      have hread := codeRead_of_fetchWord hword
      split at h
      · split at h
        · next hrest =>
          cases h
          exact hread.trans (ih hrest)
        · cases h
      · cases h
        exact hread
    · cases h

theorem codeRead_of_targetStands {s t : State} {b : Bool} (h : targetStands s = .ok (b, t)) : CodeRead s t := by
  unfold targetStands at h
  split at h
  · cases h
    exact .refl s
  · unfold beginsChain at h
    split at h
    · cases h
      exact .refl s
    · split at h
      · next hword =>
        cases h
        exact codeRead_of_fetchWord hword
      · cases h

/-! ## Chains of one word (R109, R112, R119) -/

theorem chainInstrs_word {w : W32} {i : Instr} (h : decodeWord w = .ok (false, i)) : chainInstrs [w] = some [i] := by
  have hlast : chainBit w = false := (decodeWord_eq_ok_iff.1 h).2.2
  have hinstr : wordInstr w = some i := by rw [wordInstr, h]
  simp [chainInstrs, hinstr, hlast, differ]

theorem chainItems_plain {i : Instr} (h : ∀ n e k, i ≠ .rep n e k) (s : State) (w : W32) : chainItems s w [i] = .ok ([⟨i, none⟩], s) := by
  unfold chainItems
  split
  · exact absurd rfl (h _ _ _)
  · rfl

section
variable {s : State} {w : W32} (n : BitVec 6) (e : BitVec 3) (k : BitVec 2)

theorem chainItems_rep_last (h : w.toNat % 3 = 2) : chainItems s w [.rep n e k] = .error none := by
  simp [chainItems, h]

theorem chainItems_rep {v : W32} {t : State} (h : w.toNat % 3 ≠ 2) (hv : fetchWord s (w + 1) false = (.word v, t)) :
    chainItems s w [.rep n e k] = if repLegal w e v then .ok ([⟨.rep n e k, some v⟩], t) else .error none := by
  simp only [chainItems, h, hv]
  cases repLegal w e v <;> simp
end

theorem effective_plain (i : Instr) (s : State) : (Item.mk i none).effective s = .ok i := by
  unfold Item.effective
  split
  · next h => cases h
  · rfl

/-! ## Running one word (R110, R146) -/

/-- What a word of instruction i leaves in its fragment. -/
def leaving (s : State) (i : Instr) (r : Res) : Res :=
  match r with
  | .next v => .next (leaveWord s v true i)
  | r => r

theorem leaving_next (s : State) (i : Instr) (r : Res) (k : State → Res) :
    leaving s i (match r with
      | .next m => k m
      | r => r) = match r with
      | .next m => (match k m with
        | .next v => .next (leaveWord s v true i)
        | r => r)
      | r => r := by
  cases r <;> rfl

section
variable {s : State} {x : Item}

theorem stillToRun_single (hpass : s.curFrag.passed s.iss.w = none) : stillToRun s [x] = [x] := by
  have hw : s.iss.w + w32 0 = s.iss.w := BitVec.add_zero s.iss.w
  simp [stillToRun, upFrom, hw, hpass]

theorem goEarly_nothing (hearly : earlyChoices s = []) : goEarly exec s = (s, none) := by
  rw [goEarly, hearly]

variable (hpass : s.curFrag.passed s.iss.w = none) (hearly : earlyChoices s = [])
include hpass hearly

theorem runRead_stepError {c : Nat} (heff : x.effective s = .error c) : runRead exec s [x] = .next (takeTrap s { cause := c }) := by
  have hheld : chainHeld s [x] = false := by simp [chainHeld, heff]
  have hwaits : chainWaits exec s [] [x] = none := by simp [chainWaits, heff]
  unfold runRead
  dsimp only
  rw [stillToRun_single hpass, hheld, hwaits, goEarly_nothing hearly]
  simp [runItems, runItem, heff]

theorem runRead_runs {i : Instr} (heff : x.effective s = .ok i) (hwait : s.curFrag.wait = .none) (hboard : scoreboardHolds s i = false) :
    runRead exec s [x] = leaving s i (runItem exec s x) := by
  have hheld : chainHeld s [x] = false := by simp [chainHeld, heff, hboard]
  have hwaits : chainWaits exec s [] [x] = none := by simp [chainWaits, heff, stopsAt, hwait]
  unfold runRead
  dsimp only
  rw [stillToRun_single hpass, hheld, hwaits, goEarly_nothing hearly]
  simp only [runItems, heff]
  cases h : runItem exec s x <;> simp [leaving]
end

theorem runItem_plain {s : State} {i : Instr} (hlate : lateError s i = none) (hreg : registerError s i = none) : runItem exec s ⟨i, none⟩ = exec i s := by
  simp [runItem, effective_plain, hlate, hreg]

theorem effective_rep (s : State) (n : BitVec 6) (e : BitVec 3) (k : BitVec 2) (v : W32) :
    (Item.mk (.rep n e k) (some v)).effective s = repeatInstr v e k s.curFrag.repPos := rfl

theorem runItem_rep {s : State} {n : BitVec 6} {e : BitVec 3} {k : BitVec 2} {v : W32} {i : Instr} (hi : repeatInstr v e k s.curFrag.repPos = .ok i)
    (hlate : lateError s i = none) (hreg : registerError s i = none) :
    runItem exec s ⟨.rep n e k, some v⟩ = match exec (.rep n e k) s with
      | .next t => exec i t
      | r => r := by
  rw [runItem, effective_rep, hi]
  dsimp only
  rw [hlate, hreg]
  rfl

/-- The chain that a fetch brings, checked. -/
noncomputable def chainOf (s : State) (r : Except (Fetched × State) (List W32 × State)) : Except (Option (Fetched × State)) (List Item × State) :=
  match r with
  | .error r => .error (some r)
  | .ok (ws, t) =>
    match chainInstrs ws with
    | none => .error none
    | some is => chainItems t s.iss.w is

theorem readChain_eq (s : State) : readChain s = chainOf s (fetchChain s s.iss.w s.curFrag.under 3) := rfl

section
variable {t x : State}

theorem readChain_fetchError {r : Fetched × State} (h : fetchChain t t.iss.w t.curFrag.under 3 = .error r) : readChain t = .error (some r) :=
  (readChain_eq t).trans (congrArg (chainOf t) h)

theorem readChain_illegal {ws : List W32} (hws : fetchChain t t.iss.w t.curFrag.under 3 = .ok (ws, x)) (h : chainInstrs ws = none) :
    readChain t = .error none := by
  refine (readChain_eq t).trans ((congrArg (chainOf t) hws).trans ?_)
  rw [chainOf, h]

theorem readChain_word {w : W32} {i : Instr} (hws : fetchChain t t.iss.w t.curFrag.under 3 = .ok ([w], x)) (h : decodeWord w = .ok (false, i)) :
    readChain t = chainItems x x.iss.w [i] := by
  refine (readChain_eq t).trans ((congrArg (chainOf t) hws).trans ?_)
  rw [chainOf, chainInstrs_word h, (codeRead_of_fetchChain 3 hws).iss]
end

/-! ## What becomes of the chain at the program counter (R112, R113, R343) -/

section
variable {f t : State} (hpass : f.curFrag.passed f.iss.w = none)

theorem runChain_passed {w : W32} (h : f.curFrag.passed f.iss.w = some w) :
    runChain exec f = .next (goTo (f.modCurFrag (fun g =>
      { g with ahead := g.ahead.filter (fun x => x.1 != f.iss.w), jumped := decide (w ≠ f.iss.w + 1) })) w) := by
  rw [runChain, h]

include hpass

theorem runChain_targetFault {r : Fetched × State} (h : targetStands f = .error r) :
    runChain exec f = exec (.codeFetchFault f.iss.ply f.iss.strand f.iss.frag) f := by
  rw [runChain, hpass, h]

theorem runChain_illegalTarget (h : targetStands f = .ok (false, t)) : runChain exec f = .next (takeTrap t { cause := 4 }) := by
  rw [runChain, hpass, h]

section
variable (ht : targetStands f = .ok (true, t))
include ht

theorem runChain_fetchFault {r : Fetched × State} (h : fetchChain t t.iss.w t.curFrag.under 3 = .error r) :
    runChain exec f = exec (.codeFetchFault f.iss.ply f.iss.strand f.iss.frag) f := by
  simp [runChain, hpass, ht, readChain_fetchError h]

theorem runChain_illegal (h : readChain t = .error none) :
    runChain exec f = exec (.illegalEncoding f.iss.ply f.iss.strand f.iss.frag) t := by
  simp [runChain, hpass, ht, h]

theorem runChain_read {l : List Item} {u : State} (h : readChain t = .ok (l, u)) :
    runChain exec f = runRead exec (u.modCurFrag (fun g => { g with jumped := false })) l := by
  simp [runChain, hpass, ht, h]
end
end

/-- The fragment at its word, its transfer done. -/
def atWord (s : State) : State := s.modCurFrag (fun g => { g with jumped := false })

/-- A fragment that has read its code still has its word to perform. -/
theorem passed_kept {s t : State} (h : CodeRead s t) (hpass : s.curFrag.passed s.iss.w = none) :
    (atWord t).curFrag.passed (atWord t).iss.w = none := by
  rw [atWord, State.modCurFrag_iss, State.curFrag_modCurFrag, h.iss, h.curFrag]
  exact hpass

/-! ## The one choice there is (R39) -/

/-- An entry that must drain may drain. -/
theorem mustDrain_of_mayDrain {s : State} (h : mayDrain s = []) : mustDrain s = [] := by
  simp only [mayDrain, mustDrain, List.flatMap_eq_nil_iff, List.map_eq_nil_iff, List.filter_eq_nil_iff] at h ⊢
  intro c hc e he hmust
  refine h c hc e he ?_
  simp only [Bool.and_eq_true] at hmust ⊢
  exact ⟨hmust.1.1.1, hmust.2⟩

theorem choose_only {s : State} {n : Next} (h : choices s = [n]) : choose s = (n, s) := by
  have hrest := congrArg List.tail h
  simp only [choices, List.cons_append, List.tail_cons, List.append_eq_nil_iff, List.map_eq_nil_iff] at hrest
  obtain ⟨⟨hengine, -⟩, hdrain⟩ := hrest
  rw [choose, mustDrain_of_mayDrain hdrain, h, hengine]
  rfl

theorem choose_urgent {s : State} {e : Instr} {l : List Instr} (h : s.engine = e :: l) (hu : isUrgent e = true) : choose s = (.event e, s) := by
  rw [choose, h, List.head?_cons, Option.filter_some, if_pos hu]

theorem choose_drain {s : State} {c n : Nat} {l : List (Nat × Nat)} (h : s.engine = []) (hd : mustDrain s = (c, n) :: l) :
    choose s = (.drain c n, s) := by
  rw [choose, h, hd]
  rfl

theorem step_chosen {s t : State} {n : Next} (hin : s.inputs = []) (h : choose s = (n, t)) : step s = endStep (perform exec n t) := by
  rw [step, stepWith, hin]
  dsimp only
  rw [h]

/-! ## A word that a fragment runs (R110, R119, R120, R146) -/

section
variable {f t x : State} {w : W32} (hpass : f.curFrag.passed f.iss.w = none) (ht : targetStands f = .ok (true, t))
  (hws : fetchChain t t.iss.w t.curFrag.under 3 = .ok ([w], x))
include hpass ht hws

theorem runChain_plain {i : Instr} (hd : decodeWord w = .ok (false, i)) (hrep : ∀ n e k, i ≠ .rep n e k) (hboard : scoreboardHolds (atWord x) i = false)
    (hlate : lateError (atWord x) i = none) (hreg : registerError (atWord x) i = none) (hearly : earlyChoices (atWord x) = [])
    (hwait : (atWord x).curFrag.wait = .none) : runChain exec f = leaving (atWord x) i (exec i (atWord x)) := by
  have hread : CodeRead f x := (codeRead_of_targetStands ht).trans (codeRead_of_fetchChain 3 hws)
  rw [runChain_read hpass ht ((readChain_word hws hd).trans (chainItems_plain hrep x _))]
  exact (runRead_runs (passed_kept hread hpass) hearly (effective_plain i _) hwait hboard).trans (congrArg _ (runItem_plain hlate hreg))

theorem passed_repeated {v : W32} {y : State} (hv : fetchWord x (x.iss.w + 1) false = (.word v, y)) :
    (atWord y).curFrag.passed (atWord y).iss.w = none :=
  passed_kept (((codeRead_of_targetStands ht).trans (codeRead_of_fetchChain 3 hws)).trans (codeRead_of_fetchWord hv)) hpass

section
variable {n : BitVec 6} {e : BitVec 3} {k : BitVec 2} (hd : decodeWord w = .ok (false, .rep n e k))
include hd

theorem runChain_rep_last (h : x.iss.w.toNat % 3 = 2) : runChain exec f = exec (.illegalEncoding f.iss.ply f.iss.strand f.iss.frag) t :=
  runChain_illegal hpass ht ((readChain_word hws hd).trans (chainItems_rep_last n e k h))

variable {v : W32} {y : State} (h : x.iss.w.toNat % 3 ≠ 2) (hv : fetchWord x (x.iss.w + 1) false = (.word v, y))
include h hv

theorem runChain_rep_illegal (hl : repLegal x.iss.w e v = false) : runChain exec f = exec (.illegalEncoding f.iss.ply f.iss.strand f.iss.frag) t := by
  refine runChain_illegal hpass ht ((readChain_word hws hd).trans ((chainItems_rep n e k h hv).trans ?_))
  rw [hl]
  rfl

theorem runChain_rep (hl : repLegal x.iss.w e v = true) : runChain exec f = runRead exec (atWord y) [⟨.rep n e k, some v⟩] := by
  refine runChain_read hpass ht ((readChain_word hws hd).trans ((chainItems_rep n e k h hv).trans ?_))
  rw [hl]
  rfl

variable (hl : repLegal x.iss.w e v = true) (hearly : earlyChoices (atWord y) = [])
include hl hearly

theorem runChain_rep_stepError {c : Nat} (hi : repeatInstr v e k (atWord y).curFrag.repPos = .error c) :
    runChain exec f = .next (takeTrap (atWord y) { cause := c }) :=
  (runChain_rep hpass ht hws hd h hv hl).trans (runRead_stepError (passed_repeated hpass ht hws hv) hearly ((effective_rep _ n e k v).trans hi))

theorem runChain_rep_runs {i : Instr} (hi : repeatInstr v e k (atWord y).curFrag.repPos = .ok i) (hwait : (atWord y).curFrag.wait = .none)
    (hboard : scoreboardHolds (atWord y) i = false) (hlate : lateError (atWord y) i = none) (hreg : registerError (atWord y) i = none) :
    runChain exec f = leaving (atWord y) i (match exec (.rep n e k) (atWord y) with
      | .next m => exec i m
      | r => r) :=
  (runChain_rep hpass ht hws hd h hv hl).trans
    ((runRead_runs (passed_repeated hpass ht hws hv) hearly ((effective_rep _ n e k v).trans hi) hwait hboard).trans (congrArg _ (runItem_rep hi hlate hreg)))
end
end

/-- Settles O58: with one choice the step performs it, and the chain of one word that a fragment reads is run as exec of its instruction. -/
theorem stepRunsDecoded : Obligations.StepRunsDecoded := by
  unfold Obligations.StepRunsDecoded
  refine ⟨?_, fun s e l hin => ⟨fun he => ?_, fun he => ?_⟩, fun s e l hin hen hu => ?_, fun s c n l hin hen hd => step_chosen hin (choose_drain hen hd),
    fun s hin hch => step_chosen hin (choose_only hch)⟩
  · intro s c hin hch f after
    have hruns : ∀ r, runChain exec f = r → step s = after r := by
      rintro r rfl
      exact step_chosen hin (choose_only hch)
    refine ⟨fun w hw => hruns _ (runChain_passed hw), fun hw => ⟨fun r hr => hruns _ (runChain_targetFault hw hr),
      fun t ht => hruns _ (runChain_illegalTarget hw ht), fun t ht => ⟨fun r hr => hruns _ (runChain_fetchFault hw ht hr),
      fun ws x hws => ⟨fun hi => hruns _ (runChain_illegal hw ht (readChain_illegal hws hi)), ?_, ?_⟩⟩⟩⟩
    · rintro w i rfl hd hrep u hboard hlate hreg hearly hwait
      exact hruns _ (runChain_plain hw ht hws hd hrep hboard hlate hreg hearly hwait)
    · rintro w n e k rfl hd
      refine ⟨fun h => hruns _ (runChain_rep_last hw ht hws hd h), fun v y h hv => ⟨fun hl => hruns _ (runChain_rep_illegal hw ht hws hd h hv hl), ?_⟩⟩
      intro hl u hearly hwait
      refine ⟨fun r hr => hruns _ (runChain_rep_stepError hw ht hws hd h hv hl hearly hr), fun i hi hboard hlate hreg => ?_⟩
      refine (hruns _ (runChain_rep_runs hw ht hws hd h hv hl hearly hi hwait hboard hlate hreg)).trans (congrArg after ?_)
      exact leaving_next u i (exec (.rep n e k) u) (exec i)
  · rw [step, stepWith, hin]
    exact if_pos he
  · rw [step, stepWith, hin]
    exact if_neg (by simp [he])
  · refine (step_chosen hin (choose_urgent hen hu)).trans ?_
    rw [perform, hen, List.erase_cons_head]

end Sys2Proof.Machine
end

section
/-! PROOF. Scalar instructions (R129 to R133): each row of the tables reads its sources, computes and writes its destination. -/
namespace Sys2Proof.Machine

/-! ## Integer results -/

/-- An effect writes what the form's table gives. -/
def ScalarForm.WrittenBy (x : ScalarForm) (s : State) (e : Eff) : Prop :=
  e = .ok (destOf s x.d (x.f (sourceOf s x.a) (sreg s x.b.toNat) (x.oldOf s)))

/-- A register form of R130. -/
theorem writtenBy_srOp {x : ScalarForm} {s : State} {f : W64 → W64 → W64} (ha : isSource x.a) (hd : isDest x.d)
    (h : ∀ u v, f u v = x.f u v (x.oldOf s)) : x.WrittenBy s (srOp s x.d x.a x.b f) :=
  (srOp_ok s x.d x.a x.b f ha hd).trans (by rw [h])

/-- A unary or an immediate form of R130 and R132. -/
theorem writtenBy_srUn {x : ScalarForm} {s : State} {f : W64 → W64} (ha : isSource x.a) (hd : isDest x.d)
    (h : ∀ u v, f u = x.f u v (x.oldOf s)) : x.WrittenBy s (srUn s x.d x.a f) :=
  (srUn_ok s x.d x.a f ha hd).trans (by rw [h])

/-- A form of R130 that is given by a function of numbers. -/
theorem writtenBy_nat2 {x : ScalarForm} {s : State} {f : Nat → Nat → Nat} (ha : isSource x.a) (hd : isDest x.d)
    (h : ∀ u v : W64, BitVec.ofNat 64 (f u.toNat v.toNat) = x.f u v (x.oldOf s)) : x.WrittenBy s (srOp s x.d x.a x.b (nat2 f)) :=
  writtenBy_srOp ha hd h

/-- SSEL reads its destination before its sources (R130). -/
theorem ssel_eq {s : State} {d a : BitVec 8} (ha : isSource a) (hd : isDest d) (b : BitVec 6) :
    (do let c ← readS s d; srOp s d a b (fun x y => if c = 0 then y else x)) =
      .ok (destOf s d (if sourceOf s d ≠ 0 then sourceOf s a else sreg s b.toNat)) := by
  rw [readS_bind s (isSource_of_isDest hd), srOp_ok s d a b _ ha hd, ite_not]

/-- SHIN shifts its destination, which is %zero or a register (R132). -/
theorem shin_eq {s : State} {d : BitVec 8} (hd : d.toNat ≤ 192) (i : BitVec 17) :
    (do need (decide (d.toNat ≤ 192)) (illegalOperand 0); let x ← readS s d; writeS s d ((x <<< 17) ||| zext64 i)) =
      .ok (destOf s d ((sourceOf s d <<< 17) ||| i.setWidth 64)) := by
  have hdest : isDest d := .inl hd
  rw [need_bind (decide_eq_true hd), readS_bind s (isSource_of_isDest hdest), writeS_dest s d _ hdest]
  rfl

theorem scalarCond_oneIf (k : Nat) (x y : W64) : b2w (scalarCond k x y) = oneIf (conditionHolds k x y = true) := by
  rw [b2w_eq, scalarCond_eq]

theorem cmpImm_eq (k : BitVec 3) (i : BitVec 6) : cmpImm k.toNat i = if k = 4 ∨ k = 5 then i.setWidth 64 else i.signExtend 64 := by
  have h (c : BitVec 3) : k.toNat = c.toNat ↔ k = c := BitVec.toNat_inj
  exact if_congr (or_congr (h 4) (h 5)) rfl rfl

/-- Each row of R130 to R132 writes what its table gives. -/
theorem scalarForm_runs {i : Instr} {x : ScalarForm} {s : State} (hx : scalarForm i = some x) (ha : isSource x.a) (hd : isDest x.d)
    (hshin : ∀ d n, i = .shin d n → d.toNat ≤ 192) : ∃ e, exec i s = run s e ∧ x.WrittenBy s e := by
  unfold scalarForm at hx
  split at hx <;> cases hx
  -- SADD to SXOR, the shifts, SMUL
  iterate 5 exact ⟨_, rfl, writtenBy_srOp ha hd fun _ _ => rfl⟩
  · exact ⟨_, rfl, writtenBy_srOp ha hd fun u v => congrArg (u <<< ·) (bits_0_6 v)⟩
  · exact ⟨_, rfl, writtenBy_srOp ha hd fun u v => congrArg (u >>> ·) (bits_0_6 v)⟩
  · exact ⟨_, rfl, writtenBy_srOp ha hd fun u v => congrArg u.sshiftRight (bits_0_6 v)⟩
  · exact ⟨_, rfl, writtenBy_srOp ha hd fun _ _ => rfl⟩
  -- SMULH to SMAXN
  · exact ⟨_, rfl, writtenBy_nat2 ha hd ofNat_iMulHigh_signed⟩
  · exact ⟨_, rfl, writtenBy_nat2 ha hd ofNat_iMulHigh_unsigned⟩
  · exact ⟨_, rfl, writtenBy_nat2 ha hd ofNat_iMin_signed⟩
  · exact ⟨_, rfl, writtenBy_nat2 ha hd ofNat_iMax_signed⟩
  · exact ⟨_, rfl, writtenBy_nat2 ha hd ofNat_iMin_unsigned⟩
  · exact ⟨_, rfl, writtenBy_nat2 ha hd ofNat_iMax_unsigned⟩
  · exact ⟨_, rfl, ssel_eq ha hd _⟩
  -- the quotients and remainders
  · exact ⟨_, rfl, writtenBy_nat2 ha hd ofNat_iDiv_signed⟩
  · exact ⟨_, rfl, writtenBy_nat2 ha hd ofNat_iDiv_unsigned⟩
  · exact ⟨_, rfl, writtenBy_nat2 ha hd ofNat_iRem_signed⟩
  · exact ⟨_, rfl, writtenBy_nat2 ha hd ofNat_iRem_unsigned⟩
  -- SPOPC to SCMP
  · exact ⟨_, rfl, writtenBy_srUn ha hd fun u _ => congrArg (BitVec.ofNat 64) (popCount_eq_countP u)⟩
  · exact ⟨_, rfl, writtenBy_srUn ha hd fun u _ => congrArg (BitVec.ofNat 64) (clz_eq_findIdx u)⟩
  · exact ⟨_, rfl, writtenBy_srUn ha hd fun u _ => congrArg (BitVec.ofNat 64) (ctz_eq_findIdx u)⟩
  · exact ⟨_, rfl, writtenBy_srUn ha hd fun _ _ => rfl⟩
  · exact ⟨_, rfl, writtenBy_srOp ha hd (scalarCond_oneIf _)⟩
  -- the immediate forms
  iterate 7 exact ⟨_, rfl, writtenBy_srUn ha hd fun _ _ => rfl⟩
  · exact ⟨_, rfl, writtenBy_srUn ha hd fun u _ => rotateRight_eq u _⟩
  · exact ⟨_, rfl, writtenBy_srUn ha hd fun u _ => by rw [cmpImm_eq]; exact scalarCond_oneIf _ u _⟩
  · exact ⟨_, rfl, writeS_dest s _ _ hd⟩
  · exact ⟨_, rfl, shin_eq (hshin _ _ rfl) _⟩

theorem scalarForm_result {i : Instr} {x : ScalarForm} {s : State} (hx : scalarForm i = some x) (ha : isSource x.a) (hd : isDest x.d)
    (hshin : ∀ d n, i = .shin d n → d.toNat ≤ 192) :
    exec i s = .next (advance (destOf s x.d (x.f (sourceOf s x.a) (sreg s x.b.toNat) (x.oldOf s)))) := by
  obtain ⟨e, hrun, rfl⟩ := scalarForm_runs (s := s) hx ha hd hshin
  exact hrun

/-- Settles O3: by the table, row by row. -/
theorem scalarResults : Obligations.ScalarResults := by
  unfold Obligations.ScalarResults
  exact fun i x s hx _ ha hd hshin => scalarForm_result hx ha hd hshin

/-! ## Floating-point results -/

/-- An effect writes the value that the form's table gives and raises its flags. -/
def ScalarFloatForm.WrittenBy (x : ScalarFloatForm) (s : State) (e : Eff) : Prop :=
  e = .ok (raise (destOf s x.d (BitVec.ofNat 64 (x.f (sourceOf s x.a).toNat (sreg s x.b.toNat).toNat).1))
    (x.f (sourceOf s x.a).toNat (sreg s x.b.toNat).toNat).2)

theorem scalarResult_eq (s : State) {d : BitVec 8} (hd : isDest d) (r : LaneRes) :
    scalarResult s d r = .ok (raise (destOf s d r.1) r.2) := by
  unfold scalarResult
  rw [writeS_dest s d _ hd]
  rfl

section
variable {x : ScalarFloatForm} {s : State} (ha : isSource x.a) (hd : isDest x.d) (hres : (s.core s.curCore).resFp = false)
include ha hd hres

theorem writtenBy_sfOp : x.WrittenBy s (sfOp s x.d x.a x.b x.f) := by
  unfold sfOp
  rw [readS_bind s ha, residueFp_bind s hres]
  exact scalarResult_eq s hd _

theorem writtenBy_sfCvt {r : BitVec 3} (hr : decide (5 ≤ r.toNat) = false) {f : Nat → W64 → Nat × Flags}
    (h : ∀ u v : W64, f r.toNat u = x.f u.toNat v.toNat) : x.WrittenBy s (sfCvt s x.d x.a r f) := by
  unfold sfCvt needRound
  rw [need_bind (roundingOk hr), readS_bind s ha, residueFp_bind s hres, h _ (sreg s x.b.toNat)]
  exact scalarResult_eq s hd _
end

/-- Each row of R133 writes what its table gives. -/
theorem scalarFloatForm_runs {i : Instr} {x : ScalarFloatForm} {s : State} (hx : scalarFloatForm i = some x) (hround : badRounding i = false)
    (ha : isSource x.a) (hd : isDest x.d) (hres : (s.core s.curCore).resFp = false) : ∃ e, exec i s = run s e ∧ x.WrittenBy s e := by
  unfold scalarFloatForm at hx
  split at hx <;> cases hx
  iterate 6 exact ⟨_, rfl, writtenBy_sfOp ha hd hres⟩
  · exact ⟨_, rfl, writtenBy_sfCvt ha hd hres hround fun u _ => congrArg (fun w : W64 => cvtIF fmtF64 _ false w.toInt) (ofNat_toNat_self u).symm⟩
  · exact ⟨_, rfl, writtenBy_sfCvt ha hd hres hround fun _ _ => rfl⟩

/-- Settles O12: by the table, row by row. -/
theorem scalarFloatResults : Obligations.ScalarFloatResults := by
  unfold Obligations.ScalarFloatResults
  intro i x s hx hround ha hd hres
  obtain ⟨e, hrun, rfl⟩ := scalarFloatForm_runs hx hround ha hd hres
  exact hrun

/-! ## What stays -/

/-- A write to %fpst, of the scalars and flags, changes flags alone. -/
theorem RegistersKept.modFpst (w : Writes) (s : State) (f : Strand → Flags) (hw : w.flags = true) :
    RegistersKept w s (s.modCur (fun t => { t with fpst := f t })) := by
  have hc : (s.modCur (fun t => { t with fpst := f t })).cur = { s.cur with fpst := f s.cur } := State.cur_modCur s _
  have hs : ∀ n, sreg (s.modCur (fun t => { t with fpst := f t })) n = sreg s n := by
    intro n
    simp only [sreg, State.curFrag, Strand.fragAt, State.modCur_iss, hc]
    rfl
  have hb := SameButStrand.modCur s (fun t => { t with fpst := f t })
  refine ⟨hb, hb.memory, ?_, fun n _ _ _ => hs n, fun _ n _ _ => hs n, fun r l _ _ => ?_, fun q _ => ?_, fun h => ?_⟩
  · rw [hc]
  · rw [vreg, hc]; rfl
  · rw [preg, hc]; rfl
  · rw [hw] at h; cases h

theorem Alone.destOf {s : State} (h : Alone s) (d : BitVec 8) (v : W64) : Alone (destOf s d v) := by
  unfold Machine.destOf
  split
  · exact h.setSreg _ _
  · split
    · exact h.modCur rfl rfl
    · exact h

/-- A write to a destination field changes the register of that number, or the flags for %fpst. -/
theorem RegistersKept.destOf (s : State) (d : BitVec 8) (v : W64) :
    RegistersKept { scalar := fun n => n == d.toNat, flags := d.toNat == 208 } s (destOf s d v) := by
  unfold Machine.destOf
  split
  · exact RegistersKept.setSreg _ s _ v (beq_self_eq_true _)
  · split
    · next h => exact RegistersKept.modFpst _ s _ (beq_iff_eq.2 h)
    · exact RegistersKept.refl _ s

/-- Settles O6: the one effect of a row is the write to its destination. -/
theorem scalarFrame : Obligations.ScalarFrame := by
  unfold Obligations.ScalarFrame
  intro i x s t hx _ ha hd hshin ht
  obtain rfl := Host.Outcome.next.inj ((scalarForm_result hx ha hd hshin).symm.trans ht)
  exact (RegistersKept.destOf s x.d _).advance fun h => h.destOf _ _

end Sys2Proof.Machine
end

section
/-! PROOF. The ends of tile operations (R99 to R102, R212, R221): MMA_COMPLETE writes every element and its flags; MBATCH and MWAIT. -/
namespace Sys2Proof.Machine

/-! ## Bytes of a memory replaced from an address on -/

theorem Tab.find_append {α : Type} (i : Nat) (t u : Tab α) : Tab.find i (t ++ u) = (Tab.find i t).or (Tab.find i u) := by
  induction t with
  | nil => simp [Tab.find]
  | cons e t ih =>
    obtain ⟨j, v⟩ := e
    by_cases h : j = i <;> simp [Tab.find, h, ih]

theorem Tab.find_filter {α : Type} (keep : Nat → Bool) (i : Nat) (t : Tab α) :
    Tab.find i (t.filter (fun e => keep e.1)) = if keep i then Tab.find i t else none := by
  induction t with
  | nil => simp [Tab.find]
  | cons e t ih =>
    obtain ⟨j, v⟩ := e
    by_cases hj : j = i
    · subst hj
      by_cases hk : keep j = true
      · simp [Tab.find, hk]
      · simpa [hk] using ih
    · by_cases hk : keep j = true
      · simp [Tab.find, hk, hj, ih]
      · simp [Tab.find, hk, hj, ih]

/-- The memory that holds bytes from an address on and nothing else. -/
def Mem.listed (lo : Nat) (b : Bytes) : Mem := (b.zip (upFrom lo b.length)).filterMap (fun x => if x.1 = 0 then none else some (x.2, x.1))

theorem Mem.listed_cons (lo : Nat) (x : Byte) (xs : Bytes) :
    Mem.listed lo (x :: xs) = if x = 0 then Mem.listed (lo + 1) xs else (lo, x) :: Mem.listed (lo + 1) xs := by
  unfold Mem.listed
  rw [List.length_cons, upFrom, List.zip_cons_cons, List.filterMap_cons]
  split <;> split <;> simp_all

theorem Mem.find_listed_outside (b : Bytes) : ∀ {lo i : Nat}, i < lo ∨ lo + b.length ≤ i → Tab.find i (Mem.listed lo b) = none := by
  induction b with
  | nil => exact fun _ => rfl
  | cons x xs ih =>
    intro lo i h
    rw [List.length_cons] at h
    have hne : lo ≠ i := by omega
    have hrest := ih (lo := lo + 1) (i := i) (by omega)
    rw [Mem.listed_cons]
    split
    · exact hrest
    · rw [Tab.find, if_neg hne, hrest]

theorem Mem.byte_listed (b : Bytes) : ∀ lo k, k < b.length → Mem.byte (Mem.listed lo b) (lo + k) = b.getD k 0 := by
  induction b with
  | nil => exact fun _ _ h => absurd h (Nat.not_lt_zero _)
  | cons x xs ih =>
    intro lo k hk
    rw [Mem.listed_cons]
    cases k with
    | zero =>
      have hout := Mem.find_listed_outside xs (lo := lo + 1) (i := lo) (.inl (Nat.lt_succ_self lo))
      split
      · next hx => simp [Mem.byte, Tab.get, hout, hx]
      · simp [Mem.byte, Tab.get, Tab.find]
    | succ k =>
      have hrest := ih (lo + 1) k (Nat.lt_of_succ_lt_succ hk)
      rw [show lo + 1 + k = lo + (k + 1) by omega] at hrest
      rw [List.getD_cons_succ, ← hrest]
      split
      · rfl
      · unfold Mem.byte Tab.get
        rw [Tab.find, if_neg (by omega)]

/-- A byte after bytes have been replaced: a new one, or what was there before. -/
theorem Mem.byte_splice (m : Mem) (lo i : Nat) (b : Bytes) :
    Mem.byte (Mem.splice m lo b) i = if lo ≤ i ∧ i < lo + b.length then b.getD (i - lo) 0 else Mem.byte m i := by
  have hfind : Tab.find i (Mem.splice m lo b) =
      ((if i < lo then Tab.find i m else none).or (Tab.find i (Mem.listed lo b))).or (if lo + b.length ≤ i then Tab.find i m else none) := by
    have hbelow := Tab.find_filter (fun j => decide (j < lo)) i m
    have habove := Tab.find_filter (fun j => decide (lo + b.length ≤ j)) i m
    simp only [decide_eq_true_eq] at hbelow habove
    unfold Mem.splice
    rw [Tab.find_append, Tab.find_append, hbelow, habove]
    rfl
  unfold Mem.byte Tab.get
  rw [hfind]
  by_cases hin : lo ≤ i ∧ i < lo + b.length
  · have hbyte := Mem.byte_listed b lo (i - lo) (by omega)
    rw [show lo + (i - lo) = i by omega] at hbyte
    rw [if_pos hin, if_neg (by omega), if_neg (by omega), ← hbyte, Option.none_or, Option.or_none]
    rfl
  · rw [if_neg hin, Mem.find_listed_outside b (by omega), Option.or_none]
    by_cases hlo : i < lo
    · rw [if_pos hlo, if_neg (by omega), Option.or_none]
    · rw [if_neg hlo, if_pos (by omega), Option.none_or]

theorem Mem.read_eq_of_bytes {m : Mem} : ∀ {b : Bytes} {a : Nat}, (∀ k, k < b.length → Mem.byte m (a + k) = b.getD k 0) → Mem.read m a b.length = b := by
  intro b
  induction b with
  | nil => exact fun _ => rfl
  | cons x xs ih =>
    intro a h
    rw [List.length_cons, Mem.read, ih fun k hk => ?_]
    · rw [show Mem.byte m a = x from h 0 (Nat.succ_pos _)]
    · rw [Nat.add_assoc, Nat.add_comm 1 k]
      exact h (k + 1) (Nat.succ_lt_succ hk)

/-! ## A fold that gathers bytes and flags -/

theorem foldl_gather {α : Type} (g : α → Bytes) (h : α → Flags) (l : List α) : ∀ r : Bytes × Flags,
    l.foldl (fun r e => (r.1 ++ g e, r.2 ||| h e)) r = (r.1 ++ l.flatMap g, l.foldl (fun a e => a ||| h e) r.2) := by
  induction l with
  | nil => exact fun r => by simp
  | cons x l ih => exact fun r => by simp [ih]

theorem length_flatMap_upFrom {n : Nat} {g : Nat → Bytes} (h : ∀ e, (g e).length = n) (c lo : Nat) : ((upFrom lo c).flatMap g).length = n * c := by
  rw [List.length_flatMap, upFrom_eq, List.map_map]
  simp [Function.comp_def, h, Nat.mul_comm]

/-- A byte of pieces of one length put end to end. -/
theorem getD_flatMap_upFrom {n : Nat} {g : Nat → Bytes} (h : ∀ e, (g e).length = n) {k : Nat} (hk : k < n) (c : Nat) :
    ∀ lo e, e < c → ((upFrom lo c).flatMap g).getD (n * e + k) 0 = (g (lo + e)).getD k 0 := by
  induction c with
  | zero => exact fun _ _ he => absurd he (Nat.not_lt_zero _)
  | succ c ih =>
    intro lo e he
    rw [upFrom, List.flatMap_cons]
    cases e with
    | zero => rw [Nat.mul_zero, Nat.zero_add, List.getD_append _ _ _ _ (by rw [h]; exact hk)]; rfl
    | succ e =>
      rw [List.getD_append_right _ _ _ _ (by rw [h, Nat.mul_succ]; omega), h, show n * (e + 1) + k - n = n * e + k by rw [Nat.mul_succ]; omega,
        ih _ _ (Nat.lt_of_succ_lt_succ he)]
      congr 2
      omega

/-! ## What an MMA leaves -/

/-- Element e of the accumulator of an MMA, in the order of its bytes (R59). -/
def mmaElement (o : TileOp) (fa fb : MatFmt) (kind : AccKind) (tiles : Mem) (e : Nat) : Nat × Flags :=
  mmaElem o.src (matDesc o.a) (matDesc o.b) (o.md.testBit 1) (o.md.testBit 2) fa fb kind
    (if o.md.testBit 0 then natLE (Mem.read tiles (o.tile * tileBytes + kind.bytes * e) kind.bytes) else 0) (e / 128) (e % 128)

/-- The bytes and flags so far, and those of one element more. -/
def mmaStep (o : TileOp) (fa fb : MatFmt) (kind : AccKind) (tiles : Mem) (r : Bytes × Flags) (e : Nat) : Bytes × Flags :=
  (r.1 ++ bytesLE (mmaElement o fa fb kind tiles e).1 kind.bytes, r.2 ||| (mmaElement o fa fb kind tiles e).2)

theorem mmaResult_eq {o : TileOp} {kind : AccKind} {fa fb : MatFmt} (hk : pairFormats (matDesc o.a).code (matDesc o.b).code = some kind)
    (ha : matFmt (matDesc o.a).code = some fa) (hb : matFmt (matDesc o.b).code = some fb) (tiles : Mem) :
    mmaResult o tiles = (upFrom 0 16384).foldl (mmaStep o fa fb kind tiles) ([], 0) := by
  unfold mmaResult
  dsimp only
  rw [hk, ha, hb]
  rfl

theorem foldl_mmaStep (o : TileOp) (fa fb : MatFmt) (kind : AccKind) (tiles : Mem) (l : List Nat) : l.foldl (mmaStep o fa fb kind tiles) ([], 0) =
    (l.flatMap (fun e => bytesLE (mmaElement o fa fb kind tiles e).1 kind.bytes), l.foldl (fun a e => a ||| (mmaElement o fa fb kind tiles e).2) 0) :=
  foldl_gather (fun e => bytesLE (mmaElement o fa fb kind tiles e).1 kind.bytes) (fun e => (mmaElement o fa fb kind tiles e).2) l ([], 0)

/-- Clearing marks changes the marks of one ply alone. -/
theorem ply_clearBad (s : State) (p : Nat) (hit : Bad → Bool) :
    ∃ b, ∀ q, (clearBad s p hit).ply q = if q = p then { s.ply q with bad := b } else s.ply q := by
  rcases clearBad_eq s p hit with h | ⟨b, a, g, h⟩
  · refine ⟨(s.ply p).bad, fun q => ?_⟩
    rw [h]
    split
    · next hq => rw [hq]
    · rfl
  · refine ⟨b, fun q => ?_⟩
    rw [h]
    exact State.ply_modPly_eq s p q (fun y => { y with bad := b })

theorem home_clearBad (s : State) (p : Nat) (hit : Bad → Bool) : (clearBad s p hit).home = s.home := by
  rcases clearBad_eq s p hit with h | ⟨b, a, g, h⟩ <;> rw [h]
  rfl

theorem home_dropFlips (s : State) (hit : Flip → Bool) : (dropFlips s hit).home = s.home := by
  unfold dropFlips
  dsimp only
  split <;> rfl

/-- A write of a ply's tiles. -/
theorem ply_tileWrite (s : State) (p lo : Nat) (b : Bytes) : ∃ bad, ∀ q, (tileWrite s p lo b).ply q =
    if q = p then { s.ply q with bad := bad, tiles := Mem.splice (s.ply q).tiles lo b } else s.ply q := by
  obtain ⟨bad, h⟩ := ply_clearBad (dropFlips s (flipInTile (s.ply p) lo (lo + b.length))) p
    (fun x => x.kind == 6 && decide (lo ≤ tileBytes * x.reg + 8 * x.sub) && decide (tileBytes * x.reg + 8 * x.sub + 8 ≤ lo + b.length))
  have hflips : ∀ hit q, (dropFlips s hit).ply q = s.ply q := fun hit q => by
    rw [State.ply, State.ply, (State.work_eq (work_dropFlips s hit)).1]
  refine ⟨bad, fun q => ?_⟩
  unfold tileWrite
  dsimp only
  rw [State.ply_modPly_eq, h, hflips]
  split <;> rfl

theorem home_tileWrite (s : State) (p lo : Nat) (b : Bytes) : (tileWrite s p lo b).home = s.home :=
  (home_clearBad _ _ _).trans (home_dropFlips _ _)

/-- The state that MMA_COMPLETE leaves: the accumulator written, the operation gone, the flags set (R212). -/
def mmaDone (s : State) (p : Nat) (o : TileOp) (id : Nat) (r : Bytes × Flags) : State :=
  (retireTile (tileWrite s p (o.tile * tileBytes) r.1) p id).modStrand p o.strand (fun t => { t with fpst := t.fpst ||| r.2 })

theorem exec_mmaComplete {s : State} {id p : Nat} {o : TileOp} (ho : tileOpOf s id = some (p, o)) (hres : (s.core (s.ply p).core).resMx = false)
    (hflips : s.flips = []) (hbad : ∀ x ∈ (s.ply p).bad, x.kind ≠ 6) :
    exec (.mmaComplete id) s = .next (mmaDone s p o id (mmaResult o (s.ply p).tiles)) := by
  have hdetect : ∀ lo hi, detectTile s p lo hi = s := fun lo hi => by simp [detectTile, takeFlip, hflips]
  have herror : ∀ lo hi, tileError s p lo hi = none := fun lo hi => by
    have hnone : (s.ply p).bad.filter (badTile lo hi) = [] := List.filter_eq_nil_iff.2 fun x hx => by simp [badTile, hbad x hx]
    simp [tileError, hnone]
  change execMmaComplete id s = _
  unfold execMmaComplete mmaDone
  simp only [ho, hdetect, herror, ite_self, hres, Bool.false_eq_true, if_false]

theorem ply_mmaDone (s : State) (p : Nat) (o : TileOp) (id : Nat) (r : Bytes × Flags) : ∃ bad, ∀ q, (mmaDone s p o id r).ply q =
    if q = p then { (s.ply q).modStrand o.strand (fun t => { t with fpst := t.fpst ||| r.2 }) with
      bad := bad, tiles := Mem.splice (s.ply q).tiles (o.tile * tileBytes) r.1, tileOps := (s.ply q).tileOps.filter (fun x => x.id != id) }
    else s.ply q := by
  obtain ⟨bad, h⟩ := ply_tileWrite s p (o.tile * tileBytes) r.1
  refine ⟨bad, fun q => ?_⟩
  unfold mmaDone retireTile State.modStrand
  rw [State.ply_modPly_eq, State.ply_modPly_eq, h]
  split <;> rfl

theorem strand_mmaDone (s : State) (p : Nat) (o : TileOp) (id : Nat) (r : Bytes × Flags) (k : Nat) : ((mmaDone s p o id r).ply p).strand k =
    if k = o.strand then { (s.ply p).strand k with fpst := ((s.ply p).strand k).fpst ||| r.2 } else (s.ply p).strand k := by
  obtain ⟨bad, h⟩ := ply_mmaDone s p o id r
  rw [h, if_pos rfl]
  by_cases hk : k = o.strand
  · rw [if_pos hk, hk]
    exact Ply.strand_modStrand (s.ply p) o.strand (fun t => { t with fpst := t.fpst ||| r.2 })
  · rw [if_neg hk]
    exact Ply.strand_modStrand_ne (s.ply p) hk (fun t => { t with fpst := t.fpst ||| r.2 })

theorem home_mmaDone (s : State) (p : Nat) (o : TileOp) (id : Nat) (r : Bytes × Flags) : (mmaDone s p o id r).home = s.home :=
  home_tileWrite s p _ _

section
variable (o : TileOp) (fa fb : MatFmt) (kind : AccKind) (tiles : Mem)

theorem mmaElement_at {i j : Nat} (hj : j < 128) : mmaElement o fa fb kind tiles (128 * i + j) =
    mmaElem o.src (matDesc o.a) (matDesc o.b) (o.md.testBit 1) (o.md.testBit 2) fa fb kind
      (if o.md.testBit 0 then natLE (Mem.read tiles (65536 * o.tile + kind.bytes * (128 * i + j)) kind.bytes) else 0) i j := by
  have hdiv : (128 * i + j) / 128 = i := by omega
  have hmod : (128 * i + j) % 128 = j := by omega
  unfold mmaElement tileBytes
  rw [hdiv, hmod, Nat.mul_comm o.tile]

theorem length_mmaBytes : ((upFrom 0 16384).foldl (mmaStep o fa fb kind tiles) ([], 0)).1.length = kind.bytes * 16384 := by
  rw [foldl_mmaStep]
  exact length_flatMap_upFrom (fun _ => length_bytesLE _ _) _ _

/-- Every element stands in its place of the accumulator written. -/
theorem read_mmaBytes {e : Nat} (he : e < 16384) (m : Mem) (lo : Nat) :
    Mem.read (Mem.splice m lo ((upFrom 0 16384).foldl (mmaStep o fa fb kind tiles) ([], 0)).1) (lo + kind.bytes * e) kind.bytes =
      bytesLE (mmaElement o fa fb kind tiles e).1 kind.bytes := by
  have hlen := length_bytesLE kind.bytes (mmaElement o fa fb kind tiles e).1
  have hfit : kind.bytes * e + kind.bytes ≤ kind.bytes * 16384 := by
    rw [← Nat.mul_succ]
    exact Nat.mul_le_mul_left _ he
  refine Eq.trans (congrArg (Mem.read _ _) hlen.symm) (Mem.read_eq_of_bytes fun k hk => ?_)
  rw [hlen] at hk
  rw [Mem.byte_splice, length_mmaBytes, if_pos (by omega), show lo + kind.bytes * e + k - lo = kind.bytes * e + k by omega, foldl_mmaStep,
    getD_flatMap_upFrom (fun _ => length_bytesLE _ _) hk _ _ _ he, Nat.zero_add]

/-- The flags set are those of the elements. -/
theorem flags_mmaBytes (b : Nat) : ((upFrom 0 16384).foldl (mmaStep o fa fb kind tiles) ([], 0)).2.getLsbD b = true ↔
    ∃ i j, i < 128 ∧ j < 128 ∧ (mmaElement o fa fb kind tiles (128 * i + j)).2.getLsbD b = true := by
  rw [foldl_mmaStep, getLsbD_foldl_or, upFrom_eq]
  simp only [List.mem_map, List.mem_range, Nat.zero_add, exists_exists_and_eq_and]
  constructor
  · rintro (h | ⟨e, he, h⟩)
    · simp at h
    · exact ⟨e / 128, e % 128, by omega, by omega, by rwa [show 128 * (e / 128) + e % 128 = e by omega]⟩
  · rintro ⟨i, j, hi, hj, h⟩
    exact .inr ⟨128 * i + j, by omega, h⟩
end

/-! ## Batches (R221) -/

theorem exec_mbatch {a : BitVec 8} (ha : isDest a) (s : State) : exec (.mbatch a) s =
    .next (advance (destOf (s.modCurPly (fun y => { y with batch := s.curPly.batch + 1 })) a (s.curPly.batch + 1))) :=
  congrArg (run s) (writeS_dest _ a _ ha)

theorem exec_mwait {a : BitVec 8} (ha : isSource a) (s : State) :
    exec (.mwait a) s = run s (do need (!(s.curPly.tileOps.any (fun o => decide (o.batch ≤ (sourceOf s a).toNat)))) (hold s); .ok s) :=
  congrArg (run s) (readS_bind s ha _)

/-- Settles O39: the accumulator is the elements end to end, and what else changes of the ply is in `ply_mmaDone`. -/
theorem tileEndResults : Obligations.TileEndResults := by
  unfold Obligations.TileEndResults
  refine ⟨⟨?mma, ?move⟩, fun a s => ⟨fun ha => exec_mbatch ha s, fun ha hlt => ?_, fun ha hle => ?_⟩⟩
  case mma =>
    intro id p o s kind fa fb _ ho hres hflips hbad hk ha hb elem
    have helem : ∀ i {j}, j < 128 → elem i j = mmaElement o fa fb kind (s.ply p).tiles (128 * i + j) :=
      fun i j hj => (mmaElement_at o fa fb kind (s.ply p).tiles hj).symm
    obtain ⟨bad, hply⟩ := ply_mmaDone s p o id (mmaResult o (s.ply p).tiles)
    have hp := hply p
    rw [if_pos rfl, mmaResult_eq hk ha hb] at hp
    have hdone := exec_mmaComplete ho hres hflips hbad
    rw [mmaResult_eq hk ha hb] at hdone hply
    have hstrand := strand_mmaDone s p o id ((upFrom 0 16384).foldl (mmaStep o fa fb kind (s.ply p).tiles) ([], 0))
    have hlo : o.tile * tileBytes = 65536 * o.tile := Nat.mul_comm _ _
    refine ⟨_, hdone, fun i j hi hj => ?_, fun k hk => ?_, fun b _ => ?_, fun k => ?_, by rw [hp], by rw [hp]; rfl, fun q hq => by rw [hply, if_neg hq],
      home_mmaDone s p o id _⟩
    · rw [hp, helem i hj, hlo]
      exact read_mmaBytes o fa fb kind _ (by omega) _ _
    · rw [hp]
      refine (Mem.byte_splice _ _ _ _).trans (if_neg ?_)
      rw [hlo, length_mmaBytes]
      omega
    · rw [hstrand, if_pos rfl]
      refine (iff_of_eq (by rw [BitVec.getLsbD_or, Bool.or_eq_true])).trans (or_congr_right ((flags_mmaBytes o fa fb kind _ b).trans ?_))
      exact exists₂_congr fun i j => and_congr_right fun _ => and_congr_right fun hj => by rw [helem i hj]
    · rw [hstrand]
      split <;> rfl
  case move =>
    intro id p o s ho
    change execTileOperationComplete id s = _
    unfold execTileOperationComplete
    rw [ho]
    rfl
  · rw [exec_mwait ha]
    refine congrArg (run s) (need_bind ?_ _ _)
    simpa using hlt
  · rw [exec_mwait ha]
    refine congrArg (run s) (need_bind_stop ?_ _ _)
    simpa using hle
end Sys2Proof.Machine
end

section
/-! PROOF. A write at a scratch bank in any state (R26, R43, R365): a bit error is detected first, and leaves every byte. -/
namespace Sys2Proof.Machine

theorem bankSame_takeFlip {s t : State} {hit : Flip → Bool} {what : Flip → Nat × Nat} {f : Flip} (h : takeFlip s hit what = some (f, t)) :
    BankSame s t := by
  unfold takeFlip at h
  split at h
  · cases h
    split <;> exact .of_plies rfl (.of_plies rfl rfl rfl rfl rfl rfl rfl rfl rfl rfl rfl)
  · cases h

theorem bankSame_detectScratch (s : State) (p sec : Nat) : BankSame s (detectScratch s p sec) := by
  unfold detectScratch
  dsimp only
  split
  · next f t h =>
    refine (bankSame_takeFlip h).trans ?_
    split
    · exact .modPly t p (by intro _; rfl) (by intro _; rfl) (by intro _; rfl)
    · exact .of_plies rfl (.of_plies rfl rfl rfl rfl rfl rfl rfl rfl rfl rfl rfl)
  · exact .refl s

/-- A write of bytes at a place of one ply's scratch: those bytes of it, and no other ply's. -/
def WroteScratch (s u : State) (p off : Nat) (b : Bytes) : Prop :=
  ∀ q, (u.ply q).scratch = if q = p then Mem.write (s.ply q).scratch off b else (s.ply q).scratch

theorem scrWriteIn_wrote (s : State) (p off : Nat) (b : Bytes) :
    BankKept s (scrWriteIn s p off b) ∧ WroteScratch s (scrWriteIn s p off b) p off b := by
  have hfirst : BankSame s (journalGranule (if coversSector off b.length (off / 128) && !((s.ply p).prot) then
      dropFlips s (flipInScratch (s.ply p) (off / 128)) else detectScratch s p (off / 128)) p (off / 128)) := by
    refine BankSame.trans ?_ (bankSame_journalGranule _ p _)
    split
    · exact bankSame_dropFlips s _
    · exact bankSame_detectScratch s p _
  unfold scrWriteIn
  dsimp only
  generalize journalGranule _ p _ = t at hfirst
  refine ⟨hfirst.1.trans (BankKept.trans (BankKept.trans (.modPly t p ?_ ?_) (.loseReservations _ _)) (bankSame_wakeWaiters _ _ _ _).1), fun q => ?_⟩
  · exact fun _ => rfl
  · exact fun _ => rfl
  rw [(bankSame_wakeWaiters _ _ _ _).2, scratch_loseReservations, State.ply_modPly_eq]
  split
  · rw [← hfirst.2 q]
  · exact hfirst.2 q

theorem scrWrite_wrote (s : State) {p off : Nat} {b : Bytes} (hb : b ≠ []) (hlt : off % 128 + b.length ≤ 128) :
    BankKept s (scrWrite s p off b) ∧ WroteScratch s (scrWrite s p off b) p off b := by
  rw [scrWrite_oneSector hb hlt]
  exact scrWriteIn_wrote s p off b

/-- What comes after a write and keeps scratch, and before it. -/
theorem WroteScratch.after {s t u v : State} {p off : Nat} {b : Bytes} (hst : ∀ q, (t.ply q).scratch = (s.ply q).scratch)
    (h : WroteScratch t u p off b) (huv : ∀ q, (v.ply q).scratch = (u.ply q).scratch) : WroteScratch s v p off b := fun q => by
  rw [huv, h, hst]

end Sys2Proof.Machine
end

section
/-! PROOF. Barrier objects (R73, R74, R204, R384): an object's bytes read back as the object, and a step writes them and nothing else. -/
namespace Sys2Proof.Machine

/-! ## Numbers and their bytes -/

theorem natLE_lt (b : Bytes) : natLE b < 256 ^ b.length := by
  induction b with
  | nil => exact Nat.one_pos
  | cons x xs ih =>
    have hx : x.toNat < 256 := x.isLt
    rw [natLE, List.length_cons, Nat.pow_succ]
    omega

theorem natLE_bytesLE (n : Nat) : ∀ {v : Nat}, v < 256 ^ n → natLE (bytesLE v n) = v := by
  induction n with
  | zero =>
    intro v h
    exact (Nat.lt_one_iff.1 h).symm
  | succ n ih =>
    intro v h
    rw [Nat.pow_succ] at h
    rw [bytesLE, natLE, ih (Nat.div_lt_of_lt_mul (by omega)), BitVec.toNat_ofNat]
    omega

theorem Mem.read_add (m : Mem) (k : Nat) : ∀ n a, Mem.read m a (n + k) = Mem.read m a n ++ Mem.read m (a + n) k
  | 0, a => by rw [Nat.zero_add]; rfl
  | n + 1, a => by
    rw [Nat.add_right_comm, Mem.read, Mem.read, Mem.read_add m k n, List.cons_append, Nat.add_right_comm, Nat.add_assoc]

/-! ## An object and its bytes -/

/-- Every field of an object fits its place. -/
structure BarObj.Fits (b : BarObj) : Prop where
  phase : b.phase < 2 ^ 32
  expected : b.expected < 2 ^ 16
  arrived : b.arrived < 2 ^ 16
  expbytes : b.expbytes < 2 ^ 64
  landed : b.landed < 2 ^ 64
  flags : b.flags < 2 ^ 32

theorem BarObj.length_bytes (b : BarObj) : b.bytes.length = 28 := by simp [BarObj.bytes, length_bytesLE]

theorem readObj_fits (s : State) (q o : Nat) : (readObj s q o).Fits := by
  have hfit : ∀ a n, natLE (scrRead s q a n) < 256 ^ n := fun a n =>
    lt_of_lt_of_eq (natLE_lt _) (by rw [scrRead, Mem.read_length])
  exact ⟨hfit _ 4, hfit _ 2, hfit _ 2, hfit _ 8, hfit _ 8, hfit _ 4⟩

/-- The object where the bytes of an object stand. -/
theorem readObj_of_bytes {s : State} {q o : Nat} {b : BarObj} (hb : b.Fits) (h : Mem.read (s.ply q).scratch o 28 = b.bytes) : readObj s q o = b := by
  have hparts : ∀ {x y x' y' : Bytes} {n : Nat}, x.length = n → x'.length = n → x ++ y = x' ++ y' → x = x' ∧ y = y' :=
    fun hx hx' e => List.append_inj e (hx.trans hx'.symm)
  rw [show 28 = 4 + (2 + (2 + (8 + (8 + 4)))) from rfl, Mem.read_add, Mem.read_add, Mem.read_add, Mem.read_add, Mem.read_add] at h
  simp only [BarObj.bytes, List.append_assoc] at h
  obtain ⟨h0, h⟩ := hparts (Mem.read_length _ _ _) (length_bytesLE _ _) h
  obtain ⟨h4, h⟩ := hparts (Mem.read_length _ _ _) (length_bytesLE _ _) h
  obtain ⟨h6, h⟩ := hparts (Mem.read_length _ _ _) (length_bytesLE _ _) h
  obtain ⟨h8, h⟩ := hparts (Mem.read_length _ _ _) (length_bytesLE _ _) h
  obtain ⟨h16, h24⟩ := hparts (Mem.read_length _ _ _) (length_bytesLE _ _) h
  simp only [Nat.add_assoc, Nat.reduceAdd] at h6 h8 h16 h24
  simp only [readObj, scrRead, Nat.add_zero, h0, h4, h6, h8, h16, h24]
  rw [natLE_bytesLE 4 hb.phase, natLE_bytesLE 2 hb.expected, natLE_bytesLE 2 hb.arrived, natLE_bytesLE 8 hb.expbytes, natLE_bytesLE 8 hb.landed,
    natLE_bytesLE 4 hb.flags]

/-! ## The steps keep the fields in their places -/

theorem BarObj.Fits.complete {b : BarObj} (h : b.Fits) : b.complete.Fits :=
  ⟨Nat.mod_lt _ (by decide), h.expected, by simp [BarObj.complete], by simp [BarObj.complete], by simp [BarObj.complete], h.flags⟩

theorem BarObj.Fits.shot {b : BarObj} (h : b.Fits) : b.shot.Fits :=
  ⟨h.phase, h.expected, h.arrived, h.expbytes, h.landed, Nat.or_lt_two_pow h.flags (by decide)⟩

theorem BarObj.Fits.check {b : BarObj} (h : b.Fits) : b.check.1.Fits := by
  unfold BarObj.check
  split
  · exact h.complete
  · split
    · exact h.complete.shot
    · exact h

theorem BarObj.Fits.init {b : BarObj} (h : b.Fits) {n : Nat} (hn : n < 2 ^ 16) : (b.init n).Fits :=
  ⟨h.phase, hn, by simp [BarObj.init], by simp [BarObj.init], by simp [BarObj.init], by simp [BarObj.init]⟩

theorem BarObj.Fits.arrive {b : BarObj} (h : b.Fits) : b.arrive.1.Fits := by
  unfold BarObj.arrive
  split
  · exact h.shot
  · next hlt =>
    have hexp := h.expected
    exact BarObj.Fits.check ⟨h.phase, h.expected, by dsimp only; omega, h.expbytes, h.landed, h.flags⟩

theorem BarObj.Fits.expect {b : BarObj} (h : b.Fits) (n : Nat) : (b.expect n).1.Fits := by
  have hadd : BarObj.Fits { b with expbytes := (b.expbytes + n) % 2 ^ 64 } :=
    ⟨h.phase, h.expected, h.arrived, Nat.mod_lt _ (by decide), h.landed, h.flags⟩
  unfold BarObj.expect
  dsimp only
  split
  · exact hadd.complete
  · exact hadd

theorem BarObj.Fits.land {b : BarObj} (h : b.Fits) (n : Nat) : (b.land n).1.Fits :=
  BarObj.Fits.check ⟨h.phase, h.expected, h.arrived, h.expbytes, Nat.mod_lt _ (by decide), h.flags⟩

/-! ## A step at the bank -/

/-- An object becomes another; no other byte of scratch changes, and of strands reservations and kept answers alone. -/
structure Stepped (s u : State) (q o : Nat) (b : BarObj) : Prop where
  obj : readObj u q o = b
  others : ∀ k, (k < o ∨ o + 28 ≤ k) → Mem.byte (u.ply q).scratch k = Mem.byte (s.ply q).scratch k
  plies : ∀ p, p ≠ q → (u.ply p).scratch = (s.ply p).scratch
  resv : ReservationsOnly s u

theorem WroteScratch.stepped {s u : State} {q o : Nat} {b : BarObj} (hb : b.Fits) (h : WroteScratch s u q o b.bytes) (hr : ReservationsOnly s u) :
    Stepped s u q o b := by
  have hq : (u.ply q).scratch = Mem.write (s.ply q).scratch o b.bytes := by rw [h, if_pos rfl]
  refine ⟨readObj_of_bytes hb ?_, fun k hk => ?_, fun p hp => by rw [h, if_neg hp], hr⟩
  · rw [hq, ← BarObj.length_bytes b, Mem.read_write]
  · rw [hq, Mem.byte_write_outside _ _ _ _ (by rw [BarObj.length_bytes]; exact hk)]

theorem bankSame_barrierEnds (s : State) (p q : Nat) : BankSame s (barrierEnds s p q) := by
  unfold barrierEnds
  split
  · exact .refl s
  · refine BankSame.trans ?_ (bankSame_endProtection _ q 9)
    split
    · exact bankSame_endProtection s p 9
    · exact .refl s

theorem BankSame.readObj {s u : State} (h : BankSame s u) (q o : Nat) : readObj u q o = readObj s q o := by
  simp only [Machine.readObj, scrRead, h.2]

theorem barrierStep_stepped (s : State) (p k f : Nat) {q o : Nat} (halign : o % 32 = 0) {step : BarObj → BarObj × Bool}
    (hfit : (step (readObj s q o)).1.Fits) : Stepped s (barrierStep s p k f q o step) q o (step (readObj s q o)).1 := by
  have hends := bankSame_barrierEnds s p q
  obtain ⟨hkept, hwrote⟩ := scrWrite_wrote (barrierEnds s p q) (p := q) (off := o) (b := (step (readObj s q o)).1.bytes)
    (List.ne_nil_of_length_eq_add_one (BarObj.length_bytes _)) (by rw [BarObj.length_bytes]; omega)
  unfold barrierStep
  dsimp only
  rw [hends.readObj]
  split
  · have hrecord : ∀ (v : State) (r : ErrRec), BankKept (barrierEnds s p q) v → WroteScratch (barrierEnds s p q) v q o _ →
        Stepped s (writeRecord v r) q o (step (readObj s q o)).1 := fun v r hv hw =>
      (hw.after hends.2 fun i => by rw [(drainKept_writeRecord v r).ply i]).stepped hfit
        ((hends.1.resv.trans hv.resv).trans (drainKept_writeRecord v r).resv)
    exact hrecord _ _ hkept hwrote
  · exact (hwrote.after hends.2 fun _ => rfl).stepped hfit (hends.1.resv.trans hkept.resv)

/-! ## The object that an operand names -/

/-- A check that is passed. -/
theorem ite_error_ok {ε α : Type} {c : Prop} [Decidable c] {e : ε} {k : Except ε α} {v : α} (h : (if c then .error e else k) = .ok v) :
    ¬ c ∧ k = .ok v := by
  by_cases hc : c
  · rw [if_pos hc] at h
    cases h
  · rw [if_neg hc] at h
    exact ⟨hc, h⟩

/-- An effective address is aligned as its access asks, and so is the offset in scratch that it names. -/
theorem checkAddr_aligned {s : State} {c : Ctx} {base ea : W64} {off : Int} {acc : Acc} (h : checkAddr s c base off acc = .ok ea)
    (hdvd : acc.align ∣ 2 ^ 20) : acc.align ∣ bits ea 0 20 := by
  have hbig : ∀ k, 20 ≤ k → acc.align ∣ 2 ^ k := fun k hk => hdvd.trans (pow_dvd_pow 2 hk)
  have hword : ∀ t p n, acc.align ∣ n → acc.align ∣ bits (w64 (t * 2 ^ 60 + p * 2 ^ 57 + n)) 0 20 := by
    intro t p n hn
    have hsum : acc.align ∣ t * 2 ^ 60 + p * 2 ^ 57 + n :=
      Nat.dvd_add (Nat.dvd_add ((hbig 60 (by decide)).mul_left t) ((hbig 57 (by decide)).mul_left p)) hn
    have hlow : acc.align ∣ (t * 2 ^ 60 + p * 2 ^ 57 + n) % 2 ^ 64 % 2 ^ 20 := (Nat.dvd_mod_iff hdvd).2 ((Nat.dvd_mod_iff (hbig 64 (by decide))).2 hsum)
    simpa only [bits, w64, BitVec.toNat_ofNat, Nat.shiftRight_zero] using hlow
  unfold checkAddr at h
  dsimp only at h
  obtain ⟨-, h⟩ := ite_error_ok h
  obtain ⟨-, h⟩ := ite_error_ok h
  obtain ⟨-, h⟩ := ite_error_ok h
  obtain ⟨-, h⟩ := ite_error_ok h
  obtain ⟨-, h⟩ := ite_error_ok h
  obtain ⟨-, h⟩ := ite_error_ok h
  obtain ⟨-, h⟩ := ite_error_ok h
  obtain ⟨halign, h⟩ := ite_error_ok h
  cases hseg : checkSegment s c (ptrTag base) ((ptrAddr base : Int) + off).toNat acc with
  | error e => simp [hseg] at h
  | ok w =>
    simp only [hseg] at h
    rw [← Except.ok.inj h]
    exact hword _ _ _ (Nat.dvd_of_mod_eq_zero (not_not.1 halign))

theorem scratchOf_offset {s : State} {p q o : Nat} {ea : W64} (h : scratchOf s p ea = some (q, o)) : o = bits ea 0 20 := by
  unfold scratchOf at h
  split at h
  · split at h <;> cases h
    rfl
  · obtain ⟨r, -, hr⟩ := Option.bind_eq_some_iff.1 h
    split at hr <;> cases hr
    rfl
  · cases h

/-- The offset in scratch that an aligned access names is aligned. -/
theorem scratchOf_aligned {s : State} {c : Ctx} {base ea : W64} {off : Int} {acc : Acc} {p q o : Nat} (h : checkAddr s c base off acc = .ok ea)
    (hdvd : acc.align ∣ 2 ^ 20) (hscr : scratchOf s p ea = some (q, o)) : o % acc.align = 0 := by
  rw [scratchOf_offset hscr]
  exact Nat.mod_eq_zero_of_dvd (checkAddr_aligned h hdvd)

theorem needObj_aligned {s : State} {ptr : W64} {perms : List Nat} {x : Nat × Nat} (h : needObj s ptr perms = .ok x) : x.2 % 32 = 0 := by
  unfold needObj at h
  cases hn : need ((ptrTag ptr == 1 || ptrTag ptr == 2) && ptr.toNat % 32 == 0) (illegalOperand 2) with
  | error e => rw [hn] at h; cases h
  | ok w =>
    rw [hn] at h
    unfold checkOne at h
    cases hc : checkAddr s (ctxOf s) ptr 0 ⟨perms, false, 32, 32, [1, 2]⟩ with
    | error e => rw [hc] at h; cases h
    | ok ea =>
      simp only [hc, ok_bind] at h
      split at h
      · next y hy =>
        change scratchOf s s.iss.ply ea = some y at hy
        cases h
        exact scratchOf_aligned hc (show 32 ∣ 2 ^ 20 by decide) hy
      · cases h

/-- A step of the issuing fragment on the object that its operand names. -/
theorem stepHere_stepped {s t : State} {ptr : W64} {perms : List Nat} {x : Nat × Nat} (h : needObj s ptr perms = .ok x)
    {step : BarObj → BarObj × Bool} (hfit : (step (readObj t x.1 x.2)).1.Fits) :
    Stepped t (stepHere t x step) x.1 x.2 (step (readObj t x.1 x.2)).1 :=
  barrierStep_stepped t _ _ _ (needObj_aligned h) hfit

theorem needFree_ok {s : State} {x : Nat × Nat} (h : rangeRead s s.iss.ply x.1 x.2 32 = false) : needFree s x = .ok () := by
  simp [needFree, need, h]

theorem needDest_ok {d : BitVec 8} (h : isDest d) : needDest d = .ok () := by
  have hd : decide (d.toNat ≤ 192 ∨ d.toNat = 208) = true := decide_eq_true h
  simp [needDest, need, hd]

/-! ## BINIT, BARR and BEXP -/

/-- What follows in a state alike keeps the step. -/
theorem Stepped.bankSame {s u v : State} {q o : Nat} {b : BarObj} (h : Stepped s u q o b) (k : BankSame u v) : Stepped s v q o b :=
  ⟨by rw [k.readObj, h.obj], fun j hj => by rw [k.2, h.others j hj], fun p hp => by rw [k.2, h.plies p hp], h.resv.trans k.1.resv⟩

theorem exec_binit_zero {a b : BitVec 8} {s : State} (ha : isSource a) (hb : isSource b) (hz : (sourceOf s b).toNat % 2 ^ 16 = 0) :
    exec (.binit a b) s = .next (takeTrap s { cause := 3, detail := 2 }) := by
  have hn : (bits (sourceOf s b) 0 16 != 0) = false := by rw [bits, Nat.shiftRight_zero, hz]; rfl
  change execBinit a b s = _
  unfold execBinit
  rw [readS_bind s ha, readS_bind s hb, need_bind_stop hn]
  rfl

theorem exec_binit {a b : BitVec 8} {s : State} {x : Nat × Nat} (ha : isSource a) (hb : isSource b) (hx : needObj s (sourceOf s a) [0, 1] = .ok x)
    (hfree : rangeRead s s.iss.ply x.1 x.2 32 = false) (hz : (sourceOf s b).toNat % 2 ^ 16 ≠ 0) :
    ∃ u, exec (.binit a b) s = .next (advance u) ∧ Stepped s u x.1 x.2 ((readObj s x.1 x.2).init ((sourceOf s b).toNat % 2 ^ 16)) := by
  have hbits : bits (sourceOf s b) 0 16 = (sourceOf s b).toNat % 2 ^ 16 := by simp [bits]
  have hn : (bits (sourceOf s b) 0 16 != 0) = true := by rw [hbits]; exact bne_iff_ne.2 hz
  have hstep := stepHere_stepped (t := s) hx (step := fun o => (o.init ((sourceOf s b).toNat % 2 ^ 16), false))
    ((readObj_fits s _ _).init (Nat.mod_lt _ (by decide)))
  change ∃ u, execBinit a b s = _ ∧ _
  unfold execBinit
  rw [readS_bind s ha, readS_bind s hb, need_bind hn, hx, ok_bind, needFree_ok hfree, ok_bind, run_ok, hbits]
  exact ⟨_, rfl, hstep.bankSame (.modPly _ _ (by intro _; rfl) (by intro _; rfl) (by intro _; rfl))⟩

theorem exec_bexp {a b : BitVec 8} {s : State} {x : Nat × Nat} (ha : isSource a) (hb : isSource b) (hx : needObj s (sourceOf s a) [0, 1] = .ok x)
    (hfree : rangeRead s s.iss.ply x.1 x.2 32 = false) :
    ∃ u, exec (.bexp a b) s = .next (advance u) ∧ Stepped s u x.1 x.2 ((readObj s x.1 x.2).expect (sourceOf s b).toNat).1 := by
  have hstep := stepHere_stepped (t := s) hx (step := fun o => o.expect (sourceOf s b).toNat) ((readObj_fits s _ _).expect _)
  change ∃ u, execBexp a b s = _ ∧ _
  unfold execBexp
  rw [readS_bind s ha, readS_bind s hb, hx, ok_bind, needFree_ok hfree, ok_bind, run_ok]
  exact ⟨_, rfl, hstep⟩

theorem exec_barr {a b : BitVec 8} {sc : BitVec 3} {l : BitVec 1} {s t : State} {x : Nat × Nat} (ha : isSource a) (hb : isDest b)
    (hx : needObj s (sourceOf s a) [0, 1] = .ok x) (hfree : rangeRead s s.iss.ply x.1 x.2 32 = false)
    (h0 : l = 0 → t = s) (h1 : l = 1 → releaseHere (endProtection s s.iss.ply 8) sc.toNat = .ok t) :
    ∃ u, exec (.barr a b sc l) s = .next (advance (destOf u b (BitVec.ofNat 64 (readObj t x.1 x.2).phase))) ∧
      Stepped t u x.1 x.2 (readObj t x.1 x.2).arrive.1 := by
  have hstep := stepHere_stepped (t := t) hx (step := BarObj.arrive) (readObj_fits t _ _).arrive
  change ∃ u, execBarr a b sc l s = _ ∧ _
  unfold execBarr
  rw [readS_bind s ha, needDest_ok hb, ok_bind, hx, ok_bind, needFree_ok hfree, ok_bind]
  dsimp only
  split
  · next hl =>
    rw [h1 hl, ok_bind, writeS_dest _ _ _ hb, run_ok]
    exact ⟨_, rfl, hstep⟩
  · next hl =>
    rw [← h0 (by bv_omega), ok_bind, writeS_dest _ _ _ hb, run_ok]
    exact ⟨_, rfl, hstep⟩

/-! ## The counts of R73 -/

theorem BarObj.expect_completes {b : BarObj} {n : Nat} (ha : b.arrived = b.expected) (hl : (b.expbytes + n) % 2 ^ 64 = b.landed) :
    (b.expect n).1 = b.complete := by
  unfold BarObj.expect
  dsimp only
  rw [if_pos ⟨ha, hl⟩]
  rfl

theorem BarObj.expect_waits {b : BarObj} {n : Nat} (h : ¬ (b.arrived = b.expected ∧ (b.expbytes + n) % 2 ^ 64 = b.landed)) :
    (b.expect n).1 = { b with expbytes := (b.expbytes + n) % 2 ^ 64 } := by
  unfold BarObj.expect
  dsimp only
  rw [if_neg h]

theorem BarObj.arrive_past {b : BarObj} (h : b.expected ≤ b.arrived) : b.arrive.1 = b.shot := by
  unfold BarObj.arrive
  rw [if_pos h]

/-- An arrival that the object expects is counted, and then the counts decide. -/
theorem BarObj.arrive_counts {b : BarObj} (h : b.arrived < b.expected) : b.arrive.1 =
    if b.arrived + 1 = b.expected ∧ b.expbytes = b.landed then b.complete
    else if b.arrived + 1 = b.expected ∧ b.expbytes < b.landed then b.complete.shot
    else { b with arrived := b.arrived + 1 } := by
  unfold BarObj.arrive BarObj.check
  rw [if_neg (Nat.not_le.2 h)]
  dsimp only
  split
  · rfl
  · split <;> rfl

/-- Settles O48: a step reads the object, writes its 28 bytes within one sector and, where it overshoots, a record. -/
theorem barrierObjectResults : Obligations.BarrierObjectResults := by
  unfold Obligations.BarrierObjectResults
  dsimp only
  refine ⟨fun a b s x ha hb hx hfree => ⟨fun hz => ?_, ?_⟩, fun a b s ha hb hz => exec_binit_zero ha hb hz,
    fun a b sc l s t x ha hb hx hfree h0 h1 => ?_⟩
  · obtain ⟨u, hu, hobj, hothers, hplies, hresv⟩ := exec_binit ha hb hx hfree hz
    exact ⟨u, hu, hobj, hothers, hplies, hresv⟩
  · obtain ⟨u, hu, hobj, hothers, hplies, hresv⟩ := exec_bexp ha hb hx hfree
    refine ⟨u, hu, fun harr hland => ⟨?_, hothers, hplies, hresv⟩, fun h => ⟨?_, hothers, hplies, hresv⟩⟩
    · rw [hobj, BarObj.expect_completes harr hland]
      rfl
    · rw [hobj, BarObj.expect_waits h]
  · obtain ⟨u, hu, hobj, hothers, hplies, hresv⟩ := exec_barr ha hb hx hfree h0 h1
    refine ⟨u, hu, fun hlt => ⟨hobj.trans ?_, hothers, hplies, hresv⟩, fun heq hland => ⟨hobj.trans ?_, hothers, hplies, hresv⟩,
      fun heq hland => ⟨hobj.trans ?_, hothers, hplies, hresv⟩, fun heq hland => ⟨hobj.trans ?_, hothers, hplies, hresv⟩,
      fun hpast => ⟨hobj.trans ?_, hothers, hplies, hresv⟩⟩
    · rw [BarObj.arrive_counts (by omega), if_neg (by omega), if_neg (by omega)]
    · rw [BarObj.arrive_counts (by omega), if_neg (by omega), if_neg (by omega)]
    · rw [BarObj.arrive_counts (by omega), if_pos ⟨heq, hland.symm⟩]
      rfl
    · rw [BarObj.arrive_counts (by omega), if_neg (by omega), if_pos ⟨heq, hland⟩]
      rfl
    · rw [BarObj.arrive_past hpast]
      rfl

end Sys2Proof.Machine
end

section
/-! PROOF. Reads at the homes (R10, R365) and table walks (R258): beyond the memories behind the homes they change notes of errors alone, and where
clean sectors agree with HBM no byte of device memory changes. -/
namespace Sys2Proof.Machine

/-- The state without the memories behind the homes, the notes of errors, and what counts traffic and draws. -/
def State.outside (s : State) : State :=
  { s with draws := 0, dies := [], home := [], hbm := [], l2 := [], homePoison := [], hbmPoison := [], wsPoison := [], flips := [],
           pf0 := {}, plat := {} }

/-- A step of the homes that only reads. -/
structure HomeRead (s t : State) : Prop where
  outside : t.outside = s.outside
  homes : HomesKept s t
  bytes : HomesAgree s → ∀ a, Mem.byte t.home a = Mem.byte s.home a

theorem HomeRead.refl (s : State) : HomeRead s s := ⟨rfl, .refl s, fun _ _ => rfl⟩

theorem HomeRead.trans {s t u : State} (h : HomeRead s t) (k : HomeRead t u) : HomeRead s u :=
  ⟨k.outside.trans h.outside, h.homes.trans k.homes, fun hs a => (k.bytes (h.homes.homesAgree hs) a).trans (h.bytes hs a)⟩

theorem HomeRead.foldl {α : Type} {f : State → α → State} (h : ∀ s x, HomeRead s (f s x)) (l : List α) : ∀ s, HomeRead s (l.foldl f s) := by
  induction l with
  | nil => exact HomeRead.refl
  | cons x l ih => exact fun s => (h s x).trans (ih _)

/-- A change of notes alone. -/
theorem HomeRead.of_kept {s t : State} (ho : t.outside = s.outside) (hk : t.kept = s.kept) : HomeRead s t := by
  have hhome : t.home = s.home := congrArg (·.1) hk
  exact ⟨ho, .of_kept hk, fun _ _ => by rw [hhome]⟩

/-! ## Notes of errors -/

theorem outside_noteInjection (s : State) (r : ErrRec) (n : Nat) : (noteInjection s r n).outside = s.outside := by
  unfold noteInjection
  split
  · split <;> rfl
  · rfl

theorem homeRead_writePackageRecord (s : State) (r : ErrRec) (about : Option Nat) : HomeRead s (writePackageRecord s r about) :=
  .of_kept (outside_noteInjection s r _) (kept_writePackageRecord s r about)

theorem homeRead_addRemap (s : State) (kind die place spare : Nat) (pend : Bool) : HomeRead s (addRemapAt s kind die place spare pend).1 := by
  refine .of_kept ?_ (kept_addRemapAt s kind die place spare pend)
  unfold addRemapAt
  dsimp only
  split <;> rfl

theorem homeRead_noteDouble (s : State) (d kind place n : Nat) : HomeRead s (noteDouble s d kind place n).1 := by
  refine .of_kept ?_ (kept_noteDouble s d kind place n)
  unfold noteDouble
  dsimp only
  split <;> rfl

theorem homeRead_dropFlips (s : State) (hit : Flip → Bool) : HomeRead s (dropFlips s hit) := by
  refine .of_kept ?_ (kept_dropFlips s hit)
  unfold dropFlips
  dsimp only
  split <;> rfl

theorem homeRead_takeFlip {s t : State} {hit : Flip → Bool} {what : Flip → Nat × Nat} {f : Flip} (h : takeFlip s hit what = some (f, t)) :
    HomeRead s t := by
  refine .of_kept ?_ (kept_takeFlip h)
  unfold takeFlip at h
  split at h
  · cases h
    split <;> rfl
  · cases h

theorem homeRead_countHome (s : State) (pa : Nat) : HomeRead s (countHome s pa) := by
  refine .of_kept ?_ (kept_countHome s pa)
  unfold countHome
  split <;> rfl

theorem homeRead_doubleInRow (s : State) (d kind row : Nat) : HomeRead s (doubleInRow s d kind row) := by
  unfold doubleInRow
  dsimp only
  generalize (if kind = 4 then Config.hbmSpareRows d else 64) = spares
  split
  · exact .refl s
  · split
    · have hnote := (homeRead_noteDouble s d kind row 2).trans (homeRead_addRemap _ kind d row
        (s.pf0.remap.filter fun x => bits x.2 60 4 == kind && bits x.2 56 4 == d).length true)
      split
      · next t h =>
        rw [h] at hnote
        exact hnote.trans (homeRead_writePackageRecord t _ _)
      · next t h =>
        rw [h] at hnote
        exact hnote
    · exact homeRead_noteDouble s d kind row 2

/-! ## Sectors are found, filled and dropped -/

theorem homeRead_writeBack (s : State) (sec : Nat) : HomeRead s (writeBack s sec) := by
  have h := homesKept_writeBack s sec
  revert h
  unfold writeBack
  split
  · split
    · exact fun h => ⟨rfl, h, fun _ _ => rfl⟩
    · exact fun h => ⟨rfl, h, fun _ _ => rfl⟩
  · exact fun h => ⟨rfl, h, fun _ _ => rfl⟩

theorem dirtyAt_writeBack (s : State) (sec : Nat) : dirtyAt (writeBack s sec) sec = false := by
  unfold writeBack
  split
  · next l hl =>
    split
    · simp [dirtyAt]
    · next hd => simpa [dirtyAt, Tab.get, hl] using hd
  · next hnone => simp [dirtyAt, Tab.get, hnone]

/-- A clean sector is dropped: its home answers from HBM, with the same bytes. -/
theorem homeRead_l2Drop {s : State} {sec : Nat} (hclean : dirtyAt s sec = false) : HomeRead s (l2Drop s sec) := by
  refine ⟨?_, homesKept_l2Drop s sec, fun hs a => ?_⟩
  · unfold l2Drop
    split <;> rfl
  · unfold l2Drop
    split
    · dsimp only
      rw [Mem.byte_copySector]
      split
      · next ha => exact ((homesAgree_iff s).1 hs sec hclean a ha).symm
      · rfl
    · rfl

theorem homeRead_detectL2 (s : State) (sec : Nat) : HomeRead s (detectL2 s sec).1 := by
  unfold detectL2
  split
  · exact .refl s
  · next l hl =>
    split
    · exact .refl s
    · next f t ht =>
      have hst := homeRead_takeFlip ht
      have hl2 : t.l2 = s.l2 := congrArg (·.2.2.1) (kept_takeFlip ht)
      dsimp only
      split
      · exact hst.trans (.of_kept rfl (kept_countFixed t _))
      · split
        · exact hst.trans (.of_kept rfl rfl)
        · next hd =>
          have hclean : dirtyAt t sec = false := by simpa [dirtyAt, Tab.get, hl2, hl] using hd
          exact (hst.trans (homeRead_l2Drop hclean)).trans (.of_kept rfl (kept_modDie _ _ _))

theorem homeRead_l2Leave (s : State) (sec : Nat) : HomeRead s (l2Leave s sec) :=
  ((homeRead_detectL2 s sec).trans (homeRead_writeBack _ sec)).trans (homeRead_l2Drop (dirtyAt_writeBack _ sec))

theorem homeRead_retireWay (s : State) (sl way : Nat) : HomeRead s (retireWay s sl way) := by
  have hleft := HomeRead.foldl homeRead_l2Leave ((slicePresent s sl).filter (fun e => Config.l2Way e % 32 == way)) s
  unfold retireWay
  dsimp only
  generalize ((slicePresent s sl).filter (fun e => Config.l2Way e % 32 == way)).foldl l2Leave s = t at hleft
  have hremap : ∀ d place spare, HomeRead t (addRemap t 3 d place spare).1 := fun d place spare => homeRead_addRemap t 3 d place spare false
  have hdie : ∀ (u : State) d f, HomeRead u (u.modDie d f) := fun u d f => .of_kept rfl (kept_modDie u d f)
  refine hleft.trans ?_
  generalize hr : (if (t.die (sl / 32)).wayUsed.contains (sl % 32) then (t, false) else addRemap t 3 (sl / 32) (sl % 32 * 32 + way) 32) = r
  have hspare : HomeRead t r.1 := by
    rw [← hr]
    split
    · exact .refl t
    · exact hremap _ _ _
  split
  · refine hspare.trans (HomeRead.trans ?_ (homeRead_writePackageRecord _ _ _))
    exact hdie _ _ _
  · exact (hremap _ _ _).trans (hdie _ _ _)

theorem homeRead_doubleInWay (s : State) (sec : Nat) : HomeRead s (doubleInWay s sec) := by
  have hnote := homeRead_noteDouble s (paSlice (sec * 128) / 32) 3 (paSlice (sec * 128) % 32 * 32 + Config.l2Way sec % 32) 4
  unfold doubleInWay
  dsimp only
  split
  · exact hnote.trans (homeRead_retireWay _ _ _)
  · exact hnote

theorem homeRead_detectL2_doubleInWay (s : State) (sec : Nat) :
    HomeRead s (if (detectL2 s sec).2 then doubleInWay (detectL2 s sec).1 sec else (detectL2 s sec).1) := by
  split
  · exact (homeRead_detectL2 s sec).trans (homeRead_doubleInWay _ sec)
  · exact homeRead_detectL2 s sec

theorem homeRead_l2Clean (s : State) (sec : Nat) : HomeRead s (l2Clean s sec) :=
  (homeRead_detectL2_doubleInWay s sec).trans (homeRead_writeBack _ sec)

theorem homeRead_detectHome (s : State) (sec : Nat) : HomeRead s (detectHome s sec) := by
  unfold detectHome
  dsimp only
  refine (homeRead_detectL2_doubleInWay s sec).trans ?_
  generalize (if (detectL2 s sec).2 then doubleInWay (detectL2 s sec).1 sec else (detectL2 s sec).1) = r
  split
  · exact .refl r
  · split
    · next f t ht =>
      have hrt := homeRead_takeFlip ht
      split
      · exact hrt.trans (.of_kept rfl (kept_countFixed t _))
      · refine hrt.trans (HomeRead.trans ?_ (homeRead_doubleInRow _ _ _ _))
        exact .of_kept rfl rfl
    · exact .refl r

theorem homeRead_detectWs (s : State) (sec : Nat) : HomeRead s (detectWs s sec) := by
  unfold detectWs
  split
  · next f t ht =>
    have hst := homeRead_takeFlip ht
    split
    · refine hst.trans (HomeRead.trans ?_ (homeRead_doubleInRow _ _ _ _))
      exact .of_kept rfl rfl
    · exact hst.trans (.of_kept rfl (kept_countFixed t _))
  · exact .refl s

/-! ## Reads at the homes, and table walks -/

theorem homeRead_l2Fill (s : State) (sec prio : Nat) : HomeRead s (l2Fill s sec prio) := by
  have hkept := homesKept_l2Fill s sec prio
  revert hkept
  unfold l2Fill
  split
  · exact fun hkept => ⟨rfl, hkept, fun _ _ => rfl⟩
  · dsimp only
    intro hkept
    have hput : ∀ t hit, HomeRead s t → (HomesKept s { dropFlips t hit with l2 := Tab.put sec { dirty := false, prio := prio } (dropFlips t hit).l2 }) →
        HomeRead s { dropFlips t hit with l2 := Tab.put sec { dirty := false, prio := prio } (dropFlips t hit).l2 } :=
      fun t hit ht hk => ⟨(ht.trans (homeRead_dropFlips t hit)).outside, hk, (ht.trans (homeRead_dropFlips t hit)).bytes⟩
    refine hput _ _ ?_ hkept
    split
    · exact .refl s
    · split
      · next v _ => exact ((homeRead_l2Clean s v).trans (homeRead_l2Drop (dirtyAt_writeBack _ v))).trans (.of_kept rfl rfl)
      · exact .refl s

theorem homeRead_homeTouch (s : State) (pa pol : Nat) : HomeRead s (homeTouch s pa pol) := by
  have hread := (homeRead_countHome s pa).trans (homeRead_detectHome _ (pa / 128))
  unfold homeTouch
  dsimp only
  split
  · exact hread
  · exact hread.trans (homeRead_l2Fill _ _ _)

theorem homeRead_touchBuckets (v : VDev) (vn k vpn h n : Nat) : ∀ (s : State) (j : Nat), HomeRead s (touchBuckets s v vn k vpn h j n).1 := by
  induction n with
  | zero => exact fun s _ => .refl s
  | succ n ih =>
    intro s j
    unfold touchBuckets
    dsimp only
    split
    · exact (homeRead_homeTouch s _ 0).trans (ih _ _)
    · exact homeRead_homeTouch s _ 0

theorem homeRead_touchSizes (v : VDev) (vn va k : Nat) : ∀ s : State, HomeRead s (touchSizes s v vn va k) := by
  induction k with
  | zero => exact .refl
  | succ k ih =>
    intro s
    unfold touchSizes
    dsimp only
    split
    · split
      · exact homeRead_touchBuckets _ _ _ _ _ _ s 0
      · exact (homeRead_touchBuckets _ _ _ _ _ _ s 0).trans (ih _)
    · exact ih s

theorem homeRead_walkTouch (s : State) (vn va : Nat) : HomeRead s (walkTouch s vn va) := homeRead_touchSizes _ vn va 16 s

theorem homeRead_touchRank (s : State) (reel rank : Nat) : HomeRead s (touchRank s reel rank) := by
  unfold touchRank
  dsimp only
  split
  · exact .refl s
  · split
    · exact (homeRead_walkTouch s _ _).trans (homeRead_homeTouch _ _ 0)
    · exact homeRead_walkTouch s _ _

end Sys2Proof.Machine
end

section
/-! PROOF. Loads (R65, R134, R183): translation and the read paths change caches, notes of errors and detected errors alone. -/
namespace Sys2Proof.Machine

/-- What no load changes, beyond plies and device memory. -/
def State.tables (s : State) :
    Issue × Mem × Tab Skein × Tab Reel × List Job × List Xfer × Tab Queue × Tab VDev × Nat × List RedOp :=
  (s.iss, s.ws, s.skeins, s.reels, s.jobs, s.xfers, s.queues, s.vdevs, s.clock, s.reds)

/-- What a load leaves: of plies the poison that has been detected changes alone. -/
structure LoadKept (s t : State) : Prop where
  ply : ∀ q, t.ply q = { s.ply q with scrPoison := (t.ply q).scrPoison }
  tables : t.tables = s.tables
  homes : HomesAgree s → HomesAgree t ∧ ∀ a, Mem.byte t.home a = Mem.byte s.home a

/-- What a translation leaves: every ply, and what cores hold of their log and in their L1. -/
structure Translated (s t : State) : Prop extends LoadKept s t where
  plies : t.plies = s.plies
  cores : ∀ c, (t.core c).log = (s.core c).log ∧ (t.core c).l1 = (s.core c).l1

theorem LoadKept.refl (s : State) : LoadKept s s := ⟨fun _ => rfl, rfl, fun hs => ⟨hs, fun _ => rfl⟩⟩

theorem LoadKept.trans {s t u : State} (h : LoadKept s t) (k : LoadKept t u) : LoadKept s u := by
  refine ⟨fun q => by rw [k.ply, h.ply], k.tables.trans h.tables, fun hs => ?_⟩
  obtain ⟨ht, hst⟩ := h.homes hs
  obtain ⟨hu, htu⟩ := k.homes ht
  exact ⟨hu, fun a => (htu a).trans (hst a)⟩

theorem LoadKept.foldl {α : Type} {f : State → α → State} (h : ∀ s x, LoadKept s (f s x)) (l : List α) : ∀ s, LoadKept s (l.foldl f s) := by
  induction l with
  | nil => exact LoadKept.refl
  | cons x l ih => exact fun s => (h s x).trans (ih _)

theorem LoadKept.of_snd {α : Type} {s u : State} {r : α × State} {a : α} (h : LoadKept s r.2) (e : r = (a, u)) : LoadKept s u := by
  rwa [e] at h

/-- A change outside plies, tables and device memory. -/
theorem LoadKept.of_eq {s t : State} (hp : t.plies = s.plies) (ht : t.tables = s.tables) (hhome : t.home = s.home) (hhbm : t.hbm = s.hbm)
    (hl2 : t.l2 = s.l2) : LoadKept s t := by
  refine ⟨fun q => by rw [State.ply, State.ply, hp], ht, fun hs => ⟨?_, fun a => by rw [hhome]⟩⟩
  unfold HomesAgree at hs ⊢
  rwa [hhome, hhbm, hl2]

theorem HomeRead.plies {s t : State} (h : HomeRead s t) : t.plies = s.plies := by
  change t.outside.plies = s.outside.plies
  rw [h.outside]

theorem HomeRead.cores {s t : State} (h : HomeRead s t) : t.cores = s.cores := by
  change t.outside.cores = s.outside.cores
  rw [h.outside]

theorem HomeRead.tables {s t : State} (h : HomeRead s t) : t.tables = s.tables := by
  change t.outside.tables = s.outside.tables
  rw [h.outside]

theorem HomeRead.loadKept {s t : State} (h : HomeRead s t) : LoadKept s t :=
  ⟨fun q => by rw [State.ply, State.ply, h.plies], h.tables, fun hs => ⟨h.homes.homesAgree hs, h.bytes hs⟩⟩

theorem Translated.refl (s : State) : Translated s s := ⟨.refl s, rfl, fun _ => ⟨rfl, rfl⟩⟩

theorem Translated.trans {s t u : State} (h : Translated s t) (k : Translated t u) : Translated s u :=
  ⟨h.toLoadKept.trans k.toLoadKept, k.plies.trans h.plies, fun c => ⟨(k.cores c).1.trans (h.cores c).1, (k.cores c).2.trans (h.cores c).2⟩⟩

theorem HomeRead.translated {s t : State} (h : HomeRead s t) : Translated s t :=
  ⟨h.loadKept, h.plies, fun c => by rw [State.core, State.core, h.cores]; exact ⟨rfl, rfl⟩⟩

/-- A change of a core outside its log and its L1. -/
theorem Translated.modCore (s : State) (c : Nat) {f : Core → Core} (hlog : ∀ x, (f x).log = x.log) (hl1 : ∀ x, (f x).l1 = x.l1) :
    Translated s (s.modCore c f) := by
  refine ⟨.of_eq rfl rfl rfl rfl rfl, rfl, fun d => ?_⟩
  rw [State.core_modCore_eq]
  split
  · exact ⟨hlog _, hl1 _⟩
  · exact ⟨rfl, rfl⟩

/-- What issues, and its queue, are as before. -/
theorem LoadKept.iss {s t : State} (h : LoadKept s t) : t.iss = s.iss := congrArg (·.1) h.tables

theorem LoadKept.reds {s t : State} (h : LoadKept s t) : t.reds = s.reds := congrArg (·.2.2.2.2.2.2.2.2.2) h.tables

theorem LoadKept.curCore {s t : State} (h : LoadKept s t) : t.curCore = s.curCore := by
  unfold State.curCore State.curPly
  rw [h.iss, h.ply]

theorem LoadKept.curAccepts {s t : State} (h : LoadKept s t) : Machine.curAccepts t = Machine.curAccepts s := by
  have hqueues : t.queues = s.queues := congrArg (·.2.2.2.2.2.2.1) h.tables
  unfold Machine.curAccepts State.curPly State.queue
  rw [h.iss, h.ply, hqueues]

/-! ## Translation (R258) -/

/-- The first TLB level of a core is filled. -/
theorem translated_utlb (s : State) (c : Nat) (p : Page) :
    Translated s (s.modCore c (fun x => { x with utlb := tlbAdd x.utlb p Config.utlbEntries })) :=
  .modCore s c (fun _ => rfl) (fun _ => rfl)

/-- A change that is neither of plies, tables and device memory nor of cores. -/
theorem Translated.of_eq {s t : State} (h : LoadKept s t) (hp : t.plies = s.plies) (hc : t.cores = s.cores) : Translated s t :=
  ⟨h, hp, fun c => by rw [State.core, State.core, hc]; exact ⟨rfl, rfl⟩⟩

theorem translated_modDie (s : State) (d : Nat) (f : Die → Die) : Translated s (s.modDie d f) := .of_eq (.of_eq rfl rfl rfl rfl rfl) rfl rfl

theorem translated_tlbFill (s : State) (c : Nat) (p : Page) : Translated s (tlbFill s c p) := by
  unfold tlbFill
  dsimp only
  exact (translated_utlb s c p).trans (translated_modDie _ _ _)

theorem translated_lookup (s : State) (c vn : Nat) (host : Bool) (pasid va : Nat) : Translated s (lookup s c vn host pasid va).2 := by
  have hwalk := (homeRead_walkTouch s vn va).translated
  unfold lookup
  split
  · exact .refl s
  · split
    · exact translated_utlb s c _
    · split
      · exact .refl s
      · dsimp only
        split
        · exact hwalk.trans (translated_tlbFill _ c _)
        · exact hwalk

theorem translated_translateDev (s : State) (c vn va kind : Nat) (world : Bool) : Translated s (translateDev s c vn va kind world).2 := by
  have h := translated_lookup s c vn false 0 va
  unfold translateDev
  split
  all_goals
    next heq =>
    rw [heq] at h
    exact h

theorem translated_translateHost (s : State) (c vn pasid va kind : Nat) : Translated s (translateHost s c vn pasid va kind).2 := by
  have h := translated_lookup s c vn true pasid va
  unfold translateHost
  split
  all_goals
    next heq =>
    rw [heq] at h
    exact h

/-- A request is sent. -/
theorem translated_askOnce (s : State) (c : Ctx) (a : Ask) (o : Nat → Out) (link : Option Nat) : Translated s (askOnce s c a o link) := by
  unfold askOnce
  split
  · exact .refl s
  · exact .of_eq (.of_eq rfl rfl rfl rfl rfl) rfl rfl

theorem translated_translateAcc (s : State) (c : Ctx) (x : Option XReg) (off : Int) (ea : W64) (kind lane : Nat) :
    Translated s (translateAcc s c x off ea kind lane).2 := by
  unfold translateAcc
  dsimp only
  split
  · split
    · split <;> exact .refl s
    · have h := translated_translateDev s c.core c.vdev (ptrAddr ea) kind (bit (c.seg 0).ctl 60)
      split
      all_goals
        next heq =>
        rw [heq] at h
        exact h
  · exact .refl s
  · split
    · split <;> exact .refl s
    · have h := translated_translateHost s c.core c.vdev (bits (c.seg 4).base 0 20) (ptrAddr ea) kind
      split
      · next heq =>
        rw [heq] at h
        exact h
      · next heq =>
        rw [heq] at h
        exact h
      · next heq =>
        rw [heq] at h
        split
        · exact h
        · dsimp only at h ⊢
          exact h.trans (translated_askOnce _ _ _ _ _)
  · exact .refl s
  · have h := translated_translateDev s c.core c.vdev (localVa s c lane (ptrAddr ea)) kind (bit (c.seg 6).ctl 60)
    split
    all_goals
      next heq =>
      rw [heq] at h
      exact h
  · split <;> exact .refl s

theorem translated_translateOne {s t : State} {x : Option XReg} {off : Int} {ea va : W64} {kind fkind : Nat} {p : Place}
    (h : translateOne s x off ea kind fkind = .ok (p, va, t)) : Translated s t := by
  have hread := translated_translateAcc s (ctxOf s) x off ea kind 0
  unfold translateOne at h
  dsimp only at h
  split at h
  · next heq =>
    cases h
    rwa [heq] at hread
  · cases h
  · cases h

/-! ## Entries of the log are read (R236, R371) -/

/-- What a byte from the log rests on is of the log. -/
theorem mem_byteFromLog {es : List LogEntry} {o : Nat} {e : LogEntry} (h : e ∈ (byteFromLog es o).2.2) : e ∈ es := by
  unfold byteFromLog at h
  refine (List.foldlRecOn (motive := fun a : Byte × Byte × List LogEntry => ∀ e ∈ a.2.2, e ∈ es) es _ (by simp) fun a ha g hg e he => ?_) e h
  split at he
  · dsimp only at he
    split at he
    · exact ha e he
    · rcases List.mem_cons.1 he with rfl | he
      · exact hg
      · exact ha e he
  · exact ha e he

theorem mem_overLog {es : List LogEntry} {o n : Nat} {base : Nat → Byte} {e : LogEntry} (h : e ∈ (overLog es o n base).2.1) : e ∈ es := by
  obtain ⟨x, hx, he⟩ := List.mem_flatMap.1 h
  obtain ⟨k, -, rfl⟩ := List.mem_map.1 hx
  exact mem_byteFromLog he

theorem mem_visibleEntries {s : State} {c p : Nat} {space : LogSpace} {sec : Nat} {e : LogEntry} (h : e ∈ visibleEntries s c p space sec) :
    e ∈ (s.core c).log := (List.mem_filter.1 (List.mem_reverse.1 h)).1

theorem loadKept_seeEntry (s : State) (c : Nat) (e : LogEntry) : LoadKept s (seeEntry s c e) := by
  unfold seeEntry
  split
  · exact .refl s
  · dsimp only
    split <;> exact .of_eq rfl rfl rfl rfl rfl

theorem l1_seeEntry (s : State) (c : Nat) (e : LogEntry) (d : Nat) : ((seeEntry s c e).core d).l1 = (s.core d).l1 := by
  unfold seeEntry
  split
  · rfl
  · dsimp only
    rw [State.core_modCore_eq]
    split
    · next hd =>
      rw [hd]
      split <;> rfl
    · split <;> rfl

/-- Sound entries are read. -/
theorem detectEntries_kept {c : Nat} {es : List LogEntry} (hes : ∀ e ∈ es, e.bad = false) (s : State) :
    LoadKept s (es.foldl (fun s e => detectEntry s c e) s) ∧ ∀ d, ((es.foldl (fun s e => detectEntry s c e) s).core d).l1 = (s.core d).l1 := by
  refine List.foldlRecOn (motive := fun t => LoadKept s t ∧ ∀ d, (t.core d).l1 = (s.core d).l1) es _ ⟨.refl s, fun _ => rfl⟩ fun t ht e he => ?_
  have hsee : detectEntry t c e = seeEntry t c e := by simp [detectEntry, hes e he]
  rw [hsee]
  exact ⟨ht.1.trans (loadKept_seeEntry t c e), fun d => (l1_seeEntry t c e d).trans (ht.2 d)⟩

/-! ## Sectors of an L1 -/

theorem loadKept_fillL1 (s : State) (c key pol : Nat) (d : Bytes) (poison : Bool) : LoadKept s (fillL1 s c key pol d poison) := by
  have hevict : LoadKept s (evictL1 s c) := by
    unfold evictL1
    dsimp only
    split
    · exact .refl s
    · split
      · exact .of_eq rfl rfl rfl rfl rfl
      · exact .refl s
  unfold fillL1
  split
  · exact .refl s
  · dsimp only
    split
    · exact hevict.trans (.of_eq rfl rfl rfl rfl rfl)
    · exact hevict

theorem loadKept_dropL1 (s : State) (c key : Nat) : LoadKept s (dropL1 s c key) := by
  have hdropped : LoadKept s (if key % 4 = 2 then s.modCore c (fun x => { x with dropped := s.fresh }) else s) := by
    split
    · exact .of_eq rfl rfl rfl rfl rfl
    · exact .refl s
  unfold dropL1
  dsimp only
  generalize (if key % 4 = 2 then s.modCore c (fun x => { x with dropped := s.fresh }) else s) = r at hdropped
  split
  · split
    · exact hdropped.trans (.of_eq rfl rfl rfl rfl rfl)
    · exact hdropped
  · exact hdropped

theorem Tab.mem_of_find {α : Type} {i : Nat} {v : α} {t : Tab α} (h : Tab.find i t = some v) : (i, v) ∈ t := by
  induction t with
  | nil => cases h
  | cons e t ih =>
    obtain ⟨j, w⟩ := e
    rw [Tab.find] at h
    split at h
    · next hj =>
      cases h
      exact hj ▸ List.mem_cons_self
    · exact List.mem_cons_of_mem _ (ih h)

/-- Nothing pins the sectors of an L1: one that leaves has nothing drain. -/
theorem loadKept_leaveL1 {s : State} {c : Nat} (h : ∀ l ∈ (s.core c).l1, l.2.pins = []) (key : Nat) : LoadKept s (leaveL1 s c key) := by
  have hpins : (Tab.get ({} : L1Sector) (s.core c).l1 key).pins = [] := by
    unfold Tab.get
    cases hf : Tab.find key (s.core c).l1 with
    | none => rfl
    | some l => exact h _ (Tab.mem_of_find hf)
  unfold leaveL1 drainPins
  rw [hpins]
  exact loadKept_dropL1 s c key

theorem loadKept_missHbm (s : State) (c pa pol : Nat) : LoadKept s (missHbm s c pa pol) :=
  (homeRead_homeTouch s pa pol).loadKept.trans (loadKept_fillL1 _ _ _ _ _ _)

/-! ## The read paths (R183) -/

section
variable {s : State} {c : Ctx} (hbad : ∀ e ∈ (s.core c.core).log, e.bad = false)
include hbad

theorem loadKept_readHbm (hreds : s.reds = []) (hpins : ∀ l ∈ (s.core c.core).l1, l.2.pins = []) (pa n pol : Nat) :
    LoadKept s (readHbm s c pa n pol).2 := by
  have hown : ownReds s c (pa / 128) = s := if_pos hreds
  obtain ⟨hseen, hl1⟩ := detectEntries_kept (c := c.core)
    (es := (overLog (visibleEntries s c.core c.ply .dev (pa / 128)) (pa % 128) n (fun _ => 0)).2.1)
    (fun e he => hbad e (mem_visibleEntries (mem_overLog he))) s
  unfold readHbm
  dsimp only
  rw [hown]
  generalize (overLog (visibleEntries s c.core c.ply .dev (pa / 128)) (pa % 128) n (fun _ => 0)).2.1.foldl (fun s e => detectEntry s c.core e) s = t
    at hseen hl1
  have hleave : LoadKept t (homeTouch (leaveL1 t c.core (l1Key 0 (pa / 128))) pa 3) :=
    (loadKept_leaveL1 (fun l hl => hpins l (hl1 c.core ▸ hl)) _).trans (homeRead_homeTouch _ pa 3).loadKept
  have htouch : LoadKept t (if pol = 3 then homeTouch (leaveL1 t c.core (l1Key 0 (pa / 128))) pa 3 else t) := by
    split
    · exact hleave
    · exact .refl t
  split
  · exact hseen
  · refine hseen.trans (htouch.trans ?_)
    generalize (if pol = 3 then homeTouch (leaveL1 t c.core (l1Key 0 (pa / 128))) pa 3 else t) = r
    split
    · exact .refl r
    · have hmiss : LoadKept r (if pol = 3 then r else missHbm r c.core pa pol) := by
        split
        · exact .refl r
        · exact loadKept_missHbm r _ _ _
      exact hmiss

/-- A read from outside the package, where what lies behind the log keeps the state. -/
theorem loadKept_readOutside {space : LogSpace} {sec key o n start : Nat} {base : State → Rd × State} {b : Bytes} {po : Option Bool} {h : Bool}
    {u : State} (hbase : ∀ t b po h u, base t = (.got b po h, u) → LoadKept t u)
    (hread : readOutside s c space sec key o n start base = (.got b po h, u)) : LoadKept s u := by
  have hpart : ∀ e ∈ partEntry s c space sec key, e.bad = false := by
    unfold partEntry
    split
    · split
      · simp
      · simp
    · simp
  obtain ⟨hseen, -⟩ := detectEntries_kept (c := c.core)
    (es := (overLog (visibleEntries s c.core c.ply space sec ++ partEntry s c space sec key) o n (fun _ => 0)).2.1)
    (fun e he => (List.mem_append.1 (mem_overLog he)).elim (fun hm => hbad e (mem_visibleEntries hm)) (hpart e)) s
  unfold readOutside at hread
  dsimp only at hread
  split at hread
  · cases hread
    exact hseen
  · split at hread
    · next heq =>
      cases hread
      exact hseen.trans (hbase _ _ _ _ _ heq)
    · next r hno =>
      exact absurd hread (hno _ _ _ _)

end

theorem loadKept_readWs (s : State) (c : Ctx) (o n : Nat) : LoadKept s (readWs s c o n).2 := by
  unfold readWs
  dsimp only
  split
  · exact .refl s
  · refine (homeRead_detectWs s (o / 128)).loadKept.trans (LoadKept.trans ?_ (loadKept_fillL1 _ _ _ _ _ _))
    exact .of_eq rfl rfl rfl rfl rfl

theorem loadKept_hostSectorOf (s : State) (c : Ctx) (pa pol : Nat) : LoadKept s (hostSectorOf s c pa pol).2 := by
  unfold hostSectorOf
  dsimp only
  split
  · exact .refl s
  · split
    · dsimp only
      split
      · exact loadKept_fillL1 _ _ _ _ _ _
      · exact .refl s
    · split
      · exact .of_eq rfl rfl rfl rfl rfl
      · dsimp only
        exact (translated_askOnce _ _ _ _ _).toLoadKept

theorem loadKept_peerBytes {s u : State} {c : Ctx} {rank off n pol : Nat} {b : Bytes} {po : Option Bool} {h : Bool}
    (hread : peerBytes s c rank off n pol = (.got b po h, u)) : LoadKept s u := by
  have htouch := (homeRead_touchRank s (s.ply c.ply).reel rank).loadKept
  unfold peerBytes at hread
  split at hread
  · cases hread
    exact .refl s
  dsimp only at hread
  generalize touchRank s (s.ply c.ply).reel rank = t at htouch hread
  split at hread
  · cases hread
  split at hread
  · cases hread
  split at hread
  · cases hread
  split at hread
  · cases hread
  split at hread
  · cases hread
  split at hread
  · split at hread
    · cases hread
    · split at hread
      · split at hread
        · cases hread
          exact htouch.trans ((homeRead_walkTouch t _ _).trans (homeRead_homeTouch _ _ _)).loadKept
        · cases hread
      · cases hread
  · split at hread <;> cases hread

theorem loadKept_detectScratch (s : State) (p sec : Nat) : LoadKept s (detectScratch s p sec) := by
  unfold detectScratch
  dsimp only
  split
  · next f t h =>
    refine (homeRead_takeFlip h).loadKept.trans ?_
    split
    · refine ⟨fun q => ?_, rfl, fun hs => ⟨hs, fun _ => rfl⟩⟩
      rw [State.ply_modPly_eq]
      split <;> rfl
    · exact .of_eq rfl rfl rfl rfl rfl
  · exact .refl s

/-- A load that gets its bytes, with nothing of its core's log in error and nothing that pins its L1. -/
theorem loadKept_readPlace {s u : State} {c : Ctx} (hbad : ∀ e ∈ (s.core c.core).log, e.bad = false) (hreds : s.reds = [])
    (hpins : ∀ l ∈ (s.core c.core).l1, l.2.pins = []) {p : Place} {n pol : Nat} {b : Bytes} {po : Option Bool} {h : Bool}
    (hread : readPlace s c p n pol = (.got b po h, u)) : LoadKept s u := by
  cases p with
  | hbm pa => exact (loadKept_readHbm hbad hreds hpins pa n pol).of_snd hread
  | ws o => exact (loadKept_readWs s c o n).of_snd hread
  | scratch q o => exact LoadKept.of_snd (r := readPlace s c (.scratch q o) n pol) (loadKept_detectScratch s q (o / 128)) hread
  | host pa => exact loadKept_readOutside hbad (fun t _ _ _ v ht => (loadKept_hostSectorOf t c pa pol).of_snd ht) hread
  | peer r o => exact loadKept_readOutside hbad (fun _ _ _ _ _ ht => loadKept_peerBytes ht) hread

end Sys2Proof.Machine
end

section
/-! PROOF. SLD and SST (R65, R134, R135): a check that fails traps, a failed translation or a full log stays at the instruction, and an access that
goes through leaves what is not its own. -/
namespace Sys2Proof.Machine

/-! ## What a load leaves -/

/-- A load that takes its bytes has got them without poison, unless its queue accepts poison (R369). -/
theorem readPlace_of_readOne {s u : State} {ea : W64} {p : Place} {n pol : Nat} {b : Bytes} (h : readOne s ea p n pol true = .ok (b, u))
    (hacc : curAccepts s = false) : readPlace s (ctxOf s) p n pol = (.got b none false, u) := by
  unfold readOne at h
  dsimp only at h
  rw [hacc] at h
  generalize readPlace s (ctxOf s) p n pol = r at h
  obtain ⟨rd, t⟩ := r
  cases rd with
  | wait => cases h
  | lost => cases h
  | refused => cases h
  | got c po bad =>
    cases bad with
    | true => cases h
    | false =>
      cases po with
      | some w => cases h
      | none =>
        cases h
        rfl

theorem readKept_of_translated {s t u : State} (h : Translated s t) {ea : W64} {p : Place} {n pol : Nat} {b : Bytes}
    (hread : readOne t ea p n pol true = .ok (b, u)) : ReadKept s u := by
  intro hreds hacc hbad hpins
  obtain ⟨hlog, hl1⟩ := h.cores s.curCore
  have hcore : (ctxOf t).core = s.curCore := h.toLoadKept.curCore
  have hplace := readPlace_of_readOne hread (h.toLoadKept.curAccepts.trans hacc)
  have hkept := h.toLoadKept.trans (loadKept_readPlace (by rw [hcore, hlog]; exact hbad) (h.toLoadKept.reds.trans hreds)
    (by rw [hcore, hl1]; exact hpins) hplace)
  have htables := hkept.tables
  simp only [State.tables, Prod.mk.injEq] at htables
  obtain ⟨hiss, hws, hskeins, hreels, hjobs, hxfers, hqueues, hvdevs, hclock, -⟩ := htables
  exact ⟨hkept.ply, hiss, hws, hskeins, hreels, hjobs, hxfers, hqueues, hvdevs, hclock, fun hs => (hkept.homes hs).2⟩

/-! ## What a store leaves -/

/-- A change of one core. -/
theorem BankKept.modCore (s : State) (c : Nat) (f : Core → Core) : BankKept s (s.modCore c f) :=
  .of_plies rfl rfl rfl rfl rfl rfl rfl rfl rfl rfl rfl

theorem bankKept_seeEntry (s : State) (c : Nat) (e : LogEntry) : BankKept s (seeEntry s c e) := by
  have hfire : BankKept s (if e.injected then fireInjection s 6 (if e.bad then 5 else 1) else s) := by
    split
    · exact .of_plies rfl rfl rfl rfl rfl rfl rfl rfl rfl rfl rfl
    · exact .refl s
  unfold seeEntry
  split
  · exact .refl s
  · exact hfire.trans (.modCore _ _ _)

/-- An entry moves to the extension: the store does not wait. -/
theorem bankKept_freeEntry {s : State} {c : Nat} (h : (freeEntry s c).2 = false) : BankKept s (freeEntry s c).1 := by
  revert h
  unfold freeEntry
  dsimp only
  split
  · next e he =>
    have hsee := bankKept_seeEntry s c e
    split
    · intro _
      dsimp only
      refine BankKept.trans ?_ (.modCore _ _ _)
      split
      · exact hsee.trans (.of_plies rfl rfl rfl rfl rfl rfl rfl rfl rfl rfl rfl)
      · exact hsee
    · intro h
      cases h
  · split <;> intro h <;> cases h

theorem bankKept_makeRoom (c n fuel : Nat) : ∀ {s : State}, (makeRoom s c n fuel).2 = false → BankKept s (makeRoom s c n fuel).1 := by
  induction fuel with
  | zero => exact fun {s} _ => .refl s
  | succ fuel ih =>
    intro s h
    unfold makeRoom at h ⊢
    dsimp only at h ⊢
    split
    · exact .refl s
    · next hfull =>
      rw [if_neg hfull] at h
      split
      · next hw =>
        rw [if_pos hw, hw] at h
        cases h
      · next hw =>
        rw [if_neg hw] at h
        exact (bankKept_freeEntry (by simpa using hw)).trans (ih h)

theorem bankKept_roomFor {s t : State} {c : Ctx} {ps : List Place} (h : roomFor s c ps = .ok t) : BankKept s t := by
  unfold roomFor at h
  dsimp only at h
  split at h
  · cases h
    exact .refl s
  · split at h
    · cases h
    · next hw =>
      cases h
      exact bankKept_makeRoom _ _ _ (by simpa using hw)

theorem bankKept_storeReady {s t : State} {ps : List Place} (h : storeReady s ps = .ok t) : BankKept s t := by
  unfold storeReady at h
  split at h
  · next hr =>
    cases h
    exact bankKept_roomFor hr
  · cases h

theorem bankKept_endForTag (s : State) (p tag : Nat) : BankKept s (endForTag s p tag) := by
  unfold endForTag
  split
  · exact (bankSame_endProtection s p 12).1
  · exact .refl s

theorem bankKept_appendEntry (s : State) (p : Nat) (space : LogSpace) (sec : Nat) (vaddr : W64) (pol : Nat) (cells : Tab (Byte × Byte))
    (poison : Bool) : BankKept s (appendEntry s p space sec vaddr pol cells poison) := by
  have hdrop := (bankSame_dropFlips s (fun f => f.kind == 8 && 36 * f.die + f.unit == (s.ply p).core &&
    f.loc.toNat == logCount (s.core (s.ply p).core))).1
  refine hdrop.trans ?_
  unfold appendEntry
  exact .of_plies rfl rfl rfl rfl rfl rfl rfl rfl rfl rfl rfl

theorem bankKept_logStore (s : State) (p : Nat) (space : LogSpace) (sec : Nat) (vaddr : W64) (pol : Nat) (cells : Tab (Byte × Byte))
    (poison : Bool) : BankKept s (logStore s p space sec vaddr pol cells poison) := by
  unfold logStore
  dsimp only
  split
  · split
    · exact .modCore _ _ _
    · exact bankKept_appendEntry s p space sec vaddr pol cells poison
  · exact bankKept_appendEntry s p space sec vaddr pol cells poison

theorem bankKept_scrWrite (s : State) (p off : Nat) (b : Bytes) : BankKept s (scrWrite s p off b) := by
  have hall : ∀ (fuel : Nat) (s : State) (off : Nat) (b : Bytes), BankKept s (scrWriteAll s p off b fuel) := by
    intro fuel
    induction fuel with
    | zero => exact fun s _ _ => .refl s
    | succ fuel ih =>
      intro s off b
      unfold scrWriteAll
      split
      · exact .refl s
      · exact (scrWriteIn_wrote s p off _).1.trans (ih _ _ _)
  exact hall _ s off b

theorem bankKept_writePlace (s : State) (c : Ctx) (p : Place) (va : W64) (pol : Nat) (cells : Tab (Byte × Byte)) :
    BankKept s (writePlace s c p va pol cells) := by
  unfold writePlace writePlaceP
  cases p with
  | hbm pa => exact bankKept_logStore _ _ _ _ _ _ _ _
  | ws o => exact .refl s
  | scratch q o => exact bankKept_scrWrite _ _ _ _
  | host pa => exact bankKept_logStore _ _ _ _ _ _ _ _
  | peer r o => exact bankKept_logStore _ _ _ _ _ _ _ _

/-- What follows a translation and keeps all but scratch and logs. -/
theorem Translated.storeKept {s t u : State} (h : Translated s t) (k : BankKept t u) : StoreKept s u := by
  have htables := h.tables
  simp only [State.tables, Prod.mk.injEq] at htables
  obtain ⟨hiss, hws, hskeins, hreels, hjobs, hxfers, hqueues, -, hclock, -⟩ := htables
  refine ⟨(ReservationsOnly.of_plies h.plies).trans k.resv, fun q => (k.tiles q).trans (by rw [State.ply, State.ply, h.plies]), k.iss.trans hiss,
    k.ws.trans hws, k.skeins.trans hskeins, fun _ => k.reels.trans hreels, k.jobs.trans hjobs, ?_, k.queues.trans hqueues, k.clock.trans hclock⟩
  unfold TransfersKept
  rw [k.xfers, hxfers]

/-! ## The instructions -/

section
variable {s : State} {d a : BitVec 8} {o : BitVec 9} {n : Nat}

/-- A load after its operands (R134). -/
theorem scalarLoad_eq (hd : isDest d) (ha : baseOk s a) : scalarLoad s d a o n = (do
    let ea ← checkOne s (baseOf s a) (o.toInt * n) ⟨[0], false, n, n, scalarTags⟩
    let (p, _, t) ← translateOne s (boundOf s a) (o.toInt * n) ea 0 0
    let (b, t) ← readOne t ea p n (ptrPol ea) true
    writeS t d (w64 (natLE b))) := by
  have hdest : decide (d.toNat ≤ 192 ∨ d.toNat = 208) = true := decide_eq_true hd
  unfold scalarLoad
  rw [need_bind hdest]
  simp only [readBase_ok ha, ok_bind]

/-- A store after its operands (R134, R135). -/
theorem scalarStore_eq (hd : isSource d) (ha : baseOk s a) : scalarStore s d a o n = (do
    let ea ← checkOne s (baseOf s a) (o.toInt * n) ⟨[1], true, n, n, scalarTags⟩
    let (p, va, t) ← translateOne s (boundOf s a) (o.toInt * n) ea 1 1
    if writeHeld t t.iss.ply n p then .error (hold t)
    else
      let t ← storeReady t [p]
      let t := endForTag t t.iss.ply (ptrTag ea)
      .ok (writePlace t (ctxOf t) p va (ptrPol ea) (cellsOf (ptrAddr ea % 128) (bytesLE (sourceOf s d).toNat n)))) := by
  unfold scalarStore
  rw [readS_bind s hd]
  simp only [readBase_ok ha, ok_bind]

end

/-- What a scalar access runs. -/
def ScalarAccess.effect (x : ScalarAccess) (s : State) (o : BitVec 9) : Eff :=
  if x.load then scalarLoad s x.d x.a o x.n else scalarStore s x.d x.a o x.n

theorem exec_scalarAccess {i : Instr} {x : ScalarAccess} (h : scalarAccess i = some x) (s : State) :
    ∃ o : BitVec 9, x.off = o.toInt * x.n ∧ exec i s = run s (x.effect s o) := by
  unfold scalarAccess at h
  split at h <;> cases h
  all_goals exact ⟨_, Int.mul_comm _ _, rfl⟩

section
variable {s : State} {x : ScalarAccess} {o : BitVec 9} (hbase : baseOk s x.a)
include hbase

/-- An address that fails a check stops the access before it has any effect. -/
theorem ScalarAccess.effect_stop (hop : if x.load then isDest x.d else isSource x.d) {e : Stop}
    (h : checkOne s (baseOf s x.a) (o.toInt * x.n) x.acc = .error e) : x.effect s o = .error e := by
  obtain ⟨d, a, off, n, load⟩ := x
  cases load with
  | true =>
    refine (scalarLoad_eq hop hbase).trans ?_
    change checkOne s (baseOf s a) (o.toInt * n) ⟨[0], false, n, n, scalarTags⟩ = _ at h
    rw [h]
    rfl
  | false =>
    refine (scalarStore_eq hop hbase).trans ?_
    change checkOne s (baseOf s a) (o.toInt * n) ⟨[1], true, n, n, scalarTags⟩ = _ at h
    rw [h]
    rfl

theorem ScalarAccess.effect_load (hl : x.load = true) (hd : isDest x.d) {ea : W64} (h : checkOne s (baseOf s x.a) (o.toInt * x.n) x.acc = .ok ea) :
    x.effect s o = (do
      let (p, _, t) ← translateOne s (boundOf s x.a) (o.toInt * x.n) ea 0 0
      let (b, t) ← readOne t ea p x.n (ptrPol ea) true
      writeS t x.d (w64 (natLE b))) := by
  obtain ⟨d, a, off, n, load⟩ := x
  cases hl
  refine (scalarLoad_eq hd hbase).trans ?_
  change checkOne s (baseOf s a) (o.toInt * n) ⟨[0], false, n, n, scalarTags⟩ = _ at h
  rw [h, ok_bind]

theorem ScalarAccess.effect_store (hl : x.load = false) (hd : isSource x.d) {ea : W64}
    (h : checkOne s (baseOf s x.a) (o.toInt * x.n) x.acc = .ok ea) :
    x.effect s o = (do
      let (p, va, t) ← translateOne s (boundOf s x.a) (o.toInt * x.n) ea 1 1
      if writeHeld t t.iss.ply x.n p then .error (hold t)
      else
        let t ← storeReady t [p]
        let t := endForTag t t.iss.ply (ptrTag ea)
        .ok (writePlace t (ctxOf t) p va (ptrPol ea) (cellsOf (ptrAddr ea % 128) (bytesLE (sourceOf s x.d).toNat x.n)))) := by
  obtain ⟨d, a, off, n, load⟩ := x
  cases hl
  refine (scalarStore_eq hd hbase).trans ?_
  change checkOne s (baseOf s a) (o.toInt * n) ⟨[1], true, n, n, scalarTags⟩ = _ at h
  rw [h, ok_bind]

end

/-- Settles O28: the operands are read, the address checked and translated; then bytes are read, or there is room and they are written. -/
theorem scalarMemoryResults : Obligations.ScalarMemoryResults := by
  unfold Obligations.ScalarMemoryResults
  intro i x s hx hop hbase
  obtain ⟨o, hoff, hexec⟩ := exec_scalarAccess hx s
  rw [hoff, hexec]
  refine ⟨fun q hq => by rw [ScalarAccess.effect_stop hbase hop hq, run_stop], fun ea hea => ⟨fun hl => ?_, fun hl => ?_⟩⟩
  · rw [if_pos hl] at hop
    rw [ScalarAccess.effect_load hbase hl hop hea]
    refine ⟨fun p va t b u ht hu => ⟨?_, readKept_of_translated (translated_translateOne ht) hu⟩, fun t ht => ?_⟩
    · simp only [ht, hu, ok_bind]
      rw [writeS_dest u x.d _ hop, run_ok]
      rfl
    · rw [ht]
      rfl
  · rw [if_neg (by simp [hl])] at hop
    rw [ScalarAccess.effect_store hbase hl hop hea]
    refine ⟨fun p va t ht hheld => ?_, fun t ht => ?_⟩
    · have htrans := translated_translateOne ht
      rw [← htrans.toLoadKept.iss] at hheld
      simp only [ht, ok_bind, hheld]
      refine ⟨fun v hv => ?_, fun v hv => ?_⟩
      · have hkept := bankKept_storeReady hv
        have hiss : v.iss.ply = s.iss.ply := by rw [hkept.iss, htrans.toLoadKept.iss]
        rw [hv]
        refine ⟨_, rfl, by rw [hiss], ?_⟩
        exact htrans.storeKept ((hkept.trans (bankKept_endForTag _ _ _)).trans (bankKept_writePlace _ _ _ _ _ _))
      · rw [hv]
        rfl
    · rw [ht]
      rfl

end Sys2Proof.Machine
end

section
/-! PROOF. The chunks of a transfer (R71, R72, R197, R200): units group them and lose none, and each element has its place in both layouts. -/
namespace Sys2Proof.Machine

/-! ## Units hold the chunks in order -/

/-- One chunk joins the report units gathered so far, youngest first. -/
def gatherUnit (acc : List (Nat × List Move × Nat)) (c : Nat × List Move) : List (Nat × List Move × Nat) :=
  match acc with
  | (k, ms, n) :: rest => if k = c.1 then (k, ms ++ c.2, n + 16) :: rest else (c.1, c.2, 16) :: acc
  | [] => [(c.1, c.2, 16)]

theorem groupUnits_eq (l : List (Nat × List Move)) : groupUnits l = numberUnits ((l.foldl gatherUnit []).reverse.map (fun x => (x.2.1, x.2.2))) := rfl

theorem moves_gatherUnit (acc : List (Nat × List Move × Nat)) (c : Nat × List Move) :
    (gatherUnit acc c).reverse.flatMap (·.2.1) = acc.reverse.flatMap (·.2.1) ++ c.2 := by
  unfold gatherUnit
  split
  · split <;> simp
  · simp

theorem moves_gathered (l : List (Nat × List Move)) : ∀ acc : List (Nat × List Move × Nat),
    (l.foldl gatherUnit acc).reverse.flatMap (·.2.1) = acc.reverse.flatMap (·.2.1) ++ l.flatMap (·.2) := by
  induction l with
  | nil => exact fun acc => by simp
  | cons c l ih =>
    intro acc
    rw [List.foldl_cons, ih, moves_gatherUnit, List.flatMap_cons, List.append_assoc]

theorem map_fst_zip_upFrom {α : Type} (l : List α) : (l.zip (upFrom 0 l.length)).map Prod.fst = l := List.map_fst_zip (by simp [upFrom_eq])

theorem moves_numberUnits (l : List (List Move × Nat)) : (numberUnits l).flatMap (fun u => u.moves) = l.flatMap (·.1) := by
  unfold numberUnits
  rw [List.flatMap_map]
  calc (l.zip (upFrom 0 l.length)).flatMap (fun x => x.1.1)
      = ((l.zip (upFrom 0 l.length)).map Prod.fst).flatMap (·.1) := by rw [List.flatMap_map]
    _ = l.flatMap (·.1) := by rw [map_fst_zip_upFrom]

theorem moves_groupUnits (l : List (Nat × List Move)) : (groupUnits l).flatMap (fun u => u.moves) = l.flatMap (·.2) := by
  rw [groupUnits_eq, moves_numberUnits, List.flatMap_map]
  exact moves_gathered l []

/-- The chunk of a bulk copy or fill at 16 i bytes. -/
theorem moves_bulkUnits (x : Xfer) : (bulkUnits x).flatMap (fun u => u.moves) = (upFrom 0 ((x.grp.getD 1 0).toNat / 16)).map (fun i =>
    let d := x.a + BitVec.ofNat 64 (16 * i)
    if x.kind = .bfill then { src := none, dst := d, bits := 128, fill := (x.grp.getD 0 0).toNat + 2 ^ 64 * (x.grp.getD 0 0).toNat }
    else { src := some (x.grp.getD 0 0 + BitVec.ofNat 64 (16 * i)), dst := d, bits := 128 }) := by
  unfold bulkUnits
  dsimp only
  rw [moves_groupUnits, List.flatMap_map, List.map_eq_flatMap]
  refine List.flatMap_congr fun i _ => congrArg (fun m => [m]) ?_
  by_cases hk : x.kind = .bfill
  · simp only [hk, beq_self_eq_true, if_true, Nat.mul_comm]
    rfl
  · simp only [hk, beq_iff_eq, if_false]
    rfl

theorem moves_windowUnits (l : Layout) (g : List W64) (store : Bool) (off : Nat) : (windowUnits l g store off).flatMap (fun u => u.moves) =
    (upFrom 0 l.rows).flatMap (fun n => (upFrom 0 (l.rowBytes / 16)).flatMap (fun q => chunkMoves l g store off n q)) := by
  have hchunks : (windowChunks l).flatMap (fun x => chunkMoves l g store off x.1 x.2) =
      (upFrom 0 l.rows).flatMap (fun n => (upFrom 0 (l.rowBytes / 16)).flatMap (fun q => chunkMoves l g store off n q)) := by
    simp only [windowChunks, List.flatMap_assoc, List.flatMap_map]
  unfold windowUnits
  rw [moves_groupUnits, List.flatMap_map, ← hchunks]
  calc ((windowChunks l).zip (upFrom 0 (windowChunks l).length)).flatMap (fun x => chunkMoves l g store off x.1.1 x.1.2)
      = (((windowChunks l).zip (upFrom 0 (windowChunks l).length)).map Prod.fst).flatMap (fun x => chunkMoves l g store off x.1 x.2) := by
        rw [List.flatMap_map]
    _ = (windowChunks l).flatMap (fun x => chunkMoves l g store off x.1 x.2) := by rw [map_fst_zip_upFrom]

/-! ## The elements of one chunk -/

/-- An element of a row lies in the tensor. -/
def InsideAt (l : Layout) (g : List W64) (n first e : Nat) : Prop :=
  rowInside l g n = true ∧ 0 ≤ coordOf g 0 + first + e ∧ coordOf g 0 + first + e < l.dims.getD 0 1

/-- A run of inside elements lies within its chunk, and holds exactly them. -/
theorem insideRun_spec (l : Layout) (g : List W64) (n first per : Nat) :
    (insideRun l g n first per).1 ≤ (insideRun l g n first per).2 ∧ (insideRun l g n first per).2 ≤ per ∧
      ∀ e, e < per → (InsideAt l g n first e ↔ (insideRun l g n first per).1 ≤ e ∧ e < (insideRun l g n first per).2) := by
  unfold insideRun InsideAt
  dsimp only
  by_cases hrow : rowInside l g n = true
  · simp only [hrow, if_true, true_and]
    split
    · refine ⟨by omega, by omega, fun e he => ?_⟩
      omega
    · refine ⟨le_rfl, Nat.zero_le _, fun e he => ?_⟩
      omega
  · simp only [hrow]
    exact ⟨le_rfl, Nat.zero_le _, fun e _ => by simp⟩

theorem elemBit_add (l : Layout) (g : List W64) (n : Nat) (e d : Int) : elemBit l g n (e + d) = elemBit l g n e + d * l.es := by
  unfold elemBit
  ring

/-- Every digit of the fill bits is the fill value. -/
theorem fillBits_digit (l : Layout) {k i : Nat} (hi : i < k) : fillBits l k / 2 ^ (l.es * i) % 2 ^ l.es = l.fill % 2 ^ l.es := by
  have hpow : ∀ j, 2 ^ (l.es * (j + 1)) = 2 ^ (l.es * j) * 2 ^ l.es := fun j => by rw [Nat.mul_succ, Nat.pow_add]
  have hlt : ∀ k, fillBits l k < 2 ^ (l.es * k) ∧ ∀ i, i < k → fillBits l k / 2 ^ (l.es * i) % 2 ^ l.es = l.fill % 2 ^ l.es := by
    intro k
    induction k with
    | zero => exact ⟨by simp [fillBits, upFrom], fun i hi => absurd hi (Nat.not_lt_zero i)⟩
    | succ k ih =>
      obtain ⟨hsmall, hdigit⟩ := ih
      have hstep : fillBits l (k + 1) = fillBits l k + l.fill % 2 ^ l.es * 2 ^ (l.es * k) := by
        unfold fillBits
        rw [upFrom_eq, upFrom_eq, List.range_succ, List.map_append, List.foldl_append]
        simp
      have hfill : l.fill % 2 ^ l.es < 2 ^ l.es := Nat.mod_lt _ (Nat.two_pow_pos _)
      have hpos := Nat.two_pow_pos (l.es * k)
      refine ⟨?_, fun i hi => ?_⟩
      · rw [hstep, hpow]
        calc fillBits l k + l.fill % 2 ^ l.es * 2 ^ (l.es * k) < (l.fill % 2 ^ l.es + 1) * 2 ^ (l.es * k) := by rw [Nat.add_mul]; omega
          _ ≤ 2 ^ (l.es * k) * 2 ^ l.es := by rw [Nat.mul_comm]; exact Nat.mul_le_mul_left _ hfill
      · rcases Nat.lt_succ_iff_lt_or_eq.1 hi with hlt | rfl
        · obtain ⟨j, rfl⟩ : ∃ j, k = i + 1 + j := ⟨k - (i + 1), by omega⟩
          have hsplit : 2 ^ (l.es * (i + 1 + j)) = 2 ^ (l.es * i) * (2 ^ l.es * 2 ^ (l.es * j)) := by
            rw [← Nat.pow_add, ← Nat.pow_add]
            congr 1
            ring
          rw [hstep, hsplit, ← Nat.mul_assoc, Nat.mul_comm _ (2 ^ (l.es * i)), Nat.mul_assoc, Nat.add_mul_div_left _ _ (Nat.two_pow_pos _),
            Nat.mul_left_comm, Nat.add_mul_mod_self_left]
          exact hdigit i (by omega)
        · rw [hstep, Nat.add_mul_div_right _ _ hpos, Nat.div_eq_of_lt hsmall, Nat.zero_add, Nat.mod_mod]
  exact (hlt k).2 i hi

end Sys2Proof.Machine
end

section
/-! PROOF. The moves of one chunk of a window (R71, R72): each element goes between its place in the tensor and its place in the skewed row, and the
fill value stands where the tensor has none. -/
namespace Sys2Proof.Machine

/-! ## The moves of a chunk by name -/

theorem chunkAt_eq (l : Layout) (off n q : Nat) : chunkAt l off n q =
    off + n * l.rowBytes + (if l.skew = 0 then 16 * q else q / 8 * 128 + (q % 8 + n * 2 ^ (l.skew - 1)) % 8 * 16) := by
  unfold chunkAt
  split
  · rfl
  · omega

/-- An address and a bit name bit D of a chunk in scratch. -/
def LandsAt (l : Layout) (off n q : Nat) (a : W64) (b D : Nat) : Prop := a = BitVec.ofNat 64 (2 ^ 60 + (chunkAt l off n q + D / 8)) ∧ b = D % 8

/-- An address and a bit name a bit of the tensor. -/
def InTensor (l : Layout) (a : W64) (b : Nat) (bit : Int) : Prop := a = l.base + BitVec.ofInt 64 (bit / 8) ∧ (b : Int) = bit % 8

/-- A move from bit D of a chunk on holds element e of it. -/
def Move.reaches (m : Move) (es e D : Nat) : Prop := D ≤ es * e ∧ es * e + es ≤ D + m.bits

/-- The load of elements [lo, hi) of a chunk. -/
def loadMove (l : Layout) (g : List W64) (off n q lo hi : Nat) : Move :=
  { src := some (tensorAt l (elemBit l g n ((128 / l.es : Nat) * q + lo))).1, sbit := (tensorAt l (elemBit l g n ((128 / l.es : Nat) * q + lo))).2,
    dst := ownScratch (chunkAt l off n q + l.es * lo / 8), dbit := l.es * lo % 8, bits := l.es * (hi - lo) }

/-- The store of elements [lo, hi) of a chunk. -/
def storeMove (l : Layout) (g : List W64) (off n q lo hi : Nat) : Move :=
  { src := some (ownScratch (chunkAt l off n q + l.es * lo / 8)), sbit := l.es * lo % 8,
    dst := (tensorAt l (elemBit l g n ((128 / l.es : Nat) * q + lo))).1, dbit := (tensorAt l (elemBit l g n ((128 / l.es : Nat) * q + lo))).2,
    bits := l.es * (hi - lo) }

/-- Fill values for k elements from e on. -/
def padMove (l : Layout) (off n q e k : Nat) : Move :=
  { src := none, fill := fillBits l k, dst := ownScratch (chunkAt l off n q + l.es * e / 8), dbit := l.es * e % 8, bits := l.es * k }

/-- The elements of a chunk that lie in the tensor. -/
def chunkRun (l : Layout) (g : List W64) (n q : Nat) : Nat × Nat := insideRun l g n (128 / l.es * q : Nat) (128 / l.es)

theorem chunkRun_spec (l : Layout) (g : List W64) (n q : Nat) : (chunkRun l g n q).1 ≤ (chunkRun l g n q).2 ∧ (chunkRun l g n q).2 ≤ 128 / l.es ∧
    ∀ e, e < 128 / l.es → (InsideAt l g n (128 / l.es * q) e ↔ (chunkRun l g n q).1 ≤ e ∧ e < (chunkRun l g n q).2) :=
  insideRun_spec l g n _ _

def padMoves (l : Layout) (off n q e k : Nat) : List Move := if k = 0 then [] else [padMove l off n q e k]

theorem mem_padMoves {l : Layout} {off n q e k : Nat} {m : Move} : m ∈ padMoves l off n q e k ↔ k ≠ 0 ∧ m = padMove l off n q e k := by
  unfold padMoves
  by_cases hk : k = 0 <;> simp [hk]

theorem chunkMoves_load (l : Layout) (g : List W64) (off n q : Nat) : chunkMoves l g false off n q =
    if (chunkRun l g n q).2 - (chunkRun l g n q).1 = 0 then padMoves l off n q 0 (128 / l.es)
    else
      loadMove l g off n q (chunkRun l g n q).1 (chunkRun l g n q).2 ::
        (padMoves l off n q 0 (chunkRun l g n q).1 ++ padMoves l off n q (chunkRun l g n q).2 (128 / l.es - (chunkRun l g n q).2)) := by
  unfold chunkMoves padMoves chunkRun
  simp only [Bool.false_eq_true, or_false, if_false]
  split
  · rfl
  · rfl

theorem chunkMoves_store (l : Layout) (g : List W64) (off n q : Nat) : chunkMoves l g true off n q =
    if (chunkRun l g n q).2 - (chunkRun l g n q).1 = 0 then [] else [storeMove l g off n q (chunkRun l g n q).1 (chunkRun l g n q).2] := by
  unfold chunkMoves chunkRun
  simp only [or_true, if_true]
  split
  · rfl
  · rfl

/-! ## Places -/

theorem landsAt_scratch (l : Layout) (off n q D : Nat) : LandsAt l off n q (ownScratch (chunkAt l off n q + D / 8)) (D % 8) D := ⟨rfl, rfl⟩

theorem inTensor_tensorAt (l : Layout) (bit : Int) : InTensor l (tensorAt l bit).1 (tensorAt l bit).2 bit :=
  ⟨rfl, Int.toNat_of_nonneg (Int.emod_nonneg _ (by decide))⟩

/-- The place of an element less its distance from the run's first is that of the first. -/
theorem elemBit_back (l : Layout) (g : List W64) (n first lo e : Nat) :
    elemBit l g n (first + e) - (l.es * e - (l.es * lo : Nat) : Int) = elemBit l g n (first + lo) := by
  rw [show ((first : Int) + e) = (first + lo) + ((e : Int) - lo) by ring, elemBit_add]
  push_cast
  ring

section
variable {l : Layout} {g : List W64} {off n q e : Nat} (he : e < 128 / l.es)
include he

/-- An element of the tensor is loaded to its place in the row. -/
theorem load_inside (hin : InsideAt l g n (128 / l.es * q) e) : ∃ m ∈ chunkMoves l g false off n q, ∃ D a, m.reaches l.es e D ∧
    LandsAt l off n q m.dst m.dbit D ∧ m.src = some a ∧ InTensor l a m.sbit (elemBit l g n ((128 / l.es * q : Nat) + e) - (l.es * e - D : Int)) := by
  obtain ⟨hle, hper, hmem⟩ := chunkRun_spec l g n q
  obtain ⟨hlo, hhi⟩ := (hmem e he).1 hin
  rw [chunkMoves_load, if_neg (by omega)]
  generalize chunkRun l g n q = r at hlo hhi
  refine ⟨_, List.mem_cons_self, l.es * r.1, _, ⟨Nat.mul_le_mul_left _ hlo, ?_⟩, landsAt_scratch l off n q _, rfl, ?_⟩
  · change l.es * e + l.es ≤ l.es * r.1 + l.es * (r.2 - r.1)
    rw [← Nat.mul_succ, ← Nat.mul_add]
    exact Nat.mul_le_mul_left _ (by omega)
  · rw [elemBit_back l g n]
    exact inTensor_tensorAt l _

/-- Where the tensor has none the fill value is put. -/
theorem load_outside (hout : ¬ InsideAt l g n (128 / l.es * q) e) : ∃ m ∈ chunkMoves l g false off n q, ∃ D, m.reaches l.es e D ∧
    LandsAt l off n q m.dst m.dbit D ∧ m.src = none ∧ m.fill / 2 ^ (l.es * e - D) % 2 ^ l.es = l.fill % 2 ^ l.es := by
  obtain ⟨hle, hper, hmem⟩ := chunkRun_spec l g n q
  have hsides : ¬ ((chunkRun l g n q).1 ≤ e ∧ e < (chunkRun l g n q).2) :=
    fun h => hout ((hmem e he).2 h)
  have hpad : ∀ e0 k, e0 ≤ e → e < e0 + k → (padMove l off n q e0 k).reaches l.es e (l.es * e0) ∧
      LandsAt l off n q (padMove l off n q e0 k).dst (padMove l off n q e0 k).dbit (l.es * e0) ∧ (padMove l off n q e0 k).src = none ∧
      (padMove l off n q e0 k).fill / 2 ^ (l.es * e - l.es * e0) % 2 ^ l.es = l.fill % 2 ^ l.es := by
    intro e0 k h0 hk
    refine ⟨⟨Nat.mul_le_mul_left _ h0, ?_⟩, landsAt_scratch l off n q _, rfl, ?_⟩
    · change l.es * e + l.es ≤ l.es * e0 + l.es * k
      rw [← Nat.mul_succ, ← Nat.mul_add]
      exact Nat.mul_le_mul_left _ hk
    · rw [← Nat.mul_sub]
      exact fillBits_digit l (by omega)
  rw [chunkMoves_load]
  generalize chunkRun l g n q = r at hle hper hsides
  split
  · exact ⟨_, mem_padMoves.2 ⟨by omega, rfl⟩, _, hpad 0 _ (Nat.zero_le e) (by omega)⟩
  · by_cases hlo : e < r.1
    · exact ⟨_, List.mem_cons_of_mem _ (List.mem_append_left _ (mem_padMoves.2 ⟨by omega, rfl⟩)), _, hpad 0 _ (Nat.zero_le e) (by omega)⟩
    · exact ⟨_, List.mem_cons_of_mem _ (List.mem_append_right _ (mem_padMoves.2 ⟨by omega, rfl⟩)), _, hpad r.2 _ (by omega) (by omega)⟩

/-- An element of the tensor is stored from its place in the row. -/
theorem store_inside (hin : InsideAt l g n (128 / l.es * q) e) : ∃ m ∈ chunkMoves l g true off n q, ∃ D a, m.reaches l.es e D ∧ m.src = some a ∧
    LandsAt l off n q a m.sbit D ∧ InTensor l m.dst m.dbit (elemBit l g n ((128 / l.es * q : Nat) + e) - (l.es * e - D : Int)) := by
  obtain ⟨hle, hper, hmem⟩ := chunkRun_spec l g n q
  obtain ⟨hlo, hhi⟩ := (hmem e he).1 hin
  rw [chunkMoves_store, if_neg (by omega)]
  generalize chunkRun l g n q = r at hlo hhi
  refine ⟨_, List.mem_cons_self, l.es * r.1, _, ⟨Nat.mul_le_mul_left _ hlo, ?_⟩, rfl, landsAt_scratch l off n q _, ?_⟩
  · change l.es * e + l.es ≤ l.es * r.1 + l.es * (r.2 - r.1)
    rw [← Nat.mul_succ, ← Nat.mul_add]
    exact Nat.mul_le_mul_left _ (by omega)
  · rw [elemBit_back l g n]
    exact inTensor_tensorAt l _

end

section
variable {l : Layout} {g : List W64} {off n q : Nat} {m : Move}

/-- No move of a load leaves its chunk. -/
theorem load_within (hes : 128 % l.es = 0) (hm : m ∈ chunkMoves l g false off n q) : ∃ D, LandsAt l off n q m.dst m.dbit D ∧ D + m.bits ≤ 128 := by
  have hwhole : l.es * (128 / l.es) = 128 := Nat.mul_div_cancel' (Nat.dvd_of_mod_eq_zero hes)
  obtain ⟨hle, hper, -⟩ := chunkRun_spec l g n q
  have hfit : ∀ lo k, lo + k ≤ 128 / l.es → l.es * lo + l.es * k ≤ 128 := fun lo k h => by
    rw [← Nat.mul_add]
    exact (Nat.mul_le_mul_left _ h).trans hwhole.le
  have hpad : ∀ e k, m ∈ padMoves l off n q e k → e + k ≤ 128 / l.es → ∃ D, LandsAt l off n q m.dst m.dbit D ∧ D + m.bits ≤ 128 := by
    intro e k h hk
    obtain ⟨-, rfl⟩ := mem_padMoves.1 h
    exact ⟨_, landsAt_scratch l off n q _, hfit e k hk⟩
  rw [chunkMoves_load] at hm
  generalize chunkRun l g n q = r at hle hper hm
  split at hm
  · exact hpad _ _ hm (by omega)
  · rcases List.mem_cons.1 hm with rfl | hm
    · exact ⟨_, landsAt_scratch l off n q _, hfit r.1 (r.2 - r.1) (by omega)⟩
    · rcases List.mem_append.1 hm with hm | hm
      · exact hpad _ _ hm (by omega)
      · exact hpad _ _ hm (by omega)

/-- A store writes elements of the tensor alone. -/
theorem store_within (hm : m ∈ chunkMoves l g true off n q) : ∃ lo k : Nat, m.bits = l.es * k ∧
    InTensor l m.dst m.dbit (elemBit l g n ((128 / l.es * q : Nat) + lo)) ∧ ∀ j, lo ≤ j → j < lo + k → InsideAt l g n (128 / l.es * q) j := by
  obtain ⟨hle, hper, hmem⟩ := chunkRun_spec l g n q
  rw [chunkMoves_store] at hm
  generalize chunkRun l g n q = r at hle hper hmem hm
  split at hm
  · cases hm
  · obtain rfl := List.mem_singleton.1 hm
    exact ⟨r.1, r.2 - r.1, rfl, inTensor_tensorAt l _, fun j hlo hhi => (hmem j (by omega)).2 ⟨hlo, by omega⟩⟩

end

end Sys2Proof.Machine
end

section
/-! PROOF. A store to device memory that its log takes (R236, R237): its own ply sees the bytes stored, and every other byte as before. -/
namespace Sys2Proof.Machine

/-! ## The bytes of a log -/

/-- One entry's cell beneath what younger entries gave: the value and the bits covered. -/
def layCell (a : Byte × Byte) (c : Option (Byte × Byte)) : Byte × Byte :=
  match c with
  | some c => (a.1 ||| (c.1 &&& (c.2 &&& ~~~a.2)), a.2 ||| (c.2 &&& ~~~a.2))
  | none => a

/-- The cells at an offset of a sector of device memory that a ply sees in its core's log, youngest first. -/
def cellsSeen (s : State) (c p sec o : Nat) : List (Option (Byte × Byte)) := (visibleEntries s c p .dev sec).map (fun e => Tab.find o e.cells)

theorem byteFromLog_eq (es : List LogEntry) (o : Nat) :
    ((byteFromLog es o).1, (byteFromLog es o).2.1) = (es.map (fun e => Tab.find o e.cells)).foldl layCell (0, 0) := by
  have hall : ∀ (es : List LogEntry) (a : Byte × Byte × List LogEntry),
      ((es.foldl (fun a e =>
        match Tab.find o e.cells with
        | some c =>
          let m := c.2 &&& ~~~a.2.1
          if m = 0 then a else (a.1 ||| (c.1 &&& m), a.2.1 ||| m, e :: a.2.2)
        | none => a) a).1, (es.foldl (fun a e =>
        match Tab.find o e.cells with
        | some c =>
          let m := c.2 &&& ~~~a.2.1
          if m = 0 then a else (a.1 ||| (c.1 &&& m), a.2.1 ||| m, e :: a.2.2)
        | none => a) a).2.1) = (es.map (fun e => Tab.find o e.cells)).foldl layCell (a.1, a.2.1) := by
    intro es
    induction es with
    | nil => exact fun _ => rfl
    | cons e es ih =>
      intro a
      rw [List.foldl_cons, List.map_cons, List.foldl_cons, ih]
      congr 1
      cases Tab.find o e.cells with
      | none => rfl
      | some c =>
        dsimp only [layCell]
        split
        · next h => rw [h]; simp
        · rfl
  exact hall es (0, 0, [])

theorem byteSeen_eq (s : State) (c p a : Nat) : byteSeen s c p a =
    ((cellsSeen s c p (a / 128) (a % 128)).foldl layCell (0, 0)).1 |||
      (Mem.byte s.home a &&& ~~~((cellsSeen s c p (a / 128) (a % 128)).foldl layCell (0, 0)).2) := by
  unfold cellsSeen
  rw [← byteFromLog_eq]
  rfl

/-- Nothing shows beneath a whole byte. -/
theorem layCells_whole (b : Byte) (l : List (Option (Byte × Byte))) : l.foldl layCell (b, 0xFF) = (b, 0xFF) := by
  induction l with
  | nil => rfl
  | cons c l ih =>
    have hstep : layCell (b, 0xFF) c = (b, 0xFF) := by
      cases c with
      | none => rfl
      | some c => simp [layCell]
    rw [List.foldl_cons, hstep, ih]

/-- A whole byte of the youngest entry is what is seen. -/
theorem byteSeen_whole {s : State} {c p a : Nat} {b : Byte} {l : List (Option (Byte × Byte))}
    (h : cellsSeen s c p (a / 128) (a % 128) = some (b, 0xFF) :: l) : byteSeen s c p a = b := by
  have hfirst : layCell (0, 0) (some (b, 0xFF)) = (b, 0xFF) := by
    have hmask : (0xFF : Byte) &&& ~~~0 = BitVec.allOnes 8 := by decide
    simp only [layCell, hmask, BitVec.and_allOnes]
    simp
  rw [byteSeen_eq, h, List.foldl_cons, hfirst, layCells_whole, show (~~~(0xFF : Byte)) = 0 by decide]
  simp

/-- Cells that an entry does not have show what lies beneath. -/
theorem byteSeen_congr {s u : State} {c p a : Nat} (hhome : u.home = s.home)
    (h : cellsSeen u c p (a / 128) (a % 128) = cellsSeen s c p (a / 128) (a % 128) ∨
      cellsSeen u c p (a / 128) (a % 128) = none :: cellsSeen s c p (a / 128) (a % 128)) : byteSeen u c p a = byteSeen s c p a := by
  rw [byteSeen_eq, byteSeen_eq, hhome]
  rcases h with h | h <;> rw [h]
  rfl

/-! ## The cells of a store -/

theorem cellsOf_cons (off : Nat) (x : Byte) (xs : Bytes) : cellsOf off (x :: xs) = (off, (x, 0xFF)) :: cellsOf (off + 1) xs := by
  simp [cellsOf, upFrom]

/-- Whole bytes merged over cells. -/
theorem find_addCells (b : Bytes) : ∀ (off o : Nat) (t : Tab (Byte × Byte)), Tab.find o (addCells t (cellsOf off b)) =
    if off ≤ o ∧ o < off + b.length then some (b.getD (o - off) 0, 0xFF) else Tab.find o t := by
  induction b with
  | nil => exact fun off o t => by rw [if_neg (by simp)]; rfl
  | cons x xs ih =>
    intro off o t
    have hone : ∀ old : Byte × Byte, (mergeByte old.1 x 0xFF, old.2 ||| 0xFF) = (x, (0xFF : Byte)) := fun old => by
      rw [mergeByte_whole, show (0xFF : Byte) = BitVec.allOnes 8 from rfl, BitVec.or_allOnes]
    have hcell : addCell t off (x, 0xFF) = Tab.put off (x, 0xFF) t := by
      unfold addCell
      dsimp only
      rw [hone]
    rw [cellsOf_cons]
    change Tab.find o (addCells (addCell t off (x, 0xFF)) (cellsOf (off + 1) xs)) = _
    rw [ih, hcell, Tab.find_put, List.length_cons]
    by_cases ho : o = off
    · subst ho
      rw [if_neg (by omega), if_pos rfl, if_pos (by omega), Nat.sub_self]
      rfl
    · rw [if_neg ho]
      by_cases hin : off + 1 ≤ o ∧ o < off + 1 + xs.length
      · rw [if_pos hin, if_pos (by omega), show o - off = (o - (off + 1)) + 1 by omega]
        rfl
      · rw [if_neg hin, if_neg (by omega)]

theorem find_cellsOf (b : Bytes) : ∀ off o : Nat, Tab.find o (cellsOf off b) =
    if off ≤ o ∧ o < off + b.length then some (b.getD (o - off) 0, 0xFF) else none := by
  induction b with
  | nil => exact fun off o => by rw [if_neg (by simp)]; rfl
  | cons x xs ih =>
    intro off o
    rw [cellsOf_cons, Tab.find, ih, List.length_cons]
    by_cases ho : off = o
    · subst ho
      rw [if_pos rfl, if_pos (by omega), Nat.sub_self]
      rfl
    · rw [if_neg ho]
      by_cases hin : off + 1 ≤ o ∧ o < off + 1 + xs.length
      · rw [if_pos hin, if_pos (by omega), show o - off = (o - (off + 1)) + 1 by omega]
        rfl
      · rw [if_neg hin, if_neg (by omega)]

/-! ## What a store does to its log -/

/-- An entry that a store joins, as it then is. -/
def joinedEntry (e : LogEntry) (now : Nat) (vaddr : W64) (cells : Tab (Byte × Byte)) (poison : Bool) (g : LogEntry) : LogEntry :=
  if g.serial == e.serial then
    { g with cells := addCells g.cells cells, touched := now, poison := g.poison || poison
             others := if g.vaddr == vaddr || g.others.contains vaddr then g.others else g.others ++ [vaddr] }
  else g

/-- An entry of a ply's own that its store appends. -/
structure OwnEntry (e : LogEntry) (p : Nat) (space : LogSpace) (sec : Nat) (cells : Tab (Byte × Byte)) : Prop where
  ply : e.ply = p
  space : e.space = space
  sector : e.sector = sec
  cells : e.cells = cells

theorem log_appendEntry (s : State) (p : Nat) (space : LogSpace) (sec : Nat) (vaddr : W64) (pol : Nat) (cells : Tab (Byte × Byte)) (poison : Bool) :
    ∃ e, OwnEntry e p space sec cells ∧
      ((appendEntry s p space sec vaddr pol cells poison).core (s.ply p).core).log = (s.core (s.ply p).core).log ++ [e] := by
  have hcores : ∀ (t : State) (hit : Flip → Bool), (dropFlips t hit).cores = t.cores := fun t hit => (homeRead_dropFlips t hit).cores
  unfold appendEntry
  dsimp only
  generalize hd : dropFlips s _ = d
  have hlog : (d.core (s.ply p).core).log = (s.core (s.ply p).core).log := by rw [State.core, State.core, ← hd, hcores]
  have hmod : ∀ f : Core → Core, (d.modCore (s.ply p).core f).bump.core (s.ply p).core = f (d.core (s.ply p).core) := fun f =>
    (State.core_modCore_eq d _ _ f).trans (if_pos rfl)
  simp only [hmod, hlog]
  refine ⟨_, ⟨?_, ?_, ?_, ?_⟩, rfl⟩
  all_goals rfl

theorem log_logStore (s : State) (p : Nat) (space : LogSpace) (sec : Nat) (vaddr : W64) (pol : Nat) (cells : Tab (Byte × Byte)) (poison : Bool) :
    (∃ e, OwnEntry e p space sec cells ∧
      ((logStore s p space sec vaddr pol cells poison).core (s.ply p).core).log = (s.core (s.ply p).core).log ++ [e]) ∨
    ∃ e, youngest s (s.ply p).core space sec = some e ∧ e.ply = p ∧
      ((logStore s p space sec vaddr pol cells poison).core (s.ply p).core).log =
        (s.core (s.ply p).core).log.map (joinedEntry e s.clock vaddr cells poison) := by
  unfold logStore
  dsimp only
  split
  · next e he =>
    split
    · next hj =>
      refine .inr ⟨e, he, ?_, ?_⟩
      · have hjoin : e.joins p (s.ply p).vdev space sec (s.ply p).prot s.clock = true := by simpa [joinsEntry, he] using hj
        simp only [LogEntry.joins, Bool.and_eq_true, beq_iff_eq] at hjoin
        obtain ⟨⟨⟨⟨⟨⟨-, hply⟩, -⟩, -⟩, -⟩, -⟩, -⟩ := hjoin
        exact hply
      · rw [State.core_modCore_eq, if_pos rfl]
        rfl
    · exact .inl (log_appendEntry s p space sec vaddr pol cells poison)
  · exact .inl (log_appendEntry s p space sec vaddr pol cells poison)

/-! ## What the ply sees -/

/-- An entry may be read by a ply in a sector of device memory. -/
def SeenIn (p sec : Nat) (e : LogEntry) : Bool := e.space == .dev && e.sector == sec && (e.ply == p || !e.held)

theorem cellsSeen_of_append {s u : State} {c p sec : Nat} {e : LogEntry} (hlog : (u.core c).log = (s.core c).log ++ [e]) (o : Nat) :
    cellsSeen u c p sec o = if SeenIn p sec e then Tab.find o e.cells :: cellsSeen s c p sec o else cellsSeen s c p sec o := by
  have hvis : visibleEntries u c p .dev sec = ((s.core c).log ++ [e] |>.filter (SeenIn p sec)).reverse := by rw [← hlog]; rfl
  unfold cellsSeen
  rw [hvis, List.filter_append]
  by_cases he : SeenIn p sec e = true
  · rw [if_pos he, List.filter_cons_of_pos he, List.filter_nil, List.reverse_append]
    rfl
  · rw [if_neg he, List.filter_cons_of_neg he, List.filter_nil, List.append_nil]
    rfl

theorem cellsSeen_of_joined {s u : State} {c p : Nat} {e : LogEntry} {now : Nat} {vaddr : W64} {cells : Tab (Byte × Byte)} {poison : Bool}
    (hlog : (u.core c).log = (s.core c).log.map (joinedEntry e now vaddr cells poison)) (sec o : Nat) :
    cellsSeen u c p sec o = (visibleEntries s c p .dev sec).map (fun g => Tab.find o (joinedEntry e now vaddr cells poison g).cells) := by
  have hseen : (SeenIn p sec ∘ joinedEntry e now vaddr cells poison) = SeenIn p sec := by
    funext g
    unfold joinedEntry SeenIn
    dsimp only [Function.comp]
    split <;> rfl
  have hvis : visibleEntries u c p .dev sec = (visibleEntries s c p .dev sec).map (joinedEntry e now vaddr cells poison) := by
    change ((u.core c).log.filter (SeenIn p sec)).reverse = _
    rw [hlog, List.filter_map, hseen, ← List.map_reverse]
    rfl
  unfold cellsSeen
  rw [hvis, List.map_map]
  rfl

/-- A ply's own youngest entry for a sector is the first that it reads. -/
theorem visibleEntries_of_youngest {s : State} {c p sec : Nat} {e : LogEntry} (h : youngest s c .dev sec = some e) (hp : e.ply = p) :
    ∃ l, visibleEntries s c p .dev sec = e :: l := by
  obtain ⟨he, as, bs, hrev, has⟩ := List.find?_eq_some_iff_append.1 h
  have hnone : as.filter (SeenIn p sec) = [] := by
    refine List.filter_eq_nil_iff.2 fun g hg => ?_
    have hno := has g hg
    simp only [SeenIn, Bool.and_eq_true]
    rintro ⟨hsec, -⟩
    simp [hsec] at hno
  have hown : SeenIn p sec e = true := by
    simp only [SeenIn, he, hp, beq_self_eq_true, Bool.true_or, Bool.and_self]
  refine ⟨bs.filter (SeenIn p sec), ?_⟩
  change ((s.core c).log.filter (SeenIn p sec)).reverse = _
  rw [← List.filter_reverse, hrev, List.filter_append, hnone, List.filter_cons_of_pos hown, List.nil_append]

/-- The bytes of device memory that a ply sees after its store of whole bytes within a sector. -/
theorem byteSeen_logStore {s : State} {p c sec off : Nat} (hnum : LogNumbered s) (hc : (s.ply p).core = c) (vaddr : W64) (pol : Nat) {b : Bytes}
    (hfit : off + b.length ≤ 128) (poison : Bool) (a : Nat) : byteSeen (logStore s p .dev sec vaddr pol (cellsOf off b) poison) c p a =
      if sec * 128 + off ≤ a ∧ a < sec * 128 + off + b.length then b.getD (a - (sec * 128 + off)) 0 else byteSeen s c p a := by
  have hhome := (bankKept_logStore s p .dev sec vaddr pol (cellsOf off b) poison).home
  have hcases := log_logStore s p .dev sec vaddr pol (cellsOf off b) poison
  rw [hc] at hcases
  generalize logStore s p .dev sec vaddr pol (cellsOf off b) poison = u at hhome hcases
  have hcover : (sec * 128 + off ≤ a ∧ a < sec * 128 + off + b.length) ↔ a / 128 = sec ∧ off ≤ a % 128 ∧ a % 128 < off + b.length := by omega
  rcases hcases with ⟨e, ⟨hply, hspace, hsec, hcells⟩, hlog⟩ | ⟨e, hyoung, hply, hlog⟩
  · have hcs := cellsSeen_of_append (p := p) (sec := a / 128) hlog (a % 128)
    rw [hcells, find_cellsOf] at hcs
    have hown : SeenIn p (a / 128) e = true ↔ a / 128 = sec := by
      simp only [SeenIn, hspace, hsec, hply, beq_self_eq_true, Bool.true_and, Bool.true_or, Bool.and_true, beq_iff_eq]
      exact eq_comm
    split
    · next hin =>
      obtain ⟨hs, ho⟩ := hcover.1 hin
      rw [if_pos (hown.2 hs), if_pos ho] at hcs
      rw [byteSeen_whole hcs, show a % 128 - off = a - (sec * 128 + off) by omega]
    · next hout =>
      by_cases hs : a / 128 = sec
      · rw [if_pos (hown.2 hs), if_neg fun ho => hout (hcover.2 ⟨hs, ho⟩)] at hcs
        exact byteSeen_congr hhome (.inr hcs)
      · rw [if_neg fun h => hs (hown.1 h)] at hcs
        exact byteSeen_congr hhome (.inl hcs)
  · have hcs := cellsSeen_of_joined (p := p) hlog (a / 128) (a % 128)
    obtain ⟨l, hvis⟩ := visibleEntries_of_youngest hyoung hply
    have hmem : e ∈ (s.core c).log := List.mem_reverse.1 (List.mem_of_find?_eq_some hyoung)
    have hsec : e.sector = sec := by
      have hfind := List.find?_some hyoung
      simp only [Bool.and_eq_true, beq_iff_eq] at hfind
      exact hfind.2
    split
    · next hin =>
      obtain ⟨rfl, ho⟩ := hcover.1 hin
      rw [hvis, List.map_cons, joinedEntry, if_pos (beq_self_eq_true _), find_addCells, if_pos ho] at hcs
      rw [byteSeen_whole hcs, show a % 128 - off = a - (a / 128 * 128 + off) by omega]
    · next hout =>
      refine byteSeen_congr hhome (.inl (hcs.trans (List.map_congr_left fun g hg => ?_)))
      unfold joinedEntry
      split
      · next hserial =>
        obtain ⟨hglog, hgseen⟩ := List.mem_filter.1 (List.mem_reverse.1 hg)
        have hge : g = e := List.inj_on_of_nodup_map (hnum c).1 hglog hmem (beq_iff_eq.1 hserial)
        have hgsec : g.sector = a / 128 := by
          simp only [Bool.and_eq_true, beq_iff_eq] at hgseen
          exact hgseen.1.2
        have hs : a / 128 = sec := by rw [← hgsec, hge, hsec]
        dsimp only
        rw [find_addCells, if_neg fun ho => hout (hcover.2 ⟨hs, ho⟩)]
      · rfl

end Sys2Proof.Machine
end

section
/-! PROOF. A move of whole bytes within one sector (R72, R198, R200): the bytes that the source gives are those of the destination. -/
namespace Sys2Proof.Machine

/-! ## The cells of whole bytes -/

theorem bytesLE_natLE (b : Bytes) : bytesLE (natLE b) b.length = b := by
  induction b with
  | nil => rfl
  | cons x xs ih =>
    have hx : x.toNat < 256 := x.isLt
    rw [natLE, List.length_cons, bytesLE, show (x.toNat + 256 * natLE xs) / 256 = natLE xs by omega, ih]
    congr 1
    apply BitVec.eq_of_toNat_eq
    rw [BitVec.toNat_ofNat]
    omega

theorem bytesLE_ones (n : Nat) : bytesLE (2 ^ (8 * n) - 1) n = List.replicate n 0xFF := by
  induction n with
  | zero => rfl
  | succ n ih =>
    have hpow : 2 ^ (8 * (n + 1)) = 256 * 2 ^ (8 * n) := by rw [Nat.mul_succ, Nat.pow_add, Nat.mul_comm]
    have hpos := Nat.two_pow_pos (8 * n)
    rw [bytesLE, hpow, show (256 * 2 ^ (8 * n) - 1) / 256 = 2 ^ (8 * n) - 1 by omega, ih, List.replicate_succ]
    congr 1
    apply BitVec.eq_of_toNat_eq
    rw [BitVec.toNat_ofNat]
    change (256 * 2 ^ (8 * n) - 1) % 256 = 255
    omega

theorem zip_whole (b : Bytes) : ∀ o : Nat, (upFrom o b.length).zip (b.zip (List.replicate b.length 0xFF)) = cellsOf o b := by
  induction b with
  | nil => exact fun _ => rfl
  | cons x xs ih =>
    intro o
    rw [cellsOf_cons, ← ih, List.length_cons, upFrom, List.replicate_succ, List.zip_cons_cons, List.zip_cons_cons]

/-- A move of k whole bytes. -/
structure Move.Whole (m : Move) (k : Nat) : Prop where
  dbit : m.dbit = 0
  bits : m.bits = 8 * k
  pos : 0 < k
  fits : ptrAddr m.dst % 128 + k ≤ 128

theorem Move.Whole.bytes {m : Move} {k : Nat} (h : m.Whole k) : m.bytes = k := by
  unfold Move.bytes
  rw [h.dbit, h.bits]
  omega

theorem Move.Whole.cells {m : Move} {b : Bytes} (h : m.Whole b.length) (hfill : m.fill = natLE b) :
    m.cells (0, b.length) = cellsOf (ptrAddr m.dst % 128) b := by
  have hlt : natLE b < 2 ^ (8 * b.length) := by
    rw [Nat.pow_mul]
    exact natLE_lt b
  unfold Move.cells
  dsimp only
  rw [h.bytes, hfill, h.dbit, h.bits, Nat.mod_eq_of_lt hlt, Nat.pow_zero, Nat.mul_one, Nat.mul_one, bytesLE_natLE, bytesLE_ones, List.drop_zero,
    List.drop_zero, List.take_length, List.take_of_length_le (List.length_replicate ..).le, Nat.add_zero]
  exact zip_whole b _

/-! ## The write of one move -/

theorem pieces_one {a k : Nat} (hk : 0 < k) (hfit : a % 128 + k ≤ 128) : pieces a k = [(0, k)] := by
  unfold pieces
  rw [if_neg (by omega), if_pos (Nat.min_eq_left (by omega))]

theorem xWrite_one {s v w : State} {c : Ctx} {m : Move} {k : Nat} (h : m.Whole k) {pl : Place} {va : W64}
    (hplace : xPlace s c m.dst 1 5 = .ok (pl, va, v)) (hroom : roomFor v c [pl] = .ok w) :
    xWrite s c [m] = .ok (writePlaceP w c pl va (ptrPol m.dst) (m.cells (0, k)) m.hurt) := by
  have hzero : m.dst + w64 0 = m.dst := by simp [w64]
  unfold xWrite
  rw [List.flatMap_cons, List.flatMap_nil, List.append_nil, h.bytes, pieces_one h.pos h.fits]
  simp only [List.map_cons, List.map_nil, List.foldlM_cons, List.foldlM_nil, hzero, hplace, List.nil_append]
  change (match roomFor v c [pl] with
    | .ok u => Except.ok (writePlaceP u c pl va (ptrPol m.dst) (m.cells (0, k)) m.hurt)
    | .error u => Except.error (Halt.wait u)) = _
  rw [hroom]

/-- A move that copies whole bytes, where the destination's place has room. -/
theorem moveOne_whole {s t v w : State} {x : Xfer} {m : Move} {a va : W64} {b : Bytes} {po hb : Option W64} {pl : Place} (hsrc : m.src = some a)
    (hsbit : m.sbit = 0) (h : m.Whole b.length) (hread : xRead s (ctxOfX x) a b.length = .ok (b, po, hb, t))
    (hplace : xPlace (notePoison t x po hb) (ctxOfX x) m.dst 1 5 = .ok (pl, va, v)) (hroom : roomFor v (ctxOfX x) [pl] = .ok w) :
    moveOne s x m = .ok (writePlaceP w (ctxOfX x) pl va (ptrPol m.dst) (cellsOf (ptrAddr m.dst % 128) b) po.isSome, po.isSome) := by
  have hcount : (m.sbit + m.bits + 7) / 8 = b.length := by
    rw [hsbit, h.bits]
    omega
  have hfilled : Move.Whole { m with src := some a, fill := natLE b / 2 ^ m.sbit, hurt := po.isSome } b.length := ⟨h.dbit, h.bits, h.pos, h.fits⟩
  have hwrite := xWrite_one hfilled hplace hroom
  rw [hfilled.cells (by rw [hsbit, Nat.pow_zero, Nat.div_one])] at hwrite
  unfold moveOne
  rw [hsrc]
  dsimp only
  rw [hcount, hread]
  change xWrite (notePoison t x po hb) (ctxOfX x) [{ m with src := some a, fill := natLE b / 2 ^ m.sbit, hurt := po.isSome }] >>=
    (fun u => .ok (u, po.isSome)) = _
  rw [hwrite]
  rfl

/-! ## Into scratch -/

theorem scratch_scrPoisonBytes (s : State) (p off n q : Nat) : ((scrPoisonBytes s p off n).ply q).scratch = (s.ply q).scratch := by
  unfold scrPoisonBytes
  refine List.foldlRecOn (motive := fun t : State => (t.ply q).scratch = (s.ply q).scratch) _ _ rfl fun t ht g _ => ?_
  rw [State.ply_modPly_eq]
  split
  · exact ht
  · exact ht

theorem roomFor_scratch (s : State) (c : Ctx) (q o : Nat) : roomFor s c [.scratch q o] = .ok s := rfl

theorem wroteScratch_writePlaceP {s : State} (c : Ctx) {q o : Nat} (va : W64) (pol : Nat) {b : Bytes} (hb : b ≠ []) (hfit : o % 128 + b.length ≤ 128)
    (poison : Bool) : WroteScratch s (writePlaceP s c (.scratch q o) va pol (cellsOf (o % 128) b) poison) q o b := by
  have hclean := (scrWrite_wrote s (p := q) hb hfit).2
  rw [← writePlace_scratch c va pol hb] at hclean
  cases poison with
  | false => exact hclean
  | true =>
    refine hclean.after (fun _ => rfl) fun r => ?_
    exact scratch_scrPoisonBytes _ _ _ _ r

/-! ## Into device memory -/

theorem roomFor_hbm {s : State} {c : Ctx} (hroom : LogRoom s c.core 1) (pa : Nat) : roomFor s c [.hbm pa] = .ok s := by
  have hmost : newEntries s c.ply ([Place.hbm pa].filterMap (placeEntry c)) ≤ 1 := by
    unfold newEntries
    exact (List.length_filter_le _ _).trans (by simp [placeEntry])
  have hfits : makeRoom s c.core (newEntries s c.ply ([Place.hbm pa].filterMap (placeEntry c))) Config.logEntries = (s, false) := by
    have hcount := hroom.2
    cases hf : Config.logEntries with
    | zero => rfl
    | succ fuel =>
      unfold makeRoom
      rw [if_pos (by omega)]
  unfold roomFor
  dsimp only
  rw [hfits]
  split <;> rfl

theorem plies_logStore (s : State) (p : Nat) (space : LogSpace) (sec : Nat) (vaddr : W64) (pol : Nat) (cells : Tab (Byte × Byte)) (poison : Bool) :
    (logStore s p space sec vaddr pol cells poison).plies = s.plies := by
  have happend : (appendEntry s p space sec vaddr pol cells poison).plies = s.plies := by
    unfold appendEntry
    exact (homeRead_dropFlips s _).plies
  unfold logStore
  dsimp only
  split
  · split
    · rfl
    · exact happend
  · exact happend

/-! ## The two destinations -/

section
variable {s t v : State} {x : Xfer} {m : Move} {a va : W64} {b : Bytes} {po hb : Option W64} (hsrc : m.src = some a) (hsbit : m.sbit = 0)
  (h : m.Whole b.length) (hread : xRead s (ctxOfX x) a b.length = .ok (b, po, hb, t))
include hsrc hsbit h hread

theorem moveOne_scratch {q o : Nat} (hplace : xPlace (notePoison t x po hb) (ctxOfX x) m.dst 1 5 = .ok (.scratch q o, va, v))
    (halign : o % 128 = ptrAddr m.dst % 128) : ∃ u, moveOne s x m = .ok (u, po.isSome) ∧ WroteScratch v u q o b := by
  refine ⟨_, moveOne_whole hsrc hsbit h hread hplace (roomFor_scratch v _ q o), ?_⟩
  rw [← halign]
  refine wroteScratch_writePlaceP _ _ _ (List.ne_nil_of_length_pos h.pos) ?_ _
  rw [halign]
  exact h.fits

theorem moveOne_hbm {pa : Nat} (hplace : xPlace (notePoison t x po hb) (ctxOfX x) m.dst 1 5 = .ok (.hbm pa, va, v))
    (halign : pa % 128 = ptrAddr m.dst % 128) (hcore : (v.ply x.ply).core = x.core) (hroom : LogRoom v x.core 1) :
    ∃ u, moveOne s x m = .ok (u, po.isSome) ∧ (∀ j, byteSeen u x.core x.ply j =
      if pa ≤ j ∧ j < pa + b.length then b.getD (j - pa) 0 else byteSeen v x.core x.ply j) ∧ u.home = v.home ∧ u.plies = v.plies := by
  refine ⟨_, moveOne_whole hsrc hsbit h hread hplace (roomFor_hbm (c := ctxOfX x) hroom pa), fun j => ?_, (bankKept_logStore _ _ _ _ _ _ _ _).home,
    plies_logStore _ _ _ _ _ _ _ _⟩
  have hfit := h.fits
  have hbytes := byteSeen_logStore hroom.1 hcore (w64 (va.toNat - pa % 128)) (ptrPol m.dst) (sec := pa / 128) (off := pa % 128) (b := b)
    (by omega) po.isSome j
  rw [show pa / 128 * 128 + pa % 128 = pa by omega] at hbytes
  rw [← halign]
  exact hbytes

end

end Sys2Proof.Machine
end

section
/-! PROOF. The engines' steps (R195 to R203, R381, R382, R399): each event does to its transfer what its stage calls for. -/
namespace Sys2Proof.Machine

/-! ## The table of transfers -/

theorem id_of_xfer {s : State} {id : Nat} {x : Xfer} (h : s.xfer id = some x) : x.id = id := beq_iff_eq.1 (List.find?_some h :)

theorem xfer_modXfer {s : State} {id : Nat} {x : Xfer} (h : s.xfer id = some x) {f : Xfer → Xfer} (hid : ∀ y, (f y).id = y.id) :
    (s.modXfer id f).xfer id = some (f x) := by
  have hall : ∀ l : List Xfer, l.find? (fun y => y.id == id) = some x →
      (l.map (fun y => if y.id == id then f y else y)).find? (fun y => y.id == id) = some (f x) := by
    intro l
    induction l with
    | nil => exact fun h => nomatch h
    | cons y l ih =>
      intro h
      by_cases hy : (y.id == id) = true
      · rw [List.find?_cons_of_pos (p := fun y : Xfer => y.id == id) hy] at h
        cases h
        rw [List.map_cons, if_pos hy, List.find?_cons_of_pos (p := fun y : Xfer => y.id == id) (by rw [hid]; exact hy)]
      · rw [List.find?_cons_of_neg (p := fun y : Xfer => y.id == id) hy] at h
        rw [List.map_cons, if_neg hy, List.find?_cons_of_neg (p := fun y : Xfer => y.id == id) hy]
        exact ih h
  exact hall s.xfers h

theorem not_mem_dropXfer (s : State) (id : Nat) : ∀ y ∈ (s.dropXfer id).xfers, y.id ≠ id := fun y hy => by
  simpa using (List.mem_filter.1 hy).2

theorem plies_finishXfer (s : State) (id : Nat) : (finishXfer s id).plies = s.plies := by
  unfold finishXfer
  split
  · split <;> rfl
  · rfl

/-! ## Start (R195) -/

section
variable {id : Nat} {x : Xfer} {s t : State} (hx : s.xfer id = some x) (hstart : x.started = false) (hpause : x.paused = none)
  (hpri : x.pausedPri = none) (hready : ∀ sc, x.acq = some sc → canReplay s x.core sc 0 = true)
  (ht : t = (match x.acq with
    | some sc => acquire s x.core sc 0
    | none => s))
include hx hstart hpause hpri hready ht

/-- A transfer starts once its acquire has taken effect. -/
theorem exec_transferStart : exec (.transferStart id) s = .next (match x.kind with
    | .ratom => startRatom t x
    | .coll =>
      match xRead t (ctxOfX x) x.a 64 with
      | .ok (b, po, hb, u) => startColl (notePoison u x po hb) x b
      | .error h => haltXfer x h (.transferStart id)
    | .tcopyLd | .tcopySt | .tcopyPl =>
      match xRead t (ctxOfX x) (w64 (x.a.toNat / 128 * 128)) 128 with
      | .ok (b, po, hb, u) => startTcopy (notePoison u x po hb) x b
      | .error h => haltXfer x h (.transferStart id)
    | _ => beginXfer t x (bulkUnits x) (x.grp.getD 1 0).toNat [] x.rd x.wr) := by
  have hacq : ((x.acq.map (fun sc => canReplay s x.core sc 0)).getD true) = true := by
    cases ha : x.acq with
    | none => rfl
    | some sc => exact hready sc ha
  change execTransferStart id s = _
  unfold execTransferStart
  rw [hx]
  dsimp only
  rw [hstart, hpause, hpri, hacq, ht]
  rfl

theorem exec_transferStart_bulk (hk : x.kind = .bcopy ∨ x.kind = .bfill ∨ x.kind = .scopy) :
    exec (.transferStart id) s = .next (beginXfer t x (bulkUnits x) (x.grp.getD 1 0).toNat [] x.rd x.wr) := by
  rw [exec_transferStart hx hstart hpause hpri hready ht]
  rcases hk with hk | hk | hk <;> rw [hk]

theorem exec_transferStart_coll {b : Bytes} {po hb : Option W64} {u : State} (hread : xRead t (ctxOfX x) x.a 64 = .ok (b, po, hb, u))
    (hk : x.kind = .coll) : exec (.transferStart id) s = .next (startColl (notePoison u x po hb) x b) := by
  rw [exec_transferStart hx hstart hpause hpri hready ht, hk, hread]

theorem exec_transferStart_tcopy {b : Bytes} {po hb : Option W64} {u : State}
    (hread : xRead t (ctxOfX x) (BitVec.ofNat 64 (x.a.toNat / 128 * 128)) 128 = .ok (b, po, hb, u))
    (hk : x.kind = .tcopyLd ∨ x.kind = .tcopySt ∨ x.kind = .tcopyPl) :
    exec (.transferStart id) s = .next (startTcopy (notePoison u x po hb) x b) := by
  rw [exec_transferStart hx hstart hpause hpri hready ht]
  unfold w64
  rw [hread]
  rcases hk with hk | hk | hk <;> rw [hk]

end

/-! ## Units (R195, R299) -/

theorem cutAtBlock_append (l : List Move) : (cutAtBlock l).1 ++ (cutAtBlock l).2 = l := by
  cases l with
  | nil => rfl
  | cons m ms =>
    exact congrArg (m :: ·) (List.prefix_append_drop (List.takeWhile_prefix _)).symm

section
variable {id : Nat} {x : Xfer} {s : State} (hx : s.xfer id = some x) (hstart : x.started = true) (hpause : x.paused = none)
  (hpri : x.pausedPri = none) (hdone : x.done = false) (hkind : x.kind.copies = true ∨ (x.kind = .coll ∧ x.step = 1))
  (hfollow : mustFollow s x = false)
include hx hstart hpause hpri hdone hkind hfollow

/-- A transfer under way goes on with its next unit. -/
theorem exec_transferComplete : exec (.transferComplete id) s = .next (match x.units with
    | [] => endXfer s x
    | u :: us =>
      match arrayPair s x with
      | some p =>
        (match moveBlock s x p with
        | some t =>
          let r := takeChunks (blockBytes / 16) x.units
          goOnXfer (r.2.foldl (fun t u => landUnit t x u) t) x r.1
        | none => s.later (.transferComplete id))
      | none =>
        let cut := if x.kind == .bcopy || x.kind == .bfill then cutAtBlock u.moves else (u.moves, [])
        let left (v : ReportUnit) : List ReportUnit := { v with moves := v.moves ++ cut.2 } :: us
        match moveUnit s x { u with moves := cut.1 } with
        | (t, v, none) =>
          if cut.2 = [] then goOnXfer (landUnit t x u) x us
          else goOnXfer t x ({ v with moves := cut.2 } :: us)
        | (t, v, some (.fault _ _)) => (leaveUnits t id (left v)).urgent (.transferPause id)
        | (_, v, some (.wait w)) => (leaveUnits w id (left v)).later (.transferComplete id)
        | (t, _, some (.error e _)) => consumeError t x.ply { e with pc := x.w.toNat, away := !x.handler }) := by
  have hratom : (x.kind == .ratom) = false := by
    rcases hkind with h | ⟨h, -⟩
    · unfold XKind.copies at h
      simpa using (by simpa using h : ¬ x.kind = .ratom ∧ _).1
    · rw [h]
      rfl
  have hcoll : (x.kind == .coll && x.step == 0) = false := by
    rcases hkind with h | ⟨h, hs⟩
    · have hne : ¬ x.kind = .coll := (by simpa [XKind.copies] using h : _ ∧ ¬ x.kind = .coll).2
      simp [hne]
    · simp [hs]
  change execTransferComplete id s = _
  unfold execTransferComplete
  rw [hx]
  dsimp only
  rw [hstart, hpause, hpri, hratom, hcoll, hdone, hfollow]
  rfl

theorem exec_transferComplete_end (hu : x.units = []) : exec (.transferComplete id) s = .next (endXfer s x) := by
  rw [exec_transferComplete hx hstart hpause hpri hdone hkind hfollow, hu]

theorem exec_transferComplete_unit {u v : ReportUnit} {us : List ReportUnit} {t : State} (hu : x.units = u :: us) (hpair : arrayPair s x = none)
    (hcut : (x.kind = .bcopy ∨ x.kind = .bfill) → (cutAtBlock u.moves).2 = []) (hmove : moveUnit s x u = (t, v, none)) :
    exec (.transferComplete id) s = .next (goOnXfer (landUnit t x u) x us) := by
  have hwhole : (if x.kind == .bcopy || x.kind == .bfill then cutAtBlock u.moves else (u.moves, [])) = (u.moves, []) := by
    split
    · next hk =>
      have hrest := hcut (by simpa using hk)
      have hall := cutAtBlock_append u.moves
      rw [hrest, List.append_nil] at hall
      exact Prod.ext hall hrest
    · rfl
  rw [exec_transferComplete hx hstart hpause hpri hdone hkind hfollow, hu]
  dsimp only
  rw [hpair]
  dsimp only
  rw [hwhole]
  dsimp only
  rw [hmove]
  rfl

theorem exec_transferComplete_cut {u v : ReportUnit} {us : List ReportUnit} {t : State} (hu : x.units = u :: us) (hpair : arrayPair s x = none)
    (hk : x.kind = .bcopy ∨ x.kind = .bfill) (hcut : (cutAtBlock u.moves).2 ≠ [])
    (hmove : moveUnit s x { u with moves := (cutAtBlock u.moves).1 } = (t, v, none)) :
    exec (.transferComplete id) s = .next (goOnXfer t x ({ v with moves := (cutAtBlock u.moves).2 } :: us)) := by
  have hcopy : (x.kind == .bcopy || x.kind == .bfill) = true := by simpa using hk
  rw [exec_transferComplete hx hstart hpause hpri hdone hkind hfollow, hu]
  dsimp only
  rw [hpair]
  dsimp only
  rw [if_pos hcopy, hmove]
  dsimp only
  rw [if_neg hcut]

theorem exec_transferComplete_block {pair : Option Nat × Nat} {t : State} (hpair : arrayPair s x = some pair) (hmove : moveBlock s x pair = some t) :
    exec (.transferComplete id) s = .next
      (goOnXfer ((takeChunks (blockBytes / 16) x.units).2.foldl (fun t u => landUnit t x u) t) x (takeChunks (blockBytes / 16) x.units).1) := by
  rw [exec_transferComplete hx hstart hpause hpri hdone hkind hfollow]
  cases hu : x.units with
  | nil =>
    unfold arrayPair at hpair
    rw [hu] at hpair
    cases hpair
  | cons u us =>
    dsimp only
    rw [hpair]
    dsimp only
    rw [hmove]

end

/-! ## Reports and pauses (R74, R197, R382) -/

theorem xBarrier_aligned {s : State} {x : Xfer} {q o : Nat} (h : xBarrier s x = some (q, o)) : o % 32 = 0 := by
  unfold xBarrier at h
  split at h
  · cases h
  · split at h
    · next hc => exact scratchOf_aligned hc (show 32 ∣ 2 ^ 20 by decide) h
    · cases h

theorem readObj_congr {s t : State} (h : t.plies = s.plies) (q o : Nat) : readObj t q o = readObj s q o := by
  unfold readObj scrRead State.ply
  rw [h]

/-- A landing report is one step on the barrier object. -/
theorem exec_landingReport {id unit n q o : Nat} {x : Xfer} {s : State} (hx : s.xfer id = some x) (hn : Tab.find unit x.landed = some n)
    (hpost : x.postFailed = false) (hbar : xBarrier s x = some (q, o)) :
    ∃ u, exec (.landingReport id unit) s = .next u ∧ readObj u q o = ((readObj s q o).land n).1 := by
  have hstep := barrierStep_stepped s x.ply x.strand x.frag (xBarrier_aligned hbar) (step := fun b => b.land n) ((readObj_fits s q o).land n)
  refine ⟨finishXfer ((barrierStep s x.ply x.strand x.frag q o (fun b => b.land n)).modXfer id
    (fun y => { y with landed := Tab.del unit y.landed })) id, ?_, ?_⟩
  · change execLandingReport id unit s = _
    unfold execLandingReport
    rw [hx]
    dsimp only
    rw [hn]
    dsimp only
    rw [hpost, hbar, if_neg Bool.false_ne_true]
  · have hplies : ∀ (t : State) f, (t.modXfer id f).plies = t.plies := fun _ _ => rfl
    exact (readObj_congr ((plies_finishXfer _ id).trans (hplies _ _)) q o).trans hstep.obj

theorem exec_transferPause {id : Nat} {x : Xfer} {s : State} {i : FaultInfo} (hx : s.xfer id = some x) (hf : nextFault s x = some i) :
    exec (.transferPause id) s = .next (pauseTransfer s x i) := by
  change execTransferPause id s = _
  unfold execTransferPause
  rw [hx]
  dsimp only
  rw [hf]

/-! ## Remote atomics (R201) -/

/-- A remote atomic's request is answered. -/
def answered (s : State) (id : Nat) : State := s.modPlat (fun p => { p with reqs := p.reqs.filter (fun r => r.ask != .ratom id) })

theorem scratchOf_answered (s : State) (id p : Nat) (ea : W64) : scratchOf (answered s id) p ea = scratchOf s p ea := by
  unfold scratchOf
  rfl

/-- Checks of an address do not read the requests under way. -/
theorem checkAddr_answered (s : State) (id : Nat) (c : Ctx) (base : W64) (off : Int) (acc : Acc) :
    checkAddr (answered s id) c base off acc = checkAddr s c base off acc := by
  have hply : ∀ q, (answered s id).ply q = s.ply q := fun _ => rfl
  have hreel : ∀ q, (answered s id).reel q = s.reel q := fun _ => rfl
  have hskein : ∀ q, (answered s id).skein q = s.skein q := fun _ => rfl
  simp only [checkAddr, checkSegment, scratchOf_answered, hply, hreel, hskein]

/-- What a slot receives: the old value, the status and the operation. -/
def slotBytes (x : Xfer) (old : W64) (st : Nat) : Bytes :=
  bytesLE (old.toNat % 2 ^ (8 * amoBytes (x.grp.getD 0 0).toNat)) 8 ++ bytesLE st 4 ++ bytesLE (x.grp.getD 0 0).toNat 4

theorem length_slotBytes (x : Xfer) (old : W64) (st : Nat) : (slotBytes x old st).length = 16 := by simp [slotBytes, length_bytesLE]

/-- An offset within scratch and the address field agree within a sector. -/
theorem scratchOf_sector {s : State} {p q o : Nat} {ea : W64} (h : scratchOf s p ea = some (q, o)) : o % 128 = ptrAddr ea % 128 := by
  rw [scratchOf_offset h]
  simp only [ptrAddr, bits, Nat.shiftRight_zero]
  omega

theorem ratomSlot_scratch {s : State} {x : Xfer} {old ea : W64} {st q o : Nat}
    (hea : checkAddr s (ctxOfX x) (x.grp.getD 3 0) 0 ⟨[1], true, 16, 16, [0, 1]⟩ = .ok ea) (htag : ptrTag ea = 1)
    (hscr : scratchOf s x.ply ea = some (q, o)) :
    ∃ t, ratomSlot s x old st = .ok t ∧ t.xfers = s.xfers ∧ Mem.read (t.ply q).scratch o 16 = slotBytes x old st := by
  have halign : o % 16 = 0 := scratchOf_aligned hea (show 16 ∣ 2 ^ 20 by decide) hscr
  have hne : slotBytes x old st ≠ [] := List.ne_nil_of_length_eq_add_one (length_slotBytes x old st)
  have hfit : o % 128 + (slotBytes x old st).length ≤ 128 := by
    rw [length_slotBytes]
    omega
  have htrans : translateAcc s (ctxOfX x) none 0 ea 1 0 = (.here (.scratch q o) ea, s) := by
    have hown : scratchOf s (ctxOfX x).ply ea = some (q, o) := hscr
    unfold translateAcc
    simp only [htag, hown]
  obtain ⟨hkept, hwrote⟩ := scrWrite_wrote s (p := q) hne hfit
  refine ⟨scrWrite s q o (slotBytes x old st), ?_, hkept.xfers, ?_⟩
  · unfold ratomSlot
    simp only [hea, htrans, roomFor_scratch]
    rw [← scratchOf_sector hscr]
    exact congrArg Except.ok (writePlace_scratch (ctxOfX x) ea (ptrPol ea) hne)
  · have hread := Mem.read_write (slotBytes x old st) (s.ply q).scratch o
    rw [length_slotBytes] at hread
    rw [hwrote, if_pos rfl, hread]

section
variable {id st : Nat} {old : W64} {x : Xfer} {s : State} (hx : s.xfer id = some x) (hkind : x.kind = .ratom) (hstart : x.started = true)
include hx hkind hstart

/-- The answer of a remote atomic under way. -/
theorem exec_ratomReply : exec (.ratomReply id old st) s = .next (
    let again (t : State) : State := t.later (.ratomReply id old st)
    let step (t : State) (n : Nat) : State := again (t.modXfer id (fun y => { y with step := n }))
    if x.step = 0 then
      if x.grp.getD 3 0 = 0 then step (answered s id) 2
      else
        match ratomSlot (answered s id) x old st with
        | .ok t => step t 1
        | .error t => again t
    else if x.step = 1 then
      let r := releaseFor (answered s id) (ctxOfX x) scSystem
      if r.2 then step r.1 2 else again r.1
    else if x.completion = 0 then (answered s id).dropXfer id
    else
      match postCounter (answered s id) (ctxOfX x) x.completion 1 with
      | .done u => u.dropXfer id
      | .bad u => (postFails u x).dropXfer id
      | .wait u => again u) := by
  change execRatomReply id old st s = _
  unfold execRatomReply
  rw [hx]
  dsimp only
  rw [hkind, hstart]
  rfl

theorem exec_ratomReply_slot {q o : Nat} {ea : W64} (hstep : x.step = 0) (hslot : x.grp.getD 3 0 ≠ 0)
    (hea : checkAddr s (ctxOfX x) (x.grp.getD 3 0) 0 ⟨[1], true, 16, 16, [0, 1]⟩ = .ok ea) (htag : ptrTag ea = 1)
    (hscr : scratchOf s x.ply ea = some (q, o)) : ∃ u, exec (.ratomReply id old st) s = .next u ∧ u.xfer id = some { x with step := 1 } ∧
      Mem.read (u.ply q).scratch o 16 = slotBytes x old st := by
  rw [← checkAddr_answered s id] at hea
  rw [← scratchOf_answered s id] at hscr
  obtain ⟨t, ht, hxfers, hread⟩ := ratomSlot_scratch (old := old) (st := st) hea htag hscr
  have hxt : t.xfer id = some x := by
    unfold State.xfer
    rw [hxfers]
    exact hx
  have hnext := xfer_modXfer hxt (f := fun y => { y with step := 1 }) (fun _ => rfl)
  obtain ⟨es, hlater⟩ := later_eq (t.modXfer id (fun y => { y with step := 1 })) (.ratomReply id old st)
  refine ⟨(t.modXfer id (fun y => { y with step := 1 })).later (.ratomReply id old st), ?_, ?_, ?_⟩
  · rw [exec_ratomReply hx hkind hstart]
    dsimp only
    rw [if_pos hstep, if_neg hslot, ht]
  · rw [hlater]
    exact hnext
  · rw [hlater]
    exact hread

theorem exec_ratomReply_release (hstep : x.step = 1) {v : State} (hrel : releaseFor (answered s id) (ctxOfX x) scSystem = (v, true)) :
    exec (.ratomReply id old st) s = .next ((v.modXfer id (fun y => { y with step := 2 })).later (.ratomReply id old st)) := by
  rw [exec_ratomReply hx hkind hstart]
  dsimp only
  rw [if_neg (by omega), if_pos hstep, hrel]
  rfl

theorem exec_ratomReply_end (hstep : 2 ≤ x.step) : (x.completion = 0 → exec (.ratomReply id old st) s = .next ((answered s id).dropXfer id)) ∧
    (x.completion ≠ 0 → ∀ v, postCounter (answered s id) (ctxOfX x) x.completion 1 = .done v →
      exec (.ratomReply id old st) s = .next (v.dropXfer id)) := by
  rw [exec_ratomReply hx hkind hstart]
  dsimp only
  rw [if_neg (by omega), if_neg (by omega)]
  refine ⟨fun h0 => by rw [if_pos h0], fun h0 v hv => by rw [if_neg h0, hv]⟩

end

/-! ## Collectives (R203, R399) -/

/-- The collectives that engines still have, without one. -/
def withoutColl (s : State) (id : Nat) : State := s.modPlat (fun p => { p with colls := p.colls.filter (fun c => c.id != id) })

theorem exec_collectiveLoss {id : Nat} {x : Xfer} {s : State} (hx : s.xfer id = some x) (hkind : x.kind = .coll) (hstep : x.step = 0) :
    ∃ u, exec (.collectiveLoss id) s = .next u ∧ (∀ y ∈ u.xfers, y.id ≠ id) ∧ ∀ c ∈ u.plat.colls, c.id ≠ id := by
  have hfail : ∀ y ∈ (failXfer s x 8 4).xfers, y.id ≠ id := by
    rw [← id_of_xfer hx]
    exact not_mem_dropXfer _ x.id
  refine ⟨withoutColl (failXfer s x 8 4) id, ?_, hfail, fun c hc => ?_⟩
  · change execCollectiveLoss id s = _
    unfold execCollectiveLoss
    rw [hx]
    dsimp only
    rw [hkind, hstep]
    rfl
  · simpa using (List.mem_filter.1 hc).2

/-- A collective whose parts agree combines them, sends its own, and goes on as a transfer. -/
theorem exec_collectiveComplete {id : Nat} {parts : Parts} {x : Xfer} {s t : State} {mine : Bytes} {bad : List Bool} (hx : s.xfer id = some x)
    (hkind : x.kind = .coll) (hstart : x.started = true) (hstep : x.step = 0) (hpause : x.paused = none)
    (hparts : (xReel s x).nrank = 1 ∨ (parts.length = (xReel s x).nrank ∧ ∀ p ∈ parts, collAgree x.lay (p.take 64) = true))
    (hread : xReadAll s x (BitVec.ofNat 64 (fieldAt x.lay 8 8)) ((collSrc x.lay (xReel s x).nrank + 15) / 16) = .ok (mine, bad, t)) :
    let n := (xReel s x).nrank
    let r := (xReel s x).rank
    let out := collResult x.lay ((upFrom 0 n).map (fun k => if k = r then mine else (parts.getD k []).drop 64)) r
    let taint := (upFrom 0 n).map (fun k => if k = r then bad else partTaint (parts.getD k []) (collSrc x.lay n))
    exec (.collectiveComplete id parts) s = .next ((withoutColl ((sendParts t x mine bad).modXfer id (fun y =>
      { y with step := 1, total := out.length, units := collUnits (BitVec.ofNat 64 (fieldAt x.lay 0x10 8)) out (collTaint x.lay r taint) })) id).later
        (.transferComplete id)) := by
  have hagree : ¬ ((xReel s x).nrank ≠ 1 ∧ (parts.length ≠ (xReel s x).nrank ∨ parts.any (fun p => !(collAgree x.lay (p.take 64))) = true)) := by
    rintro ⟨hn, hbad⟩
    obtain ⟨hlen, hall⟩ := hparts.resolve_left hn
    rcases hbad with hbad | hbad
    · exact hbad hlen
    · obtain ⟨p, hp, hno⟩ := List.any_eq_true.1 hbad
      simp [hall p hp] at hno
  have hgo : (x.kind != .coll || !x.started || x.step != 0 || x.paused.isSome) = false := by
    rw [hkind, hstart, hstep, hpause]
    rfl
  intro n r out taint
  change execCollectiveComplete id parts s = _
  unfold execCollectiveComplete
  rw [hx]
  dsimp only
  rw [hgo, if_neg Bool.false_ne_true, if_neg hagree]
  unfold w64
  rw [hread]
  rfl

/-! ## All of them -/

/-- Settles O47: each event by its stage, the chunks of a unit by their lists, and a move by the bytes read and the place they go to. -/
theorem transferEventResults : Obligations.TransferEventResults := by
  unfold Obligations.TransferEventResults
  refine ⟨fun id x s t hx hs hp hpri hready ht => ⟨fun hk => exec_transferStart_bulk hx hs hp hpri hready ht hk, fun hk => ?_,
      fun b po hb u hread hk => exec_transferStart_coll hx hs hp hpri hready ht hread hk,
      fun b po hb u hread hk => exec_transferStart_tcopy hx hs hp hpri hready ht hread hk⟩,
    fun id x s t hx hs hp hpri hd hk hf => ⟨fun hu => exec_transferComplete_end hx hs hp hpri hd hk hf hu,
      fun u us v hu hpair hcut hm => exec_transferComplete_unit hx hs hp hpri hd hk hf hu hpair hcut hm,
      fun u us v hu hpair hkind hcut hm => exec_transferComplete_cut hx hs hp hpri hd hk hf hu hpair hkind hcut hm,
      fun pair hpair hm => exec_transferComplete_block hx hs hp hpri hd hk hf hpair hm⟩,
    fun id unit n q o x s hx hn hpost hbar => exec_landingReport hx hn hpost hbar,
    fun id x s i hx hf => exec_transferPause hx hf,
    fun id st q o old ea x s hx hk hs hstep hslot hea htag hscr => exec_ratomReply_slot hx hk hs hstep hslot hea htag hscr,
    fun id st old x s hx hk hs => ⟨fun hstep v hrel => exec_ratomReply_release hx hk hs hstep hrel, fun hstep => exec_ratomReply_end hx hk hs hstep⟩,
    fun id parts x s t mine bad hx hk hs hstep hp hparts hread => exec_collectiveComplete hx hk hs hstep hp hparts hread,
    fun id x s hx hk hstep => exec_collectiveLoss hx hk hstep, moves_bulkUnits, moves_windowUnits,
    fun l g off n q e hpos hes he => ?_, fun x m s t v a va k b po hb pl hsrc hsbit hdbit hbits hk hfit hread hlen hplace => ?_⟩
  · rw [exec_transferStart hx hs hp hpri hready ht, hk]
  · dsimp only
    rw [← chunkAt_eq]
    exact ⟨load_inside he, load_outside he, fun m hm => load_within hes hm, store_inside he, fun m hm => store_within hm⟩
  · subst hlen
    have hwhole : m.Whole b.length := ⟨hdbit, hbits, hk, hfit⟩
    refine ⟨fun q o hpl halign _ => ?_, fun pa hpl halign hcore hroom => ?_⟩
    · subst hpl
      obtain ⟨u, hu, hwrote⟩ := moveOne_scratch hsrc hsbit hwhole hread hplace halign
      refine ⟨u, hu, fun j => ?_, fun p hp => by rw [hwrote, if_neg hp]⟩
      rw [hwrote, if_pos rfl, Mem.byte_write]
    · subst hpl
      obtain ⟨u, hu, hbytes, hhome, hplies⟩ := moveOne_hbm hsrc hsbit hwhole hread hplace halign hcore hroom
      refine ⟨u, hu, fun j hj => ?_, fun j hj => ?_, hhome, fun q => by rw [State.ply, State.ply, hplies]⟩
      · rw [hbytes, if_pos (by omega), Nat.add_sub_cancel_left]
      · rw [hbytes, if_neg (by omega)]

end Sys2Proof.Machine
end

section
/-! PROOF. Drains (R238) leave the issuing fragment the issuing one: the engine's events that follow errors are due later. -/
namespace Sys2Proof.Machine

theorem iss_foldl {α : Type} {f : State → α → State} (h : ∀ s x, (f s x).iss = s.iss) (l : List α) : ∀ s, (l.foldl f s).iss = s.iss := by
  induction l with
  | nil => exact fun _ => rfl
  | cons x l ih => exact fun s => (ih _).trans (h s x)

theorem iss_later (s : State) (e : Instr) : (s.later e).iss = s.iss := by
  obtain ⟨es, h⟩ := later_eq s e
  rw [h]

/-! ## Writes at the homes, and records -/

theorem iss_homeWrote (s : State) (sec pol : Nat) (whole : Bool) : (homeWrote s sec pol whole).iss = s.iss := by
  have hmarked := State.work_iss ((work_markWritten (clearWritten s sec whole) sec pol).trans (work_clearWritten s sec whole))
  rw [homeWrote_eq, ← hmarked]
  rfl

theorem iss_homeWriteIn (s : State) (pa pol : Nat) (b : Bytes) : (homeWriteIn s pa pol b).iss = s.iss :=
  (iss_homeWrote _ _ _ _).trans (State.work_iss (work_readUnder s _ _))

theorem iss_homeWriteAll (pol fuel : Nat) : ∀ (s : State) (pa : Nat) (b : Bytes), (homeWriteAll s pa pol b fuel).iss = s.iss := by
  induction fuel with
  | zero => exact fun _ _ _ => rfl
  | succ fuel ih =>
    intro s pa b
    unfold homeWriteAll
    split
    · rfl
    · exact (ih _ _ _).trans (iss_homeWriteIn s pa pol _)

theorem iss_homeWrite (s : State) (pa : Nat) (b : Bytes) : (homeWrite s pa b).iss = s.iss := iss_homeWriteAll 0 _ s pa b

theorem iss_homeDrain (s : State) (sec pol : Nat) (c : Tab (Byte × Byte)) (poison : Bool) : (homeDrain s sec pol c poison).iss = s.iss := by
  have hcells : (drainCells s sec pol c).iss = s.iss := (iss_homeWrote _ _ _ _).trans (State.work_iss (work_readUnder s _ _))
  rw [← hcells]
  unfold homeDrain drainCells
  dsimp only
  split
  · split <;> rfl
  · rfl

theorem iss_writeRecord (s : State) (r : ErrRec) : (writeRecord s r).iss = s.iss := by
  have hnote : ∀ t n, (noteInjection t r n).iss = t.iss := fun t n => State.work_iss (work_noteInjection t r n)
  have hsent : ∀ (t : State) f v, (msixVdev (t.modVdev v f) v 0).iss = t.iss := fun _ _ _ => rfl
  unfold writeRecord
  dsimp only
  split
  · rfl
  · split
    · exact hnote _ _
    · rw [hsent, iss_homeWrite, iss_homeWrite]
      exact hnote _ _

theorem iss_containLater (s : State) (p k cls cause : Nat) (lanes : W32) (addr : W64) : (containLater s p k cls cause lanes addr).iss = s.iss := by
  unfold containLater
  split <;> rfl

theorem iss_failedStore (s : State) (p cls cause : Nat) (owner : ErrRec) : (failedStore s p cls cause owner).iss = s.iss := by
  unfold failedStore
  split
  · rfl
  · exact iss_writeRecord s _

theorem iss_seeEntry (s : State) (c : Nat) (e : LogEntry) : (seeEntry s c e).iss = s.iss := (bankKept_seeEntry s c e).iss

/-! ## Requests to peers -/

theorem iss_holdInbound {s t : State} {v : Nat} {e : Instr} (h : holdInbound s v e = some t) : t.iss = s.iss := by
  unfold holdInbound at h
  split at h
  · rw [← Option.some.inj h]
    unfold wakeDevice
    split
    · exact iss_later _ _
    · exact iss_later _ _
    · rfl
  · cases h

theorem iss_sendPeerStore (s : State) (c : Nat) (e : LogEntry) (mate : Option LogEntry) (rank : Nat) :
    (sendPeerStore s c e mate rank).iss = s.iss := by
  have htouch : (touchRank (countFor s e.vdev) (s.ply e.ply).reel rank).iss = s.iss := State.work_iss (work_touchRank _ _ _)
  unfold sendPeerStore
  dsimp only
  rw [← htouch]
  generalize touchRank (countFor s e.vdev) (s.ply e.ply).reel rank = r
  split
  · exact iss_failedStore r _ _ _ _
  · split
    · split
      · next t ht => exact iss_holdInbound (t := t) ht
      · split
        · split
          · exact (iss_foldl (fun _ _ => iss_homeDrain _ _ _ _ _) _ _).trans (State.work_iss (work_walkTouch r _ _))
          · exact (iss_failedStore _ _ _ _ _).trans (State.work_iss (work_walkTouch r _ _))
        · exact iss_failedStore r _ _ _ _
    · split
      · exact iss_failedStore r _ _ _ _
      · rfl

/-! ## L1 sectors, and REDs -/

theorem iss_dropL1 (s : State) (c key : Nat) : (dropL1 s c key).iss = s.iss := by
  unfold dropL1
  dsimp only
  split
  · split <;> split <;> rfl
  · split <;> rfl

theorem iss_updateL1 (s : State) (c pa n : Nat) : (updateL1 s c pa n).iss = s.iss := by
  unfold updateL1
  dsimp only
  split
  · rfl
  · split
    · exact iss_dropL1 s c _
    · rfl

theorem iss_droppedRed (s : State) (o : RedOwner) : (droppedRed s o).iss = s.iss := by
  unfold droppedRed
  dsimp only
  split
  · exact iss_containLater s _ _ _ _ _ _
  · exact iss_writeRecord s _

theorem iss_performRed (s : State) (r : RedOp) : (performRed s r).iss = s.iss := by
  have htouch : (homeTouch { s with reds := s.reds.filter (fun q => q.id != r.id) } r.pa 0).iss = s.iss := State.work_iss (work_homeTouch _ _ _)
  unfold performRed
  dsimp only
  refine Eq.trans ?_ htouch
  split
  · exact iss_foldl iss_droppedRed _ _
  · refine (iss_foldl (fun t o => ?_) _ _).trans (iss_homeWriteIn _ _ _ _)
    split
    · exact iss_updateL1 t _ _ _
    · rfl

theorem iss_performReds (s : State) (pick : RedOp → Bool) : (performReds s pick).iss = s.iss := iss_foldl iss_performRed _ s

/-! ## Drains -/

theorem iss_forgetReads (s : State) (c : Nat) (e : LogEntry) : (forgetReads s c e).iss = s.iss := by
  unfold forgetReads
  split <;> rfl

theorem iss_drainRaw (s : State) (c : Nat) (e : LogEntry) : (drainRaw s c e).iss = s.iss := by
  have hseen : ∀ (es : List LogEntry) (t : State),
      (es.foldl (fun s g => if g.bad then entryError (seeEntry s c g) g else seeEntry s c g) t).iss = t.iss := by
    refine iss_foldl fun t g => ?_
    split
    · exact (iss_failedStore _ _ _ _ _).trans (iss_seeEntry t c g)
    · exact iss_seeEntry t c g
  have hgone : ∀ (t : State) (g : LogEntry), (dropL1 (unpin (forgetReads t c g) c g.serial) c g.key).iss = t.iss := fun t g =>
    (iss_dropL1 _ _ _).trans (iss_forgetReads t c g)
  unfold drainRaw
  dsimp only
  refine (iss_foldl (fun t g => ?_) _ _).trans ?_
  · split
    · exact hgone t g
    · exact hgone t g
  · cases e.space with
    | dev => exact ((iss_homeDrain _ _ _ _ _).trans (iss_performReds _ _)).trans (hseen _ _)
    | host pasid => exact hseen _ _
    | peer rank => exact (iss_sendPeerStore _ _ _ _ _).trans (hseen _ _)

theorem iss_drainBehind (fuel : Nat) : ∀ (s : State) (c serial : Nat), (drainBehind s c serial fuel).iss = s.iss := by
  induction fuel with
  | zero => exact fun _ _ _ => rfl
  | succ fuel ih =>
    intro s c serial
    unfold drainBehind
    split
    · rfl
    · split
      · rfl
      · next e _ _ =>
        have hfirst := iss_foldl (fun t (x : Nat × LogEntry) => ih t x.1 x.2.serial) (drainAfter s c e) s
        dsimp only
        split
        · exact hfirst
        · split
          · exact (iss_drainRaw _ _ _).trans hfirst
          · exact hfirst

theorem iss_flushSector (s : State) (c key : Nat) : (flushSector s c key).iss = s.iss :=
  (iss_dropL1 _ _ _).trans ((iss_foldl (fun _ _ => iss_drainBehind 64 _ _ _) _ _).trans (iss_foldl (fun _ _ => iss_drainBehind 64 _ _ _) _ _))

end Sys2Proof.Machine
end

section
/-! PROOF. A request performed at its home (R11, R105, R189) where there is no bit error to detect: its bytes are read and written there, and no
other byte of device memory changes. -/
namespace Sys2Proof.Machine

/-! ## Sectors of a package without bit errors -/

theorem takeFlip_noFlips {s : State} (h : s.flips = []) (hit : Flip → Bool) (what : Flip → Nat × Nat) : takeFlip s hit what = none := by
  simp [takeFlip, h]

theorem dropFlips_noFlips {s : State} (h : s.flips = []) (hit : Flip → Bool) : dropFlips s hit = s := by
  have hsame : { s with flips := ([] : List Flip) } = s := by rw [← h]
  simp [dropFlips, h, hsame]

theorem detectL2_noFlips {s : State} (h : s.flips = []) (sec : Nat) : detectL2 s sec = (s, false) := by
  unfold detectL2
  split
  · rfl
  · rw [takeFlip_noFlips h]

theorem detectHome_noFlips {s : State} (h : s.flips = []) (sec : Nat) : detectHome s sec = s := by
  unfold detectHome
  simp [detectL2_noFlips h, takeFlip_noFlips h]

/-- A sector keeps its bytes and its poison, and there are no bit errors still. -/
structure SectorKept (sec : Nat) (s t : State) : Prop where
  flips : t.flips = []
  bytes : ∀ a, a / 128 = sec → Mem.byte t.home a = Mem.byte s.home a
  poison : homePoisoned t sec = homePoisoned s sec

theorem sectorKept_l2Drop {s : State} (h : s.flips = []) {sec v : Nat} (hne : sec ≠ v) : SectorKept sec s (l2Drop s v) := by
  unfold l2Drop
  split
  · refine ⟨h, fun a ha => ?_, ?_⟩
    · dsimp only
      rw [Mem.byte_copySector, if_neg (by omega)]
    · exact Tab.get_set_ne _ _ hne _
  · exact ⟨h, fun _ _ => rfl, rfl⟩

theorem writeBack_home (s : State) (v : Nat) :
    (writeBack s v).home = s.home ∧ (writeBack s v).homePoison = s.homePoison ∧ (writeBack s v).flips = s.flips := by
  unfold writeBack
  split
  · split <;> exact ⟨rfl, rfl, rfl⟩
  · exact ⟨rfl, rfl, rfl⟩

/-- What a full slice gives up is present (R64). -/
theorem has_of_l2Victim {s : State} {sl v : Nat} (h : l2Victim s sl = some v) : Tab.has s.l2 v = true := by
  have hpick : ∀ l : List Nat, (∀ e ∈ l, e ∈ slicePresent s sl) → l[Config.choice l.length s.draws % l.length]? = some v →
      v ∈ slicePresent s sl :=
    fun l hl hv => hl v (List.mem_of_getElem? hv)
  have hpresent : v ∈ slicePresent s sl := by
    unfold l2Victim at h
    dsimp only at h
    split at h
    · exact hpick _ (fun e he => (List.mem_filter.1 he).1) h
    · split at h
      · exact hpick _ (fun e he => (List.mem_filter.1 he).1) h
      · exact hpick _ (fun e he => he) h
  obtain ⟨e, he, rfl⟩ := List.mem_map.1 hpresent
  exact Tab.has_of_mem (v := e.2) (List.mem_filter.1 he).1

theorem sectorKept_l2Fill {s : State} (h : s.flips = []) (sec prio : Nat) : SectorKept sec s (l2Fill s sec prio) := by
  unfold l2Fill
  split
  · exact ⟨h, fun _ _ => rfl, rfl⟩
  · next hnone =>
    have hput : ∀ t hit, SectorKept sec s t →
        SectorKept sec s { dropFlips t hit with l2 := Tab.put sec { dirty := false, prio := prio } (dropFlips t hit).l2 } := by
      intro t hit ht
      rw [dropFlips_noFlips ht.flips]
      exact ⟨ht.flips, ht.bytes, ht.poison⟩
    refine hput _ _ ?_
    split
    · exact ⟨h, fun _ _ => rfl, rfl⟩
    · split
      · next v hv =>
        have hne : sec ≠ v := by
          rintro rfl
          have hhas := has_of_l2Victim hv
          simp [Tab.has, hnone] at hhas
        have hclean : l2Clean s v = writeBack s v := by simp [l2Clean, detectL2_noFlips h]
        obtain ⟨hhome, hpoison, hflips⟩ := writeBack_home s v
        obtain ⟨kflips, kbytes, kpoison⟩ := sectorKept_l2Drop (s := writeBack s v) (hflips.trans h) hne
        rw [hclean]
        refine ⟨kflips, fun a ha => (kbytes a ha).trans (by rw [hhome]), kpoison.trans ?_⟩
        rw [homePoisoned, homePoisoned, hpoison]
      · exact ⟨h, fun _ _ => rfl, rfl⟩

theorem has_l2Fill (s : State) (sec prio : Nat) : Tab.has (l2Fill s sec prio).l2 sec = true := by
  unfold l2Fill
  split <;> exact Tab.has_put_self _ _ _

theorem home_l2Fill_of_has {s : State} {sec : Nat} (h : Tab.has s.l2 sec = true) (prio : Nat) : (l2Fill s sec prio).home = s.home := by
  unfold l2Fill
  split
  · rfl
  · next hnone => simp [Tab.has, hnone] at h

/-- The sector that a request names is touched: it is present then, with the bytes and the poison that it had. -/
theorem sectorKept_homeTouch {s : State} (h : s.flips = []) (pa : Nat) :
    SectorKept (pa / 128) s (homeTouch s pa 0) ∧ Tab.has (homeTouch s pa 0).l2 (pa / 128) = true := by
  have hcount : (countHome s pa).flips = [] ∧ (countHome s pa).home = s.home ∧ (countHome s pa).homePoison = s.homePoison := by
    unfold countHome
    split <;> exact ⟨h, rfl, rfl⟩
  obtain ⟨hflips, hhome, hpoison⟩ := hcount
  have htouch : homeTouch s pa 0 = l2Fill (countHome s pa) (pa / 128) (policyPrio 0) := by
    unfold homeTouch
    rw [detectHome_noFlips hflips]
    rfl
  obtain ⟨kflips, kbytes, kpoison⟩ := sectorKept_l2Fill hflips (pa / 128) (policyPrio 0)
  rw [htouch]
  refine ⟨⟨kflips, fun a ha => (kbytes a ha).trans (by rw [hhome]), kpoison.trans ?_⟩, has_l2Fill _ _ _⟩
  rw [homePoisoned, homePoisoned, hpoison]

/-! ## A write of part of a sector that is present -/

theorem home_homeWriteIn {s : State} (h : s.flips = []) {pa : Nat} (hhas : Tab.has s.l2 (pa / 128) = true) {b : Bytes} (hb : b.length < 128) :
    (homeWriteIn s pa 0 b).home = Mem.write s.home pa b := by
  have hpart : coversSector pa b.length (pa / 128) = false := by
    simp only [coversSector, Bool.and_eq_false_iff, decide_eq_false_iff_not]
    omega
  have hcount : ∀ (t : State) (a : Nat), (countHome t a).home = t.home ∧ (countHome t a).l2 = t.l2 := by
    intro t a
    unfold countHome
    split <;> exact ⟨rfl, rfl⟩
  obtain ⟨hhome, hl2⟩ := hcount { s with home := Mem.write s.home pa b } (pa / 128 * 128)
  have hmarked : ∀ t : State, Tab.has t.l2 (pa / 128) = true → (loseReservations (markWritten t (pa / 128) 0) (.hbm (pa / 128 * 128))).home = t.home :=
    fun t ht => home_l2Fill_of_has ht _
  unfold homeWriteIn
  simp only [hpart, readUnder, detectHome_noFlips h, homeWrote_eq, clearWritten, if_neg Bool.false_ne_true]
  rw [hmarked _ (by rw [hl2]; exact hhas), hhome]

theorem reds_homeWriteIn (s : State) (pa pol : Nat) (b : Bytes) : (homeWriteIn s pa pol b).reds = s.reds := by
  have hread : ∀ {t u : State}, HomeRead t u → u.reds = t.reds := fun h => h.loadKept.reds
  have hunder : (readUnder s (pa / 128) (coversSector pa b.length (pa / 128))).reds = s.reds := by
    unfold readUnder
    split
    · rfl
    · exact hread (homeRead_detectHome s _)
  have hclear : ∀ (t : State) (sec : Nat) (whole : Bool), (clearWritten t sec whole).reds = t.reds := by
    intro t sec whole
    have hcount := hread (homeRead_countHome t (sec * 128))
    unfold clearWritten
    split
    · exact (hread (homeRead_dropFlips _ _)).trans hcount
    · exact hcount
  have hmark : ∀ (t : State) (sec : Nat), (markWritten t sec pol).reds = t.reds := by
    intro t sec
    have hfill := hread (homeRead_l2Fill t sec (policyPrio pol))
    unfold markWritten
    split
    · rfl
    · exact hfill
  refine Eq.trans ?_ hunder
  unfold homeWriteIn
  rw [homeWrote_eq]
  exact (hmark _ _).trans (hclear _ _ _)

/-! ## The issuing cores' L1 -/

theorem updateL1_home (s : State) (c pa n : Nat) : (updateL1 s c pa n).home = s.home ∧ (updateL1 s c pa n).reds = s.reds := by
  have hdrop : ∀ key, (dropL1 s c key).home = s.home ∧ (dropL1 s c key).reds = s.reds := by
    intro key
    unfold dropL1
    dsimp only
    split
    · split <;> split <;> exact ⟨rfl, rfl⟩
    · split <;> exact ⟨rfl, rfl⟩
  unfold updateL1
  dsimp only
  split
  · exact ⟨rfl, rfl⟩
  · split
    · exact hdrop _
    · exact ⟨rfl, rfl⟩

/-- The owners' cores take the bytes that a request has written. -/
def ownersSee (s : State) (r : RedOp) : State :=
  r.owners.foldl (fun s o => if s.livePly o.ply then updateL1 s (s.ply o.ply).core r.pa (amoBytes r.op) else s) s

theorem ownersSee_home (s : State) (r : RedOp) : (ownersSee s r).home = s.home ∧ (ownersSee s r).reds = s.reds := by
  unfold ownersSee
  refine List.foldlRecOn (motive := fun t : State => t.home = s.home ∧ t.reds = s.reds) _ _ ⟨rfl, rfl⟩ fun t ht o _ => ?_
  obtain ⟨hhome, hreds⟩ := ht
  split
  · obtain ⟨uhome, ureds⟩ := updateL1_home t (t.ply o.ply).core r.pa (amoBytes r.op)
    exact ⟨uhome.trans hhome, ureds.trans hreds⟩
  · exact ⟨hhome, hreds⟩

/-! ## The request -/

/-- The state in which a request is under way no more. -/
def withoutRed (s : State) (r : RedOp) : State := { s with reds := s.reds.filter (fun q => q.id != r.id) }

/-- A request touches its sector and, where that is not poisoned, writes the new value. -/
theorem performRed_sound {s : State} {r : RedOp} (h : homePoisoned (homeTouch (withoutRed s r) r.pa 0) (r.pa / 128) = false) :
    performRed s r = ownersSee (homeWriteIn (homeTouch (withoutRed s r) r.pa 0) r.pa 0 (bytesLE (amoNew r.op
      (natLE (Mem.read (homeTouch (withoutRed s r) r.pa 0).home r.pa (amoBytes r.op))) r.val.toNat 0) (amoBytes r.op))) r := by
  unfold performRed
  exact if_neg (by rw [Bool.not_eq_true]; exact h)

theorem performRed_reds {s : State} {r : RedOp} (h : homePoisoned (homeTouch (withoutRed s r) r.pa 0) (r.pa / 128) = false) :
    (performRed s r).reds = s.reds.filter (fun q => q.id != r.id) := by
  rw [performRed_sound h, (ownersSee_home _ _).2, reds_homeWriteIn, (homeRead_homeTouch _ _ _).loadKept.reds]
  rfl

theorem Mem.read_congr {m m' : Mem} : ∀ {n a : Nat}, (∀ i, a ≤ i → i < a + n → Mem.byte m i = Mem.byte m' i) → Mem.read m a n = Mem.read m' a n
  | 0, _, _ => rfl
  | n + 1, a, h => by
    rw [Mem.read, Mem.read, h a (Nat.le_refl a) (by omega), Mem.read_congr fun i hi hlt => h i (by omega) (by omega)]

theorem amoBytes_cases (op : Nat) : amoBytes op = 4 ∨ amoBytes op = 8 := by
  unfold amoBytes
  split
  · split <;> simp
  · split <;> simp

/-- The operation's bytes hold the new value, and where clean sectors agree with HBM every other byte of device memory is as before. -/
theorem performRed_home {s : State} {r : RedOp} (hflips : s.flips = []) (hpoison : homePoisoned s (r.pa / 128) = false)
    (halign : r.pa % amoBytes r.op = 0) :
    homePoisoned (homeTouch (withoutRed s r) r.pa 0) (r.pa / 128) = false ∧
    Mem.read (performRed s r).home r.pa (amoBytes r.op) =
      bytesLE (amoNew r.op (natLE (Mem.read s.home r.pa (amoBytes r.op))) r.val.toNat 0) (amoBytes r.op) ∧
    (HomesAgree s → ∀ a, (a < r.pa ∨ r.pa + amoBytes r.op ≤ a) → Mem.byte (performRed s r).home a = Mem.byte s.home a) := by
  obtain ⟨⟨kflips, kbytes, kpoison⟩, khas⟩ := sectorKept_homeTouch (s := withoutRed s r) hflips r.pa
  have hsound : homePoisoned (homeTouch (withoutRed s r) r.pa 0) (r.pa / 128) = false := kpoison.trans hpoison
  have hread : Mem.read (homeTouch (withoutRed s r) r.pa 0).home r.pa (amoBytes r.op) = Mem.read s.home r.pa (amoBytes r.op) := by
    refine Mem.read_congr fun i hi hlt => kbytes i ?_
    rcases amoBytes_cases r.op with hn | hn <;> rw [hn] at halign hlt <;> omega
  have hlen := length_bytesLE (amoBytes r.op) (amoNew r.op (natLE (Mem.read s.home r.pa (amoBytes r.op))) r.val.toNat 0)
  have hhome : (performRed s r).home = Mem.write (homeTouch (withoutRed s r) r.pa 0).home r.pa
      (bytesLE (amoNew r.op (natLE (Mem.read s.home r.pa (amoBytes r.op))) r.val.toNat 0) (amoBytes r.op)) := by
    rw [performRed_sound hsound, (ownersSee_home _ _).1, hread, home_homeWriteIn kflips khas]
    rw [hlen]
    rcases amoBytes_cases r.op with hn | hn <;> omega
  refine ⟨hsound, ?_, fun hs a ha => ?_⟩
  · rw [hhome]
    exact (congrArg (Mem.read _ r.pa) hlen.symm).trans (Mem.read_write _ _ _)
  · rw [hhome, Mem.byte_write_outside _ _ _ _ (by rw [hlen]; exact ha)]
    exact (homeRead_homeTouch (withoutRed s r) r.pa 0).bytes hs a

end Sys2Proof.Machine
end

section
/-! PROOF. The table of R188: the new value of an atomic operation, row by row. -/
namespace Sys2Proof.Machine

theorem intVal_of_lt (signed : Bool) {n x : Nat} (h : x < 2 ^ n) :
    intVal signed n x = if signed then (BitVec.ofNat n x).toInt else (x : Int) := by
  have hx : (BitVec.ofNat n x).toNat = x := by rw [BitVec.toNat_ofNat, Nat.mod_eq_of_lt h]
  cases signed with
  | true => exact (congrArg (intVal true n) hx.symm).trans (intVal_signed _)
  | false => exact (congrArg (intVal false n) hx.symm).trans ((intVal_unsigned _).trans (congrArg _ hx))

theorem intVal_injective (signed : Bool) {n x y : Nat} (hx : x < 2 ^ n) (hy : y < 2 ^ n) (h : intVal signed n x = intVal signed n y) : x = y := by
  rw [intVal_of_lt signed hx, intVal_of_lt signed hy] at h
  cases signed with
  | true =>
    have hbits := congrArg BitVec.toNat (BitVec.eq_of_toInt_eq h)
    rwa [BitVec.toNat_ofNat, BitVec.toNat_ofNat, Nat.mod_eq_of_lt hx, Nat.mod_eq_of_lt hy] at hbits
  | false => exact Int.ofNat_inj.1 h

theorem iMinMax_min (signed : Bool) (n x y : Nat) : iMinMax signed false n x y = if intVal signed n x ≤ intVal signed n y then x else y := by
  unfold iMinMax
  simp only [Bool.false_eq_true, if_false, ← not_le, ite_not]

theorem iMinMax_max (signed : Bool) {n x y : Nat} (hx : x < 2 ^ n) (hy : y < 2 ^ n) :
    iMinMax signed true n x y = if intVal signed n x ≤ intVal signed n y then y else x := by
  have hinj := intVal_injective signed hx hy
  unfold iMinMax
  simp only [if_true]
  by_cases hlt : intVal signed n x < intVal signed n y
  · rw [if_pos hlt, if_pos (Int.le_of_lt hlt)]
  · rw [if_neg hlt]
    by_cases hle : intVal signed n x ≤ intVal signed n y
    · rw [if_pos hle, hinj (by omega)]
    · rw [if_neg hle]

/-- The old value has the operation's width. -/
theorem natLE_read_lt (m : Mem) (a n : Nat) : natLE (Mem.read m a n) < 2 ^ (8 * n) := by
  have hlt := natLE_lt (Mem.read m a n)
  rw [Mem.read_length] at hlt
  rw [Nat.pow_mul]
  exact hlt

/-- The new value that the meaning computes is the one of the table. -/
theorem amoNew_eq_atomicResult {op m : Nat} (hop : op < 27) (hm : m < 2 ^ (8 * amoBytes op)) (v new : Nat) :
    amoNew op m v new = atomicResult op m (v % 2 ^ (8 * amoBytes op)) (new % 2 ^ (8 * amoBytes op)) := by
  have hv : v % 2 ^ (8 * amoBytes op) < 2 ^ (8 * amoBytes op) := Nat.mod_lt _ (Nat.two_pow_pos _)
  unfold amoNew atomicResult
  dsimp only
  rw [Nat.mod_eq_of_lt hm]
  generalize new % 2 ^ (8 * amoBytes op) = w
  generalize v % 2 ^ (8 * amoBytes op) = x at hv
  generalize 8 * amoBytes op = n at hm hv
  match op, hop with
  | 0, _ | 1, _ => rfl
  | 2, _ | 3, _ => simp [iMinMax_min, intVal_of_lt true hm, intVal_of_lt true hv]
  | 4, _ | 5, _ => simp [iMinMax_max true hm hv, intVal_of_lt true hm, intVal_of_lt true hv]
  | 6, _ | 7, _ => simp [iMinMax_min, intVal_of_lt false hm, intVal_of_lt false hv]
  | 8, _ | 9, _ => simp [iMinMax_max false hm hv, intVal_of_lt false hm, intVal_of_lt false hv]
  | 10, _ | 11, _ | 12, _ | 13, _ | 14, _ | 15, _ =>
    simp only [BitVec.toNat_and, BitVec.toNat_or, BitVec.toNat_xor, BitVec.toNat_ofNat, Nat.mod_eq_of_lt hm, Nat.mod_eq_of_lt hv]
    rfl
  | 16, _ | 17, _ | 18, _ | 19, _ | 20, _ | 21, _ | 22, _ | 23, _ | 24, _ | 25, _ | 26, _ => rfl
  | k + 27, h => exact absurd h (by omega)

end Sys2Proof.Machine
end

section
/-! PROOF. The lanes of ATOM and RED (R187): what their checks, translations and sector flushes leave, and a lane in the ply's own scratch. -/
namespace Sys2Proof.Machine

/-- Of fragments reservations and kept answers alone differ; the issuing fragment and every scratch byte are as before. -/
structure FragsKept (s t : State) : Prop where
  resv : ReservationsOnly s t
  iss : t.iss = s.iss
  scratch : ∀ q, (t.ply q).scratch = (s.ply q).scratch

theorem FragsKept.refl (s : State) : FragsKept s s := ⟨.refl s, rfl, fun _ => rfl⟩

theorem FragsKept.trans {s t u : State} (h : FragsKept s t) (k : FragsKept t u) : FragsKept s u :=
  ⟨h.resv.trans k.resv, k.iss.trans h.iss, fun q => (k.scratch q).trans (h.scratch q)⟩

theorem BankSame.fragsKept {s t : State} (h : BankSame s t) : FragsKept s t := ⟨h.1.resv, h.1.iss, h.2⟩

theorem Translated.fragsKept {s t : State} (h : Translated s t) : FragsKept s t :=
  ⟨.of_plies h.plies, h.toLoadKept.iss, fun q => by rw [State.ply, State.ply, h.plies]⟩

theorem DrainKept.fragsKept {s t : State} (h : DrainKept s t) (hiss : t.iss = s.iss) : FragsKept s t := ⟨h.resv, hiss, fun q => by rw [h.ply]⟩

/-- No register changes with reservations. -/
theorem ReservationsOnly.vreg {s t : State} (h : ReservationsOnly s t) (hiss : t.iss = s.iss) (r l : Nat) : Machine.vreg t r l = Machine.vreg s r l := by
  unfold Machine.vreg State.cur State.curPly
  rw [hiss, (h s.iss.ply s.iss.strand).1]

/-! ## What comes before a lane's step -/

theorem drainKept_flushSector (s : State) (c key : Nat) : DrainKept s (flushSector s c key) :=
  ((DrainKept.foldl (fun t (x : Nat × Nat) => drainKept_drainEntry t x.1 x.2) _ s).trans (drainKept_drainWhere _ c _)).trans (drainKept_dropL1 _ c key)

theorem fragsKept_flushFor {s t : State} {p : Place} (h : flushFor s p = .ok t) : FragsKept s t := by
  unfold flushFor at h
  split at h
  · dsimp only at h
    split at h
    · cases h
      exact (drainKept_flushSector s _ _).fragsKept (iss_flushSector s _ _)
    · cases h
  · cases h
    exact .refl s

theorem fragsKept_atomFlush {ls : List LaneTo} : ∀ {s t : State}, atomFlush s ls = .ok t → FragsKept s t := by
  induction ls with
  | nil =>
    intro s t h
    cases h
    exact .refl s
  | cons l ls ih =>
    intro s t h
    unfold atomFlush at h
    rw [List.foldlM_cons] at h
    cases hf : flushFor s l.place with
    | error e =>
      rw [hf] at h
      cases h
    | ok v =>
      rw [hf] at h
      exact (fragsKept_flushFor hf).trans (ih h)

theorem translated_translateLanes (s : State) (c : Ctx) (x : Option XReg) (kind : Nat) (ls : List LaneAt) :
    Translated s (translateLanes s c x kind ls).2 := by
  unfold translateLanes
  refine List.foldlRecOn (motive := fun r : Stage2 × State => Translated s r.2) _ _ (.refl s) fun r hr l _ => ?_
  have hl := translated_translateAcc r.2 c x l.off l.ea kind l.lane
  split
  all_goals
    next heq =>
    rw [heq] at hl
    exact hr.trans hl

/-- Lanes that are ready for their steps: protection has ended, they are translated, and their sectors are flushed. -/
theorem fragsKept_atomLanes {s t : State} {a : BitVec 8} {o op : Nat} {tos : List LaneTo} {fails : List LaneFault} (ha : baseOk s a)
    (h : atomLanes s a o op = .ok (tos, fails, t)) : FragsKept s t := by
  unfold atomLanes at h
  simp only [readBase_ok ha, ok_bind] at h
  cases hc : checkLanes s (ctxOf s) (baseOf s a) (atomAcc (amoBytes op)) (byteOffsets s (toPerform s (activeLanes s 0)) o) with
  | error e =>
    rw [hc] at h
    cases h
  | ok ats =>
    simp only [hc, ok_bind] at h
    have hready := (bankSame_endProtection s s.iss.ply 9).fragsKept.trans
      (translated_translateLanes (endProtection s s.iss.ply 9) (ctxOf s) (boundOf s a) 2 ats).fragsKept
    generalize translateLanes (endProtection s s.iss.ply 9) (ctxOf s) (boundOf s a) 2 ats = g at h hready
    split at h
    · cases h
    · split at h
      · cases h
      · cases hf : atomFlush g.2 g.1.tos with
        | error e =>
          rw [hf] at h
          cases h
        | ok v =>
          rw [hf] at h
          cases h
          exact hready.trans (fragsKept_atomFlush hf)

/-! ## A lane's step -/

theorem reservations_redsFirst (s : State) (p : Place) : ReservationsOnly s (redsFirst s p) := by
  unfold redsFirst
  cases p with
  | hbm pa =>
    dsimp only
    unfold ownReds
    split
    · exact .refl s
    · exact (drainKept_performReds s _).resv
  | _ => exact .refl s

theorem reservations_directRead (s : State) (p : Place) (n : Nat) : ReservationsOnly s (directRead s p n).2.2 := by
  unfold directRead
  cases p with
  | hbm pa => exact (DrainKept.of_work (work_homeTouch s pa 0)).resv
  | scratch q o => exact (bankSame_detectScratch s q (o / 128)).1.resv
  | _ => exact .refl s

theorem reservations_directWrite (s : State) (p : Place) (b : Bytes) : ReservationsOnly s (directWrite s p b) := by
  unfold directWrite
  cases p with
  | hbm pa => exact ((drainKept_homeWriteIn s pa 0 b).trans (drainKept_dropL1 _ _ _)).resv
  | scratch q o => exact (bankKept_scrWrite s q o b).resv
  | _ => exact .refl s

theorem reservations_atomStep (s : State) (op d : Nat) (l : LaneTo) : ReservationsOnly s (atomStep s op d l).2.2 := by
  have hread := (reservations_redsFirst s l.place).trans (reservations_directRead (redsFirst s l.place) l.place (amoBytes op))
  unfold atomStep
  dsimp only
  split
  · exact hread
  · exact hread.trans (reservations_directWrite _ _ _)

theorem reservations_atomSteps (s : State) (op d : Nat) (ls : List LaneTo) : ReservationsOnly s (atomSteps s op d ls).2.2 := by
  unfold atomSteps
  refine List.foldlRecOn (motive := fun r : List (Nat × W64) × List (LaneTo × Consumed) × State => ReservationsOnly s r.2.2) _ _ (.refl s)
    fun r hr l _ => ?_
  have hstep := hr.trans (reservations_atomStep r.2.2 op d l)
  dsimp only
  split
  · exact hstep
  · exact hstep

/-! ## The end of protection leaves a lane in the own scratch there -/

/-- Plies change in what protects them alone. -/
structure Unprotected (s t : State) : Prop where
  ply : ∀ q, t.ply q = { s.ply q with cause := (t.ply q).cause, prot := (t.ply q).prot, journal := (t.ply q).journal }
  live : ∀ q, s.livePly q = true → t.livePly q = true
  flips : t.flips = s.flips
  iss : t.iss = s.iss

theorem Unprotected.of_plies {s t : State} (hp : t.plies = s.plies) (hf : t.flips = s.flips) (hi : t.iss = s.iss) : Unprotected s t :=
  ⟨fun q => by rw [State.ply, State.ply, hp], fun q h => by rwa [State.livePly, hp], hf, hi⟩

theorem Unprotected.trans {s t u : State} (h : Unprotected s t) (k : Unprotected t u) : Unprotected s u :=
  ⟨fun q => by rw [k.ply, h.ply], fun q => k.live q ∘ h.live q, k.flips.trans h.flips, k.iss.trans h.iss⟩

theorem Unprotected.modPly (s : State) (p : Nat) {f : Ply → Ply}
    (h : ∀ y, f y = { y with cause := (f y).cause, prot := (f y).prot, journal := (f y).journal }) : Unprotected s (s.modPly p f) := by
  refine ⟨fun q => ?_, fun q hq => Tab.has_put_of_has hq _, rfl, rfl⟩
  rw [State.ply_modPly_eq]
  split
  · exact h _
  · rfl

theorem unprotected_freeJournal (s : State) (p : Nat) : Unprotected s (freeJournal s p) := by
  unfold freeJournal
  refine Unprotected.trans ?_ (.modPly _ p fun _ => rfl)
  split
  · exact .of_plies rfl rfl rfl
  · exact .of_plies rfl rfl rfl

theorem unprotected_endProtection (s : State) (p n : Nat) : Unprotected s (endProtection s p n) := by
  have hcause : Unprotected s (s.modPly p (fun y => { y with cause := y.cause ||| (1#8 <<< (n - 8)) })) := .modPly s p fun _ => rfl
  have hprot : ∀ t : State, Unprotected t (t.modPly p (fun y => { y with prot := false })) := fun t => .modPly t p fun _ => rfl
  have hunhold : ∀ t : State, Unprotected t (unhold t p) := fun _ => .of_plies rfl rfl rfl
  have hends : ∀ t : State, Unprotected t (unhold ((freeJournal t p).modPly p (fun y => { y with prot := false })) p) := fun t =>
    ((unprotected_freeJournal t p).trans (hprot _)).trans (hunhold _)
  have hurgent : ∀ (t : State) (e : Instr), Unprotected t (t.urgent e) := fun _ _ => .of_plies rfl rfl rfl
  unfold endProtection
  split
  · exact .of_plies rfl rfl rfl
  · dsimp only
    refine hcause.trans ?_
    split <;> split
    · exact (hurgent _ _).trans (hends _)
    · exact hends _
    · exact hurgent _ _
    · exact .of_plies rfl rfl rfl

theorem Unprotected.ctxOf {s t : State} (h : Unprotected s t) : Machine.ctxOf t = Machine.ctxOf s := by
  unfold Machine.ctxOf State.curFrag State.curCore State.cur State.curPly
  rw [h.iss, h.ply]
  rfl

theorem Unprotected.own {s t : State} {base : W64} {off : Int} {n A k : Nat} (h : Unprotected s t) (hown : inOwnScratch s base off n A k) :
    inOwnScratch t base off n A k := by
  unfold inOwnScratch State.cur State.curPly at hown ⊢
  rw [h.iss, h.flips, h.ply]
  exact ⟨h.live _ hown.1, hown.2⟩

/-! ## One lane in the own scratch -/

theorem lanesOf_laneBit : ∀ l < 32, lanesOf (laneBit l) = [l] := by decide

/-- What an access writes matters to the checks of the weight store alone (R65). -/
theorem checkAddr_write {base : W64} (h : ptrTag base ≠ 3) (s : State) (c : Ctx) (off : Int) (acc : Acc) (w : Bool) :
    checkAddr s c base off { acc with write := w } = checkAddr s c base off acc := by
  have hws : ∀ v, (v && ptrTag base == 3) = false := by simp [h]
  unfold checkAddr
  simp only [hws]
  rfl

/-- A lane of the own scratch, translated. -/
def ownLane (s : State) (l A : Nat) : LaneTo := { lane := l, ea := scratchEa A, place := .scratch s.iss.ply A, va := scratchEa A }

section
variable {s : State} {base : W64} {off : Int} {n A : Nat} (h : inOwnScratch s base off n A 2)
include h

theorem checkAddr_atom : checkAddr s (ctxOf s) base off (atomAcc n) = .ok (scratchEa A) := by
  have htag : ptrTag base ≠ 3 := by
    obtain ⟨-, -, htag, -⟩ := h
    change bits base 60 4 ≠ 3
    omega
  exact (checkAddr_write htag s (ctxOf s) off (scratchAcc n 2 [0, 1, 2, 3]) true).trans (checkAddr_own h (by decide))

theorem directRead_own (hn : n = 4 ∨ n = 8) :
    directRead s (.scratch s.iss.ply A) n = (Mem.read s.curPly.scratch A n, none, s) := by
  have hread := readPlace_own h (by omega) 0
  unfold readPlace at hread
  simp only [Prod.mk.injEq, Rd.got.injEq] at hread
  obtain ⟨⟨hbytes, hpoison, -⟩, hstate⟩ := hread
  unfold directRead
  dsimp only
  rw [hstate] at hbytes hpoison ⊢
  rw [hbytes]
  exact congrArg (fun p => (_, p, s)) hpoison

end

theorem amoBytes_pos (op : Nat) : 0 < amoBytes op := by
  rcases amoBytes_cases op with h | h <;> omega

/-- The one lane that performs, in the own scratch: it is checked and translated, and there is nothing to flush. -/
theorem atomLanes_own {s : State} {a : BitVec 8} {o op l A : Nat} (ha : baseOk s a) (hl : l < 32)
    (hlanes : toPerform s s.curFrag.mask = laneBit l) (h : inOwnScratch s (baseOf s a) (vreg s o l).toInt (amoBytes op) A 2)
    (hr : rangeRead s s.iss.ply s.iss.ply A (amoBytes op) = false) :
    atomLanes s a o op = .ok ([ownLane s l A], [], endProtection s s.iss.ply 9) := by
  have hun := unprotected_endProtection s s.iss.ply 9
  have hactive : toPerform s (activeLanes s 0) = laneBit l := by
    rw [← hlanes]
    exact congrArg (toPerform s) BitVec.and_allOnes
  have hoffs : byteOffsets s (laneBit l) o = [{ lane := l, off := (vreg s o l).toInt, pre := none }] := by
    rw [byteOffsets, lanesOf_laneBit l hl]
    rfl
  have hcheck : checkLanes s (ctxOf s) (baseOf s a) (atomAcc (amoBytes op)) [{ lane := l, off := (vreg s o l).toInt, pre := none }] =
      .ok [{ lane := l, off := (vreg s o l).toInt, ea := scratchEa A }] :=
    checkLanes_ok (f := fun _ => scratchEa A) fun e he => by
      rw [List.mem_singleton.1 he]
      exact checkAddr_atom h
  have htrans : ∀ x, translateLanes (endProtection s s.iss.ply 9) (ctxOf s) x 2 [{ lane := l, off := (vreg s o l).toInt, ea := scratchEa A }] =
      ({ tos := [ownLane s l A], fails := [], waits := false }, endProtection s s.iss.ply 9) := by
    intro x
    have hlane := translateAcc_own (hun.own h) x (vreg s o l).toInt 2 l
    rw [hun.ctxOf, hun.iss] at hlane
    unfold translateLanes
    rw [List.foldl_cons]
    simp only [hlane]
    rfl
  have hfree : writeHeld (endProtection s s.iss.ply 9) (ctxOf s).ply (amoBytes op) (ownLane s l A).place = false := by
    have hx := (bankSame_endProtection s s.iss.ply 9).1.xfers
    change rangeRead _ s.iss.ply s.iss.ply A _ = false
    rw [← hr, rangeRead, rangeRead, hx]
  unfold atomLanes
  simp only [readBase_ok ha, ok_bind, hactive, hoffs, hcheck, htrans, List.any_cons, hfree]
  rfl

/-- The step of a lane in the own scratch: the old value of its bytes, and the new one in their place. -/
theorem atomStep_own {s : State} {base : W64} {off : Int} {op d l A : Nat} (h : inOwnScratch s base off (amoBytes op) A 2) :
    atomStep s op d (ownLane s l A) = (natLE (Mem.read s.curPly.scratch A (amoBytes op)), none, scrWrite s s.iss.ply A (bytesLE
      (amoNew op (natLE (Mem.read s.curPly.scratch A (amoBytes op))) (atomData s op d l) (vreg s (d + 1) l).toNat) (amoBytes op))) := by
  have hread : directRead (redsFirst s (ownLane s l A).place) (ownLane s l A).place (amoBytes op) = _ := directRead_own h (amoBytes_cases op)
  unfold atomStep
  dsimp only
  rw [hread]
  rfl

end Sys2Proof.Machine
end

section
/-! PROOF. ATOM, RED and the home router's step (R103 to R105, R187 to R189): what the instructions run, the requests that a RED sends, and a
lane's step in the ply's own scratch. -/
namespace Sys2Proof.Machine

/-! ## What ATOM runs -/

/-- Old values by lane in a register. -/
def oldsTo (s : State) (d : Nat) (olds : List (Nat × W64)) : State :=
  setVecLanes s d (maskOf (olds.map (fun x => x.1))) (fun l => ((olds.find? (fun x => x.1 == l)).map (fun x => x.2)).getD 0)

theorem exec_atom {s t u : State} {d o : BitVec 6} {a : BitVec 8} {k : BitVec 5} {tos : List LaneTo} {olds : List (Nat × W64)}
    (ho : o.toNat < 8 * s.cur.blocks) (hd : d.toNat < 8 * s.cur.blocks)
    (hcas : isCas k.toNat = true → d.toNat + 1 < 64 ∧ d.toNat + 1 < 8 * s.cur.blocks)
    (ht : atomLanes s a o.toNat k.toNat = .ok (tos, [], t)) (hu : atomSteps t k.toNat d.toNat tos = (olds, [], u)) :
    exec (.atom d a o k) s = .next (advance (oldsTo u d.toNat olds)) := by
  have hpair : (!(isCas k.toNat && d == 63)) = true := by
    cases hc : isCas k.toNat with
    | false => rfl
    | true =>
      have hne : d ≠ 63#6 := by
        rintro rfl
        exact absurd (hcas hc).1 (by decide)
      simp [hne]
  have hregs : ∀ r ∈ o.toNat :: (if isCas k.toNat then [d.toNat, d.toNat + 1] else [d.toNat]), r < 8 * s.cur.blocks := by
    cases hc : isCas k.toNat with
    | false => simpa using ⟨ho, hd⟩
    | true => simpa using ⟨ho, hd, (hcas hc).2⟩
  change execAtom d a o k s = _
  unfold execAtom
  dsimp only
  rw [need_bind hpair, needVecs_bind s hregs, ht]
  simp only [ok_bind, hu]
  rfl

/-! ## What RED runs -/

/-- A lane's step of RED, where it is at a scratch bank. -/
def redAtBank (op d : Nat) (t : State) (l : LaneTo) : State :=
  match l.place with
  | .scratch _ _ =>
    if (directRead t l.place (amoBytes op)).2.1.isSome then containLater t t.iss.ply t.iss.strand 6 10 (laneBit l.lane) l.ea
    else (atomStep t op d l).2.2
  | _ => t

/-- A lane whose request goes to a home router. -/
def homeLane (l : LaneTo) : Option (Nat × Nat × W64) :=
  match l.place with
  | .hbm pa => some (l.lane, pa, l.va)
  | _ => none

/-- The requests of a RED are on their way. -/
def sendReds (op : Nat) (t : State) (rs : List (Nat × Nat × W64)) : State := rs.foldl (fun t r => addRed t op r.1 (w64 r.2.1) r.2.2) t

/-- RED behind its checks and translations: its steps at banks, then its requests. -/
def redDone (op d : Nat) (tos : List LaneTo) (t : State) : State :=
  sendReds op (tos.foldl (redAtBank op d) t) (redRequests op (atomData (tos.foldl (redAtBank op d) t) op d) (tos.filterMap homeLane))

theorem exec_red {s t : State} {d o : BitVec 6} {a : BitVec 8} {k : BitVec 5} {tos : List LaneTo} (ho : o.toNat < 8 * s.cur.blocks)
    (hd : d.toNat < 8 * s.cur.blocks) (ht : atomLanes s a o.toNat k.toNat = .ok (tos, [], t)) :
    exec (.red d a o k) s = .next (advance (redDone k.toNat d.toNat tos t)) := by
  have hregs : ∀ r ∈ [o.toNat, d.toNat], r < 8 * s.cur.blocks := by simpa using ⟨ho, hd⟩
  change execRed d a o k s = _
  unfold execRed
  dsimp only
  rw [needVecs_bind s hregs, ht]
  rfl

theorem reservations_redAtBank (op d : Nat) (t : State) (l : LaneTo) : ReservationsOnly t (redAtBank op d t l) := by
  unfold redAtBank
  split
  · split
    · exact (drainKept_containLater t _ _ _ _ _ _).resv
    · exact reservations_atomStep t op d l
  · exact .refl t

/-- What a request asks for. -/
def RedOp.asks (r : RedOp) : Nat × Nat × Nat × W64 := (r.op, r.pa, r.val.toNat, r.va)

/-- Requests are appended in order, and nothing else of plies and homes changes. -/
theorem sendReds_kept (op : Nat) (rs : List (Nat × Nat × W64)) : ∀ t : State,
    (sendReds op t rs).plies = t.plies ∧ (sendReds op t rs).home = t.home ∧
      (sendReds op t rs).reds.map RedOp.asks = t.reds.map RedOp.asks ++ rs.map (fun r => (op, r.1, (w64 r.2.1).toNat, r.2.2)) := by
  induction rs with
  | nil => exact fun t => ⟨rfl, rfl, (List.append_nil _).symm⟩
  | cons r rs ih =>
    intro t
    obtain ⟨x, ⟨es, hadd⟩, hasks⟩ : ∃ x : RedOp, (∃ es, addRed t op r.1 (w64 r.2.1) r.2.2 =
        { t with reds := t.reds ++ [x], fresh := t.fresh + 1, engine := es }) ∧
        x.asks = (op, r.1, (w64 r.2.1).toNat, r.2.2) := ⟨_, later_eq _ _, rfl⟩
    obtain ⟨hplies, hhome, hreds⟩ := ih (addRed t op r.1 (w64 r.2.1) r.2.2)
    have hcons : sendReds op t (r :: rs) = sendReds op (addRed t op r.1 (w64 r.2.1) r.2.2) rs := rfl
    rw [hcons, hplies, hhome, hreds, hadd]
    refine ⟨rfl, rfl, ?_⟩
    simp [hasks]

theorem reservations_redDone (op d : Nat) (tos : List LaneTo) (t : State) : ReservationsOnly t (redDone op d tos t) := by
  have hbanks : ReservationsOnly t (tos.foldl (redAtBank op d) t) :=
    List.foldlRecOn (motive := fun u : State => ReservationsOnly t u) _ _ (.refl t) fun u hu l _ => hu.trans (reservations_redAtBank op d u l)
  exact hbanks.trans (.of_plies (sendReds_kept op _ _).1)

/-- But for floating-point additions each lane sends a request of its own. -/
theorem redRequests_apart {op : Nat} (h : amoFadd op = false) (val : Nat → Nat) (ls : List (Nat × Nat × W64)) :
    redRequests op val ls = ls.map (fun l => (l.2.1, val l.1, l.2.2)) := by
  unfold redRequests
  induction ls using List.reverseRecOn with
  | nil => rfl
  | append_singleton ls l ih => rw [List.foldl_append, ih, List.map_append]; simp [h]

/-- Lanes that are all at device memory take no step at a bank, and each sends its request home. -/
theorem redDone_home {op d : Nat} {tos : List LaneTo} {t : State} {at0 : LaneTo → Nat} (hop : amoFadd op = false)
    (h : ∀ e ∈ tos, e.place = .hbm (at0 e)) :
    redDone op d tos t = sendReds op t (tos.map (fun e => (at0 e, atomData t op d e.lane, e.va))) := by
  have hbanks : tos.foldl (redAtBank op d) t = t :=
    List.foldlRecOn (motive := fun u : State => u = t) _ _ rfl fun u hu e he => by
      unfold redAtBank
      rw [h e he]
      exact hu
  have hlanes : tos.filterMap homeLane = tos.map (fun e => (e.lane, at0 e, e.va)) := by
    rw [← List.filterMap_eq_map]
    refine List.filterMap_congr fun e he => ?_
    unfold homeLane
    rw [h e he]
    rfl
  unfold redDone
  rw [hbanks, hlanes, redRequests_apart hop, List.map_map]
  rfl

theorem atomData_lt (s : State) (op d l : Nat) : atomData s op d l < 2 ^ 64 := by
  refine Nat.lt_of_lt_of_le (Nat.mod_lt _ (Nat.two_pow_pos _)) (Nat.pow_le_pow_right (by decide) ?_)
  rcases amoBytes_cases op with h | h <;> omega

theorem redDone_asks {op d : Nat} {tos : List LaneTo} {t : State} {at0 : LaneTo → Nat} (hop : amoFadd op = false)
    (h : ∀ e ∈ tos, e.place = .hbm (at0 e)) :
    (redDone op d tos t).reds.map RedOp.asks = t.reds.map RedOp.asks ++ tos.map (fun e => (op, at0 e, atomData t op d e.lane, e.va)) := by
  have hval : ∀ l, (w64 (atomData t op d l)).toNat = atomData t op d l := fun l => by
    rw [w64, BitVec.toNat_ofNat, Nat.mod_eq_of_lt (atomData_lt t op d l)]
  rw [redDone_home hop h, (sendReds_kept op _ t).2.2, List.map_map]
  simp [Function.comp_def, hval]

/-! ## A lane's step in the own scratch -/

/-- Behind the end of protection: the old value comes back, and the table's new one is written. -/
theorem atomStep_atBank {s : State} {base : W64} {off : Int} {op l A : Nat} (hop : op < 27) (h : inOwnScratch s base off (amoBytes op) A 2) (d : Nat) :
    ∃ u, atomStep (endProtection s s.iss.ply 9) op d (ownLane s l A) = (natLE (Mem.read s.curPly.scratch A (amoBytes op)), none, u) ∧ BankKept s u ∧
      WroteScratch s u s.iss.ply A (bytesLE (atomicResult op (natLE (Mem.read s.curPly.scratch A (amoBytes op)))
        ((vreg s d l).toNat % 2 ^ (8 * amoBytes op)) ((vreg s (d + 1) l).toNat % 2 ^ (8 * amoBytes op))) (amoBytes op)) := by
  have hun := unprotected_endProtection s s.iss.ply 9
  have hbank := bankSame_endProtection s s.iss.ply 9
  have hreg : ∀ r, vreg (endProtection s s.iss.ply 9) r l = vreg s r l := fun r => hbank.1.resv.vreg hun.iss r l
  have hscr : (endProtection s s.iss.ply 9).curPly.scratch = s.curPly.scratch := by
    rw [State.curPly, hun.iss]
    exact hbank.2 _
  have hnew := amoNew_eq_atomicResult hop (natLE_read_lt s.curPly.scratch A (amoBytes op)) (atomData s op d l) (vreg s (d + 1) l).toNat
  rw [atomData, Nat.mod_mod] at hnew
  have hstep := atomStep_own (d := d) (l := l) (hun.own h)
  have hdata : atomData (endProtection s s.iss.ply 9) op d l = (vreg s d l).toNat % 2 ^ (8 * amoBytes op) := by rw [atomData, hreg]
  rw [hscr, hreg, hdata, hnew] at hstep
  have hlane : ownLane (endProtection s s.iss.ply 9) l A = ownLane s l A := by rw [ownLane, hun.iss]; rfl
  rw [hlane, hun.iss] at hstep
  generalize atomicResult op _ _ _ = new at hstep ⊢
  have hlen := length_bytesLE (amoBytes op) new
  have hne : bytesLE new (amoBytes op) ≠ [] := List.ne_nil_of_length_pos (by rw [hlen]; exact amoBytes_pos op)
  have hcases := amoBytes_cases op
  have hsec := oneSector_own h (by omega)
  obtain ⟨hkept, hwrote⟩ := scrWrite_wrote (endProtection s s.iss.ply 9) (p := s.iss.ply) hne (by rw [hlen]; exact hsec)
  exact ⟨_, hstep, hbank.1.trans hkept, hwrote.after hbank.2 fun _ => rfl⟩

/-- The bytes at an offset of a ply's scratch are replaced, and no other byte of scratch changes. -/
theorem WroteScratch.replaced {s u : State} {p A n new : Nat} (h : WroteScratch s u p A (bytesLE new n)) :
    Mem.read (u.ply p).scratch A n = bytesLE new n ∧
      (∀ j, (j < A ∨ A + n ≤ j) → Mem.byte (u.ply p).scratch j = Mem.byte (s.ply p).scratch j) ∧
      ∀ q, q ≠ p → (u.ply q).scratch = (s.ply q).scratch := by
  have hlen := length_bytesLE n new
  have hp : (u.ply p).scratch = Mem.write (s.ply p).scratch A (bytesLE new n) := by rw [h, if_pos rfl]
  refine ⟨?_, fun j hj => ?_, fun q hq => by rw [h, if_neg hq]⟩
  · rw [hp]
    exact (congrArg (Mem.read _ A) hlen.symm).trans (Mem.read_write _ _ _)
  · rw [hp, Mem.byte_write_outside _ _ _ _ (by rw [hlen]; exact hj)]

theorem memory_oldsTo (s : State) (d : Nat) (olds : List (Nat × W64)) :
    (oldsTo s d olds).home = s.home ∧ ∀ q, ((oldsTo s d olds).ply q).scratch = (s.ply q).scratch := by
  obtain ⟨hstate, -, hothers, hcur, -⟩ := SameButStrand.setVecLanes s d (maskOf (olds.map (fun x => x.1)))
    (fun l => ((olds.find? (fun x => x.1 == l)).map (fun x => x.2)).getD 0)
  change oldsTo s d olds = _ at hstate
  have hiss : (oldsTo s d olds).iss = s.iss := by rw [hstate]
  refine ⟨by rw [hstate], fun q => ?_⟩
  by_cases hq : q = s.iss.ply
  · have hscr := congrArg Ply.scratch hcur
    change ((oldsTo s d olds).ply (oldsTo s d olds).iss.ply).scratch = _ at hscr
    rw [hiss] at hscr
    rw [hq]
    exact hscr
  · exact congrArg Ply.scratch (hothers q hq)

theorem vreg_oldsTo_one (s : State) (d r : Nat) {l j : Nat} (v : W64) (hj : j < 32) :
    vreg (oldsTo s d [(l, v)]) r j = if r = d ∧ j = l then v else vreg s r j := by
  have hmask : inMask (maskOf [l]) j = true ↔ j = l := by
    rw [inMask_maskOf, List.mem_singleton]
    exact and_iff_right hj
  unfold oldsTo
  rw [vreg_setVecLanes _ _ _ _ _ _ hj]
  simp only [List.map_cons, List.map_nil, hmask]
  refine ite_congr rfl (fun h => ?_) fun _ => rfl
  simp [h.2]

/-- RED's one lane in the own scratch takes ATOM's step there, and sends nothing. -/
theorem redDone_own {s t u : State} {op d l A old : Nat} (h : atomStep t op d (ownLane s l A) = (old, none, u)) :
    redDone op d [ownLane s l A] t = u := by
  have hsound : (directRead t (ownLane s l A).place (amoBytes op)).2.1 = none := congrArg (·.2.1) h
  have hbank : redAtBank op d t (ownLane s l A) = u := by
    have hstep : redAtBank op d t (ownLane s l A) = if (directRead t (ownLane s l A).place (amoBytes op)).2.1.isSome then
        containLater t t.iss.ply t.iss.strand 6 10 (laneBit l) (scratchEa A) else (atomStep t op d (ownLane s l A)).2.2 := rfl
    rw [hstep, hsound, h]
    rfl
  exact hbank

theorem atomSteps_one {s t u : State} {op d l A old : Nat} (h : atomStep t op d (ownLane s l A) = (old, none, u)) :
    atomSteps t op d [ownLane s l A] = ([(l, w64 old)], [], u) := by
  unfold atomSteps
  rw [List.foldl_cons]
  simp only [h]
  rfl

/-! ## The home router's step -/

/-- What a router makes of a request whose predecessors have been performed: it merges it with a mate, or performs it. -/
def routed (t : State) (r : RedOp) : State :=
  match redMates t r with
  | [] => performRed t r
  | l =>
    match l[Config.redOrder t.draws % (l.length + 1)]? with
    | some q => mergeRed t r q
    | none => performRed { t with draws := t.draws + 1 } r

theorem exec_homeAtomic {id : Nat} {s : State} {r : RedOp} (h : s.reds.find? (fun q => q.id == id) = some r) :
    exec (.homeAtomic id) s = .next (routed ((redsBefore s r).foldl (fun t q => performBehind t q.id s.reds.length) s) r) := by
  have hstep : exec (.homeAtomic id) s = .next (match s.reds.find? (fun q => q.id == id) with
      | some r => routed ((redsBefore s r).foldl (fun t q => performBehind t q.id s.reds.length) s) r
      | none => s) := rfl
  simp only [hstep, h]

/-- A request without mates is performed. -/
theorem routed_alone {t : State} {r : RedOp} (h : redMates t r = []) : routed t r = performRed t r := by
  unfold routed
  rw [h]

/-- A request with mates is merged with one of them, or performed all the same. -/
theorem routed_mates {t : State} {r : RedOp} (h : redMates t r ≠ []) :
    (∃ q ∈ redMates t r, routed t r = mergeRed t r q) ∨ routed t r = performRed { t with draws := t.draws + 1 } r := by
  unfold routed
  split
  · next hnil => exact absurd hnil h
  · split
    · next q hq => exact .inl ⟨q, List.mem_of_getElem? hq, rfl⟩
    · exact .inr rfl

/-- Requests other than floating-point additions have no mates (R105). -/
theorem redMates_apart {s : State} {r : RedOp} (h : amoFadd r.op = false) : redMates s r = [] := by
  unfold redMates
  rw [h]
  rfl

/-! ## All of them -/

/-- Settles O34: ATOM and RED behind their checks and translations, a lane's step in the own scratch, and a request at its home. -/
theorem atomicResults : Obligations.AtomicResults := by
  unfold Obligations.AtomicResults
  refine ⟨fun d a o k s t tos _ ho hd hcas ha ht olds u hu => ⟨exec_atom ho hd hcas ht hu, ?_⟩,
    fun d a o k s t tos _ ho hd ha ht => ⟨_, exec_red ho hd ht, ?_, fun hop at0 hat => ⟨?_, fun q => ?_, ?_⟩⟩,
    fun d a o k s l A hl hk hlanes ho hd ha hown hr => ?_, fun id s r hfind => ?_⟩
  · have hsteps := reservations_atomSteps t k.toNat d.toNat tos
    rw [hu] at hsteps
    exact (fragsKept_atomLanes ha ht).resv.trans hsteps
  · exact (fragsKept_atomLanes ha ht).resv.trans (reservations_redDone _ _ _ _)
  · rw [redDone_home hop hat, (sendReds_kept _ _ _).2.1]
  · rw [redDone_home hop hat, State.ply, (sendReds_kept _ _ _).1]
    exact (fragsKept_atomLanes ha ht).scratch q
  · have hready := fragsKept_atomLanes ha ht
    refine (redDone_asks hop hat).trans (congrArg (List.map RedOp.asks t.reds ++ ·) (List.map_congr_left fun e _ => ?_))
    rw [atomData, hready.resv.vreg hready.iss]
  · obtain ⟨u, hstep, hkept, hwrote⟩ := atomStep_atBank (l := l) hk hown d.toNat
    have hready := atomLanes_own ha hl hlanes hown hr
    obtain ⟨hread, hbytes, hplies⟩ := hwrote.replaced
    refine ⟨fun hcas => ?_, fun _ _ _ => ⟨u, ?_, ⟨hread, hbytes, hplies, hkept.home⟩, hkept.resv⟩⟩
    · obtain ⟨hhome, hscr⟩ := memory_oldsTo u d.toNat [(l, w64 (natLE (Mem.read s.curPly.scratch A (amoBytes k.toNat))))]
      refine ⟨_, exec_atom ho hd hcas hready (atomSteps_one hstep), ⟨?_, fun j hj => ?_, fun q hq => ?_, hhome.trans hkept.home⟩, fun r j hj => ?_⟩
      · rw [hscr, hread]
      · rw [hscr]
        exact hbytes j hj
      · rw [hscr, hplies q hq]
      · rw [vreg_oldsTo_one _ _ _ _ hj, hkept.resv.vreg hkept.iss]
        rfl
    · rw [exec_red ho hd hready, redDone_own hstep]
  · rw [exec_homeAtomic hfind]
    refine ⟨fun h => by rw [routed_alone h], fun h => (routed_mates h).imp (fun ⟨q, hq, hr⟩ => ⟨q, hq, by rw [hr]⟩) fun hr => by rw [hr],
      fun hop hbefore hflips hpoison halign hlt => ⟨performRed s r, ?_, fun q => ?_, (drainKept_performRed s r).resv, ?_, ?_⟩⟩
    · rw [routed_alone (redMates_apart hop), hbefore]
      rfl
    all_goals obtain ⟨hsound, hbytes, hothers⟩ := performRed_home hflips hpoison halign
    · rw [performRed_reds hsound, List.mem_filter, bne_iff_ne]
    · rw [hbytes, amoNew_eq_atomicResult hlt (natLE_read_lt _ _ _), Nat.zero_mod]
    · exact hothers

end Sys2Proof.Machine
end

section
/-! PROOF. The words that the spec writes out (R112, R120, R125, R141 to R147, R163, R174 to R178, R184, R190, R193, R218, R221) and the reserved
majors (R116, R117). -/
namespace Sys2Proof
open Machine

/-- A word that encodes a well-formed instruction decodes to it. -/
theorem decodeWord_of_encode {w : W32} {c : Bool} {i : Instr} (h : i.wellFormed = true ∧ isEvent i = false ∧ encode c i = w) :
    decodeWord w = .ok (c, i) := by
  obtain ⟨hwf, hev, rfl⟩ := h
  exact encodeDecode.1 c i hwf hev

theorem toNat_fld_major (w : W32) : (fld w 25 6).toNat = w.toNat / 2 ^ 25 % 64 := by
  rw [fld, BitVec.extractLsb'_toNat, Nat.shiftRight_eq_div_pow]

theorem decodeWord_reserved {w : W32} (h : 62 ≤ (fld w 25 6).toNat) : decodeWord w = .error .reservedMajor := by
  rw [decodeWord, decodeRaw_reserved h]

/-- Settles O2: each word is the encoding of what the spec calls it, and the encodings determine the decoder. -/
theorem decodedWords : Obligations.DecodedWords := by
  unfold Obligations.DecodedWords
  refine ⟨?_, ?_, ?_, ?_, ?_, ?_, ?_, ?_, ?_, ?_, ?_, ?_, ?_, ?_, ?_, ?_, ?_, ?_, ?_, ?_, ?_, ?_, ?_, ?_, fun w hmajor => ?reserved⟩
  case reserved =>
    rw [← toNat_fld_major] at hmajor
    exact decodeWord_reserved (by omega)
  all_goals exact decodeWord_of_encode (by decide)

end Sys2Proof
end

section
/-! PROOF. Branches, jumps, CALL, LOOP and the vector branches that make no fragment (R113, R140 to R143). -/
namespace Sys2Proof.Machine

/-! ## What going on at an index leaves -/

/-- The end of an instruction at an index keeps every register. -/
theorem RegistersKept.goTo (w : Writes) (s : State) (x : W32) : RegistersKept w s (goTo s x) := by
  obtain ⟨fr, ag, h⟩ := goTo_eq s x
  have hb : SameButStrand s (Machine.goTo s x) := h ▸ SameButStrand.modCur s _
  have hc : (Machine.goTo s x).cur = { s.cur with frags := fr, ages := ag } := by rw [h, State.cur_modCur]
  refine ⟨hb, hb.memory, ?_, fun n hn _ _ => ?_, fun hal n hn _ => ?_, fun r l _ _ => ?_, fun q _ => ?_, fun _ => ?_⟩
  · rw [hc]
  · simp [sreg, hc, Nat.not_lt.2 hn]
  · have ht : (Machine.goTo s x).cur.trapped = s.cur.trapped := by rw [hc]; rfl
    have hbank : (Machine.goTo s x).cur.trapBank = s.cur.trapBank := by rw [hc]
    rcases hal.2 with htrapped | ⟨hfrags, hstack, hheld, hjoin, hparent⟩
    · simp only [sreg, hn, if_true, ht, htrapped, hbank]
    · simp only [sreg, hn, if_true, ht, hbank, (goTo_alone s x hfrags hstack hheld hjoin hparent).1]
  · simp [vreg, hc]
  · simp [preg, hc]
  · rw [hc]

theorem livePly_modCur (s : State) (f : Strand → Strand) : (s.modCur f).livePly s.iss.ply = true := Tab.has_put_self _ _ _

/-- A fragment alone in its strand stays alone when it goes on. -/
theorem Alone.goTo {s : State} (h : Alone s) (x : W32) : Alone (goTo s x) := by
  have hf := h.modCurFrag (f := fun f => { (freshFrag f) with pc := x }) rfl rfl rfl rfl
  unfold Machine.goTo
  generalize s.modCurFrag (fun f => { (freshFrag f) with pc := x }) = t at hf
  obtain ⟨hlive, hsplit⟩ := hf
  unfold settle
  rw [if_pos hlive]
  refine ⟨livePly_modCur t _, ?_⟩
  rw [State.cur_modCur, State.modCur_iss]
  rcases hsplit with htrapped | ⟨hfrags, hstack, hheld, hjoin, hparent⟩
  · left
    rw [Strand.settle, if_pos htrapped]
    exact htrapped
  · right
    simp only [State.curFrag, State.cur_modCur, State.modCur_iss]
    rcases settle_alone hfrags hstack hheld hjoin hparent with e | e
    · rw [e]
      exact ⟨hfrags, hstack, hheld, hjoin, hparent⟩
    · rw [e]
      simp [Strand.fragAt, Tab.get, Tab.find]
      exact ⟨hstack, hheld, hjoin, hparent⟩

/-! ## Branches by an offset -/

/-- A target at or above word 0 is where a jump goes on; one below it is marked besides (R141). -/
theorem jumpBy_of_not_under {s : State} {d : Int} (h : 0 ≤ (s.iss.w.toNat : Int) + d) : jumpBy s d = goesOnAt s (indexPlus s d) true := by
  unfold jumpBy targetUnder
  rw [← jump_eq_goesOnAt, decide_eq_false (Int.not_lt.2 h)]
  rfl

theorem jumpBy_of_under {s : State} {d : Int} (h : (s.iss.w.toNat : Int) + d < 0) :
    jumpBy s d = (goesOnAt s (indexPlus s d) true).modCurFrag (fun f => { f with under := true }) := by
  unfold jumpBy targetUnder
  rw [← jump_eq_goesOnAt, decide_eq_true h]
  rfl

theorem branch_results {p : State} {taken : Bool} {d : Int} :
    ((taken = true → 0 ≤ (p.iss.w.toNat : Int) + d) →
      branch p taken d = goesOnAt p (if taken then indexPlus p d else p.iss.w + 1) taken) ∧
    (taken = true → (p.iss.w.toNat : Int) + d < 0 →
      branch p taken d = (goesOnAt p (indexPlus p d) true).modCurFrag (fun f => { f with under := true })) := by
  cases taken with
  | false => exact ⟨fun _ => rfl, fun h => absurd h Bool.false_ne_true⟩
  | true => exact ⟨fun h => jumpBy_of_not_under (h rfl), fun _ h => jumpBy_of_under h⟩

theorem RegistersKept.jump (w : Writes) (s : State) (x : W32) : RegistersKept w s (jump s x) :=
  (RegistersKept.modCurFrag w s rfl).trans (.goTo w _ x) fun h => h.modCurFrag rfl rfl rfl rfl

theorem Alone.jump {s : State} (h : Alone s) (x : W32) : Alone (jump s x) :=
  (h.modCurFrag (f := fun f => { f with jumped := true }) rfl rfl rfl rfl).goTo x

theorem RegistersKept.branch (w : Writes) (s : State) (taken : Bool) (d : Int) : RegistersKept w s (branch s taken d) := by
  unfold Machine.branch jumpBy
  dsimp only
  split
  · split
    · exact (RegistersKept.jump w s _).trans (RegistersKept.modCurFrag w _ rfl) fun h => h.jump _
    · exact .jump w s _
  · exact .goTo w s _

/-! ## The instructions -/

theorem branchCond_eq (k : Nat) (v : W64) : branchCond k v = branchHolds k v := by
  unfold branchCond branchHolds
  split <;> simp [bne, BEq.beq]

theorem iss_setSreg (s : State) (n : Nat) (v : W64) : (setSreg s n v).iss = s.iss := (SameButStrand.setSreg s n v).iss

/-- The upper half of a word is zero when the word is less than 2^32. -/
theorem bits_upper_eq_zero (v : W64) : (bits v 32 32 == 0) = decide (v.toNat < 2 ^ 32) := by
  have := v.isLt
  rw [Bool.eq_iff_iff, beq_iff_eq, decide_eq_true_iff]
  unfold bits
  omega

/-- A jump to a register's value is the branch by its distance from the instruction (R141). -/
theorem jump_low_word {s : State} {v : W64} (h : v.toNat < 2 ^ 32) :
    jump s (w32 (bits v 0 32)) = branch s true ((v.toNat : Int) - (s.iss.w.toNat : Int)) := by
  have hto : (s.iss.w.toNat : Int) + ((v.toNat : Int) - (s.iss.w.toNat : Int)) = (v.toNat : Int) := by omega
  have hindex : indexPlus s ((v.toNat : Int) - (s.iss.w.toNat : Int)) = w32 (bits v 0 32) := by
    rw [indexPlus, hto, BitVec.ofInt_natCast, bits, Nat.shiftRight_zero, Nat.mod_eq_of_lt h, w32]
  change _ = jumpBy s _
  rw [jumpBy_of_not_under (by rw [hto]; exact Int.natCast_nonneg _), hindex, jump_eq_goesOnAt]

section
variable (s : State) (h : BitVec 2) (a : BitVec 8) (o : BitVec 12)

theorem execBCnd_always : execBCnd h 6 a o s = .next (branch s true o.toInt) := rfl

theorem execBCnd_source {k : BitVec 3} (hk : k ≠ 6) (ha : isSource a) :
    execBCnd h k a o s = .next (branch s (branchHolds k.toNat (sourceOf s a)) o.toInt) := by
  unfold execBCnd
  rw [if_neg hk, readS_source s a ha, ← branchCond_eq]
  rfl

theorem execBCnd_badSource {k : BitVec 3} (hk : k ≠ 6) (ha : ¬ isSource a) : execBCnd h k a o s = .next (takeTrap s { cause := 3 }) := by
  unfold execBCnd
  rw [if_neg hk, readS_bad s (Nat.le_of_not_lt ha)]
  rfl

theorem execJr_source (ha : isSource a) (hlow : (sourceOf s a).toNat < 2 ^ 32) :
    execJr a s = .next (branch s true (((sourceOf s a).toNat : Int) - (s.iss.w.toNat : Int))) := by
  unfold execJr
  rw [readS_source s a ha, ← jump_low_word hlow, ok_bind, need_bind (by rw [bits_upper_eq_zero, decide_eq_true hlow])]
  rfl

theorem execJr_badSource (ha : ¬ isSource a) : execJr a s = .next (takeTrap s { cause := 3 }) := by
  unfold execJr
  rw [readS_bad s (Nat.le_of_not_lt ha)]
  rfl

theorem execJr_badTarget (ha : isSource a) (hhigh : 2 ^ 32 ≤ (sourceOf s a).toNat) : execJr a s = .next (takeTrap s { cause := 4 }) := by
  unfold execJr
  rw [readS_source s a ha, ok_bind, need_bind_stop (by rw [bits_upper_eq_zero, decide_eq_false (Nat.not_lt.2 hhigh)])]
  rfl

theorem execLoop_register (ha : a.toNat < 192) : execLoop h a o s =
    .next (branch (setSreg s a.toNat (sreg s a.toNat - 1)) (decide (sreg s a.toNat ≠ 1)) o.toInt) := by
  have hcount : (sreg s a.toNat - 1 != 0) = decide (sreg s a.toNat ≠ 1) := by
    rw [Bool.eq_iff_iff, bne_iff_ne, decide_eq_true_iff, ne_eq, ne_eq, sub_eq_zero]
  unfold execLoop
  rw [need_bind (decide_eq_true ha)]
  dsimp only
  rw [hcount]
  rfl

theorem execLoop_badRegister (ha : 192 ≤ a.toNat) : execLoop h a o s = .next (takeTrap s { cause := 3 }) := by
  unfold execLoop
  rw [need_bind_stop (decide_eq_false (Nat.not_lt.2 ha))]
  rfl

end

/-- What a branch of the tables runs. -/
theorem exec_branchForm {i : Instr} {s : State} {x : BranchForm} (h : branchForm s i = some x) (hok : branchOperandOk s i) :
    exec i s = .next (branch x.pre x.taken x.d) := by
  unfold branchForm at h
  split at h
  case h_1 hint k a o =>
    cases h
    by_cases hk : k = 6
    · subst hk
      exact execBCnd_always s hint a o
    · exact execBCnd_source s hint a o hk (hok.resolve_left hk)
  case h_4 a =>
    cases h
    exact execJr_source s a hok.1 hok.2
  case h_5 hint a o =>
    cases h
    exact execLoop_register s hint a o hok
  case h_9 => cases h
  all_goals cases h; rfl

/-- What a branch has done before it goes on: CALL and LOOP write their register. -/
theorem branchForm_pre {i : Instr} {s : State} {x : BranchForm} (h : branchForm s i = some x) :
    x.pre.iss = s.iss ∧ RegistersKept { scalar := branchWrites i } s x.pre ∧ (Alone s → Alone x.pre) := by
  unfold branchForm at h
  split at h
  case h_3 =>
    cases h
    exact ⟨iss_setSreg s _ _, .setSreg _ s 191 _ rfl, fun ha => ha.setSreg _ _⟩
  case h_5 hint a o =>
    cases h
    exact ⟨iss_setSreg s _ _, .setSreg _ s a.toNat _ (beq_self_eq_true _), fun ha => ha.setSreg _ _⟩
  case h_9 => cases h
  all_goals cases h; exact ⟨rfl, .refl _ s, id⟩

/-- Settles O19: every branch of the tables runs `branch` behind its register write, and `branch` goes on at one of its two indices. -/
theorem branchResults : Obligations.BranchResults := by
  unfold Obligations.BranchResults
  refine ⟨fun i s x hx _ hok => ?_, fun s h k c a o => ⟨fun ha hc => execBCnd_badSource s h a o hc ha, execJr_badSource s a,
    execJr_badTarget s a, execLoop_badRegister s k a o⟩, fun i s t x hx hok hexec => ?_⟩
  · obtain ⟨hiss, -, -⟩ := branchForm_pre hx
    have hgoes := branch_results (p := x.pre) (taken := x.taken) (d := x.d)
    unfold indexPlus at hgoes ⊢
    rw [hiss] at hgoes
    rw [exec_branchForm hx hok]
    exact ⟨fun h => congrArg _ (hgoes.1 h), fun ht h => congrArg _ (hgoes.2 ht h)⟩
  · obtain ⟨-, hkept, halone⟩ := branchForm_pre hx
    rw [exec_branchForm hx hok] at hexec
    cases hexec
    exact hkept.trans (.branch _ _ _ _) halone

end Sys2Proof.Machine
end

section
/-! PROOF. Writes at the homes (R10) and records (R361, R389): beyond reservations they leave the tables of work; drains leave every other entry of the
log as it stands (R238). -/
namespace Sys2Proof.Machine

/-! ## Tables of work but for plies -/

/-- The tables of the work under way but for the plies. -/
def State.offPlies (s : State) : Tab Skein × List Job × Tab Core × Tab Reel × Tab Queue × List Instr × Issue := s.work.2

theorem offPlies_of_work {s t : State} (h : t.work = s.work) : t.offPlies = s.offPlies := congrArg (·.2) h

theorem cores_of_offPlies {s t : State} (h : t.offPlies = s.offPlies) : t.cores = s.cores := congrArg (·.2.2.1) h

theorem queues_of_offPlies {s t : State} (h : t.offPlies = s.offPlies) : t.queues = s.queues := congrArg (·.2.2.2.2.1) h

theorem core_of_cores {s t : State} (h : t.cores = s.cores) (c : Nat) : t.core c = s.core c := by rw [State.core, State.core, h]

theorem cores_of_work {s t : State} (h : t.work = s.work) : t.cores = s.cores := cores_of_offPlies (offPlies_of_work h)

theorem queues_of_work {s t : State} (h : t.work = s.work) : t.queues = s.queues := queues_of_offPlies (offPlies_of_work h)

theorem core_of_work {s t : State} (h : t.work = s.work) (c : Nat) : t.core c = s.core c := core_of_cores (cores_of_work h) c

theorem offPlies_homeWrote (s : State) (sec pol : Nat) (whole : Bool) : (homeWrote s sec pol whole).offPlies = s.offPlies := by
  rw [homeWrote_eq]
  change (markWritten (clearWritten s sec whole) sec pol).offPlies = _
  exact offPlies_of_work ((work_markWritten _ _ _).trans (work_clearWritten _ _ _))

theorem offPlies_homeWriteIn (s : State) (pa pol : Nat) (b : Bytes) : (homeWriteIn s pa pol b).offPlies = s.offPlies :=
  (offPlies_homeWrote _ _ _ _).trans (offPlies_of_work (work_readUnder s _ _))

theorem offPlies_homeWriteAll (pol fuel : Nat) : ∀ (s : State) (pa : Nat) (b : Bytes), (homeWriteAll s pa pol b fuel).offPlies = s.offPlies := by
  induction fuel with
  | zero => exact fun _ _ _ => rfl
  | succ fuel ih =>
    intro s pa b
    unfold homeWriteAll
    split
    · rfl
    · exact (ih _ _ _).trans (offPlies_homeWriteIn s pa pol _)

theorem offPlies_homeWrite (s : State) (pa : Nat) (b : Bytes) : (homeWrite s pa b).offPlies = s.offPlies := offPlies_homeWriteAll 0 _ s pa b

theorem offPlies_homeDrain (s : State) (sec pol : Nat) (c : Tab (Byte × Byte)) (poison : Bool) :
    (homeDrain s sec pol c poison).offPlies = s.offPlies := by
  have hcells : (drainCells s sec pol c).offPlies = s.offPlies :=
    (offPlies_homeWrote _ _ _ _).trans (offPlies_of_work (work_readUnder s _ _))
  rw [← hcells]
  unfold homeDrain drainCells
  dsimp only
  split
  · split <;> rfl
  · rfl

theorem offPlies_writeRecord (s : State) (r : ErrRec) : (writeRecord s r).offPlies = s.offPlies := by
  have hnote : ∀ n, (noteInjection (s.modVdev r.vdev (fun v => { v with recNo := v.recNo + 1 })) r n).offPlies = s.offPlies := fun n =>
    offPlies_of_work ((work_noteInjection _ _ _).trans (work_modVdev _ _ _))
  have hsent : ∀ (t : State) f v, (msixVdev (t.modVdev v f) v 0).offPlies = t.offPlies := fun _ _ _ => rfl
  unfold writeRecord
  dsimp only
  split
  · rfl
  · split
    · exact hnote _
    · rw [hsent, offPlies_homeWrite, offPlies_homeWrite]
      exact hnote _

theorem cores_writeRecord (s : State) (r : ErrRec) : (writeRecord s r).cores = s.cores := cores_of_offPlies (offPlies_writeRecord s r)

/-! ## What of a drain leaves every core -/

theorem cores_foldl {α : Type} {f : State → α → State} (h : ∀ s x, (f s x).cores = s.cores) (l : List α) :
    ∀ s, (l.foldl f s).cores = s.cores := by
  induction l with
  | nil => exact fun _ => rfl
  | cons x l ih => exact fun s => (ih _).trans (h s x)

theorem cores_later (s : State) (e : Instr) : (s.later e).cores = s.cores := by
  obtain ⟨es, h⟩ := later_eq s e
  rw [h]

theorem cores_failedStore (s : State) (p cls cause : Nat) (owner : ErrRec) : (failedStore s p cls cause owner).cores = s.cores := by
  unfold failedStore
  split
  · rfl
  · exact cores_writeRecord s _

theorem cores_holdInbound {s t : State} {v : Nat} {e : Instr} (h : holdInbound s v e = some t) : t.cores = s.cores := by
  unfold holdInbound at h
  split at h
  · rw [← Option.some.inj h]
    unfold wakeDevice
    split
    · exact cores_later _ _
    · exact cores_later _ _
    · rfl
  · cases h

theorem cores_sendPeerStore (s : State) (c : Nat) (e : LogEntry) (mate : Option LogEntry) (rank : Nat) :
    (sendPeerStore s c e mate rank).cores = s.cores := by
  have htouch : (touchRank (countFor s e.vdev) (s.ply e.ply).reel rank).cores = s.cores := cores_of_work (work_touchRank _ _ _)
  have hwalk : ∀ (t : State) v va, (walkTouch t v va).cores = t.cores := fun t v va => cores_of_work (work_walkTouch t v va)
  unfold sendPeerStore
  dsimp only
  rw [← htouch]
  generalize touchRank (countFor s e.vdev) (s.ply e.ply).reel rank = r
  split
  · exact cores_failedStore r _ _ _ _
  · split
    · split
      · next t ht => exact cores_holdInbound (t := t) ht
      · split
        · split
          · exact (cores_foldl (fun _ _ => cores_of_offPlies (offPlies_homeDrain _ _ _ _ _)) _ _).trans (hwalk r _ _)
          · exact (cores_failedStore _ _ _ _ _).trans (hwalk r _ _)
        · exact cores_failedStore r _ _ _ _
    · split
      · exact cores_failedStore r _ _ _ _
      · rfl

theorem cores_forgetReads (s : State) (c : Nat) (e : LogEntry) : (forgetReads s c e).cores = s.cores := by
  unfold forgetReads
  split <;> rfl

/-! ## What of a drain leaves every log -/

/-- The log of every core. -/
def State.logs (s : State) (c : Nat) : List LogEntry := (s.core c).log

theorem logs_of_cores {s t : State} (h : t.cores = s.cores) : t.logs = s.logs := by
  funext c
  rw [State.logs, State.logs, core_of_cores h]

theorem logs_foldl {α : Type} {f : State → α → State} (h : ∀ s x, (f s x).logs = s.logs) (l : List α) : ∀ s, (l.foldl f s).logs = s.logs := by
  induction l with
  | nil => exact fun _ => rfl
  | cons x l ih => exact fun s => (ih _).trans (h s x)

theorem logs_modCore (s : State) (c : Nat) {f : Core → Core} (h : (f (s.core c)).log = (s.core c).log) : (s.modCore c f).logs = s.logs := by
  funext d
  rw [State.logs, State.logs, State.core_modCore_eq]
  split
  · next hd => rw [hd, h]
  · rfl

theorem logs_dropL1 (s : State) (c key : Nat) : (dropL1 s c key).logs = s.logs := by
  have hdropped : (if key % 4 = 2 then s.modCore c (fun x => { x with dropped := s.fresh }) else s).logs = s.logs := by
    split
    · exact logs_modCore s c rfl
    · rfl
  unfold dropL1
  dsimp only
  generalize (if key % 4 = 2 then s.modCore c (fun x => { x with dropped := s.fresh }) else s) = r at hdropped
  split
  · split
    · exact (logs_modCore r c rfl).trans hdropped
    · exact hdropped
  · exact hdropped

theorem logs_updateL1 (s : State) (c pa n : Nat) : (updateL1 s c pa n).logs = s.logs := by
  unfold updateL1
  dsimp only
  split
  · rfl
  · split
    · exact logs_dropL1 s c _
    · exact logs_modCore s c rfl

theorem logs_unpin (s : State) (c serial : Nat) : (unpin s c serial).logs = s.logs := by
  funext d
  exact Tab.proj_get_map Core.log (by intro _; rfl) {} s.cores d

theorem logs_droppedRed (s : State) (o : RedOwner) : (droppedRed s o).logs = s.logs := by
  refine logs_of_cores ?_
  unfold droppedRed containLater
  dsimp only
  split
  · rfl
  · exact cores_writeRecord s _

theorem logs_performRed (s : State) (r : RedOp) : (performRed s r).logs = s.logs := by
  have htouch : (homeTouch { s with reds := s.reds.filter (fun q => q.id != r.id) } r.pa 0).logs = s.logs :=
    logs_of_cores (cores_of_work (work_homeTouch _ _ _))
  unfold performRed
  dsimp only
  refine Eq.trans ?_ htouch
  split
  · exact logs_foldl logs_droppedRed _ _
  · refine (logs_foldl (fun t o => ?_) _ _).trans (logs_of_cores (cores_of_offPlies (offPlies_homeWriteIn _ _ _ _)))
    split
    · exact logs_updateL1 t _ _ _
    · rfl

theorem logs_performReds (s : State) (pick : RedOp → Bool) : (performReds s pick).logs = s.logs := logs_foldl logs_performRed _ s

/-! ## The entries that leave -/

/-- The mate that an entry for a peer takes with it (R415). -/
def goesWith (s : State) (c : Nat) (e : LogEntry) : Option LogEntry :=
  match e.space with
  | .peer _ => blockMate (s.core c).log e
  | _ => none

/-- The entries that leave the log as one drains. -/
def drained (s : State) (c : Nat) (e : LogEntry) : List LogEntry := e :: (goesWith s c e).toList

/-- What is found as an entry is read stands in that entry alone. -/
theorem mem_log_seeEntry {s : State} {c : Nat} {e g : LogEntry} (hg : g.serial ≠ e.serial) : g ∈ (seeEntry s c e).logs c ↔ g ∈ s.logs c := by
  have hfire : (if e.injected then fireInjection s 6 (if e.bad then 5 else 1) else s).core c = s.core c := by
    split <;> rfl
  unfold seeEntry
  split
  · rfl
  · dsimp only
    rw [State.logs, State.core_modCore, hfire, List.mem_map]
    constructor
    · rintro ⟨h, hh, rfl⟩
      by_cases hs : h.serial = e.serial
      · exact absurd (by simp [hs]) hg
      · simpa [State.logs, hs] using hh
    · exact fun h => ⟨g, h, if_neg (by simpa using hg)⟩

theorem mem_log_readEntry {s : State} {c : Nat} {e g : LogEntry} (hg : g.serial ≠ e.serial) :
    g ∈ (if e.bad then entryError (seeEntry s c e) e else seeEntry s c e).logs c ↔ g ∈ s.logs c := by
  refine Iff.trans ?_ (mem_log_seeEntry hg)
  split
  · rw [entryError, logs_of_cores (cores_failedStore _ _ _ _ _)]
  · rfl

theorem mem_log_readEntries {c : Nat} {g : LogEntry} (es : List LogEntry) (hg : ∀ h ∈ es, g.serial ≠ h.serial) : ∀ s : State,
    g ∈ (es.foldl (fun s h => if h.bad then entryError (seeEntry s c h) h else seeEntry s c h) s).logs c ↔ g ∈ s.logs c := by
  induction es with
  | nil => exact fun _ => Iff.rfl
  | cons e es ih =>
    intro s
    rw [List.foldl_cons, ih (fun h hh => hg h (List.mem_cons_of_mem _ hh)), mem_log_readEntry (hg e List.mem_cons_self)]

/-- An entry that has left the log leaves the sectors that it pinned too, and its mark behind. -/
def leftLog (c : Nat) (t : State) (g : LogEntry) : State :=
  let u := dropL1 (unpin (forgetReads t c g) c g.serial) c g.key
  if g.pub = none then u.modCore c (fun x => addMark x g.key) else u

theorem logs_leftLog (c : Nat) (t : State) (g : LogEntry) : (leftLog c t g).logs = t.logs := by
  have hgone : (dropL1 (unpin (forgetReads t c g) c g.serial) c g.key).logs = t.logs :=
    ((logs_dropL1 _ c _).trans (logs_unpin _ c _)).trans (logs_of_cores (cores_forgetReads t c g))
  unfold leftLog
  dsimp only
  split
  · exact (logs_modCore _ c (log_addMark _ _)).trans hgone
  · exact hgone

/-- The state in which the entries have been read and are out of the log. -/
def readOut (s : State) (c : Nat) (es : List LogEntry) : State :=
  (es.foldl (fun s g => if g.bad then entryError (seeEntry s c g) g else seeEntry s c g) s).modCore c
    (fun x => { x with log := x.log.filter (fun g => es.all (fun h => g.serial != h.serial)) })

theorem mem_log_readOut (s : State) (c : Nat) (es : List LogEntry) (g : LogEntry) :
    g ∈ (readOut s c es).logs c ↔ g ∈ s.logs c ∧ ∀ h ∈ es, g.serial ≠ h.serial := by
  rw [readOut, State.logs, State.core_modCore, List.mem_filter, List.all_eq_true]
  simp only [bne_iff_ne]
  exact and_congr_left fun h => mem_log_readEntries es h s

/-- What a drain performs (R238). -/
theorem drainRaw_eq (s : State) (c : Nat) (e : LogEntry) : drainRaw s c e = (drained s c e).foldl (leftLog c) (match e.space with
    | .dev => homeDrain (performReds (readOut s c (drained s c e)) (fun r => r.ofPly e.ply && r.pa / 128 == e.sector)) e.sector e.policy e.cells
        (e.bad || e.poison)
    | .host pasid => sendHost (readOut s c (drained s c e)) e.vdev pasid (e.sector * 128) e.cells (e.bad || e.poison)
    | .peer rank => sendPeerStore (readOut s c (drained s c e)) c { e with poison := e.bad || e.poison }
        ((goesWith s c e).map (fun g => { g with poison := g.bad || g.poison })) rank) := rfl

/-- A drain takes the entries that leave, and no other (R238, R415). -/
theorem mem_log_drainRaw (s : State) (c : Nat) (e g : LogEntry) :
    g ∈ (drainRaw s c e).logs c ↔ g ∈ s.logs c ∧ ∀ h ∈ drained s c e, g.serial ≠ h.serial := by
  rw [drainRaw_eq, logs_foldl (logs_leftLog c), ← mem_log_readOut]
  cases e.space with
  | dev => rw [logs_of_cores (cores_of_offPlies (offPlies_homeDrain _ _ _ _ _)), logs_performReds]
  | host pasid => rfl
  | peer rank => rw [logs_of_cores (cores_sendPeerStore _ _ _ _ _)]

/-- With nothing to be performed before it, the entry itself drains. -/
theorem drainEntry_first {s : State} {c n : Nat} {e : LogEntry} (he : (s.core c).log.find? (fun g => g.serial == n) = some e)
    (hheld : e.held = false) (hfenced : fenced s c n = false) (hfirst : drainAfter s c e = []) : drainEntry s c n = drainRaw s c e := by
  change drainBehind s c n (63 + 1) = _
  rw [drainBehind, he]
  simp [hheld, hfenced, hfirst, he]

theorem drainEntry_waits {s : State} {c n : Nat} {e : LogEntry} (he : (s.core c).log.find? (fun g => g.serial == n) = some e)
    (h : e.held = true ∨ fenced s c n = true) : drainEntry s c n = s := by
  change drainBehind s c n (63 + 1) = _
  rw [drainBehind, he]
  rcases h with h | h <;> simp [h]

theorem forall_drained {s : State} {c n : Nat} {e g : LogEntry} (hn : e.serial = n) : (∀ h ∈ drained s c e, g.serial ≠ h.serial) ↔
    g.serial ≠ n ∧ ∀ r h, e.space = .peer r → blockMate (s.core c).log e = some h → g.serial ≠ h.serial := by
  rw [drained, goesWith, List.forall_mem_cons, hn]
  refine and_congr_right fun _ => ?_
  cases hspace : e.space with
  | dev => simp
  | host pasid => simp
  | peer r =>
    simp only [Option.mem_toList]
    exact ⟨fun h _ m _ hm => h m hm, fun h m hm => h r m rfl hm⟩

end Sys2Proof.Machine
end

section
/-! PROOF. Rollback and containment (R47, R352 to R354, R358): what an error that a ply has consumed leaves of the ply. -/
namespace Sys2Proof.Machine

/-! ## Up to the snapshot -/

/-- What the steps before the return to the snapshot leave: of the ply its strands, its scratch and the work under way may differ; skeins stay. -/
structure Undone (p : Nat) (s t : State) : Prop where
  ply : t.ply p = { s.ply p with
    strands := (t.ply p).strands, scratch := (t.ply p).scratch, scrPoison := (t.ply p).scrPoison, tileOps := (t.ply p).tileOps,
    journal := (t.ply p).journal }
  skeins : t.skeins = s.skeins

theorem Undone.trans {p : Nat} {s t u : State} (h : Undone p s t) (k : Undone p t u) : Undone p s u :=
  ⟨by rw [k.ply, h.ply], k.skeins.trans h.skeins⟩

theorem StrandsOnly.undone {s t : State} (h : StrandsOnly s t) (p : Nat) : Undone p s t := ⟨by rw [h.ply], h.skeins⟩

theorem Undone.of_work {s t : State} (p : Nat) (h : t.work = s.work) : Undone p s t := (DrainKept.of_work h).toStrandsOnly.undone p

theorem Undone.modPly (p : Nat) (s : State) {f : Ply → Ply} (h : ∀ y, f y = { y with
    strands := (f y).strands, scratch := (f y).scratch, scrPoison := (f y).scrPoison, tileOps := (f y).tileOps, journal := (f y).journal }) :
    Undone p s (s.modPly p f) := ⟨by rw [State.ply_modPly]; exact h _, rfl⟩

theorem Undone.foldl {α : Type} {p : Nat} {f : State → α → State} (h : ∀ s x, Undone p s (f s x)) (l : List α) :
    ∀ s, Undone p s (l.foldl f s) := by
  induction l with
  | nil => exact fun s => .of_work p rfl
  | cons x l ih => exact fun s => (h s x).trans (ih _)

theorem undone_withdraw (s : State) (p : Nat) : Undone p s (withdraw s p) := .of_work p rfl

theorem undone_cancelWork (s : State) (p : Nat) : Undone p s (cancelWork s p) := by
  unfold cancelWork
  dsimp only
  refine Undone.trans ?_ (.modPly p _ fun _ => rfl)
  exact .of_work p rfl

theorem undone_undoGranule (s : State) (p g : Nat) (j : Granule) : Undone p s (undoGranule s p g j) := by
  have hlost := (drainKept_loseReservations s (.scratch p (128 * g))).toStrandsOnly.undone p
  unfold undoGranule
  dsimp only
  generalize loseReservations s (.scratch p (128 * g)) = r at hlost
  have hcount : Undone p r (if j.single then countCore r (r.ply p).core (fun n => { n with array := n.array + 1 }) else r) := by
    split
    · exact (DrainKept.modCore_log r _ rfl).toStrandsOnly.undone p
    · exact .of_work p rfl
  generalize (if j.single then countCore r (r.ply p).core (fun n => { n with array := n.array + 1 }) else r) = t at hcount
  have hfire : Undone p t (if j.injected then fireInjection t 6 (if j.bad then 6 else 1) else t) := by
    split <;> exact .of_work p rfl
  generalize (if j.injected then fireInjection t 6 (if j.bad then 6 else 1) else t) = u at hfire
  have hall := ((hlost.trans hcount).trans hfire).trans (.modPly p u (f := fun y => { y with
    scratch := Mem.write y.scratch (128 * g) (Mem.read j.data 0 128)
    scrPoison := if j.bad || j.poison then Tab.put g true y.scrPoison else Tab.del g y.scrPoison }) fun _ => rfl)
  split
  · exact hall.trans ((drainKept_writeRecord _ _).toStrandsOnly.undone p)
  · exact hall

theorem undone_undoJournal (s : State) (p : Nat) : Undone p s (undoJournal s p) := by
  unfold undoJournal
  exact (Undone.foldl (fun t (g : Nat × Granule) => undone_undoGranule t p g.1 g.2) _ s).trans (.modPly p _ fun _ => rfl)

theorem journal_undoJournal (s : State) (p : Nat) : ((undoJournal s p).ply p).journal = [] := by
  unfold undoJournal
  rw [State.ply_modPly]

theorem plies_dropHeld (s : State) (p : Nat) : (dropHeld s p).plies = s.plies := by
  unfold dropHeld
  dsimp only
  split <;> rfl

theorem undone_dropHeld (s : State) (p : Nat) : Undone p s (dropHeld s p) := by
  unfold dropHeld
  dsimp only
  split
  · exact Undone.trans (.of_work p (work_modPf0 s _)) ((DrainKept.filterLog _ _ _).toStrandsOnly.undone p)
  · exact (DrainKept.filterLog _ _ _).toStrandsOnly.undone p

/-- No entry of the ply that its core still has is held. -/
theorem log_dropHeld {s : State} {p : Nat} {e : LogEntry} (he : e ∈ ((dropHeld s p).core (s.ply p).core).log) (hply : e.ply = p) : e.held = false := by
  unfold dropHeld at he
  dsimp only at he
  rw [State.core_modCore] at he
  simpa [hply] using (List.mem_filter.1 he).2

/-! ## After it -/

/-- What the steps after the return to the snapshot leave: the ply may have moved to another core, where its translation registers are resolved again;
logs only lose entries. -/
structure Replayed (p : Nat) (s t : State) : Prop where
  ply : t.ply p = { s.ply p with
    strands := (t.ply p).strands, core := (t.ply p).core, clockLow := (t.ply p).clockLow, used := (t.ply p).used, resident := (t.ply p).resident,
    scrBase := (t.ply p).scrBase, tileBase := (t.ply p).tileBase, moving := (t.ply p).moving }
  strand : ∀ k, (t.ply p).strand k = { (s.ply p).strand k with frags := ((t.ply p).strand k).frags, x := ((t.ply p).strand k).x }
  skeins : t.skeins = s.skeins
  log : ∀ c, ∀ e ∈ (t.core c).log, ∃ g ∈ (s.core c).log, g.ply = e.ply ∧ g.held = e.held

theorem Replayed.trans {p : Nat} {s t u : State} (h : Replayed p s t) (k : Replayed p t u) : Replayed p s u := by
  refine ⟨by rw [k.ply, h.ply], fun i => by rw [k.strand, h.strand], k.skeins.trans h.skeins, fun c e he => ?_⟩
  obtain ⟨f, hf, hply, hheld⟩ := k.log c e he
  obtain ⟨g, hg, hply', hheld'⟩ := h.log c f hf
  exact ⟨g, hg, hply'.trans hply, hheld'.trans hheld⟩

theorem DrainKept.replayed {s t : State} (h : DrainKept s t) (p : Nat) : Replayed p s t :=
  ⟨by rw [h.ply], fun k => by rw [(h.resv p k).1], h.skeins, h.log⟩

theorem Replayed.refl (p : Nat) (s : State) : Replayed p s s := (DrainKept.refl s).replayed p

theorem Replayed.foldl {α : Type} {p : Nat} {f : State → α → State} (h : ∀ s x, Replayed p s (f s x)) (l : List α) :
    ∀ s, Replayed p s (l.foldl f s) := by
  induction l with
  | nil => exact .refl p
  | cons x l ih => exact fun s => (h s x).trans (ih _)

/-- The ply changes in its place alone. -/
theorem Replayed.modPly (p : Nat) (s : State) {f : Ply → Ply} (h : ∀ y, f y = { y with
    core := (f y).core, clockLow := (f y).clockLow, used := (f y).used, resident := (f y).resident, scrBase := (f y).scrBase,
    tileBase := (f y).tileBase, moving := (f y).moving }) : Replayed p s (s.modPly p f) := by
  have hply : (s.modPly p f).ply p = { s.ply p with
      core := (f (s.ply p)).core, clockLow := (f (s.ply p)).clockLow, used := (f (s.ply p)).used, resident := (f (s.ply p)).resident,
      scrBase := (f (s.ply p)).scrBase, tileBase := (f (s.ply p)).tileBase, moving := (f (s.ply p)).moving } := by
    rw [State.ply_modPly]
    exact h _
  exact ⟨by rw [hply], fun k => by rw [hply]; rfl, rfl, fun _ e he => ⟨e, he, rfl, rfl⟩⟩

theorem replayed_goOnMoving (s : State) (p : Nat) : Replayed p s (goOnMoving s p) := by
  have hmoving : ∀ (t : State) (m : Option (Nat × Option Fence)), Replayed p t (t.modPly p (fun y => { y with moving := m })) := fun t m =>
    .modPly p t fun _ => rfl
  have hdrain : ∀ c, Replayed p s (drainWhere s c (fun e => e.ply == p)) := fun c => (drainKept_drainWhere s c _).replayed p
  unfold goOnMoving
  split
  · exact .refl p s
  · split
    · exact hmoving s _
    · exact .refl p s
  · next c _ =>
    dsimp only
    split
    · exact hdrain c
    · have hempty := (hdrain c).trans ((drainKept_emptyL1 _ ((drainWhere s c (fun e => e.ply == p)).ply p).core).replayed p)
      split
      · exact hempty
      · exact (hempty.trans ((DrainKept.of_work (work_askFlush _ _ _ _)).replayed p)).trans (hmoving _ _)

theorem replayed_moveTo (s : State) (p c : Nat) : Replayed p s (moveTo s p c) := by
  unfold moveTo
  dsimp only
  split
  · exact .refl p s
  · have hleft : Replayed p s (s.modPly p (fun y => { y with moving := y.moving.orElse (fun _ => some ((s.ply p).core, none)) })) :=
      .modPly p s fun _ => rfl
    have hseat : ∀ t : State, Replayed p t (seat t p c) := by
      intro t
      unfold seat
      exact .modPly p t (by intro _; rfl)
    exact (hleft.trans (hseat _)).trans (replayed_goOnMoving _ p)

theorem translated_resolveX (s : State) (c vn : Nat) (g0 g4 : Seg) (base limit : W64) : Translated s (resolveX s c vn g0 g4 base limit).2.2 := by
  have hread : ∀ host pasid va w t, lookup s c vn host pasid va = (w, t) → Translated s t := fun host pasid va w t h => by
    have := translated_lookup s c vn host pasid va
    rwa [h] at this
  unfold resolveX
  dsimp only
  cases (bits base 60 4 == 4)
  all_goals
    simp only [Bool.false_eq_true, if_false, if_true]
    split
    · next h =>
      split <;> exact hread _ _ _ _ _ h
    · next h => exact hread _ _ _ _ _ h

theorem Translated.replayed {s t : State} (h : Translated s t) (p : Nat) : Replayed p s t := by
  have hply : t.ply p = s.ply p := by rw [State.ply, State.ply, h.plies]
  exact ⟨by rw [hply], fun k => by rw [hply], congrArg (·.2.2.1) h.tables, fun c e he => ⟨e, (h.cores c).1 ▸ he, rfl, rfl⟩⟩

/-- A translation register of the ply changes. -/
theorem replayed_setX (s : State) (p k : Nat) (f : Tab XReg → Tab XReg) : Replayed p s (s.modStrand p k (fun u => { u with x := f u.x })) := by
  have hply : (s.modStrand p k (fun u => { u with x := f u.x })).ply p = (s.ply p).modStrand k (fun u => { u with x := f u.x }) :=
    State.ply_modPly s p _
  refine ⟨by rw [hply]; rfl, fun i => ?_, rfl, fun _ e he => ⟨e, he, rfl, rfl⟩⟩
  rw [hply]
  by_cases hi : i = k
  · rw [hi, Ply.strand_modStrand]
  · rw [Ply.strand_modStrand_ne _ hi]

theorem replayed_rebindOne (s : State) (p k i : Nat) (x : XReg) : Replayed p s (rebindOne s p k i x) := by
  have hresolve := (translated_resolveX s (s.ply p).core (s.ply p).vdev (Tab.get {} ((s.ply p).strand k).g 0) (Tab.get {} ((s.ply p).strand k).g 4)
    x.base x.limit).replayed p
  have hwork : ∀ (t : State) (o : Out) (w : Who) (v : Nat) (a : Ask), (ask (t.send o) w v a none).work = t.work := fun _ _ _ _ _ => rfl
  unfold rebindOne
  dsimp only
  generalize resolveX s _ _ _ _ _ _ = r at hresolve
  have hset := hresolve.trans (replayed_setX r.2.2 p k (Tab.put i { r.1 with pending := r.2.1 }))
  split
  · exact hset
  · exact hset.trans ((DrainKept.of_work (hwork _ _ _ _ _)).replayed p)

theorem replayed_rebindAll (s : State) (p : Nat) : Replayed p s (rebindAll s p) := by
  unfold rebindAll rebind
  refine Replayed.foldl (fun t x => Replayed.foldl (fun u y => ?_) _ t) _ s
  split
  · exact replayed_rebindOne u p _ _ _
  · exact .refl p u

/-! ## The return -/

/-- The ply as its last commit left it (R354). -/
def returned (y : Ply) : Ply :=
  { y with strands := y.snap.strands, tiles := y.snap.tiles, bad := y.snap.bad, objs := y.snap.objs, relBlocks := [], cause := 0, prot := true,
           markCode := 0, markVal := 0, exiting := false, repidx := y.repidx + 1 }

/-- The state before the ply returns, its interval's work cancelled and undone. -/
def beforeReturn (s : State) (p : Nat) : State := dropHeld (undoJournal (cancelWork (withdraw s p) p) p) p

/-- The ply returns, and its exit is due no more. -/
def returnPly (t : State) (p : Nat) : State := { t.modPly p returned with engine := (t.modPly p returned).engine.erase (.plyExit p) }

theorem ply_returnPly (t : State) (p : Nat) : (returnPly t p).ply p = returned (t.ply p) := State.ply_modPly t p _

theorem core_returnPly (t : State) (p c : Nat) : (returnPly t p).core c = t.core c := rfl

theorem skeins_returnPly (t : State) (p : Nat) : (returnPly t p).skeins = t.skeins := rfl

theorem undone_beforeReturn (s : State) (p : Nat) : Undone p s (beforeReturn s p) :=
  (((undone_withdraw s p).trans (undone_cancelWork _ p)).trans (undone_undoJournal _ p)).trans (undone_dropHeld _ p)

theorem journal_beforeReturn (s : State) (p : Nat) : ((beforeReturn s p).ply p).journal = [] := by
  rw [beforeReturn, State.ply, plies_dropHeld]
  exact journal_undoJournal _ p

theorem log_beforeReturn {s : State} {p : Nat} {e : LogEntry} (he : e ∈ ((beforeReturn s p).core (s.ply p).core).log) (hply : e.ply = p) :
    e.held = false := by
  have hundone := ((undone_withdraw s p).trans (undone_cancelWork _ p)).trans (undone_undoJournal _ p)
  refine log_dropHeld (s := undoJournal (cancelWork (withdraw s p) p) p) ?_ hply
  rw [hundone.ply]
  exact he

/-- A ply that no skein's vacating asks to save stays where it is. -/
theorem saveIfAsked_unasked {s : State} {p : Nat} (h : (s.skein (s.ply p).skein).vacate = none) : saveIfAsked s p = s := by
  unfold saveIfAsked
  rw [h]
  simp

/-- The ply that has returned, on its core and with its translations of now. -/
def replayedOn (t : State) (p c : Nat) : State := rebindAll (dropL1All (moveTo t p c) c) p

theorem replayed_replayedOn (t : State) (p c : Nat) : Replayed p t (replayedOn t p c) :=
  ((replayed_moveTo t p c).trans ((DrainKept.modCore_log _ c rfl).replayed p)).trans (replayed_rebindAll _ p)

theorem rollbackPly_eq (s : State) (p cls cause : Nat) : rollbackPly s p cls cause =
    saveIfAsked (replayedOn (returnPly (beforeReturn s p) p) p (replayCore (returnPly (beforeReturn s p) p) p cls cause)) p := rfl

theorem replayed_rollbackPly {s : State} {p : Nat} (h : (s.skein (s.ply p).skein).vacate = none) (cls cause : Nat) :
    Replayed p (returnPly (beforeReturn s p) p) (rollbackPly s p cls cause) := by
  have hundone := undone_beforeReturn s p
  rw [rollbackPly_eq]
  generalize beforeReturn s p = r at hundone
  have hreplayed := replayed_replayedOn (returnPly r p) p (replayCore (returnPly r p) p cls cause)
  generalize replayedOn (returnPly r p) p _ = t at hreplayed
  have hback : (r.ply p).skein = (s.ply p).skein := by rw [hundone.ply]
  have hskein : (t.ply p).skein = (s.ply p).skein := by
    rw [hreplayed.ply, ply_returnPly]
    exact hback
  rw [saveIfAsked_unasked]
  · exact hreplayed
  · rwa [State.skein, hskein, hreplayed.skeins, skeins_returnPly, hundone.skeins]

/-- The ply that has rolled back: as its commit left it, but for its strands, its scratch, the tile operations under way and its place. -/
theorem ply_rollbackPly {s : State} {p : Nat} (h : (s.skein (s.ply p).skein).vacate = none) (cls cause : Nat) :
    let y := (rollbackPly s p cls cause).ply p
    y = { returned (s.ply p) with
      strands := y.strands, scratch := y.scratch, scrPoison := y.scrPoison, tileOps := y.tileOps, journal := [], core := y.core,
      clockLow := y.clockLow, used := y.used, resident := y.resident, scrBase := y.scrBase, tileBase := y.tileBase, moving := y.moving } := by
  have hply := (replayed_rollbackPly h cls cause).ply
  have hjournal := journal_beforeReturn s p
  rw [ply_returnPly, (undone_beforeReturn s p).ply, hjournal] at hply
  generalize (beforeReturn s p).ply p = z at hply
  dsimp only
  generalize (rollbackPly s p cls cause).ply p = y at hply
  rw [hply]
  rfl

theorem strand_rollbackPly {s : State} {p : Nat} (h : (s.skein (s.ply p).skein).vacate = none) (cls cause k : Nat) :
    let t := ((rollbackPly s p cls cause).ply p).strand k
    t = { Tab.get {} (s.ply p).snap.strands k with frags := t.frags, x := t.x } := by
  have hstrand : ((returnPly (beforeReturn s p) p).ply p).strand k = Tab.get {} (s.ply p).snap.strands k := by
    rw [ply_returnPly, (undone_beforeReturn s p).ply]
    rfl
  have hreplayed := (replayed_rollbackPly h cls cause).strand k
  rwa [hstrand] at hreplayed

theorem log_rollbackPly {s : State} {p : Nat} (h : (s.skein (s.ply p).skein).vacate = none) {cls cause : Nat} {e : LogEntry}
    (he : e ∈ ((rollbackPly s p cls cause).core (s.ply p).core).log) (hply : e.ply = p) : e.held = false := by
  obtain ⟨g, hg, hgply, hgheld⟩ := (replayed_rollbackPly h cls cause).log _ e he
  rw [core_returnPly] at hg
  rw [← hgheld]
  exact log_beforeReturn hg (hgply.trans hply)

/-- A ply that is not listed reads as an unprotected one. -/
theorem livePly_of_prot {s : State} {p : Nat} (h : (s.ply p).prot = true) : s.livePly p = true := by
  unfold State.ply Tab.get at h
  unfold State.livePly Tab.has
  cases hf : Tab.find p s.plies with
  | none =>
    rw [hf] at h
    cases h
  | some y => rfl

/-! ## Consumed errors (R352) -/

theorem drainKept_noteError (s : State) (c cls part : Nat) (lanes : W32) : DrainKept s (noteError s c cls part lanes) := by
  unfold noteError
  split
  · exact .refl s
  · dsimp only
    split
    · exact ((DrainKept.modCore_log s c rfl).trans (.modCore_log _ c rfl)).trans (.later _ _)
    · exact .modCore_log s c rfl

/-- With no capture to take, a protected ply rolls back behind the notes of its error. -/
theorem consumeError_rollback {s : State} {p : Nat} {e : Consumed} (hlive : s.livePly p = true) (hprot : (s.ply p).prot = true)
    (hrep : (s.ply p).repidx < 7) (hcap : (s.reel (s.ply p).reel).capture = false) (hunrec : e.unrec = false) (hkill : e.kill = false) :
    ∃ t, DrainKept s t ∧ consumeError s p e = rollbackPly t p e.cls e.cause := by
  have hnote := drainKept_noteError s (s.ply p).core e.cls (e.strand % 4) e.lanes
  unfold consumeError
  rw [if_neg (by simp [hlive])]
  dsimp only
  rw [if_pos (by simp [hprot, hunrec, hkill, hrep])]
  generalize noteError s (s.ply p).core e.cls (e.strand % 4) e.lanes = t at hnote
  have hcapture : captureIfArmed t p (consumedRecord t p e 1 false) = t := by
    unfold captureIfArmed
    dsimp only
    rw [if_neg]
    rw [hnote.ply, hnote.reel]
    simp [hcap]
  rw [hcapture]
  exact ⟨_, hnote.trans (drainKept_writeRecord t _), rfl⟩

/-! ## Containment (R358) -/

theorem Tab.has_map {α β : Type} (F : Nat × α → β) (t : Tab α) (k : Nat) : Tab.has (t.map (fun e => (e.1, F e))) k = Tab.has t k := by
  rw [Tab.has, Tab.has, Tab.find_map, Option.isSome_map]

theorem livePly_mapFrags (s : State) (g : Nat → Nat → Nat → Frag → Frag) (p : Nat) : (s.mapFrags g).livePly p = s.livePly p := Tab.has_map _ s.plies p

theorem livePly_modPly_ne (s : State) {p q : Nat} (h : p ≠ q) (f : Ply → Ply) : (s.modPly q f).livePly p = s.livePly p := by
  change Tab.has (Tab.put q _ s.plies) p = _
  rw [Tab.has, Tab.find_put_ne h]
  rfl

theorem livePly_foldl {α : Type} {f : State → α → State} {p : Nat} (h : ∀ s x, (f s x).livePly p = s.livePly p) (l : List α) :
    ∀ s, (l.foldl f s).livePly p = s.livePly p := by
  induction l with
  | nil => exact fun _ => rfl
  | cons x l ih => exact fun s => (ih _).trans (h s x)

/-- Breaking the barrier objects of one ply brings no other back. -/
theorem livePly_breakObjects (s : State) {p q : Nat} (h : p ≠ q) : (breakObjects s q).livePly p = s.livePly p := by
  unfold breakObjects
  refine livePly_foldl (fun t o => ?_) _ s
  have hplies : ∀ (u : State) off n, (wakeWaiters u q off n).plies = u.plies := fun u off n => congrArg (·.2.2.2.2.1) (kept_wakeWaiters u q off n)
  dsimp only
  rw [State.livePly, hplies]
  exact (livePly_mapFrags _ _ p).trans (livePly_modPly_ne t h _)

/-- A ply that is killed is gone (R358). -/
theorem livePly_killPly (s : State) (p : Nat) : (killPly s p).livePly p = false := by
  have hbreak : ∀ (l : List Nat) (t : State), t.livePly p = false →
      (l.foldl (fun s q => if s.livePly q then breakObjects s q else s) t).livePly p = false := by
    intro l
    induction l with
    | nil => exact fun _ h => h
    | cons q l ih =>
      intro t ht
      refine ih _ ?_
      dsimp only
      split
      · next hq => rwa [livePly_breakObjects t (fun hpq => by rw [← hpq, ht] at hq; cases hq)]
      · exact ht
  unfold killPly
  split
  · next h => simpa using h
  · dsimp only
    generalize settleDoomed _ p = r
    rw [wakeSkeinBarrier, livePly_mapFrags]
    split
    · exact hbreak _ _ (removePly_gone r p).1
    · exact (removePly_gone r p).1

theorem livePly_contain (s : State) (p : Nat) (r : ErrRec) : (contain s p r).livePly p = false := livePly_killPly _ p

/-- An error found away from its ply's fragments contains a ply that is to be killed or has no protection (R346, R352). -/
theorem livePly_consumeError {s : State} {p : Nat} {e : Consumed} (haway : e.away = true) (h : e.kill = true ∨ (s.ply p).prot = false) :
    (consumeError s p e).livePly p = false := by
  unfold consumeError
  split
  · next hlive => simpa using hlive
  · dsimp only
    rw [if_neg (by rcases h with h | h <;> simp [h]), if_neg (by simp [haway])]
    exact livePly_contain _ p _

end Sys2Proof.Machine
end

section
/-! PROOF. Detection and recovery beside the ply: drains and reservations (R138, R238), timing replays (R348, R349), soft errors (R365), corrected
counts (R351), lost queue entries and substitutions (R392 to R394, R400). -/
namespace Sys2Proof.Machine

/-! ## Soft errors (R365, R371) -/

/-- A turned bit that waits for its detection. -/
def withFlip (s : State) (kind d unit : Nat) (loc : W64) (double : Bool) : State :=
  { s with flips := s.flips ++ [{ kind := kind, die := d, unit := unit, loc := loc, double := double, injected := false }] }

section
variable (s : State) (d unit : Nat) (loc : W64) (double : Bool)

theorem softError_turns {kind : Nat} {t : State} (hk : kind ≤ 15) (h : turnBits s kind d unit loc double false = some t) :
    execSoftError kind d unit loc double s = .next t := by
  unfold execSoftError
  rw [if_pos hk, h]
  rfl

theorem softError_flip {kind : Nat} (h : (kind = 5 ∨ kind = 6) ∧ paExists loc.toNat = true ∨ kind = 7 ∧ loc.toNat < 2 ^ 34 ∨ kind = 14 ∧ unit < 5 ∨
    kind = 15 ∧ unit < 128) : execSoftError kind d unit loc double s = .next (withFlip s kind d unit loc double) := by
  rcases h with ⟨rfl | rfl, h⟩ | ⟨rfl, h⟩ | ⟨rfl, h⟩ | ⟨rfl, h⟩
  all_goals exact softError_turns s d unit loc double (by decide) (if_pos h)

theorem softError_logEntry {e : LogEntry} (hd : d < 8) (hunit : unit < 36) (hloc : loc.toNat < 1024)
    (he : ((s.core (36 * d + unit)).log.filter (fun e => !e.ext))[loc.toNat]? = some e) :
    execSoftError 8 d unit loc double s = .next (s.modCore (36 * d + unit) (fun x =>
      { x with log := x.log.map (fun g => if g.serial == e.serial then hurtEntry double false g else g) })) := by
  have hext : (s.core (36 * d + unit)).log.filter (fun e => e.ext == false) = (s.core (36 * d + unit)).log.filter (fun e => !e.ext) :=
    List.filter_congr fun e _ => by cases e.ext <;> rfl
  have hhurt : hurtLog s (36 * d + unit) loc.toNat false double false = some (s.modCore (36 * d + unit) (fun x =>
      { x with log := x.log.map (fun g => if g.serial == e.serial then hurtEntry double false g else g) })) := by
    unfold hurtLog
    rw [hext, he]
    rfl
  have hturn : turnBits s 8 d unit loc double false =
      some ((hurtLog s (36 * d + unit) loc.toNat false double false).getD (withFlip s 8 d unit loc double)) :=
    if_neg (by simp [hd, hunit, hloc])
  rw [hhurt] at hturn
  exact softError_turns s d unit loc double (by decide) hturn

theorem softError_deviceTable : execSoftError 18 d unit loc true s = .next (s.urgent (.deviceStop unit 11 7)) := rfl

end

/-- The entry that an error strikes keeps its cells, and is bad when the error is double. -/
theorem hurt_entry {s : State} {c : Nat} {e : LogEntry} (he : e ∈ (s.core c).log) (double : Bool) :
    ∃ g ∈ ((s.modCore c (fun x => { x with log := x.log.map (fun g => if g.serial == e.serial then hurtEntry double false g else g) })).core c).log,
      g.serial = e.serial ∧ g.cells = e.cells ∧ g.bad = (e.bad || double) := by
  rw [State.core_modCore]
  exact ⟨hurtEntry double false e, List.mem_map.2 ⟨e, he, by simp⟩, rfl, rfl, rfl⟩

/-! ## Timing replays (R348, R349) -/

/-- A core that replays stands still for two clocks. -/
def replayedCore (s : State) (c : Nat) : State :=
  s.modCore c (fun x => { x with timing := 0, stall := s.clock + 2, counts := { x.counts with timing := x.counts.timing + 1 } })

theorem timingReplay_run (s : State) (c : Nat) (again : Bool) : ∃ t : State, t.work = (replayedCore s c).work ∧
    execTimingReplay c again s = .next (if again then t.modCore c (fun x => { x with late := some (s.clock + 2) }) else t) := by
  unfold execTimingReplay
  dsimp only
  cases (s.core c).timing != 0 with
  | false => exact ⟨replayedCore s c, rfl, by cases again <;> rfl⟩
  | true => exact ⟨fireInjection (replayedCore s c) (if again then 1 else 3) (if again then 3 else 1), rfl, by cases again <;> rfl⟩

theorem timingReplay_first (s : State) (c : Nat) : ∃ u, execTimingReplay c false s = .next u ∧ (u.core c).stall = s.clock + 2 ∧
    (u.core c).timing = 0 ∧ (u.core c).counts.timing = (s.core c).counts.timing + 1 ∧ u.plies = s.plies := by
  obtain ⟨t, hwork, hrun⟩ := timingReplay_run s c false
  have hcore := (core_of_work hwork c).trans (State.core_modCore _ _ _)
  exact ⟨t, hrun, by rw [hcore], by rw [hcore], by rw [hcore], (State.work_eq hwork).1⟩

theorem timingReplay_again (s : State) (c : Nat) : ∃ v, execTimingReplay c true s = .next v ∧ (v.core c).stall = s.clock + 2 ∧
    (v.core c).late = some (s.clock + 2) ∧ v.plies = s.plies := by
  obtain ⟨t, hwork, hrun⟩ := timingReplay_run s c true
  have hcore := (core_of_work hwork c).trans (State.core_modCore _ _ _)
  refine ⟨_, hrun, ?_, ?_, (State.work_eq hwork).1⟩
  · simp only [if_true, State.core_modCore, hcore]
  · simp only [if_true, State.core_modCore]

/-! ## Corrected counts (R351) -/

/-- What a period's end reads of a core and sets in it. -/
def Core.trim (x : Core) : Counts × Nat := (x.counts, x.supply)

theorem trim_trimSupply {c : Nat} {x y : Core} (h : x.trim = y.trim) : (trimSupply c x).trim = (trimSupply c y).trim := by
  obtain ⟨hcounts, hsupply⟩ := Prod.mk.inj h
  unfold trimSupply
  rw [hcounts, hsupply]
  split
  · rfl
  · split
    · rfl
    · rfl

theorem trim_noteError (s : State) (c cls part : Nat) (lanes : W32) (d : Nat) : ((noteError s c cls part lanes).core d).trim = (s.core d).trim := by
  have hmod : ∀ (t : State) (f : Core → Core), (∀ x, (f x).trim = x.trim) → ((t.modCore c f).core d).trim = (t.core d).trim := by
    intro t f hf
    rw [State.core_modCore_eq]
    split
    · exact hf _
    · rfl
  unfold noteError
  split
  · rfl
  · dsimp only
    split
    · rw [core_of_cores (cores_later _ _)]
      exact (hmod _ _ (by intro _; rfl)).trans (hmod _ _ (by intro _; rfl))
    · exact hmod _ _ (by intro _; rfl)

theorem trim_countRecord (s : State) (c cls cause n d : Nat) : ((countRecord s c cls cause n).core d).trim = (s.core d).trim := by
  have hnote : ((if cls = 2 then noteError s c cls 0 0 else s).core d).trim = (s.core d).trim := by
    split
    · exact trim_noteError s c cls 0 0 d
    · rfl
  unfold countRecord
  split
  · rfl
  · dsimp only
    refine Eq.trans ?_ hnote
    split
    · rw [core_of_cores (cores_writeRecord _ _)]
    · rw [core_of_work (work_writePackageRecord _ _ _)]

/-- The end of a core's period: its counts are recorded and cleared, and its supply is set. -/
def reportCore (s : State) (c : Nat) : State :=
  let n := (s.core c).counts
  (countRecord (countRecord (countRecord (countRecord (countRecord s c 3 1 n.timing) c 2 3 n.tile) c 5 1 n.snap) c 6 1 n.array) c 6 4
    n.refill).modCore c (trimSupply c)

theorem trim_reportCore (s : State) (c d : Nat) :
    ((reportCore s c).core d).trim = if d = c then (trimSupply c (s.core c)).trim else (s.core d).trim := by
  have hrecords : ∀ n : Counts, ∀ d, ((countRecord (countRecord (countRecord (countRecord (countRecord s c 3 1 n.timing) c 2 3 n.tile) c 5 1
      n.snap) c 6 1 n.array) c 6 4 n.refill).core d).trim = (s.core d).trim := by
    intro n d
    simp only [trim_countRecord]
  unfold reportCore
  dsimp only
  rw [State.core_modCore_eq]
  split
  · next hd => rw [hd, trim_trimSupply (hrecords _ c)]
  · exact hrecords _ d

theorem trim_reportCores {l : List Nat} (hl : l.Nodup) (d : Nat) : ∀ s : State,
    ((l.foldl reportCore s).core d).trim = if d ∈ l then (trimSupply d (s.core d)).trim else (s.core d).trim := by
  induction l with
  | nil => exact fun _ => rfl
  | cons c l ih =>
    intro s
    obtain ⟨hc, hl⟩ := List.nodup_cons.1 hl
    have hfirst := trim_reportCore s c d
    rw [List.foldl_cons, ih hl]
    by_cases hd : d = c
    · subst hd
      simpa [hc] using hfirst
    · rw [if_neg hd] at hfirst
      simp only [List.mem_cons, hd, false_or, trim_trimSupply hfirst, hfirst]

/-- A record of a count in the package ring (R390). -/
def ringCount (s : State) (d cls cause n : Nat) : State :=
  if n = 0 then s else writePackageRecord s { severity := 0, cls := cls, cause := cause, die := d, lanes := w32 (Nat.min n (2 ^ 32 - 1)) }

theorem work_ringCount (s : State) (d cls cause n : Nat) : (ringCount s d cls cause n).work = s.work := by
  unfold ringCount
  split
  · rfl
  · exact work_writePackageRecord _ _ _

/-- The counts of a die are recorded and cleared. -/
def reportDie (s : State) (d : Nat) : State :=
  (ringCount (ringCount s d 6 1 (s.die d).fixed) d 6 4 (s.die d).refilled).modDie d (fun x => { x with fixed := 0, refilled := 0 })

/-- The counts of the package are recorded and cleared. -/
def reportPackage (s : State) : State :=
  (ringCount (ringCount s 0xFF 9 1 s.plat.fixed) 0xFF 10 1 s.plat.flits).modPlat (fun p => { p with fixed := 0, flits := 0 })

theorem execCorrectedCountReport_eq (s : State) : execCorrectedCountReport s =
    .next (reportPackage ((((upFrom 0 288).foldl reportCore s).dies.map (·.1)).foldl reportDie ((upFrom 0 288).foldl reportCore s))) := by
  unfold execCorrectedCountReport
  generalize upFrom 0 288 = cs
  rfl

theorem work_reportDie (s : State) (d : Nat) : (reportDie s d).work = s.work :=
  (work_modDie _ _ _).trans ((work_ringCount _ _ _ _ _).trans (work_ringCount _ _ _ _ _))

theorem work_reportPackage (s : State) : (reportPackage s).work = s.work :=
  (work_modPlat _ _).trans ((work_ringCount _ _ _ _ _).trans (work_ringCount _ _ _ _ _))

theorem nodup_upFrom_zero (n : Nat) : (upFrom 0 n).Nodup := by
  rw [upFrom_eq]
  simpa using List.nodup_range

/-- A supply falls by 10 mV at most, and never rises. -/
theorem lowered_between (fused supply : Nat) : lowered fused supply ≤ supply ∧ supply - 10 ≤ lowered fused supply := by
  unfold lowered
  split
  · exact ⟨Nat.max_le.2 ⟨by omega, by omega⟩, Nat.le_max_right _ _⟩
  · omega

theorem trim_correctedCounts (s : State) : ∃ u, execCorrectedCountReport s = .next u ∧ u.plat.fixed = 0 ∧ u.plat.flits = 0 ∧
    ∀ c, c < 288 → (u.core c).trim = (trimSupply c (s.core c)).trim := by
  rw [execCorrectedCountReport_eq]
  have hcores := fun c (hc : c < 288) => (trim_reportCores (nodup_upFrom_zero 288) c s).trans (if_pos (mem_upFrom_zero hc))
  generalize (upFrom 0 288).foldl reportCore s = t at hcores
  refine ⟨_, rfl, rfl, rfl, fun c hc => ?_⟩
  rw [core_of_work (work_reportPackage _), core_of_work (work_foldl work_reportDie _ _), hcores c hc]

/-- The supply of a core and the counts that go on, by the counts of the period that ends. -/
theorem trimSupply_results (c : Nat) (x : Core) : (trimSupply c x).counts.timing = 0 ∧ (trimSupply c x).counts.array = 0 ∧
    (x.counts.timing ≠ 0 → (trimSupply c x).supply = Nat.min 420 (x.supply + 10)) ∧
    (x.counts.timing = 0 → x.counts.quiet < 15 → (trimSupply c x).supply = x.supply) ∧
    (x.counts.timing = 0 → 15 ≤ x.counts.quiet → (trimSupply c x).supply ≤ x.supply ∧ x.supply - 10 ≤ (trimSupply c x).supply) := by
  unfold trimSupply
  split
  · next h => exact ⟨rfl, rfl, fun _ => rfl, fun h0 => absurd h0 h, fun h0 => absurd h0 h⟩
  · next h =>
    split
    · next hq => exact ⟨rfl, rfl, fun ht => absurd ht h, fun _ hlt => absurd hq (Nat.not_le.2 hlt), fun _ _ => lowered_between _ _⟩
    · next hq => exact ⟨rfl, rfl, fun ht => absurd ht h, fun _ _ => rfl, fun _ hle => absurd hle hq⟩

/-! ## The command complex (R392 to R394) -/

/-- The remap table has room for one more entry. -/
theorem addRemap_of_room {s : State} (h : s.pf0.remap.length < 256) (kind die place spare : Nat) :
    ∃ f, addRemap s kind die place spare = (s.modPf0 f, true) := by
  unfold addRemap addRemapAt
  dsimp only
  rw [if_neg (Nat.not_le.2 h)]
  exact ⟨_, rfl⟩

/-- A queue stops whose entry is lost; of what it held its lane's shadow alone stays. -/
theorem queue_queueTableError (s : State) (q : Nat) : ((queueTableError s q).queue q).state = .stopped ∧ ((queueTableError s q).queue q).err = 3 ∧
    ((queueTableError s q).queue q).ring = 0 ∧ ((queueTableError s q).queue q).ridx = 0 ∧
    ((queueTableError s q).queue q).shadowR = (s.queue q).shadowR ∧ ((queueTableError s q).queue q).spoilt = true := by
  have hqueues : ∀ r, (writeRecord s r).queue q = s.queue q := fun r => by
    rw [State.queue, State.queue, queues_of_offPlies (offPlies_writeRecord s r)]
  unfold queueTableError stopQueue
  dsimp only
  rw [State.queue_modQueue, State.queue_modQueue, queueRecord, queueRecordOf, hqueues]
  exact ⟨rfl, rfl, rfl, rfl, rfl, rfl⟩

/-- An event that each step of a fold may add, and one adds. -/
theorem mem_engine_foldl {f : State → Nat → State} {e : Instr} {v : Nat} {P : State → Prop} (hP : ∀ s k, P s → P (f s k))
    (hkeep : ∀ s k, e ∈ s.engine → e ∈ (f s k).engine) (hadd : ∀ s, P s → e ∈ (f s v).engine) {l : List Nat} (hv : v ∈ l) :
    ∀ s, P s → e ∈ (l.foldl f s).engine := by
  have hkept : ∀ (l : List Nat) (s : State), e ∈ s.engine → e ∈ (l.foldl f s).engine := by
    intro l
    induction l with
    | nil => exact fun _ h => h
    | cons k l ih => exact fun s h => ih _ (hkeep s k h)
  induction l with
  | nil => cases hv
  | cons k l ih =>
    intro s hs
    rw [List.foldl_cons]
    rcases List.mem_cons.1 hv with rfl | hv
    · exact hkept l _ (hadd s hs)
    · exact ih hv _ (hP s k hs)

theorem vdevs_later (s : State) (e : Instr) : (s.later e).vdevs = s.vdevs := by
  obtain ⟨es, h⟩ := later_eq s e
  rw [h]

/-- With the spare used, every running device with a queue on the failed core stops. -/
theorem mem_engine_stops {s : State} {v cc : Nat} (hv : v < 16) (hexist : (s.vdev v).exist = true) (hstopped : (s.vdev v).stopped = false)
    (howns : ∃ q ∈ coreQueues cc, (s.vdev v).ownsQueue q = true) :
    .deviceStop v 9 9 ∈ ((upFrom 0 16).foldl (fun s v =>
      if (s.vdev v).exist && !((s.vdev v).stopped) && (coreQueues cc).any (s.vdev v).ownsQueue then s.later (.deviceStop v 9 9) else s) s).engine := by
  refine mem_engine_foldl (P := fun t => t.vdevs = s.vdevs) (fun t k ht => ?_) (fun t k ht => ?_) (fun t ht => ?_) (mem_upFrom_zero hv) s rfl
  · split
    · rw [vdevs_later, ht]
    · exact ht
  · split
    · exact (DrainKept.later t _).engine _ ht
    · exact ht
  · have hvdev : t.vdev v = s.vdev v := by rw [State.vdev, State.vdev, ht]
    rw [if_pos (by simpa [hvdev, hexist, hstopped] using howns)]
    exact mem_later _ _

/-! ## Cores (R8, R400) -/

theorem die_later (s : State) (e : Instr) (d : Nat) : (s.later e).die d = s.die d := by
  obtain ⟨es, h⟩ := later_eq s e
  rw [h]
  rfl

theorem die_writePackageRecord (s : State) (r : ErrRec) (about : Option Nat) (d : Nat) : (writePackageRecord s r about).die d = s.die d := by
  have hnote : (noteInjection s r s.pf0.precw.toNat).dies = s.dies := by
    unfold noteInjection
    split
    · split <;> rfl
    · rfl
  exact congrArg (fun t => Tab.get {} t d) hnote

/-- A skein that has been asked to vacate stays asked. -/
theorem vacate_askVacate (s : State) (j k : Nat) (h : k = j ∨ (s.skein k).vacate.isSome = true) : ((askVacate s j).skein k).vacate.isSome = true := by
  unfold askVacate
  split
  · next hj => exact h.elim (fun hk => hk ▸ hj) id
  · rw [skein_later, State.skein, State.modSkein, Tab.get_put]
    split
    · rfl
    · next hk => exact h.resolve_left hk

theorem vacate_askVacates {k : Nat} (l : List Nat) : ∀ s : State, (k ∈ l ∨ (s.skein k).vacate.isSome = true) →
    ((l.foldl askVacate s).skein k).vacate.isSome = true := by
  induction l with
  | nil => exact fun _ h => h.resolve_left List.not_mem_nil
  | cons j l ih =>
    intro s h
    refine ih _ ?_
    rcases h with h | h
    · rcases List.mem_cons.1 h with rfl | h
      · exact .inr (vacate_askVacate s k k (.inl rfl))
      · exact .inl h
    · exact .inr (vacate_askVacate s j k (.inr h))

/-- With skeins of the bay still running, they are asked to vacate. -/
theorem coreSubstitution_asks {s : State} {c : Nat} (h : (s.core c).retiring = true) (hbay : baySkeins s (coreBay c) ≠ []) :
    execCoreSubstitution c s = .next (((baySkeins s (coreBay c)).foldl askVacate s).later (.coreSubstitution c)) := by
  unfold execCoreSubstitution
  dsimp only
  rw [if_neg (by simp [h]), if_pos hbay]

/-- The core that answers to the place of a retired one holds nothing. -/
def freshCore (s : State) (c : Nat) : State :=
  s.modCore c (fun x => { x with retiring := false, errs := [], l1 := [], utlb := [], code := [], entryBuf := [] })

/-- The place of a core as the remap table names it. -/
def placeOf (s : State) (c : Nat) : Nat := physCore s.pf0.remap (coreDie c) (coreNum c)

theorem coreSubstitution_vacated {s : State} {c : Nat} (h : (s.core c).retiring = true) (hbay : baySkeins s (coreBay c) = [])
    (hlane : worstLane s c = none) : execCoreSubstitution c s = .next (
      let r := if (s.die (coreDie c)).sparesUsed < 4 then addRemap s 1 (coreDie c) (placeOf s c) (36 + (s.die (coreDie c)).sparesUsed) else (s, false)
      if r.2 then
        (writePackageRecord (((freshCore r.1 c).modDie (coreDie c) (fun x => { x with sparesUsed := x.sparesUsed + 1 })).modCore c
          (fun x => { x with lanesUsed := [], supply := 350, counts := { x.counts with quiet := 0 } }))
          { severity := 0, cls := 11, cause := 1, die := coreDie c, core := coreNum c }).later .placement
      else
        let t := (addRemap (freshCore s c) 1 (coreDie c) (placeOf s c) noSpare).1.modCore c (fun x => { x with retired := true })
        (upFrom 0 16).foldl (fun u v => if (u.vdev v).exist && !((u.vdev v).stopped) &&
          !((u.vdev v).bays.any (fun b => !((bayCores b).any (fun c => (t.core c).retired)))) then u.later (.deviceStop v 11 7) else u) t) := by
  unfold execCoreSubstitution
  dsimp only
  rw [if_neg (by simp [h]), if_neg (by simp [hbay]), hlane]
  rfl

theorem retiring_freshCore (s : State) (c : Nat) : ((freshCore s c).core c).retiring = false := by rw [freshCore, State.core_modCore]

/-- While a spare core is left it takes the place (R8, R400). -/
theorem coreSubstitution_spare {s : State} {c : Nat} (h : (s.core c).retiring = true) (hbay : baySkeins s (coreBay c) = [])
    (hlane : worstLane s c = none) (hspare : (s.die (coreDie c)).sparesUsed < 4) (hroom : s.pf0.remap.length < 256) :
    ∃ u, execCoreSubstitution c s = .next u ∧ (u.core c).retiring = false ∧ (u.core c).supply = 350 ∧
      (u.die (coreDie c)).sparesUsed = (s.die (coreDie c)).sparesUsed + 1 ∧ .placement ∈ u.engine := by
  obtain ⟨f, hf⟩ := addRemap_of_room hroom 1 (coreDie c) (placeOf s c) (36 + (s.die (coreDie c)).sparesUsed)
  refine ⟨_, coreSubstitution_vacated h hbay hlane, ?_⟩
  simp only [if_pos hspare, hf, if_true]
  refine ⟨?_, ?_, ?_, mem_later _ _⟩
  · rw [core_of_cores (cores_later _ _), core_of_work (work_writePackageRecord _ _ _), State.core_modCore]
    exact retiring_freshCore (s.modPf0 f) c
  · rw [core_of_cores (cores_later _ _), core_of_work (work_writePackageRecord _ _ _), State.core_modCore]
  · rw [die_later, die_writePackageRecord]
    exact congrArg Die.sparesUsed (State.die_modDie (freshCore (s.modPf0 f) c) (coreDie c) (fun x => { x with sparesUsed := x.sparesUsed + 1 }))

/-- With no spare core left the core is retired. -/
theorem coreSubstitution_retires {s : State} {c : Nat} (h : (s.core c).retiring = true) (hbay : baySkeins s (coreBay c) = [])
    (hlane : worstLane s c = none) (hspare : 4 ≤ (s.die (coreDie c)).sparesUsed) :
    ∃ u, execCoreSubstitution c s = .next u ∧ (u.core c).retired = true ∧ (u.core c).retiring = false := by
  refine ⟨_, coreSubstitution_vacated h hbay hlane, ?_⟩
  simp only [if_neg (Nat.not_lt.2 hspare), Bool.false_eq_true, if_false]
  rw [core_of_cores (cores_foldl (fun u v => ?_) _ _), State.core_modCore, core_of_work (work_addRemap _ _ _ _ _), freshCore, State.core_modCore]
  · exact ⟨rfl, rfl⟩
  · split
    · exact cores_later u _
    · rfl

/-- The spare command core takes the lanes of a failed one. -/
def spareServes (s : State) (cc : Nat) : State :=
  (s.modCmdCore cc (fun k => { k with failed := false, cache := [], round := [], lane := none })).modPlat (fun p => { p with spareUsed := true })

theorem cmdCore_spareServes (s : State) (cc : Nat) : (spareServes s cc).cmdCore cc = {} := State.cmdCore_modCmdCore s cc (fun _ => {})

theorem spareUsed_spareServes (s : State) (cc : Nat) : (spareServes s cc).plat.spareUsed = true := rfl

theorem queues_spareServes (s : State) (cc : Nat) : (spareServes s cc).queues = s.queues := rfl

theorem commandCoreSubstitution_run {s : State} {cc : Nat} (h : (s.cmdCore cc).failed = true) (hspare : s.plat.spareUsed = false)
    (hroom : s.pf0.remap.length < 256) : ∃ t : State, t.queues = s.queues ∧ execCommandCoreSubstitution cc s = .next (spareServes t cc) := by
  obtain ⟨f, hf⟩ := addRemap_of_room hroom 7 8 cc 4
  have hremap : (if s.plat.spareUsed then (s, false) else addRemap s 7 8 cc 4) = (s.modPf0 f, true) := (if_neg (by simp [hspare])).trans hf
  unfold execCommandCoreSubstitution
  dsimp only
  rw [if_neg (by simp [h]), hremap]
  refine ⟨_, ?_, congrArg Host.Outcome.next (if_pos rfl)⟩
  have hwork : ∀ r r' hit, (writePackageRecord (dropFlips (writePackageRecord (s.modPf0 f) r) hit) r').work = s.work := fun r r' hit =>
    (work_writePackageRecord _ _ _).trans ((work_dropFlips _ _).trans (work_writePackageRecord _ _ _))
  exact queues_of_work (hwork _ _ _)

/-- While the spare command core is left it takes the lanes of the failed one (R394). -/
theorem commandCoreSubstitution_spare {s : State} {cc : Nat} (h : (s.cmdCore cc).failed = true) (hspare : s.plat.spareUsed = false)
    (hroom : s.pf0.remap.length < 256) : ∃ u, execCommandCoreSubstitution cc s = .next u ∧ (u.cmdCore cc).failed = false ∧
      (u.cmdCore cc).cache = [] ∧ u.plat.spareUsed = true ∧ u.queues = s.queues := by
  obtain ⟨t, hqueues, hrun⟩ := commandCoreSubstitution_run h hspare hroom
  exact ⟨_, hrun, by rw [cmdCore_spareServes], by rw [cmdCore_spareServes], spareUsed_spareServes t cc, (queues_spareServes t cc).trans hqueues⟩

theorem commandCoreSubstitution_stops {s : State} {cc : Nat} (h : (s.cmdCore cc).failed = true) (hspare : s.plat.spareUsed = true) :
    execCommandCoreSubstitution cc s = .next ((upFrom 0 16).foldl (fun s v =>
      if (s.vdev v).exist && !((s.vdev v).stopped) && (coreQueues cc).any (s.vdev v).ownsQueue then s.later (.deviceStop v 9 9) else s) s) := by
  unfold execCommandCoreSubstitution
  rw [if_neg (by simp [h]), if_pos hspare]
  rfl

/-! ## Failed fetches (R112) -/

theorem codeFetchFault_run {s : State} {p k f : Nat} {r : Fetched × State} (hlive : s.liveFrag p k f = true)
    (hfetch : failedFetch (focus s p k f) = some r) : execCodeFetchFault p k f s = runTo (focus s p k f) (.error (fetchStop r)) := by
  unfold execCodeFetchFault
  rw [if_pos hlive, hfetch]

/-! ## All of them -/

/-- Settles O53: each event of detection and recovery, and what it leaves. -/
theorem recoveryResults : Obligations.RecoveryResults := by
  unfold Obligations.RecoveryResults
  refine ⟨fun s c n e he => ⟨fun h => ?drainWaits, fun hheld hfenced hfirst => ?drains⟩, fun s p k f r hr => ⟨fun h => ?resvHolds, fun h => ?resvEnds⟩,
    fun s c => ?timing, fun s p k f cls cause lanes addr hlive hprot hrep hcap hvac => ?rollback,
    fun s p k f cls cause lanes addr hlive => ⟨?contained, fun hprot => ?unprotected⟩, fun s p k f hlive => ⟨?illegal, fun r hfetch => ?fetch⟩,
    fun s kind d unit loc double => ⟨softError_flip s d unit loc double, fun e hd hunit hloc hk he => ?logError, fun hk hdouble => ?deviceTable⟩,
    fun s => ?counts, fun s q hq => ?queueTable, fun s cc h => ⟨commandCoreSubstitution_spare h, fun hspare => ?commandCores⟩,
    fun s c h => ⟨fun hbay => ?bay, coreSubstitution_spare h, coreSubstitution_retires h⟩⟩
  case drainWaits => exact congrArg Host.Outcome.next (drainEntry_waits he h)
  case drains =>
    have hn : e.serial = n := by simpa using List.find?_some he
    refine ⟨drainRaw s c e, congrArg Host.Outcome.next (drainEntry_first he hheld hfenced hfirst), fun g => ?_⟩
    exact (mem_log_drainRaw s c e g).trans (and_congr_right fun _ => forall_drained hn)
  case resvHolds =>
    change execReservationExpiry p k f s = _
    unfold execReservationExpiry
    simp [hr, h]
  case resvEnds =>
    refine ⟨s.modFrag p k f (fun x => { x with resv := none }), ?_, ?_⟩
    · change execReservationExpiry p k f s = _
      unfold execReservationExpiry
      simp [hr, Nat.not_lt.2 h]
    · simp [State.fragOf, State.modFrag, State.modStrand]
  case timing =>
    obtain ⟨u, hrun, hstall, htiming, hcount, hplies⟩ := timingReplay_first s c
    exact ⟨u, hrun, hstall, htiming, hcount, hplies, timingReplay_again s c⟩
  case rollback =>
    obtain ⟨t, hkept, hrun⟩ := consumeError_rollback (p := p)
      (e := { cls := cls, cause := cause, lanes := lanes, addr := addr, strand := k, frag := f, away := true }) hlive hprot hrep hcap rfl rfl
    have hy := hkept.ply p
    have hvacate : (t.skein (t.ply p).skein).vacate = none := by rwa [hy, State.skein, hkept.skeins]
    have hply := ply_rollbackPly hvacate cls cause
    have hstrand := strand_rollbackPly hvacate cls cause
    have hlog := fun e => log_rollbackPly (e := e) hvacate (cls := cls) (cause := cause)
    rw [hy] at hply hstrand hlog
    refine ⟨rollbackPly t p cls cause, congrArg Host.Outcome.next hrun, ?_⟩
    generalize rollbackPly t p cls cause = u at hply hstrand hlog
    refine ⟨livePly_of_prot ?_, ?_, ?_, ?_, ?_, ?_, ?_, ?_, ?_, ?_, fun k => ?strands, hlog⟩
    case strands =>
      rw [hstrand k]
      exact ⟨rfl, rfl, rfl, rfl, rfl, rfl⟩
    all_goals rw [hply, returned]
  case contained => exact ⟨_, rfl, livePly_consumeError rfl (.inl rfl)⟩
  case unprotected => exact ⟨_, rfl, livePly_consumeError rfl (.inr hprot)⟩
  case illegal => exact congrArg Host.Outcome.next (if_pos hlive)
  case fetch =>
    refine ⟨fun a ha => (codeFetchFault_run hlive hfetch).trans ?_, fun i hi => (codeFetchFault_run hlive hfetch).trans ?_⟩
    · rw [fetchStop, ha]
      rfl
    · rw [fetchStop, hi]
      rfl
  case logError =>
    subst hk
    exact ⟨_, softError_logEntry s d unit loc double hd hunit hloc he, rfl, hurt_entry (List.mem_filter.1 (List.mem_of_getElem? he)).1 double⟩
  case deviceTable =>
    subst hk hdouble
    exact softError_deviceTable s d unit loc
  case counts =>
    obtain ⟨u, hrun, hfixed, hflits, htrim⟩ := trim_correctedCounts s
    refine ⟨u, hrun, hfixed, hflits, fun c hc => ?_⟩
    obtain ⟨hcounts, hsupply⟩ := Prod.mk.inj (htrim c hc)
    rw [hcounts, hsupply]
    exact trimSupply_results c (s.core c)
  case queueTable => exact ⟨_, congrArg Host.Outcome.next (if_neg (Nat.not_le.2 hq)), queue_queueTableError s q⟩
  case commandCores => exact ⟨_, commandCoreSubstitution_stops h hspare, fun v hv => mem_engine_stops hv⟩
  case bay =>
    refine ⟨_, coreSubstitution_asks h hbay, mem_later _ _, fun k hk => ?_⟩
    rw [skein_later]
    exact vacate_askVacates _ s (.inl hk)

end Sys2Proof.Machine
end

section
/-! PROOF. SCMP (R131): by its code, 1 or 0; a word whose code is 7 is reserved. -/
namespace Sys2Proof.Machine

theorem scmp_writes {d a : BitVec 8} {s : State} (ha : isSource a) (hd : isDest d) (b : BitVec 6) (k : BitVec 3) :
    exec (.scmp d a b k) s =
      .next (advance (destOf s d (oneIf (conditionHolds k.toNat (sourceOf s a) (sreg s b.toNat) = true)))) :=
  scalarForm_result (i := .scmp d a b k) rfl ha hd (by rintro _ _ ⟨⟩)

theorem decodeWord_scmp (c : BitVec 1) (d a : BitVec 8) (b : BitVec 6) (k : BitVec 3) :
    decodeWord (packSR c 4 d a b k) = if k = 7 then .error .reservedCode else .ok (c == 1#1, .scmp d a b k) := by
  obtain ⟨hc, hmaj, hd, ha, hb, hk⟩ := packSR_eq_iff.1 (Eq.refl (packSR c 4 d a b k))
  unfold decodeWord
  rw [decodeRaw_eq_of_major hmaj rfl, decMaj04, hc, hd, ha, hb, hk]
  by_cases h : k = 7 <;> simp [Instr.wellFormed, h]

/-- Settles O4: the code picks the row of R131's table; code 7 is no well-formed SCMP. -/
theorem scalarCompare : Obligations.ScalarCompare := by
  unfold Obligations.ScalarCompare
  refine ⟨fun d a b k s ha hd => ?_, decodeWord_scmp⟩
  have hwrites (p : Prop) (h : conditionHolds k.toNat (sourceOf s a) (sreg s b.toNat) = true ↔ p) :
      (p → exec (.scmp d a b k) s = .next (advance (destOf s d 1))) ∧ (¬ p → exec (.scmp d a b k) s = .next (advance (destOf s d 0))) := by
    rw [scmp_writes ha hd, oneIf]
    exact ⟨fun hp => by rw [if_pos (h.2 hp)], fun hp => by rw [if_neg (fun hc => hp (h.1 hc))]⟩
  refine ⟨?_, ?_, ?_, ?_, ?_, ?_, ?_⟩ <;>
    · rintro rfl
      exact hwrites _ decide_eq_true_iff

end Sys2Proof.Machine
end

section
/-! PROOF. What reductions, votes, scans, single lanes, predicate logic and VCMP leave unchanged (R133, R164, R173 to R178): each effect is a
chain of register writes, and a frame of a chain is made of the frames of its writes. -/
namespace Sys2Proof.Machine

/-- A step of an effect that writes no other register, and leaves a fragment that is alone in its strand alone. -/
structure WritesOnly (w : Writes) (s t : State) : Prop where
  kept : RegistersKept w s t
  alone : Alone s → Alone t

theorem WritesOnly.refl (w : Writes) (s : State) : WritesOnly w s s := ⟨.refl w s, id⟩

theorem WritesOnly.trans {w : Writes} {r s t : State} (h : WritesOnly w r s) (k : WritesOnly w s t) : WritesOnly w r t :=
  ⟨h.kept.trans k.kept h.alone, k.alone ∘ h.alone⟩

/-- An instruction whose effect writes these registers alone keeps every other. -/
theorem registersKept_of_run {w : Writes} {i : Instr} {s u t : State} (ht : exec i s = .next t) (hrun : exec i s = run s (.ok u))
    (h : WritesOnly w s u) : RegistersKept w s t := by
  obtain rfl := Host.Outcome.next.inj (hrun.symm.trans ht)
  exact h.kept.advance h.alone

/-! ## The writes -/

/-- What keeps the flags keeps them where they may be written too. -/
theorem RegistersKept.withFlags {w : Writes} {s t : State} (h : RegistersKept w s t) : RegistersKept { w with flags := true } s t := by
  obtain ⟨hstrand, hmem, hcur, hshared, hbank, hvec, hpred, -⟩ := h
  exact ⟨hstrand, hmem, hcur, hshared, hbank, hvec, hpred, nofun⟩

theorem writesOnly_destOf (s : State) (d : BitVec 8) (v : W64) :
    WritesOnly { scalar := fun n => n == d.toNat, flags := d.toNat == 208 } s (destOf s d v) :=
  ⟨.destOf s d v, fun h => h.destOf d v⟩

theorem writesOnly_raise {w : Writes} (s : State) (fl : Flags) (hw : w.flags = true) : WritesOnly w s (raise s fl) :=
  ⟨.raise w s fl hw, fun h => h.raise fl⟩

theorem writesOnly_setVecLanes {w : Writes} (s : State) (r : Nat) (m : W32) (f : Nat → W64) (hw : w.vector r = true) :
    WritesOnly w s (setVecLanes s r m f) :=
  ⟨.setVecLanes w s r m f hw, fun h => h.setVecLanes r m f⟩

/-- A scalar result with flags. -/
theorem writesOnly_raise_destOf (s : State) (d : BitVec 8) (v : W64) (fl : Flags) :
    WritesOnly { scalar := fun n => n == d.toNat, flags := true } s (raise (destOf s d v) fl) :=
  .trans ⟨(RegistersKept.destOf s d v).withFlags, fun h => h.destOf d v⟩ (writesOnly_raise _ fl rfl)

theorem Alone.setPredLanes {s : State} (h : Alone s) (q : Nat) (m v : W32) : Alone (setPredLanes s q m v) := by
  unfold Machine.setPredLanes
  split
  · exact h
  · split
    · exact (h.clearBad _).modCur rfl rfl
    · exact h.modCur rfl rfl

/-- A predicate write keeps every other register. -/
theorem RegistersKept.setPredLanes (w : Writes) (s : State) (q : Nat) (m v : W32) (hw : w.pred q = true) :
    RegistersKept w s (setPredLanes s q m v) := by
  have hb := SameButStrand.setPredLanes s q m v
  have hc := setPredLanes_cur s q m v
  have hs : ∀ n, sreg (Machine.setPredLanes s q m v) n = sreg s n := by
    intro n
    simp only [sreg, State.curFrag, Strand.fragAt, hb.iss]
    rw [hc]
    rfl
  refine ⟨hb, hb.memory, ?_, fun n _ _ _ => hs n, fun _ n _ _ => hs n, fun r l _ _ => ?_, fun p hp => ?_, fun _ => ?_⟩
  · rw [hc]
  · rw [vreg, hc]
    rfl
  · by_cases hq : q = 0
    · rw [hq, setPredLanes_zero]
    · rw [preg_setPredLanes s hq, if_neg]
      rintro rfl
      rw [hw] at hp
      cases hp
  · rw [hc]

theorem writesOnly_setPredLanes {w : Writes} (s : State) (q : Nat) (m v : W32) (hw : w.pred q = true) : WritesOnly w s (setPredLanes s q m v) :=
  ⟨.setPredLanes w s q m v hw, fun h => h.setPredLanes q m v⟩

theorem writesOnly_scanWrite (s : State) (d m : Nat) (rs : List (Nat × LaneRes)) :
    WritesOnly { vector := fun r => r == d, flags := true } s (scanWrite s d m rs) :=
  (writesOnly_setVecLanes s d _ _ (beq_self_eq_true d)).trans (writesOnly_raise _ _ rfl)

/-- VCMP writes one predicate after another, then the flags. -/
theorem writesOnly_compare (s : State) (d n : Nat) (m : W32) (bs : Nat → W32) (fl : Flags) :
    WritesOnly { pred := fun q => decide (d ≤ q) && decide (q < d + n), flags := true } s
      (raise ((upFrom 0 n).foldl (fun t e => setPredLanes t (d + e) m (bs e)) s) fl) := by
  refine .trans (List.foldlRecOn (motive := WritesOnly _ s) _ _ (.refl _ s) fun t ht e he => ht.trans ?_) (writesOnly_raise _ fl rfl)
  refine writesOnly_setPredLanes t _ m _ ?_
  have hlt : e < n := by simpa [upFrom_eq] using he
  simp [hlt]

/-! ## The instructions -/

theorem reduceForm_result {i : Instr} {x : ReduceForm} {s : State} (hx : reduceForm i = some x) (hd : isDest x.d) (ha : x.a < 8 * s.cur.blocks)
    (hres : x.fp64 = true → (s.core s.curCore).resFp = false) : ∃ v fl, exec i s = run s (.ok (raise (destOf s x.d v) fl)) := by
  obtain ⟨ident, f, hrun⟩ := reduceForm_runs s hx
  exact ⟨_, _, hrun.trans (congrArg (run s) ((vred_eq s _ _ _ _ ha hres).trans (scalarResult_eq s hd _)))⟩

/-- Each row of R175, and VGET, writes its destination. -/
theorem voteForm_result {i : Instr} {s : State} {d : BitVec 8} {v : W64} (hx : voteForm s i = some (d, v)) (hd : isDest d)
    (hregs : ∀ r ∈ voteRegs i, r < 8 * s.cur.blocks) : ∃ x, exec i s = run s (.ok (destOf s d x)) := by
  unfold voteForm at hx
  dsimp only at hx
  split at hx <;> cases hx
  iterate 4 exact ⟨_, congrArg (run s) (writeS_dest s _ _ hd)⟩
  exact ⟨_, congrArg (run s) ((needVecs_bind s hregs _).trans (writeS_dest s _ _ hd))⟩

/-- Each row of R178 writes the bits of the fragment's lanes. -/
theorem predForm_result {i : Instr} {s : State} {d : Nat} {v : W32} (hx : predForm s i = some (d, v))
    (hsrc : ∀ a, predSource i = some a → isSource a) : ∃ m x, exec i s = run s (.ok (setPredLanes s d m x)) := by
  unfold predForm at hx
  split at hx <;> cases hx
  iterate 6 exact ⟨_, _, rfl⟩
  exact ⟨_, _, congrArg (run s) (readS_bind s (hsrc _ rfl) _)⟩

/-- A well-formed VCMP has a condition of its type (R116). -/
theorem compareCondition_ok {d : BitVec 3} {a b : BitVec 6} {p : BitVec 3} {k : BitVec 4} {y : BitVec 3}
    (h : Instr.wellFormed (.vcmp d a b p k y) = true) : (!(cmpInteger y && decide (6 ≤ k.toNat))) = true := by
  change (!cmpInteger y || decide (k.toNat < 6)) = true at h
  simpa only [Bool.not_and, ← decide_not, Nat.not_le] using h

/-- Settles O18: each instruction's effect is a chain of writes to the registers that its frame names. -/
theorem laneFrames : Obligations.LaneFrames := by
  unfold Obligations.LaneFrames
  refine ⟨⟨fun i x s t hx hround ha hd hres ht => ?float, fun i x s t hx hd ha hres ht => ?reduce, fun i s t d v hx hd hregs ht => ?vote⟩,
    fun d a p s t hd ha hres ht => ?scan, fun v a n s t ha hv ht => ?vput, fun i s t d v hx hsrc ht => ?logic,
    fun d a b p k y s t hwf hd ha hb ht => ?compare⟩
  case float => exact registersKept_of_run ht (scalarFloatResults i x s hx hround ha hd hres) (writesOnly_raise_destOf s x.d _ _)
  case reduce =>
    obtain ⟨v, fl, hrun⟩ := reduceForm_result hx hd ha hres
    exact registersKept_of_run ht hrun (writesOnly_raise_destOf s x.d v fl)
  case vote =>
    obtain ⟨x, hrun⟩ := voteForm_result hx hd hregs
    exact registersKept_of_run ht hrun (writesOnly_destOf s d x)
  case scan =>
    have hin : ∀ r ∈ [d.toNat, a.toNat], r < 8 * s.cur.blocks := by simp [hd, ha]
    rcases ht with ht | ht
    · exact registersKept_of_run ht (congrArg (run s) (needVecs_bind s hin _)) (writesOnly_scanWrite s d.toNat _ _)
    · exact registersKept_of_run ht (congrArg (run s) ((needVecs_bind s hin _).trans (residueFp_bind s hres _ _)))
        (writesOnly_scanWrite s d.toNat _ _)
  case vput =>
    have hin : ∀ r ∈ [v.toNat], r < 8 * s.cur.blocks := by simp [hv]
    exact registersKept_of_run ht (congrArg (run s) ((readS_bind s ha _).trans (needVecs_bind s hin _)))
      (writesOnly_setVecLanes s v.toNat _ _ (beq_self_eq_true _))
  case logic =>
    obtain ⟨m, x, hrun⟩ := predForm_result hx hsrc
    exact registersKept_of_run ht hrun (writesOnly_setPredLanes s d m x (beq_self_eq_true d))
  case compare =>
    have hin : ∀ r ∈ [a.toNat, b.toNat], r < 8 * s.cur.blocks := by simp [ha, hb]
    exact registersKept_of_run ht
      (congrArg (run s) ((need_bind (compareCondition_ok hwf) _ _).trans ((need_bind (decide_eq_true hd) _ _).trans (needVecs_bind s hin _))))
      (writesOnly_compare s d.toNat _ _ _ _)

end Sys2Proof.Machine
end

section
/-! PROOF. Traps and the way back (R146, R149, R150, R344), and ABORT (R154). -/
namespace Sys2Proof.Machine

/-! ## Taking a trap -/

/-- The strand at the trap level, with what it records of the trap. -/
def Strand.trapEntered (u : Strand) (s : State) (q : TrapReq) : Strand :=
  { u with trappc := zext64 s.iss.w, trapaddr := q.addr, trapinfo := trapWord q,
           trap := { on := true, frag := s.iss.frag, retIdx := if q.cause = 1 then s.iss.w + 1 else s.iss.w, retRep := s.curFrag.repPos,
                     retLanes := s.curFrag.unfinished, written := false } }

/-- The fragment at the trap vector. -/
def Frag.atVector (f : Frag) (v : W32) : Frag :=
  { (freshFrag f) with pc := v, ahead := [], resv := none, wait := .none, jumped := false }

section
variable {s : State} {q : TrapReq} (hlevel : s.cur.trapped = false) (hrerun : (s.reel s.curPly.reel).rerun = none ∨ q.cause ≠ 11)
include hlevel hrerun

/-- A trap at the normal level, of a ply that is not re-run, is taken by the strand. -/
theorem takeTrap_normal : takeTrap s q =
    halt ((s.modCur (·.trapEntered s q)).modCurFrag (·.atVector (s.reel s.curPly.reel).desc.trapvec)) := by
  have hown : ¬ ((s.reel s.curPly.reel).rerun.isSome && q.cause == 11 && q.detail == 3 && bits q.addr 60 4 == 2 &&
      bits q.addr 20 2 != s.curPly.num) = true := by
    rcases hrerun with h | h <;> simp [h]
  have hnested : ¬ s.cur.trapped = true := by simp [hlevel]
  have hply : (s.modCur (·.trapEntered s q)).curPly.reel = s.curPly.reel := by
    rw [State.curPly_modCur]
    rfl
  unfold takeTrap
  dsimp only
  rw [if_neg hown, if_neg hnested]
  change halt ((s.modCur (·.trapEntered s q)).modCurFrag (·.atVector (s.reel (s.modCur (·.trapEntered s q)).curPly.reel).desc.trapvec)) = _
  rw [hply]

theorem takeTrap_cur : (takeTrap s q).cur =
    (s.cur.trapEntered s q).modFrag s.iss.frag (·.atVector (s.reel s.curPly.reel).desc.trapvec) := by
  rw [takeTrap_normal hlevel hrerun]
  change ((s.modCur (·.trapEntered s q)).modCurFrag _).cur = _
  rw [State.cur_modCurFrag, State.cur_modCur]
  rfl

theorem takeTrap_curFrag : (takeTrap s q).curFrag = s.curFrag.atVector (s.reel s.curPly.reel).desc.trapvec := by
  rw [State.curFrag, takeTrap_cur hlevel hrerun, takeTrap_normal hlevel hrerun]
  exact Strand.fragAt_modFrag _ _ _

theorem takeTrap_memory : SameMemory s (takeTrap s q) := by
  rw [takeTrap_normal hlevel hrerun]
  exact ((SameButStrand.modCur s _).trans (SameButStrand.modCurFrag _ _)).memory

end

/-! ## Levels (R147) -/

theorem needLevel_bind {s : State} {b : Bool} (h : s.cur.trapped = b) (k : Eff) : (do needLevel s b; k) = k :=
  need_bind (beq_iff_eq.2 h) _ _

theorem needLevel_bind_stop {s : State} {b : Bool} (h : s.cur.trapped = !b) (k : Eff) : (do needLevel s b; k) = .error privilege :=
  need_bind_stop (by rw [h]; cases b <;> rfl) _ _

theorem exec_trap {s : State} {a : BitVec 8} (hlevel : s.cur.trapped = false) (ha : isSource a) (c : BitVec 10) :
    exec (.trap a c) s = .next (takeTrap s { cause := 1, addr := sourceOf s a, tcode := c.toNat }) :=
  congrArg (run s) ((needLevel_bind hlevel _).trans (readS_bind s ha _))

theorem trapWord_code (v : W64) (c : Nat) : trapWord { cause := 1, addr := v, tcode := c } = BitVec.ofNat 64 (c * 2 ^ 22 + 1) := by
  simp [trapWord, w64]

/-- Settles O23: a trap at the normal level changes the strand's trap record and the issuing fragment alone. -/
theorem trapEntry : Obligations.TrapEntry := by
  unfold Obligations.TrapEntry
  refine ⟨fun a c s hlevel ha => ⟨_, exec_trap hlevel ha c, ?_⟩, fun s q hlevel hrerun hcause => ?_⟩
  · have hcode : ({ cause := 1, addr := sourceOf s a, tcode := c.toNat } : TrapReq).cause ≠ 11 := show 1 ≠ 11 by decide
    have hmem := takeTrap_memory hlevel (.inr hcode)
    rw [takeTrap_curFrag hlevel (.inr hcode), takeTrap_cur hlevel (.inr hcode)]
    exact ⟨rfl, rfl, rfl, trapWord_code _ _, rfl, rfl, rfl, rfl, rfl, rfl, rfl, rfl, rfl, rfl, rfl, rfl, rfl, rfl, rfl, rfl, rfl, rfl, hmem⟩
  · have hmem := takeTrap_memory (q := q) hlevel (.inl hrerun)
    dsimp only
    rw [takeTrap_curFrag hlevel (.inl hrerun), takeTrap_cur hlevel (.inl hrerun)]
    exact ⟨rfl, rfl, rfl, rfl, if_neg hcause, rfl, rfl, rfl, rfl, rfl, rfl, rfl, rfl, rfl, rfl, rfl, rfl, rfl, rfl, rfl, hmem⟩

/-! ## The way back -/

/-- The strand outside the trap level. -/
def Strand.trapLeft (u : Strand) : Strand := { u with trap := { u.trap with on := false, written := false } }

/-- The fragment where its trap record sends it. -/
def Frag.resumed (f : Frag) (r : TrapLevel) : Frag :=
  { (freshFrag f) with resv := none, jumped := true, pc := r.retIdx, repPos := if r.written then 0 else r.retRep
                       unfinished := if r.written then none else r.retLanes }

theorem trapReturn_eq (s : State) : trapReturn s = settle ((s.modCur (·.trapLeft)).modCurFrag (·.resumed s.cur.trap)) := rfl

theorem SameButStrand.settle (s : State) : SameButStrand s (settle s) := by
  unfold Machine.settle
  split
  · exact .modCur s _
  · exact .refl s

theorem sameButStrand_trapReturn (s : State) : SameButStrand s (trapReturn s) := by
  rw [trapReturn_eq]
  exact ((SameButStrand.modCur s _).trans (.modCurFrag _ _)).trans (.settle _)

/-- A fragment that returns alone in its strand stays where its record sends it. -/
theorem trapReturn_alone {s : State} (hfrags : s.cur.frags = [(s.iss.frag, s.curFrag)]) (hstack : s.curFrag.stack = [])
    (hheld : s.curFrag.held = []) (hjoin : s.curFrag.join = none) (hparent : s.curFrag.parent = none) :
    (trapReturn s).cur = pruneHelpers (s.cur.trapLeft.modFrag s.iss.frag (·.resumed s.cur.trap)) := by
  have hone : (s.cur.trapLeft.modFrag s.iss.frag (·.resumed s.cur.trap)).frags = [(s.iss.frag, s.curFrag.resumed s.cur.trap)] := by
    change Tab.put s.iss.frag (s.curFrag.resumed s.cur.trap) s.cur.frags = _
    simp [hfrags, Tab.put]
  have hsettle := settle_of_none (t := s.cur.trapLeft.modFrag s.iss.frag (·.resumed s.cur.trap)) rfl
    (settleOne_alone hone hstack hheld hjoin hparent)
  have hcur : ((s.modCur (·.trapLeft)).modCurFrag (·.resumed s.cur.trap)).cur = s.cur.trapLeft.modFrag s.iss.frag (·.resumed s.cur.trap) := by
    rw [State.cur_modCurFrag, State.cur_modCur]
    rfl
  have hlive : ((s.modCur (·.trapLeft)).modCurFrag (·.resumed s.cur.trap)).livePly s.iss.ply = true := livePly_modCur (s.modCur (·.trapLeft)) _
  rw [trapReturn_eq, settle, State.modCurFrag_iss, State.modCur_iss, if_pos hlive, State.cur_modCur, hcur, hsettle]

/-! ## ABORT -/

/-- Settles O27: the record that contains the ply is the one that ABORT makes, at any level. -/
theorem abortResults : Obligations.AbortResults := by
  unfold Obligations.AbortResults
  intro a c s ha _
  exact ⟨_, congrArg (runTo s) (readS_bind s ha _), rfl, rfl, rfl, rfl, livePly_contain s _ _⟩

end Sys2Proof.Machine

namespace Sys2Proof
open Machine

/-- Settles O24: nothing of the strand moves when the one fragment returns, so it stands at TRETIDX as its trap record says. -/
theorem trapReturn : Obligations.TrapReturn := by
  unfold Obligations.TrapReturn
  intro s _ hlevel hfrags hstack hheld hjoin hparent
  have hkept := sameButStrand_trapReturn s
  have hcur := trapReturn_alone hfrags hstack hheld hjoin hparent
  have hfrag : (Machine.trapReturn s).curFrag = pruned (s.curFrag.resumed s.cur.trap) := by
    rw [State.curFrag, hkept.iss, hcur, fragAt_pruneHelpers, Strand.fragAt_modFrag]
    rfl
  refine ⟨Machine.trapReturn s, congrArg (runTo s) (needLevel_bind hlevel _), ?_⟩
  rw [hfrag, hcur]
  exact ⟨rfl, rfl, rfl, rfl, rfl, rfl, rfl, rfl, rfl, rfl, rfl, rfl, rfl, rfl, rfl, hkept.memory⟩

end Sys2Proof
end

section
/-! PROOF. System and segment registers (R147, R151 to R153): the checks of an instruction in their order, then its effect. -/
namespace Sys2Proof.Machine

theorem low_word (v : W64) : w32 (bits v 0 32) = v.setWidth 32 := by
  apply BitVec.eq_of_toNat_eq
  simp [w32, bits]

/-! ## SRD and SWR -/

section
variable {s : State} {a : BitVec 8} {n : BitVec 10}

theorem exec_srd (hn : n.toNat < 8) (ha : isDest a) : exec (.srd a n) s = .next (advance (destOf s a (sysReg s n.toNat))) :=
  congrArg (run s) ((need_bind (decide_eq_true hn) _ _).trans (writeS_dest s a _ ha))

theorem exec_srd_number (hn : 8 ≤ n.toNat) : exec (.srd a n) s = .next (takeTrap s { cause := 3, detail := 2 }) :=
  congrArg (run s) (need_bind_stop (decide_eq_false (Nat.not_lt.2 hn)) _ _)

theorem exec_swr_number (hlevel : s.cur.trapped = true) (hn : 8 ≤ n.toNat) : exec (.swr a n) s = .next (takeTrap s { cause := 3, detail := 2 }) :=
  congrArg (run s) ((needLevel_bind hlevel _).trans (need_bind_stop (decide_eq_false (Nat.not_lt.2 hn)) _ _))

theorem exec_swr_readOnly (hlevel : s.cur.trapped = true) (hpos : 1 ≤ n.toNat) (hle : n.toNat ≤ 7) :
    exec (.swr a n) s = .next (takeTrap s { cause := 5 }) :=
  congrArg (run s) ((needLevel_bind hlevel _).trans ((need_bind (decide_eq_true (Nat.lt_succ_of_le hle)) _ _).trans
    (need_bind_stop (decide_eq_false (Nat.ne_of_gt hpos)) _ _)))

/-- The strand with another index to return to, written by SWR. -/
def Strand.withReturn (u : Strand) (w : W32) : Strand := { u with trap := { u.trap with retIdx := w, written := true } }

theorem exec_swr (hlevel : s.cur.trapped = true) (hn : n = 0) (ha : isSource a) :
    exec (.swr a n) s = .next (advance (s.modCur (·.withReturn ((sourceOf s a).setWidth 32)))) := by
  subst hn
  rw [← low_word]
  exact congrArg (run s) ((needLevel_bind hlevel _).trans (readS_bind s ha _))

end

/-! ## SEGLD and SEGRD -/

section
variable {s : State} {a : BitVec 8} {g : BitVec 3}

/-- The segment register that SEGLD's pair holds. -/
def segPair (s : State) (a : BitVec 8) : Seg := ⟨sreg s a.toNat, sreg s (a.toNat + 1)⟩

/-- The strand with a segment register loaded. -/
def Strand.withSeg (u : Strand) (g : Nat) (x : Seg) : Strand := { u with g := Tab.put g x u.g }

theorem exec_segrd (ha : a.toNat ≤ 190) : exec (.segrd a g) s = .next (advance
    (setSreg (setSreg s a.toNat (Tab.get {} s.cur.g g.toNat).base) (a.toNat + 1) (Tab.get {} s.cur.g g.toNat).ctl)) :=
  congrArg (run s) (need_bind (decide_eq_true ha) _ _)

theorem exec_segrd_pair (ha : 190 < a.toNat) : exec (.segrd a g) s = .next (takeTrap s { cause := 3 }) :=
  congrArg (run s) (need_bind_stop (decide_eq_false (Nat.not_le.2 ha)) _ _)

theorem exec_segld_pair (hlevel : s.cur.trapped = true) (ha : 190 < a.toNat) : exec (.segld a g) s = .next (takeTrap s { cause := 3 }) :=
  congrArg (run s) ((needLevel_bind hlevel _).trans (need_bind_stop (decide_eq_false (Nat.not_le.2 ha)) _ _))

theorem exec_segld_wide (hlevel : s.cur.trapped = true) (ha : a.toNat ≤ 190)
    (h : segNarrows ((s.vdev s.curPly.vdev).launchSeg g.toNat) (segPair s a) = false) :
    exec (.segld a g) s = .next (takeTrap s { cause := 3, detail := 2 }) :=
  congrArg (run s) ((needLevel_bind hlevel _).trans ((need_bind (decide_eq_true ha) _ _).trans (need_bind_stop h _ _)))

theorem exec_segld (hlevel : s.cur.trapped = true) (ha : a.toNat ≤ 190)
    (h : segNarrows ((s.vdev s.curPly.vdev).launchSeg g.toNat) (segPair s a) = true) :
    exec (.segld a g) s = .next (advance (s.modCur (·.withSeg g.toNat (segPair s a)))) :=
  congrArg (run s) ((needLevel_bind hlevel _).trans ((need_bind (decide_eq_true ha) _ _).trans (need_bind h _ _)))

end

/-- Settles O25: the checks of each instruction pass or stop it in their order. -/
theorem systemRegisters : Obligations.SystemRegisters := by
  unfold Obligations.SystemRegisters
  refine ⟨fun a n g s => ⟨exec_srd, fun hlevel hn ha => ⟨_, exec_swr hlevel hn ha, ?swr⟩,
      fun hlevel ha h => ⟨_, exec_segld hlevel ha h, ?segld⟩, exec_segrd⟩,
    fun a c g s => ⟨fun hlevel => congrArg (run s) (needLevel_bind_stop hlevel _), fun hlevel => ?normal⟩,
    fun a n g s => ⟨exec_srd_number, exec_swr_number, exec_swr_readOnly, exec_segrd_pair, exec_segld_pair, exec_segld_wide⟩⟩
  case swr =>
    rw [State.cur_modCur]
    exact ⟨rfl, rfl, hlevel, .modCur s _⟩
  case segld =>
    rw [State.cur_modCur]
    exact ⟨Tab.get_put_self _ _ _ _, fun k hk => Tab.get_put_ne _ hk _ _, .modCur s _⟩
  case normal =>
    exact ⟨congrArg (runTo s) (needLevel_bind_stop hlevel _), congrArg (run s) (needLevel_bind_stop hlevel _),
      congrArg (run s) (needLevel_bind_stop hlevel _)⟩

end Sys2Proof.Machine
end

section
/-! PROOF. SLR.D and SSC.D (R136 to R138): behind their checks the operation is performed at its home or bank; in the ply's own scratch there is
nothing to translate or to flush. -/
namespace Sys2Proof.Machine

/-! ## The reservation of the issuing fragment -/

/-- The issuing fragment holds no reservation. -/
def unreserved (s : State) : State := s.modCurFrag (fun f => { f with resv := none })

/-- The issuing fragment's reservation by a load-reserved of a place (R136, R151). -/
def reservationOf (s : State) (p : Place) (ea : W64) : Resv :=
  { sector := sectorOf p, addr := BitVec.ofNat 64 (ea.toNat / 128 * 128), clock := s.clock }

def reserved (s : State) (p : Place) (ea : W64) : State := s.modCurFrag (fun f => { f with resv := some (reservationOf s p ea) })

theorem strand_modCurFrag (s : State) (f : Frag → Frag) (q k : Nat) : ((s.modCurFrag f).ply q).strand k =
    if q = s.iss.ply ∧ k = s.iss.strand then s.cur.modFrag s.iss.frag f else (s.ply q).strand k := by
  rw [State.modCurFrag, State.modFrag, State.modStrand, State.ply_modPly_eq]
  by_cases hq : q = s.iss.ply
  · subst hq
    by_cases hk : k = s.iss.strand
    · subst hk
      simp only [if_true, and_self, Ply.strand_modStrand]
      rfl
    · simp only [if_true, hk, and_false, if_false, Ply.strand_modStrand_ne _ hk]
  · simp only [hq, false_and, if_false]

/-- A change of the issuing fragment's reservation. -/
theorem fragsKept_resv (s : State) (r : Option Resv) : FragsKept s (s.modCurFrag (fun f => { f with resv := r })) := by
  refine ⟨fun q k => ⟨?_, fun f => ?_⟩, rfl, fun q => ?_⟩
  · rw [strand_modCurFrag]
    split
    · next h =>
      obtain ⟨rfl, rfl⟩ := h
      rfl
    · rfl
  · rw [State.fragOf, strand_modCurFrag]
    split
    · next h =>
      obtain ⟨rfl, rfl⟩ := h
      by_cases hf : f = s.iss.frag
      · subst hf
        rw [Strand.fragAt_modFrag]
        rfl
      · rw [Strand.fragAt_modFrag_ne _ hf]
        rfl
    · rfl
  · rw [State.modCurFrag, State.modFrag, State.modStrand, State.ply_modPly_eq]
    split <;> rfl

theorem fragsKept_unreserved (s : State) : FragsKept s (unreserved s) := fragsKept_resv s none

theorem fragsKept_reserved (s : State) (p : Place) (ea : W64) : FragsKept s (reserved s p ea) := fragsKept_resv s _

theorem resv_unreserved (s : State) : (unreserved s).curFrag.resv = none := by
  rw [unreserved, State.curFrag_modCurFrag]

theorem resv_reserved (s : State) (p : Place) (ea : W64) : (reserved s p ea).curFrag.resv = some (reservationOf s p ea) := by
  rw [reserved, State.curFrag_modCurFrag]

/-! ## The instructions behind their checks -/

theorem exec_slrD {d a : BitVec 8} {o : BitVec 9} {s t v u : State} {ea va : W64} {p : Place} {b : Bytes} (hd : isDest d) (ha : baseOk s a)
    (hcheck : checkOne s (baseOf s a) (8 * o.toInt) ⟨[0, 2], false, 8, 8, [0, 1, 2]⟩ = .ok ea)
    (htrans : translateOne (unreserved (endProtection s s.iss.ply 10)) (boundOf s a) (8 * o.toInt) ea 0 0 = .ok (p, va, t))
    (hflush : flushFor t p = .ok v) (hread : directRead (redsFirst v p) p 8 = (b, none, u)) :
    exec (.slrD d a o) s = .next (advance (destOf (reserved u p ea) d (BitVec.ofNat 64 (natLE b)))) := by
  have hdest : decide (d.toNat ≤ 192 ∨ d.toNat = 208) = true := decide_eq_true hd
  rw [Int.mul_comm] at hcheck htrans
  unfold unreserved at htrans
  change execSlrD d a o s = _
  unfold execSlrD
  rw [need_bind hdest]
  simp only [readBase_ok ha, hcheck, htrans, hflush, hread, ok_bind]
  exact congrArg (run s) (writeS_dest _ d _ hd)

section
variable {d a : BitVec 8} {b : BitVec 6} {s t v : State} {ea va : W64} {p : Place} (hd : isDest d) (ha : isSource a)
  (hcheck : checkOne s (sourceOf s a) 0 ⟨[1, 2], true, 8, 8, [0, 1, 2]⟩ = .ok ea)
  (htrans : translateOne (endProtection s s.iss.ply 10) none 0 ea 1 1 = .ok (p, va, t)) (hheld : writeHeld t s.iss.ply 8 p = false)
  (hflush : flushFor t p = .ok v)
include hd ha hcheck htrans hheld hflush

/-- SSC.D writes when the reservation is of its sector, and ends the reservation either way. -/
theorem exec_sscD {holds : Bool} (hresv : v.curFrag.resv.any (fun r => r.sector == sectorOf p) = holds) :
    exec (.sscD d a b) s = .next (advance (destOf
      (unreserved (if holds then directWrite (redsFirst v p) p (bytesLE (sreg s b.toNat).toNat 8) else v)) d (b2w holds))) := by
  have hiss : t.iss = s.iss := (translated_translateOne htrans).toLoadKept.iss.trans (unprotected_endProtection s _ _).iss
  have hdest : decide (d.toNat ≤ 192 ∨ d.toNat = 208) = true := decide_eq_true hd
  rw [← hiss] at hheld
  subst hresv
  change execSscD d a b s = _
  unfold execSscD
  rw [need_bind hdest, readS_bind s ha]
  simp only [hcheck, htrans, hheld, hflush, ok_bind]
  cases v.curFrag.resv with
  | none => exact congrArg (run s) (writeS_dest _ d _ hd)
  | some r => exact congrArg (run s) (writeS_dest _ d _ hd)

theorem exec_sscD_reserved (hresv : v.curFrag.resv.map (fun r => r.sector) = some (sectorOf p)) :
    exec (.sscD d a b) s = .next (advance (destOf (unreserved (directWrite (redsFirst v p) p (bytesLE (sreg s b.toNat).toNat 8))) d 1)) := by
  obtain ⟨r, hr, hsector⟩ := Option.map_eq_some_iff.1 hresv
  exact exec_sscD hd ha hcheck htrans hheld hflush (holds := true) (by simp [hr, hsector])

theorem exec_sscD_unreserved (hresv : v.curFrag.resv.map (fun r => r.sector) ≠ some (sectorOf p)) :
    exec (.sscD d a b) s = .next (advance (destOf (unreserved v) d 0)) := by
  refine exec_sscD hd ha hcheck htrans hheld hflush (holds := false) ?_
  rw [Option.any_eq_false]
  exact fun r hr => beq_eq_false_iff_ne.2 fun hsector => hresv (by rw [hr, Option.map_some, hsector])

end

/-! ## In the ply's own scratch -/

/-- One more permission that the segment register gives is one more check that passes (R65). -/
theorem checkAddr_perm {s : State} {c : Ctx} {base : W64} {k : Nat} (h : bit (c.seg (ptrTag base)).ctl (permBit k) = true) (off : Int) (acc : Acc) :
    checkAddr s c base off { acc with perms := acc.perms ++ [k] } = checkAddr s c base off acc := by
  have hseg (n : Nat) : checkSegment s c (ptrTag base) n { acc with perms := acc.perms ++ [k] } = checkSegment s c (ptrTag base) n acc := by
    have hfind : (acc.perms ++ [k]).find? (fun j => !(bit (c.seg (ptrTag base)).ctl (permBit j))) =
        acc.perms.find? (fun j => !(bit (c.seg (ptrTag base)).ctl (permBit j))) := by
      simp [List.find?_append, h]
    unfold checkSegment
    dsimp only
    rw [hfind]
  unfold checkAddr
  simp only [hseg]

section
variable {s : State} {base : W64} {off : Int} {n A k : Nat} (h : inOwnScratch s base off n A k)
include h

/-- The atomic permission, where the segment register gives it too. -/
theorem own_atomic (ha : bit (Tab.get {} s.cur.g 1).ctl 59 = true) : inOwnScratch s base off n A 2 := by
  obtain ⟨hlive, hflips, htag, hpol, hoff, halign, hsize, hA, -, hpoison⟩ := h
  exact ⟨hlive, hflips, htag, hpol, hoff, halign, hsize, hA, ha, hpoison⟩

theorem checkOne_own_atomic (ha : bit (Tab.get {} s.cur.g 1).ctl 59 = true) :
    checkOne s base off ⟨[k, 2], k == 1, n, n, [0, 1, 2]⟩ = .ok (scratchEa A) := by
  have htag : ptrTag base = 1 := by
    obtain ⟨-, -, htag, -⟩ := h
    exact htag
  have hperm : bit ((ctxOf s).seg (ptrTag base)).ctl (permBit 2) = true := by
    rw [htag]
    exact ha
  have hcheck : checkAddr s (ctxOf s) base off ⟨[k, 2], k == 1, n, n, [0, 1, 2]⟩ = .ok (scratchEa A) :=
    (checkAddr_perm hperm off (scratchAcc n k [0, 1, 2])).trans (checkAddr_own h (by decide))
  unfold checkOne
  rw [hcheck]

/-- A place in the own scratch stays one when the issuing fragment changes. -/
theorem own_modCurFrag (f : Frag → Frag) : inOwnScratch (s.modCurFrag f) base off n A k := by
  unfold inOwnScratch at h ⊢
  rw [State.curPly_modCurFrag, State.cur_modCurFrag]
  exact ⟨livePly_modPly _ _ _ _ h.1, h.2⟩

end

/-- The end of protection and of the reservation. -/
theorem fragsKept_endUnreserved (s : State) : FragsKept s (unreserved (endProtection s s.iss.ply 10)) :=
  (bankSame_endProtection s s.iss.ply 10).fragsKept.trans (fragsKept_unreserved _)

theorem FragsKept.curScratch {s t : State} (h : FragsKept s t) : t.curPly.scratch = s.curPly.scratch := by
  rw [State.curPly, h.iss]
  exact h.scratch _

/-- SLR.D in the own scratch: the bytes there, and a reservation of their sector. -/
theorem slrD_own {d a : BitVec 8} {o : BitVec 9} {s : State} {A : Nat} (hd : isDest d) (ha : baseOk s a)
    (h : inOwnScratch s (baseOf s a) (8 * o.toInt) 8 A 0) (hatomic : bit (Tab.get {} s.cur.g 1).ctl 59 = true) :
    exec (.slrD d a o) s = .next (advance (destOf
      (reserved (unreserved (endProtection s s.iss.ply 10)) (.scratch s.iss.ply A) (scratchEa A)) d
      (BitVec.ofNat 64 (natLE (Mem.read s.curPly.scratch A 8))))) := by
  have hready := fragsKept_endUnreserved s
  have hown : inOwnScratch (unreserved (endProtection s s.iss.ply 10)) (baseOf s a) (8 * o.toInt) 8 A 2 :=
    own_modCurFrag ((unprotected_endProtection s s.iss.ply 10).own (own_atomic h hatomic)) _
  have htrans := translateOne_own hown (boundOf s a) (8 * o.toInt) 0 0
  have hread := directRead_own hown (.inr rfl)
  rw [hready.iss] at htrans hread
  rw [hready.curScratch] at hread
  exact exec_slrD hd ha (checkOne_own_atomic h hatomic) htrans rfl hread

section
variable {s : State} {base : W64} {A : Nat} (h : inOwnScratch s base 0 8 A 1)
include h

theorem translateOne_sscD : translateOne (endProtection s s.iss.ply 10) none 0 (scratchEa A) 1 1 =
    .ok (.scratch s.iss.ply A, scratchEa A, endProtection s s.iss.ply 10) := by
  have hun := unprotected_endProtection s s.iss.ply 10
  have htrans := translateOne_own (hun.own h) none 0 1 1
  rwa [hun.iss] at htrans

/-- The write of SSC.D in the own scratch. -/
theorem scrWrite_sscD (v : W64) : BankKept s (scrWrite (endProtection s s.iss.ply 10) s.iss.ply A (bytesLE v.toNat 8)) ∧
    WroteScratch s (scrWrite (endProtection s s.iss.ply 10) s.iss.ply A (bytesLE v.toNat 8)) s.iss.ply A (bytesLE v.toNat 8) := by
  have hlen := length_bytesLE 8 v.toNat
  have hne : bytesLE v.toNat 8 ≠ [] := List.ne_nil_of_length_pos (by rw [hlen]; decide)
  have hbank := bankSame_endProtection s s.iss.ply 10
  obtain ⟨hkept, hwrote⟩ := scrWrite_wrote (endProtection s s.iss.ply 10) (p := s.iss.ply) hne (by rw [hlen]; exact oneSector_own h (by omega))
  exact ⟨hbank.1.trans hkept, hwrote.after hbank.2 fun _ => rfl⟩

end

/-- Nothing holds a write in the own scratch back while no transfer reads there. -/
theorem writeHeld_endProtection {s : State} {A n : Nat} (hr : rangeRead s s.iss.ply s.iss.ply A n = false) (c : Nat) :
    writeHeld (endProtection s s.iss.ply c) s.iss.ply n (.scratch s.iss.ply A) = false := by
  change rangeRead _ s.iss.ply s.iss.ply A n = false
  rwa [rangeRead, (bankSame_endProtection s s.iss.ply c).1.xfers]

theorem curFrag_endProtection (s : State) (c : Nat) : (endProtection s s.iss.ply c).curFrag = s.curFrag := by
  have hun := unprotected_endProtection s s.iss.ply c
  rw [State.curFrag, State.cur, State.curPly, hun.iss, hun.ply]
  rfl

/-- Bytes of a word written at a place of a ply's scratch. -/
theorem WroteScratch.word {s u : State} {p A n : Nat} {v : W64} (h : WroteScratch s u p A (bytesLE v.toNat n)) (k : Nat) :
    Mem.byte (u.ply p).scratch k = if A ≤ k ∧ k < A + n then byteOf v (k - A) else Mem.byte (s.ply p).scratch k := by
  rw [h, if_pos rfl, Mem.byte_write, length_bytesLE]
  refine ite_congr rfl (fun hk => getD_bytesLE_word v ?_) fun _ => rfl
  omega

/-- Settles O33: behind the checks each instruction runs to its write; in the own scratch the checks pass, and the bank gives and takes the bytes. -/
theorem reservationResults : Obligations.ReservationResults := by
  unfold Obligations.ReservationResults
  refine ⟨fun d a o s t v u ea va p b hd ha hcheck htrans hflush hread => exec_slrD hd ha hcheck htrans hflush hread,
    fun d a b s t v ea va p hd ha hcheck htrans hheld hflush =>
      ⟨exec_sscD_reserved hd ha hcheck htrans hheld hflush, exec_sscD_unreserved hd ha hcheck htrans hheld hflush⟩,
    fun d a o b s A hd => ⟨fun ha h hatomic => ?load, fun ha h hatomic hr => ?store⟩⟩
  case load =>
    have hkept := (fragsKept_endUnreserved s).trans (fragsKept_reserved _ (.scratch s.iss.ply A) (scratchEa A))
    exact ⟨_, slrD_own hd ha h hatomic, by rw [resv_reserved]; rfl, hkept.scratch, hkept.resv⟩
  case store =>
    have hcheck := checkOne_own_atomic h hatomic
    refine ⟨fun hresv => ?_, fun hresv => ?_⟩
    all_goals rw [← curFrag_endProtection s 10] at hresv
    · obtain ⟨hkept, hwrote⟩ := scrWrite_sscD h (sreg s b.toNat)
      have hrun := exec_sscD_reserved (b := b) hd ha hcheck (translateOne_sscD h) (writeHeld_endProtection hr 10) rfl hresv
      have hfrags := fragsKept_unreserved (scrWrite (endProtection s s.iss.ply 10) s.iss.ply A (bytesLE (sreg s b.toNat).toNat 8))
      refine ⟨_, hrun, fun k => ?_, fun q hq => ?_, hkept.home, resv_unreserved _, hkept.resv.trans hfrags.resv⟩
      · exact (congrArg (Mem.byte · k) (hfrags.scratch _)).trans (hwrote.word k)
      · exact (hfrags.scratch q).trans ((hwrote q).trans (if_neg hq))
    · have hkept := fragsKept_endUnreserved s
      exact ⟨_, exec_sscD_unreserved hd ha hcheck (translateOne_sscD h) (writeHeld_endProtection hr 10) rfl hresv, hkept.scratch,
        (bankSame_endProtection s s.iss.ply 10).1.home, resv_unreserved _, hkept.resv⟩

end Sys2Proof.Machine
end

section
/-! PROOF. BWAIT, BTRY, CTRY and their wakes (R205, R206, R244, R345). -/
namespace Sys2Proof.Machine

/-! ## Objects and acquires -/

theorem broken_of_odd {o : BarObj} (h : o.flags % 2 = 1) : o.broken = true := beq_iff_eq.2 h

theorem not_broken_of_even {o : BarObj} (h : o.flags % 2 = 0) : o.broken = false := by
  unfold BarObj.broken
  rw [h]
  rfl

/-- An operand's low 32 bits, with which a wait compares the phase (R205). -/
theorem bits_phase (v : W64) : bits v 0 32 = v.toNat % 2 ^ 32 := by
  rw [bits, Nat.shiftRight_zero]

theorem acquireIf_acqOne (s : State) (sc : BitVec 3) (l : BitVec 1) :
    acquireIf s (acqOne sc l) = if l = 1 then acquire s s.curCore sc.toNat 0 else s := by
  unfold acqOne
  split <;> rfl

theorem acquireReady_acqOne {s : State} {sc : BitVec 3} {l : BitVec 1} (h : l = 1 → canReplay s s.curCore sc.toNat 0 = true) :
    acquireReady s (acqOne sc l) = true := by
  unfold acqOne
  split
  · next hl => exact h hl
  · rfl

theorem acquireReady_acqOne_stop {s : State} {sc : BitVec 3} {l : BitVec 1} (hl : l = 1) (h : canReplay s s.curCore sc.toNat 0 = false) :
    acquireReady s (acqOne sc l) = false := by
  unfold acqOne
  rw [if_pos hl]
  exact h

/-- A pair of registers that lies in the file does not trap (R52). -/
theorem groupOk_pair {b : BitVec 8} (h : b.toNat ≤ 190) : groupOk b 2 = .ok () := by
  have hd : decide (b.toNat + 2 ≤ 192) = true := decide_eq_true (by omega)
  rw [groupOk, need, if_pos hd]

theorem State.curFrag_later (s : State) (e : Instr) : (s.later e).curFrag = s.curFrag := by
  obtain ⟨es, h⟩ := later_eq s e
  rw [h]
  rfl

/-! ## BWAIT and BTRY behind their operands -/

section
variable {a b : BitVec 8} {s : State} {x : Nat × Nat} (ha : isSource a) (hx : needObj s (sourceOf s a) [0] = .ok x) (sc : BitVec 3) (l : BitVec 1)
include ha hx

theorem exec_bwait (hb : isSource b) : exec (.bwait a b sc l) s = run s (do
    need (!(readObj s x.1 x.2).broken) (brokenBarrier 0)
    if (readObj s x.1 x.2).phase = bits (sourceOf s b) 0 32 then
      .error (.stay (s.modCurFrag (fun f => { f with wait := .bwait (sourceOf s a) (w32 (bits (sourceOf s b) 0 32)) (acqOne sc l) })))
    else do
      need (acquireReady s (acqOne sc l)) (hold s)
      .ok (acquireIf s (acqOne sc l))) := by
  change execBwait a b sc l s = _
  unfold execBwait
  rw [readS_bind s ha, readS_bind s hb, hx, ok_bind]

theorem exec_btry (hb : b.toNat ≤ 190) : exec (.btry a b sc l) s = run s (
    if (readObj s x.1 x.2).broken then .ok (setSreg s (b.toNat + 1) 2)
    else if (readObj s x.1 x.2).phase = bits (sreg s b.toNat) 0 32 then .ok (setSreg s (b.toNat + 1) 0)
    else do
      need (acquireReady s (acqOne sc l)) (hold s)
      .ok (acquireIf (setSreg s (b.toNat + 1) 1) (acqOne sc l))) := by
  change execBtry a b sc l s = _
  unfold execBtry
  rw [readS_bind s ha, groupOk_pair hb, ok_bind, hx, ok_bind]

theorem exec_bwait_broken (hb : isSource b) (hodd : (readObj s x.1 x.2).flags % 2 = 1) :
    exec (.bwait a b sc l) s = .next (takeTrap s { cause := 9 }) := by
  rw [exec_bwait ha hx sc l hb, broken_of_odd hodd]
  rfl

theorem exec_bwait_parks (hb : isSource b) (heven : (readObj s x.1 x.2).flags % 2 = 0)
    (hph : (readObj s x.1 x.2).phase = (sourceOf s b).toNat % 2 ^ 32) : exec (.bwait a b sc l) s = .next (halt (s.modCurFrag (fun f =>
      { f with wait := .bwait (sourceOf s a) (BitVec.ofNat 32 ((sourceOf s b).toNat % 2 ^ 32)) (acqOne sc l) }))) := by
  rw [exec_bwait ha hx sc l hb, not_broken_of_even heven, bits_phase, if_pos hph]
  rfl

theorem exec_bwait_past (hb : isSource b) (heven : (readObj s x.1 x.2).flags % 2 = 0)
    (hph : (readObj s x.1 x.2).phase ≠ (sourceOf s b).toNat % 2 ^ 32) (hacq : l = 1 → canReplay s s.curCore sc.toNat 0 = true) :
    exec (.bwait a b sc l) s = .next (advance (if l = 1 then acquire s s.curCore sc.toNat 0 else s)) := by
  rw [exec_bwait ha hx sc l hb, not_broken_of_even heven, bits_phase, if_neg hph, acquireReady_acqOne hacq, acquireIf_acqOne]
  rfl

theorem exec_btry_broken (hb : b.toNat ≤ 190) (hodd : (readObj s x.1 x.2).flags % 2 = 1) :
    exec (.btry a b sc l) s = .next (advance (setSreg s (b.toNat + 1) 2)) := by
  rw [exec_btry ha hx sc l hb, broken_of_odd hodd]
  rfl

theorem exec_btry_same (hb : b.toNat ≤ 190) (heven : (readObj s x.1 x.2).flags % 2 = 0)
    (hph : (readObj s x.1 x.2).phase = (sreg s b.toNat).toNat % 2 ^ 32) :
    exec (.btry a b sc l) s = .next (advance (setSreg s (b.toNat + 1) 0)) := by
  rw [exec_btry ha hx sc l hb, not_broken_of_even heven, bits_phase, if_pos hph]
  rfl

theorem exec_btry_past (hb : b.toNat ≤ 190) (heven : (readObj s x.1 x.2).flags % 2 = 0)
    (hph : (readObj s x.1 x.2).phase ≠ (sreg s b.toNat).toNat % 2 ^ 32) (hacq : l = 1 → canReplay s s.curCore sc.toNat 0 = true) :
    exec (.btry a b sc l) s = .next (advance (acquireIf (setSreg s (b.toNat + 1) 1) (acqOne sc l))) := by
  rw [exec_btry ha hx sc l hb, not_broken_of_even heven, bits_phase, if_neg hph, acquireReady_acqOne hacq]
  rfl

end

/-! ## The wakes -/

/-- What a read of its counter leads a parked CTRY to, by what the read gives and whether there is time left (R206). -/
def afterReread (early : Prop) [Decidable early] (t : State) (d : BitVec 8) (acq : Option Nat) : Option Bool → State
  | some true => ctryMeet t d acq
  | some false => if early then t else ctryEnd t d.toNat acq false
  | none => t

/-- A fragment whose ply is on a core and whose strand is at the trap level in no other fragment may wake (R345). -/
theorem mayWake_focus {s : State} {p k f : Nat} (hres : (s.ply p).resident = true)
    (htrap : ((s.ply p).strand k).trapped = true → ((s.ply p).strand k).trap.frag = f) : mayWake (focus s p k f) = true := by
  change ((s.ply p).resident && !(((s.ply p).strand k).trapped && ((s.ply p).strand k).trap.frag != f)) = true
  rw [hres]
  cases ht : ((s.ply p).strand k).trapped with
  | false => rfl
  | true => simp [htrap ht]

section
variable {p k f : Nat} {s : State} (hlive : s.liveFrag p k f = true)
include hlive

theorem exec_bwaitWake {obj : W64} {ph : W32} {acq : Option Nat} {q o : Nat} (hwait : (s.fragOf p k f).wait = .bwait obj ph acq)
    (hwake : mayWake (focus s p k f) = true) (hready : acquireReady (focus s p k f) acq = true) (hobj : scratchOf s p obj = some (q, o)) :
    exec (.bwaitWake p k f) s =
      if (readObj s q o).broken then .next (takeTrap ((focus s p k f).modCurFrag (fun x => { x with wait := .none })) { cause := 9 })
      else if (readObj s q o).phase = ph.toNat then .next s
      else .next (advance ((acquireIf (focus s p k f) acq).modCurFrag (fun x => { x with wait := .none }))) := by
  change execBwaitWake p k f s = _
  have hscr : scratchOf (focus s p k f) p obj = some (q, o) := hobj
  unfold execBwaitWake
  simp only [if_pos hlive, hwait, hwake, hready, hscr]
  rfl

theorem exec_ctryReread {ptr thr : W64} {d : BitVec 8} {acq : Option Nat} {dl : Nat} (hwait : (s.fragOf p k f).wait = .ctry ptr thr d acq dl)
    (hwake : mayWake (focus s p k f) = true) {r : Option Bool} {t : State} (htry : tryCounter (focus s p k f) ptr thr = .ok (r, t)) :
    exec (.ctryReread p k f) s = .next (afterReread (s.clock < dl) t d acq r) := by
  change execCtryReread p k f s = _
  unfold execCtryReread
  simp only [if_pos hlive, hwait, hwake, htry, ok_bind]
  cases r with
  | none => rfl
  | some v => cases v <;> rfl

theorem exec_ctryReread_met {d : BitVec 8} {acq : Option Nat} (hwait : (s.fragOf p k f).wait = .ctryMet d acq)
    (hwake : mayWake (focus s p k f) = true) : exec (.ctryReread p k f) s = .next (ctryMeet (focus s p k f) d acq) := by
  change execCtryReread p k f s = _
  unfold execCtryReread
  simp only [if_pos hlive, hwait, hwake, if_true]

theorem exec_ctryTimeout {ptr thr : W64} {d : BitVec 8} {acq : Option Nat} {dl : Nat} (hwait : (s.fragOf p k f).wait = .ctry ptr thr d acq dl)
    (hwake : mayWake (focus s p k f) = true) (hdue : dl ≤ s.clock) : exec (.ctryTimeout p k f) s =
      .next (if readUnderWay s p k f then s else ctryEnd (focus s p k f) d.toNat acq false) := by
  have hlt : decide (s.clock < dl) = false := decide_eq_false (by omega)
  change execCtryTimeout p k f s = _
  unfold execCtryTimeout
  simp only [if_pos hlive, hwait, hwake, hlt, Bool.not_true, Bool.false_or]
  split <;> rfl

end

theorem ctryMeet_ready {s : State} {acq : Option Nat} (h : acquireReady s acq = true) (d : BitVec 8) : ctryMeet s d acq =
    advance ((acquireIf (setSreg s d.toNat 1) acq).modCurFrag (fun x => { x with wait := .none })) := by
  rw [ctryMeet, if_pos h]
  rfl

theorem ctryMeet_waits {s : State} {acq : Option Nat} (h : acquireReady s acq = false) (d : BitVec 8) :
    ctryMeet s d acq = s.modCurFrag (fun f => { f with wait := .ctryMet d acq }) := by
  rw [ctryMeet, h]
  rfl

/-! ## CTRY -/

section
variable {a b : BitVec 8} {s t : State} (ha : isSource a) (hb : b.toNat ≤ 190) (sc : BitVec 3) (l : BitVec 1)
include ha hb

theorem exec_ctry {r : Option Bool} (htry : tryCounter s (sourceOf s a) (sreg s b.toNat) = .ok (r, t)) : exec (.ctry a b sc l) s = runTo s (
    if r = some true then do
      need (acquireReady t (acqOne sc l)) (hold t)
      .ok (ctryEnd t (b.toNat + 1) (acqOne sc l) true)
    else
      .error (.stay ((t.modCurFrag (fun f => { f with
        wait := .ctry (sourceOf s a) (sreg s b.toNat) (BitVec.ofNat 8 (b.toNat + 1)) (acqOne sc l) (t.clock + 2048) })).later
          (.ctryReread t.iss.ply t.iss.strand t.iss.frag)))) := by
  change execCtry a b sc l s = _
  unfold execCtry
  rw [readS_bind s ha, groupOk_pair hb, ok_bind]
  simp only [htry, ok_bind]

theorem exec_ctry_met (htry : tryCounter s (sourceOf s a) (sreg s b.toNat) = .ok (some true, t))
    (hacq : l = 1 → canReplay t t.curCore sc.toNat 0 = true) : exec (.ctry a b sc l) s = .next (advance
      ((acquireIf (setSreg t (b.toNat + 1) 1) (acqOne sc l)).modCurFrag (fun f => { f with wait := .none }))) := by
  rw [exec_ctry ha hb sc l htry, if_pos rfl, acquireReady_acqOne hacq]
  rfl

theorem exec_ctry_held (htry : tryCounter s (sourceOf s a) (sreg s b.toNat) = .ok (some true, t)) (hl : l = 1)
    (hacq : canReplay t t.curCore sc.toNat 0 = false) :
    exec (.ctry a b sc l) s = .next (halt (t.modCurFrag (fun f => { f with wait := .held }))) := by
  rw [exec_ctry ha hb sc l htry, if_pos rfl, acquireReady_acqOne_stop hl hacq]
  rfl

theorem exec_ctry_parks {r : Option Bool} (htry : tryCounter s (sourceOf s a) (sreg s b.toNat) = .ok (r, t)) (hr : r ≠ some true) :
    ∃ u, exec (.ctry a b sc l) s = .next (halt u) ∧ .ctryReread t.iss.ply t.iss.strand t.iss.frag ∈ u.engine ∧
      u.curFrag.wait = .ctry (sourceOf s a) (sreg s b.toNat) (BitVec.ofNat 8 (b.toNat + 1)) (acqOne sc l) (t.clock + 2048) := by
  rw [exec_ctry ha hb sc l htry, if_neg hr]
  refine ⟨_, rfl, mem_later _ _, ?_⟩
  rw [State.curFrag_later, State.curFrag_modCurFrag]

end

/-- Settles O49: each instruction and each wake by the object or the counter that it reads. -/
theorem waitResults : Obligations.WaitResults := by
  unfold Obligations.WaitResults
  refine ⟨fun a b sc l s x ha hb hx => ⟨exec_bwait_broken ha hx sc l hb, exec_bwait_parks ha hx sc l hb, exec_bwait_past ha hx sc l hb⟩,
    fun a b sc l s x ha hb hx => ⟨exec_btry_broken ha hx sc l hb, exec_btry_same ha hx sc l hb, exec_btry_past ha hx sc l hb⟩,
    fun p k f q o obj ph acq s hlive hwait hres htrap hobj hready => ?bwaitWake,
    fun a b sc l s t r ha hb htry => ⟨?ctryMet, ?ctryHeld, exec_ctry_parks ha hb sc l htry⟩,
    fun p k f dl ptr thr d acq s hlive hwait hwake => ?ctryReread,
    fun p k f d acq s hlive hwait hwake hready => by rw [exec_ctryReread_met hlive hwait hwake, ctryMeet_ready hready]⟩
  case bwaitWake =>
    have hexec := exec_bwaitWake hlive hwait (mayWake_focus hres htrap) hready hobj
    refine ⟨fun hodd => by rw [hexec, if_pos (broken_of_odd hodd)], fun heven hph => ?_⟩
    rw [hexec, not_broken_of_even heven, if_neg Bool.false_ne_true, if_neg hph]
  case ctryMet =>
    rintro rfl hacq
    exact exec_ctry_met ha hb sc l htry hacq
  case ctryHeld =>
    rintro rfl hl hacq
    exact exec_ctry_held ha hb sc l htry hl hacq
  case ctryReread =>
    refine ⟨fun t hready htry => ?_, fun t hready htry => ?_, fun t htry => ⟨fun hlt => ?_, fun hdue => ?_⟩,
      fun t htry => exec_ctryReread hlive hwait hwake htry, fun hdue hread => ?_, fun hdue hread => ?_⟩
    · rw [exec_ctryReread hlive hwait hwake htry, afterReread, ctryMeet_ready hready]
    · rw [exec_ctryReread hlive hwait hwake htry, afterReread, ctryMeet_waits hready]
    · rw [exec_ctryReread hlive hwait hwake htry, afterReread, if_pos hlt]
    · rw [exec_ctryReread hlive hwait hwake htry, afterReread, if_neg (by omega)]
      rfl
    · rw [exec_ctryTimeout hlive hwait hwake hdue, hread]
      rfl
    · rw [exec_ctryTimeout hlive hwait hwake hdue, hread]
      rfl

end Sys2Proof.Machine
end

section
/-! PROOF. Reads and writes at the homes (R10, R365), records (R361, R389) and table walks (R258) leave the platform's tables: of what the platform
holds they count traffic and send messages. -/
namespace Sys2Proof.Machine

/-- The platform without the traffic that it counts and the messages that have gone out. -/
def State.board (s : State) : Platform := { s.plat with traffic := [], out := [] }

theorem reqs_of_board {s t : State} (h : t.board = s.board) : t.plat.reqs = s.plat.reqs := by
  change t.board.reqs = s.board.reqs
  rw [h]

theorem hostDone_of_board {s t : State} (h : t.board = s.board) : t.plat.hostDone = s.plat.hostDone := by
  change t.board.hostDone = s.board.hostDone
  rw [h]

theorem board_foldl {α : Type} {f : State → α → State} (h : ∀ s x, (f s x).board = s.board) (l : List α) : ∀ s, (l.foldl f s).board = s.board := by
  induction l with
  | nil => exact fun _ => rfl
  | cons x l ih => exact fun s => (ih _).trans (h s x)

@[simp] theorem board_modPf0 (s : State) (f : Pf0 → Pf0) : (s.modPf0 f).board = s.board := rfl
@[simp] theorem board_modDie (s : State) (d : Nat) (f : Die → Die) : (s.modDie d f).board = s.board := rfl
@[simp] theorem board_modVdev (s : State) (v : Nat) (f : VDev → VDev) : (s.modVdev v f).board = s.board := rfl
@[simp] theorem board_modCore (s : State) (c : Nat) (f : Core → Core) : (s.modCore c f).board = s.board := rfl
@[simp] theorem board_modReel (s : State) (r : Nat) (f : Reel → Reel) : (s.modReel r f).board = s.board := rfl
@[simp] theorem board_send (s : State) (o : Out) : (s.send o).board = s.board := rfl
@[simp] theorem board_urgent (s : State) (e : Instr) : (s.urgent e).board = s.board := rfl
@[simp] theorem board_later (s : State) (e : Instr) : (s.later e).board = s.board := by rw [State.board, State.later_plat]; rfl

/-! ## Notes of errors -/

@[simp] theorem board_noteInjection (s : State) (r : ErrRec) (n : Nat) : (noteInjection s r n).board = s.board := by
  unfold noteInjection
  split
  · split <;> rfl
  · rfl

@[simp] theorem board_writePackageRecord (s : State) (r : ErrRec) (about : Option Nat) : (writePackageRecord s r about).board = s.board :=
  board_noteInjection s r _

@[simp] theorem board_addRemapAt (s : State) (kind die place spare : Nat) (pend : Bool) :
    (addRemapAt s kind die place spare pend).1.board = s.board := by
  unfold addRemapAt
  dsimp only
  split <;> rfl

@[simp] theorem board_addRemap (s : State) (kind die place spare : Nat) : (addRemap s kind die place spare).1.board = s.board :=
  board_addRemapAt s kind die place spare false

@[simp] theorem board_noteDouble (s : State) (d kind place n : Nat) : (noteDouble s d kind place n).1.board = s.board := by
  unfold noteDouble
  dsimp only
  split <;> rfl

@[simp] theorem board_dropFlips (s : State) (hit : Flip → Bool) : (dropFlips s hit).board = s.board := by
  unfold dropFlips
  dsimp only
  split <;> rfl

theorem board_takeFlip {s t : State} {hit : Flip → Bool} {what : Flip → Nat × Nat} {f : Flip} (h : takeFlip s hit what = some (f, t)) :
    t.board = s.board := by
  unfold takeFlip at h
  split at h
  · cases h
    split <;> rfl
  · cases h

@[simp] theorem board_countHome (s : State) (pa : Nat) : (countHome s pa).board = s.board := by
  unfold countHome
  split <;> rfl

@[simp] theorem board_doubleInRow (s : State) (d kind row : Nat) : (doubleInRow s d kind row).board = s.board := by
  unfold doubleInRow
  dsimp only
  generalize (if kind = 4 then Config.hbmSpareRows d else 64) = spares
  split
  · rfl
  · split
    · split
      all_goals
        next t h =>
        have ht := congrArg (fun r => r.1.board) h
        simpa using ht.symm
    · simp

/-! ## Sectors are found, filled and dropped -/

@[simp] theorem board_writeBack (s : State) (sec : Nat) : (writeBack s sec).board = s.board := by
  unfold writeBack
  split
  · split <;> rfl
  · rfl

@[simp] theorem board_l2Drop (s : State) (sec : Nat) : (l2Drop s sec).board = s.board := by
  unfold l2Drop
  split <;> rfl

@[simp] theorem board_detectL2 (s : State) (sec : Nat) : (detectL2 s sec).1.board = s.board := by
  unfold detectL2
  split
  · rfl
  · split
    · rfl
    · next f t ht =>
      have hst := board_takeFlip ht
      dsimp only
      split
      · exact hst
      · split
        · exact hst
        · exact (board_l2Drop t sec).trans hst

@[simp] theorem board_retireWay (s : State) (sl way : Nat) : (retireWay s sl way).board = s.board := by
  have hfold := board_foldl (f := l2Leave) (fun s sec => by simp [l2Leave]) ((slicePresent s sl).filter (fun e => Config.l2Way e % 32 == way)) s
  unfold retireWay
  dsimp only
  refine Eq.trans ?_ hfold
  split
  · simp
  · split <;> simp

@[simp] theorem board_doubleInWay (s : State) (sec : Nat) : (doubleInWay s sec).board = s.board := by
  unfold doubleInWay
  dsimp only
  split <;> simp

@[simp] theorem board_detectL2_doubleInWay (s : State) (sec : Nat) :
    (if (detectL2 s sec).2 then doubleInWay (detectL2 s sec).1 sec else (detectL2 s sec).1).board = s.board := by
  split <;> simp

@[simp] theorem board_l2Clean (s : State) (sec : Nat) : (l2Clean s sec).board = s.board :=
  (board_writeBack _ sec).trans (board_detectL2_doubleInWay s sec)

@[simp] theorem board_detectHome (s : State) (sec : Nat) : (detectHome s sec).board = s.board := by
  unfold detectHome
  dsimp only
  refine Eq.trans ?_ (board_detectL2_doubleInWay s sec)
  generalize (if (detectL2 s sec).2 then doubleInWay (detectL2 s sec).1 sec else (detectL2 s sec).1) = r
  split
  · rfl
  · split
    · next f t ht =>
      have hrt := board_takeFlip ht
      split
      · exact hrt
      · exact (board_doubleInRow _ _ _ _).trans hrt
    · rfl

@[simp] theorem board_l2Fill (s : State) (sec prio : Nat) : (l2Fill s sec prio).board = s.board := by
  unfold l2Fill
  split
  · rfl
  · dsimp only
    refine (board_dropFlips _ _).trans ?_
    split
    · rfl
    · split
      · exact (board_l2Drop _ _).trans (board_l2Clean _ _)
      · rfl

@[simp] theorem board_homeTouch (s : State) (pa pol : Nat) : (homeTouch s pa pol).board = s.board := by
  unfold homeTouch
  dsimp only
  split <;> simp

/-! ## Writes at the homes, and records -/

theorem board_homeWrote (s : State) (sec pol : Nat) (whole : Bool) : (homeWrote s sec pol whole).board = s.board := by
  have hclear : (clearWritten s sec whole).board = s.board := by
    unfold clearWritten
    split
    · exact (board_dropFlips _ _).trans (board_countHome s _)
    · exact board_countHome s _
  rw [homeWrote_eq]
  change (markWritten (clearWritten s sec whole) sec pol).board = _
  refine Eq.trans ?_ hclear
  unfold markWritten
  split
  · rfl
  · exact board_l2Fill _ sec _

theorem board_readUnder (s : State) (sec : Nat) (whole : Bool) : (readUnder s sec whole).board = s.board := by
  unfold readUnder
  split <;> simp

theorem board_homeWriteIn (s : State) (pa pol : Nat) (b : Bytes) : (homeWriteIn s pa pol b).board = s.board :=
  (board_homeWrote _ _ _ _).trans (board_readUnder s _ _)

theorem board_homeWriteAll (pol fuel : Nat) : ∀ (s : State) (pa : Nat) (b : Bytes), (homeWriteAll s pa pol b fuel).board = s.board := by
  induction fuel with
  | zero => exact fun _ _ _ => rfl
  | succ fuel ih =>
    intro s pa b
    unfold homeWriteAll
    split
    · rfl
    · exact (ih _ _ _).trans (board_homeWriteIn s pa pol _)

theorem board_homeWrite (s : State) (pa : Nat) (b : Bytes) : (homeWrite s pa b).board = s.board := board_homeWriteAll 0 _ s pa b

theorem board_homeDrain (s : State) (sec pol : Nat) (c : Tab (Byte × Byte)) (poison : Bool) : (homeDrain s sec pol c poison).board = s.board := by
  have hcells : (drainCells s sec pol c).board = s.board := (board_homeWrote _ _ _ _).trans (board_readUnder s _ _)
  rw [← hcells]
  unfold homeDrain drainCells
  dsimp only
  split
  · split <;> rfl
  · rfl

theorem board_writeRecord (s : State) (r : ErrRec) : (writeRecord s r).board = s.board := by
  have hsent : ∀ (t : State) f v, (msixVdev (t.modVdev v f) v 0).board = t.board := fun _ _ _ => rfl
  unfold writeRecord
  dsimp only
  split
  · rfl
  · split
    · exact board_noteInjection _ _ _
    · rw [hsent, board_homeWrite, board_homeWrite]
      exact board_noteInjection _ _ _

/-! ## Table walks -/

theorem board_touchBuckets (v : VDev) (vn k vpn h n : Nat) : ∀ (s : State) (j : Nat), (touchBuckets s v vn k vpn h j n).1.board = s.board := by
  induction n with
  | zero => exact fun _ _ => rfl
  | succ n ih =>
    intro s j
    unfold touchBuckets
    dsimp only
    split
    · exact (ih _ _).trans (board_homeTouch s _ 0)
    · exact board_homeTouch s _ 0

theorem board_touchSizes (v : VDev) (vn va k : Nat) : ∀ s : State, (touchSizes s v vn va k).board = s.board := by
  induction k with
  | zero => exact fun _ => rfl
  | succ k ih =>
    intro s
    unfold touchSizes
    dsimp only
    split
    · split
      · exact board_touchBuckets _ _ _ _ _ _ s 0
      · exact (ih _).trans (board_touchBuckets _ _ _ _ _ _ s 0)
    · exact ih s

theorem board_walkTouch (s : State) (vn va : Nat) : (walkTouch s vn va).board = s.board := board_touchSizes _ vn va 16 s

theorem board_touchRank (s : State) (reel rank : Nat) : (touchRank s reel rank).board = s.board := by
  unfold touchRank
  dsimp only
  split
  · rfl
  · split
    · exact (board_homeTouch _ _ 0).trans (board_walkTouch s _ _)
    · exact board_walkTouch s _ _

end Sys2Proof.Machine
end

section
/-! PROOF. What a release leaves of its core's log (R240, R241): no ordinary entry unpublished, and at die scope and wider none at all. -/
namespace Sys2Proof.Machine

/-! ## What releases wait for, and what pins sectors -/

/-- Nothing pins a sector of the core's L1. -/
def Core.Unpinned (x : Core) : Prop := ∀ l ∈ x.l1, l.2.pins = []

/-- Releases under way stay as far as they have come: no request comes back, and a new one has a new number; no sector is pinned that was not. -/
structure Awaits (s t : State) : Prop where
  fresh : s.fresh ≤ t.fresh
  reqs : ∀ r ∈ t.plat.reqs, (∃ q ∈ s.plat.reqs, q.id = r.id) ∨ s.fresh ≤ r.id
  done : t.plat.hostDone = s.plat.hostDone
  fences : ∀ c, (t.core c).fences = (s.core c).fences
  pins : ∀ c, (s.core c).Unpinned → (t.core c).Unpinned

theorem Awaits.refl (s : State) : Awaits s s := ⟨Nat.le_refl _, fun r hr => .inl ⟨r, hr, rfl⟩, rfl, fun _ => rfl, fun _ => id⟩

theorem Awaits.trans {s t u : State} (h : Awaits s t) (k : Awaits t u) : Awaits s u := by
  refine ⟨Nat.le_trans h.fresh k.fresh, fun r hr => ?_, k.done.trans h.done, fun c => (k.fences c).trans (h.fences c), fun c => k.pins c ∘ h.pins c⟩
  rcases k.reqs r hr with ⟨q, hq, hid⟩ | hnew
  · rw [← hid]
    exact h.reqs q hq
  · exact .inr (Nat.le_trans h.fresh hnew)

theorem Awaits.foldl {α : Type} {f : State → α → State} (h : ∀ s x, Awaits s (f s x)) (l : List α) : ∀ s, Awaits s (l.foldl f s) := by
  induction l with
  | nil => exact Awaits.refl
  | cons x l ih => exact fun s => (h s x).trans (ih _)

/-- Cores change outside their releases and pins. -/
theorem Awaits.of_board {s t : State} (hb : t.board = s.board) (hf : s.fresh ≤ t.fresh)
    (hc : ∀ c, (t.core c).fences = (s.core c).fences ∧ ((s.core c).Unpinned → (t.core c).Unpinned)) : Awaits s t :=
  ⟨hf, fun r hr => .inl ⟨r, reqs_of_board hb ▸ hr, rfl⟩, hostDone_of_board hb, fun c => (hc c).1, fun c => (hc c).2⟩

theorem Awaits.of_cores {s t : State} (hb : t.board = s.board) (hf : s.fresh ≤ t.fresh) (hc : t.cores = s.cores) : Awaits s t :=
  .of_board hb hf fun c => by rw [core_of_cores hc]; exact ⟨rfl, id⟩

theorem Awaits.modCore (s : State) (c : Nat) {f : Core → Core} (hf : (f (s.core c)).fences = (s.core c).fences)
    (hp : (s.core c).Unpinned → (f (s.core c)).Unpinned) : Awaits s (s.modCore c f) := by
  refine .of_board rfl (Nat.le_refl _) fun d => ?_
  rw [State.core_modCore_eq]
  split
  · next hd => subst hd; exact ⟨hf, hp⟩
  · exact ⟨rfl, id⟩

/-- A change of a core's log alone. -/
theorem Awaits.modCore_log (s : State) (c : Nat) {f : Core → Core} (hf : (f (s.core c)).fences = (s.core c).fences)
    (hl : (f (s.core c)).l1 = (s.core c).l1) : Awaits s (s.modCore c f) :=
  .modCore s c hf fun h => by unfold Core.Unpinned; rwa [hl]

/-- A release that is performed stays so. -/
theorem Awaits.met {s t : State} (h : Awaits s t) {f : Fence} (hreqs : ∀ i ∈ f.reqs, i < s.fresh) (hmet : f.met s = true) : f.met t = true := by
  unfold Fence.met at hmet ⊢
  rw [Bool.and_eq_true] at hmet ⊢
  rw [h.done]
  refine ⟨List.all_eq_true.2 fun i hi => ?_, hmet.2⟩
  have hnone := List.all_eq_true.1 hmet.1 i hi
  simp only [Bool.not_eq_true', List.any_eq_false, beq_iff_eq] at hnone ⊢
  intro r hr hid
  rcases h.reqs r hr with ⟨q, hq, hqid⟩ | hnew
  · exact hnone q hq (hqid.trans hid)
  · have hlt := hreqs i hi
    omega

/-- No entry of a core waits behind a release while all of its releases are performed. -/
theorem fenced_met {s : State} {c : Nat} (h : ∀ f ∈ (s.core c).fences, f.met s = true) (n : Nat) : fenced s c n = false := by
  unfold fenced
  rw [List.any_eq_false]
  intro f hf
  simp [h f hf]

/-! ## Drains -/

theorem awaits_seeEntry (s : State) (c : Nat) (e : LogEntry) : Awaits s (seeEntry s c e) := by
  have hfire : Awaits s (if e.injected then fireInjection s 6 (if e.bad then 5 else 1) else s) := by
    split
    · exact .of_cores rfl (Nat.le_refl _) rfl
    · exact .refl s
  unfold seeEntry
  split
  · exact .refl s
  · exact hfire.trans (.modCore_log _ c rfl rfl)

theorem awaits_failedStore (s : State) (p cls cause : Nat) (owner : ErrRec) : Awaits s (failedStore s p cls cause owner) := by
  refine .of_cores ?_ (formKept_failedStore s p cls cause owner).fresh (cores_failedStore s p cls cause owner)
  unfold failedStore
  split
  · rfl
  · exact board_writeRecord s _

theorem awaits_readEntry (s : State) (c : Nat) (e : LogEntry) : Awaits s (if e.bad then entryError (seeEntry s c e) e else seeEntry s c e) := by
  split
  · exact (awaits_seeEntry s c e).trans (awaits_failedStore _ _ _ _ _)
  · exact awaits_seeEntry s c e

theorem awaits_homeDrain (s : State) (sec pol : Nat) (c : Tab (Byte × Byte)) (poison : Bool) : Awaits s (homeDrain s sec pol c poison) :=
  .of_cores (board_homeDrain s sec pol c poison) (formKept_homeDrain s sec pol c poison).fresh (cores_of_offPlies (offPlies_homeDrain s sec pol c poison))

/-- A request takes the next number. -/
theorem awaits_ask (s : State) (w : Who) (v : Nat) (a : Ask) (link : Option Nat) : Awaits s (ask s w v a link) := by
  refine ⟨Nat.le_succ _, fun r hr => ?_, rfl, fun _ => rfl, fun _ => id⟩
  rcases List.mem_append.1 hr with hold | hnew
  · exact .inl ⟨r, hold, rfl⟩
  · rw [List.mem_singleton.1 hnew]
    exact .inr (Nat.le_refl _)

theorem awaits_holdInbound {s t : State} {v : Nat} {e : Instr} (h : holdInbound s v e = some t) : Awaits s t := by
  have hkept := (FormKept.of_kept (kept_holdInbound h)).fresh
  refine .of_cores ?_ hkept (cores_holdInbound h)
  unfold holdInbound at h
  split at h
  · rw [← Option.some.inj h]
    unfold wakeDevice
    split <;> simp
  · cases h

theorem awaits_walkTouch (s : State) (v va : Nat) : Awaits s (walkTouch s v va) :=
  .of_cores (board_walkTouch s v va) (homesKept_walkTouch s v va).fresh (cores_of_work (work_walkTouch s v va))

theorem awaits_sendPeerStore (s : State) (c : Nat) (e : LogEntry) (mate : Option LogEntry) (rank : Nat) :
    Awaits s (sendPeerStore s c e mate rank) := by
  have htouch : Awaits s (touchRank (countFor s e.vdev) (s.ply e.ply).reel rank) :=
    .of_cores (board_touchRank _ _ _) (homesKept_touchRank (countFor s e.vdev) _ _).fresh (cores_of_work (work_touchRank _ _ _))
  unfold sendPeerStore
  dsimp only
  refine htouch.trans ?_
  generalize touchRank (countFor s e.vdev) (s.ply e.ply).reel rank = r
  split
  · exact awaits_failedStore r _ _ _ _
  · split
    · split
      · next t ht => exact (awaits_holdInbound (t := t) ht).trans (awaits_ask t _ _ _ _)
      · split
        · split
          · exact (awaits_walkTouch r _ _).trans (Awaits.foldl (fun _ _ => awaits_homeDrain _ _ _ _ _) _ _)
          · exact (awaits_walkTouch r _ _).trans (awaits_failedStore _ _ _ _ _)
        · exact awaits_failedStore r _ _ _ _
    · split
      · exact awaits_failedStore r _ _ _ _
      · exact Awaits.trans (t := r.send _) (.of_cores rfl (Nat.le_refl _) rfl) (awaits_ask _ _ _ _ _)

theorem awaits_dropL1 (s : State) (c key : Nat) : Awaits s (dropL1 s c key) := by
  have hdropped : Awaits s (if key % 4 = 2 then s.modCore c (fun x => { x with dropped := s.fresh }) else s) := by
    split
    · exact .modCore_log s c rfl rfl
    · exact .refl s
  unfold dropL1
  dsimp only
  generalize (if key % 4 = 2 then s.modCore c (fun x => { x with dropped := s.fresh }) else s) = r at hdropped
  split
  · split
    · exact hdropped.trans (.modCore r c rfl fun h l hl => h l (List.mem_filter.1 hl).1)
    · exact hdropped
  · exact hdropped

theorem awaits_updateL1 (s : State) (c pa n : Nat) : Awaits s (updateL1 s c pa n) := by
  unfold updateL1
  dsimp only
  split
  · exact .refl s
  · next l hl =>
    split
    · exact awaits_dropL1 s c _
    · next hpins => exact .modCore s c rfl fun h => absurd (h _ (Tab.mem_of_find hl)) hpins

theorem awaits_unpin (s : State) (c n : Nat) : Awaits s (unpin s c n) := by
  refine .of_board rfl (Nat.le_refl _) fun d => ⟨Tab.proj_get_map Core.fences (by intro _; rfl) {} s.cores d, fun h => ?_⟩
  have hl1 : ((unpin s c n).core d).l1 = (s.core d).l1 ∨ ((unpin s c n).core d).l1 = unpinL1 s (c, n) (s.core d).l1 := by
    rw [State.core, State.core, unpin, Tab.get, Tab.get, Tab.find_map]
    cases Tab.find d s.cores with
    | none => exact .inl rfl
    | some x => exact .inr rfl
  rcases hl1 with hl1 | hl1
  · unfold Core.Unpinned
    rwa [hl1]
  · have hnone : (s.core d).l1.any (fun l => l.2.pins.contains (c, n)) = false := by
      rw [List.any_eq_false]
      intro l hl
      simp [h l hl]
    unfold Core.Unpinned
    rwa [hl1, unpinL1, hnone]

theorem awaits_droppedRed (s : State) (o : RedOwner) : Awaits s (droppedRed s o) := by
  unfold droppedRed containLater
  dsimp only
  split
  · exact .of_cores rfl (Nat.le_refl _) rfl
  · exact Awaits.trans (.of_cores (board_writeRecord s _) (formKept_writeRecord s _).fresh (cores_writeRecord s _)) (.of_cores rfl (Nat.le_refl _) rfl)

theorem awaits_performRed (s : State) (r : RedOp) : Awaits s (performRed s r) := by
  have htouch : Awaits s (homeTouch { s with reds := s.reds.filter (fun q => q.id != r.id) } r.pa 0) :=
    .of_cores (board_homeTouch _ _ _) (homesKept_homeTouch { s with reds := s.reds.filter (fun q => q.id != r.id) } r.pa 0).fresh
      (cores_of_work (work_homeTouch _ _ _))
  unfold performRed
  dsimp only
  refine htouch.trans ?_
  split
  · exact Awaits.foldl awaits_droppedRed _ _
  · refine Awaits.trans (.of_cores (board_homeWriteIn _ _ _ _) (formKept_homeWriteIn _ _ _ _).fresh (cores_of_offPlies (offPlies_homeWriteIn _ _ _ _)))
      (Awaits.foldl (fun t o => ?_) _ _)
    split
    · exact awaits_updateL1 t _ _ _
    · exact .refl t

theorem awaits_performReds (s : State) (pick : RedOp → Bool) : Awaits s (performReds s pick) := Awaits.foldl awaits_performRed _ s

theorem awaits_forgetReads (s : State) (c : Nat) (e : LogEntry) : Awaits s (forgetReads s c e) := by
  refine ⟨(formKept_forgetReads s c e).fresh, fun r hr => .inl ⟨r, ?_, rfl⟩, ?_, fun d => by rw [core_of_cores (cores_forgetReads s c e)],
    fun d => by rw [core_of_cores (cores_forgetReads s c e)]; exact id⟩
  · revert hr
    unfold forgetReads
    split
    · exact id
    · exact fun hr => (List.mem_filter.1 hr).1
  · unfold forgetReads
    split <;> rfl

theorem awaits_leftLog (c : Nat) (t : State) (g : LogEntry) : Awaits t (leftLog c t g) := by
  have hgone := ((awaits_forgetReads t c g).trans (awaits_unpin _ c g.serial)).trans (awaits_dropL1 _ c g.key)
  have hmark : ∀ x : Core, (addMark x g.key).fences = x.fences ∧ (addMark x g.key).l1 = x.l1 := by
    intro x
    unfold addMark
    split
    · exact ⟨rfl, rfl⟩
    · split <;> exact ⟨rfl, rfl⟩
  unfold leftLog
  dsimp only
  split
  · exact hgone.trans (.modCore_log _ c (hmark _).1 (hmark _).2)
  · exact hgone

theorem awaits_drainRaw (s : State) (c : Nat) (e : LogEntry) : Awaits s (drainRaw s c e) := by
  have hread : Awaits s (readOut s c (drained s c e)) :=
    (Awaits.foldl (fun t g => awaits_readEntry t c g) _ s).trans (.modCore_log _ c rfl rfl)
  rw [drainRaw_eq]
  refine Awaits.trans ?_ (Awaits.foldl (awaits_leftLog c) _ _)
  cases e.space with
  | dev => exact (hread.trans (awaits_performReds _ _)).trans (awaits_homeDrain _ _ _ _ _)
  | host pasid => exact hread.trans ⟨Nat.le_refl _, fun r hr => .inl ⟨r, hr, rfl⟩, rfl, fun _ => rfl, fun _ => id⟩
  | peer rank => exact hread.trans (awaits_sendPeerStore _ _ _ _ _)

/-! ## Logs of other cores, and entries that only leave -/

theorem logs_readEntry_ne {s : State} {c d : Nat} (h : d ≠ c) (e : LogEntry) :
    (if e.bad then entryError (seeEntry s c e) e else seeEntry s c e).logs d = s.logs d := by
  have hsee : (seeEntry s c e).logs d = s.logs d := by
    have hfire : (if e.injected then fireInjection s 6 (if e.bad then 5 else 1) else s).core d = s.core d := by
      split <;> rfl
    unfold seeEntry
    split
    · rfl
    · dsimp only
      rw [State.logs, State.core_modCore_eq, if_neg h, hfire]
      rfl
  split
  · rw [entryError, logs_of_cores (cores_failedStore _ _ _ _ _), hsee]
  · exact hsee

theorem logs_readEntries_ne {c d : Nat} (h : d ≠ c) (es : List LogEntry) : ∀ s : State,
    (es.foldl (fun s g => if g.bad then entryError (seeEntry s c g) g else seeEntry s c g) s).logs d = s.logs d := by
  induction es with
  | nil => exact fun _ => rfl
  | cons e es ih => exact fun s => (ih _).trans (logs_readEntry_ne h e)

/-- A drain leaves the logs of the other cores. -/
theorem logs_drainRaw_ne {s : State} {c d : Nat} (h : d ≠ c) (e : LogEntry) : (drainRaw s c e).logs d = s.logs d := by
  have hread : (readOut s c (drained s c e)).logs d = s.logs d := by
    rw [readOut, State.logs, State.core_modCore_eq, if_neg h]
    exact logs_readEntries_ne h _ s
  rw [drainRaw_eq, logs_foldl (logs_leftLog c), ← hread]
  cases e.space with
  | dev => rw [logs_of_cores (cores_of_offPlies (offPlies_homeDrain _ _ _ _ _)), logs_performReds]
  | host pasid => rfl
  | peer rank => rw [logs_of_cores (cores_sendPeerStore _ _ _ _ _)]

theorem logs_drainRaw_subset (s : State) (c : Nat) (e : LogEntry) (d : Nat) : (drainRaw s c e).logs d ⊆ s.logs d := by
  intro g hg
  by_cases hd : d = c
  · subst hd
    exact ((mem_log_drainRaw s d e g).1 hg).1
  · rwa [logs_drainRaw_ne hd] at hg

theorem logs_foldl_subset {α : Type} {f : State → α → State} {d : Nat} (h : ∀ s x, (f s x).logs d ⊆ s.logs d) (l : List α) :
    ∀ s, (l.foldl f s).logs d ⊆ s.logs d := by
  induction l with
  | nil => exact fun _ => List.Subset.refl _
  | cons x l ih => exact fun s => List.Subset.trans (ih _) (h s x)

theorem logs_drainBehind_subset (d fuel : Nat) : ∀ (s : State) (c n : Nat), (drainBehind s c n fuel).logs d ⊆ s.logs d := by
  induction fuel with
  | zero => exact fun _ _ _ => List.Subset.refl _
  | succ fuel ih =>
    intro s c n
    unfold drainBehind
    split
    · exact List.Subset.refl _
    · split
      · exact List.Subset.refl _
      · next e _ _ =>
        have hfirst := logs_foldl_subset (d := d) (fun t (x : Nat × LogEntry) => ih t x.1 x.2.serial) (drainAfter s c e) s
        dsimp only
        split
        · exact hfirst
        · split
          · exact List.Subset.trans (logs_drainRaw_subset _ c _ d) hfirst
          · exact hfirst

theorem logs_drainEntry_subset (s : State) (c n d : Nat) : (drainEntry s c n).logs d ⊆ s.logs d := logs_drainBehind_subset d 64 s c n

/-! ## The order of publication (R240) -/

theorem mem_insertPub {x y : Nat × LogEntry} {l : List (Nat × LogEntry)} : y ∈ insertPub x l ↔ y = x ∨ y ∈ l := by
  induction l with
  | nil => simp [insertPub]
  | cons z l ih =>
    unfold insertPub
    split
    · rw [List.mem_cons, ih, List.mem_cons]
      exact or_left_comm
    · rw [List.mem_cons]

theorem mem_foldl_insertPub {y : Nat × LogEntry} (l : List (Nat × LogEntry)) : ∀ m : List (Nat × LogEntry),
    y ∈ l.foldl (fun l x => insertPub x l) m ↔ y ∈ l ∨ y ∈ m := by
  induction l with
  | nil => simp
  | cons x l ih =>
    intro m
    rw [List.foldl_cons, ih, mem_insertPub, List.mem_cons]
    tauto

theorem mem_publishedUpTo {s : State} {b hi : Nat} {x : Nat × LogEntry} :
    x ∈ publishedUpTo s b hi ↔ x.1 ∈ bayCores b ∧ x.2 ∈ s.logs x.1 ∧ x.2.pub.isSome = true ∧ x.2.pub.getD 0 ≤ hi := by
  obtain ⟨c, e⟩ := x
  unfold publishedUpTo
  dsimp only
  rw [mem_foldl_insertPub]
  simp only [List.mem_flatMap, List.mem_map, List.mem_filter, Bool.and_eq_true, decide_eq_true_eq, List.not_mem_nil, or_false, Prod.mk.injEq]
  constructor
  · rintro ⟨d, hd, g, ⟨hg, hpub⟩, rfl, rfl⟩
    exact ⟨hd, hg, hpub⟩
  · rintro ⟨hd, hg, hpub⟩
    exact ⟨c, hd, e, ⟨hg, hpub⟩, rfl, rfl⟩

/-- Entries in log order. -/
def InLogOrder (l : List (Nat × LogEntry)) : Prop := l.Pairwise (fun x y => x.2.serial ≤ y.2.serial)

theorem inLogOrder_insertPub {n : Nat} {x : Nat × LogEntry} (hx : x.2.pub = some n) {l : List (Nat × LogEntry)} (hl : ∀ y ∈ l, y.2.pub = some n)
    (h : InLogOrder l) : InLogOrder (insertPub x l) := by
  induction l with
  | nil => exact List.pairwise_singleton _ _
  | cons y l ih =>
    obtain ⟨hy, hrest⟩ := List.pairwise_cons.1 h
    have hbefore : pubBefore y.2 x.2 = decide (y.2.serial < x.2.serial) := by
      simp [pubBefore, hx, hl y List.mem_cons_self]
    unfold insertPub
    rw [hbefore]
    split
    · next hlt =>
      refine List.pairwise_cons.2 ⟨fun z hz => ?_, ih (fun z hz => hl z (List.mem_cons_of_mem _ hz)) hrest⟩
      rcases mem_insertPub.1 hz with rfl | hz
      · exact Nat.le_of_lt (of_decide_eq_true hlt)
      · exact hy z hz
    · next hge =>
      have hle : x.2.serial ≤ y.2.serial := by simpa using hge
      refine List.pairwise_cons.2 ⟨fun z hz => ?_, h⟩
      rcases List.mem_cons.1 hz with rfl | hz
      · exact hle
      · exact Nat.le_trans hle (hy z hz)

/-- Entries of one publication stand in log order. -/
theorem inLogOrder_publishedUpTo {s : State} {b hi n : Nat} (h : ∀ x ∈ publishedUpTo s b hi, x.2.pub = some n) : InLogOrder (publishedUpTo s b hi) := by
  have hall : ∀ l m : List (Nat × LogEntry), (∀ y ∈ l, y.2.pub = some n) → (∀ y ∈ m, y.2.pub = some n) → InLogOrder m →
      InLogOrder (l.foldl (fun l x => insertPub x l) m) := by
    intro l
    induction l with
    | nil => exact fun _ _ _ hm => hm
    | cons x l ih =>
      intro m hl hm hord
      have hx := hl x List.mem_cons_self
      refine ih _ (fun y hy => hl y (List.mem_cons_of_mem _ hy)) (fun y hy => ?_) (inLogOrder_insertPub hx hm hord)
      rcases mem_insertPub.1 hy with rfl | hy
      · exact hx
      · exact hm y hy
  refine hall _ [] (fun y hy => h y ?_) (fun _ hy => absurd hy List.not_mem_nil) List.Pairwise.nil
  exact (mem_foldl_insertPub _ []).2 (.inl hy)

/-! ## A bay whose one publication drains -/

/-- Core c has made its bay's one publication, n: its ordinary entries are those of it, and nothing holds a drain of them back. -/
structure OnePublication (t : State) (c n : Nat) : Prop where
  numbered : LogNumbered t
  own : ∀ e ∈ t.logs c, if e.held then e.pub = none else e.pub = some n
  others : ∀ d ∈ bayCores (coreBay c), d ≠ c → ∀ e ∈ t.logs d, e.pub = none
  unpinned : (t.core c).Unpinned
  met : ∀ f ∈ (t.core c).fences, (∀ i ∈ f.reqs, i < t.fresh) ∧ f.met t = true

theorem OnePublication.fenced {t : State} {c n : Nat} (h : OnePublication t c n) (k : Nat) : fenced t c k = false :=
  fenced_met (fun f hf => (h.met f hf).2) k

/-- A published entry of the bay is the core's own, and ordinary. -/
theorem OnePublication.of_published {t : State} {c n d : Nat} (h : OnePublication t c n) (hd : d ∈ bayCores (coreBay c)) {e : LogEntry}
    (he : e ∈ t.logs d) (hpub : e.pub.isSome = true) : d = c ∧ e.held = false ∧ e.pub = some n := by
  by_cases hdc : d = c
  · subst hdc
    have hown := h.own e he
    split at hown
    · rw [hown] at hpub
      cases hpub
    · next hheld => exact ⟨rfl, by simpa using hheld, hown⟩
  · rw [h.others d hd hdc e he] at hpub
    cases hpub

/-- With every ordinary entry of the core no older, nothing must be performed before an entry. -/
theorem OnePublication.drainAfter_first {t : State} {c n : Nat} (h : OnePublication t c n) {e : LogEntry} (he : e ∈ t.logs c)
    (hheld : e.held = false) (hfirst : ∀ g ∈ t.logs c, g.held = false → e.serial ≤ g.serial) : drainAfter t c e = [] := by
  have hpub : e.pub = some n := by simpa [hheld] using h.own e he
  have hpins : (Tab.get {} (t.core c).l1 e.key).pins = [] := by
    cases hf : Tab.find e.key (t.core c).l1 with
    | none => simp [Tab.get, hf]
    | some l =>
      have hl := h.unpinned _ (Tab.mem_of_find hf)
      simpa [Tab.get, hf] using hl
  unfold drainAfter
  dsimp only
  rw [hpins, List.filterMap_nil, List.append_nil, List.append_eq_nil_iff]
  constructor
  · split
    · rfl
    · refine List.filter_eq_nil_iff.2 fun x hx => ?_
      obtain ⟨hd, hlog, hsome, -⟩ := mem_publishedUpTo.1 hx
      obtain ⟨hxc, hxheld, hxpub⟩ := h.of_published hd hlog hsome
      rw [hxc] at hlog
      have hle := hfirst x.2 hlog hxheld
      simp [pubBefore, hpub, hxpub, hle]
  · rw [List.map_eq_nil_iff, List.filter_eq_nil_iff]
    intro g hg hgood
    simp only [Bool.and_eq_true, Bool.not_eq_true', decide_eq_true_eq] at hgood
    have hle := hfirst g hg hgood.1.1
    omega

theorem OnePublication.drainRaw {t : State} {c n : Nat} (h : OnePublication t c n) (e : LogEntry) : OnePublication (drainRaw t c e) c n := by
  have haw := awaits_drainRaw t c e
  refine ⟨(formKept_drainRaw t c e).logNumbered h.numbered, fun g hg => h.own g (logs_drainRaw_subset t c e c hg), fun d hd hdc g hg => ?_,
    haw.pins c h.unpinned, fun f hf => ?_⟩
  · exact h.others d hd hdc g (logs_drainRaw_subset t c e d hg)
  · rw [haw.fences] at hf
    obtain ⟨hreqs, hmet⟩ := h.met f hf
    exact ⟨fun i hi => Nat.lt_of_lt_of_le (hreqs i hi) haw.fresh, haw.met hreqs hmet⟩

/-- The oldest ordinary entry that is left drains: it leaves the log, and all else keeps its standing. -/
theorem OnePublication.drainEntry {t : State} {c n k : Nat} (h : OnePublication t c n)
    (hfirst : ∀ g ∈ t.logs c, g.held = false → k ≤ g.serial) :
    OnePublication (drainEntry t c k) c n ∧ ∀ g ∈ (Machine.drainEntry t c k).logs c, g.held = false → g.serial ≠ k := by
  cases hfind : (t.core c).log.find? (fun e => e.serial == k) with
  | none =>
    have hsame : Machine.drainEntry t c k = t := by
      change drainBehind t c k (63 + 1) = t
      rw [drainBehind, hfind]
    rw [hsame]
    exact ⟨h, fun g hg _ hk => absurd (List.find?_eq_none.1 hfind g hg) (by simp [hk])⟩
  | some e =>
    have he : e ∈ t.logs c := List.mem_of_find?_eq_some hfind
    have hek : e.serial = k := by simpa using List.find?_some hfind
    cases hheld : e.held with
    | true =>
      rw [drainEntry_waits hfind (.inl hheld)]
      refine ⟨h, fun g hg hgheld hgk => ?_⟩
      have hge : g = e := List.inj_on_of_nodup_map (h.numbered c).1 hg he (hgk.trans hek.symm)
      rw [hge, hheld] at hgheld
      cases hgheld
    | false =>
      have hnone := h.drainAfter_first he hheld (by rw [hek]; exact hfirst)
      rw [drainEntry_first hfind hheld (h.fenced k) hnone]
      refine ⟨h.drainRaw e, fun g hg _ => ?_⟩
      exact ((forall_drained hek).1 ((mem_log_drainRaw t c e g).1 hg).2).1

/-- The entries of the one publication drain in order, and none is left. -/
theorem OnePublication.drainAll {c n : Nat} (l : List (Nat × LogEntry)) : ∀ {t : State}, OnePublication t c n → InLogOrder l → (∀ x ∈ l, x.1 = c) →
    (∀ g ∈ t.logs c, g.held = false → ∃ x ∈ l, x.2.serial = g.serial) →
    ∀ g ∈ (l.foldl (fun s x => Machine.drainEntry s x.1 x.2.serial) t).logs c, g.held = true := by
  induction l with
  | nil =>
    intro t _ _ _ hall g hg
    by_contra hheld
    obtain ⟨x, hx, -⟩ := hall g hg (by simpa using hheld)
    exact List.not_mem_nil hx
  | cons x l ih =>
    intro t h hord hcore hall
    obtain ⟨hx, hrest⟩ := List.pairwise_cons.1 hord
    obtain ⟨hstep, hgone⟩ := h.drainEntry (k := x.2.serial) fun g hg hheld => by
      obtain ⟨y, hy, hyg⟩ := hall g hg hheld
      rcases List.mem_cons.1 hy with rfl | hy
      · exact Nat.le_of_eq hyg
      · exact hyg ▸ hx y hy
    rw [List.foldl_cons, hcore x List.mem_cons_self]
    refine ih hstep hrest (fun y hy => hcore y (List.mem_cons_of_mem _ hy)) fun g hg hheld => ?_
    obtain ⟨y, hy, hyg⟩ := hall g (logs_drainEntry_subset t c _ c hg) hheld
    rcases List.mem_cons.1 hy with rfl | hy
    · exact absurd hyg.symm (hgone g hg hheld)
    · exact ⟨y, hy, hyg⟩

theorem mem_bayCores_self (c : Nat) : c ∈ bayCores (coreBay c) := by
  have hcore : c = bayCore (coreBay c) (c % 36 % 4) := by
    unfold bayCore coreBay coreDie coreNum
    omega
  have hlt : c % 36 % 4 < 4 := Nat.mod_lt _ (by decide)
  unfold bayCores
  generalize c % 36 % 4 = i at hcore hlt
  interval_cases i <;> simp [← hcore]

theorem OnePublication.drainPublished {t : State} {c n : Nat} (h : OnePublication t c n) :
    ∀ g ∈ (drainPublished t (coreBay c) n).logs c, g.held = true := by
  have hown : ∀ x ∈ publishedUpTo t (coreBay c) n, x.1 = c ∧ x.2.pub = some n := fun x hx => by
    obtain ⟨hd, hlog, hsome, -⟩ := mem_publishedUpTo.1 hx
    obtain ⟨hc, -, hpub⟩ := h.of_published hd hlog hsome
    exact ⟨hc, hpub⟩
  refine OnePublication.drainAll _ h (inLogOrder_publishedUpTo fun x hx => (hown x hx).2) (fun x hx => (hown x hx).1) fun g hg hheld => ?_
  have hpub : g.pub = some n := by simpa [hheld] using h.own g hg
  exact ⟨(c, g), mem_publishedUpTo.2 ⟨mem_bayCores_self c, hg, by simp [hpub], by simp [hpub]⟩, rfl⟩

end Sys2Proof.Machine
end

section
/-! PROOF. FENCE (R190, R241, R243): what its release publishes and drains, and which releases end at once. -/
namespace Sys2Proof.Machine

/-! ## The standing of entries through a publication (R240) -/

/-- Merged entries keep the standing of entries that they come from. -/
theorem standing_compact {Q : Bool → Option Nat → Prop} {log : List LogEntry} {pick : LogEntry → Bool} (h : ∀ g ∈ log, Q g.held g.pub) :
    ∀ e ∈ compact log pick, Q e.held e.pub := by
  unfold compact
  refine List.foldlRecOn (motive := fun out : List LogEntry => ∀ e ∈ out, Q e.held e.pub) log _ (fun _ he => absurd he List.not_mem_nil)
    fun out hout x hx => ?_
  have hadd : ∀ (l : List LogEntry) (y : LogEntry), (∀ e ∈ l, Q e.held e.pub) → Q y.held y.pub → ∀ e ∈ l ++ [y], Q e.held e.pub := by
    intro l y hl hy e he
    rcases List.mem_append.1 he with he | he
    · exact hl e he
    · rwa [List.mem_singleton.1 he]
  split
  · split
    · exact hadd _ _ (fun e he => hout e (List.mem_filter.1 he).1) (h x hx)
    · exact hadd _ _ hout (h x hx)
  · exact hadd _ _ hout (h x hx)

theorem standing_readEntry {Q : Bool → Option Nat → Prop} {s : State} {c d : Nat} (h : ∀ g ∈ s.logs d, Q g.held g.pub) (e : LogEntry) :
    ∀ g ∈ (if e.bad then entryError (seeEntry s c e) e else seeEntry s c e).logs d, Q g.held g.pub := by
  have hsee : ∀ g ∈ (seeEntry s c e).logs d, Q g.held g.pub := by
    have hfire : (if e.injected then fireInjection s 6 (if e.bad then 5 else 1) else s).core d = s.core d := by
      split <;> rfl
    unfold seeEntry
    split
    · exact h
    · intro g hg
      rw [State.logs, State.core_modCore_eq, hfire] at hg
      split at hg
      · obtain ⟨x, hx, rfl⟩ := List.mem_map.1 hg
        split <;> exact h x hx
      · exact h g hg
  split
  · rw [entryError, logs_of_cores (cores_failedStore _ _ _ _ _)]
    exact hsee
  · exact hsee

theorem standing_readEntries {Q : Bool → Option Nat → Prop} {c d : Nat} (es : List LogEntry) : ∀ {s : State}, (∀ g ∈ s.logs d, Q g.held g.pub) →
    ∀ g ∈ (es.foldl (fun s g => if g.bad then entryError (seeEntry s c g) g else seeEntry s c g) s).logs d, Q g.held g.pub := by
  induction es with
  | nil => exact fun h => h
  | cons e es ih => exact fun h => ih (standing_readEntry h e)

/-- An ordinary entry that is not published. -/
def LogEntry.unpublished (e : LogEntry) : Bool := !e.held && e.pub.isNone

/-- An entry as the publication numbered n leaves it. -/
def LogEntry.publishedAs (n : Nat) (e : LogEntry) : LogEntry :=
  if e.unpublished then { e with pub := some n, poison := e.poison || e.bad, bad := false, single := false, injected := false } else e

/-- The state in which the entries to be numbered have been read. -/
def readToNumber (s : State) (c : Nat) : State :=
  ((compact (s.core c).log LogEntry.unpublished).filter LogEntry.unpublished).foldl
    (fun s e => if e.bad then entryError (seeEntry s c e) e else seeEntry s c e) s

theorem cores_numberEntries (s : State) (c n : Nat) : (numberEntries s c n).1.cores = ((readToNumber s c).modCore c (fun x =>
    { x with log := (compact x.log LogEntry.unpublished).map (LogEntry.publishedAs n) })).cores :=
  cores_foldl (fun t _ => cores_later t _) _ _

theorem logs_numberEntries (s : State) (c n : Nat) : (numberEntries s c n).1.logs c =
    (compact ((readToNumber s c).logs c) LogEntry.unpublished).map (LogEntry.publishedAs n) := by
  rw [logs_of_cores (cores_numberEntries s c n), State.logs, State.core_modCore]
  rfl

theorem logs_numberEntries_ne {s : State} {c d : Nat} (h : d ≠ c) (n : Nat) : (numberEntries s c n).1.logs d = s.logs d := by
  rw [logs_of_cores (cores_numberEntries s c n), State.logs, State.core_modCore_eq, if_neg h]
  exact logs_readEntries_ne h _ s

/-- Numbering leaves no ordinary entry unpublished. -/
theorem published_numberEntries (s : State) (c n : Nat) : ∀ e ∈ (numberEntries s c n).1.logs c, e.held = true ∨ e.pub.isSome = true := by
  intro e he
  rw [logs_numberEntries] at he
  obtain ⟨g, -, rfl⟩ := List.mem_map.1 he
  unfold LogEntry.publishedAs
  split
  · exact .inr rfl
  · next h =>
    cases hh : g.held with
    | true => exact .inl rfl
    | false => exact .inr (by simpa [LogEntry.unpublished, hh, Option.isSome_iff_ne_none] using h)

theorem awaits_numberEntries (s : State) (c n : Nat) : Awaits s (numberEntries s c n).1 := by
  have hread : Awaits s (readToNumber s c) := Awaits.foldl (fun t g => awaits_readEntry t c g) _ s
  refine (hread.trans (.modCore_log _ c (f := fun x =>
    { x with log := (compact x.log LogEntry.unpublished).map (LogEntry.publishedAs n) }) rfl rfl)).trans ?_
  exact Awaits.foldl (fun t e => .of_cores (board_later t _) (FormKept.of_kept (kept_later t _)).fresh (cores_later t _)) _ _

/-! ## A publication -/

theorem cores_boundRecords (s : State) (b : Nat) : (boundRecords s b).cores = s.cores := by
  unfold boundRecords
  dsimp only
  split <;> rfl

theorem pubs_boundRecords (s : State) (b : Nat) : ((boundRecords s b).bay b).pubs = (s.bay b).pubs := by
  unfold boundRecords
  dsimp only
  split
  · rfl
  · rw [State.bay_modBay]

/-- The entries that a publication overtakes have drained. -/
def drainOvertaken (s : State) (c : Nat) : State := (overtaken s c).foldl (fun s u => drainEntry s c u.serial) s

/-- The number of a core's next publication. -/
def nextPub (s : State) (c : Nat) : Nat := (s.bay (coreBay c)).pubs + 1

/-- A core whose marks have been published. -/
def Core.markless (n : Nat) (x : Core) : Core := { x with marks := [], dropAll := false, pubTop := n }

/-- The core's entries as its next publication numbers them. -/
def numberNext (s : State) (c : Nat) : State × List (Option Nat × Nat) := numberEntries (drainOvertaken s c) c (nextPub (drainOvertaken s c) c)

theorem publish_eq (s : State) (c : Nat) : ∃ f, (∀ y, (f y).pubs = nextPub (drainOvertaken s c) c) ∧ publish s c =
    boundRecords (((numberNext s c).1.modCore c (Core.markless (nextPub (drainOvertaken s c) c))).modBay (coreBay c) f) (coreBay c) :=
  ⟨_, fun _ => rfl, rfl⟩

theorem logs_publish (s : State) (c : Nat) : (publish s c).logs = (numberNext s c).1.logs := by
  obtain ⟨f, -, hf⟩ := publish_eq s c
  rw [hf, logs_of_cores (cores_boundRecords _ _)]
  exact logs_modCore (numberNext s c).1 c (f := Core.markless _) rfl

/-- A publication leaves no ordinary entry of its core unpublished. -/
theorem published_publish (s : State) (c : Nat) : ∀ e ∈ (publish s c).logs c, e.held = true ∨ e.pub.isSome = true := by
  rw [logs_publish]
  exact published_numberEntries _ _ _

theorem pubs_publish (s : State) (c : Nat) : ((publish s c).bay (coreBay c)).pubs = nextPub (drainOvertaken s c) c := by
  obtain ⟨f, hpubs, hf⟩ := publish_eq s c
  rw [hf, pubs_boundRecords, State.bay_modBay, hpubs]

/-- Nothing is overtaken while nothing of the core is published. -/
theorem drainOvertaken_none {s : State} {c : Nat} (h : ∀ e ∈ s.logs c, e.pub = none) : drainOvertaken s c = s := by
  have hnone : overtaken s c = [] := by
    unfold overtaken
    refine List.filter_eq_nil_iff.2 fun u _ hu => ?_
    simp only [Bool.and_eq_true, List.any_eq_true] at hu
    obtain ⟨-, e, he, ⟨hsome, -⟩, -⟩ := hu
    rw [h e he] at hsome
    cases hsome
  rw [drainOvertaken, hnone]
  rfl

theorem awaits_publish {s : State} {c : Nat} (h : ∀ e ∈ s.logs c, e.pub = none) : Awaits s (publish s c) := by
  have hnum : Awaits s (numberNext s c).1 := by
    rw [numberNext, drainOvertaken_none h]
    exact awaits_numberEntries s c _
  have hrec : ∀ (t : State) b, Awaits t (boundRecords t b) := by
    intro t b
    refine .of_cores ?_ (FormKept.of_kept (kept_boundRecords t b)).fresh (cores_boundRecords t b)
    unfold boundRecords
    dsimp only
    split <;> rfl
  have hmark : ∀ (t : State) n, Awaits t (t.modCore c (Core.markless n)) := fun t n => .modCore_log t c rfl rfl
  have hbay : ∀ (t : State) b f, Awaits t (t.modBay b f) := fun t b f => .of_cores rfl (Nat.le_refl _) rfl
  obtain ⟨f, -, hf⟩ := publish_eq s c
  rw [hf]
  exact ((hnum.trans (hmark _ _)).trans (hbay _ _ f)).trans (hrec _ _)

/-- The first publication of a bay whose releases are all performed. -/
theorem onePublication_publish {s : State} {c : Nat} (hnum : LogNumbered s) (hpub : ∀ d ∈ bayCores (coreBay c), ∀ e ∈ s.logs d, e.pub = none)
    (hpins : (s.core c).Unpinned) (hmet : ∀ f ∈ (s.core c).fences, (∀ i ∈ f.reqs, i < s.fresh) ∧ f.met s = true) :
    OnePublication (publish s c) c (nextPub s c) := by
  have hself := hpub c (mem_bayCores_self c)
  have haw := awaits_publish hself
  have hlogs := logs_publish s c
  rw [numberNext, drainOvertaken_none hself] at hlogs
  refine ⟨(formKept_publish s c).logNumbered hnum, fun e he => ?_, fun d hd hdc e he => ?_, haw.pins c hpins, fun f hf => ?_⟩
  · rw [hlogs, logs_numberEntries] at he
    obtain ⟨g, hg, rfl⟩ := List.mem_map.1 he
    have hnone : g.pub = none := standing_compact (Q := fun _ p => p = none) (standing_readEntries (Q := fun _ p => p = none) _ hself) g hg
    unfold LogEntry.publishedAs LogEntry.unpublished
    cases hh : g.held <;> simp [hh, hnone]
  · rw [hlogs, logs_numberEntries_ne hdc] at he
    exact hpub d hd e he
  · rw [haw.fences] at hf
    obtain ⟨hreqs, hdone⟩ := hmet f hf
    exact ⟨fun i hi => Nat.lt_of_lt_of_le (hreqs i hi) haw.fresh, haw.met hreqs hdone⟩

/-! ## The release of a core (R241) -/

/-- A release at skein scope and wider leaves no ordinary entry unpublished. -/
theorem published_releaseLocal {s : State} {c sc : Nat} (h : 1 ≤ sc) : ∀ e ∈ (releaseLocal s c sc).logs c, e.held = true ∨ e.pub.isSome = true := by
  unfold releaseLocal
  dsimp only
  rw [if_neg (by omega)]
  split
  · exact published_publish _ c
  · intro e he
    exact published_publish _ c e (logs_foldl_subset (fun t (x : Nat × LogEntry) => logs_drainEntry_subset t x.1 x.2.serial c) _ _ he)

/-- A release at die scope and wider, where nothing holds it back, leaves no ordinary entry. -/
theorem held_releaseLocal {s : State} {c sc : Nat} (h : 2 ≤ sc) (hnum : LogNumbered s)
    (hpub : ∀ d ∈ bayCores (coreBay c), ∀ e ∈ s.logs d, e.pub = none) (hpins : (s.core c).Unpinned)
    (hmet : ∀ f ∈ (s.core c).fences, (∀ i ∈ f.reqs, i < s.fresh) ∧ f.met s = true) : ∀ e ∈ (releaseLocal s c sc).logs c, e.held = true := by
  unfold releaseLocal
  dsimp only
  rw [if_neg (by omega), if_neg (by omega)]
  have hlogs : (performReds s (fun r => r.ofBay s (coreBay c))).logs = s.logs := logs_performReds s _
  have haw := awaits_performReds s (fun r => r.ofBay s (coreBay c))
  have hform := formKept_performReds s (fun r => r.ofBay s (coreBay c))
  generalize performReds s (fun r => r.ofBay s (coreBay c)) = t at hlogs haw hform
  have hpub' : ∀ d ∈ bayCores (coreBay c), ∀ e ∈ t.logs d, e.pub = none := by rwa [hlogs]
  have hone := onePublication_publish (hform.logNumbered hnum) hpub' (haw.pins c hpins) fun f hf => by
    rw [haw.fences] at hf
    obtain ⟨hreqs, hdone⟩ := hmet f hf
    exact ⟨fun i hi => Nat.lt_of_lt_of_le (hreqs i hi) haw.fresh, haw.met hreqs hdone⟩
  rw [pubs_publish, drainOvertaken_none (hpub' c (mem_bayCores_self c))]
  exact hone.drainPublished

/-! ## The end of protection (R45) -/

theorem plat_endProtection (s : State) (p n : Nat) : (endProtection s p n).plat = s.plat := by
  have hfree : ∀ t : State, (freeJournal t p).plat = t.plat := by
    intro t
    unfold freeJournal
    split <;> rfl
  unfold endProtection
  split
  · rfl
  · dsimp only
    split <;> split
    · exact hfree _
    · exact hfree _
    · rfl
    · rfl

/-- Of a core's log the standing of the ply's entries changes, and of a core nothing else. -/
theorem core_endProtection (s : State) (p n d : Nat) : ∃ l, (endProtection s p n).core d = { s.core d with log := l } ∧
    ∀ e ∈ l, ∃ g ∈ s.logs d, g.pub = e.pub := by
  have hsame : ∀ t : State, t.cores = s.cores → ∃ l, t.core d = { s.core d with log := l } ∧ ∀ e ∈ l, ∃ g ∈ s.logs d, g.pub = e.pub :=
    fun t ht => ⟨(s.core d).log, by rw [core_of_cores ht], fun e he => ⟨e, he, rfl⟩⟩
  have hunhold : ∀ t : State, t.cores = s.cores → ∃ l, (unhold t p).core d = { s.core d with log := l } ∧
      ∀ e ∈ l, ∃ g ∈ s.logs d, g.pub = e.pub := by
    intro t ht
    unfold unhold
    rw [State.core_modCore_eq, core_of_cores ht]
    split
    · refine ⟨_, rfl, fun e he => ?_⟩
      obtain ⟨g, hg, rfl⟩ := List.mem_map.1 he
      refine ⟨g, hg, ?_⟩
      split <;> rfl
    · exact ⟨(s.core d).log, rfl, fun e he => ⟨e, he, rfl⟩⟩
  have hfree : ∀ t : State, (freeJournal t p).cores = t.cores := by
    intro t
    unfold freeJournal
    split <;> rfl
  unfold endProtection
  split
  · exact hsame s rfl
  · dsimp only
    split <;> split
    · exact hunhold _ (hfree _)
    · exact hunhold _ (hfree _)
    · exact hsame _ rfl
    · exact hsame _ rfl

theorem fences_endProtection (s : State) (p n d : Nat) : ((endProtection s p n).core d).fences = (s.core d).fences := by
  obtain ⟨l, hl, -⟩ := core_endProtection s p n d
  rw [hl]

theorem met_endProtection (f : Fence) (s : State) (p n : Nat) : f.met (endProtection s p n) = f.met s := by
  rw [Fence.met, Fence.met, plat_endProtection]

theorem bayFenced_endProtection (s : State) (p n b : Nat) : bayFenced (endProtection s p n) b = bayFenced s b := by
  unfold bayFenced
  simp only [fences_endProtection, met_endProtection]

theorem curCore_endProtection (s : State) (n : Nat) : (endProtection s s.iss.ply n).curCore = s.curCore := by
  have hun := unprotected_endProtection s s.iss.ply n
  rw [State.curCore, State.curPly, hun.iss, hun.ply]
  rfl

/-! ## The release of a fence -/

/-- A release that is performed was under way, or is performed by the package itself (R241). -/
theorem releaseHere_ok {s t : State} {sc : Nat} (h : releaseHere s sc = .ok t) : (s.curFrag.fence.isSome = true ∧ t = s) ∨
    (s.curFrag.fence = none ∧ t = releaseLocal s s.curCore sc ∧ (2 ≤ sc → bayFenced s (coreBay s.curCore) = false)) := by
  have hfor : releaseFor s (ctxOf s) sc = (t, true) := by
    unfold releaseHere at h
    dsimp only at h
    split at h
    · next hr =>
      cases h
      exact Prod.ext rfl hr
    · cases h
  unfold releaseFor at hfor
  split at hfor
  · next f hf =>
    refine .inl ⟨?_, (congrArg Prod.fst hfor).symm⟩
    rw [show s.curFrag.fence = some f from hf]
    rfl
  · next hnone =>
    refine .inr ⟨hnone, ?_⟩
    split at hfor
    · cases hfor
    · next hfree =>
      dsimp only at hfor
      split at hfor
      · refine ⟨(congrArg Prod.fst hfor).symm, fun hsc => ?_⟩
        by_contra hb
        have hfenced : bayFenced s (coreBay (ctxOf s).core) = true := Bool.of_not_eq_false hb
        exact hfree ⟨by omega, hfenced, .inl hsc⟩
      · cases hfor

/-- A release under way that is performed ends. -/
theorem releaseHere_of_met {s : State} {f : Fence} (hf : s.curFrag.fence = some f) (hmet : f.met s = true) (sc : Nat) :
    releaseHere s sc = .ok s := by
  have hfor : releaseFor s (ctxOf s) sc = (s, true) := by
    unfold releaseFor
    rw [show (ctxOf s).fence = some f from hf]
    simp [hmet]
  rw [releaseHere, hfor]
  rfl

/-- A release at core scope, or at package scope and narrower with no release of the bay under way, is performed at once. -/
theorem releaseHere_of_near {s : State} {sc : Nat} (hf : s.curFrag.fence = none) (h : sc = 0 ∨ (sc < 4 ∧ bayFenced s (coreBay s.curCore) = false)) :
    releaseHere s sc = .ok (releaseLocal s s.curCore sc) := by
  have hgo : ¬ (sc ≠ 0 ∧ bayFenced s (coreBay s.curCore) = true ∧ (scDie ≤ sc ∨ overtaken s s.curCore ≠ [])) := by
    rintro ⟨hne, hb, -⟩
    rcases h with rfl | ⟨-, hnone⟩
    · exact hne rfl
    · rw [hnone] at hb
      cases hb
  have hlt : sc < scReel := by
    unfold scReel
    omega
  have hfor : releaseFor s (ctxOf s) sc = (releaseLocal s s.curCore sc, true) := by
    unfold releaseFor
    rw [show (ctxOf s).fence = none from hf]
    refine (if_neg hgo).trans ?_
    exact if_pos (.inl hlt)
  rw [releaseHere, hfor]
  rfl

/-! ## The instructions -/

section
variable {sc : BitVec 3} {a : BitVec 8} {s : State} (ha : isSource a)
include ha

theorem exec_fenceAcq : exec (.fenceAcq sc a) s = run s (do
    needAcquire s sc.toNat ((sourceOf s a).toNat % 16)
    .ok (acquireHere s sc.toNat ((sourceOf s a).toNat % 16))) := by
  change execFenceAcq sc a s = _
  unfold execFenceAcq
  rw [readS_bind s ha, bits, Nat.shiftRight_zero]
  rfl

theorem exec_fenceRel : exec (.fenceRel sc a) s = run s (releaseHere (endProtection s s.iss.ply 8) sc.toNat) := by
  change execFenceRel sc a s = _
  unfold execFenceRel
  rw [readS_bind s ha]

theorem exec_fenceAr : exec (.fenceAr sc a) s = run s (do
    let t ← releaseHere (endProtection s s.iss.ply 8) sc.toNat
    needAcquire t sc.toNat ((sourceOf s a).toNat % 16)
    .ok (acquireHere t sc.toNat ((sourceOf s a).toNat % 16))) := by
  change execFenceAr sc a s = _
  unfold execFenceAr
  rw [readS_bind s ha, bits, Nat.shiftRight_zero]
  rfl

end

theorem run_acquire (s : State) {t : State} {sc m : Nat} (h : canReplay t t.curCore sc m = true) :
    run s (do needAcquire t sc m; .ok (acquireHere t sc m)) = .next (advance (acquire t t.curCore sc m)) := by
  rw [needAcquire, need_bind h]
  rfl

theorem run_acquire_held (s : State) {t : State} {sc m : Nat} (h : canReplay t t.curCore sc m = false) :
    run s (do needAcquire t sc m; .ok (acquireHere t sc m)) = .next (halt (t.modCurFrag (fun f => { f with wait := .held }))) := by
  rw [needAcquire, need_bind_stop h]
  rfl

/-- The releases of a core keep to their numbers, whether or not protection ends. -/
theorem met_of_bayFenced {s : State} {c : Nat} (h : bayFenced s (coreBay c) = false) : ∀ f ∈ (s.core c).fences, f.met s = true := by
  intro f hf
  unfold bayFenced at h
  have hc := List.any_eq_false.1 h c (mem_bayCores_self c)
  simp only [List.any_eq_true, not_exists, not_and] at hc
  simpa using hc f hf

theorem resv_release {s t : State} {sc : Nat} (h : releaseHere (endProtection s s.iss.ply 8) sc = .ok t) : ReservationsOnly s t := by
  have hend := (bankSame_endProtection s s.iss.ply 8).1.resv
  rcases releaseHere_ok h with ⟨-, rfl⟩ | ⟨-, rfl, -⟩
  · exact hend
  · exact hend.trans (drainKept_releaseLocal _ _ _).resv

section
variable {s t : State} {sc : Nat} (h : releaseHere (endProtection s s.iss.ply 8) sc = .ok t) (hf : s.curFrag.fence = none)
include h hf

/-- A release that begins is performed on the core of its fragment. -/
theorem release_begins : t = releaseLocal (endProtection s s.iss.ply 8) s.curCore sc ∧ (2 ≤ sc → bayFenced s (coreBay s.curCore) = false) := by
  rcases releaseHere_ok h with ⟨hsome, -⟩ | ⟨-, ht, hfree⟩
  · rw [curFrag_endProtection, hf] at hsome
    cases hsome
  · rw [curCore_endProtection] at ht hfree
    exact ⟨ht, fun hsc => bayFenced_endProtection s s.iss.ply 8 _ ▸ hfree hsc⟩

theorem release_publishes (hsc : 1 ≤ sc) : ∀ e ∈ (t.core s.curCore).log, e.held = true ∨ e.pub.isSome = true := by
  obtain ⟨rfl, -⟩ := release_begins h hf
  exact published_releaseLocal hsc

theorem release_drains (hsc : 2 ≤ sc) (hnum : LogNumbered s) (hpub : ∀ c ∈ bayCores (coreBay s.curCore), ∀ e ∈ (s.core c).log, e.pub = none)
    (hpins : ∀ l ∈ (s.core s.curCore).l1, l.2.pins = []) (hreqs : ∀ f ∈ (s.core s.curCore).fences, ∀ i ∈ f.reqs, i < s.fresh) :
    ∀ e ∈ (t.core s.curCore).log, e.held = true := by
  obtain ⟨rfl, hfree⟩ := release_begins h hf
  have hmet := met_of_bayFenced (hfree hsc)
  have hform := formKept_endProtection s s.iss.ply 8
  refine held_releaseLocal hsc (hform.logNumbered hnum) (fun d hd e he => ?_) ?_ fun f hfence => ?_
  · obtain ⟨l, hl, hpubs⟩ := core_endProtection s s.iss.ply 8 d
    rw [State.logs, hl] at he
    obtain ⟨g, hg, hge⟩ := hpubs e he
    rw [← hge]
    exact hpub d hd g hg
  · obtain ⟨l, hl, -⟩ := core_endProtection s s.iss.ply 8 s.curCore
    rw [Core.Unpinned, hl]
    exact hpins
  · rw [fences_endProtection] at hfence
    rw [met_endProtection]
    exact ⟨fun i hi => Nat.lt_of_lt_of_le (hreqs f hfence i hi) hform.fresh, hmet f hfence⟩

end

/-- Settles O35: a fence runs its release, then its acquire; a release that begins is `releaseLocal` of its core, which publishes every ordinary
entry and then drains the publication in order. -/
theorem fenceResults : Obligations.FenceResults := by
  unfold Obligations.FenceResults
  intro sc a s ha
  refine ⟨fun h => (exec_fenceAcq ha).trans (run_acquire s h), fun h => (exec_fenceAcq ha).trans (run_acquire_held s h), fun t ht => ?stays,
    fun t ht => ?released, fun hf h => ?near, fun f hf hmet => ?met⟩
  case stays =>
    rw [exec_fenceRel ha, exec_fenceAr ha, ht]
    exact ⟨rfl, rfl⟩
  case released =>
    refine ⟨?_, fun h => ?_, fun h => ?_, resv_release ht, fun hsc hf => release_publishes ht hf hsc,
      fun hsc hf hnum hpub hpins hreqs => release_drains ht hf hsc hnum hpub hpins hreqs⟩
    · rw [exec_fenceRel ha, ht, run_ok]
    · rw [exec_fenceAr ha, ht, ok_bind]
      exact run_acquire s h
    · rw [exec_fenceAr ha, ht, ok_bind]
      exact run_acquire_held s h
  case near =>
    refine ⟨_, releaseHere_of_near (by rwa [curFrag_endProtection]) ?_⟩
    rw [curCore_endProtection, bayFenced_endProtection]
    exact h.imp_left fun h0 => by rw [h0]; rfl
  case met =>
    exact ⟨_, releaseHere_of_met (by rwa [curFrag_endProtection]) (by rwa [met_endProtection]) _⟩

end Sys2Proof.Machine
end

section
/-! PROOF. LD, LD.ACQ, LDB, ST, STB and ST.REL (R182 to R186, R373): a lane that fails a check traps, lanes whose translation fails park, and the rest
is written. -/
namespace Sys2Proof.Machine

/-! ## Cores in which a read meets no error and drains nothing -/

/-- No entry of the core's log is in error, and nothing pins its L1. -/
structure Core.Sound (x : Core) : Prop where
  log : ∀ e ∈ x.log, e.bad = false
  l1 : x.Unpinned

/-- Sound cores stay sound. -/
def SoundKept (s t : State) : Prop := ∀ c, (s.core c).Sound → (t.core c).Sound

theorem SoundKept.refl (s : State) : SoundKept s s := fun _ => id

theorem SoundKept.trans {s t u : State} (h : SoundKept s t) (k : SoundKept t u) : SoundKept s u := fun c => k c ∘ h c

theorem SoundKept.of_cores {s t : State} (h : t.cores = s.cores) : SoundKept s t := fun c => by rw [core_of_cores h]; exact id

theorem SoundKept.modCore (s : State) (c : Nat) {f : Core → Core} (h : (s.core c).Sound → (f (s.core c)).Sound) : SoundKept s (s.modCore c f) := by
  intro d
  rw [State.core_modCore_eq]
  split
  · next hd => subst hd; exact h
  · exact id

theorem Translated.soundKept {s t : State} (h : Translated s t) : SoundKept s t := fun c hc => by
  obtain ⟨hlog, hl1⟩ := h.cores c
  exact ⟨by rw [hlog]; exact hc.log, by rw [Core.Unpinned, hl1]; exact hc.l1⟩

theorem soundKept_seeEntry (s : State) (c : Nat) (e : LogEntry) : SoundKept s (seeEntry s c e) := by
  have hfire : SoundKept s (if e.injected then fireInjection s 6 (if e.bad then 5 else 1) else s) := by
    split
    · exact .of_cores rfl
    · exact .refl s
  unfold seeEntry
  split
  · exact .refl s
  · refine hfire.trans (.modCore _ c fun h => ⟨fun g hg => ?_, h.l1⟩)
    obtain ⟨x, hx, rfl⟩ := List.mem_map.1 hg
    split
    · exact h.log x hx
    · exact h.log x hx

theorem soundKept_detectEntries {c : Nat} {es : List LogEntry} (hes : ∀ e ∈ es, e.bad = false) (s : State) :
    SoundKept s (es.foldl (fun s e => detectEntry s c e) s) := by
  refine List.foldlRecOn (motive := fun t => SoundKept s t) es _ (.refl s) fun t ht e he => ?_
  have hsee : detectEntry t c e = seeEntry t c e := by simp [detectEntry, hes e he]
  rw [hsee]
  exact ht.trans (soundKept_seeEntry t c e)

theorem soundKept_evictL1 (s : State) (c : Nat) : SoundKept s (evictL1 s c) := by
  unfold evictL1
  dsimp only
  split
  · exact .refl s
  · split
    · next x _ =>
      exact (SoundKept.modCore s c (f := fun k => { k with l1 := Tab.del x.1 k.l1 }) fun h =>
        ⟨h.log, fun l hl => h.l1 l (List.mem_filter.1 hl).1⟩).trans (.of_cores rfl)
    · exact .refl s

theorem Tab.forall_put {α : Type} {P : Nat × α → Prop} {k : Nat} {v : α} {t : Tab α} (hv : P (k, v)) (ht : ∀ e ∈ t, P e) :
    ∀ e ∈ Tab.put k v t, P e := by
  classical
  have hall := Tab.all_put (fun e => decide (P e)) k v t (decide_eq_true hv) (List.all_eq_true.2 fun e he => decide_eq_true (ht e he))
  exact fun e he => of_decide_eq_true (List.all_eq_true.1 hall e he)

/-- A sector that an L1 takes in is not pinned. -/
theorem soundKept_fillL1 (s : State) (c key pol : Nat) (d : Bytes) (poison : Bool) : SoundKept s (fillL1 s c key pol d poison) := by
  unfold fillL1
  split
  · exact .refl s
  · dsimp only
    split
    · refine (soundKept_evictL1 s c).trans (.modCore _ c fun h => ⟨h.log, fun l hl => ?_⟩)
      have hpinned : ∀ g ∈ ((evictL1 s c).core c).l1, g.2.pins = [] := h.l1
      exact Tab.forall_put (P := fun g : Nat × L1Sector => g.2.pins = []) rfl hpinned l hl
    · exact soundKept_evictL1 s c

theorem soundKept_dropL1 (s : State) (c key : Nat) : SoundKept s (dropL1 s c key) := fun d hd =>
  ⟨by
    intro e he
    have hlogs : ((dropL1 s c key).core d).log = (s.core d).log := congrFun (logs_dropL1 s c key) d
    exact hd.log e (hlogs ▸ he), (awaits_dropL1 s c key).pins d hd.l1⟩

theorem soundKept_leaveL1 {s : State} {c : Nat} (h : (s.core c).Unpinned) (key : Nat) : SoundKept s (leaveL1 s c key) := by
  have hpins : (Tab.get ({} : L1Sector) (s.core c).l1 key).pins = [] := by
    unfold Tab.get
    cases hf : Tab.find key (s.core c).l1 with
    | none => rfl
    | some l => exact h _ (Tab.mem_of_find hf)
  unfold leaveL1 drainPins
  rw [hpins]
  exact soundKept_dropL1 s c key

theorem soundKept_homeTouch (s : State) (pa pol : Nat) : SoundKept s (homeTouch s pa pol) := .of_cores (cores_of_work (work_homeTouch s pa pol))

/-! ## The read paths (R183) -/

section
variable {s : State} {c : Ctx} (hsound : (s.core c.core).Sound)
include hsound

theorem soundKept_readHbm (hreds : s.reds = []) (pa n pol : Nat) : SoundKept s (readHbm s c pa n pol).2 := by
  have hown : ownReds s c (pa / 128) = s := if_pos hreds
  have hseen := soundKept_detectEntries (c := c.core)
    (es := (overLog (visibleEntries s c.core c.ply .dev (pa / 128)) (pa % 128) n (fun _ => 0)).2.1)
    (fun e he => hsound.log e (mem_visibleEntries (mem_overLog he))) s
  unfold readHbm
  dsimp only
  rw [hown]
  generalize (overLog (visibleEntries s c.core c.ply .dev (pa / 128)) (pa % 128) n (fun _ => 0)).2.1.foldl (fun s e => detectEntry s c.core e) s = t
    at hseen
  have htouch : SoundKept t (if pol = 3 then homeTouch (leaveL1 t c.core (l1Key 0 (pa / 128))) pa 3 else t) := by
    split
    · exact (soundKept_leaveL1 (hseen _ hsound).l1 _).trans (soundKept_homeTouch _ pa 3)
    · exact .refl t
  split
  · exact hseen
  · refine hseen.trans (htouch.trans ?_)
    generalize (if pol = 3 then homeTouch (leaveL1 t c.core (l1Key 0 (pa / 128))) pa 3 else t) = r
    split
    · exact .refl r
    · have hmiss : SoundKept r (if pol = 3 then r else missHbm r c.core pa pol) := by
        split
        · exact .refl r
        · exact (soundKept_homeTouch r pa pol).trans (soundKept_fillL1 _ _ _ _ _ _)
      exact hmiss

theorem soundKept_readOutside {space : LogSpace} {sec key o n start : Nat} {base : State → Rd × State} (hbase : ∀ t, SoundKept t (base t).2) :
    SoundKept s (readOutside s c space sec key o n start base).2 := by
  have hpart : ∀ e ∈ partEntry s c space sec key, e.bad = false := by
    unfold partEntry
    split
    · split <;> simp
    · simp
  have hseen := soundKept_detectEntries (c := c.core)
    (es := (overLog (visibleEntries s c.core c.ply space sec ++ partEntry s c space sec key) o n (fun _ => 0)).2.1)
    (fun e he => (List.mem_append.1 (mem_overLog he)).elim (fun hm => hsound.log e (mem_visibleEntries hm)) (hpart e)) s
  unfold readOutside
  dsimp only
  generalize List.foldl (fun s e => detectEntry s c.core e) s _ = t at hseen
  have hrest := hbase t
  split
  · exact hseen
  · split
    · next heq =>
      rw [heq] at hrest
      exact hseen.trans hrest
    · exact hseen.trans hrest

end

theorem soundKept_readWs (s : State) (c : Ctx) (o n : Nat) : SoundKept s (readWs s c o n).2 := by
  unfold readWs
  dsimp only
  split
  · exact .refl s
  · exact (SoundKept.of_cores (homeRead_detectWs s (o / 128)).cores).trans
      ((SoundKept.of_cores rfl).trans (soundKept_fillL1 (countFor (detectWs s (o / 128)) c.vdev) _ _ _ _ _))

theorem soundKept_hostSectorOf (s : State) (c : Ctx) (pa pol : Nat) : SoundKept s (hostSectorOf s c pa pol).2 := by
  unfold hostSectorOf
  dsimp only
  split
  · exact .refl s
  · split
    · dsimp only
      split
      · exact soundKept_fillL1 _ _ _ _ _ _
      · exact .refl s
    · split
      · exact .of_cores rfl
      · exact (translated_askOnce _ _ _ _ _).soundKept

theorem cores_peerBytes (s : State) (c : Ctx) (rank off n pol : Nat) : (peerBytes s c rank off n pol).2.cores = s.cores := by
  have htouch : (touchRank s (s.ply c.ply).reel rank).cores = s.cores := cores_of_work (work_touchRank _ _ _)
  have hwalk : ∀ (t : State) v va, (walkTouch t v va).cores = t.cores := fun t v va => cores_of_work (work_walkTouch t v va)
  unfold peerBytes
  split
  · rfl
  split
  · rfl
  split
  · rfl
  split
  · rfl
  dsimp only
  generalize touchRank s (s.ply c.ply).reel rank = r at htouch
  split
  · exact htouch
  split
  · exact htouch
  split
  · split
    · next t ht => exact (cores_holdInbound (t := t) ht).trans htouch
    · split
      · split
        · exact ((cores_of_work (work_homeTouch _ _ _)).trans (hwalk r _ _)).trans htouch
        · exact (hwalk r _ _).trans htouch
      · exact htouch
  · split
    · exact htouch
    · dsimp only
      unfold askOnce
      split
      · exact htouch
      · exact htouch

theorem soundKept_detectScratch (s : State) (p sec : Nat) : SoundKept s (detectScratch s p sec) := by
  unfold detectScratch
  dsimp only
  split
  · next f t h =>
    refine (SoundKept.of_cores (homeRead_takeFlip h).cores).trans ?_
    split
    · exact .of_cores rfl
    · exact .modCore t _ fun hc => ⟨hc.log, hc.l1⟩
  · exact .refl s

theorem soundKept_readPlace {s : State} {c : Ctx} (hsound : (s.core c.core).Sound) (hreds : s.reds = []) (p : Place) (n pol : Nat) :
    SoundKept s (readPlace s c p n pol).2 := by
  cases p with
  | hbm pa => exact soundKept_readHbm hsound hreds pa n pol
  | ws o => exact soundKept_readWs s c o n
  | scratch q o => exact soundKept_detectScratch s q (o / 128)
  | host pa => exact soundKept_readOutside hsound fun t => soundKept_hostSectorOf t c pa pol
  | peer r o => exact soundKept_readOutside hsound fun t => .of_cores (cores_peerBytes t c r o n pol)

/-! ## Loads of lanes -/

/-- Every lane gets its bytes, in a state in which no RED is under way and the core is sound. -/
theorem loadKept_readLanes {s : State} {c : Ctx} (n pol : Nat) (hsound : (s.core c.core).Sound) (hreds : s.reds = []) (ls : List LaneTo) :
    (∀ x ∈ (readLanes s c n pol ls).1, ∃ b po h, x.2 = .got b po h) →
      LoadKept s (readLanes s c n pol ls).2 ∧ ((readLanes s c n pol ls).2.core c.core).Sound := by
  induction ls using List.reverseRecOn with
  | nil => exact fun _ => ⟨.refl s, hsound⟩
  | append_singleton ls l ih =>
    have hstep : readLanes s c n pol (ls ++ [l]) = ((readLanes s c n pol ls).1 ++ [(l, (readPlace (readLanes s c n pol ls).2 c l.place n pol).1)],
        (readPlace (readLanes s c n pol ls).2 c l.place n pol).2) := by
      unfold readLanes
      rw [List.foldl_append]
      rfl
    rw [hstep]
    intro hgot
    obtain ⟨hkept, hsnd⟩ := ih fun x hx => hgot x (List.mem_append_left _ hx)
    obtain ⟨b, po, h, hlast⟩ := hgot _ (List.mem_append_right _ (List.mem_singleton.2 rfl))
    have hr : (readLanes s c n pol ls).2.reds = [] := hkept.reds.trans hreds
    refine ⟨hkept.trans (loadKept_readPlace hsnd.log hr hsnd.l1 (Prod.ext hlast rfl)), soundKept_readPlace hsnd hr l.place n pol c.core hsnd⟩

/-- Lanes that neither wait nor consume an error have got their bytes; where poison is not accepted, without any. -/
theorem got_of_noErrors {rs : List (LaneTo × Rd)} {accepts : Bool} (hwait : anyWait rs = false) (herr : joinErrors (loadErrors rs accepts) = none)
    {x : LaneTo × Rd} (hx : x ∈ rs) : ∃ b po h, x.2 = .got b po h ∧ (accepts = false → po = none) := by
  have hnone : loadErrors rs accepts = [] := by
    cases h : loadErrors rs accepts with
    | nil => rfl
    | cons y ys => rw [h] at herr; cases herr
  have herror := List.filterMap_eq_nil_iff.1 hnone x hx
  have hgoes := List.any_eq_false.1 hwait x hx
  obtain ⟨l, rd⟩ := x
  cases rd with
  | wait => exact absurd rfl hgoes
  | lost => cases herror
  | refused => cases herror
  | got b po h =>
    refine ⟨b, po, h, rfl, fun hacc => ?_⟩
    subst hacc
    cases po with
    | none => rfl
    | some u => cases h <;> cases herror

theorem acceptedLanes_clean {rs : List (LaneTo × Rd)} (h : ∀ x ∈ rs, ∃ b h, x.2 = .got b none h) : acceptedLanes rs = [] := by
  refine List.filterMap_eq_nil_iff.2 fun x hx => ?_
  obtain ⟨b, hb, hrd⟩ := h x hx
  rw [hrd]

/-- What a load of lanes goes through. -/
theorem loadLanes_ok {s u : State} {base : W64} {x : Option XReg} {acc : Acc} {ls : List LaneOff} {bs : List (Nat × Bytes)} {fs : List LaneFault}
    (h : loadLanes s base x acc ls = .ok (bs, fs, u)) : ∃ t tos rs v, Translated s t ∧ readLanes t (ctxOf s) acc.bytes (ptrPol base) tos = (rs, v) ∧
      anyWait rs = false ∧ joinErrors (loadErrors rs (curAccepts v)) = none ∧ (acceptedLanes rs = [] → u = v) := by
  unfold loadLanes at h
  dsimp only at h
  cases hc : checkLanes s (ctxOf s) base acc ls with
  | error e => rw [hc] at h; cases h
  | ok ats =>
    rw [hc, ok_bind] at h
    have htrans := translated_translateLanes s (ctxOf s) x acc.kind ats
    generalize translateLanes s (ctxOf s) x acc.kind ats = g at h htrans
    obtain ⟨g, t⟩ := g
    dsimp only at h htrans
    split at h
    · cases h
    · cases hr : readLanes t (ctxOf s) acc.bytes (ptrPol base) g.tos with
      | mk rs v =>
        rw [hr] at h
        dsimp only at h
        split at h
        · cases h
        · next hwait =>
          split at h
          · cases h
          · next hnone =>
            refine ⟨t, g.tos, rs, v, htrans, hr, by simpa using hwait, hnone, fun hclean => ?_⟩
            rw [hclean] at h
            cases h
            rfl

/-- A step that loads from where a read is sound is a read (R183). -/
theorem readKept_of_loadKept {s u : State} (h : s.reds = [] → curAccepts s = false → (s.core s.curCore).Sound → LoadKept s u) : ReadKept s u := by
  intro hreds hacc hbad hpins
  have hkept := h hreds hacc ⟨hbad, hpins⟩
  have htables := hkept.tables
  simp only [State.tables, Prod.mk.injEq] at htables
  obtain ⟨hiss, hws, hskeins, hreels, hjobs, hxfers, hqueues, hvdevs, hclock, -⟩ := htables
  exact ⟨hkept.ply, hiss, hws, hskeins, hreels, hjobs, hxfers, hqueues, hvdevs, hclock, fun hs => (hkept.homes hs).2⟩

theorem readKept_loadLanes {s u : State} {base : W64} {x : Option XReg} {acc : Acc} {ls : List LaneOff} {bs : List (Nat × Bytes)} {fs : List LaneFault}
    (h : loadLanes s base x acc ls = .ok (bs, fs, u)) : ReadKept s u := by
  refine readKept_of_loadKept fun hreds hacc hsound => ?_
  obtain ⟨t, tos, rs, v, htrans, hread, hwait, herr, hu⟩ := loadLanes_ok h
  have hgot : ∀ x ∈ rs, ∃ b po h, x.2 = .got b po h ∧ (curAccepts v = false → po = none) := fun x hx => got_of_noErrors hwait herr hx
  have hlanes := loadKept_readLanes acc.bytes (ptrPol base) (htrans.soundKept (ctxOf s).core hsound) (htrans.toLoadKept.reds.trans hreds) tos
  rw [hread] at hlanes
  obtain ⟨hkept, -⟩ := hlanes fun x hx => by
    obtain ⟨b, po, h, hrd, -⟩ := hgot x hx
    exact ⟨b, po, h, hrd⟩
  have haccepts : curAccepts v = false := (hkept.curAccepts.trans htrans.toLoadKept.curAccepts).trans hacc
  rw [hu (acceptedLanes_clean fun x hx => ?_)]
  · exact htrans.toLoadKept.trans hkept
  · obtain ⟨b, po, h, hrd, hpo⟩ := hgot x hx
    exact ⟨b, h, by rw [hrd, hpo haccepts]⟩

/-! ## Lanes that park (R373) -/

theorem parkLanes_some (s : State) (c : Ctx) (kind : Nat) {fs : List LaneFault} (h : fs ≠ []) :
    parkLanes s c kind fs = .error (.stay (parkFault s (faultInfo c kind fs false) (some (maskOf (fs.map (·.lane)))))) := by
  cases fs with
  | nil => exact absurd rfl h
  | cons f fs => rfl

/-- A fault names the address space of the fragment, which its vector registers do not change. -/
theorem faultInfo_congr {c d : Ctx} (h : c.segs = d.segs) (kind : Nat) (fs : List LaneFault) : faultInfo c kind fs false = faultInfo d kind fs false := by
  cases fs with
  | nil => simp [faultInfo, Ctx.seg, h]
  | cons f fs => simp [faultInfo, Ctx.seg, h]

theorem segs_setVecLanes (s : State) (r : Nat) (m : W32) (f : Nat → W64) : (ctxOf (setVecLanes s r m f)).segs = (ctxOf s).segs := by
  change (setVecLanes s r m f).cur.g = s.cur.g
  unfold setVecLanes
  dsimp only
  rw [State.cur_modCur, clearBad_cur]

theorem segs_writeLoad (s : State) (sz d : Nat) (m : W32) (bs : List (Nat × Bytes)) : (ctxOf (writeLoad s sz d m bs)).segs = (ctxOf s).segs := by
  unfold writeLoad
  dsimp only
  split
  · exact (segs_setVecLanes _ _ _ _).trans (segs_setVecLanes _ _ _ _)
  · exact segs_setVecLanes _ _ _ _

theorem and_not_noLanes (m : W32) : m &&& ~~~(maskOf (([] : List LaneFault).map (·.lane))) = m := by
  rw [show ~~~(maskOf (([] : List LaneFault).map (·.lane))) = BitVec.allOnes 32 from rfl, BitVec.and_allOnes]

section
variable {s u : State} {sz d : Nat} {m : W32} {base : W64} {x : Option XReg} {ls : List LaneOff} {bs : List (Nat × Bytes)} {fs : List LaneFault}

theorem vecLoad_stop {e : Stop} (h : loadLanes s base x (loadAcc (sizeBytes sz)) ls = .error e) : vecLoad s sz d m base x ls = .error e := by
  unfold vecLoad
  rw [h]
  rfl

theorem vecLoad_all (h : loadLanes s base x (loadAcc (sizeBytes sz)) ls = .ok (bs, [], u)) :
    vecLoad s sz d m base x ls = .ok (writeLoad u sz d m bs) := by
  unfold vecLoad
  simp only [h, ok_bind, and_not_noLanes]
  rfl

theorem vecLoad_parks (h : loadLanes s base x (loadAcc (sizeBytes sz)) ls = .ok (bs, fs, u)) (hfs : fs ≠ []) {t : State}
    (ht : t = writeLoad u sz d (m &&& ~~~(maskOf (fs.map (fun f => f.lane)))) bs) :
    vecLoad s sz d m base x ls = .error (.stay (parkFault t (faultInfo (ctxOf t) 0 fs false) (some (maskOf (fs.map (fun f => f.lane)))))) := by
  unfold vecLoad
  simp only [h, ok_bind]
  rw [parkLanes_some _ _ _ hfs, ← ht, faultInfo_congr (c := ctxOf u) (d := ctxOf t) (by rw [ht, segs_writeLoad])]

end

/-! ## Stores of lanes -/

theorem bankKept_storeAll (base : W64) (g : Stage2) (cells : Nat → Nat → Tab (Byte × Byte)) (s : State) : BankKept s (storeAll s base g cells) := by
  unfold storeAll
  exact List.foldlRecOn (motive := fun t : State => BankKept s t) _ _ (.refl s) fun t ht l _ => ht.trans (bankKept_writePlace t _ _ _ _ _)

/-- Where the lanes of a store go: they are translated, none waits or writes what a transfer reads, and there is room. -/
theorem storeTargets_ok {s t : State} {base : W64} {x : Option XReg} {acc : Acc} {ls : List LaneOff} {g : Stage2}
    (h : storeTargets s base x acc ls = .ok (g, t)) : ∃ ats v w, checkLanes s (ctxOf s) base acc ls = .ok ats ∧
      translateLanes s (ctxOf s) x acc.kind ats = (g, v) ∧ storeReady v (g.tos.map (fun e => e.place)) = .ok w ∧
      t = if ats = [] then w else endForTag w (ctxOf s).ply (ptrTag base) := by
  unfold storeTargets at h
  dsimp only at h
  cases hc : checkLanes s (ctxOf s) base acc ls with
  | error e => rw [hc] at h; cases h
  | ok ats =>
    rw [hc, ok_bind] at h
    cases hg : translateLanes s (ctxOf s) x acc.kind ats with
    | mk g' v =>
      rw [hg] at h
      dsimp only at h
      split at h
      · cases h
      split at h
      · cases h
      cases hr : storeReady v (g'.tos.map (fun e => e.place)) with
      | error e => rw [hr] at h; cases h
      | ok w =>
        rw [hr] at h
        cases h
        exact ⟨ats, v, w, rfl, hg, hr, rfl⟩

theorem bankKept_storeTargets {s t : State} {base : W64} {x : Option XReg} {acc : Acc} {ls : List LaneOff} {g : Stage2}
    (h : storeTargets s base x acc ls = .ok (g, t)) : ∃ v, Translated s v ∧ BankKept v t := by
  obtain ⟨ats, v, w, -, htrans, hready, rfl⟩ := storeTargets_ok h
  have hv := translated_translateLanes s (ctxOf s) x acc.kind ats
  rw [htrans] at hv
  refine ⟨v, hv, (bankKept_storeReady hready).trans ?_⟩
  split
  · exact .refl w
  · exact bankKept_endForTag w _ _

theorem storeLanes_ok {s u : State} {base : W64} {x : Option XReg} {acc : Acc} {ls : List LaneOff} {cells : Nat → Nat → Tab (Byte × Byte)}
    {fs : List LaneFault} (h : storeLanes s base x acc ls cells = .ok (fs, u)) :
    ∃ g t, storeTargets s base x acc ls = .ok (g, t) ∧ fs = g.fails ∧ u = storeAll t base g cells := by
  unfold storeLanes at h
  cases ht : storeTargets s base x acc ls with
  | error e => rw [ht] at h; cases h
  | ok r =>
    rw [ht] at h
    cases h
    exact ⟨_, _, rfl, rfl, rfl⟩

theorem storeKept_storeLanes {s u : State} {base : W64} {x : Option XReg} {acc : Acc} {ls : List LaneOff} {cells : Nat → Nat → Tab (Byte × Byte)}
    {fs : List LaneFault} (h : storeLanes s base x acc ls cells = .ok (fs, u)) : StoreKept s u := by
  obtain ⟨g, t, ht, -, rfl⟩ := storeLanes_ok h
  obtain ⟨v, htrans, hkept⟩ := bankKept_storeTargets ht
  exact htrans.storeKept (hkept.trans (bankKept_storeAll base g cells t))

/-- What ST and STB run behind their operands. -/
theorem laneStore_runs {i : Instr} {x : LaneStore} {s : State} (hx : laneStore s i = some x) (hops : laneOperandsOk s i) :
    exec i s = run s (vecStore s x.size x.d x.base x.bound x.ls x.nib) := by
  obtain ⟨hbase, hregs, -⟩ := hops
  unfold laneStore at hx
  split at hx
  case h_1 d a o z p =>
    cases hx
    refine congrArg (run s) ((needPair_ok (o := o.toNat) hregs _).trans ?_)
    have hls : offsetsFor s (z.toNat == 5) (toPerform s (activeLanes s p.toNat)) o.toNat = if z = 5 then
        nibbleOffsets s (toPerform s (activeLanes s p.toNat)) o.toNat else byteOffsets s (toPerform s (activeLanes s p.toNat)) o.toNat := by
      have hz : (z.toNat == 5) = decide (z = 5) := by
        rw [Bool.eq_iff_iff, beq_iff_eq, decide_eq_true_iff]
        exact ⟨fun h => BitVec.eq_of_toNat_eq h, fun h => by rw [h]; rfl⟩
      rw [offsetsFor, hz]
      split <;> simp_all
    rw [readBase_ok (hbase a rfl), ok_bind]
    dsimp only
    rw [hls]
    rfl
  case h_2 d q o z b p =>
    split at hx
    · next r hr =>
      dsimp only at hx
      split at hx
      · cases hx
      · next hz =>
        cases hx
        have hform : (z.toNat != 5) = true := bne_iff_ne.2 fun h => hz (BitVec.eq_of_toNat_eq h)
        refine congrArg (run s) ((need_bind hform _ _).trans ((needPair_ok (o := o.toNat) hregs _).trans ?_))
        rw [hr]
        rfl
    · cases hx
  case h_3 => cases hx

section
variable {s u : State} {sz d : Nat} {base : W64} {x : Option XReg} {ls : List LaneOff} {nib : Nat → Int} {fs : List LaneFault}

theorem vecStore_stop {e : Stop} (h : storeLanes s base x (storeAcc (sizeBytes sz)) ls (storeCellsOf s sz d nib) = .error e) :
    vecStore s sz d base x ls nib = .error e := by
  unfold vecStore
  rw [h]
  rfl

theorem vecStore_ok (h : storeLanes s base x (storeAcc (sizeBytes sz)) ls (storeCellsOf s sz d nib) = .ok (fs, u)) :
    vecStore s sz d base x ls nib = parkLanes u (ctxOf u) 1 fs := by
  unfold vecStore
  rw [h]
  rfl

end

/-! ## ST.REL (R185) -/

/-- What the release of ST.REL publishes of the stores behind it. -/
def publishStores (waited : Bool) (sc : BitVec 3) (u : State) : State :=
  if sc = 0 then u else if waited then publish u u.curCore else joinPublication u u.curCore

/-- ST.REL behind its operands, with no failing lane and its release performed. -/
theorem exec_stRel {d : BitVec 6} {a : BitVec 8} {o : BitVec 6} {sc : BitVec 3} {z : BitVec 2} {s t v : State} {g : Stage2}
    (hops : laneOperandsOk s (.stRel d a o sc z))
    (ht : storeTargets s (baseOf s a) (boundOf s a) (storeAcc (sizeBytes (ordSize z.toNat false)))
      (byteOffsets s (toPerform s (activeLanes s 0)) o.toNat) = .ok (g, t)) (hfails : g.fails = [])
    (hrel : releaseHere (endProtection t t.iss.ply 8) sc.toNat = .ok v) : exec (.stRel d a o sc z) s = .next (advance
      (publishStores (endProtection t t.iss.ply 8).curFrag.fence.isSome sc
        (storeAll v (baseOf s a) g (storeCellsOf v (ordSize z.toNat false) d.toNat (fun _ => 0))))) := by
  obtain ⟨hbase, hregs, -⟩ := hops
  have hzero : (sc.toNat = 0) = (sc = 0) := propext ⟨fun h => BitVec.eq_of_toNat_eq h, fun h => by rw [h]; rfl⟩
  refine (congrArg (run s) ((needPair_ok (o := o.toNat) hregs _).trans ?_)).trans (run_ok s _)
  rw [readBase_ok (hbase a rfl), ok_bind]
  dsimp only
  rw [ht, ok_bind]
  dsimp only
  rw [hrel, ok_bind, hfails]
  unfold publishStores
  simp only [hzero]
  rfl

/-- Settles O31: loads and stores of lanes by what `loadLanes` and `storeLanes` give; a store finds its targets before it writes. -/
theorem vectorMemoryResults : Obligations.VectorMemoryResults := by
  unfold Obligations.VectorMemoryResults
  refine ⟨fun i x s hx hops => ⟨fun q h => ?loadTrap, fun t h => ?loadStay, fun bs fs u h => ⟨readKept_loadLanes h, fun hfs => ?loadAll,
      fun hfs t ht => ?loadParks⟩⟩,
    fun i x s hx hops => ⟨fun q h => ?storeTrap, fun fs u h => ⟨storeKept_storeLanes h, fun hfs => ?storeAll, fun hfs => ?storeParks⟩⟩,
    fun d a o sc z s t v g hops ht hfails hrel => ?release⟩
  case loadTrap =>
    rw [laneLoad_runs hx hops, vecLoad_stop h]
    rfl
  case loadStay =>
    rw [laneLoad_runs hx hops, vecLoad_stop h]
    rfl
  case loadAll =>
    subst hfs
    rw [laneLoad_runs hx hops, vecLoad_all h]
    rfl
  case loadParks =>
    rw [laneLoad_runs hx hops, vecLoad_parks h hfs ht]
    rfl
  case storeTrap =>
    rw [laneStore_runs hx hops, vecStore_stop h]
    rfl
  case storeAll =>
    subst hfs
    rw [laneStore_runs hx hops, vecStore_ok h]
    rfl
  case storeParks =>
    rw [laneStore_runs hx hops, vecStore_ok h, parkLanes_some _ _ _ hfs]
    rfl
  case release =>
    obtain ⟨w, htrans, hkept⟩ := bankKept_storeTargets ht
    have hiss : t.iss = s.iss := hkept.iss.trans htrans.toLoadKept.iss
    rw [← hiss] at hrel
    rw [exec_stRel hops ht hfails hrel, curFrag_endProtection]
    rfl

end Sys2Proof.Machine
end

section
/-! PROOF. Stores to device memory as their own ply sees them (R182, R184, R236), and the frames of a walk's pages (R255). -/
namespace Sys2Proof.Machine

/-! ## A store in the log -/

theorem find_addCells_none {o : Nat} {u : Tab (Byte × Byte)} (h : Tab.find o u = none) : ∀ t, Tab.find o (addCells t u) = Tab.find o t := by
  induction u with
  | nil => exact fun _ => rfl
  | cons e u ih =>
    intro t
    obtain ⟨k, c⟩ := e
    rw [Tab.find] at h
    split at h
    · cases h
    · next hk =>
      change Tab.find o (addCells (addCell t k c) u) = _
      rw [ih h, addCell, Tab.find_put, if_neg (fun h => hk h.symm)]

/-- A byte that a store has no cell for is seen as before. -/
theorem byteSeen_logStore_kept {s : State} {p c sec : Nat} (hnum : LogNumbered s) (hc : (s.ply p).core = c) (vaddr : W64) (pol : Nat)
    (cells : Tab (Byte × Byte)) (poison : Bool) {a : Nat} (hno : a / 128 = sec → Tab.find (a % 128) cells = none) :
    byteSeen (logStore s p .dev sec vaddr pol cells poison) c p a = byteSeen s c p a := by
  have hhome := (bankKept_logStore s p .dev sec vaddr pol cells poison).home
  have hcases := log_logStore s p .dev sec vaddr pol cells poison
  rw [hc] at hcases
  generalize logStore s p .dev sec vaddr pol cells poison = u at hhome hcases
  rcases hcases with ⟨e, ⟨-, -, hsec, hcells⟩, hlog⟩ | ⟨e, hyoung, -, hlog⟩
  · have hcs := cellsSeen_of_append (p := p) (sec := a / 128) hlog (a % 128)
    split at hcs
    · next hin =>
      have hs : a / 128 = sec := by
        simp only [SeenIn, Bool.and_eq_true, beq_iff_eq] at hin
        exact hin.1.2.symm.trans hsec
      rw [hcells, hno hs] at hcs
      exact byteSeen_congr hhome (.inr hcs)
    · exact byteSeen_congr hhome (.inl hcs)
  · refine byteSeen_congr hhome (.inl ((cellsSeen_of_joined (p := p) hlog (a / 128) (a % 128)).trans (List.map_congr_left fun g hg => ?_)))
    unfold joinedEntry
    split
    · next hserial =>
      obtain ⟨hglog, hgseen⟩ := List.mem_filter.1 (List.mem_reverse.1 hg)
      have hmem : e ∈ (s.core c).log := List.mem_reverse.1 (List.mem_of_find?_eq_some hyoung)
      have hge : g = e := List.inj_on_of_nodup_map (hnum c).1 hglog hmem (beq_iff_eq.1 hserial)
      have hesec : e.sector = sec := by
        have hfind := List.find?_some hyoung
        simp only [Bool.and_eq_true, beq_iff_eq] at hfind
        exact hfind.2
      have hgsec : g.sector = a / 128 := by
        simp only [Bool.and_eq_true, beq_iff_eq] at hgseen
        exact hgseen.1.2
      exact find_addCells_none (hno (by rw [← hgsec, hge, hesec])) g.cells
    · rfl

theorem makeRoom_of_room {s : State} {c n : Nat} (h : logCount (s.core c) + n ≤ Config.logEntries) (fuel : Nat) : makeRoom s c n fuel = (s, false) := by
  cases fuel with
  | zero => rfl
  | succ k => rw [makeRoom, if_pos h]

/-- A log with an entry free for every place has room as it is. -/
theorem storeReady_of_room {s : State} {ps : List Place} (h : LogRoom s s.curCore ps.length) : storeReady s ps = .ok s := by
  have hfew : newEntries s (ctxOf s).ply (ps.filterMap (placeEntry (ctxOf s))) ≤ ps.length :=
    (List.length_filter_le _ _).trans ((List.dedup_sublist _).length_le.trans (List.length_filterMap_le _ _))
  have hroom : roomFor s (ctxOf s) ps = .ok s := by
    have hmake := makeRoom_of_room (c := s.curCore) (n := newEntries s (ctxOf s).ply (ps.filterMap (placeEntry (ctxOf s))))
      ((Nat.add_le_add_left hfew _).trans h.2) Config.logEntries
    unfold roomFor
    dsimp only
    split
    · rfl
    · change (if (makeRoom s s.curCore _ Config.logEntries).2 then Except.error (makeRoom s s.curCore _ Config.logEntries).1 else
        Except.ok (makeRoom s s.curCore _ Config.logEntries).1) = _
      rw [hmake]
      rfl
  unfold storeReady
  rw [hroom]

theorem endForTag_device (s : State) (p : Nat) : endForTag s p 0 = s := rfl

/-! ## Addresses -/

/-- Access sizes lie in one sector where they are aligned. -/
theorem fits_of_aligned {s : State} {c : Ctx} {base ea : W64} {off : Int} {acc : Acc} (h : checkAddr s c base off acc = .ok ea)
    (hdvd : acc.align ∣ 128) : ptrAddr ea % 128 + acc.align ≤ 128 := by
  have hea := checkAddr_aligned h (hdvd.trans (by decide))
  have hlow : ptrAddr ea % 128 = bits ea 0 20 % 128 := by
    simp only [ptrAddr, bits, Nat.shiftRight_zero]
    omega
  have hmod : acc.align ∣ ptrAddr ea % 128 := by
    rw [hlow]
    exact (Nat.dvd_mod_iff hdvd).2 hea
  have hlt : ptrAddr ea % 128 < 128 := Nat.mod_lt _ (by decide)
  obtain ⟨k, hk⟩ := hmod
  obtain ⟨m, hm⟩ := hdvd
  rw [hk]
  have hkm : k < m := by
    rw [hk, hm] at hlt
    exact lt_of_mul_lt_mul_left hlt (Nat.zero_le _)
  calc acc.align * k + acc.align = acc.align * (k + 1) := (Nat.mul_succ _ _).symm
    _ ≤ acc.align * m := Nat.mul_le_mul_left _ hkm
    _ = 128 := hm.symm

theorem ptrTag_of_checkAddr {s : State} {c : Ctx} {base ea : W64} {off : Int} {acc : Acc} (h : checkAddr s c base off acc = .ok ea)
    (htag : ptrTag base = 0) : ptrTag ea = 0 := by
  unfold checkAddr at h
  rw [htag] at h
  dsimp only at h
  obtain ⟨hfield, h⟩ := ite_error_ok h
  obtain ⟨-, h⟩ := ite_error_ok h
  obtain ⟨-, h⟩ := ite_error_ok h
  obtain ⟨-, h⟩ := ite_error_ok h
  obtain ⟨-, h⟩ := ite_error_ok h
  obtain ⟨-, h⟩ := ite_error_ok h
  obtain ⟨-, h⟩ := ite_error_ok h
  obtain ⟨-, h⟩ := ite_error_ok h
  have hbits : tagBits 0 = 57 := rfl
  have hpol : ptrPol base < 8 := Nat.mod_lt _ (by decide)
  rw [hbits] at hfield
  split at h
  · cases h
  · cases h
    simp only [ptrTag, bits, w64, BitVec.toNat_ofNat, Nat.shiftRight_eq_div_pow]
    omega

/-- In device memory the log records the address itself. -/
theorem va_of_translateAcc {s t : State} {c : Ctx} {x : Option XReg} {off : Int} {ea va : W64} {kind lane : Nat} {p : Place} (htag : ptrTag ea = 0)
    (h : translateAcc s c x off ea kind lane = (.here p va, t)) : va = ea := by
  unfold translateAcc at h
  simp only [htag] at h
  split at h
  · next r _ =>
    by_cases hperm : pagePermits r kind = true
    · rw [if_pos hperm] at h
      cases h
      rfl
    · rw [if_neg hperm] at h
      cases h
  · generalize translateDev s c.core c.vdev (ptrAddr ea) kind (bit (c.seg 0).ctl 60) = r at h
    obtain ⟨found, u⟩ := r
    cases found with
    | ok r =>
      cases h
      rfl
    | fail n => cases h
    | ats => cases h

/-! ## SST -/

theorem scalarAccess_size_dvd {i : Instr} {x : ScalarAccess} (h : scalarAccess i = some x) : x.n ∣ 128 := by
  have h8 : 8 ∣ 128 := by decide
  have h4 : 4 ∣ 128 := by decide
  unfold scalarAccess at h
  split at h <;> cases h
  · exact h8
  · exact h4
  · exact h8
  · exact h4

/-- SST to device memory that is there and has room. -/
theorem exec_sst_device {i : Instr} {x : ScalarAccess} {s t : State} {ea va : W64} {pa : Nat} (hx : scalarAccess i = some x) (hl : x.load = false)
    (hd : isSource x.d) (hbase : baseOk s x.a) (hea : checkOne s (baseOf s x.a) x.off x.acc = .ok ea) (htag : ptrTag ea = 0)
    (hplace : translateOne s (boundOf s x.a) x.off ea 1 1 = .ok (.hbm pa, va, t)) (hroom : LogRoom t t.curCore 1) :
    exec i s = .next (advance (logStore t t.iss.ply .dev (pa / 128) (w64 (va.toNat - pa % 128)) (ptrPol ea)
      (cellsOf (ptrAddr ea % 128) (bytesLE (sourceOf s x.d).toNat x.n)) false)) := by
  obtain ⟨o, ho, hexec⟩ := exec_scalarAccess hx s
  rw [ho] at hea hplace
  have hready : storeReady t [.hbm pa] = .ok t := storeReady_of_room hroom
  rw [hexec, ScalarAccess.effect_store hbase hl hd hea, hplace, ok_bind]
  change run s (do
    let t ← storeReady t [.hbm pa]
    let t := endForTag t t.iss.ply (ptrTag ea)
    .ok (writePlace t (ctxOf t) (.hbm pa) va (ptrPol ea) (cellsOf (ptrAddr ea % 128) (bytesLE (sourceOf s x.d).toNat x.n)))) = _
  rw [hready, ok_bind, htag]
  rfl

theorem checkAddr_of_checkOne {s : State} {base ea : W64} {off : Int} {acc : Acc} (h : checkOne s base off acc = .ok ea) :
    checkAddr s (ctxOf s) base off acc = .ok ea := by
  unfold checkOne at h
  cases hc : checkAddr s (ctxOf s) base off acc with
  | error e => rw [hc] at h; cases h
  | ok w => rw [hc] at h; cases h; rfl

/-! ## Lanes that are checked and translated -/

theorem checkLanes_checked {s : State} {c : Ctx} {base : W64} {acc : Acc} {ls : List LaneOff} {ats : List LaneAt} (h : checkLanes s c base acc ls = .ok ats) :
    (∀ e ∈ ats, checkAddr s c base e.off acc = .ok e.ea) ∧ (ats.map (·.lane)).Sublist (ls.map (·.lane)) := by
  unfold checkLanes at h
  dsimp only at h
  split at h
  · cases h
  · cases h
    refine ⟨fun e he => ?_, ?_⟩
    · obtain ⟨l, -, hl⟩ := List.mem_filterMap.1 he
      unfold checkLane at hl
      split at hl
      · next hea =>
        cases hl
        split at hea
        · cases hea
        · exact hea
      · cases hl
    · clear *-
      induction ls with
      | nil => exact .slnil
      | cons l ls ih =>
        rw [List.filterMap_cons]
        split
        · exact ih.trans (List.sublist_cons_self _ _)
        · next hl =>
          split at hl
          · cases hl
            exact ih.cons_cons _
          · cases hl

/-- Every lane translated is one of those checked, in their order. -/
theorem translateLanes_tos {s v : State} {c : Ctx} {x : Option XReg} {kind : Nat} {ats : List LaneAt} {g : Stage2}
    (h : translateLanes s c x kind ats = (g, v)) : (g.tos.map (·.lane)).Sublist (ats.map (·.lane)) ∧
      ∀ e ∈ g.tos, ∃ l ∈ ats, e.ea = l.ea ∧ ∃ t u, translateAcc t c x l.off l.ea kind l.lane = (.here e.place e.va, u) := by
  induction ats using List.reverseRecOn generalizing g v with
  | nil =>
    cases h
    exact ⟨.slnil, by simp⟩
  | append_singleton ats l ih =>
    unfold translateLanes at h ih
    rw [List.foldl_append, List.foldl_cons, List.foldl_nil] at h
    generalize List.foldl _ _ ats = r at h ih
    obtain ⟨hsub, hall⟩ := ih (g := r.1) (v := r.2) rfl
    have hskip : (r.1.tos.map (·.lane)).Sublist ((ats ++ [l]).map (·.lane)) ∧ ∀ e ∈ r.1.tos, ∃ m ∈ ats ++ [l], e.ea = m.ea ∧
        ∃ t u, translateAcc t c x m.off m.ea kind m.lane = (.here e.place e.va, u) := by
      refine ⟨?_, fun e he => ?_⟩
      · rw [List.map_append]
        exact hsub.trans (List.sublist_append_left _ _)
      · obtain ⟨m, hm, hrest⟩ := hall e he
        exact ⟨m, List.mem_append_left _ hm, hrest⟩
    split at h
    · next hto =>
      cases h
      dsimp only
      refine ⟨?_, fun e he => ?_⟩
      · rw [List.map_append, List.map_append]
        exact hsub.append (.refl _)
      · rcases List.mem_append.1 he with he | he
        · exact hskip.2 e he
        · cases List.mem_singleton.1 he
          exact ⟨l, List.mem_append_right _ (List.mem_singleton.2 rfl), rfl, _, _, hto⟩
    · cases h
      exact hskip
    · cases h
      exact hskip

theorem laneStore_sorted {s : State} {i : Instr} {x : LaneStore} (h : laneStore s i = some x) : (x.ls.map (·.lane)).Pairwise (· < ·) := by
  have hplain : ∀ (m : W32) (f : Nat → LaneOff), (∀ l, (f l).lane = l) → (((lanesOf m).map f).map (·.lane)).Pairwise (· < ·) := by
    intro m f hf
    rw [List.map_map, show ((fun e : LaneOff => e.lane) ∘ f) = id from funext hf, List.map_id]
    exact lanesOf_sorted m
  have hbuf : ∀ (m : W32) (f : Nat → Option LaneOff), (∀ l e, f l = some e → e.lane = l) → (((lanesOf m).filterMap f).map (·.lane)).Pairwise (· < ·) := by
    intro m f hf
    refine (lanesOf_sorted m).sublist ?_
    generalize lanesOf m = ls
    induction ls with
    | nil => exact .slnil
    | cons l ls ih =>
      rw [List.filterMap_cons]
      split
      · exact ih.trans (List.sublist_cons_self _ _)
      · next e he =>
        rw [List.map_cons, hf l e he]
        exact ih.cons_cons _
  unfold laneStore at h
  split at h
  case h_1 =>
    cases h
    dsimp only
    split
    · exact hplain _ _ fun _ => rfl
    · exact hplain _ _ fun _ => rfl
  case h_2 =>
    split at h
    · dsimp only at h
      split at h
      · cases h
      · cases h
        refine hbuf _ _ fun l e he => ?_
        split at he <;> cases he
        · rfl
        · rfl
    · cases h
  case h_3 => cases h

/-! ## The cells of a lane (R184) -/

theorem sizeBytes_dvd (z : Nat) : sizeBytes z ∣ 128 := by
  unfold sizeBytes
  split <;> decide

/-- Every size but a nibble stores whole bytes of its register, or of a pair. -/
theorem storeCellsOf_whole (s : State) {z : Nat} (hz : z ≠ 5) (d : Nat) (nib : Nat → Int) (lane : Nat) : ∃ b : Bytes, b.length = sizeBytes z ∧
    (∀ j, j < sizeBytes z → b.getD j 0 = byteOf (vreg s (if j < 8 then d else d + 1) lane) (j % 8)) ∧
    ∀ o, storeCellsOf s z d nib lane o = cellsOf o b := by
  by_cases h4 : z = 4
  · subst h4
    refine ⟨bytesLE (vreg s d lane).toNat 8 ++ bytesLE (vreg s (d + 1) lane).toNat 8, ?_, fun j hj => ?_, fun o => rfl⟩
    · simp [length_bytesLE, sizeBytes]
    · have h16 : j < 16 := hj
      split
      · next hlow =>
        rw [List.getD_append _ _ _ _ (by rwa [length_bytesLE]), getD_bytesLE_word _ hlow, Nat.mod_eq_of_lt hlow]
      · next hhigh =>
        rw [List.getD_append_right _ _ _ _ (by rw [length_bytesLE]; omega), length_bytesLE, getD_bytesLE_word _ (by omega),
          show j % 8 = j - 8 by omega]
  · refine ⟨bytesLE (vreg s d lane).toNat (sizeBytes z), length_bytesLE _ _, fun j hj => ?_, fun o => ?_⟩
    · have h8 : j < 8 := by
        refine Nat.lt_of_lt_of_le hj ?_
        unfold sizeBytes
        split
        case h_5 => exact absurd rfl h4
        all_goals decide
      rw [getD_bytesLE_word _ hj, if_pos h8, Nat.mod_eq_of_lt h8]
    · unfold storeCellsOf
      dsimp only
      rw [if_neg h4, if_neg hz]

theorem find_storeCellsOf_none (s : State) (z d : Nat) (nib : Nat → Int) (lane : Nat) {o k : Nat} (h : k < o ∨ o + sizeBytes z ≤ k) :
    Tab.find k (storeCellsOf s z d nib lane o) = none := by
  by_cases hz : z = 5
  · subst hz
    have hone : ∀ c : Byte × Byte, Tab.find k [(o, c)] = none := by
      intro c
      have hne : o ≠ k := by
        change k < o ∨ o + 1 ≤ k at h
        omega
      rw [Tab.find, if_neg hne, Tab.find]
    unfold storeCellsOf
    dsimp only
    rw [if_neg (by decide), if_pos rfl]
    split
    · exact hone _
    · exact hone _
  · obtain ⟨b, hlen, -, hcells⟩ := storeCellsOf_whole s hz d nib lane
    rw [hcells, find_cellsOf, if_neg (by omega)]

/-! ## Lanes in device memory -/

/-- A lane of n bytes lies in a sector of device memory, at the offset that its address has there. -/
structure LaneTo.InSector (e : LaneTo) (n : Nat) : Prop where
  place : ∃ pa, e.place = .hbm pa ∧ pa % 128 = ptrAddr e.va % 128
  fits : ptrAddr e.va % 128 + n ≤ 128

/-- What lanes written to device memory leave. -/
structure LanesKept (t u : State) : Prop where
  num : LogNumbered u
  plies : u.plies = t.plies
  bank : BankKept t u

theorem storeAll_append (t : State) (base : W64) (g : Stage2) (cells : Nat → Nat → Tab (Byte × Byte)) (as bs : List LaneTo) :
    storeAll t base { g with tos := as ++ bs } cells = storeAll (storeAll t base { g with tos := as } cells) base { g with tos := bs } cells := by
  unfold storeAll
  rw [List.foldl_append]

section
variable {base : W64} {n : Nat} {cells : Nat → Nat → Tab (Byte × Byte)}

theorem storeAll_one {e : LaneTo} {pa : Nat} (hpa : e.place = .hbm pa) (t : State) (g : Stage2) :
    storeAll t base { g with tos := [e] } cells = logStore t t.iss.ply .dev (pa / 128) (w64 (e.va.toNat - pa % 128)) (ptrPol base)
      (cells e.lane (ptrAddr e.va % 128)) false := by
  unfold storeAll
  rw [List.foldl_cons, List.foldl_nil, hpa]
  rfl

/-- Lanes go to the log, and bytes that none of them covers are seen as before. -/
theorem storeAll_kept {t : State} {l : List LaneTo} (hnum : LogNumbered t) (hdev : ∀ e ∈ l, e.InSector n)
    (hnone : ∀ lane o k, k < o ∨ o + n ≤ k → Tab.find k (cells lane o) = none) (g : Stage2) :
    LanesKept t (storeAll t base { g with tos := l } cells) ∧ ∀ a, (∀ e ∈ l, ∀ pa, e.place = .hbm pa → a < pa ∨ pa + n ≤ a) →
      byteSeen (storeAll t base { g with tos := l } cells) t.curCore t.iss.ply a = byteSeen t t.curCore t.iss.ply a := by
  induction l using List.reverseRecOn with
  | nil => exact ⟨⟨hnum, rfl, .refl t⟩, fun _ _ => rfl⟩
  | append_singleton l e ih =>
    obtain ⟨⟨hu, hplies, hbank⟩, hseen⟩ := ih fun x hx => hdev x (List.mem_append_left _ hx)
    obtain ⟨⟨pa, hpa, hoff⟩, hfits⟩ := hdev e (List.mem_append_right _ (List.mem_singleton.2 rfl))
    rw [storeAll_append, storeAll_one hpa]
    generalize storeAll t base { g with tos := l } cells = u at hu hplies hbank hseen
    refine ⟨⟨logStore_logNumbered hu _ _ _ _ _ _ _, (plies_logStore _ _ _ _ _ _ _ _).trans hplies, hbank.trans (bankKept_logStore _ _ _ _ _ _ _ _)⟩,
      fun a ha => ?_⟩
    have hcore : (u.ply t.iss.ply).core = t.curCore := by
      rw [State.ply, hplies]
      rfl
    rw [hbank.iss, byteSeen_logStore_kept hu hcore, hseen a fun x hx => ha x (List.mem_append_left _ hx)]
    intro hsec
    have hout := ha e (List.mem_append_right _ (List.mem_singleton.2 rfl)) pa hpa
    exact hnone _ _ _ (by omega)

/-- The bytes of a lane that no later lane covers. -/
theorem storeAll_value {t : State} {as bs : List LaneTo} {e : LaneTo} {b : Bytes} {pa j : Nat} (hnum : LogNumbered t)
    (hdev : ∀ x ∈ as ++ e :: bs, x.InSector n) (hnone : ∀ lane o k, k < o ∨ o + n ≤ k → Tab.find k (cells lane o) = none)
    (hlen : b.length = n) (hcells : ∀ o, cells e.lane o = cellsOf o b) (hpa : e.place = .hbm pa) (hj : j < n)
    (hlast : ∀ x ∈ bs, ∀ pb, x.place = .hbm pb → pa + j < pb ∨ pb + n ≤ pa + j) (g : Stage2) :
    byteSeen (storeAll t base { g with tos := as ++ e :: bs } cells) t.curCore t.iss.ply (pa + j) = b.getD j 0 := by
  obtain ⟨⟨hu, hplies, hbank⟩, -⟩ := storeAll_kept (base := base) hnum (fun x hx => hdev x (List.mem_append_left _ hx)) hnone g
  obtain ⟨⟨pb, hpb, hoff⟩, hfits⟩ := hdev e (List.mem_append_right _ (List.mem_cons_self ..))
  cases hpa.symm.trans hpb
  rw [storeAll_append, show e :: bs = [e] ++ bs from rfl, storeAll_append, storeAll_one hpa]
  generalize storeAll t base { g with tos := as } cells = u at hu hplies hbank
  have hcore : (u.ply t.iss.ply).core = t.curCore := by
    rw [State.ply, hplies]
    rfl
  rw [hbank.iss, hcells]
  have hone := byteSeen_logStore hu hcore (w64 (e.va.toNat - pa % 128)) (ptrPol base) (sec := pa / 128) (off := ptrAddr e.va % 128) (b := b) (by omega) false
    (pa + j)
  have hkept := bankKept_logStore u t.iss.ply .dev (pa / 128) (w64 (e.va.toNat - pa % 128)) (ptrPol base) (cellsOf (ptrAddr e.va % 128) b) false
  have hwplies := plies_logStore u t.iss.ply .dev (pa / 128) (w64 (e.va.toNat - pa % 128)) (ptrPol base) (cellsOf (ptrAddr e.va % 128) b) false
  have hw := logStore_logNumbered hu t.iss.ply .dev (pa / 128) (w64 (e.va.toNat - pa % 128)) (ptrPol base) (cellsOf (ptrAddr e.va % 128) b) false
  generalize logStore u t.iss.ply .dev (pa / 128) (w64 (e.va.toNat - pa % 128)) (ptrPol base) (cellsOf (ptrAddr e.va % 128) b) false = w at *
  have hiss : w.iss = t.iss := hkept.iss.trans hbank.iss
  have hcur : w.curCore = t.curCore := by
    rw [State.curCore, State.curPly, State.ply, hiss, hwplies, hplies]
    rfl
  have hrest := (storeAll_kept (base := base) hw (fun x hx => hdev x (List.mem_append_right _ (List.mem_cons_of_mem _ hx))) hnone g).2 (pa + j) hlast
  rw [hiss, hcur] at hrest
  rw [hrest, hone, if_pos (by omega)]
  congr 1
  omega

end

/-- The lanes of a store to device memory, checked and translated. -/
theorem inSector_of_lanes {s v : State} {base : W64} {x : Option XReg} {z : Nat} {ls : List LaneOff} {ats : List LaneAt} {g : Stage2}
    (htag : ptrTag base = 0) (hats : checkLanes s (ctxOf s) base (storeAcc (sizeBytes z)) ls = .ok ats)
    (htrans : translateLanes s (ctxOf s) x 1 ats = (g, v)) (hdev : ∀ e ∈ g.tos, ∃ pa, e.place = .hbm pa ∧ pa % 128 = ptrAddr e.ea % 128) :
    ∀ e ∈ g.tos, e.InSector (sizeBytes z) := by
  intro e he
  obtain ⟨l, hl, hea, t, w, hacc⟩ := (translateLanes_tos htrans).2 e he
  have hcheck := (checkLanes_checked hats).1 l hl
  have hva : e.va = e.ea := (va_of_translateAcc (ptrTag_of_checkAddr hcheck htag) hacc).trans hea.symm
  refine ⟨?_, ?_⟩
  · rw [hva]
    exact hdev e he
  · rw [hva, hea]
    exact fits_of_aligned hcheck (sizeBytes_dvd z)

/-- With room in the log, a store to device memory is the writes of its lanes behind their translation. -/
theorem storeLanes_device {s u v : State} {base : W64} {x : Option XReg} {acc : Acc} {ls : List LaneOff} {ats : List LaneAt} {g : Stage2}
    {cells : Nat → Nat → Tab (Byte × Byte)} {fs : List LaneFault} (htag : ptrTag base = 0) (hats : checkLanes s (ctxOf s) base acc ls = .ok ats)
    (htrans : translateLanes s (ctxOf s) x acc.kind ats = (g, v)) (hroom : LogRoom v v.curCore g.tos.length)
    (h : storeLanes s base x acc ls cells = .ok (fs, u)) : u = storeAll v base g cells := by
  obtain ⟨g', w, htargets, -, rfl⟩ := storeLanes_ok h
  obtain ⟨ats', v', w', hats', htrans', hready, rfl⟩ := storeTargets_ok htargets
  cases hats.symm.trans hats'
  cases htrans.symm.trans htrans'
  rw [storeReady_of_room (by rwa [List.length_map])] at hready
  cases hready
  rw [htag, endForTag_device, ite_self]

/-! ## The pages of a walk (R255) -/

/-- A walk that ends at a page ends at one whose frame and virtual base lie on its own size. -/
def Walk.Framed (w : Walk) : Prop := ∀ p, w = .page p → p.frame % pageBytes p.k = 0 ∧ p.vbase % pageBytes p.k = 0

theorem framed_absent : Walk.absent.Framed := fun _ h => nomatch h

theorem framed_ptePage (v : VDev) (vn : Nat) (w0 w1 : W64) : (ptePage v vn w0 w1).Framed := by
  intro p h
  unfold ptePage at h
  dsimp only at h
  split at h
  · cases h
  · next hok =>
    cases h
    simp only [Bool.or_eq_true, not_or, bne_iff_ne, ne_eq, not_not] at hok
    obtain ⟨⟨⟨-, hvb⟩, hfr⟩, -⟩ := hok
    exact ⟨hfr, hvb⟩

theorem framed_walkSlots (s : State) (v : VDev) (vn bucket k vpn : Nat) (n : Nat) : ∀ slot, (walkSlots s v vn bucket k vpn slot n).Framed := by
  induction n with
  | zero => exact fun _ => framed_absent
  | succ n ih =>
    intro slot
    rw [walkSlots]
    split
    · exact framed_ptePage _ _ _ _
    · exact ih _

theorem framed_walkBuckets (s : State) (v : VDev) (vn k vpn h : Nat) (n : Nat) : ∀ j, (walkBuckets s v vn k vpn h j n).Framed := by
  induction n with
  | zero => exact fun _ => framed_absent
  | succ n ih =>
    intro j
    rw [walkBuckets]
    split
    · exact ih _
    · exact framed_walkSlots _ _ _ _ _ _ _ _

theorem framed_walkSizes (s : State) (v : VDev) (vn va : Nat) (n : Nat) : (walkSizes s v vn va n).Framed := by
  induction n with
  | zero => exact framed_absent
  | succ k ih =>
    rw [walkSizes]
    split
    · dsimp only
      split
      · exact ih
      · exact framed_walkBuckets _ _ _ _ _ _ _ _
    · exact ih

/-- Settles O30: a store of whole bytes is one of `byteSeen_logStore`; lanes follow one another, and a later lane leaves what it does not cover
(`storeAll_kept`). -/
theorem deviceStoreSeen : Obligations.DeviceStoreSeen := by
  unfold Obligations.DeviceStoreSeen
  refine ⟨fun i x s t ea va pa hx hl hd hbase hea htag hplace hoff hroom => ⟨_, exec_sst_device hx hl hd hbase hea htag hplace hroom, ?_⟩,
    fun i x s u v ats g hx htag hats htrans hdev hroom hstore => ?_, fun s v va p h => framed_walkSizes s (s.vdev v) v va 16 p h⟩
  · have htr := translated_translateOne hplace
    have hiss : t.iss = s.iss := htr.toLoadKept.iss
    have hcore : (t.ply s.iss.ply).core = s.curCore := by
      rw [State.ply, htr.plies]
      rfl
    have hfits : ptrAddr ea % 128 + x.n ≤ 128 := fits_of_aligned (checkAddr_of_checkOne hea) (scalarAccess_size_dvd hx)
    have hbank := bankKept_logStore t t.iss.ply .dev (pa / 128) (w64 (va.toNat - pa % 128)) (ptrPol ea)
      (cellsOf (ptrAddr ea % 128) (bytesLE (sourceOf s x.d).toNat x.n)) false
    have hlen := length_bytesLE x.n (sourceOf s x.d).toNat
    have hseen := fun a => byteSeen_logStore hroom.1 hcore (w64 (va.toNat - pa % 128)) (ptrPol ea) (sec := pa / 128) (off := ptrAddr ea % 128)
      (b := bytesLE (sourceOf s x.d).toNat x.n) (by rwa [hlen]) false a
    rw [hlen] at hseen
    rw [hiss] at hbank ⊢
    refine ⟨fun j hj => ?_, fun a ha => ?_, hbank.home, hbank.hbm, fun q => ?_⟩
    · rw [hseen, if_pos (by omega), ← getD_bytesLE_word _ hj]
      congr 1
      omega
    · rw [hseen, if_neg (by omega)]
    · rw [State.ply, State.ply, plies_logStore, htr.plies]
  · have hv := translated_translateLanes s (ctxOf s) x.bound 1 ats
    rw [htrans] at hv
    have hiss : v.iss = s.iss := hv.toLoadKept.iss
    have hcur : v.curCore = s.curCore := hv.toLoadKept.curCore
    have hsorted : (g.tos.map (·.lane)).Pairwise (· < ·) :=
      ((laneStore_sorted hx).sublist (checkLanes_checked hats).2).sublist (translateLanes_tos htrans).1
    have hin := inSector_of_lanes htag hats htrans hdev
    rw [storeLanes_device htag hats htrans hroom hstore]
    have hnone : ∀ lane o k, k < o ∨ o + sizeBytes x.size ≤ k → Tab.find k (storeCellsOf s x.size x.d x.nib lane o) = none :=
      fun lane o k h => find_storeCellsOf_none s x.size x.d x.nib lane h
    obtain ⟨hkept, hseen⟩ := storeAll_kept (base := x.base) hroom.1 hin hnone g
    rw [hiss, hcur] at hseen
    refine ⟨fun hz e he pa j hpa hj hlater => ?_, hseen, hkept.bank.home, hkept.bank.hbm, fun q => by rw [State.ply, State.ply, hkept.plies, hv.plies]⟩
    obtain ⟨as, bs, hsplit⟩ := List.append_of_mem he
    obtain ⟨b, hlen, hbytes, hcells⟩ := storeCellsOf_whole s hz x.d x.nib e.lane
    have hafter : ∀ h ∈ bs, e.lane < h.lane := by
      rw [hsplit, List.map_append, List.map_cons] at hsorted
      intro h hh
      exact (List.pairwise_cons.1 (List.pairwise_append.1 hsorted).2.1).1 _ (List.mem_map.2 ⟨h, hh, rfl⟩)
    have hvalue := storeAll_value (base := x.base) (as := as) (bs := bs) (e := e) (j := j) hroom.1 (hsplit ▸ hin) hnone hlen hcells hpa hj
      (fun h hh pb hpb => hlater h (hsplit ▸ List.mem_append_right _ (List.mem_cons_of_mem _ hh)) pb hpb (hafter h hh)) g
    rw [hiss, hcur, ← hsplit] at hvalue
    exact hvalue.trans (hbytes j hj)

end Sys2Proof.Machine
end

section
/-! PROOF. The issue of a transfer (R194, R195, R200 to R202). -/
namespace Sys2Proof.Machine

/-! ## A transfer handed to its engine -/

theorem BankSame.sameMemory {s u : State} (h : BankSame s u) : SameMemory s u := by
  obtain ⟨hkept, hscr⟩ := h
  exact ⟨fun _ => by rw [hkept.home], fun _ => by rw [hkept.hbm], fun _ => by rw [hkept.ws], fun q _ => by rw [hscr], fun q _ => by rw [hkept.tiles]⟩

theorem bankSame_completionEnds (s : State) (ptr : W64) : BankSame s (completionEnds s ptr) := by
  have hend : ∀ b : Prop, [Decidable b] → BankSame s (if b then endProtection s s.iss.ply 9 else s) := by
    intro b _
    split
    · exact bankSame_endProtection s _ 9
    · exact .refl s
  unfold completionEnds
  dsimp only
  split
  · exact .refl s
  · split
    · split
      · exact hend _
      · exact hend _
    · exact bankSame_endProtection s _ 9

theorem bankSame_endForTag (s : State) (p tag : Nat) : BankSame s (endForTag s p tag) := by
  unfold endForTag
  split
  · exact bankSame_endProtection s p 12
  · exact .refl s

/-- A transfer of the issuing fragment, not started, is the last of the list and its start an event, and nothing else differs. -/
def HandsOver (s u : State) (k : XKind) (a : W64) (grp : List W64) : Prop :=
  ∃ x : Xfer, u.xfers = s.xfers ++ [x] ∧ x.kind = k ∧ x.a = a ∧ x.grp = grp ∧ x.ply = s.iss.ply ∧ x.strand = s.iss.strand ∧ x.frag = s.iss.frag ∧
    x.core = s.curCore ∧ x.started = false ∧ x.segs = s.cur.g ∧ .transferStart x.id ∈ u.engine ∧ ReservationsOnly s u ∧ SameMemory s u

/-- The transfer handed over may be noted as a user of scratch ranges, and protection may have ended before. -/
theorem handsOver_launchXfer {s t : State} (h : BankSame s t) (k : XKind) (a : W64) (grp : List W64) (acq rel : Option Nat)
    (rd wr : List (Nat × Nat × Nat)) : HandsOver s (launchXfer t { newXfer s k a grp acq rel with rd := rd, wr := wr }) k a grp := by
  have hends : BankSame s (if rel.isSome then endProtection t t.iss.ply 8 else t) := by
    split
    · exact h.trans (bankSame_endProtection t _ 8)
    · exact h
  have hadded (x : Xfer) (v : State) (hv : BankSame s v) : (({ v with xfers := v.xfers ++ [x] }.bump).later (.transferStart x.id)).xfers = s.xfers ++ [x] ∧
      ReservationsOnly s (({ v with xfers := v.xfers ++ [x] }.bump).later (.transferStart x.id)) ∧
      SameMemory s (({ v with xfers := v.xfers ++ [x] }.bump).later (.transferStart x.id)) := by
    obtain ⟨es, hes⟩ := later_eq ({ v with xfers := v.xfers ++ [x] }.bump) (.transferStart x.id)
    rw [hes]
    exact ⟨congrArg (· ++ [x]) hv.1.xfers, hv.1.resv, hv.sameMemory⟩
  obtain ⟨hxfers, hresv, hmem⟩ := hadded { newXfer s k a grp acq rel with rd := rd, wr := wr } _ hends
  exact ⟨_, hxfers, rfl, rfl, rfl, rfl, rfl, rfl, rfl, rfl, rfl, mem_later _ _, hresv, hmem⟩

/-! ## The checks of the operands -/

theorem groupOk_of_le {b : BitVec 8} {n : Nat} (h : b.toNat + n ≤ 192) : groupOk b n = .ok () := by
  rw [groupOk, need, if_pos (decide_eq_true h)]

theorem needEntry_ok {s : State} (h : (s.xfers.filter (fun x => x.core == s.curCore && x.holdsEntry)).length < 16) : needEntry s = .ok () := by
  rw [needEntry, need, if_pos (decide_eq_true h)]

theorem early_of_checkRange {s : State} {ptr ea : W64} {acc : Acc} (h : checkRange s ptr acc = .ok ea) (n : Nat) : early s n ptr acc = .ok () := by
  unfold checkRange at h
  unfold early
  cases hc : checkOne s ptr 0 { acc with align := 1 } with
  | error e =>
    rw [hc] at h
    cases h
  | ok w => rfl

theorem checkSegment_error {s : State} {c : Ctx} {tag n : Nat} {acc : Acc} {e : Nat × Nat} (h : checkSegment s c tag n acc = .error e) :
    e.1 = 0x0B := by
  unfold checkSegment at h
  dsimp only at h
  split at h
  · cases h
    rfl
  · split at h
    · split at h
      · split at h
        · cases h
        · cases h
          rfl
      · cases h
        rfl
    · revert h
      generalize limitOk _ _ _ = fits
      intro h
      cases fits with
      | false =>
        cases h
        rfl
      | true => cases h

/-- In device memory or the ply's own scratch a pointer fault (R65) depends on the tag, on the policy bits and on whether the address fits its field:
the record of a TCOPY is at fault when the start of its 128 bytes is. -/
theorem checkAddr_pointer {s : State} {c : Ctx} {ptr base ea : W64} {acc : Acc} {k : Nat} (h : checkAddr s c base 0 acc = .ok ea)
    (htag : ptrTag base = ptrTag ptr) (hpol : ptrPol base = ptrPol ptr) (hlow : ptrTag ptr ≤ 1)
    (hfit : ptrAddr base < 2 ^ tagBits (ptrTag ptr) → ptrAddr ptr < 2 ^ tagBits (ptrTag ptr)) {e : Nat × Nat}
    (hbad : checkAddr s c ptr 0 { acc with align := k } = .error e) : e.1 ≠ 0x0A := by
  unfold checkAddr at h hbad
  rw [htag, hpol] at h
  dsimp only at h hbad
  obtain ⟨hfield, h⟩ := ite_error_ok h
  obtain ⟨hspace, h⟩ := ite_error_ok h
  obtain ⟨hpolicy, h⟩ := ite_error_ok h
  obtain ⟨-, h⟩ := ite_error_ok h
  obtain ⟨-, h⟩ := ite_error_ok h
  obtain ⟨hin, -⟩ := ite_error_ok h
  have hroom : ¬ ((ptrAddr ptr : Int) + 0 < 0 ∨ ((2 ^ tagBits (ptrTag ptr) : Nat) : Int) ≤ (ptrAddr ptr : Int) + 0) := by omega
  rw [if_neg hroom, if_neg hspace, if_neg hpolicy, if_neg (by omega), if_neg (by omega), if_neg hin] at hbad
  split at hbad
  · cases hbad
    decide
  · split at hbad
    · cases hbad
      decide
    · split at hbad
      · next hseg =>
        cases hbad
        rw [checkSegment_error hseg]
        decide
      · cases hbad

/-- The pointer of a TCOPY: its low seven bits may be those of a plane copy's kind. -/
theorem early_record {s : State} {ptr ea : W64} {tags : List Nat} (hlow : ptrTag ptr ≤ 1)
    (h : checkOne s (w64 (ptr.toNat / 128 * 128)) 0 ⟨[0], false, 128, 128, tags⟩ = .ok ea) :
    early s 0x0A ptr ⟨[0], false, 128, 128, tags⟩ = .ok () := by
  have hlt := ptr.isLt
  have hnat : (w64 (ptr.toNat / 128 * 128)).toNat = ptr.toNat / 128 * 128 := by
    rw [w64, BitVec.toNat_ofNat]
    omega
  have htag : ptrTag (w64 (ptr.toNat / 128 * 128)) = ptrTag ptr := by
    simp only [ptrTag, bits, Nat.shiftRight_eq_div_pow, hnat]
    omega
  have hpol : ptrPol (w64 (ptr.toNat / 128 * 128)) = ptrPol ptr := by
    simp only [ptrPol, bits, Nat.shiftRight_eq_div_pow, hnat]
    omega
  have haddr : ptrAddr (w64 (ptr.toNat / 128 * 128)) = ptrAddr ptr / 128 * 128 := by
    simp only [ptrAddr, bits, Nat.shiftRight_zero, hnat]
    omega
  have hfit : ptrAddr (w64 (ptr.toNat / 128 * 128)) < 2 ^ tagBits (ptrTag ptr) → ptrAddr ptr < 2 ^ tagBits (ptrTag ptr) := by
    rw [haddr]
    rcases Nat.le_one_iff_eq_zero_or_eq_one.1 hlow with h0 | h1
    · simp only [h0, tagBits]
      omega
    · simp only [h1, tagBits]
      omega
  cases hcheck : checkAddr s (ctxOf s) (w64 (ptr.toNat / 128 * 128)) 0 ⟨[0], false, 128, 128, tags⟩ with
  | error e =>
    unfold checkOne at h
    rw [hcheck] at h
    cases h
  | ok w =>
    unfold early checkOne
    cases hptr : checkAddr s (ctxOf s) ptr 0 ⟨[0], false, 128, 1, tags⟩ with
    | ok v => rfl
    | error e => exact if_pos (bne_iff_ne.2 (checkAddr_pointer hcheck htag hpol hlow hfit hptr))

/-! ## The instructions -/

/-- TCOPY (R198). -/
theorem tcopy_ok {s : State} {k : XKind} {a b : BitVec 8} (sc : BitVec 3) (l : BitVec 2) {ea : W64} (ha : isSource a) (hb : b.toNat ≤ 187)
    (htag : ptrTag (sourceOf s a) ≤ 1) (hlow : if k = .tcopyPl then bits (sourceOf s a) 1 6 = 0 else bits (sourceOf s a) 0 7 = 0)
    (hoff : (sreg s b.toNat).toNat < 2 ^ 20) (hoff16 : (sreg s b.toNat).toNat % 16 = 0)
    (hea : checkOne s (w64 ((sourceOf s a).toNat / 128 * 128)) 0 ⟨[0], false, 128, 128, [0, 1]⟩ = .ok ea)
    (hentry : (s.xfers.filter (fun x => x.core == s.curCore && x.holdsEntry)).length < 16) :
    ∃ u, tcopy s k a b sc l = .ok u ∧ HandsOver s u k (sourceOf s a) (groupOf s b 5) := by
  have hlow' : ((if k = .tcopyPl then bits (sourceOf s a) 1 6 else bits (sourceOf s a) 0 7) == 0) = true := by
    split at hlow
    · next hk => rw [if_pos hk, beq_iff_eq, hlow]
    · next hk => rw [if_neg hk, beq_iff_eq, hlow]
  have hops : ((if k = .tcopyPl then bits (sourceOf s a) 1 6 else bits (sourceOf s a) 0 7) == 0 &&
      decide ((sreg s b.toNat).toNat < 2 ^ 20) && (sreg s b.toNat).toNat % 16 == 0) = true := by
    rw [hlow', decide_eq_true hoff, hoff16]
    rfl
  unfold tcopy
  rw [readS_bind s ha, groupOk_of_le (by omega), ok_bind]
  dsimp only
  rw [need_bind (decide_eq_true htag), early_record htag hea, ok_bind, need_bind hops, hea, ok_bind, needEntry_ok hentry, ok_bind]
  refine ⟨_, rfl, ?_⟩
  split
  · exact handsOver_launchXfer (bankSame_completionEnds s _) _ _ _ _ _ [_] []
  · exact handsOver_launchXfer (bankSame_completionEnds s _) _ _ _ _ _ [] [_]

/-- BCOPY, BFILL and SCOPY (R200). -/
theorem bulk_ok {s : State} {k : XKind} {a b : BitVec 8} (acq rel : Option Nat) {ea eb : W64} (ha : isSource a) (hb : b.toNat ≤ 189)
    (hdst : (sourceOf s a).toNat % 16 = 0) (hsrc : k ≠ .bfill → (sreg s b.toNat).toNat % 16 = 0) (hn : (sreg s (b.toNat + 1)).toNat % 16 = 0)
    (hleast : 16 ≤ (sreg s (b.toNat + 1)).toNat) (hmost : (sreg s (b.toNat + 1)).toNat ≤ if k = .scopy then 655360 else 2 ^ 32)
    (hea : checkRange s (sourceOf s a) ⟨[1], true, (sreg s (b.toNat + 1)).toNat, 1,
      if k = .scopy then [1, 2, 3] else if k = .scopy then [1, 2] else [0, 1, 2, 3, 4, 5]⟩ = .ok ea)
    (heb : k ≠ .bfill → checkRange s (sreg s b.toNat) ⟨[0], false, (sreg s (b.toNat + 1)).toNat, 1,
      if k = .scopy then [1, 2] else [0, 1, 2, 3, 4, 5]⟩ = .ok eb)
    (hentry : (s.xfers.filter (fun x => x.core == s.curCore && x.holdsEntry)).length < 16) :
    ∃ u, bulk s k a b acq rel = .ok u ∧ HandsOver s u k (sourceOf s a) (groupOf s b 3) := by
  have hends : BankSame s (completionEnds (endForTag s s.iss.ply (ptrTag (sourceOf s a)))
      (sreg (endForTag s s.iss.ply (ptrTag (sourceOf s a))) (b.toNat + 2))) :=
    (bankSame_endForTag s _ _).trans (bankSame_completionEnds _ _)
  have hops (src : Option W64) (hs : (src.getD 0).toNat % 16 = 0) : ((sourceOf s a).toNat % 16 == 0 && (src.getD 0).toNat % 16 == 0 &&
      (sreg s (b.toNat + 1)).toNat % 16 == 0 && decide (16 ≤ (sreg s (b.toNat + 1)).toNat) &&
      decide ((sreg s (b.toNat + 1)).toNat ≤ if k = .scopy then 655360 else 2 ^ 32)) = true := by
    rw [hdst, hs, hn, decide_eq_true hleast, decide_eq_true hmost]
    rfl
  unfold bulk
  rw [readS_bind s ha, groupOk_of_le (by omega), ok_bind]
  dsimp only
  rw [early_of_checkRange hea, ok_bind]
  by_cases hk : k = .bfill
  · simp only [if_pos hk]
    rw [early_of_checkRange hea, ok_bind, need_bind (hops none rfl), hea, ok_bind, ok_bind, needEntry_ok hentry, ok_bind]
    exact ⟨_, rfl, handsOver_launchXfer hends _ _ _ _ _ _ _⟩
  · simp only [if_neg hk]
    rw [early_of_checkRange (heb hk), ok_bind, early_of_checkRange hea, ok_bind, need_bind (hops (some (sreg s b.toNat)) (hsrc hk)), hea, ok_bind, heb hk, ok_bind,
      needEntry_ok hentry, ok_bind]
    exact ⟨_, rfl, handsOver_launchXfer hends _ _ _ _ _ _ _⟩

/-- RATOM (R201). -/
theorem exec_ratom {s : State} {a b : BitVec 8} {ea : W64} (ha : isSource a) (hb : b.toNat ≤ 187) (hop : (sreg s b.toNat).toNat < 27)
    (hslot : sreg s (b.toNat + 3) = 0 ∨ (bits (sreg s (b.toNat + 3)) 60 4 ≤ 1 ∧ (sreg s (b.toNat + 3)).toNat % 16 = 0))
    (hea : checkOne s (sourceOf s a) 0 ⟨[0, 1], false, amoBytes (sreg s b.toNat).toNat, amoBytes (sreg s b.toNat).toNat, [4, 5]⟩ = .ok ea) :
    exec (.ratom a b) s =
      .next (advance (launchXfer (endProtection s s.iss.ply 11) (newXfer s .ratom (sourceOf s a) (groupOf s b 5) none none))) := by
  have hslot' : (sreg s (b.toNat + 3) == 0 || (decide (ptrTag (sreg s (b.toNat + 3)) ≤ 1) && (sreg s (b.toNat + 3)).toNat % 16 == 0)) = true := by
    rcases hslot with hzero | ⟨htag, h16⟩
    · rw [hzero]
      rfl
    · rw [ptrTag, decide_eq_true htag, h16]
      exact Bool.or_true _
  change execRatom a b s = _
  unfold execRatom
  rw [readS_bind s ha, groupOk_of_le (by omega), ok_bind]
  dsimp only
  rw [need_bind (decide_eq_true hop), need_bind hslot', hea, ok_bind, run_ok]

/-- COLL (R202). -/
theorem exec_coll {s : State} {a : BitVec 8} (sc : BitVec 3) (l : BitVec 2) {ea : W64} (ha : isSource a)
    (hea : checkOne s (sourceOf s a) 0 ⟨[0], false, 64, 64, [0]⟩ = .ok ea)
    (hroom : (s.xfers.filter (fun x => x.kind == .coll && coreIo x.core == coreIo s.curCore)).length < 16) :
    exec (.coll a sc l) s =
      .next (advance (launchXfer (endProtection s s.iss.ply 11) (newXfer s .coll (sourceOf s a) [] (acqFlag sc l) (relFlag sc l)))) := by
  change execColl a sc l s = _
  unfold execColl
  rw [readS_bind s ha, hea, ok_bind, need_bind (decide_eq_true hroom), run_ok]

/-- Settles O46: every form passes its checks in the order of R65 and comes down to `launchXfer` (`handsOver_launchXfer`). -/
theorem transferIssueResults : Obligations.TransferIssueResults := by
  unfold Obligations.TransferIssueResults
  refine ⟨fun i k a b sc l s ea hi _ ha hb htag hlow hoff hoff16 hea hentry => ?_,
    fun i k a b sc l m s ea eb hi _ ha hb hdst hsrc hn hleast hmost hea heb hentry => ?_,
    fun a b s ea _ ha hb hop hslot hea => ⟨_, exec_ratom ha hb hop hslot hea, ?_⟩,
    fun a sc l s ea _ ha hea hroom => ⟨_, exec_coll sc l ha hea hroom, ?_⟩⟩
  · obtain ⟨u, hu, hhand⟩ := tcopy_ok sc l ha hb htag hlow hoff hoff16 hea hentry
    refine ⟨u, ?_, hhand⟩
    rw [← run_ok s u, ← hu]
    rcases hi with ⟨rfl, rfl⟩ | ⟨rfl, rfl⟩ | ⟨rfl, rfl⟩ <;> rfl
  · have hbulk : ∃ acq rel, exec i s = run s (bulk s k a b acq rel) := by
      rcases hi with ⟨rfl, rfl⟩ | ⟨rfl, rfl⟩ | ⟨rfl, rfl⟩ <;> exact ⟨_, _, rfl⟩
    obtain ⟨acq, rel, hexec⟩ := hbulk
    obtain ⟨u, hu, hhand⟩ := bulk_ok acq rel ha hb hdst hsrc hn hleast hmost hea heb hentry
    exact ⟨u, by rw [hexec, hu, run_ok], hhand⟩
  · exact handsOver_launchXfer (bankSame_endProtection s _ 11) _ _ _ _ _ [] []
  · exact handsOver_launchXfer (bankSame_endProtection s _ 11) _ _ _ _ _ [] []

end Sys2Proof.Machine
end

section
/-! PROOF. Bytes of device memory through reads and writes at the homes (R10, R365): whatever happens to other sectors, one that the homes can drop
without loss keeps its bytes until it is written. -/
namespace Sys2Proof.Machine

/-! ## Sectors that may leave their slice -/

/-- A sector may leave its home without loss: it is not present, or it is dirty or reads as in HBM. -/
def Settled (s : State) (sec : Nat) : Prop := Tab.find sec s.l2 = none ∨ SectorAgrees s sec

/-- A settled sector stays so, and keeps its bytes. -/
def Held (sec : Nat) (s t : State) : Prop := Settled s sec → Settled t sec ∧ ∀ a, a / 128 = sec → Mem.byte t.home a = Mem.byte s.home a

theorem settled_of_homesAgree {s : State} (h : HomesAgree s) (sec : Nat) : Settled s sec := .inr ((homesAgree_iff s).1 h sec)

variable {sec : Nat}

theorem Held.refl (s : State) : Held sec s s := fun h => ⟨h, fun _ _ => rfl⟩

theorem Held.trans {s t u : State} (h : Held sec s t) (k : Held sec t u) : Held sec s u := fun hs => by
  obtain ⟨ht, hst⟩ := h hs
  obtain ⟨hu, htu⟩ := k ht
  exact ⟨hu, fun a ha => (htu a ha).trans (hst a ha)⟩

theorem Held.foldl {α : Type} {f : State → α → State} (h : ∀ s x, Held sec s (f s x)) (l : List α) : ∀ s, Held sec s (l.foldl f s) := by
  induction l with
  | nil => exact Held.refl
  | cons x l ih => exact fun s => (h s x).trans (ih _)

/-- A step after which this sector's entry and its bytes, at its home and in HBM, are as before. -/
theorem Held.of_sector {s t : State} (hl2 : Tab.find sec t.l2 = Tab.find sec s.l2) (hhome : ∀ a, a / 128 = sec → Mem.byte t.home a = Mem.byte s.home a)
    (hhbm : ∀ a, a / 128 = sec → Mem.byte t.hbm a = Mem.byte s.hbm a) : Held sec s t := by
  refine fun hs => ⟨hs.imp (fun h => hl2.trans h) (fun h hd a ha => ?_), hhome⟩
  have hclean : dirtyAt s sec = false := by
    unfold dirtyAt Tab.get at hd ⊢
    rwa [hl2] at hd
  rw [hhome a ha, hhbm a ha]
  exact h hclean a ha

theorem Held.of_kept {s t : State} (h : t.kept = s.kept) : Held sec s t := by
  simp only [State.kept, Prod.mk.injEq] at h
  obtain ⟨hhome, hhbm, hl2, -⟩ := h
  exact .of_sector (by rw [hl2]) (fun _ _ => by rw [hhome]) (fun _ _ => by rw [hhbm])

/-! ## Sectors leave their slice, with the errors that they meet -/

theorem held_writeBack (s : State) (v : Nat) : Held sec s (writeBack s v) := by
  unfold writeBack
  split
  · next l hl =>
    split
    · by_cases hv : sec = v
      · subst hv
        refine fun _ => ⟨.inr fun _ a ha => ?_, fun _ _ => rfl⟩
        dsimp only
        rw [Mem.byte_copySector, if_pos ha]
      · refine .of_sector (Tab.find_put_ne hv _ _) (fun _ _ => rfl) fun a ha => ?_
        dsimp only
        rw [Mem.byte_copySector, if_neg (by omega)]
    · exact .refl s
  · exact .refl s

theorem held_l2Drop {s : State} {v : Nat} (hclean : dirtyAt s v = false) : Held sec s (l2Drop s v) := by
  unfold l2Drop
  split
  · next l hl =>
    by_cases hv : sec = v
    · subst hv
      refine fun hs => ⟨.inl ?_, fun a ha => ?_⟩
      · dsimp only
        rw [Tab.find_del, if_pos rfl]
      · dsimp only
        rw [Mem.byte_copySector, if_pos ha]
        exact (hs.resolve_left (by rw [hl]; exact Option.some_ne_none l) hclean a ha).symm
    · refine .of_sector ?_ (fun a ha => ?_) fun _ _ => rfl
      · dsimp only
        rw [Tab.find_del, if_neg hv]
      · dsimp only
        rw [Mem.byte_copySector, if_neg (by omega)]
  · exact .refl s

theorem held_detectL2 (s : State) (v : Nat) : Held sec s (detectL2 s v).1 := by
  unfold detectL2
  split
  · exact .refl s
  · next l hl =>
    split
    · exact .refl s
    · next f t ht =>
      have hst : Held sec s t := .of_kept (kept_takeFlip ht)
      have hl2 : t.l2 = s.l2 := congrArg (·.2.2.1) (kept_takeFlip ht)
      dsimp only
      split
      · exact hst.trans (.of_kept (kept_countFixed t _))
      · split
        · exact hst.trans (.of_kept rfl)
        · next hd =>
          have hclean : dirtyAt t v = false := by simpa [dirtyAt, Tab.get, hl2, hl] using hd
          exact (hst.trans (held_l2Drop hclean)).trans (.of_kept (kept_modDie _ _ _))

theorem held_l2Leave (s : State) (v : Nat) : Held sec s (l2Leave s v) :=
  ((held_detectL2 s v).trans (held_writeBack _ v)).trans (held_l2Drop (dirtyAt_writeBack _ v))

theorem held_retireWay (s : State) (sl way : Nat) : Held sec s (retireWay s sl way) := by
  unfold retireWay
  dsimp only
  refine (Held.foldl held_l2Leave ((slicePresent s sl).filter (fun e => Config.l2Way e % 32 == way)) s).trans (.of_kept ?_)
  split
  · simp
  · split <;> simp

theorem held_doubleInWay (s : State) (v : Nat) : Held sec s (doubleInWay s v) := by
  have hnote : Held sec s (noteDouble s (paSlice (v * 128) / 32) 3 (paSlice (v * 128) % 32 * 32 + Config.l2Way v % 32) 4).1 := .of_kept (kept_noteDouble ..)
  unfold doubleInWay
  dsimp only
  split
  · exact hnote.trans (held_retireWay _ _ _)
  · exact hnote

theorem held_detectL2_doubleInWay (s : State) (v : Nat) :
    Held sec s (if (detectL2 s v).2 then doubleInWay (detectL2 s v).1 v else (detectL2 s v).1) := by
  split
  · exact (held_detectL2 s v).trans (held_doubleInWay _ v)
  · exact held_detectL2 s v

theorem held_l2Clean (s : State) (v : Nat) : Held sec s (l2Clean s v) := (held_detectL2_doubleInWay s v).trans (held_writeBack _ v)

theorem held_detectHome (s : State) (v : Nat) : Held sec s (detectHome s v) := by
  unfold detectHome
  dsimp only
  refine (held_detectL2_doubleInWay s v).trans ?_
  generalize (if (detectL2 s v).2 then doubleInWay (detectL2 s v).1 v else (detectL2 s v).1) = r
  split
  · exact .refl r
  · split
    · next f t ht =>
      have hrt : Held sec r t := .of_kept (kept_takeFlip ht)
      split
      · exact hrt.trans (.of_kept (kept_countFixed t _))
      · exact hrt.trans (.of_kept (kept_doubleInRow _ _ _ _))
    · exact .refl r

theorem held_readUnder (s : State) (v : Nat) (whole : Bool) : Held sec s (readUnder s v whole) := by
  unfold readUnder
  split
  · exact .refl s
  · exact held_detectHome s v

/-! ## Sectors are filled -/

/-- A slice that is full gives up a sector. -/
def madeRoom (s : State) (v : Nat) : State :=
  if (slicePresent s (paSlice (v * 128))).length < sliceRoom s (paSlice (v * 128)) then s
  else
    match l2Victim s (paSlice (v * 128)) with
    | some w => { l2Drop (l2Clean s w) w with draws := s.draws + 1 }
    | none => s

theorem l2Fill_absent {s : State} {v : Nat} (h : Tab.find v s.l2 = none) (prio : Nat) : ∃ hit, l2Fill s v prio =
    { dropFlips (madeRoom s v) hit with l2 := Tab.put v { dirty := false, prio := prio } (dropFlips (madeRoom s v) hit).l2 } := by
  unfold l2Fill
  rw [h]
  exact ⟨_, rfl⟩

theorem held_madeRoom (s : State) (v : Nat) : Held sec s (madeRoom s v) := by
  unfold madeRoom
  split
  · exact .refl s
  · split
    · next w _ => exact ((held_l2Clean s w).trans (held_l2Drop (dirtyAt_writeBack _ w))).trans (.of_kept rfl)
    · exact .refl s

/-- The fill of another sector. -/
theorem held_l2Fill {v : Nat} (hv : sec ≠ v) (s : State) (prio : Nat) : Held sec s (l2Fill s v prio) := by
  cases hf : Tab.find v s.l2 with
  | some l =>
    unfold l2Fill
    rw [hf]
    exact .of_sector (Tab.find_put_ne hv _ _) (fun _ _ => rfl) fun _ _ => rfl
  | none =>
    obtain ⟨hit, heq⟩ := l2Fill_absent hf prio
    rw [heq]
    exact ((held_madeRoom s v).trans (.of_kept (kept_dropFlips _ hit))).trans
      (.of_sector (Tab.find_put_ne hv _ _) (fun _ _ => rfl) fun _ _ => rfl)

/-- A sector's own fill leaves its bytes: what leaves to make room is another. -/
theorem byte_l2Fill (s : State) (prio : Nat) {a : Nat} (ha : a / 128 = sec) : Mem.byte (l2Fill s sec prio).home a = Mem.byte s.home a := by
  cases hf : Tab.find sec s.l2 with
  | some l =>
    unfold l2Fill
    rw [hf]
  | none =>
    obtain ⟨hit, heq⟩ := l2Fill_absent hf prio
    have hroom : Held sec s (dropFlips (madeRoom s sec) hit) := (held_madeRoom s sec).trans (.of_kept (kept_dropFlips _ hit))
    rw [heq]
    exact (hroom (.inl hf)).2 a ha

/-! ## Writes -/

/-- The bytes that a write leaves, in the sectors that it does not touch, in its own sector and beside its own bytes. -/
structure Wrote (s t : State) (pa : Nat) (b : Bytes) : Prop where
  bytes : ∀ i, i < b.length → Mem.byte t.home (pa + i) = b.getD i 0
  others : ∀ sec, Settled s sec → Settled t sec ∧ ∀ a, a / 128 = sec → (a < pa ∨ pa + b.length ≤ a) → Mem.byte t.home a = Mem.byte s.home a

theorem Wrote.nil (s : State) (pa : Nat) : Wrote s s pa [] := ⟨fun _ h => absurd h (Nat.not_lt_zero _), fun _ h => ⟨h, fun _ _ _ => rfl⟩⟩

/-- What marks a write leaves other sectors settled, and settles its own. -/
theorem held_markWritten {v : Nat} (hv : sec ≠ v) (s : State) (pol : Nat) : Held sec s (markWritten s v pol) := by
  unfold markWritten
  split
  · refine .of_sector rfl (fun _ _ => rfl) fun a ha => ?_
    dsimp only
    rw [Mem.byte_copySector, if_neg (by omega)]
  · exact (held_l2Fill hv s _).trans (.of_sector (Tab.find_put_ne hv _ _) (fun _ _ => rfl) fun _ _ => rfl)

theorem settled_markWritten (s : State) (pol : Nat) :
    Settled (markWritten s sec pol) sec ∧ ∀ a, a / 128 = sec → Mem.byte (markWritten s sec pol).home a = Mem.byte s.home a := by
  unfold markWritten
  split
  · refine ⟨.inr fun _ a ha => ?_, fun _ _ => rfl⟩
    dsimp only
    rw [Mem.byte_copySector, if_pos ha]
  · refine ⟨.inr fun hd => ?_, fun a ha => byte_l2Fill s _ ha⟩
    simp [dirtyAt] at hd

theorem wrote_homeWriteIn (s : State) {pa : Nat} (pol : Nat) {b : Bytes} (hb : pa % 128 + b.length ≤ 128) :
    Wrote s (homeWriteIn s pa pol b) pa b ∧ Settled (homeWriteIn s pa pol b) (pa / 128) := by
  generalize hw : coversSector pa b.length (pa / 128) = whole
  have hin : homeWriteIn s pa pol b = loseReservations (markWritten (clearWritten
      { readUnder s (pa / 128) whole with home := Mem.write (readUnder s (pa / 128) whole).home pa b } (pa / 128) whole) (pa / 128) pol)
        (.hbm (pa / 128 * 128)) := by
    rw [← hw]
    rfl
  have hunder : ∀ sec, Held sec s (readUnder s (pa / 128) whole) := fun sec => held_readUnder s _ whole
  generalize readUnder s (pa / 128) whole = r at hin hunder
  have hclear := kept_clearWritten { r with home := Mem.write r.home pa b } (pa / 128) whole
  have hclearHome : (clearWritten { r with home := Mem.write r.home pa b } (pa / 128) whole).home = Mem.write r.home pa b := congrArg (·.1) hclear
  have hclearHeld : ∀ sec, Held sec { r with home := Mem.write r.home pa b } (clearWritten { r with home := Mem.write r.home pa b } (pa / 128) whole) :=
    fun sec => .of_kept hclear
  generalize clearWritten { r with home := Mem.write r.home pa b } (pa / 128) whole = c at hin hclearHome hclearHeld
  have hlast : ∀ sec, Held sec (markWritten c (pa / 128) pol) (homeWriteIn s pa pol b) := fun sec => by
    rw [hin]
    exact .of_sector rfl (fun _ _ => rfl) fun _ _ => rfl
  obtain ⟨hmarked, hmarkedBytes⟩ := settled_markWritten (sec := pa / 128) c pol
  obtain ⟨hsettled, hlastBytes⟩ := hlast _ hmarked
  have hown : ∀ a, a / 128 = pa / 128 → Mem.byte (homeWriteIn s pa pol b).home a = Mem.byte (Mem.write r.home pa b) a := fun a ha => by
    rw [hlastBytes a ha, hmarkedBytes a ha, hclearHome]
  refine ⟨⟨fun i hi => ?_, fun sec hs => ?_⟩, hsettled⟩
  · rw [hown _ (by omega), Mem.byte_write, if_pos (by omega)]
    congr 1
    omega
  · obtain ⟨hr, hrBytes⟩ := hunder sec hs
    by_cases hsec : sec = pa / 128
    · subst hsec
      refine ⟨hsettled, fun a ha hout => ?_⟩
      rw [hown a ha, Mem.byte_write_outside _ _ _ _ hout, hrBytes a ha]
    · have hwrite : Held sec r { r with home := Mem.write r.home pa b } := .of_sector rfl
        (fun a ha => Mem.byte_write_outside _ _ _ _ (by omega)) fun _ _ => rfl
      obtain ⟨ht, hbytes⟩ := ((hwrite.trans (hclearHeld sec)).trans (held_markWritten hsec c pol)).trans (hlast sec) hr
      exact ⟨ht, fun a ha _ => (hbytes a ha).trans (hrBytes a ha)⟩

theorem wrote_homeWriteAll (pol fuel : Nat) : ∀ (s : State) (pa : Nat) (b : Bytes), pa % 128 + b.length ≤ 128 * fuel →
    Wrote s (homeWriteAll s pa pol b fuel) pa b := by
  induction fuel with
  | zero =>
    intro s pa b h
    have hnil : b = [] := List.eq_nil_of_length_eq_zero (by omega)
    rw [hnil]
    exact .nil s pa
  | succ fuel ih =>
    intro s pa b h
    by_cases hnil : b = []
    · rw [hnil, homeWriteAll, if_pos rfl]
      exact .nil s pa
    rw [homeWriteAll, if_neg hnil]
    dsimp only
    have hlen : (b.take (128 - pa % 128)).length = min (128 - pa % 128) b.length := List.length_take
    have hrest : (b.drop (128 - pa % 128)).length = b.length - (128 - pa % 128) := List.length_drop
    obtain ⟨⟨hfirst, hothers⟩, hsettled⟩ := wrote_homeWriteIn s (pa := pa) pol (b := b.take (128 - pa % 128)) (by omega)
    obtain ⟨hnext, hkept⟩ := ih (homeWriteIn s pa pol (b.take (128 - pa % 128))) (pa + (128 - pa % 128)) (b.drop (128 - pa % 128)) (by omega)
    refine ⟨fun i hi => ?_, fun sec hs => ?_⟩
    · by_cases hin : i < 128 - pa % 128
      · rw [(hkept (pa / 128) hsettled).2 (pa + i) (by omega) (by omega), hfirst i (by omega), List.getD_eq_getElem?_getD, List.getD_eq_getElem?_getD,
          List.getElem?_take_of_lt hin]
      · have hbyte := hnext (i - (128 - pa % 128)) (by omega)
        rw [show pa + (128 - pa % 128) + (i - (128 - pa % 128)) = pa + i by omega] at hbyte
        rw [hbyte, List.getD_eq_getElem?_getD, List.getD_eq_getElem?_getD, List.getElem?_drop,
          show 128 - pa % 128 + (i - (128 - pa % 128)) = i by omega]
    · obtain ⟨ht, htBytes⟩ := hothers sec hs
      obtain ⟨hu, huBytes⟩ := hkept sec ht
      exact ⟨hu, fun a ha hout => (huBytes a ha (by omega)).trans (htBytes a ha (by omega))⟩

theorem wrote_homeWrite (s : State) (pa : Nat) (b : Bytes) : Wrote s (homeWrite s pa b) pa b := wrote_homeWriteAll 0 _ s pa b (by omega)

theorem Wrote.read {s t : State} {pa : Nat} {b : Bytes} (h : Wrote s t pa b) : Mem.read t.home pa b.length = b := Mem.read_eq_of_bytes h.bytes

theorem Wrote.outside {s t : State} {pa : Nat} {b : Bytes} (h : Wrote s t pa b) (hs : HomesAgree s) {a : Nat} (ha : a < pa ∨ pa + b.length ≤ a) :
    Mem.byte t.home a = Mem.byte s.home a :=
  (h.others (a / 128) (settled_of_homesAgree hs _)).2 a rfl ha

end Sys2Proof.Machine
end

section
/-! PROOF. Doorbells (R267, R327, R337), BAR2 accesses (R327, R337, R405) and accesses of the host (R249). -/
namespace Sys2Proof.Machine

/-! ## Reads at the homes send nothing where there is no bit error -/

/-- From a state without bit errors, one without them in which nothing more has been sent. -/
def Quiet (s t : State) : Prop := s.flips = [] → t.flips = [] ∧ t.plat.out = s.plat.out

theorem Quiet.refl (s : State) : Quiet s s := fun h => ⟨h, rfl⟩

theorem Quiet.trans {s t u : State} (h : Quiet s t) (k : Quiet t u) : Quiet s u := fun hs => by
  obtain ⟨ht, hst⟩ := h hs
  obtain ⟨hu, htu⟩ := k ht
  exact ⟨hu, htu.trans hst⟩

theorem Quiet.foldl {α : Type} {f : State → α → State} (h : ∀ s x, Quiet s (f s x)) (l : List α) : ∀ s, Quiet s (l.foldl f s) := by
  induction l with
  | nil => exact Quiet.refl
  | cons x l ih => exact fun s => (h s x).trans (ih _)

theorem quiet_countHome (s : State) (pa : Nat) : Quiet s (countHome s pa) := by
  unfold countHome
  split <;> exact fun h => ⟨h, rfl⟩

theorem quiet_dropFlips (s : State) (hit : Flip → Bool) : Quiet s (dropFlips s hit) := fun h => by
  rw [dropFlips_noFlips h]
  exact ⟨h, rfl⟩

theorem quiet_detectHome (s : State) (sec : Nat) : Quiet s (detectHome s sec) := fun h => by
  rw [detectHome_noFlips h]
  exact ⟨h, rfl⟩

theorem quiet_writeBack (s : State) (sec : Nat) : Quiet s (writeBack s sec) := by
  unfold writeBack
  split
  · split <;> exact fun h => ⟨h, rfl⟩
  · exact .refl s

theorem quiet_l2Clean (s : State) (sec : Nat) : Quiet s (l2Clean s sec) := fun h => by
  have hclean : l2Clean s sec = writeBack s sec := by simp [l2Clean, detectL2_noFlips h]
  rw [hclean]
  exact quiet_writeBack s sec h

theorem quiet_l2Drop (s : State) (sec : Nat) : Quiet s (l2Drop s sec) := by
  unfold l2Drop
  split <;> exact fun h => ⟨h, rfl⟩

theorem quiet_madeRoom (s : State) (sec : Nat) : Quiet s (madeRoom s sec) := by
  unfold madeRoom
  split
  · exact .refl s
  · split
    · exact (quiet_l2Clean s _).trans (quiet_l2Drop _ _)
    · exact .refl s

theorem quiet_l2Fill (s : State) (sec prio : Nat) : Quiet s (l2Fill s sec prio) := by
  cases hf : Tab.find sec s.l2 with
  | some l =>
    unfold l2Fill
    rw [hf]
    exact fun h => ⟨h, rfl⟩
  | none =>
    obtain ⟨hit, heq⟩ := l2Fill_absent hf prio
    rw [heq]
    exact (quiet_madeRoom s sec).trans (quiet_dropFlips _ hit)

theorem quiet_homeTouch (s : State) (pa pol : Nat) : Quiet s (homeTouch s pa pol) := by
  have hread := (quiet_countHome s pa).trans (quiet_detectHome _ (pa / 128))
  unfold homeTouch
  dsimp only
  split
  · exact hread
  · exact hread.trans (quiet_l2Fill _ _ _)

theorem quiet_homeWriteIn (s : State) (pa pol : Nat) (b : Bytes) : Quiet s (homeWriteIn s pa pol b) := by
  have hunder : ∀ whole, Quiet s (readUnder s (pa / 128) whole) := fun whole => by
    unfold readUnder
    split
    · exact .refl s
    · exact quiet_detectHome s _
  have hclear : ∀ (t : State) sec whole, Quiet t (clearWritten t sec whole) := fun t sec whole => by
    unfold clearWritten
    split
    · refine Quiet.trans ?_ (quiet_dropFlips _ _)
      exact quiet_countHome t _
    · exact quiet_countHome t _
  have hmark : ∀ (t : State) sec, Quiet t (markWritten t sec pol) := fun t sec => by
    unfold markWritten
    split
    · exact fun h => ⟨h, rfl⟩
    · exact quiet_l2Fill t sec _
  have hlose : ∀ (t : State) p, Quiet t (loseReservations t p) := fun t p h => ⟨h, rfl⟩
  unfold homeWriteIn
  rw [homeWrote_eq]
  refine (hunder (coversSector pa b.length (pa / 128))).trans (Quiet.trans ?_ ((hclear _ _ _).trans ((hmark _ _).trans (hlose _ _))))
  exact fun h => ⟨h, rfl⟩

theorem quiet_touchBuckets (v : VDev) (vn k vpn h n : Nat) : ∀ (s : State) (j : Nat), Quiet s (touchBuckets s v vn k vpn h j n).1 := by
  induction n with
  | zero => exact fun s _ => .refl s
  | succ n ih =>
    intro s j
    unfold touchBuckets
    dsimp only
    split
    · exact (quiet_homeTouch s _ 0).trans (ih _ _)
    · exact quiet_homeTouch s _ 0

theorem quiet_touchSizes (v : VDev) (vn va k : Nat) : ∀ s : State, Quiet s (touchSizes s v vn va k) := by
  induction k with
  | zero => exact .refl
  | succ k ih =>
    intro s
    unfold touchSizes
    dsimp only
    split
    · split
      · exact quiet_touchBuckets _ _ _ _ _ _ s 0
      · exact (quiet_touchBuckets _ _ _ _ _ _ s 0).trans (ih _)
    · exact ih s

theorem quiet_walkTouch (s : State) (vn va : Nat) : Quiet s (walkTouch s vn va) := quiet_touchSizes _ vn va 16 s

/-! ## Doorbells -/

section
variable {s : State} {port : Bool} {q v : Nat} {x : W64}

theorem exec_doorbell_read (hpf : onlyPf0 s = false) (hq : q < 128) :
    exec (.doorbell ⟨port, 0⟩ q ⟨true, none⟩) s = .next (s.send (.readReply port (List.replicate 8 0))) := by
  change execDoorbell ⟨port, 0⟩ q ⟨true, none⟩ s = _
  unfold execDoorbell
  rw [hpf, decide_eq_false (Nat.not_le.2 hq)]
  rfl

theorem exec_doorbell_write (hpf : onlyPf0 s = false) (hq : q < 128) :
    exec (.doorbell ⟨port, 0⟩ q ⟨true, some x⟩) s = .next (ringDoorbell s q x.toNat) := by
  change execDoorbell ⟨port, 0⟩ q ⟨true, some x⟩ s = _
  unfold execDoorbell
  rw [hpf, decide_eq_false (Nat.not_le.2 hq)]
  rfl

theorem exec_doorbell_secure (hpf : onlyPf0 s = false) (hq : q < 128) (hexist : (s.vdev v).exist = true) (hsec : (s.vdev v).secure = true)
    (w : Option W64) : exec (.doorbell ⟨port, v + 1⟩ q ⟨false, w⟩) s = .next (if w.isSome then s else s.send (.unsupported port)) := by
  change execDoorbell ⟨port, v + 1⟩ q ⟨false, w⟩ s = _
  unfold execDoorbell
  rw [hpf, decide_eq_false (Nat.not_le.2 hq)]
  simp [hexist, hsec]

theorem wakeDevice_awake (h : (s.vdev v).collapse = .awake) : wakeDevice s v = s := by
  unfold wakeDevice
  rw [h]

/-- The owner of a queue is awake. -/
theorem wakeOwner_awake (hv : s.vdevs = [(v, s.vdev v)]) (hawake : (s.vdev v).collapse = .awake) : wakeOwner s q = s := by
  unfold wakeOwner
  split
  · next d hd =>
    have hmem := List.mem_of_find?_eq_some hd
    rw [hv, List.mem_singleton] at hmem
    rw [hmem]
    exact wakeDevice_awake hawake
  · rfl

theorem seeQueue_noFlips (h : s.flips = []) : seeQueue s q = s := by
  unfold seeQueue
  rw [takeFlip_noFlips h]

variable (hv : s.vdevs = [(v, s.vdev v)]) (hawake : (s.vdev v).collapse = .awake) (hruns : (s.queue q).state.runs = true)
  (hdev : (s.queue q).dev = false) (hflips : s.flips = [])
include hv hawake hruns hdev hflips

/-- A doorbell of a host queue that runs, whose owner is awake, without an error in its entry (R267). -/
theorem ringDoorbell_eq (w : Nat) : ringDoorbell s q w =
    if w ≤ (s.queue q).widx then s
    else if (s.queue q).slots < w - (s.queue q).ridx then stopQueue (queueRecord s q 5 0 0 (s.queue q).ridx 0) q 5
    else
      s.modQueue q (fun x =>
        let st : QState := if x.state == .idle then .ready else x.state
        { x with widx := w, shadowW := w, state := st, shadowS := st }) := by
  unfold ringDoorbell
  rw [wakeOwner_awake hv hawake, seeQueue_noFlips hflips]
  dsimp only
  rw [hruns, hdev]
  rfl

theorem ringDoorbell_more {w : Nat} (hw : (s.queue q).widx < w) (hfits : w - (s.queue q).ridx ≤ (s.queue q).slots) :
    ((ringDoorbell s q w).queue q).widx = w ∧ ((ringDoorbell s q w).queue q).state ≠ .idle ∧
      ((ringDoorbell s q w).queue q).ridx = (s.queue q).ridx := by
  rw [ringDoorbell_eq hv hawake hruns hdev hflips, if_neg (Nat.not_le.2 hw), if_neg (Nat.not_lt.2 hfits), State.queue_modQueue]
  refine ⟨rfl, ?_, rfl⟩
  dsimp only
  split
  · exact fun h => nomatch h
  · next hidle => exact fun h => hidle (beq_iff_eq.2 h)

theorem ringDoorbell_past {w : Nat} (hw : (s.queue q).widx < w) (hpast : (s.queue q).slots < w - (s.queue q).ridx) :
    ((ringDoorbell s q w).queue q).state = .stopped ∧ ((ringDoorbell s q w).queue q).err = 5 ∧
      ((ringDoorbell s q w).queue q).widx = (s.queue q).widx := by
  have hqueue : (queueRecord s q 5 0 0 (s.queue q).ridx 0).queue q = s.queue q := by
    rw [State.queue, State.queue, queueRecord, queueRecordOf, queues_of_offPlies (offPlies_writeRecord _ _)]
  rw [ringDoorbell_eq hv hawake hruns hdev hflips, if_neg (Nat.not_le.2 hw), if_pos hpast, stopQueue, State.queue_modQueue, hqueue]
  exact ⟨rfl, rfl, rfl⟩

end

/-! ## Inbound reads and writes -/

theorem holdInbound_awake {s : State} {v : Nat} (h : (s.vdev v).collapse = .awake) (e : Instr) : holdInbound s v e = none := by
  have hsleeps : ((s.vdev v).exist && (s.vdev v).collapse != .awake) = false := by
    rw [h]
    exact Bool.and_false _
  rw [holdInbound, if_neg (by simp [hsleeps])]

theorem inboundRead_home (s : State) (pa n : Nat) : HomeRead s (inboundRead s pa n).2 ∧ Quiet s (inboundRead s pa n).2 :=
  ⟨HomeRead.foldl (fun t sec => homeRead_homeTouch t (sec * 128) 0) _ s, Quiet.foldl (fun t sec => quiet_homeTouch t (sec * 128) 0) _ s⟩

theorem inboundRead_bytes {s : State} (hs : HomesAgree s) (pa n : Nat) : (inboundRead s pa n).1 = Mem.read s.home pa n :=
  Mem.read_congr fun i _ _ => (inboundRead_home s pa n).1.bytes hs i

theorem readPieces_append (s : State) (l : List (Nat × Nat × Nat)) (x : Nat × Nat × Nat) : readPieces s (l ++ [x]) =
    ((readPieces s l).1 ++ (inboundRead (readPieces s l).2 x.1 x.2.2).1, (inboundRead (readPieces s l).2 x.1 x.2.2).2) := by
  unfold readPieces
  rw [List.foldl_append]
  rfl

/-- Pieces read at the homes, one after the other. -/
theorem readPieces_home (s : State) (l : List (Nat × Nat × Nat)) : HomeRead s (readPieces s l).2 ∧ Quiet s (readPieces s l).2 ∧
    (HomesAgree s → (readPieces s l).1 = l.flatMap (fun x => Mem.read s.home x.1 x.2.2)) := by
  induction l using List.reverseRecOn with
  | nil => exact ⟨.refl s, .refl s, fun _ => rfl⟩
  | append_singleton l x ih =>
    obtain ⟨hread, hquiet, hbytes⟩ := ih
    obtain ⟨kread, kquiet⟩ := inboundRead_home (readPieces s l).2 x.1 x.2.2
    rw [readPieces_append]
    refine ⟨hread.trans kread, hquiet.trans kquiet, fun hs => ?_⟩
    rw [hbytes hs, inboundRead_bytes (hread.homes.homesAgree hs), List.flatMap_append, List.flatMap_singleton,
      Mem.read_congr fun i _ _ => hread.bytes hs i]

theorem inboundPieces_home (v va kind fuel : Nat) : ∀ (s : State) (o n : Nat), HomeRead s (inboundPieces s v va kind o n fuel).2 ∧
    Quiet s (inboundPieces s v va kind o n fuel).2 := by
  induction fuel with
  | zero => exact fun s _ _ => ⟨.refl s, .refl s⟩
  | succ fuel ih =>
    intro s o n
    unfold inboundPieces
    split
    · exact ⟨.refl s, .refl s⟩
    · dsimp only
      split
      · obtain ⟨hread, hquiet⟩ := ih (walkTouch s v ((va + o) % 2 ^ 57)) (o + Nat.min n (4096 - (va + o) % 4096)) (n - Nat.min n (4096 - (va + o) % 4096))
        exact ⟨(homeRead_walkTouch s v _).trans hread, (quiet_walkTouch s v _).trans hquiet⟩
      · exact ⟨homeRead_walkTouch s v _, quiet_walkTouch s v _⟩

/-! ## BAR2 accesses -/

section
variable {s : State} {port : Bool} {vf o n : Nat} {wr : Bool} {d : Bytes} (hpf : onlyPf0 s = false)
include hpf

theorem exec_vfBar2_gone (h : vf = 0 ∨ (s.vdev (vf - 1)).exist = false ∨ (s.vdev (vf - 1)).stopped = true) :
    exec (.vfBar2Access ⟨port, vf⟩ true wr o n d) s = .next (if wr then s else s.send (.completerAbort port)) := by
  have hgone : vf = 0 ∨ (!(s.vdev (vf - 1)).exist) = true ∨ (s.vdev (vf - 1)).stopped = true := by simpa using h
  change execVfBar2Access ⟨port, vf⟩ true wr o n d s = _
  unfold execVfBar2Access
  rw [hpf]
  dsimp only
  rw [if_neg Bool.false_ne_true, if_pos hgone]

variable (hvf : vf ≠ 0) (hexist : (s.vdev (vf - 1)).exist = true) (hruns : (s.vdev (vf - 1)).stopped = false)
include hvf hexist hruns

theorem exec_vfBar2_secure (hsec : (s.vdev (vf - 1)).secure = true) :
    exec (.vfBar2Access ⟨port, vf⟩ false wr o n d) s = .next (if wr then s else s.send (.unsupported port)) := by
  change execVfBar2Access ⟨port, vf⟩ false wr o n d s = _
  unfold execVfBar2Access
  simp [hpf, hvf, hexist, hruns, hsec]

variable (hawake : (s.vdev (vf - 1)).collapse = .awake) {l : List (Nat × Nat × Nat)} {t : State}
include hawake

theorem exec_vfBar2_read (hfits : o + n ≤ 2 ^ 40) (hp : inboundPieces s (vf - 1) o 0 0 n (n / 4096 + 2) = (some l, t)) :
    exec (.vfBar2Access ⟨port, vf⟩ true false o n d) s = .next ((readPieces t l).2.send (.readReply port (readPieces t l).1)) := by
  change execVfBar2Access ⟨port, vf⟩ true false o n d s = _
  unfold execVfBar2Access
  have hplace : ¬ 2 ^ 40 < o + n := Nat.not_lt.2 hfits
  simp only [hpf, hvf, hexist, hruns, holdInbound_awake hawake, b2n, Bool.not_true, Bool.and_false, Bool.false_eq_true, or_self, if_false,
    hplace, hp]

theorem exec_vfBar2_write (hfits : o + d.length ≤ 2 ^ 40) (hp : inboundPieces s (vf - 1) o 1 0 d.length (d.length / 4096 + 2) = (some l, t)) :
    exec (.vfBar2Access ⟨port, vf⟩ true true o n d) s = .next (writePieces t l d) := by
  change execVfBar2Access ⟨port, vf⟩ true true o n d s = _
  unfold execVfBar2Access
  have hplace : ¬ 2 ^ 40 < o + d.length := Nat.not_lt.2 hfits
  simp only [hpf, hvf, hexist, hruns, holdInbound_awake hawake, b2n, Bool.not_true, Bool.and_false, Bool.false_eq_true, or_self, if_false,
    if_true, hplace, hp]

end

/-! ## Accesses of the host -/

theorem allExist_of {pa n : Nat} (h : ∀ i, i < n → paExists (pa + i) = true) : (upFrom pa n).all paExists = true := by
  refine List.all_eq_true.2 fun a ha => ?_
  rw [upFrom_eq] at ha
  obtain ⟨i, hi, rfl⟩ := List.mem_map.1 ha
  exact h i (List.mem_range.1 hi)

section
variable {s : State} {port : Bool} {v pa : Nat} (hpf : onlyPf0 s = false) (hawake : (s.vdev v).collapse = .awake)
include hpf hawake

theorem exec_hostRead {n : Nat} (h : ∀ i, i < n → paExists (pa + i) = true) :
    exec (.hostRead ⟨port, v⟩ pa n) s = .next ((inboundRead s pa n).2.send (.readReply port (inboundRead s pa n).1)) := by
  change execHostRead ⟨port, v⟩ pa n s = _
  unfold execHostRead
  simp only [hpf, holdInbound_awake hawake, allExist_of h, if_true, Bool.false_eq_true, if_false]

/-- An inbound write re-tests no queue where none is parked. -/
theorem exec_hostWrite {d : Bytes} (h : ∀ i, i < d.length → paExists (pa + i) = true) (hparked : ∀ q ∈ s.queues, q.2.state ≠ .parked) :
    exec (.hostWrite v pa d) s = .next (homeWrite s pa d) := by
  have hqueues : (homeWrite s pa d).queues = s.queues := queues_of_offPlies (offPlies_homeWrite s pa d)
  have hwrite : inboundWrite s pa d = homeWrite s pa d := by
    unfold inboundWrite
    dsimp only
    rw [hqueues, List.filterMap_eq_nil_iff.2 fun q hq => ?_]
    · rfl
    · split
      · rw [if_neg]
        simp [hparked q hq]
      · rfl
  change execHostWrite v pa d s = _
  unfold execHostWrite
  simp only [hpf, holdInbound_awake hawake, allExist_of h, if_true, Bool.false_eq_true, if_false, hwrite]

end

end Sys2Proof.Machine
end

section
/-! PROOF. What the host and peers answer (R264, R335, R398), and page request groups (R380). -/
namespace Sys2Proof.Machine

/-! ## Answers -/

section
variable {s : State} {id : Nat} {r : Req} (hr : s.plat.reqs.find? (fun x => x.id == id) = some r) (st : Nat) (d : Bytes)
include hr

theorem exec_completion_read {pa : Nat} (ha : r.ask = .hostRead pa) (hd : d.length = 128) : exec (.hostCompletion id st d) s =
    .next (giveReply (dropReq s id) r.who (if st = 0 then .hostSector id pa d else .hostLost pa)) := by
  have hfit : execHostCompletion.fitOf d 128 = d := by
    unfold execHostCompletion.fitOf
    rw [← hd, List.take_left]
  change execHostCompletion id st d s = _
  unfold execHostCompletion
  rw [hr]
  dsimp only
  rw [ha]
  dsimp only
  rw [hfit]

theorem exec_completion_flush {n : Nat} (ha : r.ask = .flush n) :
    exec (.hostCompletion id st d) s = .next ((dropReq s id).modPlat (fun p => { p with hostDone := Nat.max p.hostDone n })) := by
  change execHostCompletion id st d s = _
  unfold execHostCompletion
  rw [hr]
  dsimp only
  rw [ha]

theorem exec_completion_ratom {x : Nat} (ha : r.ask = .ratom x) :
    exec (.hostCompletion id st d) s = .next (s.later (.ratomReply x (w64 (natLE (d.take 8))) (if st = 0 then 0 else 3))) := by
  change execHostCompletion id st d s = _
  unfold execHostCompletion
  rw [hr]
  dsimp only
  rw [ha]

section
variable {pasid page kind c : Nat} (ha : r.ask = .ats pasid page kind)
include ha

/-- A translation is refused by the host, or is not the one asked for. -/
theorem exec_completion_denied (h : st ≠ 0 ∨ pagePermits (atsPageOf r.vdev pasid page (w64 (natLE (d.take 8)))) kind = false) :
    exec (.hostCompletion id st d) s = .next (giveReply (dropReq s id) r.who (.atsDenied pasid page kind)) := by
  have hno : ¬ (st = 0 ∧ pagePermits (atsPageOf r.vdev pasid page (w64 (natLE (d.take 8)))) kind = true) := by
    rintro ⟨hst, hok⟩
    rcases h with h | h
    · exact h hst
    · rw [hok] at h
      cases h
  change execHostCompletion id st d s = _
  unfold execHostCompletion
  rw [hr]
  dsimp only
  rw [ha]
  dsimp only
  rw [if_neg hno]

variable (hst : st = 0) (hok : pagePermits (atsPageOf r.vdev pasid page (w64 (natLE (d.take 8)))) kind = true) (hcore : whoCore s r.who = some c)
include hst hok hcore

/-- A translation goes to the core of its asker; a translation register is resolved with it. -/
theorem exec_completion_page : exec (.hostCompletion id st d) s = .next (match r.who with
    | .bind p _ => rebind (tlbFill (dropReq s id) c (atsPageOf r.vdev pasid page (w64 (natLE (d.take 8))))) p (·.pending)
    | _ => tlbFill (dropReq s id) c (atsPageOf r.vdev pasid page (w64 (natLE (d.take 8))))) := by
  have hcore' : whoCore (dropReq s id) r.who = some c := hcore
  change execHostCompletion id st d s = _
  unfold execHostCompletion
  rw [hr]
  dsimp only
  rw [ha]
  dsimp only
  rw [if_pos ⟨hst, hok⟩, hcore']
  cases hw : r.who with
  | frag p k f => rfl
  | xfer i => rfl
  | queue q =>
    rw [hw] at hcore
    cases hcore
  | bind p k => rfl

theorem exec_completion_fills (hbind : ∀ p k, r.who ≠ .bind p k) : exec (.hostCompletion id st d) s =
    .next (tlbFill (dropReq s id) c (atsPageOf r.vdev pasid page (w64 (natLE (d.take 8))))) := by
  rw [exec_completion_page hr st d ha hst hok hcore]
  cases hw : r.who with
  | frag p k f => rfl
  | xfer i => rfl
  | queue q => rfl
  | bind p k => exact absurd hw (hbind p k)

theorem exec_completion_rebinds {p k : Nat} (hw : r.who = .bind p k) : exec (.hostCompletion id st d) s =
    .next (rebind (tlbFill (dropReq s id) c (atsPageOf r.vdev pasid page (w64 (natLE (d.take 8))))) p (·.pending)) := by
  rw [exec_completion_page hr st d ha hst hok hcore, hw]

end

/-- A load of a peer's window gets data, poisoned or not, or one of the two failures. -/
theorem exec_response_load {rank off len : Nat} (ha : r.ask = .peerLoad rank off len) : exec (.peerResponse id st d) s =
    .next (giveReply (dropReq s id) r.who (if st = 0 then .peerData rank off d false else if st = 1 then .peerData rank off d true
      else if st = 2 then .peerUnreachable rank off else .peerRefused rank off)) := by
  change execPeerResponse id st d s = _
  unfold execPeerResponse
  rw [hr]
  dsimp only
  rw [ha]
  rfl

theorem exec_loadTimeout {rank off len : Nat} (ha : r.ask = .peerLoad rank off len) : exec (.peerLoadTimeout id) s =
    .next (if s.clock < r.clock + 65536 then s else giveReply (dropReq s id) r.who (.peerUnreachable rank off)) := by
  change execPeerLoadTimeout id s = _
  unfold execPeerLoadTimeout
  rw [hr]
  dsimp only
  rw [ha]

/-- A store entry is acknowledged, or its owner meets its fate. -/
theorem exec_response_store {rank p : Nat} {own : ErrRec} (ha : r.ask = .peerStore rank p own) (hw : ∀ q, r.who ≠ .queue q) :
    exec (.peerResponse id st d) s = .next (if st = 0 then dropReq s id
      else if st = 2 then lostStore (dropReq s id) p own else refusedStore (dropReq s id) p own) := by
  have hqueue : ofQueue r = false := by
    unfold ofQueue
    cases hwho : r.who with
    | queue q => exact absurd hwho (hw q)
    | frag p k f => rfl
    | xfer i => rfl
    | bind p k => rfl
  change execPeerResponse id st d s = _
  unfold execPeerResponse
  rw [hr]
  dsimp only
  rw [ha]
  dsimp only
  rw [hqueue, if_neg Bool.false_ne_true]
  by_cases h0 : st = 0
  · rw [if_pos h0]
    exact congrArg _ (if_pos h0)
  · rw [if_neg h0]
    refine congrArg _ ((if_neg h0).trans ?_)
    by_cases h2 : st = 2
    · rw [if_pos h2]
      exact if_pos h2
    · rw [if_neg h2]
      exact if_neg h2

end

theorem failedStore_live {s : State} {p : Nat} (h : s.livePly p = true) (cls cause : Nat) (own : ErrRec) :
    .containment ⟨p, own.who % 32, own.frag⟩ cls cause 0 own.address ∈ (failedStore s p cls cause own).engine := by
  rw [failedStore, if_pos h]
  exact List.mem_cons_self

/-! ## Page request groups -/

theorem sendGroups_none {s : State} (h : s.plat.groups = []) : sendGroups s = s := by
  rw [sendGroups, h]
  rfl

theorem board_msixVdev (s : State) (v vec : Nat) : (msixVdev s v vec).board = s.board := rfl

theorem board_modFrag (s : State) (p k f : Nat) (h : Frag → Frag) : (s.modFrag p k f h).board = s.board := rfl

theorem board_modXfer (s : State) (id : Nat) (h : Xfer → Xfer) : (s.modXfer id h).board = s.board := rfl

theorem board_writeFault {s t : State} {v : Nat} (h : writeFault s v = some t) : t.board = s.board := by
  unfold writeFault at h
  dsimp only at h
  split at h
  · cases h
  · split at h
    · cases h
    · rw [← Option.some.inj h, board_msixVdev, board_modVdev, board_homeWrite, board_homeWrite]

theorem board_writeFaults (v n : Nat) : ∀ s : State, (writeFaults s v n).board = s.board := by
  induction n with
  | zero => exact fun _ => rfl
  | succ n ih =>
    intro s
    rw [writeFaults]
    split
    · next t ht => exact (ih t).trans (board_writeFault ht)
    · rfl

theorem board_flushFaults (s : State) (v : Nat) : (flushFaults s v).board = s.board := by
  have hwritten := board_writeFaults v (s.vdev v).faults.length s
  unfold flushFaults
  generalize writeFaults s v (s.vdev v).faults.length = t at hwritten
  dsimp only
  split
  · rw [board_modVdev, hwritten]
  · split
    · split
      · rw [board_writeRecord, board_modVdev, hwritten]
      · exact hwritten
    · exact hwritten

theorem board_enterFault (s : State) (w : Who) (p k f : Nat) (pc : W32) (i : FaultInfo) : (enterFault s w p k f pc i).1.board = s.board := by
  unfold enterFault
  dsimp only
  rw [board_flushFaults, board_modVdev]

/-- A group that goes to the fault queue is a group no more; of the platform nothing else changes but messages and traffic. -/
theorem board_groupToQueue (s : State) (g : PriGroup) :
    (groupToQueue s g).board = { s.board with groups := s.plat.groups.filter (fun h => h.id != g.id) } := by
  have hgone : (s.modPlat (fun p => { p with groups := p.groups.filter (fun h => h.id != g.id) })).board =
    { s.board with groups := s.plat.groups.filter (fun h => h.id != g.id) } := rfl
  unfold groupToQueue
  generalize s.modPlat (fun p => { p with groups := p.groups.filter (fun h => h.id != g.id) }) = t at hgone
  dsimp only
  cases hw : g.who with
  | frag p k f =>
    dsimp only
    rw [board_modFrag, board_enterFault, hgone]
  | xfer x =>
    dsimp only
    split
    · rw [board_modXfer, board_enterFault, hgone]
    · exact hgone
  | queue q => exact hgone
  | bind p k => exact hgone

theorem fragOf_modFrag (s : State) (p k f : Nat) (h : Frag → Frag) : (s.modFrag p k f h).fragOf p k f = h (s.fragOf p k f) := by
  simp [State.fragOf, State.modFrag, State.modStrand]

section
variable {s : State} {g : PriGroup} (hg : s.plat.groups = [g])
include hg

theorem filter_onlyGroup : s.plat.groups.filter (fun h => h.id != g.id) = [] := by
  rw [hg]
  simp

theorem groups_groupToQueue : (groupToQueue s g).plat.groups = [] := by
  change (groupToQueue s g).board.groups = []
  rw [board_groupToQueue]
  exact filter_onlyGroup hg

theorem find_onlyGroup (hsent : g.sent = true) : s.plat.groups.find? (fun h => h.id == g.id && h.sent) = some g := by
  rw [hg]
  simp [hsent]

/-- The only group is answered: its fragment goes on. -/
theorem exec_prgSuccess (hsent : g.sent = true) {p k f : Nat} (hw : g.who = .frag p k f) (hlive : s.liveFrag p k f = true) :
    ∃ u, exec (.prgResponseSuccess g.id) s = .next u ∧ (u.fragOf p k f).wait = .none ∧ u.plat.groups = [] := by
  have hdrops : ∀ (pages : List Nat) (t : State), (pages.foldl (fun s a => dropTlb s g.vdev true (s.vdev g.vdev).pasid (a * 4096) (a * 4096 + 4096)) t).plies =
      t.plies ∧ (pages.foldl (fun s a => dropTlb s g.vdev true (s.vdev g.vdev).pasid (a * 4096) (a * 4096 + 4096)) t).plat = t.plat := by
    intro pages
    induction pages with
    | nil => exact fun _ => ⟨rfl, rfl⟩
    | cons a pages ih => exact fun t => ih _
  obtain ⟨hplies, hplat⟩ := hdrops g.pages (s.modPlat (fun q => { q with groups := q.groups.filter (fun h => h.id != g.id) }))
  have hexec : exec (.prgResponseSuccess g.id) s = .next (sendGroups (resumeWho
      (g.pages.foldl (fun s a => dropTlb s g.vdev true (s.vdev g.vdev).pasid (a * 4096) (a * 4096 + 4096))
        (s.modPlat (fun q => { q with groups := q.groups.filter (fun h => h.id != g.id) }))) g.who)) := by
    change execPrgResponseSuccess g.id s = _
    unfold execPrgResponseSuccess
    rw [find_onlyGroup hg hsent]
  rw [hexec]
  generalize List.foldl _ _ g.pages = t at hplies hplat
  have hlive' : t.liveFrag p k f = true := by
    rw [← hlive, State.liveFrag, State.liveFrag, State.livePly, State.livePly, State.ply, State.ply, hplies]
    rfl
  have hresume : resumeWho t g.who = unpark t p k f := by
    rw [hw, resumeWho, if_pos hlive']
  have hgroups : (unpark t p k f).plat.groups = [] := by
    change t.plat.groups = []
    rw [hplat]
    exact filter_onlyGroup hg
  rw [hresume, sendGroups_none hgroups]
  exact ⟨_, rfl, congrArg Frag.wait (fragOf_modFrag t p k f _), hgroups⟩

/-- The only group is invalid: its fragment waits in the fault queue. -/
theorem exec_prgInvalid (hsent : g.sent = true) {p k f : Nat} (hw : g.who = .frag p k f) :
    ∃ u, exec (.prgResponseInvalid g.id) s = .next u ∧ (∃ t, (u.fragOf p k f).wait = .fault t) ∧ u.plat.groups = [] := by
  have hgroups := groups_groupToQueue hg
  have hwait : ∃ t, ((groupToQueue s g).fragOf p k f).wait = .fault t := by
    unfold groupToQueue
    dsimp only
    rw [hw]
    exact ⟨_, congrArg Frag.wait (fragOf_modFrag _ p k f _)⟩
  refine ⟨groupToQueue s g, ?_, hwait, hgroups⟩
  change execPrgResponseInvalid g.id s = _
  unfold execPrgResponseInvalid
  rw [find_onlyGroup hg hsent]
  dsimp only
  rw [sendGroups_none hgroups]

theorem exec_prgFailure : ∃ u, exec (.prgResponseFailure g.fn) s = .next u ∧ u.plat.groups = [] ∧ (Tab.get {} u.plat.fns g.fn).priDead = true := by
  have hfilter : s.plat.groups.filter (fun h => h.fn == g.fn) = [g] := by
    rw [hg]
    simp
  have hexec : exec (.prgResponseFailure g.fn) s = .next ((groupToQueue s g).modPlat
      (fun p => { p with fns := Tab.set {} p.fns g.fn { Tab.get {} p.fns g.fn with priDead := true } })) := by
    change execPrgResponseFailure g.fn s = _
    unfold execPrgResponseFailure
    rw [hfilter]
    rfl
  refine ⟨_, hexec, groups_groupToQueue hg, ?_⟩
  rw [State.modPlat]
  dsimp only
  rw [Tab.get_set, if_pos rfl]

end

end Sys2Proof.Machine
end

section
/-! PROOF. Links (R395 to R398). -/
namespace Sys2Proof.Machine

/-! ## The table of links -/

theorem links_of_board {s t : State} (h : t.board = s.board) : t.plat.links = s.plat.links := by
  change t.board.links = s.board.links
  rw [h]

theorem routes_of_board {s t : State} (h : t.board = s.board) : t.plat.routes = s.plat.routes := by
  change t.board.routes = s.board.routes
  rw [h]

theorem precw_noteInjection (s : State) (r : ErrRec) (n : Nat) : (noteInjection s r n).pf0.precw = s.pf0.precw := by
  unfold noteInjection
  split
  · split <;> rfl
  · rfl

theorem precw_writePackageRecord (s : State) (r : ErrRec) (about : Option Nat) : (writePackageRecord s r about).pf0.precw = s.pf0.precw + 1 :=
  congrArg (· + 1) (precw_noteInjection s r _)

theorem board_linkRecord (s : State) (detail cause : Nat) : (linkRecord s detail cause).board = s.board := board_writePackageRecord s _ _

theorem precw_linkRecord (s : State) (detail cause : Nat) : (linkRecord s detail cause).pf0.precw = s.pf0.precw + 1 := precw_writePackageRecord s _ _

/-- A state after a lane of a link has been tested, which takes the error that waited there. -/
def laneTested (s : State) (l : Link) (lane : Nat) : State :=
  ((takeFlip s (laneFlip l lane) (fun _ => (10, if l.lanes.length ≤ 1 then 4 else 2))).map (·.2)).getD s

theorem laneTested_keeps (s : State) (l : Link) (lane : Nat) : (laneTested s l lane).plat = s.plat ∧ (laneTested s l lane).clock = s.clock ∧
    (laneTested s l lane).pf0.precw = s.pf0.precw := by
  unfold laneTested takeFlip
  split
  · dsimp only [Option.map_some, Option.getD_some]
    split <;> exact ⟨rfl, rfl, rfl⟩
  · exact ⟨rfl, rfl, rfl⟩

theorem laterIf_keeps (c : Prop) {_ : Decidable c} (s : State) (e : Instr) : (if c then s.later e else s).plat = s.plat ∧
    (if c then s.later e else s).plies = s.plies := by
  split
  · exact ⟨State.later_plat s e, State.later_plies s e⟩
  · exact ⟨rfl, rfl⟩

/-! ## What a link that goes down ends -/

theorem board_giveReply (s : State) (w : Who) (r : Reply) : (giveReply s w r).board = s.board := by
  unfold giveReply
  cases w with
  | frag p k f => dsimp only; split <;> rfl
  | xfer id => rfl
  | queue q => rfl
  | bind p k =>
    cases r with
    | atsDenied _ page _ => dsimp only; split <;> rfl
    | _ => rfl

theorem board_failedStore (s : State) (p cls cause : Nat) (own : ErrRec) : (failedStore s p cls cause own).board = s.board := by
  unfold failedStore
  split
  · rfl
  · exact board_writeRecord _ _

/-- LINK_DOWN's end of one request that is in flight on the link. -/
def downReq (s : State) (r : Req) : State :=
  match r.ask with
  | .peerLoad rank off _ => giveReply (dropReq s r.id) r.who (.peerUnreachable rank off)
  | .peerStore _ p own => if ofQueue r then giveReply (dropReq s r.id) r.who .storeLost else lostStore (dropReq s r.id) p own
  | .ratom x => s.later (.ratomReply x 0 2)
  | _ => s

/-- The links and the routes stay, and a request is at most dropped. -/
def Drops (s t : State) : Prop := t.plat.links = s.plat.links ∧ t.plat.routes = s.plat.routes ∧ ∀ q ∈ t.plat.reqs, q ∈ s.plat.reqs

theorem Drops.of_board {s t : State} (h : t.board = s.board) : Drops s t :=
  ⟨links_of_board h, routes_of_board h, fun _ hq => (reqs_of_board h) ▸ hq⟩

theorem Drops.trans {s t u : State} (h : Drops s t) (k : Drops t u) : Drops s u :=
  ⟨k.1.trans h.1, k.2.1.trans h.2.1, fun q hq => h.2.2 q (k.2.2 q hq)⟩

theorem drops_dropReq (s : State) (id : Nat) : Drops s (dropReq s id) := ⟨rfl, rfl, fun _ hq => (List.mem_filter.1 hq).1⟩

theorem drops_downReq (s : State) (r : Req) : Drops s (downReq s r) := by
  unfold downReq
  split
  · exact (drops_dropReq s r.id).trans (.of_board (board_giveReply _ _ _))
  · split
    · exact (drops_dropReq s r.id).trans (.of_board (board_giveReply _ _ _))
    · exact (drops_dropReq s r.id).trans (.of_board (board_failedStore _ _ _ _ _))
  · exact .of_board (board_later s _)
  · exact .of_board rfl

theorem ids_downReq_load (s : State) {r : Req} (h : ∃ a b c, r.ask = .peerLoad a b c) : ∀ q ∈ (downReq s r).plat.reqs, q.id ≠ r.id := by
  obtain ⟨rank, off, len, hask⟩ := h
  unfold downReq
  rw [hask]
  dsimp only
  rw [reqs_of_board (board_giveReply _ _ _)]
  exact fun q hq => bne_iff_ne.1 (List.mem_filter.1 hq).2

theorem drops_downReqs (l : List Req) : ∀ s, Drops s (l.foldl downReq s) := by
  induction l with
  | nil => exact fun s => .of_board rfl
  | cons r l ih => exact fun s => (drops_downReq s r).trans (ih _)

theorem ids_downReqs {r : Req} (hload : ∃ a b c, r.ask = .peerLoad a b c) (l : List Req) : ∀ s, r ∈ l → ∀ q ∈ (l.foldl downReq s).plat.reqs, q.id ≠ r.id := by
  induction l with
  | nil => exact fun _ h => absurd h List.not_mem_nil
  | cons r' l ih =>
    intro s h q hq
    rcases List.mem_cons.1 h with rfl | h
    · exact ids_downReq_load s hload q ((drops_downReqs l _).2.2 q hq)
    · exact ih _ h q hq

/-- LINK_DOWN's notice to one collective. -/
def downColl (s : State) (c : Coll) : State :=
  match s.xfer c.xfer with
  | some x => if (upFrom 0 (xReel s x).nrank).all (rankReached s x) then s else s.later (.collectiveLoss c.id)
  | none => s

theorem board_downColl (s : State) (c : Coll) : (downColl s c).board = s.board := by
  unfold downColl
  split
  · split
    · rfl
    · exact board_later s _
  · rfl

section
variable {s : State} {port lane : Nat} {l : Link} (hl : s.plat.links = [l]) (hp : l.port = port)
include hl hp

theorem links_modLink (f : Link → Link) : (modLink s port f).plat.links = [f l] := by
  unfold modLink State.modPlat
  dsimp only
  rw [hl, List.map_singleton, if_pos (beq_iff_eq.2 hp)]

theorem find_link_up (hup : l.up = true) : s.plat.links.find? (fun l => l.port == port && l.up) = some l := by
  rw [hl]
  simp [hp, hup]

theorem find_link_down (hup : l.up = false) : s.plat.links.find? (fun l => l.port == port && !l.up) = some l := by
  rw [hl]
  simp [hp, hup]

/-! ## A link that is up -/

section
variable (hup : l.up = true)
include hup

theorem exec_linkReplay : ∃ u, exec (.linkReplay port) s = .next u ∧ u.plat.flits = s.plat.flits + 1 ∧ u.plies = s.plies := by
  change ∃ u, execLinkReplay port s = .next u ∧ _
  unfold execLinkReplay
  rw [find_link_up hl hp hup]
  refine ⟨_, rfl, ?_⟩
  obtain ⟨hplat, hplies⟩ := laterIf_keeps _ _ _
  exact ⟨congrArg Platform.flits hplat, hplies⟩

omit hl hp hup in
/-- The lane named is in use. -/
theorem failedLane_inUse (h : l.lanes.contains lane = true) : failedLane s l lane = lane := by
  rw [failedLane, if_pos h]

theorem exec_linkRetrain (hin : l.lanes.contains lane = true) : exec (.linkRetrain port lane) s = .next (
    let t := modLink (laneTested s l lane) port (fun x => { x with inRow := 0, replays := [] })
    if l.lanes.length ≤ 1 then
      (modLink t port (fun x => { x with dead := true, steps := (x.lanes, lane, t.clock) :: x.steps })).urgent (.linkDown port)
    else linkRecord (modLink t port (fun x => { x with lanes := otherHalf x.lanes lane, steps := (x.lanes, lane, t.clock) :: x.steps }))
      (laneName port lane) 2) := by
  change execLinkRetrain port lane s = _
  unfold execLinkRetrain
  rw [find_link_up hl hp hup]
  dsimp only
  rw [failedLane_inUse hin, hin, if_neg (by decide)]
  rfl

theorem exec_linkRetrain_narrows (hin : l.lanes.contains lane = true) (hmore : 1 < l.lanes.length) :
    ∃ u, exec (.linkRetrain port lane) s = .next u ∧
      u.plat.links = [{ l with inRow := 0, replays := [], lanes := otherHalf l.lanes lane, steps := (l.lanes, lane, s.clock) :: l.steps }] ∧
      u.pf0.precw = s.pf0.precw + 1 := by
  obtain ⟨hplat, hclock, hprecw⟩ := laneTested_keeps s l lane
  refine ⟨_, (exec_linkRetrain hl hp hup hin).trans (congrArg _ (if_neg (by omega))), ?_, ?_⟩
  · rw [links_of_board (board_linkRecord _ _ _), links_modLink (links_modLink (by rw [hplat]; exact hl) hp _) hp, ← hclock]
    rfl
  · rw [precw_linkRecord]
    exact congrArg (· + 1) hprecw

theorem exec_linkRetrain_ends (hlanes : l.lanes = [lane]) : ∃ u, exec (.linkRetrain port lane) s = .next u ∧ .linkDown port ∈ u.engine :=
  ⟨_, (exec_linkRetrain hl hp hup (by simp [hlanes])).trans (congrArg _ (if_pos (by simp [hlanes]))), List.mem_cons_self⟩

/-! ## A spare lane -/

section
variable {ls : List Nat} {x c : Nat} {rest : List (List Nat × Nat × Nat)} (hsteps : l.steps = (ls, x, c) :: rest)
include hsteps

theorem exec_spareLane : exec (.spareLaneRetrain port) s = .next (if s.clock < c + 940000000 then s else (takeSpare s l).getD s) := by
  change execSpareLaneRetrain port s = _
  unfold execSpareLaneRetrain
  rw [find_link_up hl hp hup]
  dsimp only
  rw [hsteps]

omit hp hup in
theorem takeSpare_free (hspares : l.spares < 2) (hremap : s.pf0.remap.length < 256) :
    ∃ u, takeSpare s l = some u ∧ u.plat.links = [{ l with lanes := ls, steps := rest, spares := l.spares + 1 }] := by
  have hgroup : groupSpares s l.port = l.spares := by
    unfold groupSpares
    rw [hl]
    simp
  have hroom (kind die place spare : Nat) : (addRemap s kind die place spare).2 = true := by
    unfold addRemap addRemapAt
    rw [if_neg (by omega)]
  unfold takeSpare
  rw [hsteps]
  dsimp only
  rw [if_neg (by omega), hroom, if_neg (by decide)]
  refine ⟨_, rfl, ?_⟩
  rw [links_of_board (board_writePackageRecord _ _ _), links_of_board (board_linkRecord _ _ _),
    links_modLink ((links_of_board (board_addRemap _ _ _ _ _)).trans hl) rfl]

theorem exec_spareLane_free (hclock : c + 940000000 ≤ s.clock) (hspares : l.spares < 2) (hremap : s.pf0.remap.length < 256) :
    ∃ u, exec (.spareLaneRetrain port) s = .next u ∧ u.plat.links = [{ l with lanes := ls, steps := rest, spares := l.spares + 1 }] := by
  obtain ⟨u, hu, hlinks⟩ := takeSpare_free hl hsteps hspares hremap
  refine ⟨u, ?_, hlinks⟩
  rw [exec_spareLane hl hp hup hsteps, if_neg (by omega), hu]
  rfl

end

end

/-! ## A link that is down -/

section
variable (hdown : l.up = false)
include hdown

omit hl hp hdown in
theorem get_foldl_put (p : Nat) (i : Nat) (lost : List Nat) : ∀ r : Tab (Option Nat), (i ∈ lost ∨ Tab.get none r i = some p) →
    Tab.get none (lost.foldl (fun r i => Tab.put i (some p) r) r) i = some p := by
  induction lost with
  | nil => exact fun r h => h.resolve_left (List.not_mem_nil)
  | cons j lost ih =>
    intro r h
    refine ih _ ?_
    rw [Tab.get_put]
    by_cases hij : i = j
    · exact .inr (if_pos hij)
    · rw [if_neg hij]
      exact h.imp_left (fun h => (List.mem_cons.1 h).resolve_left hij)

theorem exec_downLinkRetrain_early (h : s.clock < l.since + 9400000) : exec (.downLinkRetrain port true) s = .next s := by
  change execDownLinkRetrain port true s = _
  unfold execDownLinkRetrain
  rw [find_link_down hl hp hdown]
  dsimp only
  rw [if_pos h]

theorem exec_downLinkRetrain_trains (h : l.since + 9400000 ≤ s.clock) (hdead : l.dead = false) : ∃ u, exec (.downLinkRetrain port true) s = .next u ∧
    (∀ x ∈ u.plat.links, x.up = true ∧ x.lost = []) ∧ ∀ i ∈ l.lost, Tab.get none u.plat.routes i = some port := by
  have hexec : exec (.downLinkRetrain port true) s = .next (linkRecord ((modLink (modLink s port (fun l => { l with since := s.clock })) port
      (fun l => { l with up := true, dead := false, lost := [], inRow := 0, replays := [] })).modPlat
        (fun p => { p with routes := l.lost.foldl (fun r i => Tab.put i (some port) r) p.routes })) 0 2) := by
    change execDownLinkRetrain port true s = _
    unfold execDownLinkRetrain
    rw [find_link_down hl hp hdown]
    dsimp only
    rw [if_neg (by omega), if_neg (by decide), hdead, if_neg (by decide)]
  refine ⟨_, hexec, ?_, fun i hi => ?_⟩
  · rw [links_of_board (board_linkRecord _ _ _)]
    intro x hx
    have hlinks := links_modLink (links_modLink hl hp (fun l => { l with since := s.clock })) hp
      (fun l => { l with up := true, dead := false, lost := [], inRow := 0, replays := [] })
    obtain rfl := List.mem_singleton.1 ((congrArg (x ∈ ·) hlinks).mp hx)
    exact ⟨rfl, rfl⟩
  · rw [routes_of_board (board_linkRecord _ _ _)]
    exact get_foldl_put port i l.lost _ (.inl hi)

end

/-! ## A link that goes down -/

section
variable (hup : l.up = true)
include hup

/-- The state of LINK_DOWN once the link is down and its routes are gone. -/
def linkGone (s : State) (port : Nat) : State :=
  (modLink s port (fun l => { l with up := false, since := s.clock, lost := (s.plat.routes.filter (fun r => r.2 == some port)).map (·.1) })).modPlat
    (fun p => { p with routes := p.routes.filter (fun r => r.2 != some port) })

theorem exec_linkDown_eq : ∃ detail, exec (.linkDown port) s = .next (
    let t := linkRecord (linkGone s port) detail 4
    let u := (t.plat.reqs.filter (fun r => r.link == some port)).foldl downReq t
    u.plat.colls.foldl downColl u) := by
  change ∃ detail, execLinkDown port s = _
  unfold execLinkDown
  rw [find_link_up hl hp hup]
  exact ⟨_, rfl⟩

theorem exec_linkDown : ∃ u, exec (.linkDown port) s = .next u ∧ (∀ x ∈ u.plat.links, x.up = false) ∧ (∀ r ∈ u.plat.routes, r.2 ≠ some port) ∧
    ∀ r ∈ s.plat.reqs, r.link = some port → (∃ a b c, r.ask = .peerLoad a b c) → ∀ q ∈ u.plat.reqs, q.id ≠ r.id := by
  obtain ⟨detail, hexec⟩ := exec_linkDown_eq hl hp hup
  refine ⟨_, hexec, ?_⟩
  have hgone : (linkRecord (linkGone s port) detail 4).board = (linkGone s port).board := board_linkRecord _ _ _
  generalize linkRecord (linkGone s port) detail 4 = t at hgone
  have hcolls (u : State) : (u.plat.colls.foldl downColl u).board = u.board := board_foldl board_downColl _ u
  dsimp only
  generalize hu : (t.plat.reqs.filter (fun r => r.link == some port)).foldl downReq t = u
  obtain ⟨hlinks, hroutes, -⟩ : Drops t u := hu ▸ drops_downReqs _ t
  have hids {r : Req} (hload : ∃ a b c, r.ask = .peerLoad a b c) (hr : r ∈ t.plat.reqs.filter (fun r => r.link == some port)) :
      ∀ q ∈ u.plat.reqs, q.id ≠ r.id := hu ▸ ids_downReqs hload _ t hr
  rw [links_of_board (hcolls u), routes_of_board (hcolls u), reqs_of_board (hcolls u), hlinks, hroutes, links_of_board hgone, routes_of_board hgone]
  refine ⟨fun x hx => ?_, fun r hr => ?_, fun r hr hlink hload => hids hload ?_⟩
  · have hdown := links_modLink hl hp (fun l => { l with up := false, since := s.clock, lost := (s.plat.routes.filter (fun r => r.2 == some port)).map (·.1) })
    obtain rfl := List.mem_singleton.1 ((congrArg (x ∈ ·) hdown).mp hx)
    rfl
  · exact bne_iff_ne.1 (List.mem_filter.1 hr).2
  · rw [reqs_of_board hgone]
    exact List.mem_filter.2 ⟨hr, beq_iff_eq.2 hlink⟩

end

end

end Sys2Proof.Machine
end

section
/-! PROOF. Requests of peers (R201, R335). -/
namespace Sys2Proof.Machine

/-- A request names this package, whose window serves it. -/
theorem peerOurs {s : State} {dst : Nat} (hset : s.pf0.faddr ≠ 0xFFFF) (hdst : dst = s.pf0.faddr.toNat) :
    ¬ (s.pf0.faddr == 0xFFFF || dst != s.pf0.faddr.toNat) = true := by
  rw [beq_eq_false_iff_ne.2 hset, hdst, bne_self_eq_false]
  decide

theorem peerServed {d : VDev} {n : Nat} (hexist : d.exist = true) (hruns : d.stopped = false) (hfits : n ≤ d.xbytes.toNat) :
    ¬ (!d.exist || d.stopped || decide (d.xbytes.toNat < n)) = true := by
  simp [hexist, hruns, hfits]

section
variable {s : State} {src dst v req kind off len op pol : Nat} {d : Bytes} (hpf : onlyPf0 s = false) (hsrc : src ≠ s.pf0.faddr.toNat)
include hpf hsrc

theorem exec_peerRequest_lost (h : s.pf0.faddr = 0xFFFF ∨ dst ≠ s.pf0.faddr.toNat) :
    exec (.peerRequest src dst v req kind ⟨off, pol⟩ len op d) s = .next (s.send (.peerReply src req 2 [])) := by
  have hlost : (s.pf0.faddr == 0xFFFF || dst != s.pf0.faddr.toNat) = true := by simpa using h
  change execPeerRequest src dst v req kind ⟨off, pol⟩ len op d s = _
  unfold execPeerRequest
  dsimp only
  rw [hpf, if_neg Bool.false_ne_true, if_pos hlost, if_neg hsrc]
  rfl

variable (hset : s.pf0.faddr ≠ 0xFFFF) (hdst : dst = s.pf0.faddr.toNat) (hawake : (s.vdev v).collapse = .awake)
include hset hdst hawake

theorem exec_peerRequest_refused (h : (s.vdev v).stopped = true ∨ (s.vdev v).xbytes.toNat < off + len) :
    exec (.peerRequest src dst v req kind ⟨off, pol⟩ len op d) s = .next (s.send (.peerReply src req 3 [])) := by
  have hrefused : (!(s.vdev v).exist || (s.vdev v).stopped || decide ((s.vdev v).xbytes.toNat < off + len)) = true := by
    rcases h with h | h <;> simp [h]
  change execPeerRequest src dst v req kind ⟨off, pol⟩ len op d s = _
  unfold execPeerRequest
  dsimp only
  rw [hpf, if_neg Bool.false_ne_true, if_neg (peerOurs hset hdst), holdInbound_awake hawake]
  dsimp only
  rw [if_pos hrefused, if_neg hsrc]
  rfl

variable (hexist : (s.vdev v).exist = true) (hruns : (s.vdev v).stopped = false) (hfits : off + len ≤ (s.vdev v).xbytes.toNat)
  {va : Nat} (hva : va = (ptrAddr (s.vdev v).xbase + off) % 2 ^ 57) {g : Page}
include hexist hruns hfits hva

theorem exec_peerRequest_load (hg : translateWalk (walkTouch s v va) v va 0 = .ok g)
    (hsound : homePoisoned (homeTouch (walkTouch s v va) (g.phys va) pol) (g.phys va / 128) = false) :
    exec (.peerRequest src dst v req 0 ⟨off, pol⟩ len op d) s = .next (
      let t := homeTouch (walkTouch s v va) (g.phys va) pol
      t.send (.peerReply src req 0 (homeRead t (g.phys va) len))) := by
  change execPeerRequest src dst v req 0 ⟨off, pol⟩ len op d s = _
  unfold execPeerRequest
  dsimp only
  rw [hpf, if_neg Bool.false_ne_true, if_neg (peerOurs hset hdst), holdInbound_awake hawake]
  dsimp only
  rw [if_neg (peerServed hexist hruns hfits), ← hva, if_pos rfl, hg]
  dsimp only
  rw [if_neg hsrc, hsound]
  rfl

theorem exec_peerRequest_atom (hg : translateWalk (walkTouch s v va) v va 2 = .ok g) :
    exec (.peerRequest src dst v req 2 ⟨off, pol⟩ len op d) s = .next (
      let t := homeTouch (walkTouch s v va) (g.phys va) pol
      let old := natLE (homeRead t (g.phys va) (amoBytes op))
      (homeWriteIn t (g.phys va) pol (bytesLE (amoNew op old (fieldAt d 0 8) (fieldAt d 8 8)) (amoBytes op))).send
        (.peerReply src req 0 (bytesLE old 8))) := by
  change execPeerRequest src dst v req 2 ⟨off, pol⟩ len op d s = _
  unfold execPeerRequest
  dsimp only
  rw [hpf, if_neg Bool.false_ne_true, if_neg (peerOurs hset hdst), holdInbound_awake hawake]
  dsimp only
  rw [if_neg (peerServed hexist hruns hfits), ← hva, if_neg (by decide), if_pos rfl, hg]
  exact congrArg _ (if_neg hsrc)

end

/-- What a request's walk and touch of its sector leave: the bytes of device memory, and nothing sent. -/
theorem peerTouch_home (s : State) (v va pa pol : Nat) : HomeRead s (homeTouch (walkTouch s v va) pa pol) ∧ Quiet s (homeTouch (walkTouch s v va) pa pol) :=
  ⟨(homeRead_walkTouch s v va).trans (homeRead_homeTouch _ pa pol), (quiet_walkTouch s v va).trans (quiet_homeTouch _ pa pol)⟩

theorem inSector_of_aligned {pa op : Nat} (h : pa % amoBytes op = 0) : pa % 128 + amoBytes op ≤ 128 := by
  rcases amoBytes_cases op with hn | hn <;> rw [hn] at h ⊢ <;> omega

/-- A remote atomic at its home: what is sent, and the bytes that it leaves. -/
theorem peerAtom_home {s t : State} {pa pol op : Nat} {d : Bytes} (src req : Nat) (hread : HomeRead s t) (hquiet : Quiet s t) (hflips : s.flips = [])
    (hs : HomesAgree s) (hop : op < 27) (halign : pa % amoBytes op = 0) :
    let old := natLE (homeRead t pa (amoBytes op))
    let u := (homeWriteIn t pa pol (bytesLE (amoNew op old (fieldAt d 0 8) (fieldAt d 8 8)) (amoBytes op))).send (.peerReply src req 0 (bytesLE old 8))
    u.plat.out = s.plat.out ++ [.peerReply src req 0 (bytesLE (natLE (Mem.read s.home pa (amoBytes op))) 8)] ∧
      Mem.read u.home pa (amoBytes op) = bytesLE (atomicResult op (natLE (Mem.read s.home pa (amoBytes op))) (fieldAt d 0 8 % 2 ^ (8 * amoBytes op))
        (fieldAt d 8 8 % 2 ^ (8 * amoBytes op))) (amoBytes op) := by
  have hold : homeRead t pa (amoBytes op) = Mem.read s.home pa (amoBytes op) := Mem.read_congr fun i _ _ => hread.bytes hs i
  obtain ⟨hquietFlips, hout⟩ := hquiet hflips
  dsimp only
  rw [hold, amoNew_eq_atomicResult hop (natLE_read_lt _ _ _)]
  generalize atomicResult op _ _ _ = new
  have hlen := length_bytesLE (amoBytes op) new
  obtain ⟨hwrote, -⟩ := wrote_homeWriteIn t (pa := pa) pol (b := bytesLE new (amoBytes op)) (by rw [hlen]; exact inSector_of_aligned halign)
  refine ⟨?_, ?_⟩
  · change (homeWriteIn t pa pol _).plat.out ++ [_] = _
    rw [(quiet_homeWriteIn t pa pol _ hquietFlips).2, hout]
  · have hbytes := hwrote.read
    rwa [hlen] at hbytes

end Sys2Proof.Machine
end

section
/-! PROOF. The list of ATS invalidations and the devices that exist (R262, R264): what an invalidation drops, drains and rolls back touches neither. -/
namespace Sys2Proof.Machine

/-- The invalidations of the host that wait, and which virtual devices exist. -/
def State.registry (s : State) : List Inval × (Nat → Bool) := (s.plat.invals, fun v => (s.vdev v).exist)

theorem registry_of {s t : State} (hi : t.plat.invals = s.plat.invals) (hv : t.vdevs = s.vdevs) : t.registry = s.registry := by
  unfold State.registry State.vdev
  rw [hi, hv]

theorem registry_of_board {s t : State} (hb : t.board = s.board) (hv : t.vdevs = s.vdevs) : t.registry = s.registry := by
  refine registry_of ?_ hv
  change t.board.invals = s.board.invals
  rw [hb]

theorem invals_of_registry {s t : State} (h : t.registry = s.registry) : t.plat.invals = s.plat.invals := congrArg (·.1) h

theorem exist_of_registry {s t : State} (h : t.registry = s.registry) (v : Nat) : (t.vdev v).exist = (s.vdev v).exist :=
  congrFun (congrArg (·.2) h) v

theorem registry_foldl {α : Type} {f : State → α → State} (h : ∀ s x, (f s x).registry = s.registry) (l : List α) :
    ∀ s, (l.foldl f s).registry = s.registry := by
  induction l with
  | nil => exact fun _ => rfl
  | cons x l ih => exact fun s => (ih _).trans (h s x)

theorem registry_later (s : State) (e : Instr) : (s.later e).registry = s.registry :=
  registry_of_board (board_later s e) (State.later_vdevs s e)

theorem registry_modCore (s : State) (c : Nat) (f : Core → Core) : (s.modCore c f).registry = s.registry := rfl

theorem registry_modBay (s : State) (b : Nat) (f : Bay → Bay) : (s.modBay b f).registry = s.registry := rfl
theorem registry_modPly (s : State) (p : Nat) (f : Ply → Ply) : (s.modPly p f).registry = s.registry := rfl

theorem registry_modVdev (s : State) (v : Nat) {f : VDev → VDev} (hf : ∀ d, (f d).exist = d.exist) :
    (s.modVdev v f).registry = s.registry := by
  refine Prod.ext rfl (funext fun w => ?_)
  change ((s.modVdev v f).vdev w).exist = (s.vdev w).exist
  by_cases hw : w = v
  · subst hw
    rw [State.vdev_modVdev, hf]
  · exact congrArg VDev.exist (Tab.get_set_ne _ _ hw _)

/-! ## Homes and records -/

theorem registry_homeRead {s t : State} (hb : t.board = s.board) (h : HomeRead s t) : t.registry = s.registry :=
  registry_of_board hb (congrArg (·.2.2.2.2.2.2.2.1) h.tables)

theorem registry_walkTouch (s : State) (vn va : Nat) : (walkTouch s vn va).registry = s.registry :=
  registry_homeRead (board_walkTouch s vn va) (homeRead_walkTouch s vn va)

theorem registry_homeTouch (s : State) (pa pol : Nat) : (homeTouch s pa pol).registry = s.registry :=
  registry_homeRead (board_homeTouch s pa pol) (homeRead_homeTouch s pa pol)

theorem registry_touchRank (s : State) (reel rank : Nat) : (touchRank s reel rank).registry = s.registry :=
  registry_homeRead (board_touchRank s reel rank) (homeRead_touchRank s reel rank)

theorem vdevs_homeWrote (s : State) (sec pol : Nat) (whole : Bool) : (homeWrote s sec pol whole).vdevs = s.vdevs := by
  have hread {s t : State} (h : HomeRead s t) : t.vdevs = s.vdevs := congrArg (·.2.2.2.2.2.2.2.1) h.tables
  have hclear : (clearWritten s sec whole).vdevs = s.vdevs := by
    unfold clearWritten
    split
    · have hcount := hread (homeRead_countHome s (sec * 128))
      exact (hread (homeRead_dropFlips _ _)).trans hcount
    · exact hread (homeRead_countHome s (sec * 128))
  rw [homeWrote_eq]
  change (markWritten (clearWritten s sec whole) sec pol).vdevs = _
  refine Eq.trans ?_ hclear
  unfold markWritten
  split
  · rfl
  · have hfill := hread (homeRead_l2Fill (clearWritten s sec whole) sec (policyPrio pol))
    exact hfill

theorem vdevs_readUnder (s : State) (sec : Nat) (whole : Bool) : (readUnder s sec whole).vdevs = s.vdevs := by
  unfold readUnder
  split
  · rfl
  · exact congrArg (·.2.2.2.2.2.2.2.1) (homeRead_detectHome s sec).tables

theorem registry_homeWriteIn (s : State) (pa pol : Nat) (b : Bytes) : (homeWriteIn s pa pol b).registry = s.registry :=
  registry_of_board (board_homeWriteIn s pa pol b) ((vdevs_homeWrote _ _ _ _).trans (vdevs_readUnder s _ _))

theorem registry_homeWrite (s : State) (pa : Nat) (b : Bytes) : (homeWrite s pa b).registry = s.registry := by
  unfold homeWrite
  generalize b.length / 128 + 2 = fuel
  induction fuel generalizing s pa b with
  | zero => rfl
  | succ fuel ih =>
    unfold homeWriteAll
    split
    · rfl
    · exact (ih _ _ _).trans (registry_homeWriteIn s pa 0 _)

theorem registry_homeDrain (s : State) (sec pol : Nat) (c : Tab (Byte × Byte)) (poison : Bool) : (homeDrain s sec pol c poison).registry = s.registry := by
  refine registry_of_board (board_homeDrain s sec pol c poison) ?_
  have hcells : (drainCells s sec pol c).vdevs = s.vdevs := (vdevs_homeWrote _ _ _ _).trans (vdevs_readUnder s _ _)
  rw [← hcells]
  unfold homeDrain drainCells
  dsimp only
  split
  · split <;> rfl
  · rfl

theorem registry_noteInjection (s : State) (r : ErrRec) (n : Nat) : (noteInjection s r n).registry = s.registry := by
  unfold noteInjection
  split
  · split <;> rfl
  · rfl

theorem registry_writeRecord (s : State) (r : ErrRec) : (writeRecord s r).registry = s.registry := by
  have hsent (t : State) (v : Nat) : (msixVdev t v 0).registry = t.registry := rfl
  unfold writeRecord
  dsimp only
  split
  · rfl
  · have hnumber : (noteInjection (s.modVdev r.vdev (fun v => { v with recNo := v.recNo + 1 })) r (s.vdev r.vdev).recNo).registry = s.registry := by
      rw [registry_noteInjection, registry_modVdev]
      exact fun _ => rfl
    split
    · exact hnumber
    · rw [hsent, registry_modVdev, registry_homeWrite, registry_homeWrite]
      · exact hnumber
      · exact fun _ => rfl

/-! ## What drains -/

theorem registry_failedStore (s : State) (p cls cause : Nat) (own : ErrRec) : (failedStore s p cls cause own).registry = s.registry := by
  unfold failedStore
  split
  · rfl
  · exact registry_writeRecord s _

theorem registry_seeEntry (s : State) (c : Nat) (e : LogEntry) : (seeEntry s c e).registry = s.registry := by
  unfold seeEntry
  split
  · rfl
  · dsimp only
    split <;> rfl

theorem registry_seeEntry_entryError (s : State) (c : Nat) (e : LogEntry) :
    (if e.bad then entryError (seeEntry s c e) e else seeEntry s c e).registry = s.registry := by
  split
  · exact (registry_failedStore _ _ _ _ _).trans (registry_seeEntry s c e)
  · exact registry_seeEntry s c e

theorem registry_wakeDevice (s : State) (v : Nat) : (wakeDevice s v).registry = s.registry := by
  unfold wakeDevice
  split
  · exact (registry_later _ _).trans (registry_modVdev s v fun _ => rfl)
  · exact (registry_later _ _).trans (registry_modVdev s v fun _ => rfl)
  · rfl

theorem registry_holdInbound {s t : State} {v : Nat} {e : Instr} (h : holdInbound s v e = some t) : t.registry = s.registry := by
  unfold holdInbound at h
  split at h
  · rw [← Option.some.inj h]
    exact (registry_wakeDevice _ v).trans (registry_modVdev s v fun _ => rfl)
  · cases h

theorem registry_sendPeerStore (s : State) (c : Nat) (e : LogEntry) (mate : Option LogEntry) (rank : Nat) :
    (sendPeerStore s c e mate rank).registry = s.registry := by
  have htouch : (touchRank (countFor s e.vdev) (s.ply e.ply).reel rank).registry = s.registry := registry_touchRank _ _ _
  unfold sendPeerStore
  dsimp only
  refine Eq.trans ?_ htouch
  generalize touchRank (countFor s e.vdev) (s.ply e.ply).reel rank = r
  split
  · exact registry_failedStore r _ _ _ _
  · split
    · split
      · next t ht => exact registry_holdInbound (t := t) ht
      · split
        · split
          · exact (registry_foldl (fun _ _ => registry_homeDrain _ _ _ _ _) _ _).trans (registry_walkTouch r _ _)
          · exact (registry_failedStore _ _ _ _ _).trans (registry_walkTouch r _ _)
        · exact registry_failedStore r _ _ _ _
    · split
      · exact registry_failedStore r _ _ _ _
      · rfl

theorem registry_dropL1 (s : State) (c key : Nat) : (dropL1 s c key).registry = s.registry := by
  unfold dropL1
  dsimp only
  have hdropped : (if key % 4 = 2 then s.modCore c (fun x => { x with dropped := s.fresh }) else s).registry = s.registry := by split <;> rfl
  refine Eq.trans ?_ hdropped
  generalize (if key % 4 = 2 then s.modCore c (fun x => { x with dropped := s.fresh }) else s) = r
  split
  · split <;> rfl
  · rfl

theorem registry_updateL1 (s : State) (c pa n : Nat) : (updateL1 s c pa n).registry = s.registry := by
  unfold updateL1
  dsimp only
  split
  · rfl
  · split
    · exact registry_dropL1 s c _
    · rfl

theorem registry_droppedRed (s : State) (o : RedOwner) : (droppedRed s o).registry = s.registry := by
  unfold droppedRed containLater
  dsimp only
  split
  · rfl
  · exact registry_writeRecord s _

theorem registry_performRed (s : State) (r : RedOp) : (performRed s r).registry = s.registry := by
  have hgone : ({ s with reds := s.reds.filter (fun q => q.id != r.id) } : State).registry = s.registry := rfl
  unfold performRed
  dsimp only
  refine Eq.trans ?_ ((registry_homeTouch _ r.pa 0).trans hgone)
  generalize homeTouch _ r.pa 0 = t
  split
  · exact registry_foldl registry_droppedRed _ _
  · refine (registry_foldl (fun u o => ?_) _ _).trans (registry_homeWriteIn t _ _ _)
    split
    · exact registry_updateL1 u _ _ _
    · rfl

theorem registry_performReds (s : State) (pick : RedOp → Bool) : (performReds s pick).registry = s.registry :=
  registry_foldl registry_performRed _ s

theorem registry_forgetReads (s : State) (c : Nat) (e : LogEntry) : (forgetReads s c e).registry = s.registry := by
  unfold forgetReads
  split <;> rfl

theorem registry_drainRaw (s : State) (c : Nat) (e : LogEntry) : (drainRaw s c e).registry = s.registry := by
  have htaken (es : List LogEntry) : ((es.foldl (fun s g => if g.bad then entryError (seeEntry s c g) g else seeEntry s c g) s).modCore c
      (fun x => { x with log := x.log.filter (fun g => es.all (fun h => g.serial != h.serial)) })).registry = s.registry :=
    registry_foldl (fun t g => registry_seeEntry_entryError t c g) es s
  have hgone (t : State) (g : LogEntry) : (dropL1 (unpin (forgetReads t c g) c g.serial) c g.key).registry = t.registry :=
    (registry_dropL1 _ _ _).trans (registry_forgetReads t c g)
  unfold drainRaw
  dsimp only
  refine (registry_foldl (fun t g => ?_) _ _).trans ?_
  · split
    · exact hgone t g
    · exact hgone t g
  · cases e.space with
    | dev => exact ((registry_homeDrain _ _ _ _ _).trans (registry_performReds _ _)).trans (htaken _)
    | host pasid => exact htaken _
    | peer rank => exact (registry_sendPeerStore _ _ _ _ _).trans (htaken _)

theorem registry_drainBehind (fuel : Nat) : ∀ (s : State) (c serial : Nat), (drainBehind s c serial fuel).registry = s.registry := by
  induction fuel with
  | zero => exact fun _ _ _ => rfl
  | succ fuel ih =>
    intro s c serial
    unfold drainBehind
    split
    · rfl
    · split
      · rfl
      · next e _ _ =>
        have hfirst := registry_foldl (fun t (x : Nat × LogEntry) => ih t x.1 x.2.serial) (drainAfter s c e) s
        dsimp only
        split
        · exact hfirst
        · split
          · exact (registry_drainRaw _ _ _).trans hfirst
          · exact hfirst

theorem registry_drainEntry (s : State) (c serial : Nat) : (drainEntry s c serial).registry = s.registry := registry_drainBehind 64 s c serial

theorem registry_drainWhere (s : State) (c : Nat) (pick : LogEntry → Bool) : (drainWhere s c pick).registry = s.registry :=
  registry_foldl (fun t (e : LogEntry) => registry_drainEntry t c e.serial) _ s

theorem registry_numberEntries (s : State) (c n : Nat) : (numberEntries s c n).1.registry = s.registry := by
  unfold numberEntries
  dsimp only
  rw [registry_foldl (fun t (e : LogEntry) => registry_later t _), registry_modCore,
    registry_foldl (fun t (e : LogEntry) => registry_seeEntry_entryError t c e)]

theorem registry_boundRecords (s : State) (b : Nat) : (boundRecords s b).registry = s.registry := by
  unfold boundRecords
  dsimp only
  split <;> rfl

theorem registry_publish (s : State) (c : Nat) : (publish s c).registry = s.registry := by
  unfold publish
  dsimp only
  rw [registry_boundRecords, registry_modBay, registry_modCore, registry_numberEntries,
    registry_foldl (fun t (u : LogEntry) => registry_drainEntry t c u.serial)]

theorem registry_releaseLocal (s : State) (c sc : Nat) : (releaseLocal s c sc).registry = s.registry := by
  unfold releaseLocal
  dsimp only
  refine Eq.trans ?_ (registry_performReds s (fun r => r.ofBay s (coreBay c)))
  split
  · rfl
  · split
    · exact registry_publish _ c
    · exact (registry_foldl (fun t (x : Nat × LogEntry) => registry_drainEntry t x.1 x.2.serial) _ _).trans (registry_publish _ c)

/-! ## Translation registers -/

theorem registry_lookup (s : State) (c vn : Nat) (host : Bool) (pasid va : Nat) : (lookup s c vn host pasid va).2.registry = s.registry := by
  unfold lookup
  split
  · rfl
  · split
    · rfl
    · split
      · rfl
      · dsimp only
        split
        · exact registry_walkTouch s vn va
        · exact registry_walkTouch s vn va

theorem registry_resolveX (s : State) (c vn : Nat) (g g' : Seg) (base limit : W64) : (resolveX s c vn g g' base limit).2.2.registry = s.registry := by
  have hfound : (if bits base 60 4 == 4 then lookup s c vn true (bits (if bits base 60 4 == 4 then g' else g).base 0 20) (bits base 0 57)
      else lookup s c vn false 0 (bits base 0 57)).2.registry = s.registry := by
    split <;> exact registry_lookup _ _ _ _ _ _
  unfold resolveX
  dsimp only
  generalize (if bits base 60 4 == 4 then g' else g) = seg at hfound
  generalize (if bits base 60 4 == 4 then lookup s c vn true (bits seg.base 0 20) (bits base 0 57)
      else lookup s c vn false 0 (bits base 0 57)) = found at hfound
  split
  · split <;> exact hfound
  · exact hfound

theorem registry_rebindOne (s : State) (p k i : Nat) (x : XReg) : (rebindOne s p k i x).registry = s.registry := by
  have hfound := registry_resolveX s (s.ply p).core (s.ply p).vdev (Tab.get {} ((s.ply p).strand k).g 0) (Tab.get {} ((s.ply p).strand k).g 4)
    x.base x.limit
  unfold rebindOne
  dsimp only
  generalize resolveX s (s.ply p).core (s.ply p).vdev (Tab.get {} ((s.ply p).strand k).g 0) (Tab.get {} ((s.ply p).strand k).g 4)
    x.base x.limit = r at hfound
  split <;> exact hfound

theorem registry_rebind (s : State) (p : Nat) (pick : XReg → Bool) : (rebind s p pick).registry = s.registry := by
  refine registry_foldl (fun t y => registry_foldl (fun u x => ?_) _ t) _ s
  split
  · exact registry_rebindOne u _ _ _ _
  · rfl

theorem registry_dropWalks (s : State) (v : Nat) (host : Bool) (pasid lo hi : Nat) : (dropWalks s v host pasid lo hi).registry = s.registry := by
  unfold dropWalks
  dsimp only
  refine (registry_foldl (fun t p => registry_rebind t _ _) _ _).trans ?_
  change (if host then _ else s : State).registry = _
  split <;> rfl

/-! ## Rollbacks -/

theorem registry_withdraw (s : State) (p : Nat) : (withdraw s p).registry = s.registry := registry_modVdev s _ fun _ => rfl

theorem registry_cancelWork (s : State) (p : Nat) : (cancelWork s p).registry = s.registry := rfl

theorem registry_undoGranule (s : State) (p g : Nat) (j : Granule) : (undoGranule s p g j).registry = s.registry := by
  unfold undoGranule
  dsimp only
  have hcounted : (if j.single then countCore (loseReservations s (.scratch p (128 * g))) ((loseReservations s (.scratch p (128 * g))).ply p).core
      (fun n => { n with array := n.array + 1 }) else loseReservations s (.scratch p (128 * g))).registry = s.registry := by
    split <;> rfl
  generalize (if j.single then countCore (loseReservations s (.scratch p (128 * g))) ((loseReservations s (.scratch p (128 * g))).ply p).core
      (fun n => { n with array := n.array + 1 }) else loseReservations s (.scratch p (128 * g))) = t at hcounted ⊢
  have hfired : (if j.injected then fireInjection t 6 (if j.bad then 6 else 1) else t).registry = t.registry := by
    split <;> rfl
  generalize (if j.injected then fireInjection t 6 (if j.bad then 6 else 1) else t) = u at hfired ⊢
  refine Eq.trans ?_ (hfired.trans hcounted)
  split
  · exact registry_writeRecord _ _
  · rfl

theorem registry_undoJournal (s : State) (p : Nat) : (undoJournal s p).registry = s.registry :=
  registry_foldl (fun t (g : Nat × Granule) => registry_undoGranule t p g.1 g.2) (s.ply p).journal s

theorem registry_dropHeld (s : State) (p : Nat) : (dropHeld s p).registry = s.registry := by
  change (if (s.core (s.ply p).core).log.any (fun e => e.ply == p && e.held && e.injected) then disarm s else s).registry = _
  split <;> rfl

theorem registry_emptyL1 (s : State) (c : Nat) : (emptyL1 s c).registry = s.registry :=
  registry_foldl (fun t _ => registry_foldl (fun u (x : Nat × Nat) => registry_drainEntry u x.1 x.2) _ t) _ s

theorem registry_askFlush (s : State) (w : Who) (v n : Nat) : (askFlush s w v n).registry = s.registry := by
  unfold askFlush
  split <;> rfl

theorem registry_goOnMoving (s : State) (p : Nat) : (goOnMoving s p).registry = s.registry := by
  unfold goOnMoving
  split
  · rfl
  · split <;> rfl
  · next c _ =>
    dsimp only
    have hdrained := registry_drainWhere s c (fun e => e.ply == p)
    generalize drainWhere s c (fun e => e.ply == p) = t at hdrained
    split
    · exact hdrained
    · have hempty := (registry_emptyL1 t (t.ply p).core).trans hdrained
      generalize emptyL1 t (t.ply p).core = u at hempty
      split
      · exact hempty
      · exact (registry_askFlush u _ _ _).trans hempty

theorem registry_moveTo (s : State) (p c : Nat) : (moveTo s p c).registry = s.registry := by
  unfold moveTo
  dsimp only
  split
  · rfl
  · exact registry_goOnMoving _ p

theorem registry_settleVacate (s : State) (k : Nat) : (settleVacate s k).registry = s.registry := by
  unfold settleVacate
  split
  · rfl
  · exact registry_later _ _

theorem registry_saveContext (s : State) (p : Nat) : (saveContext s p).registry = s.registry := by
  unfold saveContext
  dsimp only
  rw [registry_settleVacate, registry_modPly, registry_modVdev, registry_releaseLocal]
  exact fun _ => rfl

theorem registry_saveIfAsked (s : State) (p : Nat) : (saveIfAsked s p).registry = s.registry := by
  unfold saveIfAsked
  split
  · split
    · exact registry_saveContext s p
    · exact registry_later _ _
  · rfl

theorem registry_rollbackPly (s : State) (p cls cause : Nat) : (rollbackPly s p cls cause).registry = s.registry := by
  have hundone : (dropHeld (undoJournal (cancelWork (withdraw s p) p) p) p).registry = s.registry :=
    (registry_dropHeld _ p).trans ((registry_undoJournal _ p).trans ((registry_cancelWork _ p).trans (registry_withdraw s p)))
  unfold rollbackPly
  dsimp only
  generalize dropHeld (undoJournal (cancelWork (withdraw s p) p) p) p = t at hundone
  refine (registry_saveIfAsked _ p).trans ((registry_rebind _ p _).trans ?_)
  exact (registry_moveTo _ p _).trans hundone

/-- An invalidation of host translations, which re-tests no queue. -/
theorem registry_invalidate_host (s : State) (v pasid lo hi : Nat) : (invalidate s v true pasid lo hi).registry = s.registry := by
  unfold invalidate
  dsimp only
  rw [if_pos rfl]
  refine (registry_foldl (fun t p => ?_) _ _).trans ?_
  · split
    · exact registry_rollbackPly t p 0 0
    · rfl
  · refine (registry_foldl (fun t c => registry_drainWhere t c _) _ _).trans ?_
    exact (registry_performReds _ _).trans (registry_dropWalks _ v true pasid lo hi)

end Sys2Proof.Machine
end

section
/-! PROOF. ATS invalidations (R262, R264). -/
namespace Sys2Proof.Machine

/-- ATS_INVALIDATE_REQUEST's part for one virtual device. -/
def atsStep (pasid lo hi : Nat) (r : State × Before) (v : Nat) : State × Before :=
  if (r.1.vdev v).exist then
    let t := invalidate r.1 v true pasid lo hi
    let b := beforeNow t v true pasid lo hi
    (t, { reqs := r.2.reqs ++ b.reqs, entries := r.2.entries ++ b.entries })
  else r

/-- The state that holds an invalidation which waits for b. -/
def addInval (s : State) (tag : Nat) (b : Before) : State := s.modPlat (fun p => { p with invals := p.invals ++ [{ tag := tag, before := b }] })

theorem exec_atsInvalidate {s : State} (hpf : onlyPf0 s = false) (tag pasid n : Nat) (va : W64) : exec (.atsInvalidateRequest tag pasid va n) s = .next (
    let r := (upFrom 0 16).foldl (atsStep pasid (bits va 0 57 / 4096 * 4096) (roundUp (bits va 0 57 + n) 4096)) (s, { reqs := [], entries := [] })
    endInvals (addInval r.1 tag r.2)) := by
  change execAtsInvalidateRequest tag pasid va n s = _
  unfold execAtsInvalidateRequest
  rw [hpf, if_neg Bool.false_ne_true]
  rfl

theorem atsSteps_absent (pasid lo hi : Nat) {r : State × Before} {l : List Nat} (h : ∀ v ∈ l, (r.1.vdev v).exist = false) :
    l.foldl (atsStep pasid lo hi) r = r := by
  induction l with
  | nil => rfl
  | cons v l ih =>
    have hv : atsStep pasid lo hi r v = r := by
      unfold atsStep
      rw [h v List.mem_cons_self, if_neg Bool.false_ne_true]
    rw [List.foldl_cons, hv]
    exact ih fun w hw => h w (List.mem_cons_of_mem _ hw)

/-- The invalidation of a device leaves every other device as absent as it was. -/
theorem atsSteps_one {pasid lo hi v : Nat} {s t : State} (ht : invalidate s v true pasid lo hi = t) (hregistry : t.registry = s.registry)
    (hexist : (s.vdev v).exist = true) (hothers : ∀ w, w ≠ v → (s.vdev w).exist = false) {l : List Nat} (hmem : v ∈ l) (hl : l.Nodup) :
    l.foldl (atsStep pasid lo hi) (s, { reqs := [], entries := [] }) = (t, beforeNow t v true pasid lo hi) := by
  induction l with
  | nil => cases hmem
  | cons w l ih =>
    obtain ⟨hw, hl⟩ := List.nodup_cons.1 hl
    rw [List.foldl_cons, atsStep]
    by_cases hwv : w = v
    · rw [hwv] at hw ⊢
      rw [if_pos hexist, ht]
      exact atsSteps_absent pasid lo hi fun x hx => (exist_of_registry hregistry x).trans (hothers x fun h => hw (h ▸ hx))
    · rw [hothers w hwv, if_neg Bool.false_ne_true]
      exact ih ((List.mem_cons.1 hmem).resolve_left fun h => hwv h.symm) hl

theorem endInvals_met {t : State} {b : Before} (hnone : t.plat.invals = []) (hmet : b.met t = true) (tag : Nat) :
    endInvals (addInval t tag b) = t.send (.atsDone tag) := by
  have hall : (addInval t tag b).plat.invals.filter (fun i => i.before.met (addInval t tag b)) = [⟨tag, b⟩] := by
    change (t.plat.invals ++ [({ tag := tag, before := b } : Inval)]).filter (fun (i : Inval) => i.before.met t) = _
    rw [hnone, List.nil_append, List.filter_cons_of_pos (p := fun (i : Inval) => i.before.met t) hmet]
    rfl
  have hgone : (t.plat.invals ++ [({ tag := tag, before := b } : Inval)]).erase { tag := tag, before := b } = t.plat.invals := by
    rw [hnone]
    simp
  unfold endInvals
  rw [hall]
  change ({ t with plat := { t.plat with out := t.plat.out ++ [.atsDone tag], invals := (t.plat.invals ++ [({ tag := tag, before := b } : Inval)]).erase { tag := tag, before := b } } } : State) = _
  rw [hgone]
  rfl

theorem endInvals_waits {t : State} {b : Before} (hnone : t.plat.invals = []) (hmet : b.met t = false) (tag : Nat) :
    endInvals (addInval t tag b) = addInval t tag b := by
  have hall : (addInval t tag b).plat.invals.filter (fun i => i.before.met (addInval t tag b)) = [] := by
    change (t.plat.invals ++ [({ tag := tag, before := b } : Inval)]).filter (fun (i : Inval) => i.before.met t) = _
    rw [hnone, List.nil_append, List.filter_cons_of_neg (by rw [hmet]; exact Bool.false_ne_true)]
    rfl
  unfold endInvals
  rw [hall]
  rfl

section
variable {s : State} (hpf : onlyPf0 s = false) (hnone : s.plat.invals = []) (tag pasid n : Nat) (va : W64)
include hpf hnone

theorem exec_atsInvalidate_absent (h : ∀ v, v < 16 → (s.vdev v).exist = false) :
    exec (.atsInvalidateRequest tag pasid va n) s = .next (s.send (.atsDone tag)) := by
  have hmet : ({ reqs := [], entries := [] } : Before).met s = true := by simp [Before.met]
  have habsent : ∀ v ∈ upFrom 0 16, (s.vdev v).exist = false := fun v hv => by
    rw [upFrom_eq] at hv
    obtain ⟨i, hi, rfl⟩ := List.mem_map.1 hv
    exact h _ (by rw [Nat.zero_add]; exact List.mem_range.1 hi)
  rw [exec_atsInvalidate hpf, atsSteps_absent _ _ _ habsent]
  exact congrArg _ (endInvals_met hnone hmet tag)

theorem exec_atsInvalidate_one {v : Nat} (hv : v < 16) (hexist : (s.vdev v).exist = true) (hothers : ∀ w, w ≠ v → (s.vdev w).exist = false) :
    let t := invalidate s v true pasid (bits va 0 57 / 4096 * 4096) (roundUp (bits va 0 57 + n) 4096)
    let b := beforeNow t v true pasid (bits va 0 57 / 4096 * 4096) (roundUp (bits va 0 57 + n) 4096)
    (b.met t = true → exec (.atsInvalidateRequest tag pasid va n) s = .next (t.send (.atsDone tag))) ∧
    (b.met t = false → ∃ u, exec (.atsInvalidateRequest tag pasid va n) s = .next u ∧ u.plat.invals = [⟨tag, b⟩] ∧ u.plat.out = t.plat.out) := by
  have hmem : v ∈ upFrom 0 16 := by
    rw [upFrom_eq]
    exact List.mem_map.2 ⟨v, List.mem_range.2 hv, Nat.zero_add v⟩
  generalize hlo : bits va 0 57 / 4096 * 4096 = lo
  generalize hhi : roundUp (bits va 0 57 + n) 4096 = hi
  have hregistry := registry_invalidate_host s v pasid lo hi
  generalize ht : invalidate s v true pasid lo hi = t at hregistry
  have hinvals : t.plat.invals = [] := (invals_of_registry hregistry).trans hnone
  have hexec := exec_atsInvalidate hpf tag pasid n va
  rw [hlo, hhi, atsSteps_one ht hregistry hexist hothers hmem (by decide)] at hexec
  refine ⟨fun hmet => hexec.trans (congrArg _ (endInvals_met hinvals hmet tag)), fun hmet => ⟨_, hexec, ?_⟩⟩
  dsimp only
  rw [endInvals_waits hinvals hmet]
  refine ⟨?_, rfl⟩
  change t.plat.invals ++ [_] = _
  rw [hinvals]
  rfl

end

end Sys2Proof.Machine
end

section
/-! PROOF. Inbound traffic (R201, R249, R262, R264, R267, R327, R335, R380, R395 to R398, R405): the obligation. -/
namespace Sys2Proof.Machine

theorem exist_other {s : State} {v w : Nat} (hv : s.vdevs = [(v, s.vdev v)]) (h : w ≠ v) : (s.vdev w).exist = false := by
  rw [State.vdev, hv, Tab.get, Tab.find, if_neg (Ne.symm h)]
  rfl

theorem exec_vfBar2_reads {s : State} {port : Bool} {vf o n : Nat} {d : Bytes} {l : List (Nat × Nat × Nat)} (hpf : onlyPf0 s = false) (hvf : vf ≠ 0)
    (hexist : (s.vdev (vf - 1)).exist = true) (hruns : (s.vdev (vf - 1)).stopped = false) (hawake : (s.vdev (vf - 1)).collapse = .awake)
    (hfits : o + n ≤ 2 ^ 40) (hl : (inboundPieces s (vf - 1) o 0 0 n (n / 4096 + 2)).1 = some l) (hflips : s.flips = []) (hs : HomesAgree s) :
    ∃ u, exec (.vfBar2Access ⟨port, vf⟩ true false o n d) s = .next u ∧
      u.plat.out = s.plat.out ++ [.readReply port (l.flatMap (fun x => Mem.read s.home x.1 x.2.2))] := by
  obtain ⟨hread, hquiet⟩ := inboundPieces_home (vf - 1) o 0 (n / 4096 + 2) s 0 n
  have hp : inboundPieces s (vf - 1) o 0 0 n (n / 4096 + 2) = (some l, (inboundPieces s (vf - 1) o 0 0 n (n / 4096 + 2)).2) := Prod.ext hl rfl
  generalize (inboundPieces s (vf - 1) o 0 0 n (n / 4096 + 2)).2 = t at hread hquiet hp
  obtain ⟨hnone, hout⟩ := hquiet hflips
  obtain ⟨-, hquiet', hbytes⟩ := readPieces_home t l
  have hsame : (fun x : Nat × Nat × Nat => Mem.read t.home x.1 x.2.2) = fun x => Mem.read s.home x.1 x.2.2 :=
    funext fun x => Mem.read_congr fun i _ _ => hread.bytes hs i
  refine ⟨_, exec_vfBar2_read hpf hvf hexist hruns hawake hfits hp, ?_⟩
  change (readPieces t l).2.plat.out ++ [_] = _
  rw [(hquiet' hnone).2, hout, hbytes (hread.homes.homesAgree hs), hsame]

theorem exec_hostRead_reads {s : State} {port : Bool} {v pa n : Nat} (hpf : onlyPf0 s = false) (hawake : (s.vdev v).collapse = .awake)
    (h : ∀ i, i < n → paExists (pa + i) = true) (hflips : s.flips = []) (hs : HomesAgree s) :
    ∃ u, exec (.hostRead ⟨port, v⟩ pa n) s = .next u ∧ u.plat.out = s.plat.out ++ [.readReply port (Mem.read s.home pa n)] ∧
      ∀ a, Mem.byte u.home a = Mem.byte s.home a := by
  obtain ⟨hread, hquiet⟩ := inboundRead_home s pa n
  refine ⟨_, exec_hostRead hpf hawake h, ?_, hread.bytes hs⟩
  change (inboundRead s pa n).2.plat.out ++ [_] = _
  rw [(hquiet hflips).2, inboundRead_bytes hs]

theorem exec_peerRequest_loads {s : State} {src dst v req off len op pol va : Nat} {d : Bytes} {g : Page} (hpf : onlyPf0 s = false)
    (hsrc : src ≠ s.pf0.faddr.toNat) (hset : s.pf0.faddr ≠ 0xFFFF) (hdst : dst = s.pf0.faddr.toNat) (hawake : (s.vdev v).collapse = .awake)
    (hexist : (s.vdev v).exist = true) (hruns : (s.vdev v).stopped = false) (hfits : off + len ≤ (s.vdev v).xbytes.toNat)
    (hva : va = (ptrAddr (s.vdev v).xbase + off) % 2 ^ 57) (hflips : s.flips = []) (hg : translateWalk (walkTouch s v va) v va 0 = .ok g)
    (hsound : homePoisoned (homeTouch (walkTouch s v va) (g.phys va) pol) (g.phys va / 128) = false) :
    ∃ u b, exec (.peerRequest src dst v req 0 ⟨off, pol⟩ len op d) s = .next u ∧ u.plat.out = s.plat.out ++ [.peerReply src req 0 b] ∧
      (HomesAgree s → b = Mem.read s.home (g.phys va) len) := by
  have hexec := exec_peerRequest_load (req := req) (op := op) (d := d) hpf hsrc hset hdst hawake hexist hruns hfits hva hg hsound
  obtain ⟨hread, hquiet⟩ := peerTouch_home s v va (g.phys va) pol
  generalize homeTouch (walkTouch s v va) (g.phys va) pol = t at hread hquiet hexec
  refine ⟨_, _, hexec, ?_, fun hs => Mem.read_congr fun i _ _ => hread.bytes hs i⟩
  change t.plat.out ++ [_] = _
  rw [(hquiet hflips).2]
  rfl

/-- A store entry that is lost or refused contains its live owner. -/
theorem exec_response_contains {s : State} {id rank p : Nat} {r : Req} {own : ErrRec} (hr : s.plat.reqs.find? (fun x => x.id == id) = some r)
    (ha : r.ask = .peerStore rank p own) (hw : ∀ q, r.who ≠ .queue q) (hlive : s.livePly p = true) (d : Bytes) :
    ∃ u w, exec (.peerResponse id 2 d) s = .next u ∧ .containment ⟨p, own.who % 32, own.frag⟩ 10 5 0 own.address ∈ u.engine ∧
      exec (.peerResponse id 3 d) s = .next w ∧ .containment ⟨p, own.who % 32, own.frag⟩ 6 9 0 own.address ∈ w.engine := by
  have hlive' : (dropReq s id).livePly p = true := hlive
  refine ⟨lostStore (dropReq s id) p own, refusedStore (dropReq s id) p own, ?_, failedStore_live hlive' 10 5 own, ?_, failedStore_live hlive' 6 9 own⟩
  · rw [exec_response_store hr 2 d ha hw, if_neg (by decide), if_pos rfl]
  · rw [exec_response_store hr 3 d ha hw, if_neg (by decide), if_neg (by decide)]

/-- Settles O56: every event of the host ports, of the fabric and of the links is its meaning's own branch under the statement's conditions; walks
and reads at the homes change no byte where the homes agree, and an invalidation leaves the list of invalidations as it was. -/
theorem inboundResults : Obligations.InboundResults := by
  unfold Obligations.InboundResults
  refine ⟨?doorbells, ?bar2, ?host, ?answers, ?invalidations, ?groups, ?peers, ?links⟩
  case doorbells =>
    intro s port q v x hpf hq
    refine ⟨fun hv _ _ _ hawake hruns hdev hflips => ?_, exec_doorbell_read hpf hq, exec_doorbell_secure hpf hq⟩
    rw [exec_doorbell_write hpf hq]
    refine ⟨fun hle => ?_, fun hlt hfits => ⟨_, rfl, ringDoorbell_more hv hawake hruns hdev hflips hlt hfits⟩,
      fun hlt hpast => ⟨_, rfl, ringDoorbell_past hv hawake hruns hdev hflips hlt hpast⟩⟩
    rw [ringDoorbell_eq hv hawake hruns hdev hflips, if_pos hle]
  case bar2 =>
    intro s port vf o n wr d hpf
    refine ⟨exec_vfBar2_gone hpf, exec_vfBar2_secure hpf, fun l hvf hexist hruns hawake => ⟨fun hwr hfits hl hflips hs => ?_, fun hwr hfits t hp => ?_⟩⟩
    · rw [hwr]
      exact exec_vfBar2_reads hpf hvf hexist hruns hawake hfits hl hflips hs
    · rw [hwr]
      exact exec_vfBar2_write hpf hvf hexist hruns hawake hfits hp
  case host =>
    intro s port v pa n d hpf hawake
    refine ⟨exec_hostRead_reads hpf hawake, fun h hparked => ?_⟩
    have hwrote := wrote_homeWrite s pa d
    exact ⟨_, exec_hostWrite hpf hawake h hparked, hwrote.read, fun hs _ _ => hwrote.outside hs⟩
  case answers =>
    intro s id st d r hr
    refine ⟨fun _ => exec_completion_read hr st d, fun n ha => ⟨_, exec_completion_flush hr st d ha, rfl, fun x hx => ?_⟩,
      fun pasid page kind c ha hcore => ⟨fun hst hok => exec_completion_fills hr st d ha hst hok hcore,
        fun hst hok p k hw => exec_completion_rebinds hr st d ha hst hok hcore hw, exec_completion_denied hr st d ha⟩,
      fun x => exec_completion_ratom hr st d, fun rank off len ha => ⟨exec_response_load hr 0 d ha, exec_response_load hr 1 d ha,
        exec_response_load hr 2 d ha, exec_response_load hr 3 d ha, fun hearly => ?_, fun hlate => ?_⟩,
      fun rank p own ha hw => ⟨exec_response_store hr 0 d ha hw, fun hlive => exec_response_contains hr ha hw hlive d⟩⟩
    · exact bne_iff_ne.1 (List.mem_filter.1 hx).2
    · rw [exec_loadTimeout hr ha, if_pos hearly]
    · rw [exec_loadTimeout hr ha, if_neg (Nat.not_lt.2 hlate)]
  case invalidations =>
    intro s tag pasid n va hpf hnone
    exact ⟨exec_atsInvalidate_absent hpf hnone tag pasid n va, fun v hvs hv hexist =>
      exec_atsInvalidate_one hpf hnone tag pasid n va hv hexist fun w hw => exist_other hvs hw⟩
  case groups =>
    intro s g hg hsent
    exact ⟨fun p k f hw hlive => ⟨exec_prgSuccess hg hsent hw hlive, exec_prgInvalid hg hsent hw⟩, exec_prgFailure hg⟩
  case peers =>
    intro s src dst v req kind off len op pol d hpf hsrc
    refine ⟨exec_peerRequest_lost hpf hsrc, fun hset hdst hawake => exec_peerRequest_refused hpf hsrc hset hdst hawake,
      fun g hset hdst hexist hruns hawake hfits hflips => ⟨fun hkind hg hsound => ?_, fun hkind hop hg halign => ?_⟩⟩
    · rw [hkind]
      exact exec_peerRequest_loads hpf hsrc hset hdst hawake hexist hruns hfits rfl hflips hg hsound
    · rw [hkind]
      obtain ⟨hread, hquiet⟩ := peerTouch_home s v ((ptrAddr (s.vdev v).xbase + off) % 2 ^ 57) (g.phys ((ptrAddr (s.vdev v).xbase + off) % 2 ^ 57)) pol
      exact ⟨_, exec_peerRequest_atom hpf hsrc hset hdst hawake hexist hruns hfits rfl hg,
        fun hs => peerAtom_home src req hread hquiet hflips hs hop halign⟩
  case links =>
    intro s port lane l hl hp
    refine ⟨fun hup => ⟨exec_linkReplay hl hp hup, exec_linkRetrain_narrows hl hp hup, exec_linkRetrain_ends hl hp hup,
      fun ls x c rest hsteps => ⟨fun hearly => ?_, exec_spareLane_free hl hp hup hsteps⟩, exec_linkDown hl hp hup⟩,
      fun hdown => ⟨exec_downLinkRetrain_early hl hp hdown, exec_downLinkRetrain_trains hl hp hdown⟩⟩
    rw [exec_spareLane hl hp hup hsteps, if_pos hearly]

end Sys2Proof.Machine
end
